-- ==== Sys2Proof/Word.lean ====
section
/-! DEFINITION. The word types of the model and its unit of time.

Bits the manual numbers (register words, digests, addresses in a field) are bit vectors; unit numbers, counts, offsets
and instants are `Nat` or `Fin`. Geyser time is one count of 2^-32 ns (R380: the sub-nanosecond accumulator's unit), so
that every comparison of instants is exact (R4, R534). -/

namespace Sys2Proof

abbrev Byte := BitVec 8
abbrev W16 := BitVec 16
abbrev W32 := BitVec 32
abbrev W64 := BitVec 64
abbrev W128 := BitVec 128
abbrev W256 := BitVec 256

/-- An instant or a span of Geyser time, in units of 2^-32 ns. -/
abbrev Time := Nat

/-- A sparse table: pairs of a key and a value, keys strictly rising, no pair that holds the table's default. -/
abbrev KMap (α : Type) := List (Nat × α)

/-- `n` nanoseconds. -/
def ns (n : Nat) : Time := 4294967296 * n
/-- `n` microseconds. -/
def us (n : Nat) : Time := ns (n * 1000)
/-- `n` milliseconds. -/
def ms (n : Nat) : Time := us (n * 1000)
/-- `n` seconds. -/
def sec (n : Nat) : Time := ms (n * 1000)

end Sys2Proof
end

