-- ==== Sys2Proof/Syntax.lean ====
section
/-! DEFINITION. The commands of the block, one constructor per row of spec/opcode_table.json, and the types of their
operands, taken from the layouts of the manual. `at` is the stamp of R534: the Geyser instant at which an arrival or an
outside event is taken. A timed event carries none: its instant follows from the state. -/

namespace Sys2Proof

/-! ### Denec packets (12 R311, Table 12.7) -/

/-- Where a packet stands: in the COMMAND queue of that number, or in the mailbox (R304). -/
inductive Path where
  | ring (queue : Nat)
  | mailbox
  deriving DecidableEq, Repr

/-- A Denec packet: the header of Table 12.7, the 16 inline bytes 0x20 to 0x2F, and the payload bytes after the header. -/
structure Packet where
  opcode : W16
  flags : W16 := 0
  length : W32 := 64
  counter : W64 := 1
  session : W16 := 0
  partition : Byte := 0xFF
  priority : Byte := 0
  context : W32 := 0
  tag : W64 := 0
  inl : List Byte := List.replicate 16 0
  check : W128 := 0
  payload : List Byte := []
  deriving DecidableEq, Repr

/-! ### Evidence records (03 R79, Table 3.3) -/

/-- An evidence record as it stands in the ring: header, payload bytes and padding after them, trailer. -/
structure Record where
  version : Byte := 1
  flags : W16 := 0
  context : W32
  seq : W64
  layer : W16 := 0
  reserved : W16 := 0
  tile : W32 := 0
  length : W32 := 0
  captureNs : W32 := 0
  payload : List Byte := []
  trailer : W32 := 0
  deriving DecidableEq, Repr

/-! ### Plans (02 R38 to R50, 04 R116, 08 R202)

A plan as its bytes spell it (Machine/PlanRead.lean): the fields the manual lays out, and, for the parts whose layout the
manual does not publish (TENSORS, DEMANDS, the descriptors of SENTINEL, the code of a kernel), what those parts say. -/

/-- A section directory entry (Table 2.3). -/
structure SectionEntry where
  type : W16
  version : W16 := 1
  offset : W32
  length : W32
  reserved : W32 := 0
  deriving DecidableEq, Repr

/-- A context template (Table 2.5). -/
structure Template where
  index : Nat
  partition : Nat
  grade : Nat
  deadlineUs : Nat
  rate : Nat
  retentionUs : Nat := 2000
  firstCheck : Nat
  checkCount : Nat
  firstRelation : Nat := 0
  relationCount : Nat := 0
  inputCount : Nat := 1
  outputCount : Nat := 1
  flags : W16 := 0
  outputs : Nat := 0
  reserved : Bool := true
  deriving DecidableEq, Repr

/-- A check entry (Table 2.6). -/
structure CheckEntry where
  kind : Nat
  k : Nat := 0
  flags : W16 := 0
  firstLayer : Nat := 0
  lastLayer : Nat := 0
  output : Nat
  envelope : W32 := 0xFFFFFFFF
  kernel : Nat := 0
  streamOrRelation : Nat := 0
  reserved : W64 := 0
  deriving DecidableEq, Repr

/-- An envelope entry (Table 2.9); the three parameters are fp32 patterns. -/
structure Envelope where
  ea : W32
  er : W32
  es : W32
  mode : Nat := 0
  format : Byte
  reserved : W16 := 0
  deriving DecidableEq, Repr

/-- A relation entry (Table 2.11) with its six parameters (Table 2.12). -/
structure Relation where
  kind : Nat
  subjectOutput : Nat
  sentinelOutput : Nat
  reserved : Byte := 0
  classMap : W32 := 0xFFFFFFFF
  p : List W32 := List.replicate 6 0
  deriving DecidableEq, Repr

/-- A tensor descriptor (Table 2.4, type 0x000A): format code, dimensions in the declared order, tile count, and the
layer that produces the tensor (R65). -/
structure TensorDesc where
  format : Byte
  dims : List Nat
  tiles : Nat
  layer : Nat
  deriving DecidableEq, Repr, Inhabited

/-- A run of consecutive tiles of one layer (Table 3.9). -/
structure Run where
  layer : Nat
  first : Nat
  count : Nat
  deriving DecidableEq, Repr, Inhabited

/-- An argument descriptor of a kernel container (Table 8.5). -/
structure KernelArg where
  kind : Nat
  access : Nat
  reserved : W16 := 0
  index : Nat := 0
  value : W64 := 0
  deriving DecidableEq, Repr

/-- A kernel container (Table 8.4). `decodes` says whether every instruction decodes, no branch leaves the code and the
entry is an instruction boundary (R202; the encoding is not published). `inputs` are the layers whose tensors the kernel
reads, `deps` the input tiles of each output tile (R86: the input mapping), `bytes` the whole container. -/
structure Kernel where
  magic : W32 := 0x4C4E524B
  version : W16 := 1
  flags : W16 := 0
  length : Nat
  codeOffset : Nat
  codeLength : Nat
  constOffset : Nat
  constLength : Nat
  entry : Nat := 0
  gridX : Nat := 1
  gridY : Nat := 1
  gridZ : Nat := 1
  groupBundles : Nat := 1
  signals : Nat := 0
  localMem : Nat := 0
  scratch : Nat := 0
  dmaChannels : Nat := 0
  cores : Nat := 1
  issueSteps : Nat
  tensorSteps : Nat
  retired : Nat := 0
  hbmRead : Nat := 0
  hbmWrite : Nat := 0
  mesh : Nat := 0
  args : List KernelArg := []
  reservedZero : Bool := true
  decodes : Bool := true
  inputs : List Nat := []
  deps : List (Nat × List Run) := []
  bytes : List Byte := []
  deriving DecidableEq, Repr

/-- A blob's entry of WEIGHT_DIGESTS (Table 2.4, type 0x0007). -/
structure WeightDigest where
  blob : W32
  length : Nat
  digest : W256
  deriving DecidableEq, Repr

/-- A golden entry (Table 4.6). -/
structure GoldenEntry where
  index : Nat
  period : Nat
  phase : Nat
  kernelSection : Nat
  partition : Nat
  kernel : Nat
  inputTensor : Nat
  inputBlob : W32
  outputTensor : Nat
  inputRoot : W256
  outputDigest : W256
  reserved18 : W64 := 0
  reserved60 : Bool := true
  deriving DecidableEq, Repr

/-- Thindi's declared demand terms (10 R257): evidence bytes and HBM bytes of one result, scratch in MiB, and the depth
of the challenge queue (R82). -/
structure Demands where
  evidenceBytes : Nat := 0
  hbmBytes : Nat := 0
  scratchMiB : Nat := 0
  challengeDepth : Nat := 0
  deriving DecidableEq, Repr, Inhabited

/-- What the code of a kernel container says: whether every instruction decodes, no branch leaves the code and the entry is
an instruction boundary (R202), the layers whose tensors the kernel reads, and the input tiles of each output tile (R86). -/
structure CodeParts where
  decodes : Bool := true
  inputs : List Nat := []
  deps : List (Nat × List Run) := []
  deriving DecidableEq, Repr, Inhabited

/-- What the sections say whose layout the manual does not publish: TENSORS, DEMANDS, the output descriptors that follow the
containers of SENTINEL with the number of those containers, and the code of the containers in their order. -/
structure PlanParts where
  tensors : List TensorDesc := []
  demands : Demands := {}
  sentinelOutputs : List TensorDesc := []
  sentinelCount : Nat := 0
  network : List CodeParts := []
  sentinel : List CodeParts := []
  deriving DecidableEq, Repr, Inhabited

/-- A plan container (Table 2.2) with its sections. `raw` are all its bytes, those of the signature block of R38 at the end,
and `signature` the 64 bytes that start the block. -/
structure Plan where
  magic : W32 := 0x4E414C50
  containerVersion : W16 := 1
  reserved06 : W16 := 0
  identifier : W64
  version : W64
  totalLength : Nat
  sectionCount : Nat
  templateCount : Nat
  minFirmware : W32 := 0
  reserved24 : W32 := 0
  thindi : W64 := 0
  signer : W128
  reserved40 : Bool := true
  sections : List SectionEntry := []
  templates : List Template := []
  checks : List CheckEntry := []
  envelopes : List Envelope := []
  relations : List Relation := []
  classMaps : List (Nat × List (Nat × Nat)) := []
  network : List Kernel := []
  sentinel : List Kernel := []
  sentinelOutputs : List TensorDesc := []
  weightDigests : List WeightDigest := []
  demands : Demands := {}
  golden : List GoldenEntry := []
  goldenCount : Nat := golden.length
  goldenReserved : Bool := true
  tensors : List TensorDesc := []
  raw : List Byte := []
  signature : BitVec 512 := 0
  deriving DecidableEq, Repr

/-! ### Outputs of a kernel

The code encoding is not published: what a kernel stores is a function of its container, its inputs and its weights
(R115, `Config.kernelTile`), and a command that completes a kernel says what a hardware fault has changed in it. -/

/-- One reference element: its bit pattern in the output format, and its magnitude sum Ŝ in binary64 (R166). -/
structure RefElem where
  bits : W32
  mag : W64 := 0
  deriving DecidableEq, Repr

/-- A detection: box corners and confidence as fp32 patterns, and a class (02, Plausibility relations). -/
structure Detection where
  x0 : W32
  y0 : W32
  x1 : W32
  y1 : W32
  conf : W32
  cls : Nat
  deriving DecidableEq, Repr

/-- An output as a relation reads it (Table 2.12). -/
inductive OutputView where
  | detections (d : List Detection)
  | classes (conf : List W32)
  | grid (rows cols : Nat) (cells : List Nat) (scores : List W32)
  | values (format : Byte) (v : List W32)
  deriving DecidableEq, Repr, Inhabited

/-- What a hardware fault has changed in a run (none of it where the hardware works): tiles of outputs, as output, tile and
the bytes found, and the root that a digest unit found for a golden input. -/
structure RunUpset where
  tiles : List (Nat × Nat × List Byte) := []
  root : Option W256 := none
  deriving DecidableEq, Repr

/-! ### Camera packets and Ethernet (04 Table 4.1) -/

/-- One RFC 4175 line segment with its payload bytes. -/
structure LineSegment where
  fbit : Bool := false
  line : Nat
  offset : Nat
  data : List Byte
  deriving DecidableEq, Repr

/-- A packet as a TAP port receives it. `fcsOk`, `ipOk`, `udpOk` are what the check of its Ethernet FCS, IPv4 header
checksum and UDP checksum finds; `drained` bytes have left the port's receive buffer since the last arrival (R138). -/
structure TapPacket where
  fcsOk : Bool := true
  ipOk : Bool := true
  udpOk : Bool := true
  tags : Nat := 0
  vlan : Nat := 0
  size : Nat := 1500
  ipv6 : Bool := false
  ipOptions : Bool := false
  fragmented : Bool := false
  dst : W32
  udpPort : Nat
  rtpVersion : Nat := 2
  padding : Bool := false
  csrc : Nat := 0
  payloadType : Nat := 96
  ssrc : W32
  rtp : W32
  seq : W32
  marker : Bool := false
  segments : List LineSegment
  drained : Nat := 262144
  deriving DecidableEq, Repr

/-! ### PTP (15 R390) -/

/-- The identity and quality an Announce carries (IEEE 1588 data set comparison). -/
structure AnnounceData where
  priority1 : Nat
  clockClass : Nat
  accuracy : Nat := 0xFE
  variance : Nat := 0xFFFF
  priority2 : Nat
  identity : W64
  steps : Nat := 0
  deriving DecidableEq, Repr

/-- A PTP message: its domain, sequenceId, source port identity, correction and the time stamp it carries (ns, with the
fraction in 2^-16 ns), and whether its two-step flag is set. -/
structure PtpMessage where
  domain : Nat := 0
  sequenceId : W16 := 0
  source : W64 := 0
  correction : Int := 0
  stamp : Time := 0
  twoStep : Bool := false
  deriving DecidableEq, Repr

/-- A reply (Table 12.8). -/
structure Reply where
  status : W16 := 0
  opcode : W16 := 0
  flags : W16 := 0
  counter : W64 := 0
  tag : W64 := 0
  result : W64 := 0
  check : W128 := 0
  deriving DecidableEq, Repr

/-- A verdict record (Table 2.16). -/
structure VerdictRecord where
  context : W32
  verdict : Nat
  grade : Nat
  sent : Bool := false
  fallback : Bool := false
  seq : Nat
  reasons : W32 := 0
  failLayer : Nat := 0xFFFF
  failCheck : Nat := 0xFFFF
  failTile : Nat := 0xFFFFFFFF
  alive : Nat := 0
  device : Nat := 0
  capture : Time := 0
  instant : Time := 0
  deriving DecidableEq, Repr

/-! ### Fabric (19 Tables 19.3 to 19.6) -/

/-- The payload of a journal record (Table 19.6); `opened` is the CONTEXT_OPEN payload. -/
inductive JournalBody where
  | command (session : W16) (p : Packet)
  | final (session : W16) (r : Reply)
  | accept (seq : Nat) (capture : Time)
  | held (r : VerdictRecord)
  | context (state : Nat) (consumed : Nat) (nextAlive : W16) (opened : List Byte)
  | map (device : Nat) (hostDomain : Nat)
  | member (device : Nat) (role : Nat) (inService : Bool) (serial : W128)
  | checkpoint (oldest : Nat)
  deriving DecidableEq, Repr

/-- A journal record (Table 19.5). -/
structure JournalRecord where
  origin : Nat := 0
  context : W32 := 0
  seq : Nat
  instant : Time
  body : JournalBody
  deriving DecidableEq, Repr

/-- The frame header of Table 19.3, less the type; `checkOk` is what the check under the pair's key finds (R465), `port` the
port at which the frame arrives. -/
structure FabricHeader where
  port : Fin 4 := 0
  source : Nat
  dest : Nat
  fabric : W64
  frameSeq : Nat
  sendTime : Time
  checkOk : Bool := true
  deriving DecidableEq, Repr

/-- The resume data of a TAKEOVER: the context, the failed device, and the context's CONTEXT_OPEN parameters and
consumed sequence as the manager holds them (R478). -/
structure TakeoverData where
  context : W32
  failed : Nat
  planId : W64
  planVersion : W64
  template : Nat
  slot : Nat
  streams : List Nat
  outPort : Nat
  firstSeq : Nat
  unclaimed : Nat := 3
  verdictExp : Nat := 6
  verdictBase : W64 := 0
  consumed : Nat := 0
  evExp : Nat := 18
  evBase : W64 := 0
  chExp : Nat := 8
  planned : Bool := false
  deriving DecidableEq, Repr

/-- A slot of a verdict ring as it is read back (R479): its index and its 64 bytes. -/
structure RingSlot where
  index : Nat
  bytes : List Byte
  deriving DecidableEq, Repr

/-! ### Cores, engines and memory -/

/-- The types of the vector unit (R190). -/
inductive VecType where
  | int32 | uint32 | fp32
  deriving DecidableEq, Repr

/-- A vector operation on one lane's 32-bit registers (08 R190, R191); the conversions go between the vector unit's types, and
between one of them and a format of Table 7.1, saturating or not. -/
inductive VecOp where
  | iadd | isub | imul | band | bor | bxor | shl | shr | sar
  | fadd | fsub | fmul | fma
  | iltu | ilts | ieq | flt | feq
  | select | mov
  | requant (m : W32) (h : Nat) (z : W32) (signed : Bool)
  | convert (src dst : VecType) (saturate : Bool)
  | toFormat (src : VecType) (fmt : Byte) (saturate : Bool)
  | ofFormat (fmt : Byte) (dst : VecType) (saturate : Bool)
  deriving DecidableEq, Repr

/-- The special functions of Table 8.1. -/
inductive SpecialFn where
  | div | sqrt | recip | rsqrt | exp2 | exp | log2 | log | tanh | sigmoid | erf | sin | cos
  deriving DecidableEq, Repr

/-- A 32-bit integer atomic (Table 8.3). -/
inductive AtomicOp where
  | add | min (signed : Bool) | max (signed : Bool) | exchange | compareExchange (expected : W32)
  deriving DecidableEq, Repr

/-- A signal operation (Table 8.2). -/
inductive SignalOp where
  | post (n : Nat)
  | wait (n : Nat)
  | test (dst : Fin 64)
  deriving DecidableEq, Repr

/-- A place in a core's local memory: an offset in the kernel's constants, or in the pass's own allocation (R195). -/
structure LocalAddr where
  const : Bool := false
  off : Nat
  deriving DecidableEq, Repr

/-- Where a device address starts: at an argument register, or at the kernel's shared SRAM scratch (R203). -/
inductive DevBase where
  | arg (i : Fin 32)
  | scratch
  deriving DecidableEq, Repr

/-- An end of a DMA transfer: a byte of the local memory of a core of the cluster, or a device address (R126, R135). -/
inductive DmaPlace where
  | core (i : Fin 4) (off : Nat)
  | device (base : DevBase) (off : Nat)
  deriving DecidableEq, Repr

/-- An engine operation with the parameters of Table 7.2. A and B stand in local memory, elements packed without gaps: A is 32
rows of K, B is K rows of 32; the E8M0 scales of an MX operand are a run of bytes, for each row of A or column of B one for
each block of 32 indices. -/
structure EngineOp where
  pair : Nat
  fmtA : Byte
  fmtB : Byte
  k : Nat
  aAddr : LocalAddr
  bAddr : LocalAddr
  scaleA : LocalAddr := { off := 0 }
  scaleB : LocalAddr := { off := 0 }
  start : Bool := true
  drain : Option Byte := none
  saturate : Bool := true
  mag : Bool := false
  outAddr : LocalAddr := { off := 0 }
  sAddr : LocalAddr := { off := 0 }
  deriving DecidableEq, Repr

/-- A bundle instruction by its class (Table 8.3); the encoding is not published, so the instruction that issues is the
command's operand. Register numbers are 0 to 63. A lane's local address is an offset in the constants or in the allocation, a
device address an offset from a base; `bytes` per lane go to or come from consecutive registers. `branch` gives the lanes whose
register is not zero the branch, `rejoin` stands at the post-dominator that Thindi marks (R189), and `argument` reads a scalar or
an address that the launch has bound (R203). -/
inductive BundleInstr where
  | branch (pred : Fin 64)
  | rejoin
  | setMask (mask : W64)
  | argument (dst : Fin 64) (i : Fin 32) (high : Bool)
  | barrier
  | finish
  | vec (op : VecOp) (dst a b c : Fin 64)
  | special (fn : SpecialFn) (dst a b : Fin 64)
  | imm (dst : Fin 64) (value : W32)
  | laneReduceAdd (dst a : Fin 64) (float : Bool)
  | lanePermute (dst a idx : Fin 64)
  | loadLocal (dst addr : Fin 64) (const : Bool) (bytes : Nat)
  | storeLocal (src addr : Fin 64) (const : Bool) (bytes : Nat)
  | atomicLocal (op : AtomicOp) (dst addr operand : Fin 64)
  | loadDevice (dst : Fin 64) (base : DevBase) (addr : Fin 64) (bytes : Nat)
  | storeDevice (src : Fin 64) (base : DevBase) (addr : Fin 64) (bytes : Nat)
  | atomicDevice (op : AtomicOp) (dst : Fin 64) (base : DevBase) (addr operand : Fin 64)
  | tensorStart (engine : Fin 4) (op : EngineOp)
  | engineWait (engine : Fin 4)
  | dmaStart (channel : Nat) (src dst : DmaPlace) (lines : Nat) (post : Option (Nat × Nat))
  | dmaWait (channel : Nat)
  | signal (obj : Nat) (op : SignalOp)
  deriving DecidableEq, Repr

/-- What the hardware, not the program, does to an instruction about to issue: its code does not decode or leaves the code at
offset `off`, a code line cannot be fetched (Table 8.6), or a bit of a register of a physical lane and bank is upset (R185). -/
inductive IssueFault where
  | illegal (off : Nat)
  | fetchUncorrectable (off : Nat)
  | regUpset (lane : Fin 64) (bank : Fin 2) (index : Fin 32) (bit : Fin 32)
  deriving DecidableEq, Repr

/-- An instruction that a bundle would issue next, and what the hardware does to it. -/
structure Issued where
  instr : BundleInstr
  fault : Option IssueFault := none
  deriving DecidableEq, Repr

/-- A candidate of an issue step: the next instruction of the bundle in a slot. -/
structure Candidate extends Issued where
  slot : Fin 64
  deriving DecidableEq, Repr

/-- The part of an engine that a hardware error meets: a cell's register, its magnitude register, the residue of either, an
operand that reaches the cell and its residue alike, a converter output, a special-value flag. -/
inductive EnginePart where
  | sum | mag | sumResidue | magResidue | operand | converter | flags
  deriving DecidableEq, Repr

/-- A hardware error in an engine: the part, the cell and the bit that changes. -/
structure EngineUpset where
  part : EnginePart
  row : Fin 33
  col : Fin 33
  bit : Nat
  deriving DecidableEq, Repr

/-- A write as it comes over PCIe: its data and its size in bytes. -/
structure PostedWrite where
  value : W64
  size : Nat
  deriving DecidableEq, Repr

/-- What R75 asks of a producer update besides its size: it ends at a record's boundary, and its Relaxed Ordering attribute. -/
structure WriteForm where
  boundary : Bool
  relaxed : Bool
  deriving DecidableEq, Repr

/-- What the hardware does to a comparator's injected comparison (R226, R227): it works, and the rails disagree. -/
structure PairUpset where
  working : Bool
  railViolation : Bool
  deriving DecidableEq, Repr

/-- What the start-up tests find (R496, R226): cores that fail, and comparators. -/
structure StartFailures where
  cores : W64
  comparators : List (Fin 66)
  deriving DecidableEq, Repr

/-- A change on a source's wire (R401): a disagreement of its rails begins, or ends. -/
structure WireChange where
  source : Fin 768
  ended : Bool
  deriving DecidableEq, Repr

/-- A direction of a mesh link (R127): from its first stop to its second, or back. -/
structure MeshWay where
  link : Fin 38
  back : Bool
  deriving DecidableEq, Repr

/-- The CRC of a mesh packet's header at its first transmission and at the second (R131). -/
structure MeshCrc where
  ok : Bool
  retryOk : Bool
  deriving DecidableEq, Repr

/-- What a heartbeat says of its sender (R466): it is isolated, it has failed. -/
structure BeatFlags where
  isolated : Bool
  failed : Bool
  deriving DecidableEq, Repr

/-- Who reads or writes memory (Table 11.4). -/
inductive Accessor where
  | core (n : Fin 64)
  | dma (channel : Nat)
  | fumarole
  | device
  deriving DecidableEq, Repr

/-- The key of an access (R244). -/
inductive Key where
  | partition (p : Fin 16)
  | device
  deriving DecidableEq, Repr

/-- The traffic classes of the mesh (R127). -/
inductive MeshClass where
  | safety | response | request
  deriving DecidableEq, Repr

/-- A packet of the mesh by the stops of Table 5.4 it leaves and is for (stop 4 · y + x stands at (x, y)), its class, and a number
that tells it from others. -/
structure MeshPacket where
  source : Fin 24
  dest : Fin 24
  cls : MeshClass
  ident : Nat := 0
  deriving DecidableEq, Repr

/-- The outcome of a SAFE readback check: which pin of pair i differs. -/
inductive SafePin where
  | a | b
  deriving DecidableEq, Repr

/-- A register with no row of its own (R5), as REGISTER_WRITE names it. -/
inductive Reg where
  | floorFuse
  | gaugeCount (cluster : Fin 16)
  | gaugeStatus (cluster : Fin 16)
  | gaugeCtrl
  | engErr (core : Fin 64)
  | engInject (core : Fin 64)
  | trapStatus (core : Fin 64)
  | trapAddr (core : Fin 64)
  | pairErr (unit : Fin 66)
  | pairLoc (core : Fin 64)
  | pairInject (unit : Fin 66)
  | coreMode (core : Fin 64)
  | segTag (segment : Nat)
  | hbmBucket (stop : Fin 4) (bucket : Fin 17)
  | hbmBucketStat (stop : Fin 4) (bucket : Fin 17)
  | meshBucket (stop : Fin 24) (bucket : Fin 16)
  | meshBucketStat (stop : Fin 24) (bucket : Fin 16)
  | dmaHalt (channel : Fin 288)
  | memErr (stop : Fin 21)
  | memInject (stop : Fin 21)
  | memInjectAddr (stop : Fin 21)
  | fumCtrl
  | calSticky (word : Fin 24)
  | calSrc (source : Fin 768)
  | calCfg (source : Fin 768)
  | calReact
  | dmaFault (stop : Fin 17)
  | geyCtrl
  | pulseCtrl (output : Fin 8)
  | txqStatus (port : Fin 4)
  | uwdStatus (unit : Fin 67)
  | dwdCfg
  | dwdStatus
  | gntStatus
  | cvuAlive
  | cvuCtrl
  | startStatus
  | bar0 (requester : W16) (offset : Nat) (size : Nat)
  deriving DecidableEq, Repr

/-- A row of a partition or plan change's acknowledgement, as the unit mask of R239 numbers the units. -/
abbrev UnitBit := Fin 64

/-! ### The commands -/

inductive Instr where
  -- Denec packets (12, 13)
  | pad (at_ : Time) (queue : Nat)
  | deviceInfo (at_ : Time) (path : Path) (p : Packet)
  | ringPairOpen (at_ : Time) (path : Path) (p : Packet)
  | ringPairClose (at_ : Time) (path : Path) (p : Packet)
  | sessionOpen (at_ : Time) (path : Path) (p : Packet)
  | sessionClose (at_ : Time) (path : Path) (p : Packet)
  | keyEnrol (at_ : Time) (path : Path) (p : Packet)
  | keyRevoke (at_ : Time) (path : Path) (p : Packet)
  | attest (at_ : Time) (path : Path) (p : Packet)
  | attnRead (at_ : Time) (path : Path) (p : Packet)
  | attnAck (at_ : Time) (path : Path) (p : Packet)
  | planLoad (at_ : Time) (path : Path) (p : Packet)
  | planUnload (at_ : Time) (path : Path) (p : Packet)
  | weightLoad (at_ : Time) (path : Path) (p : Packet)
  | partitionSet (at_ : Time) (path : Path) (p : Packet)
  | coreModeSet (at_ : Time) (path : Path) (p : Packet)
  | planSwap (at_ : Time) (path : Path) (p : Packet)
  | subjectRegister (at_ : Time) (path : Path) (p : Packet)
  | subjectRelease (at_ : Time) (path : Path) (p : Packet)
  | portRoleSet (at_ : Time) (path : Path) (p : Packet)
  | tapStreamOpen (at_ : Time) (path : Path) (p : Packet)
  | tapStreamClose (at_ : Time) (path : Path) (p : Packet)
  | contextOpen (at_ : Time) (path : Path) (p : Packet)
  | contextClose (at_ : Time) (path : Path) (p : Packet)
  | contextResume (at_ : Time) (path : Path) (p : Packet)
  | contextStatus (at_ : Time) (path : Path) (p : Packet)
  | timeRead (at_ : Time) (path : Path) (p : Packet)
  | timeStatus (at_ : Time) (path : Path) (p : Packet)
  | timeSet (at_ : Time) (path : Path) (p : Packet)
  | ptpConfig (at_ : Time) (path : Path) (p : Packet)
  | pulseSet (at_ : Time) (path : Path) (p : Packet)
  | pulseStop (at_ : Time) (path : Path) (p : Packet)
  | diagRead (at_ : Time) (path : Path) (p : Packet)
  | faultConfig (at_ : Time) (path : Path) (p : Packet)
  | faultTest (at_ : Time) (path : Path) (p : Packet)
  | hold (at_ : Time) (path : Path) (p : Packet)
  | releaseHold (at_ : Time) (path : Path) (p : Packet)
  | watchdogSet (at_ : Time) (path : Path) (p : Packet)
  | monitorSet (at_ : Time) (path : Path) (p : Packet)
  | checkin (at_ : Time) (path : Path) (p : Packet)
  | scrubPeriod (at_ : Time) (path : Path) (p : Packet)
  | fabricJoin (at_ : Time) (path : Path) (p : Packet)
  | fabricLeave (at_ : Time) (path : Path) (p : Packet)
  | contextRemap (at_ : Time) (path : Path) (p : Packet)
  | fabricStatus (at_ : Time) (path : Path) (p : Packet)
  | paceConfig (at_ : Time) (path : Path) (p : Packet)
  | firmwareStage (at_ : Time) (path : Path) (p : Packet)
  | warmReset (at_ : Time) (path : Path) (p : Packet)
  | fieldLock (at_ : Time) (path : Path) (p : Packet)
  -- Doorbells, mailbox and the work behind a command (12, 13)
  | commandDoorbell (at_ : Time) (requester : W16) (queue : Nat) (w : PostedWrite) (packets : List Packet)
  | replyDoorbell (at_ : Time) (requester : W16) (queue : Nat) (w : PostedWrite)
  | verdictDoorbell (at_ : Time) (requester : W16) (queue : Nat) (w : PostedWrite)
  | mboxGo (at_ : Time) (requester : W16) (p : Packet)
  | commandFinalReply (at_ : Time) (session : Nat) (counter : W64)
  | bulkTransferComplete (at_ : Time) (session : Nat) (counter : W64) (obj : List Byte) (crcFailures : Nat)
  | segmentConversionComplete (at_ : Time) (segment : Nat)
  | admissionCommit (partition : Option (Fin 16))
  | contextActivation (context : W32)
  | unitPrepareAck (at_ : Time) (unit : UnitBit) (comparatorOk : Bool)
  | prepareTimeout
  | changeCommit (applied : W64)
  | changeApplyDeadline
  | changeDone
  | readmission (at_ : Time)
  -- Subject writes and evidence (03)
  | bar2Write (at_ : Time) (requester : W16) (offset : Nat) (w : PostedWrite) (form : WriteForm)
  | evidenceProducerUpdate (at_ : Time) (requester : W16) (context : W32) (value : W64) (size : Nat) (form : WriteForm)
  | commit (at_ : Time) (queue : W32) (r : Record)
  | crcList (at_ : Time) (queue : W32) (r : Record)
  | opening (at_ : Time) (queue : W32) (r : Record)
  | depTile (at_ : Time) (queue : W32) (r : Record)
  | tensor (at_ : Time) (queue : W32) (r : Record)
  | abandon (at_ : Time) (queue : W32) (r : Record)
  | evidencePad (at_ : Time) (queue : W32) (type : Byte) (r : Record)
  | challengeConsumerWrite (at_ : Time) (requester : W16) (context : W32) (value : W64)
  | subjectCheckin (at_ : Time) (requester : W16) (slot : Fin 2) (offset : Nat) (value : W32)
  | openingWindowClose (context : W32) (seq : W64) (layer : W16)
  | deadlineExpiry (context : W32) (seq : W64)
  -- Cores, windows, kernels (07, 08, 09, 10)
  | kernelComplete (at_ : Time) (core : Fin 64) (upset : RunUpset)
  | frameTableWindowStart (cluster : Fin 16) (window : Nat) (frame : Int)
  | windowClose (cluster : Fin 16) (core : Fin 4)
  | coreIssue (at_ : Time) (core slot : Fin 64) (first : Issued) (others : List Candidate)
  | kernelRerun (at_ : Time) (core : Fin 64)
  | engineOperationEnd (at_ : Time) (core : Fin 64) (engine : Fin 4) (during atDrain : List EngineUpset)
  | signatureCompare (at_ : Time) (unit : Fin 66) (group bundle window : Nat) (upset railViolation : Bool)
  | signalPost (at_ : Time) (core : Fin 64) (slot : Fin 64) (obj : Nat) (n : Nat)
  | signalWait (at_ : Time) (core : Fin 64) (slot : Fin 64) (obj : Nat) (n : Nat)
  | signalTest (at_ : Time) (core : Fin 64) (slot : Fin 64) (obj : Nat) (dst : Fin 64)
  | dmaComplete (at_ : Time) (channel : Fin 288)
  | dmaHaltRestart (at_ : Time) (channel : Fin 288)
  -- Memory (11) and mesh (05)
  | memoryRead (at_ : Time) (who : Accessor) (line off : Nat)
  | memoryWrite (at_ : Time) (who : Accessor) (line off : Nat) (data : List Byte)
  | meshPacketReceive (at_ : Time) (way : MeshWay) (sent : List MeshPacket) (crc : MeshCrc)
  | scrubPage (at_ : Time) (page : Nat)
  | scrubVerifyRead (word : Nat)
  | relocationComplete (at_ : Time) (segment : Nat)
  | fumaroleLate (stop : Fin 20)
  | segModeWrite (at_ : Time) (segment : Nat) (mode : BitVec 2)
  -- Tap and Ethernet (04, 18, 22)
  | tapPacket (at_ : Time) (port : Fin 4) (p : TapPacket)
  | frameDigestComplete (at_ : Time) (stream : Fin 16) (rtp : W32)
  | assemblyTimeout (stream : Fin 16) (rtp : W32)
  | slotRelease (stream : Fin 16) (rtp : W32)
  | streamSilence (stream : Fin 16)
  | unclaimedFrame (context : W32) (capture : Time)
  | ethFrameReceive (at_ : Time) (port : Fin 4) (size : Nat) (fcsOk : Bool) (drained : Nat)
  | ethLinkDown (at_ : Time) (port : Fin 4)
  | ethLinkUp (at_ : Time) (port : Fin 4)
  | segmentTransmit (at_ : Time) (port : Fin 4)
  -- PTP and Geyser (15)
  | ptpSync (at_ : Time) (port : Fin 4) (m : PtpMessage)
  | ptpFollowUp (at_ : Time) (port : Fin 4) (m : PtpMessage)
  | ptpDelayReq (at_ : Time) (port : Fin 4) (m : PtpMessage)
  | ptpDelayResp (at_ : Time) (port : Fin 4) (m : PtpMessage)
  | ptpPdelayReq (at_ : Time) (port : Fin 4) (m : PtpMessage)
  | ptpPdelayResp (at_ : Time) (port : Fin 4) (m : PtpMessage)
  | ptpPdelayRespFollowUp (at_ : Time) (port : Fin 4) (m : PtpMessage)
  | ptpAnnounce (at_ : Time) (port : Fin 4) (m : PtpMessage) (a : AnnounceData)
  | ptpManagement (at_ : Time) (port : Fin 4)
  | announceReceiptTimeout (port : Fin 4)
  | ptpMessageSend (at_ : Time) (port : Fin 4) (messageType : BitVec 4)
  | txTimestamp (at_ : Time) (port : Fin 4) (messageType : BitVec 4) (ident : W16)
  | txqEntryRead (at_ : Time) (port : Fin 4)
  | ppsIn (at_ : Time)
  | ppsInMissing (at_ : Time)
  | servoLimitHold (at_ : Time)
  | geyIncrWrite (at_ : Time) (value : BitVec 40)
  | geyStepWrite (at_ : Time) (stepNs : BitVec 48) (stepFrac : W16)
  | pulseOccurrence (output : Fin 8)
  | pulseFall (output : Fin 8)
  | ppsOut (rise : Bool)
  | refclkFault (at_ : Time)
  -- Caldera (16)
  | sourceEvent (at_ : Time) (source : Fin 768) (channel : Fin 288) (lasting : Bool) (pending : Nat)
  | railDisagreement (at_ : Time) (wire : WireChange)
  | lastingConditionRepeat (source : Fin 768)
  | calRaise (at_ : Time) (value : W32)
  | calForceSet (at_ : Time) (source : Fin 768)
  | calForceClear (at_ : Time) (source : Fin 768)
  | forceExpiry
  | calRelease (at_ : Time)
  | errNMinimumEnd
  | calSelfTest (at_ : Time) (fault : Bool)
  -- Pace (06)
  | vcoreComparator (at_ : Time) (cluster : Fin 16) (high : Bool)
  | gaugeWindowEnd (at_ : Time) (cluster : Fin 16) (countA countB : W16)
  | minRearm (at_ : Time)
  | testArm (at_ : Time) (cluster : Fin 16)
  | trackAdjust
  | avsbusTransactionEnd (at_ : Time) (error : Bool) (readback : Nat) (status : W16) (statusFault : Bool)
  -- Injections (07, 09, 11, 18)
  | engInjectArm (at_ : Time) (core : Fin 64) (value : W32)
  | pairInjectArm (at_ : Time) (unit : Fin 66) (value : W32) (upset : PairUpset)
  | memInjectArm (at_ : Time) (stop : Fin 21) (value : W32)
  | cvuInject (at_ : Time) (working : Bool)
  -- Gauntlet (18)
  | forceTest (at_ : Time) (pins : Byte)
  | gntArm (at_ : Time)
  | safeTestPulse (at_ : Time) (pair : Fin 4) (pin : SafePin) (followed : Bool)
  | safeReadbackCheck (at_ : Time) (pair : Fin 4) (pin : SafePin) (level : Bool)
  -- Watchdogs and monitors (17)
  | uwdCfgWrite (at_ : Time) (unit : Fin 67) (value : W64)
  | uwdService (at_ : Time) (unit : Fin 3)
  | uwdTestDone (at_ : Time)
  | sequencerService (at_ : Time) (core : Fin 64) (answered : Bool)
  | uwdExpiry (unit : Fin 67)
  | unitAcknowledge (at_ : Time) (unit : Fin 67)
  | graceExpiry (unit : Fin 67)
  | dwdService (at_ : Time) (value : W32)
  | dwdExpiry
  | pwrCutRelease
  | monitorWindowClose (monitor : Fin 4096)
  | selftestSlice (at_ : Time) (slice : Nat) (unit : Nat) (passed : Bool)
  | sweepIntervalExpiry (unit : Nat)
  | drbgReseed (at_ : Time) (which : Fin 2)
  | sessionConfirmTimeout (session : Nat)
  -- Resets and start-up (20)
  | porstNAssert (at_ : Time)
  | porstNRelease (at_ : Time) (slotsValid : BitVec 2) (versionA versionB : W32)
  | warmN (at_ : Time)
  | chipSafeWarmReset
  | safeStateWarmReset
  | commandedWarmReset (at_ : Time)
  | isolationWarmReset
  | stewardRelease (at_ : Time) (imageValid : Bool) (selfTestOk : Bool) (keyStoreOk : Bool)
  | wireDriverPulse (at_ : Time) (source : Fin 768) (moved : Bool)
  | testReset (at_ : Time)
  | startUpTestsComplete (at_ : Time) (failed : StartFailures) (chipFailed : Bool)
  | restartResume (at_ : Time)
  -- PCIe, SMBus, debug (22, 09)
  | pcieLinkDown (at_ : Time)
  | pcieLinkUp (at_ : Time)
  | pcieLinkRetrain (at_ : Time) (gen : Nat) (width : Nat)
  | smbusTransaction (at_ : Time) (pointer : Byte)
  | debugAttachCore (at_ : Time) (core : Fin 64)
  | debugAttachSteward (at_ : Time) (processor : Fin 2)
  -- Fabric (19)
  | heartbeatSend
  | heartbeat (at_ : Time) (h : FabricHeader) (role : Nat) (managerInstant : Time) (flags : BeatFlags)
      (forwarded : List (Nat × Time))
  | echo (at_ : Time) (h : FabricHeader) (echoedSeq : Nat) (echoedSend : Time)
  | journal (at_ : Time) (h : FabricHeader) (records : List JournalRecord)
  | confirm (at_ : Time) (h : FabricHeader) (journalSeq : Nat)
  | map (at_ : Time) (h : FabricHeader) (records : List JournalRecord)
  | takeover (at_ : Time) (h : FabricHeader) (d : TakeoverData)
  | slice (at_ : Time) (h : FabricHeader) (context : W32) (records : List JournalRecord)
  | handed (at_ : Time) (h : FabricHeader) (context : W32) (lastSeq : Nat) (nextAlive : W16)
  | takeoverReadback (at_ : Time) (context : W32) (doorbell : Nat) (slots : List RingSlot)
  | leaseExpiry
  | managerIsolation
  | failureDeclaration (at_ : Time) (device : Fin 64)
  | managerPromotion
  | journalResend
  | mirrorTimeout
  | commandMirrorTimeout (session : Nat) (counter : W64)
  | mirrorCopyComplete (at_ : Time)
  | checkpoint
  | remapBoundary (context : W32)
  | registerWrite (at_ : Time) (r : Reg) (value : W64)
  | peerAnswerTimeout (session : Nat) (counter : W64)
  | pairKeyAgreement (at_ : Time) (peer : Fin 64) (certOk : Bool) (keyNamed : Bool) (firmware : W32)
  deriving DecidableEq, Repr

end Sys2Proof
end

