-- ==== Sys2Proof/Config.lean ====
section
/-! DEFINITION. What an implementation fixes, the algorithms the manual takes from outside standards, and the free values:
constants without a body, so that no proof can see what they are. -/

namespace Sys2Proof

/-- SM3 of GB/T 32905 (R351), a named standard: the digest of a byte string, its first byte the most significant. -/
opaque Config.sm3 : List Byte → W256

/-- SM2 signature verification of GB/T 32918.2 (R351): public key, message, signature. -/
opaque Config.sm2Verify : List Byte → List Byte → BitVec 512 → Bool

/-- An SM2 signature by the device identity key (R370): message, and the number of the nonce drawn. -/
opaque Config.sm2Sign : List Byte → Nat → BitVec 512

/-- Whether 64 bytes are a point of the SM2 curve other than infinity (R361). -/
opaque Config.sm2OnCurve : List Byte → Bool

/-- SM2 key agreement of GB/T 32918.3 with the device as responder (R359): the host's static and ephemeral keys and the
number of the ephemeral draw give K_hd, K_dh, R_B (64 bytes) and S_B. -/
opaque Config.sm2Agree : List Byte → List Byte → Nat → W256 × W256 × List Byte × W256

/-- The n-th 4-byte output word of a DRBG instance (R371, R372). Free. -/
opaque Config.drbg : Nat → Nat → W32

/-- The device serial, identity public key and manufacturing certificate of this part (R352). -/
opaque Config.serial : W128
opaque Config.identityKey : List Byte
opaque Config.certificate : List Byte

/-- The bytes of the key store that hold a given content (R354): the manual does not publish its encoding. Free. -/
opaque Config.keyStoreImage : List Byte → List Byte

/-- What the sections of a plan say whose layout the manual does not publish (Table 2.4), and the code of its kernels (R202):
a function of the plan's bytes, so that the signature over them binds it (R10). Free. -/
opaque Config.planParts : List Byte → PlanParts

/-- The Ethernet address fused for each port (R450). -/
opaque Config.portAddress : Nat → BitVec 48

/-- The PTP clock identity of this part (R390, IEEE 1588). -/
opaque Config.clockIdentity : W64

/-- SM3 of the firmware public key, in fuses (R352), and the measurement of the mask ROM (R367). -/
opaque Config.firmwareRoot : W256
opaque Config.romMeasure : W256

/-- The servo's new increment after an offset measurement (R388): the manual gives its limits, not its law. Free. -/
opaque Config.servo : Nat → Int → BitVec 40

/-- The special functions of Table 8.1 that the manual gives to 1 ulp only (R192): which value within that bound an input
gives, and what an input without a stated result gives. Free. -/
opaque Config.ulpChoice : SpecialFn → W32 → Nat
opaque Config.special : SpecialFn → W32 → W32

/-- ACCEPT records per second of the mirror peer, at the peer's own declared rates (R537), by device number. Free. -/
opaque Config.peerLines : Nat → Nat

/-- A conversion of a NaN to int32 on the vector unit (R191 gives no result). Free. -/
opaque Config.nanToInt : W32 → W32

/-- What an inactive lane adds to a cross-lane reduction: lane mask and lane. The manual does not say. Free. -/
opaque Config.idleLane : W64 → Nat → W32

/-- A shift by 32 or more on the vector unit: operand and amount. The manual gives no result. Free. -/
opaque Config.wideShift : W32 → W32 → W32

/-- The operation code of an atomic in its folded item (Table 9.2), which the manual does not publish. Free. -/
opaque Config.operationCode : AtomicOp → Byte

/-- What a kernel computes (R115): from its container, its input tiles (layer, stream, tile, bytes) and its weight blobs, each
byte of a tile of one of its outputs, and the magnitude sum (binary64) of each element of that tile (R166). An output is a
TENSORS index, or for a sentinel kernel its place among the sentinel's outputs. The code encoding is not published. Free. -/
opaque Config.kernelByte :
  List Byte → List (Nat × Nat × Nat × List Byte) → List (List Byte) → (output tile byte : Nat) → Byte
opaque Config.kernelMag :
  List Byte → List (Nat × Nat × Nat × List Byte) → List (List Byte) → (output tile elem : Nat) → W64

/-- Whether a bound of R46 or R539 holds where an infinite parameter meets a zero factor in it: the manual does not say. Free. -/
opaque Config.zeroTimesInfinity : Bool

/-- How an output tensor's canonical bytes read as detections, class scores or a grid (the layouts are the plan's). -/
opaque Config.viewOf : Nat → TensorDesc → List Byte → OutputView

/-- The pair key of an agreement (R465), and the key behind the check of a frame to all members or to a peer without a key, which
the manual does not name. Free. -/
opaque Config.pairKey : Option Nat → W256

/-- A value the manual leaves open after an operation, one for each count of the state's free-value counter. -/
opaque Config.freeWord : Nat → W64

/-- A chosen member of a list that the manual orders no further, by the free-value counter. -/
opaque Config.freeNat : Nat → Nat

end Sys2Proof
end

