-- ==== Sys2Proof/Machine/State.lean ====
section
/-! DEFINITION. The state of the machine: every piece of state the manual gives the device, as plain data, and the state
at power-on reset. Sparse tables are `KMap`s with strictly rising keys; those of the memory hold no entry equal to what an
unlisted key reads as. A field whose reset value the manual does not give holds the value that notes/assumptions/2.md
names. -/

namespace Sys2Proof.Machine

/-- Why a step can stop. -/
inductive Fault where
  /-- Raised by a memory command whose accessor is neither a core nor a DMA channel and whose address is not mapped.
  R124 and R125 say what such an access does for a core and for a DMA channel only. Safe: the model stops. -/
  | unmapped (addr : Nat)
  deriving DecidableEq, Repr

/-- Why a command has no meaning. -/
inductive Refusal where
  /-- Raised by the dispatch for a command that is not modelled yet. Safe: the model stops. -/
  | notModelled (mnemonic : String)
  deriving DecidableEq, Repr

/-- A saturating u32 event counter, and whether attention has been raised for it since the host last read it (R343). -/
structure Counter where
  n : Nat := 0
  told : Bool := false
  deriving DecidableEq, Repr

/-! ### Device state, mailbox and host memory (12) -/

/-- STATE of DEVICE_STATE (Table 12.2). -/
inductive DevState where
  | reset | boot | ready | safeState | chipFailed
  deriving DecidableEq, Repr

/-- DEVICE_STATE and the mailbox (Tables 12.1 to 12.3), and the newest buffer the device wrote in host memory (R350). -/
structure Front where
  state : DevState := .reset
  warmCount : Nat := 0
  mboxBusy : Bool := false
  mboxDone : Bool := false
  mboxSeq : Nat := 0
  mboxArea : KMap Byte := []
  mboxReply : Reply := {}
  hostDmaAddr : W64 := 0
  hostDmaData : List Byte := []
  deriving DecidableEq, Repr

/-- A queue descriptor (Table 12.5). Kind 0: the number is not assigned. -/
structure Queue where
  kind : Nat := 0
  exp : Nat := 0
  halted : Bool := false
  owner : Nat := 0
  base : W64 := 0
  slot : Nat := 0xFF
  partition : Nat := 0xFF
  producer : Nat := 0
  consumer : Nat := 0
  access : Nat := 0
  partner : Nat := 0xFFFFFFFF
  faults : Counter := {}
  deriving DecidableEq, Repr

/-- The queue manager: descriptors, and what the device has written into the reply and verdict slots of host memory
(key: queue number · 65,536 + slot index): the 64 bytes of a reply slot (Table 12.9) and of a verdict record (Table 2.16). -/
structure Queues where
  table : KMap Queue := []
  replySlots : KMap (List Byte) := []
  verdictSlots : KMap (List Byte) := []
  nextRing : Nat := 0
  deriving DecidableEq, Repr

/-- An entry of a session's replay store (R316). -/
structure Stored where
  counter : W64
  fingerprint : W128
  reply : Reply
  waiting : Bool := false
  deriving DecidableEq, Repr

/-- A session (14, 12 R316): its keys, H, replay store, ring pair, packets published and not yet taken, final replies held
for the next ring pair (R335). -/
structure Session where
  isOpen : Bool := false
  confirmed : Bool := true
  provisioning : Bool := false
  keyId : W128 := 0
  kHd : W256 := 0
  kDh : W256 := 0
  openedAt : Time := 0
  high : Nat := 0
  store : List Stored := []
  rings : Option (Nat × Nat) := none
  waiting : List Packet := []
  held : List Reply := []
  closing : Bool := false
  deriving DecidableEq, Repr

/-- A command that has received ACCEPTED and no final reply (R317). `due` is the earliest instant of its final reply;
`loaded` says that its transfer, check or other work is done; `outcome` is the result code and word once decided;
`mirror` is the journal sequence whose confirmation it still awaits and `map` says that the manager's MAP record has come
(R473). -/
structure Accepted where
  session : Nat
  packet : Packet
  path : Path
  due : Time := 0
  loaded : Bool := true
  outcome : Option (W16 × W64) := none
  done : W64 := 0
  plan : Option (W64 × W64) := none
  mirror : Option Nat := none
  map : Bool := true
  queues : List Nat := []
  deriving DecidableEq, Repr

/-! ### Attention (12 R323, 13 Table 13.17) -/

structure AttnEntry where
  serial : W32
  cls : Nat
  cause : Nat
  instant : Time
  detail : List Byte
  deriving DecidableEq, Repr

structure Attention where
  pending : KMap W32 := []
  serial : W32 := 0
  raises : Nat := 0
  log : List AttnEntry := []
  deriving DecidableEq, Repr

/-! ### Bonnet (14) -/

/-- An enrolled key of the key store (kinds 2 and 3), or an authority root slot (kind 1). -/
structure KeyEntry where
  keyId : W128
  kind : Nat
  publicKey : List Byte := []
  seq : Nat := 0
  revoked : Bool := false
  deriving DecidableEq, Repr

/-- Bonnet: fuses, key store, boot state, DRBG and the attested measurements. -/
structure Bonnet where
  fieldLock : BitVec 3 := 0
  fuseEn : Bool := false
  authority : KMap KeyEntry := []
  keys : KMap KeyEntry := []
  revokedIds : List W128 := []
  signerSeq : List (W128 × Nat) := []
  generation : Nat := 0
  securityFuse : Nat := 0
  runningSecurity : Nat := 0
  bootSlot : Nat := 0
  firmware : W32 := 0
  staged : Option (W32 × Nat) := none
  bootWrapDrawn : Bool := false
  drbgCalls : List Nat := [0, 0]
  drbgWords : List Nat := [0, 0]
  drbgReseed : List Time := [0, 0]
  drbgStopped : Bool := false
  romMeasure : W256 := 0
  firmwareMeasure : W256 := 0
  deriving DecidableEq, Repr

/-! ### Plans and blobs (02, 13 R337) -/

/-- A loaded plan version. `active`: its creating command has sent its final reply. `since` is the earliest instant of the
commit of its admission, `start` the absolute number of its major frame 0 by partition (R117); `runs` counts the runs of each
golden entry and `ranIn` is the major frame of its newest run; `bad` lists the lines of the plan copy that the page log marks. -/
structure LoadedPlan where
  plan : Plan
  partition : Nat := 0
  order : Nat := 0
  digest : W256 := 0
  active : Bool := false
  since : Time := 0
  start : KMap Int := []
  runs : KMap Nat := []
  ranIn : KMap Int := []
  misses : KMap Nat := []
  bad : List Nat := []
  deriving DecidableEq, Repr

/-- A resident weight blob and the plan versions it is bound to; `bad` lists the lines the page log marks (R337). -/
structure Blob where
  id : W32
  digest : W256
  bytes : List Byte := []
  partition : Nat := 0
  usable : Bool := false
  bad : List Nat := []
  bound : List (W64 × W64) := []
  deriving DecidableEq, Repr

structure Plans where
  loaded : List LoadedPlan := []
  blobs : List Blob := []
  nextOrder : Nat := 0
  deriving DecidableEq, Repr

/-! ### Contexts and results (02, 03) -/

inductive CtxState where
  | closed | admitted | active | suspended | draining
  deriving DecidableEq, Repr

/-- The outcome of a check of a result. -/
inductive CheckOutcome where
  | open_ | pass | fail | unavailable
  deriving DecidableEq, Repr

/-- A commitment of one layer and stream of a result. `accepted` is the instant K of Table 3.10. -/
structure Commitment where
  layer : Nat
  stream : Nat
  tensor : Nat
  tiles : Nat
  value : W256
  arrival : Time
  accepted : Option Time := none
  capture : Time := 0
  deriving DecidableEq, Repr

/-- The tiles of one tensor received in TENSOR records; `arrival` is that of the newest of them (R77). -/
structure TensorTiles where
  layer : Nat
  tensor : Nat
  tiles : KMap (List Byte) := []
  agreed : Bool := false
  arrival : Time := 0
  deriving DecidableEq, Repr

/-- A challenge of a result: its check, layer, number, tile, the entry sequence that asks for it, the opened tile and when it
arrived. -/
structure Challenge where
  check : Nat
  layer : Nat
  number : Nat
  tile : Nat
  entry : W32
  opened : Option (List Byte) := none
  arrival : Time := 0
  deriving DecidableEq, Repr

/-- A dependency tile that a challenge of `forLayer` lists (R86), the entry that asks for it, the tile and path received,
and whether it agrees with its layer's commitment once both are there. -/
structure DepTile where
  forLayer : Nat
  layer : Nat
  tile : Nat
  entry : W32
  data : Option (List Byte) := none
  path : List W256 := []
  ok : Option Bool := none
  arrival : Time := 0
  deriving DecidableEq, Repr

/-- An accepted result without a verdict (R33). `lists` are the CRC-64 entries received per layer under the FAULT grade and
`listAt` the arrival of the newest; `triggered` are the checks whose operation has been queued; `valid` are the type, layer,
stream and tile of the valid records received, and `attributed` those of the malformed ones that no valid record has replaced
(R98). -/
structure Result where
  seq : Nat
  planId : W64
  planVersion : W64
  template : Nat
  grade : Nat := 1
  capture : Time := 0
  deadline : Time := 0
  accepted : Time := 0
  overRate : Bool := false
  reasons : W32 := 0
  commits : List Commitment := []
  tensors : List TensorTiles := []
  lists : KMap (KMap W64) := []
  listAt : KMap Time := []
  challenges : List Challenge := []
  deps : List DepTile := []
  windows : List (Nat × Time) := []
  checks : List CheckOutcome := []
  triggered : List Nat := []
  valid : List (Nat × Nat × Nat × Nat) := []
  attributed : List (Nat × Nat × Nat × Nat) := []
  sentinel : List (Nat × List (List Byte)) := []
  failLayer : Nat := 0xFFFF
  failCheck : Nat := 0xFFFF
  failTile : Nat := 0xFFFFFFFF
  withheld : Bool := false
  deriving DecidableEq, Repr

/-- A challenge-queue entry (Tables 3.8 and 3.9). -/
inductive EntryBody where
  | frameNotice (stream status : Nat) (rtp : W32) (capture : Time)
  | challenge (layer number tile : Nat) (deadline : Time) (runs : List Run) (more last : Bool)
  | dependency (runs : List Run) (more last : Bool)
  | cancel
  deriving DecidableEq, Repr

structure Entry where
  seq : W32
  result : Nat
  context : W32
  body : EntryBody
  deriving DecidableEq, Repr

/-- A watch context with its evidence and challenge queues (02, 03). Key of the table: the context number. `accepted` and
`recorded` are the highest sequences accepted and recorded, `skipped` those recorded under R35; `batches` are the end offset
and arrival of each published batch; `opened` is the CONTEXT_OPEN payload; `blocked` are records that wait for the confirmation of journal record `blockedOn`
(R474). -/
structure Context where
  state : CtxState := .closed
  planId : W64 := 0
  planVersion : W64 := 0
  template : Nat := 0
  partition : Nat := 0
  slot : Nat := 0
  streams : List Nat := []
  outPort : Nat := 0
  unclaimedLimit : Nat := 3
  unclaimedRun : Nat := 0
  claims : List Time := []
  firstSeq : Nat := 1
  activation : Time := 0
  order : Nat := 0
  evQueue : Nat := 0
  chQueue : Nat := 0
  vQueue : Nat := 0
  accepted : Nat := 0
  recorded : Nat := 0
  skipped : List Nat := []
  blockedOn : Option Nat := none
  blocked : List (Byte × Record) := []
  results : List Result := []
  heldRecords : List VerdictRecord := []
  batches : List (Nat × Time) := []
  entrySeq : W32 := 0
  entries : KMap (List Byte) := []
  heldEntries : List Entry := []
  rateLevel : Nat := 0
  rateAt : Time := 0
  alive : Nat := 0
  activated : Bool := false
  crcFail : Counter := {}
  malformed : Counter := {}
  late : Counter := {}
  duplicates : Counter := {}
  withheldNotices : List (Time × Nat × Nat × W32) := []
  uncounted : Bool := false
  opened : List Byte := []
  deriving DecidableEq, Repr

/-- A subject slot: its binding, its unchecked-verdict bucket (R264), its ingress bucket (R265) and its counters.
Levels are in 2^-32 ns times the rate, so that refill is exact. -/
structure Slot where
  requester : Option W16 := none
  uncheckedLevel : Nat := 64 * sec 1
  uncheckedAt : Time := 0
  ingressRate : Nat := 0
  ingressDepth : Nat := 0
  ingressLevel : Nat := 0
  ingressAt : Time := 0
  ingressSet : Bool := false
  discards : Counter := {}
  foreign : Counter := {}
  checkinRefused : Counter := {}
  unchecked : Counter := {}
  stray : Counter := {}
  deriving DecidableEq, Repr

/-! ### Ports, streams and frames (04, 18, 22) -/

inductive FrameStatus where
  | assembling | complete
  deriving DecidableEq, Repr

/-- A frame of a stream's ring: `groups` maps the index of each written pixel group to its unpacked samples and `written` to
the extended sequence number of the packet that wrote it; `claimedBy` are the contexts whose layer-0 COMMIT names it and
`judged` those whose deadline for it has passed. A failed frame leaves the ring at once (R108). -/
structure Frame where
  rtp : W32
  capture : Time
  slot : Nat := 0
  status : FrameStatus := .assembling
  doneAt : Time := 0
  marker : Bool := false
  groups : KMap (List Byte) := []
  written : KMap W32 := []
  secure : Option W256 := none
  fault : Option W64 := none
  claimedBy : List W32 := []
  judged : List W32 := []
  deriving DecidableEq, Repr

/-- An open camera stream (Table 4.2) with its ring and counters (Table 4.5). Key of the table: the stream index. -/
structure Stream where
  port : Nat
  sampling : Nat
  depth : Nat
  tagged : Bool
  vlan : Nat
  dst : W32
  udpPort : Nat
  payloadType : Nat
  grades : Nat
  ssrc : W32
  width : Nat
  height : Nat
  periodUs : Nat
  limitUs : Nat
  slots : Nat
  partition : Nat
  silenceUs : Nat
  frames : List Frame := []
  newest : Option W32 := none
  lastSeq : Option W32 := none
  lastValid : Time := 0
  silent : Bool := false
  opened : Bool := false
  checksum : Counter := {}
  unmatched : Counter := {}
  gap : Counter := {}
  dupPackets : Counter := {}
  latePackets : Counter := {}
  complete : Counter := {}
  timeout : Counter := {}
  superseded : Counter := {}
  overlap : Counter := {}
  geometry : Counter := {}
  ringFull : Counter := {}
  unclaimed : Counter := {}
  silences : Counter := {}
  deriving DecidableEq, Repr

/-- A message queued on an OUT port (R451): what its segments carry, and the segments still to leave. -/
structure OutMsg where
  record : VerdictRecord
  result : Bool := false
  fallback : Bool := false
  payload : List Byte := []
  nextSeg : Nat := 0
  deriving DecidableEq, Repr

inductive PortRole where
  | none_ | tap | fabric | out
  deriving DecidableEq, Repr

/-- A transmit time stamp of the transmit queue (Table 15.x of Geyser). -/
structure TxStamp where
  messageType : Nat
  ident : W16
  stamp : Time
  deriving DecidableEq, Repr

/-- An Ethernet port: role (R14), link, the multicast groups it has reported membership of (Table 4.1), the bytes its receive
buffer holds (R138), OUT queue, messages that wait for their HELD record's
confirmation (R475, with its journal sequence), the last segment begun on the wire, transmit-stamp queue, counters. -/
structure Port where
  role : PortRole := .none_
  speed : Nat := 1
  link : Bool := true
  groups : List W32 := []
  rxBytes : Nat := 0
  out : List OutMsg := []
  outWait : List (Nat × OutMsg) := []
  lastSegment : List Byte := []
  txq : List TxStamp := []
  txqOverflow : Bool := false
  overruns : Counter := {}
  unsupported : Counter := {}
  outReceived : Counter := {}
  outRefused : Counter := {}
  fabricCheck : Counter := {}
  fabricDup : Counter := {}
  management : Counter := {}
  linkLosses : Counter := {}
  headerFail : Counter := {}
  deriving DecidableEq, Repr

/-! ### Partitions, frame tables, admission, operations (10) -/

/-- A defined partition (Table 10.1). -/
structure Partition where
  criticality : Nat
  donate : Bool := false
  majorUs : Nat
  qUs : Nat
  epoch : Time
  mask : W64
  quota : Nat
  deriving DecidableEq, Repr

inductive WindowKind where
  | service | golden | selftest
  deriving DecidableEq, Repr

/-- A frame-table window (Table 10.7). -/
structure Window where
  start : Nat
  length : Nat
  partition : Nat
  kind : WindowKind
  mask : Nat
  donate : Bool := false
  deriving DecidableEq, Repr

/-- A token bucket (Tables 10.5 and 10.6). `level` counts 2^-32 lines. -/
structure Bucket where
  rate : Nat := 0
  depth : Nat := 0
  level : Nat := 0
  at_ : Time := 0
  waited : Bool := false
  made : Bool := false
  deriving DecidableEq, Repr

/-- What an admission decides: windows per cluster, rates and depths per HBM and mesh bucket (key: stop · 32 + bucket), and
the ingress rate and depth of each subject slot, and the shared SRAM segments of each cluster and partition. -/
structure AdmitConfig where
  windows : KMap (List Window) := []
  hbm : KMap (Nat × Nat) := []
  mesh : KMap (Nat × Nat) := []
  ingress : List (Nat × Nat) := [(0, 0), (0, 0)]
  scratch : List (Nat × Nat × Nat) := []
  deriving DecidableEq, Repr

/-- A part of an admitted configuration that awaits its commit (R329): a partition's, or the device's (`none`). -/
structure PendingCommit where
  partition : Option Nat
  due : Time
  config : AdmitConfig
  deriving DecidableEq, Repr

/-- What a verification operation works for: a check of a result, or a golden entry of a plan. -/
inductive OpFor where
  | check (context : W32) (seq : Nat) (check : Nat)
  | golden (planId planVersion : W64) (index : Nat) (port : Nat)
  deriving DecidableEq, Repr

/-- A verification operation (R253): the kernel of a plan, its queue key, and its place among operations of one key (from 1 on;
0: not queued yet). -/
structure Operation where
  work : OpFor
  partition : Nat
  planId : W64
  planVersion : W64
  section_ : Nat
  kernel : Nat
  trigger : Time
  seq : Nat := 0
  deriving DecidableEq, Repr

/-- A launched kernel: its operation, the cores it runs on, whether it is a re-run or donated, whether it has trapped; its argument
registers, the memory it may reach as start, length and access (1 read, 2 write, 3 both), and the base of its shared SRAM scratch
in each cluster (R203). -/
structure Run_ where
  op : Operation
  cores : List Nat
  args : List W64 := []
  bounds : List (Nat × Nat × Nat) := []
  scratch : KMap Nat := []
  nextGroup : Nat := 0
  rerun : Bool := false
  donated : Bool := false
  stopped : Bool := false
  stoppedAt : Time := 0
  outcome : Option Nat := none
  started : Time := 0
  deriving DecidableEq, Repr

/-- A memory request that waits for its tokens (R247): who makes it, where, the bucket it waits in (16: the device's), the instant at
which its tokens have come, and the bytes it writes, none for a read. -/
structure Request where
  who : Accessor
  addr : Nat
  bucket : Nat
  due : Time
  data : Option (List Byte) := none
  deriving DecidableEq, Repr

/-- Partitions, frame tables in force (per cluster), commits to come, bucket registers, operation queues, golden
operations by the core whose window they wait in, running kernels; `readmit` is the cause and unit of a re-admission that is
due (Table 13.18, cause 4). `deferred` counts deferred slices per unit (R503). -/
structure Sched where
  parts : KMap Partition := []
  tables : KMap (List Window) := []
  commits : List PendingCommit := []
  hbm : KMap Bucket := []
  mesh : KMap Bucket := []
  queue : List Operation := []
  nextOp : Nat := 1
  golden : List (Nat × Operation) := []
  runs : List Run_ := []
  withdrawn : List Nat := []
  readmit : Option (Nat × Nat) := none
  deferred : KMap Nat := []
  requests : List Request := []
  turn : KMap Nat := []
  deriving DecidableEq, Repr

/-- A two-phase change in progress (R235 to R239), by the mask of the units it names. -/
structure Change where
  id : Nat
  opcode : W16
  session : Nat
  counter : W64
  commitAt : Time
  prepareBy : Time
  named : W64
  acked : W64 := 0
  applied : W64 := 0
  failed : W64 := 0
  committed : Bool := false
  aborted : Bool := false
  cores : Bool := false
  packet : Packet
  plan : W64 × W64 := (0, 0)
  config : AdmitConfig := {}
  deriving DecidableEq, Repr

/-- The change record (Table 13.19). -/
structure ChangeRecord where
  id : Nat := 0
  opcode : W16 := 0
  outcome : Nat := 0
  commitAt : Time := 0
  named : W64 := 0
  acked : W64 := 0
  applied : W64 := 0
  failed : W64 := 0
  deriving DecidableEq, Repr

/-! ### Cores, engines, pairs, signals, DMA (07, 08, 09) -/

/-- One pass's open signature window of a bundle (R221 to R223). -/
structure SigWindow where
  sig : W128 := 0xFFFFFFFFFFFFFFFFFFFFFFFFFFFFFFFF
  window : Nat := 0
  retired : Nat := 0
  deriving DecidableEq, Repr

/-- A branch whose paths have not rejoined (R189): the lanes of the path still to issue, and those active at the rejoin. -/
structure PathEntry where
  other : W64
  after : W64
  deriving DecidableEq, Repr

/-- A resident bundle of a core: the group and bundle it is, its pass, its place in the order of dispatch, the offset of its
group's allocation in local memory, the lanes that exist and those active now, its registers where they stand (key: 64 · physical
lane + 32 · bank + index) and those whose parity bit disagrees (R185), what it waits for, how many forwarded operations it has
passed (R215), its signature window, and the instant at which the requests of its next instruction have their tokens (R247). -/
structure Bundle where
  order : Nat := 0
  paths : List PathEntry := []
  badParity : List Nat := []
  group : Nat := 0
  index : Nat := 0
  passB : Bool := false
  base : Nat := 0
  lanes : W64 := 0xFFFFFFFFFFFFFFFF
  mask : W64 := 0xFFFFFFFFFFFFFFFF
  regs : KMap W32 := []
  waiting : Bool := false
  barrier : Bool := false
  ended : Bool := false
  ordinal : Nat := 0
  sig : SigWindow := {}
  served : Option Time := none
  deriving DecidableEq, Repr

/-- What a closed signature window releases once both passes compare equal (R218). -/
inductive Act where
  | post (obj n : Nat)
  | dma (channel src dst lines : Nat) (post : Option (Nat × Nat))
  deriving DecidableEq, Repr

/-- A signature that waits in the store (R224). -/
structure StoredSig where
  group : Nat
  index : Nat
  window : Nat
  passB : Bool
  sig : W128
  act : Option Act := none
  deriving DecidableEq, Repr

/-- The window a core is in: partition, kind, instants, and the instant until which zeroing lasts. -/
structure CoreWindow where
  partition : Nat
  kind : WindowKind
  opens : Time
  closes : Time
  ready : Time
  donate : Bool := false
  rerunUsed : Bool := false
  deriving DecidableEq, Repr

/-- A value of a number format (Table 7.1): (−1)^neg · m · 2^e, a signed infinity, or a NaN. -/
inductive Val where
  | fin (neg : Bool) (m : Nat) (e : Int)
  | inf (neg : Bool)
  | nan
  deriving DecidableEq, Repr

/-- An accumulator of a cell: the exact register as a count of its least significant bit (R160), or the rounded value (R162,
R165); the special-value flags, that of infinity with its sign, and their complements (R163, R169); the residue (R170). -/
structure Lane where
  reg : Int := 0
  fp : Val := .fin false 0 0
  nan : Bool := false
  inf : Option Bool := none
  notNan : Bool := true
  notInf : Bool := true
  res : Nat := 0
  deriving DecidableEq, Repr

/-- A cell: its sum and its magnitude sum. -/
structure Cell where
  sum : Lane := {}
  mag : Lane := {}
  deriving DecidableEq, Repr

/-- A tensor engine: its 33 × 33 cells (key: row · 33 + column), the reduction count since the start, the operation it runs, the
slot of the bundle that started it, the base of that bundle's allocation, and the group, bundle and ordinal of the instruction. -/
structure Engine where
  cells : KMap Cell := []
  k : Nat := 0
  op : Option EngineOp := none
  slot : Nat := 0
  base : Nat := 0
  owner : Option (Nat × Nat × Nat) := none
  deriving DecidableEq, Repr

/-- A post that waits for the DMA transfers its bundle programmed before it (R199): the object, n, the bundle. -/
structure HeldPost where
  obj : Nat
  n : Nat
  group : Nat
  index : Nat
  slot : Nat
  deriving DecidableEq, Repr

/-- A core with its registers (Tables 7.9, 7.10, 8.8, 8.9, 9.3 to 9.5, 9.8), resident bundles and the number dispatched since the
launch, signature store, values forwarded to pass B as (group, bundle, ordinal, values), posts that wait, the bundle instructions
retired since the launch, and whether its local memory is to be zeroed now (R252) and what constants it then takes (R195). -/
structure Core where
  dispatched : Nat := 0
  posts : List HeldPost := []
  retired : Nat := 0
  loadConst : List Byte := []
  fenced : Bool := false
  split : Bool := false
  prepared : Bool := false
  pendingSplit : Bool := false
  changeId : Nat := 0
  engErr : W32 := 0
  engInject : W32 := 0
  trapStatus : W32 := 0
  trapAddr : W64 := 0
  pairErr : W32 := 0
  pairLoc : W64 := 0
  pairInject : W32 := 0
  exempt : Nat := 0
  engines : KMap Engine := []
  bundles : KMap Bundle := []
  store : List StoredSig := []
  forwards : List (Nat × Nat × Nat × List W32) := []
  mustZero : Bool := false
  window : Option CoreWindow := none
  debug : Bool := false
  probe : Bool := false
  deriving DecidableEq, Repr

/-- A Steward processor's comparator registers. -/
structure Processor where
  pairErr : W32 := 0
  pairInject : W32 := 0
  stopped : Bool := false
  held : Bool := false
  deriving DecidableEq, Repr

/-- A signal object (R196): count, and the waiters in order as (core, bundle slot, n). -/
structure Signal where
  count : Nat := 0
  waiters : List (Nat × Nat × Nat) := []
  deriving DecidableEq, Repr

/-- A DMA channel (Table 11.5), the transfer it carries, the core whose kernel programmed it, the group and bundle
that did, and the instant at which its lines have their tokens (R247). -/
structure DmaChannel where
  owner : Nat × Nat := (0, 0)
  halted : Bool := false
  reason : Nat := 0
  partition : Nat := 0
  linesDone : Nat := 0
  haltAddr : Nat := 0
  out : Bool := false
  busy : Bool := false
  src : Nat := 0
  dst : Nat := 0
  lines : Nat := 0
  core : Nat := 64
  post : Option (Nat × Nat) := none
  served : Option Time := none
  deriving DecidableEq, Repr

structure Cores where
  core : KMap Core := []
  proc : KMap Processor := []
  signals : KMap Signal := []
  dma : KMap DmaChannel := []
  changes : List Change := []
  record : ChangeRecord := {}
  nextChange : Nat := 1
  deriving DecidableEq, Repr

/-! ### Memory and its codes (11) -/

inductive SegMode where
  | durable | ephemeral | check
  deriving DecidableEq, Repr

/-- SEG_TAG and SEG_MODE of a segment (Tables 10.3 and 11.1). HBM segments are numbered 0 to 12,191, those of cluster c
from 12,192 + 128 · c. -/
structure Segment where
  valid : Bool := false
  device : Bool := false
  owner : Nat := 0
  readMask : W16 := 0
  mode : SegMode := .check
  converting : Bool := false
  convertTo : SegMode := .check
  retired : Bool := false
  reloadable : Bool := false
  deriving DecidableEq, Repr

/-- What the Steward allocates segments for (R243, Table 11.2): a plan copy, a weight blob of a partition, a frame ring, the
evidence and challenge queues of a context, the tensors that kernels of a plan pass on, the shared SRAM scratch of a partition. -/
inductive AllocFor where
  | plan (id version : W64)
  | blob (id : W32) (partition : Nat)
  | ring (stream : Nat)
  | queues (context : W32)
  | tensors (id version : W64)
  | sram (cluster partition : Nat)
  deriving DecidableEq, Repr

/-- An allocation: `count` segments from `first` on. -/
structure Alloc where
  what : AllocFor
  first : Nat
  count : Nat
  deriving DecidableEq, Repr

/-- A page-log entry (Table 11.7). -/
structure PageEntry where
  page : Nat
  lines : W64
  cause : Nat
  partition : Nat
  reloadable : Bool := false
  told : Bool := false
  capture : Time
  deriving DecidableEq, Repr

/-- A memory stop's registers (Tables 11.8, 11.10), its tag-copy state, its write-back log of (word, verify instant) with
the number of corrected words that found it full (R296), and the differences of check bytes that an applied injection has made in its
line and that no write has cleared. -/
structure MemStop where
  memErr : W32 := 0
  memErrAddr : Nat := 0
  ceCount : Nat := 0
  inject : W32 := 0
  injectAddr : Nat := 0
  expect : List Byte := []
  tagsDisagree : Bool := false
  wbLog : List (Nat × Time) := []
  wbFull : Nat := 0
  passStart : Time := 0
  passPage : Nat := 0
  deriving DecidableEq, Repr

/-- The memory control: segments, allocations, segments to be zeroed now, bytes of a host-side transfer to be written now (partition,
address, bytes), stop registers, the page log, the relocation in progress (old segment, new segment,
start), segments that wait for theirs and those already moved, spare segments left, FUM_CTRL's period, and what the last MEMORY_READ returned
(`none`: unusable). -/
structure MemCtl where
  segs : KMap Segment := []
  allocs : List Alloc := []
  toZero : List Nat := []
  toWrite : List (Nat × Nat × List Byte) := []
  stops : KMap MemStop := []
  log : List PageEntry := []
  moving : Option (Nat × Nat × Time) := none
  toMove : List Nat := []
  moved : KMap Nat := []
  spares : Nat := 128
  passSec : Nat := 60
  lastRead : Option W64 := some 0
  deriving DecidableEq, Repr

/-- Memory: words by word number (address / 8), the difference of each word's stored check byte from the computed one
(a syndrome; in CHECK mode the difference of its byte of the line CRC), the page check bytes (key: page · 32 + byte) and the
syndromes of their words (key: page · 4 + word). -/
structure Mem where
  words : KMap W64 := []
  synd : KMap Byte := []
  parity : KMap Byte := []
  psynd : KMap Byte := []
  deriving DecidableEq, Repr

/-! ### Caldera, watchdogs, Gauntlet (16, 17, 18) -/

/-- A source's CAL_SRC, CAL_CFG and counting window (Tables 16.3 and 16.4). -/
structure Source where
  sticky : Bool := false
  severe : Bool := false
  wire : Bool := false
  force : Bool := false
  rawSeen : Bool := false
  testSticky : Bool := false
  testSevere : Bool := false
  overrun : Bool := false
  replayed : Bool := false
  heldMask : Nat := 0
  count : Nat := 0
  opens : Time := 0
  held : List Nat := []
  forcedAt : Time := 0
  asserted : Option Time := none
  lastEvent : Option Time := none
  mute : Bool := false
  waiting : List Nat := []
  cls : Nat
  mask : Nat
  n : Nat
  w : Nat
  fixed : Bool
  deriving DecidableEq, Repr

/-- CAL_REACT and ERR_N (Table 16.6); safe-state bookkeeping of R410, R412 and R493. -/
structure Caldera where
  src : KMap Source := []
  selfFault : Bool := false
  chipSafe : Bool := false
  safeOut : Bool := false
  errN : Bool := true
  releasePending : Bool := false
  released : Bool := false
  selfDetected : Bool := false
  hold : Bool := false
  assertedAt : Time := 0
  safeSource : Nat := 0xFFFF
  safeAt : Time := 0
  restarts : List Time := []
  deriving DecidableEq, Repr

inductive WdState where
  | off | running | grace | held | restart | expired
  deriving DecidableEq, Repr

/-- A unit watchdog (Tables 17.3 to 17.5). Times in µs where the register holds µs. -/
structure UnitWd where
  state : WdState := .off
  enabled : Bool := false
  graceUs : Nat := 50
  periodUs : Nat := 0
  openUs : Nat := 0
  last : Time := 0
  graceFrom : Time := 0
  expired : Bool := false
  early : Bool := false
  hard : Bool := false
  cfgErr : Bool := false
  test : Bool := false
  testDone : Bool := false
  expiries : Nat := 0
  deriving DecidableEq, Repr

/-- The device watchdog (Tables 17.7 to 17.9). -/
structure DeviceWd where
  state : WdState := .off
  enabled : Bool := false
  periodUs : Nat := 0
  openUs : Nat := 0
  last : Time := 0
  next : W32 := 0x00005AA5
  late : Bool := false
  early : Bool := false
  badValue : Bool := false
  failover : Bool := false
  pwrCut : Bool := false
  expiredAt : Time := 0
  deriving DecidableEq, Repr

/-- A check-in monitor (R434 to R436). -/
structure Monitor where
  kind : Nat
  windowUs : Nat
  minimum : Nat
  maximum : Nat
  start : Time
  index : Nat := 0
  count : Nat := 0
  suspended : Bool := false
  deriving DecidableEq, Repr

structure Watch where
  uwd : KMap UnitWd := []
  dwd : DeviceWd := {}
  monitors : KMap Monitor := []
  crash : List Nat := []
  deriving DecidableEq, Repr

/-- Gauntlet and the check-value unit (Tables 18.1, 18.2, 18.5, 18.6): `readDiff` are the pins whose readback was found
unlike their drive, `pulses` the start of each pin's last test pulse, `cvuNext` what was last
written to CVU_ALIVE by slot, for slots without a context. -/
structure Gauntlet where
  armed : Bool := false
  forced : Bool := false
  testPassed : Bool := false
  readDiff : Byte := 0
  readbackErr : BitVec 4 := 0
  pulses : KMap Time := []
  cvuSlot : Nat := 0
  cvuDetected : Bool := false
  cvuNext : KMap Nat := []
  deriving DecidableEq, Repr

/-! ### Geyser, PTP, pulses (15), pace (06) -/

/-- A pulse output (Table 15.10). -/
structure Pulse where
  mode : Nat := 0
  run : Bool := false
  stopped : Bool := false
  level : Bool := false
  start : Time := 0
  period : Time := 0
  width : Time := 0
  n : Nat := 0
  deriving DecidableEq, Repr

/-- A PTP configuration record (Table 15.6); its bytes from 0x00 to 0x3F, and the fields the servo reads. -/
structure PtpConfig where
  raw : List Byte := []
  domain : Nat := 0
  external : Bool := false
  masterCapable : Bool := false
  priority1 : Nat := 128
  priority2 : Nat := 128
  clockClass : Nat := 248
  receiptTimeout : Nat := 3
  mech : List Nat := [0, 0, 0, 0]
  steps : List Nat := [1, 1, 1, 1]
  extState : List Nat := [0, 0, 0, 0]
  logSync : Int := 0
  logAnnounce : Int := 0
  stepThreshold : Nat := 1000
  lockThreshold : Nat := 20
  lockCount : Nat := 4
  asym : List Int := [0, 0, 0, 0]
  ppsWidthUs : Nat := 100000
  ppsIn : Nat := 0
  deriving DecidableEq, Repr

inductive PtpState where
  | disabled | listening | master | slave | passive
  deriving DecidableEq, Repr

/-- A PTP port: its state, the best Announce received, the measurements in progress, and the newest message it sent: type,
sequenceId, the time stamp it carries, correction. Times and corrections in 2^-32 ns. -/
structure PtpPort where
  state : PtpState := .disabled
  foreign : Option AnnounceData := none
  announceAt : Time := 0
  syncRx : Option (W16 × Time × Int) := none
  syncPair : Option (Time × Time) := none
  delayTx : Option (W16 × Time) := none
  pdelayTx : Option (W16 × Time) := none
  pdelayResp : Option (W16 × Time × Time × Int) := none
  meanDelay : Int := 0
  sent : Option (Nat × W16 × Time × Int) := none
  seqId : W16 := 0
  deriving DecidableEq, Repr

inductive ClockState where
  | unlocked | locked | freeRun
  deriving DecidableEq, Repr

structure Geyser where
  now : Time := 0
  incr : BitVec 40 := 0x0666666666
  state : ClockState := .unlocked
  clamped : Bool := false
  stepRefused : Bool := false
  stepped : Bool := false
  stepNs : BitVec 48 := 0
  stepFrac : W16 := 0
  pulses : KMap Pulse := []
  ppsOut : Bool := false
  ppsStamp : Time := 0
  ppsMissing : Nat := 0
  cfg : PtpConfig := {}
  ports : KMap PtpPort := []
  master : Nat := 0xFF
  good : Nat := 0
  offset : Int := 0
  estimate : BitVec 40 := 0x0666666666
  limitSince : Option Time := none
  limitTold : Bool := false
  deriving DecidableEq, Repr

/-- A cluster's gauges (Tables 6.4 and 6.5). -/
structure Gauge where
  countA : W16 := 0
  countB : W16 := 0
  valid : Bool := false
  below : Bool := false
  disagree : Bool := false
  min : W16 := 0xFFFF
  deriving DecidableEq, Repr

/-- Pace (06): FLOOR_FUSE, F in use, gauges, GAUGE_CTRL, the VCORE mode and the AVSBus state (DIAG_READ item 0x000F); `trackAt` is
the newest boundary at which TRACK was adjusted (R149), `slew` the transition rate last written in mV/µs, 0 before the first write
(R148). -/
structure Pace where
  floor : W16 := 780
  floorInv : W16 := 0xFCF3
  f : Nat := 780
  fuseOk : Bool := true
  gauges : KMap Gauge := []
  testCluster : Nat := 0
  testArmed : Bool := false
  track : Bool := true
  guardPct : Nat := 8
  setpoint : Nat := 800
  target : Nat := 800
  readback : Nat := 800
  failures : Nat := 0
  stopped : Bool := false
  status : W16 := 0
  marginTold : Bool := false
  trackAt : Option Time := none
  slew : Nat := 0
  deriving DecidableEq, Repr

/-! ### Fabric and journal (19), start-up (20), PCIe (22) -/

/-- A member of the fabric as this device knows it. -/
structure Member where
  role : Nat
  inService : Bool := true
  serial : W128 := 0
  lastSend : Time := 0
  pairKey : Option Nat := none
  seen : List Nat := []
  hostDomain : Nat := 0
  deriving DecidableEq, Repr

/-- A takeover in progress on this device (R478). -/
structure Takeover where
  data : TakeoverData
  records : List JournalRecord := []
  sliced : Bool := false
  handed : Option (Nat × Nat) := none
  deriving DecidableEq, Repr

/-- The journal (R470, R471), the mirrored journal, confirmations, and fabric state. Role 0 with an identifier: a join is in
progress. `outFrames` are the 64 newest frames sent: type, destination, and the bytes from the header on; `oldCommands` are the commands of a failed
device that continue here (R481): context, session, counter, opcode; `beatAt` and `checkpointAt` are the boundaries of the
newest heartbeat and checkpoint. -/
structure Fabric where
  id : W64 := 0
  role : Nat := 0
  device : Nat := 0
  hostDomain : Nat := 0
  ports : Nat := 0
  minFirmware : W32 := 0
  manager : Nat := 0
  managerInstant : Time := 0
  members : KMap Member := []
  frameSeq : Nat := 0
  sent : List (Nat × Time) := []
  lease : Time := 0
  isolated : Bool := false
  isolatedAt : Time := 0
  journal : List JournalRecord := []
  nextSeq : Nat := 1
  confirmed : Nat := 0
  confirmedAt : Time := 0
  sentUpTo : Nat := 0
  sentAt : Time := 0
  resent : Nat := 0
  copied : Bool := true
  checkpointFrom : Nat := 1
  mirrored : List JournalRecord := []
  mirroredSeq : Nat := 0
  map : KMap Nat := []
  takeovers : List Takeover := []
  remaps : List (W32 × Nat × Time) := []
  unplaced : List W32 := []
  unmirrored : Bool := false
  outFrames : List (Nat × Nat × List Byte) := []
  beatAt : Option Time := none
  checkpointAt : Option Time := none
  oldCommands : List (W32 × W16 × W64 × W16) := []
  deriving DecidableEq, Repr

/-- The mesh (R127): the packets in the buffers of the links, first in first out (key: (2 · link + direction) · 3 + class), and
those that have reached their stop. -/
structure Mesh where
  buffers : KMap (List MeshPacket) := []
  delivered : KMap (List MeshPacket) := []
  deriving DecidableEq, Repr

/-- Start-up and restart (20): START_STATUS, the phase of the start (`booting`: the boot sequencer runs; `released`: the
Steward; `testsDone`, `resumed`: what has been reached), the retained causes, the self-test sweeps. -/
structure Start where
  wiresDone : Bool := false
  wireTest : Bool := false
  wireFail : List Nat := []
  cold : Bool := true
  booting : Bool := false
  bootOk : Bool := true
  released : Bool := false
  releasedAt : Time := 0
  testsDone : Bool := false
  resumed : Bool := false
  resetAt : Time := 0
  serviceAt : Time := 0
  cause : Nat := 0
  causeSource : Nat := 0xFFFF
  commandedAt : Option Time := none
  sweepStart : KMap Time := []
  sweepDone : KMap Nat := []
  deriving DecidableEq, Repr

/-- The PCIe link and the SMBus pointer (22). -/
structure Board where
  linkUp : Bool := true
  gen : Nat := 5
  width : Nat := 16
  smbusPointer : Byte := 0
  failoverN : Bool := true
  pwrCutN : Bool := true
  deriving DecidableEq, Repr

/-! ### The whole device -/

/-- An event that a capture register did not take because VALID was 1 (R180): what it would have captured, MORE as it stood before,
and whether another event came in the same instant. -/
structure Late where
  body : W32
  addr : W64
  before : Bool
  again : Bool := false
  deriving DecidableEq, Repr

/-- W1C bits of a register that the hardware has set, and the event that a capture register did not take. -/
structure HwSet where
  reg : Reg
  bits : Nat
  late : Option Late := none
  deriving DecidableEq, Repr

/-- Everything but the waiting commands and the memory words. `hwSets` are the W1C bits that the hardware has set at the instant
`hwAt` (Table 0.1: a set in the instant of a write wins). -/
structure Dev where
  front : Front := {}
  queues : Queues := {}
  sessions : KMap Session := []
  accepted : List Accepted := []
  attn : Attention := {}
  bonnet : Bonnet := {}
  plans : Plans := {}
  contexts : KMap Context := []
  ctxOrder : Nat := 0
  slots : KMap Slot := []
  streams : KMap Stream := []
  ports : KMap Port := []
  sched : Sched := {}
  cores : Cores := {}
  memctl : MemCtl := {}
  cal : Caldera := {}
  watch : Watch := {}
  gnt : Gauntlet := {}
  geyser : Geyser := {}
  pace : Pace := {}
  fabric : Fabric := {}
  start : Start := {}
  board : Board := {}
  mesh : Mesh := {}
  free : Nat := 0
  hwSets : List HwSet := []
  hwAt : Time := 0
  deriving DecidableEq, Repr

/-- The machine: the commands that wait, first in first out; the memories; the device. -/
structure State where
  pending : List Instr := []
  mem : Mem := {}
  dev : Dev := {}
  deriving DecidableEq, Repr

/-- The machine right after power-on reset (R490, R492, the Reset columns of the register tables): nothing waits, memory
lists nothing, every register at the value its table gives. -/
def State.reset : State := {}

end Sys2Proof.Machine
end

