-- ==== Sys2Proof/Machine/Ops.lean ====
section
/-! DEFINITION. The named operations that the meanings share: sparse tables, bytes, time, counters, attention, and the
accessors of the state's tables. -/

namespace Sys2Proof.Machine

open Sys2Proof

/-! ### Sparse tables -/

/-- The entry of key `n`. -/
def kfind? {α : Type} : KMap α → Nat → Option α
  | [], _ => none
  | (k, v) :: m, n => if n = k then some v else if n < k then none else kfind? m n

/-- The entry of key `n`, or `d`. -/
def kget {α : Type} (d : α) (m : KMap α) (n : Nat) : α := (kfind? m n).getD d

/-- `m` with `v` at key `n`. -/
def kput {α : Type} : KMap α → Nat → α → KMap α
  | [], n, v => [(n, v)]
  | (k, w) :: m, n, v =>
    if n = k then (n, v) :: m else if n < k then (n, v) :: (k, w) :: m else (k, w) :: kput m n v

/-- `m` without key `n`. -/
def kdel {α : Type} : KMap α → Nat → KMap α
  | [], _ => []
  | (k, w) :: m, n => if n = k then m else if n < k then (k, w) :: m else (k, w) :: kdel m n

/-- `m` with `v` at key `n`; the default `d` is never listed. -/
def kset {α : Type} [DecidableEq α] (d : α) (m : KMap α) (n : Nat) (v : α) : KMap α :=
  if v = d then kdel m n else kput m n v

/-- `m` with `f` applied at key `n`. -/
def kmod {α : Type} (d : α) (m : KMap α) (n : Nat) (f : α → α) : KMap α := kput m n (f (kget d m n))

/-- `m` with `f` applied at every listed key. -/
def kmapv {α : Type} (f : Nat → α → α) (m : KMap α) : KMap α := m.map fun e => (e.1, f e.1 e.2)

/-- The canonical form: keys strictly rising, no entry equal to `d`. -/
def kwf {α : Type} [DecidableEq α] (d : α) : KMap α → Bool
  | [] => true
  | [(_, v)] => decide (v ≠ d)
  | (k, v) :: (k', v') :: m => decide (v ≠ d) && decide (k < k') && kwf d ((k', v') :: m)

/-! ### Bytes -/

/-- `n` bytes of `w`, least significant first (R2). -/
def leBytes : Nat → Nat → List Byte
  | 0, _ => []
  | n + 1, w => BitVec.ofNat 8 w :: leBytes n (w / 256)

/-- The number that bytes spell, least significant first. -/
def leNat : List Byte → Nat
  | [] => 0
  | b :: r => b.toNat + 256 * leNat r

/-- `n` bytes of `w`, most significant first (R351). -/
def beBytes (n w : Nat) : List Byte := (leBytes n w).reverse

/-- The number that bytes spell, most significant first. -/
def beNat (l : List Byte) : Nat := leNat l.reverse

/-- `n` bytes from offset `o`, missing bytes reading as zero. -/
def bytesAt (l : List Byte) (o n : Nat) : List Byte :=
  let r := (l.drop o).take n
  r ++ List.replicate (n - r.length) 0

/-- The field of `n` bytes at offset `o` (R2). -/
def fieldAt (l : List Byte) (o n : Nat) : Nat := leNat (bytesAt l o n)

/-- `l` padded with zero bytes up to `n`. -/
def padTo (n : Nat) (l : List Byte) : List Byte := l ++ List.replicate (n - l.length) 0

/-- Every byte is zero. -/
def allZero (l : List Byte) : Bool := l.all (· == 0)

/-- `bits` bits of `w` from bit `lo`. -/
def bitsOf (w lo bits : Nat) : Nat := w / 2 ^ lo % 2 ^ bits

/-! ### Time (R4, R152, R380) -/

/-- Whole nanoseconds of an instant. -/
def nsOf (t : Time) : Nat := t / 4294967296

/-- The seconds and nanoseconds fields of an instant. -/
def secField (t : Time) : Nat := nsOf t / 1000000000
def nsField (t : Time) : Nat := nsOf t % 1000000000

/-- The instant that seconds and nanoseconds fields name. -/
def ofSecNs (s n : Nat) : Time := sec s + ns n

/-- 4 bytes of nanoseconds and 6 of seconds. -/
def timeBytes (t : Time) : List Byte := leBytes 4 (nsField t) ++ leBytes 6 (secField t)

/-- The Geyser time at which the device stands. -/
def nowOf (d : Dev) : Time := d.geyser.now

/-- An arrival stamped `t` is taken: Geyser time stands at least there (R534). -/
def advance (t : Time) (d : Dev) : Dev :=
  { d with geyser := { d.geyser with now := max d.geyser.now t } }

/-- A meaning that changes only the device. -/
def onDev (f : Dev → Dev) (s : State) : State := { s with dev := f s.dev }

/-- One REFCLK tick with nothing waiting: Geyser adds its increment (R380). -/
def tick (s : State) : State :=
  { s with dev := { s.dev with geyser := { s.dev.geyser with now := s.dev.geyser.now + s.dev.geyser.incr.toNat } } }

/-- The next free value, and the counter moved on. -/
def fresh (d : Dev) : Nat × Dev := (d.free, { d with free := d.free + 1 })

/-! ### W1C bits (R5, Table 0.1) -/

/-- What the hardware has set at the present instant. -/
def setsNow (d : Dev) : List HwSet := if d.hwAt = nowOf d then d.hwSets else []

/-- The hardware sets W1C bits of a register now. -/
def noteSet (h : HwSet) (d : Dev) : Dev := { d with hwSets := h :: setsNow d, hwAt := nowOf d }
def hwSet (r : Reg) (bits : Nat) (d : Dev) : Dev := noteSet { reg := r, bits := bits } d

/-- The value of a register write without the W1C bits that the hardware has set at the instant of the write. -/
def lessHwSets (r : Reg) (v : W64) (d : Dev) : W64 :=
  (setsNow d).foldl (fun v e => if e.reg = r then v &&& ~~~(BitVec.ofNat 64 e.bits) else v) v

/-- The event of the present instant that a capture register did not take. -/
def lateOf? (r : Reg) (d : Dev) : Option Late := ((setsNow d).find? fun h => h.reg == r && h.late.isSome).bind (·.late)

/-! ### Counters and attention (12 R323, 13 R343) -/

/-- A saturating u32 counter counts `n` events (R350). -/
def Counter.add (c : Counter) (n : Nat) : Counter := { c with n := min (c.n + n) 4294967295 }

/-- Attention has been raised for the counter since the host's last read. -/
def Counter.tell (c : Counter) : Counter := { c with told := true }

/-- The host has read the counter. -/
def Counter.seen (c : Counter) : Counter := { c with told := false }

/-- A class is raised with a cause and its 40 detail bytes: new serial, log entry, RAISES (R323, R324, Table 13.17). -/
def raiseAttn (cls cause : Nat) (detail : List Byte) (d : Dev) : Dev :=
  let serial := d.attn.serial + 1
  let e : AttnEntry := { serial := serial, cls := cls, cause := cause, instant := nowOf d, detail := padTo 40 detail }
  let log := d.attn.log ++ [e]
  { d with attn := { d.attn with
      serial := serial
      pending := kput d.attn.pending cls serial
      raises := min (d.attn.raises + 1) 65535
      log := if log.length > 4096 then log.drop (log.length - 4096) else log } }

/-- The pending class that comes first in the order of R323; 0 when none is pending. -/
def firstClass (d : Dev) : Nat :=
  ([7, 1, 5, 4, 2, 3, 6].find? fun c => (kfind? d.attn.pending c).isSome).getD 0

/-- The set of pending classes as a mask, bit c for class c. -/
def attnMask (d : Dev) : Nat := d.attn.pending.foldl (fun a e => a + 2 ^ e.1) 0

/-- Cause 3 COUNTER of Table 13.18: item, instance, index, offset of the counter in its entry, value. -/
def counterDetail (item inst index off value : Nat) : List Byte :=
  leBytes 2 item ++ leBytes 2 inst ++ leBytes 4 index ++ leBytes 2 off ++ [0, 0] ++ leBytes 4 value

/-- A counter that raises class `cls` at its first increment after the host's last read: `n` events counted in it. -/
def countRaise (cls : Nat) (get : Dev → Counter) (put : Counter → Dev → Dev) (n item inst index off : Nat) (d : Dev) :
    Dev :=
  let c := (get d).add n
  let d' := put c.tell d
  if (get d).told then d' else raiseAttn cls 3 (counterDetail item inst index off c.n) d'

/-- Cause 7 SECURITY, class 5: event, session or device, requester, counter. -/
def securityAttn (event who requester counter : Nat) (d : Dev) : Dev :=
  raiseAttn 5 7 ([BitVec.ofNat 8 event, 0] ++ leBytes 2 who ++ leBytes 2 requester ++ [0, 0] ++ leBytes 8 counter) d

/-- Cause 5 RELOAD, class 6: plan identifier and version, blob, page address. -/
def reloadAttn (planId planVersion blob page : Nat) (d : Dev) : Dev :=
  raiseAttn 6 5 (leBytes 8 planId ++ leBytes 8 planVersion ++ leBytes 4 blob ++ leBytes 4 0 ++ leBytes 8 page) d

/-- Cause 6 TIME, class 3: event, states before and after, port, signed offset or step in ns. -/
def timeAttn (event before after port : Nat) (off : Int) (d : Dev) : Dev :=
  raiseAttn 3 6 ([BitVec.ofNat 8 event, BitVec.ofNat 8 before, BitVec.ofNat 8 after, BitVec.ofNat 8 port, 0, 0, 0, 0] ++
    leBytes 8 (BitVec.ofInt 64 off).toNat) d

/-! ### Tables of the device -/

def ctxOf (d : Dev) (c : W32) : Context := kget {} d.contexts c.toNat
def setCtx (c : W32) (x : Context) (d : Dev) : Dev := { d with contexts := kput d.contexts c.toNat x }
def modCtx (c : W32) (f : Context → Context) (d : Dev) : Dev := setCtx c (f (ctxOf d c)) d

def queueOf (d : Dev) (q : Nat) : Queue := kget {} d.queues.table q
def setQueue (q : Nat) (x : Queue) (d : Dev) : Dev :=
  { d with queues := { d.queues with table := kput d.queues.table q x } }
def modQueue (q : Nat) (f : Queue → Queue) (d : Dev) : Dev := setQueue q (f (queueOf d q)) d
def dropQueue (q : Nat) (d : Dev) : Dev := { d with queues := { d.queues with table := kdel d.queues.table q } }

/-- Session 0 is always open and has no keys (R311). -/
def sessOf (d : Dev) (n : Nat) : Session :=
  let x := kget {} d.sessions n
  if n = 0 then { x with isOpen := true, confirmed := true } else x
def setSess (n : Nat) (x : Session) (d : Dev) : Dev := { d with sessions := kput d.sessions n x }
def modSess (n : Nat) (f : Session → Session) (d : Dev) : Dev := setSess n (f (sessOf d n)) d

def slotOf (d : Dev) (n : Nat) : Slot := kget {} d.slots n
def modSlot (n : Nat) (f : Slot → Slot) (d : Dev) : Dev := { d with slots := kput d.slots n (f (slotOf d n)) }

def portOf (d : Dev) (n : Nat) : Port := kget {} d.ports n
def modPort (n : Nat) (f : Port → Port) (d : Dev) : Dev := { d with ports := kput d.ports n (f (portOf d n)) }

def countUnsupported (port : Nat) (d : Dev) : Dev := modPort port (fun p => { p with unsupported := p.unsupported.add 1 }) d

/-- What a port does with a received frame of a kind that the roles `carries` carry (R14, R450): a port without a role and one of
another role discard and count it. -/
def portHears (port : Nat) (carries : List PortRole) (f : Dev → Dev) (d : Dev) : Dev :=
  let p := portOf d port
  if !p.link then d
  else if carries.contains p.role then f d
  else if p.role = .out then modPort port (fun p => { p with outReceived := p.outReceived.add 1 }) d
  else countUnsupported port d

/-- A frame of `size` bytes meets its port's receive buffer of 256 KiB, of which `drained` bytes have left since the last
arrival: one that finds it full is discarded whole and counted (R138). -/
def portBuffers (port size drained : Nat) (f : Dev → Dev) (d : Dev) : Dev :=
  let held := (portOf d port).rxBytes - drained
  if 262144 < held + size then modPort port (fun p => { p with rxBytes := held, overruns := p.overruns.add 1 }) d
  else f (modPort port (fun p => { p with rxBytes := held + size }) d)

def streamOf? (d : Dev) (n : Nat) : Option Stream := kfind? d.streams n
def setStream (n : Nat) (x : Stream) (d : Dev) : Dev := { d with streams := kput d.streams n x }

def coreOf (d : Dev) (n : Nat) : Core := kget {} d.cores.core n
def setCore (n : Nat) (x : Core) (d : Dev) : Dev := { d with cores := { d.cores with core := kput d.cores.core n x } }
def modCore (n : Nat) (f : Core → Core) (d : Dev) : Dev := setCore n (f (coreOf d n)) d

def procOf (d : Dev) (n : Nat) : Processor := kget {} d.cores.proc n
def modProc (n : Nat) (f : Processor → Processor) (d : Dev) : Dev :=
  { d with cores := { d.cores with proc := kput d.cores.proc n (f (procOf d n)) } }

/-- A Steward processor runs: neither stopped by chip safe state nor held by its watchdog. -/
def procUp (n : Nat) (d : Dev) : Bool := !(procOf d n).stopped && !(procOf d n).held

def signalOf (d : Dev) (n : Nat) : Signal := kget {} d.cores.signals n
def setSignal (n : Nat) (x : Signal) (d : Dev) : Dev :=
  { d with cores := { d.cores with signals := kput d.cores.signals n x } }

def dmaOf (d : Dev) (n : Nat) : DmaChannel := kget {} d.cores.dma n
def modDma (n : Nat) (f : DmaChannel → DmaChannel) (d : Dev) : Dev :=
  { d with cores := { d.cores with dma := kput d.cores.dma n (f (dmaOf d n)) } }

def uwdOf (d : Dev) (n : Nat) : UnitWd := kget {} d.watch.uwd n
def modUwd (n : Nat) (f : UnitWd → UnitWd) (d : Dev) : Dev :=
  { d with watch := { d.watch with uwd := kput d.watch.uwd n (f (uwdOf d n)) } }
def modDwd (f : DeviceWd → DeviceWd) (d : Dev) : Dev := { d with watch := { d.watch with dwd := f d.watch.dwd } }

def gaugeOf (d : Dev) (n : Nat) : Gauge := kget {} d.pace.gauges n
def modGauge (n : Nat) (f : Gauge → Gauge) (d : Dev) : Dev :=
  { d with pace := { d.pace with gauges := kput d.pace.gauges n (f (gaugeOf d n)) } }

def pulseOf (d : Dev) (n : Nat) : Pulse := kget {} d.geyser.pulses n
def modPulse (n : Nat) (f : Pulse → Pulse) (d : Dev) : Dev :=
  { d with geyser := { d.geyser with pulses := kput d.geyser.pulses n (f (pulseOf d n)) } }
def ptpOf (d : Dev) (n : Nat) : PtpPort := kget {} d.geyser.ports n
def modPtp (n : Nat) (f : PtpPort → PtpPort) (d : Dev) : Dev :=
  { d with geyser := { d.geyser with ports := kput d.geyser.ports n (f (ptpOf d n)) } }

def partOf? (d : Dev) (p : Nat) : Option Partition := kfind? d.sched.parts p
def modSched (f : Sched → Sched) (d : Dev) : Dev := { d with sched := f d.sched }
def modCal (f : Caldera → Caldera) (d : Dev) : Dev := { d with cal := f d.cal }
def modGnt (f : Gauntlet → Gauntlet) (d : Dev) : Dev := { d with gnt := f d.gnt }
def modGey (f : Geyser → Geyser) (d : Dev) : Dev := { d with geyser := f d.geyser }
def modPace (f : Pace → Pace) (d : Dev) : Dev := { d with pace := f d.pace }
def modFab (f : Fabric → Fabric) (d : Dev) : Dev := { d with fabric := f d.fabric }
def modStart (f : Start → Start) (d : Dev) : Dev := { d with start := f d.start }
def modFront (f : Front → Front) (d : Dev) : Dev := { d with front := f d.front }
def modBonnet (f : Bonnet → Bonnet) (d : Dev) : Dev := { d with bonnet := f d.bonnet }
def modPlans (f : Plans → Plans) (d : Dev) : Dev := { d with plans := f d.plans }
def modMem (f : Mem → Mem) (s : State) : State := { s with mem := f s.mem }
def modCtl (f : MemCtl → MemCtl) (d : Dev) : Dev := { d with memctl := f d.memctl }
def segOf (d : Dev) (n : Nat) : Segment := kget {} d.memctl.segs n
def modSeg (n : Nat) (f : Segment → Segment) (d : Dev) : Dev :=
  modCtl (fun m => { m with segs := kput m.segs n (f (segOf d n)) }) d
def stopOf (d : Dev) (n : Nat) : MemStop := kget {} d.memctl.stops n
def modStop (n : Nat) (f : MemStop → MemStop) (d : Dev) : Dev :=
  modCtl (fun m => { m with stops := kput m.stops n (f (stopOf d n)) }) d

/-! ### Allocation of segments (R243) -/

/-- The device address of a segment. -/
def segAddr (g : Nat) : Nat :=
  if g < 12192 then 0x200000 * g else 0x1000000000 + (g - 12192) / 128 * 0x800000 + (g - 12192) % 128 * 0x10000

def allocOf? (d : Dev) (w : AllocFor) : Option Alloc := d.memctl.allocs.find? fun a => a.what == w
def allocBase (d : Dev) (w : AllocFor) : Nat := ((allocOf? d w).map fun a => segAddr a.first).getD 0

/-- Where HBM segment `g` lies now: a relocated segment's users go on to its spare (R297). -/
def segNow (d : Dev) (g : Nat) : Nat := kget g d.memctl.moved g

/-- The place of a device address that a user of its segment names, and the name of a place, across relocations (R297). Users keep the
names that they had, so that an allocation of several segments stays one range: DESIGN CHOICE (notes/assumptions/49.md). -/
def placeNow (d : Dev) (addr : Nat) : Nat :=
  if addr < 0x5F4000000 then 0x200000 * segNow d (addr / 0x200000) + addr % 0x200000 else addr
def nameOf (d : Dev) (addr : Nat) : Nat :=
  match d.memctl.moved.find? fun e => e.2 == addr / 0x200000 with
  | some e => 0x200000 * e.1 + addr % 0x200000
  | none => addr

def allocSegs (d : Dev) (a : Alloc) : List Nat := (List.range a.count).map fun i => segNow d (a.first + i)

/-- `n` segments from `s` on are free and in service. -/
def runFree (d : Dev) (s n : Nat) : Bool :=
  (d.memctl.allocs.all fun a => decide (s + n ≤ a.first) || decide (a.first + a.count ≤ s)) &&
    d.memctl.segs.all fun e => !(e.2.retired && decide (s ≤ e.1) && decide (e.1 < s + n))

/-- The lowest free run of `n` segments in `[lo, hi)`. Which of the free segments the Steward takes the manual leaves open: DESIGN
CHOICE (notes/assumptions/49.md). -/
def freeRun? (d : Dev) (lo hi n : Nat) : Option Nat :=
  let ends := (d.memctl.allocs.map fun a => a.first + a.count) ++
    (d.memctl.segs.filter (·.2.retired)).map (·.1 + 1)
  ((lo :: ends).filter fun s => decide (lo ≤ s) && decide (s + n ≤ hi) && runFree d s n).foldl
    (fun a s => match a with
      | none => some s
      | some b => some (min b s)) none

/-- Segments are tagged for partition `p`; those that another owner had are zeroed before (R243). -/
def tagSegs (p : Nat) (mode : SegMode) (reloadable : Bool) (gs : List Nat) (d : Dev) : Dev :=
  gs.foldl (fun d g =>
    let stale := (segOf d g).owner != p || (segOf d g).device
    let d := modSeg g (fun x => { x with valid := true, device := false, owner := p, readMask := 0, mode := mode,
                                          reloadable := reloadable }) d
    if stale then modCtl (fun m => { m with toZero := g :: m.toZero }) d else d) d

/-- The Steward allocates HBM segments for `bytes` bytes to partition `p`; what it has for `w` already stays. The 512 MiB at the top
of HBM are the device's own (R258, term 1). -/
def allocate (w : AllocFor) (p : Nat) (mode : SegMode) (reloadable : Bool) (bytes : Nat) (d : Dev) : Dev :=
  let n := (bytes + 2097151) / 2097152
  if n = 0 ∨ (allocOf? d w).isSome then d
  else match freeRun? d 0 11936 n with
    | some s =>
      tagSegs p mode reloadable ((List.range n).map (s + ·))
        (modCtl (fun m => { m with allocs := m.allocs ++ [{ what := w, first := s, count := n }] }) d)
    | none => d

/-- Shared SRAM of a cluster for a partition's scratch, EPHEMERAL (Table 11.2); a smaller allocation gives way to a larger. -/
def allocateSram (cluster p n : Nat) (d : Dev) : Dev :=
  let w : AllocFor := .sram cluster p
  if ((allocOf? d w).map fun a => decide (n ≤ a.count)).getD (n == 0) then d
  else
    let d := modCtl (fun m => { m with allocs := m.allocs.filter fun a => a.what != w }) d
    match freeRun? d (12192 + 128 * cluster) (12192 + 128 * cluster + 127) n with
    | some s =>
      tagSegs p .ephemeral false ((List.range n).map (s + ·))
        (modCtl (fun m => { m with allocs := m.allocs ++ [{ what := w, first := s, count := n }] }) d)
    | none => d

/-- Bytes that a unit with the device key (16) or with a partition's key writes from an address on; they reach memory before the next
access to it. -/
def storeBytes (addr key : Nat) (b : List Byte) (d : Dev) : Dev := modCtl (fun m => { m with toWrite := m.toWrite ++ [(addr, key, b)] }) d

/-- An allocation ends: its segments are no longer valid; their owner stays for the zeroing of R243. -/
def release (w : AllocFor) (d : Dev) : Dev :=
  match allocOf? d w with
  | none => d
  | some a =>
    let inside (x : Nat) : Bool := decide (segAddr a.first ≤ x) && decide (x < segAddr (a.first + a.count))
    modCtl (fun m => { m with allocs := m.allocs.filter (fun b => b.what != w), toWrite := m.toWrite.filter fun e => !inside e.1 })
      ((allocSegs d a).foldl (fun d g => modSeg g (fun x => { x with valid := false, readMask := 0 }) d) d)

/-- READ_MASK of an allocation's segments (R245). -/
def setReadMask (w : AllocFor) (mask : W16) (d : Dev) : Dev :=
  match allocOf? d w with
  | none => d
  | some a => (allocSegs d a).foldl (fun d g => modSeg g (fun x => { x with readMask := mask }) d) d

/-- Partitions that hold a context which is not CLOSED and meets a condition, as a READ_MASK. -/
def holders (d : Dev) (f : Context → Bool) : W16 :=
  BitVec.ofNat 16 ((List.range 16).foldl (fun a p =>
    if d.contexts.any fun e => e.2.state != .closed && e.2.partition == p && f e.2 then a + 2 ^ p else a) 0)

/-- READ_MASK in the two cases of R245: a frame ring, for the contexts bound to the stream; a plan copy with its code and constants,
for the contexts of the plan. -/
def setMasks (d : Dev) : Dev :=
  d.memctl.allocs.foldl (fun e a => match a.what with
    | .ring i => setReadMask a.what (holders d fun x => x.streams.contains i) e
    | .plan id v => setReadMask a.what (holders d fun x => x.planId == id && x.planVersion == v) e
    | _ => e) d

/-- The number of fenced cores (Table 12.2). -/
def fencedCount (d : Dev) : Nat := (d.cores.core.filter fun e => e.2.fenced).length

/-- Core `n` is fenced. -/
def isFenced (d : Dev) (n : Nat) : Bool := (coreOf d n).fenced

/-- The device is in safe state (R410) or has failed (R412). -/
def inSafe (d : Dev) : Bool := d.front.state == .safeState || d.front.state == .chipFailed

/-- The device serves: READY, and resumed after its start (Tables 20.3, 20.6). -/
def serving (d : Dev) : Bool := d.front.state == .ready && d.start.resumed

/-- The device is in a fabric with a mirror peer (R472: two or more devices in service). -/
def inFabric (d : Dev) : Bool := d.fabric.role != 0
def hasMirror (d : Dev) : Bool :=
  inFabric d && decide ((d.fabric.members.filter fun e => e.2.inService).length ≥ 2)

/-- The mirror ring (R472): the manager, the deputy, then the workers in increasing device number; and the member that
follows this device in it. -/
def ringOrder (f : Fabric) : List Nat :=
  let of (r : Nat) : List Nat := (f.members.filter fun e => e.2.inService && e.2.role == r).map (·.1)
  of 1 ++ of 2 ++ of 3
def nextIn (n : Nat) (l : List Nat) : Option Nat :=
  (l.findIdx? (· == n)).bind fun i => if l.length < 2 then none else l[(i + 1) % l.length]?
def mirrorPeer? (f : Fabric) : Option Nat := if f.role = 0 then none else nextIn f.device (ringOrder f)

/-- The device has lost its lease: it writes nothing outside (R467). -/
def muted (d : Dev) : Bool := inSafe d || d.fabric.isolated

/-- The next whole multiple of `m` after `t`. -/
def nextMultiple (m t : Time) : Time := (t / m + 1) * m

/-- The multiple of `m` at which the next of a periodic series falls, the newest having been at `done`: the present instant where
it is one. -/
def nextBeat (m : Time) (done : Option Time) (t : Time) : Time :=
  if t % m = 0 ∧ done ≠ some t then t else nextMultiple m t

/-- Major-frame boundaries of a partition (R240): whether `t` is one, and the first at or after `t`. -/
def isBoundary (p : Partition) (t : Time) : Bool := decide (((t : Int) - p.epoch) % (us p.majorUs : Int) = 0)
def nextBoundary (p : Partition) (t : Time) : Time :=
  let m : Int := us p.majorUs
  let r := ((t : Int) - p.epoch) % m
  if r = 0 then t else ((t : Int) + (m - r)).toNat
/-- The number of the major frame that holds `t`. -/
def frameNo (p : Partition) (t : Time) : Int := ((t : Int) - p.epoch) / (us p.majorUs : Int)

/-- Loaded plan of an identifier and version, and the highest loaded version of an identifier (R338). -/
def planOf? (d : Dev) (id v : W64) : Option LoadedPlan :=
  d.plans.loaded.find? fun x => x.plan.identifier == id && x.plan.version == v
def newestPlan? (d : Dev) (id : W64) : Option LoadedPlan :=
  (d.plans.loaded.filter fun x => x.plan.identifier == id && x.active).foldl
    (fun a x => match a with
      | none => some x
      | some y => if y.plan.version.toNat < x.plan.version.toNat then some x else some y) none

/-- The template a context or result uses. -/
def templateOf? (d : Dev) (id v : W64) (t : Nat) : Option Template := do
  let p ← planOf? d id v
  p.plan.templates[t]?

end Sys2Proof.Machine
end

