-- ==== Sys2Proof/Machine/Flags.lean ====
section
/-! DEFINITION. Every flag and status computation: the status field of a reply, reason bits and the verdict that follows
from them, and the words that reads of the register tables return. -/

namespace Sys2Proof.Machine

open Sys2Proof

/-! ### Status field (Table 12.12) -/

/-- ATTN, CLASS and RESULT as the attention set stands (R322, R323). -/
def statusWord (d : Dev) (code : W16) : W16 :=
  let c := firstClass d
  let attn : Nat := if d.attn.pending.isEmpty then 0 else 32768
  BitVec.ofNat 16 (attn + c * 4096 + code.toNat % 4096)

/-! ### Reason bits and verdicts (Table 2.13, R52) -/

def rEnvelope : W32 := 0x00000001
def rOpeningInvalid : W32 := 0x00000002
def rBinding : W32 := 0x00000004
def rCommitInconsistent : W32 := 0x00000008
def rNonfinite : W32 := 0x00000010
def rRelation : W32 := 0x00000100
def rDeadline : W32 := 0x00001000
def rOpeningMissing : W32 := 0x00010000
def rEvidenceMissing : W32 := 0x00020000
def rFrameMissing : W32 := 0x00040000
def rOverRate : W32 := 0x00080000
def rSuspended : W32 := 0x00100000
def rPoisoned : W32 := 0x00200000
def rOvertaken : W32 := 0x00400000
def rMalformed : W32 := 0x00800000
def rNoEvidence : W32 := 0x01000000
def rSafeState : W32 := 0x10000000

def refutedMask : W32 := 0x0000001F
def unverifiedMask : W32 := 0x01FF0000

/-- The first class in the order WITHHELD, REFUTED, LATE, UNVERIFIED, DOUBTED with a reason bit set; BELIEVED with none
(R52). Codes of Table 2.16. -/
def verdictOf (r : W32) : Nat :=
  if r &&& rSafeState ≠ 0 then 6
  else if r &&& refutedMask ≠ 0 then 3
  else if r &&& rDeadline ≠ 0 then 4
  else if r &&& unverifiedMask ≠ 0 then 5
  else if r &&& rRelation ≠ 0 then 2
  else 1

/-! ### Words of the register tables -/

/-- Bit `b` as a number when `c` holds. -/
def bit (b : Nat) (c : Bool) : Nat := if c then 2 ^ b else 0

/-- STATE of DEVICE_STATE (Table 12.2). -/
def stateCode : DevState → Nat
  | .reset => 0 | .boot => 1 | .ready => 2 | .safeState => 3 | .chipFailed => 4

/-- DEVICE_STATE (Table 12.2). -/
def deviceStateWord (d : Dev) : W32 :=
  BitVec.ofNat 32 (stateCode d.front.state * 2 ^ 28 + (fencedCount d % 256) * 2 ^ 16 + d.front.warmCount)

/-- MBOX_CTRL (Table 12.3). -/
def mboxCtrlWord (d : Dev) : W32 :=
  BitVec.ofNat 32 (bit 30 d.front.mboxBusy + bit 29 d.front.mboxDone + d.front.mboxSeq)

/-- CAL_SRC (Table 16.3). -/
def calSrcWord (x : Source) : W32 :=
  BitVec.ofNat 32 (bit 31 x.severe + bit 30 x.wire + bit 29 x.force + bit 28 x.rawSeen + bit 27 x.testSticky +
    bit 26 x.testSevere + bit 25 x.overrun + bit 24 x.replayed + x.heldMask * 2 ^ 16 + x.count)

/-- CAL_CFG (Table 16.4). -/
def calCfgWord (x : Source) : W64 :=
  BitVec.ofNat 64 (bit 63 x.fixed + x.cls * 2 ^ 45 + x.mask * 2 ^ 40 + x.n * 2 ^ 32 + x.w)

/-- CAL_REACT (Table 16.6). -/
def calReactWord (c : Caldera) : W32 :=
  BitVec.ofNat 32 (bit 31 c.selfFault + bit 30 c.chipSafe + bit 29 c.safeOut + bit 28 c.errN + bit 27 c.releasePending +
    bit 24 c.selfDetected + bit 23 c.hold)

/-- CORE_MODE (Table 9.8). -/
def coreModeWord (c : Core) : W32 :=
  BitVec.ofNat 32 (bit 31 c.prepared + bit 30 (c.prepared && c.pendingSplit) + bit 29 c.split + bit 28 c.fenced +
    c.changeId % 65536)

/-- SEG_TAG (Table 10.3) and SEG_MODE (Table 11.1). -/
def segTagWord (x : Segment) : W32 :=
  BitVec.ofNat 32 (x.readMask.toNat * 2 ^ 16 + bit 7 x.valid + bit 6 x.device + x.owner)
def segModeWord (x : Segment) : W32 :=
  BitVec.ofNat 32 (bit 31 x.converting + bit 30 x.retired +
    (match x.mode with | .durable => 0 | .ephemeral => 1 | .check => 2))

/-- HBM_BUCKET and HBM_BUCKET_STAT (Tables 10.5 and 10.6), as well as the mesh buckets (R248). -/
def bucketWord (b : Bucket) : W32 := BitVec.ofNat 32 (b.rate % 65536 * 65536 + b.depth % 65536)
def bucketStatWord (b : Bucket) : W32 := BitVec.ofNat 32 (bit 31 b.waited + b.level / 2 ^ 32 % 65536)

/-- DMA_HALT (Table 11.5). -/
def dmaHaltWord (c : DmaChannel) : W32 :=
  BitVec.ofNat 32 (bit 31 c.halted + c.reason * 2 ^ 27 + c.partition % 16 * 2 ^ 23 + min c.linesDone (2 ^ 23 - 1))

/-- DMA_FAULT of a stop (Table 16.8): stops 0 to 15 the clusters, 16 stop P. -/
def dmaFaultWord (d : Dev) (stop : Nat) : W32 :=
  let n := if stop < 16 then 16 else 32
  BitVec.ofNat 32 ((List.range n).foldl (fun a i => a + bit i (dmaOf d (16 * stop + i)).out) 0)

/-- GAUGE_COUNT, GAUGE_STATUS (Tables 6.4, 6.5) and FLOOR_FUSE (Table 6.3). -/
def gaugeCountWord (g : Gauge) : W32 := g.countB ++ g.countA
def gaugeStatusWord (g : Gauge) : W32 :=
  BitVec.ofNat 32 (bit 31 g.valid + bit 30 g.below + bit 29 g.disagree + g.min.toNat)
def floorFuseWord (p : Pace) : W32 := p.floorInv ++ p.floor

def wdCode : WdState → Nat
  | .off => 0 | .running => 1 | .grace => 2 | .held => 3 | .restart => 2 | .expired => 3

/-- UWD_CFG and UWD_STATUS (Tables 17.3, 17.4). -/
def uwdCfgWord (w : UnitWd) : W64 :=
  BitVec.ofNat 64 (bit 63 w.enabled + w.graceUs * 2 ^ 48 + w.periodUs * 2 ^ 24 + w.openUs)
def uwdStatusWord (w : UnitWd) : W32 :=
  BitVec.ofNat 32 (wdCode w.state * 2 ^ 30 + bit 29 w.expired + bit 28 w.early + bit 27 w.hard + bit 26 w.cfgErr +
    bit 25 w.test + w.expiries)

/-- DWD_CFG and DWD_STATUS (Tables 17.7, 17.8). -/
def dwdCfgWord (w : DeviceWd) : W64 := BitVec.ofNat 64 (bit 63 w.enabled + w.periodUs * 2 ^ 24 + w.openUs)
def dwdStatusWord (w : DeviceWd) : W32 :=
  BitVec.ofNat 32 (wdCode w.state * 2 ^ 30 + bit 29 w.late + bit 28 w.early + bit 27 w.badValue + bit 26 w.failover +
    bit 25 w.pwrCut)

/-- Pair i is driven to (1, 0) (R444). -/
def pairActive (d : Dev) (i : Nat) : Bool := d.gnt.armed && !d.gnt.forced && (portOf d i).role == .out

/-- A test pulse of a pin is in progress: 100 µs from its start (R445). -/
def pulsing (d : Dev) (pin : Nat) : Bool :=
  match kfind? d.gnt.pulses pin with
  | some t => decide (d.geyser.now < t + us 100)
  | none => false

/-- DRIVE of GNT_STATUS: bit 2i SAFE_A[i], bit 2i + 1 SAFE_B[i]; a test pulse inverts its pin (R444, R445). -/
def gntDrive (d : Dev) : Byte :=
  BitVec.ofNat 8 ((List.range 4).foldl (fun a i =>
    if pairActive d i then a + bit (2 * i) (!pulsing d (2 * i)) + bit (2 * i + 1) (pulsing d (2 * i + 1)) else a) 0)

/-- GNT_STATUS (Table 18.1). -/
def gntStatusWord (d : Dev) : W32 :=
  BitVec.ofNat 32 (bit 31 d.gnt.armed + bit 30 d.gnt.forced + bit 29 d.gnt.testPassed + (gntDrive d ^^^ d.gnt.readDiff).toNat * 2 ^ 16 +
    (gntDrive d).toNat * 2 ^ 8 + (List.range 4).foldl (fun a i => a + bit (4 + i) (pairActive d i)) 0 +
    d.gnt.readbackErr.toNat)

/-- The slot of the check-value unit that a context has: its place in the order of opening. -/
def cvuSlotOf (x : Context) : Nat := x.order % 65536
/-- The alive counter of a slot: its context's, or what was last written to a slot without a context. -/
def cvuCounter (d : Dev) (slot : Nat) : Nat :=
  match d.contexts.find? fun e => cvuSlotOf e.2 == slot with
  | some e => e.2.alive
  | none => kget 0 d.gnt.cvuNext slot

/-- CVU_ALIVE and CVU_CTRL (Tables 18.5, 18.6). -/
def cvuAliveWord (d : Dev) : W32 :=
  BitVec.ofNat 32 (d.gnt.cvuSlot % 65536 * 65536 + cvuCounter d d.gnt.cvuSlot % 65536)
def cvuCtrlWord (d : Dev) : W32 := BitVec.ofNat 32 (bit 30 d.gnt.cvuDetected)

def clockCode : ClockState → Nat
  | .unlocked => 0 | .locked => 1 | .freeRun => 2

/-- GEY_CTRL (Table 15.2), PULSE_CTRL (Table 15.10), TXQ_STATUS (Table 15.8). -/
def geyCtrlWord (g : Geyser) : W32 :=
  BitVec.ofNat 32 (clockCode g.state * 2 ^ 30 + bit 29 g.clamped + bit 28 g.stepRefused + bit 27 g.stepped)
def pulseCtrlWord (p : Pulse) : W32 :=
  BitVec.ofNat 32 (bit 31 p.run + p.mode * 2 ^ 29 + bit 28 p.stopped + bit 27 p.level)
def txqStatusWord (p : Port) : W32 := BitVec.ofNat 32 (bit 31 p.txqOverflow + p.txq.length)

/-- START_STATUS (Table 20.5). -/
def startStatusWord (s : Start) : W32 :=
  BitVec.ofNat 32 (bit 31 s.wiresDone + bit 30 (!s.wireFail.isEmpty) + bit 29 s.wireTest + s.wireFail.length % 65536)

/-! ### Write-one-to-clear registers that capture once (R180, R210, R232, R300) -/

/-- A word with VALID (bit 31) and MORE (bit 30) after a write of `w` to it: bits written with 1 clear. -/
def w1cValidMore (old w : W32) : W32 := old &&& ~~~(w &&& 0xC0000000)

/-- Capture of a new event: `body` (bits 29 to 8) when VALID is 0, otherwise MORE; the count in bits 7 to 0 saturates. -/
def captureWord (old body : W32) : W32 :=
  let count : W32 := if old &&& 0xFF = 0xFF then 0xFF else (old &&& 0xFF) + 1
  if old &&& 0x80000000 = 0 then 0x80000000 ||| (old &&& 0x40000000) ||| (body &&& 0x3FFFFF00) ||| count
  else (old &&& 0xFFFFFF00) ||| 0x40000000 ||| count

/-- An event meets the capture register `r`, which read `old`: the bits it sets, and what it would have captured (R5, R180). -/
def noteCapture (r : Reg) (old body : W32) (addr : W64) (d : Dev) : Dev :=
  if old &&& 0x80000000 = 0 then hwSet r 0x80000000 d
  else match lateOf? r d with
    | some l => noteSet { reg := r, bits := 0x40000000, late := some { l with again := true } } d
    | none =>
      if (setsNow d).any fun h => h.reg == r then hwSet r 0x40000000 d
      else noteSet { reg := r, bits := 0x40000000, late := some { body := body, addr := addr, before := old.getLsbD 30 } } d

/-- A capture register and its address register after a write of `w`: a write of 1 to VALID in the instant of an event leaves
VALID 1 with that event captured (R180). -/
def writeCapture (r : Reg) (old : W32) (addr : W64) (w : W64) (d : Dev) : W32 × W64 :=
  match (if w.getLsbD 31 then lateOf? r d else none) with
  | some l =>
    (0x80000000 ||| (l.body &&& 0x3FFFFF00) ||| (old &&& 0xFF) |||
      (if l.again || (l.before && !w.getLsbD 30) then 0x40000000 else 0), l.addr)
  | none => (w1cValidMore old ((lessHwSets r w d).setWidth 32), addr)

end Sys2Proof.Machine
end

