-- ==== Sys2Proof/Machine/Operands.lean ====
section
/-! DEFINITION. The operand forms of the commands: where a Denec packet keeps its header, inline fields and payload (12 Table
12.7, R2), the identifiers that those fields hold, and the fields of a register write (00 R5). -/

namespace Sys2Proof.Machine

open Sys2Proof

/-! ### Denec packets -/

/-- Bytes 0x00 to 0x2F. -/
def headerBytes (p : Packet) : List Byte :=
  leBytes 2 p.opcode.toNat ++ leBytes 2 p.flags.toNat ++ leBytes 4 p.length.toNat ++ leBytes 8 p.counter.toNat ++
  leBytes 2 p.session.toNat ++ [p.partition, p.priority] ++ leBytes 4 p.context.toNat ++ leBytes 8 p.tag.toNat ++
  bytesAt p.inl 0 16

/-- The L − 64 payload bytes. -/
def payloadOf (p : Packet) : List Byte := bytesAt p.payload 0 (p.length.toNat - 64)

/-- An inline field of `n` bytes at packet offset 0x20 + `o`, and a payload field. -/
def inl (p : Packet) (o n : Nat) : Nat := fieldAt p.inl o n
def pay (p : Packet) (o n : Nat) : Nat := fieldAt (payloadOf p) o n

/-! ### Register words -/

/-- A field bit after a write of `w` to a W1C field: 1 clears it. -/
def w1c (old : Bool) (w : Nat) (b : Nat) : Bool := old && !w.testBit b

end Sys2Proof.Machine
end

