-- ==== Sys2Proof/Machine/Codes.lean ====
section
/-! DEFINITION. Checks over byte strings: the CRCs of Tables 3.2 and 18.4, the HMAC of R363, the commitments of R70 to R72,
the word code of R272 and the field of the page code (R276). -/

namespace Sys2Proof.Machine

open Sys2Proof

/-! ### Reflected CRCs -/

/-- `n` bit steps of a reflected CRC with the reflected polynomial `p`. -/
def crcBits {w : Nat} (p : BitVec w) : Nat → BitVec w → BitVec w
  | 0, r => r
  | n + 1, r => crcBits p n (if r.getLsbD 0 then (r >>> 1) ^^^ p else r >>> 1)

/-- A reflected CRC register after a byte string. -/
def crcRun {w : Nat} (p : BitVec w) (r : BitVec w) : List Byte → BitVec w
  | [] => r
  | b :: l => crcRun p (crcBits p 8 (r ^^^ (b.setWidth w))) l

/-- CRC-64 of ECMA-182, reflected (Table 3.2). -/
def crc64 (l : List Byte) : W64 := ~~~(crcRun (0xC96C5795D7870F42 : W64) (BitVec.allOnes 64) l)
/-- CRC-32C (Table 3.2). -/
def crc32c (l : List Byte) : W32 := ~~~(crcRun (0x82F63B78 : W32) (BitVec.allOnes 32) l)
/-- The message CRC-32 (Table 18.4), whose polynomial 0xF4ACFB13 reads 0xC8DF352F reflected. -/
def crcMsg (l : List Byte) : W32 := ~~~(crcRun (0xC8DF352F : W32) (BitVec.allOnes 32) l)

/-! ### SM3 uses -/

/-- A digest as its 32-byte output string (R351). -/
def digestBytes (h : W256) : List Byte := beBytes 32 h.toNat
/-- The first 16 bytes of a digest, as a 128-bit value whose first byte is most significant. -/
def first16 (h : W256) : W128 := h.extractLsb' 128 128

/-- HMAC-SM3 under a 32-byte key (R363), the whole digest. -/
def hmac (key : W256) (msg : List Byte) : W256 :=
  let k0 := padTo 64 (digestBytes key)
  let inner := Config.sm3 (k0.map (· ^^^ 0x36) ++ msg)
  Config.sm3 (k0.map (· ^^^ 0x5C) ++ digestBytes inner)

/-! ### Commitments (R70 to R72) -/

/-- A leaf: SM3(0x00 ‖ tile). -/
def leaf (tile : List Byte) : W256 := Config.sm3 (0x00 :: tile)
/-- An inner node: SM3(0x01 ‖ left ‖ right). -/
def node (l r : W256) : W256 := Config.sm3 (0x01 :: (digestBytes l ++ digestBytes r))

/-- One level of the tree: adjacent nodes pair, a last odd node is carried unchanged (R70). -/
def treeLevel : List W256 → List W256
  | a :: b :: r => node a b :: treeLevel r
  | l => l

/-- The root, by at most `fuel` levels. -/
def treeRoot : Nat → List W256 → W256
  | _, [] => 0
  | _, [a] => a
  | 0, a :: _ => a
  | fuel + 1, l => treeRoot fuel (treeLevel l)

/-- The SECURE commitment of the tiles (R70); a tensor has at most 2^22 tiles (R69). -/
def secureRoot (tiles : List (List Byte)) : W256 := treeRoot 23 (tiles.map leaf)

/-- The procedure of R71: hash so far, index, nodes on the level, path left. -/
def pathRun : Nat → W256 → Nat → Nat → List W256 → Option (W256 × List W256)
  | 0, h, _, n, p => if n ≤ 1 then some (h, p) else none
  | fuel + 1, h, i, n, p =>
    if n ≤ 1 then some (h, p)
    else if i % 2 = 1 then
      match p with
      | [] => none
      | q :: r => pathRun fuel (node q h) (i / 2) ((n + 1) / 2) r
    else if i + 1 < n then
      match p with
      | [] => none
      | q :: r => pathRun fuel (node h q) (i / 2) ((n + 1) / 2) r
    else pathRun fuel h (i / 2) ((n + 1) / 2) p

/-- An opening of tile `i` of `t` is consistent with `root` (R71). -/
def pathOk (root : W256) (tile : List Byte) (i t : Nat) (path : List W256) : Bool :=
  match pathRun 23 (leaf tile) i t path with
  | some (h, []) => h == root
  | _ => false

/-- The list digest of a tile list (R72). -/
def listDigest (l : List W64) : W64 := crc64 (l.flatMap fun v => leBytes 8 v.toNat)

/-- Bytes cut into tiles of 4,096, the last padded with zero (R69), by at most `fuel` tiles. -/
def tilesOf : Nat → List Byte → List (List Byte)
  | 0, _ => []
  | _ + 1, [] => []
  | fuel + 1, l => padTo 4096 (l.take 4096) :: tilesOf fuel (l.drop 4096)

/-! ### The word code (R272 to R275) -/

/-- The columns h_0 to h_63. -/
def columns : List Byte :=
  [0x07, 0x0B, 0x0D, 0x0E, 0x13, 0x15, 0x16, 0x19, 0x1A, 0x1C, 0x23, 0x25, 0x26, 0x29] ++
  [0x2A, 0x2C, 0x31, 0x32, 0x34, 0x38, 0x43, 0x45, 0x46, 0x49, 0x4A, 0x4C, 0x51, 0x52] ++
  [0x54, 0x58, 0x61, 0x62, 0x64, 0x68, 0x70, 0x83, 0x85, 0x86, 0x89, 0x8A, 0x8C, 0x91] ++
  [0x92, 0x94, 0x98, 0xA1, 0xA2, 0xA4, 0xA8, 0xB0, 0xC1, 0xC2, 0xC4, 0xC8, 0xD0, 0xE0] ++
  [0x1F, 0x3E, 0x7C, 0xF8, 0xF1, 0xE3, 0xC7, 0x8F]

/-- The check byte of a word: the XOR of the columns of its set bits. -/
def checkByte (w : W64) : Byte :=
  (columns.foldl (fun (a : Byte × Nat) h => ((if w.getLsbD a.2 then a.1 ^^^ h else a.1), a.2 + 1)) (0, 0)).1

/-- What a syndrome says of a word (Table 11.3). -/
inductive WordRead where
  | clean | checkBit | dataBit (i : Nat) | bad
  deriving DecidableEq, Repr

/-- Table 11.3. -/
def readSyndrome (s : Byte) : WordRead :=
  if s = 0 then .clean
  else if (List.range 8).any (fun j => s == (1 : Byte) <<< j) then .checkBit
  else match columns.findIdx? (· == s) with
    | some i => .dataBit i
    | none => .bad

/-! ### GF(2^8) (R276) -/

/-- Multiplication by α = 0x02 modulo 0x11D. -/
def gfTimes2 (x : Byte) : Byte := if x.getLsbD 7 then (x <<< 1) ^^^ 0x1D else x <<< 1

/-- Multiplication in the field, over the 8 bits of `y` from the top. -/
def gfMul (x y : Byte) : Byte :=
  [7, 6, 5, 4, 3, 2, 1, 0].foldl (fun acc i => (gfTimes2 acc) ^^^ (if y.getLsbD i then x else 0)) 0

/-- α^m. -/
def gfPow : Nat → Byte
  | 0 => 1
  | m + 1 => gfTimes2 (gfPow m)

/-- The locator of a beat: α^m for m up to 254, and 0 for 255. -/
def locator (m : Nat) : Byte := if m = 255 then 0 else gfPow m

/-- The inverse, x^254; zero has none and gives zero. -/
def gfInv (x : Byte) : Byte := (List.range 254).foldl (fun a _ => gfMul a x) 1

end Sys2Proof.Machine
end

