-- ==== Sys2Proof/Machine/Verdicts.lean ====
section
/-! DEFINITION. Verdicts: posting to the challenge queue, the verdict record and its ring, the message on the OUT port, and
the rules that conclude a result (02, 03 R82 to R88, 18 R450 to R456). -/

namespace Sys2Proof.Machine

open Sys2Proof

/-! ### Tensors -/

/-- Elements of a tensor. -/
def elemCount (t : TensorDesc) : Nat := t.dims.foldl (· * ·) 1

/-- Elements per tile (Table 3.1); 0 for a code that is no element format. -/
def elemsPerTile (f : Byte) : Nat :=
  match f.toNat with
  | 0x01 | 0x02 | 0x04 | 0x05 => 4096
  | 0x03 => 8192
  | 0x08 | 0x09 | 0x0C => 2048
  | 0x0A | 0x0B => 1024
  | 0x06 => 7680
  | 0x07 => 3968
  | _ => 0

/-- Bytes that `n` elements of one tile take in the canonical stream (Table 3.1, R68). -/
def elemBytes (f : Byte) (n : Nat) : Nat :=
  match f.toNat with
  | 0x01 | 0x02 | 0x04 | 0x05 => n
  | 0x03 => (n + 1) / 2
  | 0x08 | 0x09 | 0x0C => 2 * n
  | 0x0A | 0x0B => 4 * n
  | 0x06 => 17 * ((n + 31) / 32)
  | 0x07 => 33 * ((n + 31) / 32)
  | _ => 0

/-- The length of a tensor's canonical byte stream: whole tiles of 4,096 bytes, then the last tile's bytes (R69). -/
def canonLen (t : TensorDesc) : Nat :=
  let n := elemCount t
  let p := elemsPerTile t.format
  if p = 0 ∨ n = 0 then 0
  else
    let full := (n - 1) / p
    full * 4096 + elemBytes t.format (n - full * p)

/-- The delivered bytes of a tensor: its tiles in order, cut to the canonical length. -/
def tensorBytes (t : TensorDesc) (x : TensorTiles) : List Byte :=
  ((x.tiles.map (·.2)).flatten).take (canonLen t)

/-- Every tile of the tensor has been received. -/
def tensorFull (t : TensorDesc) (x : TensorTiles) : Bool := x.tiles.length == t.tiles

/-! ### The challenge queue (R82 to R88, R541) -/

/-- The entry sequence after `s`: one more modulo 2^32, zero skipped (Table 3.8). -/
def nextEntrySeq (s : W32) : W32 := if s + 1 = 0 then 1 else s + 1

/-- `n` bytes, and the CRC-32C over them in the last four of a 64-byte line. -/
def sealLine (b : List Byte) : List Byte :=
  let line := bytesAt b 0 60
  line ++ leBytes 4 (crc32c line).toNat

/-- A run of tiles in 8 bytes (Table 3.9). -/
def runBytes (r : Run) : List Byte := leBytes 2 r.layer ++ leBytes 2 r.count ++ leBytes 4 r.first

/-- Type, run count and flags of an entry (Table 3.8), and its 40 body bytes (Table 3.9). -/
def entryHead : EntryBody → Nat × Nat × Nat
  | .frameNotice .. => (1, 0, 0)
  | .challenge _ _ _ _ runs more last => (2, runs.length, bit 0 more + bit 1 last)
  | .dependency runs more last => (3, runs.length, bit 0 more + bit 1 last)
  | .cancel => (4, 0, 0)
def entryBytes : EntryBody → List Byte
  | .frameNotice stream status rtp cap => leBytes 2 stream ++ leBytes 2 status ++ leBytes 4 rtp.toNat ++ timeBytes cap
  | .challenge layer number tile deadline runs _ _ =>
    leBytes 2 layer ++ leBytes 2 number ++ leBytes 4 tile ++ timeBytes deadline ++ [0, 0] ++ runs.flatMap runBytes
  | .dependency runs _ _ => runs.flatMap runBytes
  | .cancel => []

/-- An entry as its 64 bytes (Table 3.8). -/
def entryImage (e : Entry) : List Byte :=
  let h := entryHead e.body
  sealLine (leBytes 1 h.1 ++ leBytes 1 h.2.1 ++ leBytes 2 h.2.2 ++ leBytes 4 e.seq.toNat ++ leBytes 8 e.result ++
    leBytes 4 e.context.toNat ++ padTo 40 (entryBytes e.body))

/-- Free entries of a context's challenge queue (R541). -/
def chFree (d : Dev) (x : Context) : Nat :=
  let q := queueOf d x.chQueue
  2 ^ q.exp - (q.producer - q.consumer)

/-- One entry written at the producer count, which then advances (R83). -/
def writeEntry (c : W32) (e : Entry) (d : Dev) : Dev :=
  let x := ctxOf d c
  let q := queueOf d x.chQueue
  setCtx c { x with entries := kput x.entries (q.producer % 2 ^ q.exp) (entryImage e) }
    (setQueue x.chQueue { q with producer := q.producer + 1 } d)

/-- Held entries posted in order while there is room (R88); none from a safe state to the resumption, and none without a
lease (R100, R467). -/
def drainEntries (c : W32) : Nat → Dev → Dev
  | 0, d => d
  | fuel + 1, d =>
    let x := ctxOf d c
    match x.heldEntries with
    | [] => d
    | e :: r =>
      if !serving d ∨ d.fabric.isolated ∨ chFree d x = 0 then d
      else drainEntries c fuel (writeEntry c e (setCtx c { x with heldEntries := r } d))

/-- An entry is posted, or held in order when the queue is full (R88); its sequence is answered. -/
def postEntry (c : W32) (result : Nat) (body : EntryBody) (d : Dev) : W32 × Dev :=
  let x := ctxOf d c
  let s := nextEntrySeq x.entrySeq
  let e : Entry := { seq := s, result := result, context := c, body := body }
  let d := setCtx c { x with entrySeq := s, heldEntries := x.heldEntries ++ [e] } d
  (s, drainEntries c ((ctxOf d c).heldEntries.length) d)

/-! ### Results -/

def resultOf? (x : Context) (seq : Nat) : Option Result := x.results.find? (·.seq == seq)

def modResult (c : W32) (seq : Nat) (f : Result → Result) (d : Dev) : Dev :=
  modCtx c (fun x => { x with results := x.results.map fun r => if r.seq == seq then f r else r }) d

def addReason (b : W32) (r : Result) : Result := { r with reasons := r.reasons ||| b }

/-- The plan and template a result is judged under (R33). -/
def resultPlan? (d : Dev) (r : Result) : Option Plan := (planOf? d r.planId r.planVersion).map (·.plan)
def resultTemplate? (d : Dev) (r : Result) : Option Template := templateOf? d r.planId r.planVersion r.template

/-- The checks of a template, in order (Table 2.5). -/
def checksOf (p : Plan) (t : Template) : List CheckEntry := (p.checks.drop t.firstCheck).take t.checkCount

/-- The kernel a check runs, if its kind runs one (Table 2.6). -/
def checkKernel? (p : Plan) (c : CheckEntry) : Option Kernel :=
  match c.kind with
  | 2 | 3 | 4 => p.network[c.kernel]?
  | 5 => p.sentinel[c.kernel]?
  | _ => none

/-- The tensor that a layer of 1 or more produces (R65), and its tiles. -/
def tensorOfLayer? (p : Plan) (l : Nat) : Option TensorDesc := if l = 0 then none else p.tensors.find? (·.layer == l)
def tilesOfLayer (p : Plan) (l : Nat) : Nat := ((tensorOfLayer? p l).map (·.tiles)).getD 0

/-- The layers whose tensors a result commits to besides layer 0 (R66). -/
def requiredLayers (p : Plan) (t : Template) : List Nat :=
  let cs := checksOf p t
  let a := cs.filterMap fun c => if c.kind = 2 ∨ c.kind = 3 then some c.firstLayer else none
  let b := cs.flatMap fun c =>
    if c.kind = 2 ∨ c.kind = 3 ∨ c.kind = 4 then ((checkKernel? p c).map (·.inputs)).getD [] else []
  let o := (List.range t.outputCount).filterMap fun i => (p.tensors[t.outputs + i]?).map (·.layer)
  ((a ++ b ++ o).filter (· != 0)).eraseDups

/-- The layers delivered in full: inputs and outputs of FULL checks, head inputs, the template's outputs (Table 3.12, 8). -/
def deliveredLayers (p : Plan) (t : Template) : List Nat :=
  let cs := checksOf p t
  let f := cs.flatMap fun c =>
    if c.kind = 3 then c.firstLayer :: ((checkKernel? p c).map (·.inputs)).getD []
    else if c.kind = 4 then ((checkKernel? p c).map (·.inputs)).getD [] else []
  let o := (List.range t.outputCount).filterMap fun i => (p.tensors[t.outputs + i]?).map (·.layer)
  ((f ++ o).filter (· != 0)).eraseDups

/-- A layer's tensor has come whole and agrees with its commitment, and that commitment is accepted (R91, R94). -/
def tensorReady (r : Result) (layer : Nat) : Bool :=
  (r.tensors.any fun x => x.layer == layer && x.agreed) &&
    r.commits.any fun m => m.layer == layer && m.stream == 0 && m.accepted.isSome

/-- Evidence that the plan requires is not there (R66, R91, Table 3.12 numbers 6 to 8): a commitment that is not accepted,
under FAULT for want of its tile list too, or a tensor to be delivered that has not come whole. -/
def evidenceLacks (p : Plan) (t : Template) (r : Result) : Bool :=
  let accepted (l s : Nat) : Bool := r.commits.any fun m => m.layer == l && m.stream == s && m.accepted.isSome
  !((List.range t.inputCount).all (accepted 0)) || !((requiredLayers p t).all fun l => accepted l 0) ||
    (deliveredLayers p t).any fun l => match r.tensors.find? (·.layer == l), tensorOfLayer? p l with
      | some x, some td => !tensorFull td x
      | _, _ => true

/-- The input tiles, other than layer 0's, that one output tile needs (R86), as pairs of layer and tile. -/
def depsOf (k : Kernel) (tile : Nat) : List (Nat × Nat) :=
  match k.deps.find? (·.1 == tile) with
  | some e => (e.2.filter fun r => r.layer != 0).flatMap fun r => (List.range r.count).map fun i => (r.layer, r.first + i)
  | none => []

/-- A list with the place of each member. -/
def indexed {α : Type} (l : List α) : List (Nat × α) := (List.range l.length).zip l

/-- The first failing check, layer and tile are recorded once (Table 2.16). -/
def noteFail (layer check tile : Nat) (r : Result) : Result :=
  if r.failCheck = 0xFFFF then { r with failLayer := layer, failCheck := check, failTile := tile } else r

/-- A check concludes; a check that has concluded stays as it is. -/
def concludeCheck (i : Nat) (o : CheckOutcome) (r : Result) : Result :=
  match r.checks[i]? with
  | some .open_ => { r with checks := r.checks.set i o }
  | _ => r

/-- A check fails with a reason at a layer and tile. -/
def failCheck (i : Nat) (reason : W32) (layer tile : Nat) (r : Result) : Result :=
  if r.checks[i]? = some .open_ then
    noteFail layer i tile (addReason reason (concludeCheck i .fail r))
  else addReason reason r

/-- A check is unavailable for a reason. -/
def missCheck (i : Nat) (reason : W32) (r : Result) : Result :=
  if r.checks[i]? = some .open_ then addReason reason (concludeCheck i .unavailable r) else r

/-- The window of a layer's openings has closed: an opening or dependency tile still outstanding sets OPENING_MISSING on the
layer's checks (R89). -/
def windowLacks (p : Plan) (t : Template) (layer : Nat) (r : Result) : Result :=
  (indexed (checksOf p t)).foldl (fun r e =>
    if e.2.kind = 2 ∧ e.2.firstLayer = layer then
      let mine := r.challenges.filter (·.check == e.1)
      let deps := match checkKernel? p e.2 with
        | some k => mine.flatMap fun (h : Challenge) => depsOf k h.tile
        | none => []
      let whole := mine.all (fun h => h.opened.isSome) &&
        deps.all fun q => r.deps.any fun x => x.layer == q.1 && x.tile == q.2 && x.data.isSome
      if whole then r else missCheck e.1 rOpeningMissing r
    else r) r

/-- Windows that have closed by now, and before the deadline instant, close before anything else happens to the result
(R89, R91, R533). -/
def dueWindows (d : Dev) (r : Result) : Result :=
  match resultPlan? d r, resultTemplate? d r with
  | some p, some t => r.windows.foldl (fun r w =>
      if w.2 + us t.retentionUs ≤ min (nowOf d) r.deadline then windowLacks p t w.1 r else r) r
  | _, _ => r

/-! ### Frames of the fabric (R464) -/

/-- A frame from its header on (Table 19.3). -/
def frameImage (t : Time) (f : Fabric) (seq type dest : Nat) (payload : List Byte) : List Byte :=
  let h := leBytes 4 0x42464B53 ++ [1, BitVec.ofNat 8 type, BitVec.ofNat 8 f.device, BitVec.ofNat 8 dest] ++ leBytes 8 f.id.toNat ++
    leBytes 8 seq ++ timeBytes t ++ leBytes 2 payload.length ++ List.replicate 12 0
  let key := Config.pairKey ((kfind? f.members dest).bind (·.pairKey))
  h ++ beBytes 16 (first16 (hmac key (h ++ payload))).toNat ++ payload

/-- A frame formed at `t` is sent: its type, destination (0xFF: all members) and payload; each takes the next frame sequence. -/
def frameOut (t : Time) (x : Nat × Nat × List Byte) (f : Fabric) : Fabric :=
  let all := f.outFrames ++ [(x.1, x.2.1, frameImage t f (f.frameSeq + 1) x.1 x.2.1 x.2.2)]
  { f with frameSeq := f.frameSeq + 1, outFrames := all.drop (all.length - 64) }
def framesOut (t : Time) (l : List (Nat × Nat × List Byte)) (f : Fabric) : Fabric := l.foldl (fun f x => frameOut t x f) f

/-! ### The journal's own records (R470, R471) -/

/-- Bytes 0x00 to 0x1F of a reply. -/
def replyBytes (r : Reply) : List Byte :=
  leBytes 2 r.status.toNat ++ leBytes 2 r.opcode.toNat ++ leBytes 2 r.flags.toNat ++ [0, 0] ++
  leBytes 8 r.counter.toNat ++ leBytes 8 r.tag.toNat ++ leBytes 8 r.result.toNat

/-- A verdict record as its 64 bytes (Table 2.16). -/
def verdictImage (r : VerdictRecord) : List Byte :=
  sealLine (leBytes 4 r.context.toNat ++ leBytes 1 r.verdict ++ leBytes 1 r.grade ++ leBytes 2 (bit 0 r.sent + bit 1 r.fallback) ++
    leBytes 8 r.seq ++ leBytes 4 r.reasons.toNat ++ leBytes 2 r.failLayer ++ leBytes 2 r.failCheck ++ leBytes 4 r.failTile ++
    leBytes 2 r.alive ++ leBytes 1 r.device ++ [0] ++ leBytes 6 (secField r.capture) ++ [0, 0] ++ leBytes 4 (nsField r.capture) ++
    leBytes 4 (nsField r.instant) ++ leBytes 6 (secField r.instant) ++ List.replicate 6 0)

/-- Type and payload of a journal record (Table 19.6). -/
def journalPayload (b : JournalBody) : Nat × List Byte :=
  match b with
  | .command s p => (1, leBytes 2 s.toNat ++ List.replicate 6 0 ++ headerBytes p ++ beBytes 16 p.check.toNat ++ payloadOf p)
  | .final _ r => (2, replyBytes r ++ beBytes 16 r.check.toNat)
  | .accept q t => (3, leBytes 8 q ++ leBytes 6 (secField t) ++ [0, 0] ++ leBytes 4 (nsField t) ++ [0, 0, 0, 0])
  | .held r => (4, verdictImage r)
  | .context st q v o => (5, [BitVec.ofNat 8 st] ++ List.replicate 15 0 ++ leBytes 8 q ++ leBytes 2 v.toNat ++ List.replicate 6 0 ++ o)
  | .map n dom => (6, [BitVec.ofNat 8 n, BitVec.ofNat 8 dom] ++ List.replicate 14 0)
  | .member n role s serial => (7, [BitVec.ofNat 8 n, BitVec.ofNat 8 role, if s then 1 else 0] ++ List.replicate 13 0 ++
      beBytes 16 serial.toNat)
  | .checkpoint q => (8, leBytes 8 q ++ List.replicate 8 0)

/-- Bytes a payload takes in the journal. -/
def journalRoom (n : Nat) : Nat := (n + 36 + 63) / 64 * 64

/-- A journal record as its bytes (Table 19.5), its CRC-32C in the last four. -/
def journalImage (r : JournalRecord) : List Byte :=
  let (type, body) := journalPayload r.body
  let b := bytesAt ([BitVec.ofNat 8 type, 1] ++ leBytes 2 r.origin ++ leBytes 4 r.context.toNat ++ leBytes 8 r.seq ++
    leBytes 4 body.length ++ timeBytes r.instant ++ [0, 0] ++ body) 0 (journalRoom body.length - 4)
  b ++ leBytes 4 (crc32c b).toNat

/-- The newest record of the journal, as its bytes. -/
def lastImage (f : Fabric) : List Byte := (f.journal.getLast?.map journalImage).getD []

/-- A record is appended to the device's journal, and sent to the mirror peer at once when there is one (R472, R476). -/
def journalAdd (context : W32) (b : JournalBody) (d : Dev) : Dev :=
  modFab (fun f =>
    let r : JournalRecord := { origin := f.device, context := context, seq := f.nextSeq, instant := d.geyser.now, body := b }
    let g := { f with journal := f.journal ++ [r], nextSeq := f.nextSeq + 1 }
    match mirrorPeer? f with
    | none => g
    | some m => framesOut d.geyser.now [(3, m, journalImage r)] { g with
        sentUpTo := f.nextSeq
        sentAt := if f.confirmed + 1 ≥ f.nextSeq then d.geyser.now else f.sentAt }) d

/-- The journal's 64 MiB hold no record more (R471). -/
def journalFull (d : Dev) (b : JournalBody) : Bool :=
  decide (d.fabric.journal.foldl (fun a r => a + journalRoom (journalPayload r.body).2.length)
    (journalRoom (journalPayload b).2.length) > 67108864)

/-! ### Messages (18 R450 to R456) -/

/-- Segments of a message payload (R451). -/
def segCount (n : Nat) : Nat := max 1 ((n + 8191) / 8192)

/-- The bytes Gauntlet holds for a message (R455). -/
def msgBytes (m : OutMsg) : Nat := 64 * segCount m.payload.length + m.payload.length

/-- A tensor with its 16-byte descriptor (R452). -/
def describe (index : Nat) (f : Byte) (b : List Byte) : List Byte :=
  leBytes 4 index ++ [f, 0, 0, 0] ++ leBytes 8 b.length ++ b

/-- The subject's outputs in output order, as delivered (R452). -/
def resultPayload (p : Plan) (t : Template) (r : Result) : List Byte :=
  (List.range t.outputCount).flatMap fun i =>
    match p.tensors[t.outputs + i]?, r.tensors.find? (·.tensor == t.outputs + i) with
    | some td, some x => describe (t.outputs + i) td.format (tensorBytes td x)
    | _, _ => []

/-- The sentinel's outputs that the plan's SENTINEL section describes (R452). -/
def fallbackPayload (p : Plan) (outs : List (List Byte)) : List Byte :=
  (outs.zip (List.range outs.length)).flatMap fun e =>
    describe e.2 ((p.sentinelOutputs[e.2]?.map (·.format)).getD 0) e.1

/-- The port takes a message: OUT role, link up, at most 1,024 messages and 16 MiB (R455). -/
def portTakes (pt : Port) (m : OutMsg) : Bool :=
  pt.role == .out && pt.link && decide (pt.out.length + pt.outWait.length < 1024) &&
    decide (((pt.out ++ pt.outWait.map (·.2)).map msgBytes).foldl (· + ·) (msgBytes m) ≤ 16777216)

def refuseOut (port n : Nat) (d : Dev) : Dev :=
  countRaise 1 (fun d => (portOf d port).outRefused) (fun c => modPort port fun p => { p with outRefused := c }) n
    0x000A (0x0100 + port) 0 0x0C d

/-! ### The verdict ring (R61 to R64) -/

/-- The ring can take the record of sequence `q`: the link is up (R529), the device writes, and q is at most the consumed
value plus the ring length (R308). -/
def ringRoom (d : Dev) (x : Context) (q : Nat) : Bool :=
  let v := queueOf d x.vQueue
  d.board.linkUp && decide (q ≤ v.consumer + 2 ^ v.exp)

/-- One 64-byte write of a record into slot q mod ring length (R61, R62). -/
def writeRecord (v : Nat) (r : VerdictRecord) (d : Dev) : Dev :=
  let q := queueOf d v
  setQueue v { q with producer := max q.producer r.seq }
    { d with queues := { d.queues with verdictSlots := kput d.queues.verdictSlots (v * 65536 + r.seq % 2 ^ q.exp) (verdictImage r) } }

/-- Held records written as slots free, in order (R64). -/
def drainRecords (c : W32) : Nat → Dev → Dev
  | 0, d => d
  | fuel + 1, d =>
    let x := ctxOf d c
    match x.heldRecords with
    | [] => d
    | r :: rest =>
      if ringRoom d x r.seq && !d.fabric.isolated then
        drainRecords c fuel (writeRecord x.vQueue r (setCtx c { x with heldRecords := rest } d))
      else d

/-- A record goes to the ring, or to the journal while the ring is full, with attention class 2 when the first is held
(R64). It answers whether the record is held. At 256 held records no new result is accepted; R64 does not say where the records
go of results that were accepted or skipped before that: the model holds them too, however many they are
(notes/assumptions/47.md). -/
def storeRecord (c : W32) (r : VerdictRecord) (d : Dev) : Bool × Dev :=
  let x := ctxOf d c
  if x.heldRecords.isEmpty && ringRoom d x r.seq then
    (false, setCtx c { (ctxOf d c) with recorded := r.seq } (writeRecord x.vQueue r d))
  else
    let d := setCtx c { x with heldRecords := x.heldRecords ++ [r], recorded := r.seq } d
    let d := journalAdd c (.held r) d
    (true, if x.heldRecords.isEmpty then raiseAttn 2 14 [] d else d)

/-- A context's state as CONTEXT_STATUS codes it, and its CONTEXT record in the journal, written at each state change and
each checkpoint (Table 19.6). -/
def ctxCode : CtxState → Nat
  | .closed => 0 | .admitted => 1 | .active => 2 | .suspended => 3 | .draining => 4
def journalCtx (c : W32) (d : Dev) : Dev :=
  let x := ctxOf d c
  journalAdd c (.context (ctxCode x.state) (queueOf d x.vQueue).consumer (BitVec.ofNat 16 x.alive) x.opened) d

/-! ### Closing (R37), planned moves (R486), commands of a failed device (R481) -/

/-- Cause 10 CONCLUDED, class 4. -/
def concludedAttn (c : W32) (session : W16) (status : W16) (counter result : W64) (d : Dev) : Dev :=
  raiseAttn 4 10 (leBytes 4 c.toNat ++ leBytes 2 session.toNat ++ leBytes 2 status.toNat ++ leBytes 8 counter.toNat ++
    leBytes 8 result.toNat) d

/-- The commands of a failed device that continue on this context are concluded DONE. -/
def concludeOld (c : W32) (result : W64) (d : Dev) : Dev :=
  let mine := d.fabric.oldCommands.filter fun e => e.1 == c
  mine.foldl (fun d e => concludedAttn c e.2.1 0x002 e.2.2.1 result d)
    (modFab (fun f => { f with oldCommands := f.oldCommands.filter fun e => e.1 != c }) d)

/-- A context that moves by plan has written its last record: HANDED goes to the target (R486). -/
def handOver (c : W32) (d : Dev) : Dev :=
  match d.fabric.remaps.find? fun e => e.1 == c && decide (e.2.2 ≤ d.geyser.now) with
  | none => d
  | some e =>
    let x := ctxOf d c
    let d := modFab (fun f => framesOut d.geyser.now [(8, e.2.1, leBytes 8 x.recorded ++ leBytes 2 x.alive)] { f with remaps := f.remaps.filter fun x => x.1 != c }) d
    { d with accepted := d.accepted.map fun a =>
        if a.packet.opcode = 0x0703 ∧ a.packet.context = c then { a with loaded := true } else a }


/-- A context's queues and their memory are released, its number is CLOSED, READ_MASK follows (R245), and the CONTEXT_CLOSE that waits
has its result: the highest sequence recorded. Until that command's final reply no queue takes one of the numbers (R305). -/
def releaseContext (c : W32) (x : Context) (d : Dev) : Dev :=
  let d := release (.queues c) (dropQueue x.evQueue (dropQueue x.chQueue (dropQueue x.vQueue d)))
  setMasks { d with
    contexts := kdel d.contexts c.toNat
    accepted := d.accepted.map fun a =>
      if a.packet.opcode = 0x0307 ∧ a.packet.context = c then
        { a with loaded := true, done := BitVec.ofNat 64 x.recorded, queues := [x.evQueue, x.chQueue, x.vQueue] }
      else a }

/-- A context becomes CLOSED (Table 2.1). -/
def closeContext (c : W32) (d : Dev) : Dev :=
  let x := ctxOf d c
  let d := journalAdd c (.context 0 (queueOf d x.vQueue).consumer (BitVec.ofNat 16 x.alive) x.opened) d
  releaseContext c x (handOver c (concludeOld c (BitVec.ofNat 64 x.recorded) d))

/-- The end of DRAINING: no accepted result is left and every record is in the ring. -/
def closeIfDrained (c : W32) (d : Dev) : Dev :=
  let x := ctxOf d c
  if x.state = .draining ∧ x.results = [] ∧ x.heldRecords = [] then closeContext c d else d

/-! ### Issuing a verdict (R52 to R57, R60) -/

/-- The record of a result, before its message. -/
def recordOf (c : W32) (grade : Nat) (r : Result) (d : Dev) : VerdictRecord :=
  { context := c, verdict := verdictOf r.reasons, grade := grade, seq := r.seq, reasons := r.reasons,
    failLayer := r.failLayer, failCheck := r.failCheck, failTile := r.failTile,
    device := if inFabric d then d.fabric.device else 0, capture := r.capture, instant := d.geyser.now }

/-- The grade a result is reported under: its template's (R70), which it keeps while it is accepted. -/
def gradeOf (_d : Dev) (r : Result) : Nat := r.grade

/-- The sentinel outputs that fallback perception carries, when the template enables it and a sentinel run of the result
has completed (R60). Of several SENTINEL checks the run that completed first counts: the manual does not say which
(notes/assumptions/47.md). -/
def fallbackOf (d : Dev) (r : Result) : Option (List Byte) := do
  let p ← resultPlan? d r
  let t ← resultTemplate? d r
  let v := verdictOf r.reasons
  if t.flags.getLsbD 0 && (v == 2 || v == 3) then
    let s ← r.sentinel.head?
    some (fallbackPayload p s.2)
  else none

/-- The message of a result (R452). -/
def messageOf (d : Dev) (r : Result) (vr : VerdictRecord) : OutMsg :=
  match fallbackOf d r with
  | some b => { record := { vr with fallback := true }, fallback := true, payload := b }
  | none =>
    match resultPlan? d r, resultTemplate? d r with
    | some p, some t =>
      if vr.verdict = 1 then { record := vr, result := true, payload := resultPayload p t r } else { record := vr }
    | _, _ => { record := vr }

/-- The record that the result will have, and the message that goes with it. -/
def resultRecord (c : W32) (r : Result) (d : Dev) : VerdictRecord := recordOf c (gradeOf d r) r d
def resultMessage (c : W32) (r : Result) (d : Dev) : OutMsg := messageOf d r (resultRecord c r d)

/-- A message is due: not for WITHHELD, and not in safe state (R454). The port takes it (R455). -/
def wantsMessage (c : W32) (r : Result) (d : Dev) : Bool := decide ((resultRecord c r d).verdict ≠ 6) && !inSafe d
def sendsMessage (c : W32) (r : Result) (d : Dev) : Bool :=
  wantsMessage c r d && portTakes (portOf d (ctxOf d c).outPort) (resultMessage c r d)

/-- The record as it is stored: of a message sent it says so, with the alive counter and the fallback bit. -/
def finalRecord (c : W32) (r : Result) (d : Dev) : VerdictRecord :=
  if sendsMessage c r d then
    { resultRecord c r d with sent := true, fallback := (resultMessage c r d).fallback, alive := (ctxOf d c).alive }
  else resultRecord c r d

/-- CANCEL for unanswered challenges, a listed dependency tile still outstanding among them (R87, Table 3.10). -/
def cancelOpen (c : W32) (r : Result) (d : Dev) : Dev :=
  if (r.challenges.any (fun h => h.opened.isNone) || r.deps.any (fun x => x.data.isNone)) && !muted d then
    (postEntry c r.seq .cancel d).2
  else d

/-- The queued operations of a result go (R253). -/
def dropChecks (c : W32) (seq : Nat) (d : Dev) : Dev :=
  modSched (fun s => { s with queue := s.queue.filter fun o =>
    match o.work with | .check c' s' _ => !(c' == c && s' == seq) | .golden .. => true }) d

/-- The result leaves its context; a message sent counts the alive counter on. -/
def takeResult (c : W32) (seq : Nat) (sends : Bool) (d : Dev) : Dev :=
  modCtx c (fun x => { x with
    alive := if sends then (x.alive + 1) % 65536 else x.alive
    results := x.results.filter fun q => q.seq != seq }) d

/-- The message goes to its port; with a HELD record it waits for that record's confirmation (R475). -/
def queueMessage (port : Nat) (held : Bool) (m : OutMsg) (d : Dev) : Dev :=
  if held && hasMirror d then modPort port (fun p => { p with outWait := p.outWait ++ [(d.fabric.nextSeq - 1, m)] }) d
  else modPort port (fun p => { p with out := p.out ++ [m] }) d

/-- A result's own verdict: the alive counter and the message, unless WITHHELD (R454, R455); the record (R62). -/
def recordResult (c : W32) (r : Result) (d : Dev) : Dev :=
  let port := (ctxOf d c).outPort
  let sends := sendsMessage c r d
  let vr := finalRecord c r d
  let m : OutMsg := { resultMessage c r d with record := vr }
  let d := if wantsMessage c r d && !sends then refuseOut port 1 d else d
  let x := storeRecord c vr (takeResult c r.seq sends d)
  if sends then queueMessage port x.1 m x.2 else x.2

/-- The verdict of one result is issued: its unanswered challenges are cancelled, its queued operations go, its record and
message follow; the device that has lost its lease issues none (R467). A malformed record that nothing has replaced counts
now (R98). -/
def issueVerdict (c : W32) (seq : Nat) (d : Dev) : Dev :=
  match resultOf? (ctxOf d c) seq with
  | none => d
  | some r0 =>
    if d.fabric.isolated then d
    else
      let r := if r0.attributed.isEmpty then r0 else addReason rMalformed r0
      closeIfDrained c (recordResult c r (dropChecks c seq (cancelOpen c r d)))

/-- Earlier results without a verdict are concluded OVERTAKEN, in order, then the result's own verdict is issued (R34). -/
def concludeResult (c : W32) (seq : Nat) (d : Dev) : Dev :=
  let earlier := ((ctxOf d c).results.filter fun r => r.seq < seq).map (·.seq)
  issueVerdict c seq (earlier.foldl (fun d q => issueVerdict c q (modResult c q (addReason rOvertaken) d)) d)

/-- The deadline instant of a result has come: DEADLINE, and EVIDENCE_MISSING where required evidence is not there (R53,
R91). -/
def lateReasons (d : Dev) (r : Result) : Result :=
  let lacks := match resultPlan? d r, resultTemplate? d r with
    | some p, some t => evidenceLacks p t r
    | _, _ => false
  addReason rDeadline (if lacks then addReason rEvidenceMissing r else r)
def expireResult (c : W32) (seq : Nat) (d : Dev) : Dev := concludeResult c seq (modResult c seq (lateReasons d) d)

/-- A result whose deadline instant has come by now, and which still waits for its verdict (R54, R533). -/
def isDue (d : Dev) (r : Result) : Bool := decide (r.deadline ≤ nowOf d) && !r.withheld && !inSafe d

/-- R53: the deadline instant, a REFUTED reason of a failed check, or every check concluded issues the verdict; windows of
openings close first. A result that would be believed while evidence the plan requires is not there lacks it at that instant
(R101). -/
def settle (c : W32) (seq : Nat) (d : Dev) : Dev :=
  match resultOf? (ctxOf d c) seq with
  | none => d
  | some r0 =>
    if r0.withheld then d
    else
      let r := dueWindows d r0
      let d := modResult c seq (fun _ => r) d
      if isDue d r then expireResult c seq d
      else if r.reasons &&& refutedMask ≠ 0 then concludeResult c seq d
      else if !r.checks.isEmpty && r.checks.all (fun o => o != .open_) then
        match resultPlan? d r, resultTemplate? d r with
        | some p, some t =>
          if r.reasons = 0 ∧ evidenceLacks p t r = true then concludeResult c seq (modResult c seq (addReason rEvidenceMissing) d)
          else concludeResult c seq d
        | _, _ => concludeResult c seq d
      else d

/-- The results of a context whose deadline instant, or the close of a window of theirs, has come settle, in order, before
anything else happens to them (R53, R54, R533). -/
def expireDue (c : W32) (d : Dev) : Dev :=
  (((ctxOf d c).results.filter fun r => isDue d r || decide (dueWindows d r ≠ r)).map (·.seq)).foldl
    (fun d q => settle c q d) d
def expireAll (d : Dev) : Dev := (d.contexts.map (·.1)).foldl (fun d k => expireDue (BitVec.ofNat 32 k) d) d

/-- Every pending result of a context is concluded with a reason, in order; a withheld one waits for the resumption (R56). -/
def concludeAll (c : W32) (reason : W32) (d : Dev) : Dev :=
  (((ctxOf d c).results.filter fun r => !r.withheld).map (·.seq)).foldl
    (fun d q => concludeResult c q (modResult c q (addReason reason) d)) d

/-- Safe state: every pending result of every context receives SAFE_STATE and waits for its record (R56). -/
def withholdAll (d : Dev) : Dev :=
  { d with contexts := kmapv (fun _ x => { x with
      results := x.results.map fun r => { addReason rSafeState r with withheld := true } }) d.contexts }

/-- The WITHHELD records, written in order once the device resumes, or before CHIP_FAILED outside a fabric (R56, R412). -/
def recordWithheld (d : Dev) : Dev :=
  (d.contexts.map (·.1)).foldl (fun d k =>
    let c := BitVec.ofNat 32 k
    ((ctxOf d c).results.filter (·.withheld)).foldl (fun d r => issueVerdict c r.seq d) d) d

end Sys2Proof.Machine
end

