-- ==== Sys2Proof/Machine/Reactions.lean ====
section
/-! DEFINITION. Caldera (16): the source table, counting, and the reactions that every fault in the device goes through;
fencing a core (05 R141, 10 R267), safe state and CHIP_FAILED (R410, R412). -/

namespace Sys2Proof.Machine

open Sys2Proof

/-! ### The source table (Table 16.7) -/

/-- A source with class, mask, N, W in µs and whether it is fixed. -/
def mkSource (cls mask n w : Nat) (fixed : Bool) : Source :=
  { cls := cls, mask := mask, n := n, w := w, fixed := fixed }

def maskEUA : Nat := 21
def maskESA : Nat := 19
def maskESCA : Nat := 27
def maskUA : Nat := 20
def maskECA : Nat := 25
def maskEA : Nat := 17
def maskA : Nat := 16

/-- The defaults of Table 16.7. -/
def srcDefault (n : Nat) : Source :=
  if n < 512 then
    match n % 8 with
    | 4 => mkSource 1 maskESA 1 1000000 true
    | 6 => mkSource 1 maskESCA 1 1000000 true
    | 7 => mkSource 1 maskUA 1 1000000 true
    | _ => mkSource 0 maskEUA 3 10000000 false
  else if n < 576 then
    match (n - 512) % 4 with
    | 0 => mkSource 1 maskESA 1 1000000 true
    | 1 => mkSource 1 maskESA 1 1000000 false
    | _ => mkSource 1 maskECA 1 1000000 true
  else if n < 660 then
    match (n - 576) % 4 with
    | 0 => mkSource 0 maskA 255 1000000 false
    | 1 => mkSource 0 maskA 4 1000000 false
    | 2 => mkSource 0 maskESA 16 1000000 false
    | _ => mkSource 0 maskA 4 10000000 false
  else if n < 680 then mkSource 1 maskECA 1 1000000 true
  else if n < 696 then mkSource 1 maskESA 1 1000000 true
  else if n < 734 then mkSource 0 maskESA 2 1000 false
  else if n < 736 then mkSource 1 maskECA 1 60000000 true
  else if n < 738 then mkSource 1 maskECA 1 1000000 true
  else if n < 740 then mkSource 1 maskECA 1 60000000 true
  else if n = 740 then mkSource 1 maskECA 1 1000000 true
  else if n = 741 then mkSource 1 maskESA 1 1000000 true
  else if n < 744 then mkSource 0 maskEA 1 1000000 false
  else if n < 750 then mkSource 1 maskECA 1 1000000 true
  else if n = 750 then mkSource 1 maskECA 1 1000000 false
  else if n = 751 then mkSource 0 maskEA 1 1000000 false
  else if n < 755 then mkSource 1 maskESA 1 1000000 false
  else if n < 760 then mkSource 1 maskECA 1 1000000 true
  else if n < 765 then mkSource 1 maskESA 1 1000000 true
  else if n = 765 then mkSource 1 maskECA 1 1000000 true
  else mkSource 1 maskUA 1 1000000 false

/-- Source numbers (R405, Table 16.7). -/
def sCore (c kind : Nat) : Nat := 8 * c + kind
def sPace (cluster kind : Nat) : Nat := 512 + 4 * cluster + kind
def sMem (stop kind : Nat) : Nat := 576 + 4 * stop + kind
def sSegTag (stop : Nat) : Nat := 660 + stop

def srcOf (d : Dev) (n : Nat) : Source := (kfind? d.cal.src n).getD (srcDefault n)
def setSrc (n : Nat) (x : Source) (d : Dev) : Dev := modCal (fun c => { c with src := kput c.src n x }) d
def modSrc (n : Nat) (f : Source → Source) (d : Dev) : Dev := setSrc n (f (srcOf d n)) d

/-! ### Counting (R406) -/

/-- One event at instant `e`: the source after it, and whether it is severe. -/
def countEvent (e : Time) (x : Source) : Source × Bool :=
  let opens : Bool := x.count == 0 || decide (e ≥ x.opens + us x.w)
  let c := min ((if opens then 0 else x.count) + 1) 255
  let x := { x with sticky := true, opens := if opens then e else x.opens }
  if x.cls = 1 then ({ x with count := c }, true)
  else if c ≥ x.n then ({ x with count := 0 }, true)
  else ({ x with count := c }, false)

/-- COUNT as a read returns it: zero once the window has passed (R406). -/
def readCount (t : Time) (x : Source) : Source := if t ≥ x.opens + us x.w then { x with count := 0 } else x

/-! ### ERR_N (R413) -/

/-- ERR_N asserts at a severe instant or at a reset: the 25 µs start and a release written before is cancelled. -/
def assertErrN (d : Dev) : Dev :=
  modCal (fun c => { c with errN := true, assertedAt := d.geyser.now, released := false, releasePending := false }) d

/-- A sticky bit is set for a source whose mask holds ERR_N. -/
def errSticky (d : Dev) : Bool := d.cal.src.any fun e => e.2.sticky && e.2.mask % 2 == 1

/-- Every condition of R413 holds. -/
def errMayRelease (d : Dev) : Bool :=
  decide (d.geyser.now ≥ d.cal.assertedAt + us 25) && d.cal.released && !d.cal.hold && !errSticky d

/-- ERR_N deasserts at the first instant at which every condition of R413 holds. -/
def errUpdate (d : Dev) : Dev :=
  if d.cal.errN && errMayRelease d then modCal (fun c => { c with errN := false, releasePending := false }) d else d

/-! ### Stopping kernels -/

/-- A golden entry of a plan has missed one more run (R121). -/
def addMiss (id v : W64) (index : Nat) (d : Dev) : Dev :=
  modPlans (fun x => { x with loaded := x.loaded.map fun l =>
    if l.plan.identifier == id && l.plan.version == v then { l with misses := kmod 0 l.misses index (· + 1) } else l }) d

/-- The operation of a stopped run returns to the head of its queue (R267); a golden run is missed (R121): the source of two
misses in a row is raised at the next window start. -/
def requeueFront (r : Run_) (d : Dev) : Dev :=
  match r.op.work with
  | .check .. => modSched (fun s => { s with queue := r.op :: s.queue }) d
  | .golden id v i _ => addMiss id v i d

/-- Every bundle of a core goes, with its waiters (R141); counts of signal objects stay. -/
def clearCore (n : Nat) (d : Dev) : Dev :=
  let d := modCore n (fun c => { c with bundles := [], store := [], forwards := [], posts := [], loadConst := [] }) d
  { d with cores := { d.cores with signals := kmapv (fun _ s => { s with
      waiters := s.waiters.filter fun w => w.1 != n }) d.cores.signals } }

/-- A core gives up its resident bundles, stored signatures and forwarded values; local memory is to be zeroed. -/
def wipeCore (n : Nat) (d : Dev) : Dev :=
  let d := clearCore n d
  modCore n (fun c => { c with engines := [], mustZero := true }) d

/-- Runs that use core `n` stop and leave the cores. -/
def stopRunsOn (n : Nat) (d : Dev) : Dev :=
  let hit := d.sched.runs.filter fun r => r.cores.contains n
  let d := modSched (fun s => { s with runs := s.runs.filter fun r => !r.cores.contains n }) d
  hit.foldr (fun r d => requeueFront r (r.cores.foldl (fun d m => wipeCore m d) d)) d

/-! ### Forcing, safe state, CHIP_FAILED -/

/-- At the instant FORCED latches, forwarding stops: every queued message is discarded (R457). A segment begun has left. -/
def forceSafe (d : Dev) : Dev :=
  let d := modGnt (fun g => { g with forced := true, pulses := [] }) d
  { d with ports := kmapv (fun _ p => { p with out := [], outWait := [] }) d.ports }

/-- A change that has neither committed nor aborted. -/
def pendingChange (c : Change) : Bool := !c.committed && !c.aborted

/-- The change record of a change (Table 13.19). -/
def changeRecord (outcome : Nat) (c : Change) : ChangeRecord :=
  { id := c.id, opcode := c.opcode, outcome := outcome, commitAt := c.commitAt, named := c.named, acked := c.acked,
    applied := c.applied, failed := c.failed }

/-- The change of an identifier becomes `c`, and the change record shows it. -/
def setChange (c : Change) (outcome : Nat) (d : Dev) : Dev :=
  { d with cores := { d.cores with
      changes := d.cores.changes.map fun x => if x.id == c.id then c else x
      record := changeRecord outcome c } }

/-- A pending change aborts: every unit discards the new configuration (R237). -/
def abortOne (outcome : Nat) (c : Change) (d : Dev) : Dev :=
  if pendingChange c then
    let d := setChange { c with aborted := true } outcome d
    if c.cores then
      { d with cores := { d.cores with core := kmapv (fun n k =>
          if c.named.getLsbD n then { k with prepared := false } else k) d.cores.core } }
    else d
  else d

/-- Every pending change aborts, as at safe state (R237). -/
def abortChange (outcome : Nat) (d : Dev) : Dev := d.cores.changes.foldl (fun d c => abortOne outcome c d) d

/-- CHIP_FAILED (R412): DEVICE_STATE reads 4, the SAFE pairs stay forced, and outside a fabric a Steward that still runs
first writes the WITHHELD records. Deadlines that have come conclude first (R533). -/
def chipFailed (d : Dev) : Dev :=
  if d.front.state = .chipFailed then d
  else
    let d := forceSafe (abortChange 3 (withholdAll (expireAll d)))
    let d := if inFabric d || d.cal.chipSafe then d else recordWithheld d
    modFront (fun f => { f with state := .chipFailed }) d

/-- Cause 13 RESTART, class 7. -/
def restartAttn (cause source restarts : Nat) (d : Dev) : Dev :=
  raiseAttn 7 13 ([BitVec.ofNat 8 cause, 0] ++ leBytes 2 source ++ [BitVec.ofNat 8 restarts]) d

/-- Restarts from safe state within the last 60 s (R493). -/
def recentRestarts (d : Dev) : Nat := (d.cal.restarts.filter fun t => decide (d.geyser.now < t + sec 60)).length

/-- The safe-output or chip-safe-state reaction is the first to latch. -/
def firstSafe (d : Dev) : Bool := !(d.cal.safeOut || d.cal.chipSafe)

/-- The SAFE pairs are forced, the latch of the reaction sets (R411), and the first reaction keeps its source and instant. -/
def latchSafe (chip : Bool) (source : Nat) (d : Dev) : Dev :=
  modCal (fun c => { c with
    safeOut := c.safeOut || !chip
    chipSafe := c.chipSafe || chip
    safeSource := if firstSafe d then source else c.safeSource
    safeAt := if firstSafe d then d.geyser.now else c.safeAt }) (forceSafe d)

/-- DEVICE_STATE reads 3: pending results become WITHHELD and pending changes abort (R410, R56, R237). -/
def toSafeState (d : Dev) : Dev :=
  let d := abortChange 3 (withholdAll d)
  if d.front.state = .chipFailed then d else modFront (fun f => { f with state := .safeState }) d

/-- Chip safe state stops every core, every DMA channel and both Steward processors (Table 16.5), and holds the unit watchdogs
(R427). -/
def stopAll (d : Dev) : Dev :=
  { modSched (fun s => { s with runs := [] }) d with
    cores := { d.cores with
      core := kmapv (fun _ k => { k with bundles := [], store := [], forwards := [], posts := [], engines := [] }) d.cores.core
      dma := kmapv (fun _ c => { c with busy := false }) d.cores.dma
      proc := kput (kput d.cores.proc 0 { procOf d 0 with stopped := true }) 1 { procOf d 1 with stopped := true } }
    watch := { d.watch with uwd := kmapv (fun _ w =>
      if w.state = .running ∨ w.state = .grace then { w with state := .held } else w) d.watch.uwd } }

/-- The safe-output reaction, or chip safe state (R410, R411), after the deadlines that have come by then (R533). While
WIRE_TEST is 1 the reaction only latches (R497). -/
def enterSafe (chip : Bool) (source : Nat) (d0 : Dev) : Dev :=
  let d := expireAll d0
  let l := latchSafe chip source d
  if d.start.wireTest then l
  else if chip then stopAll (toSafeState l)
  else if firstSafe d then restartAttn 4 source (recentRestarts (toSafeState l)) (toSafeState l)
  else toSafeState l

/-! ### Fencing (R123, R141, R230, R267) -/

/-- Partitions whose mask holds core `n`. -/
def partsWith (d : Dev) (n : Nat) : List Nat := (d.sched.parts.filter fun e => e.2.mask.getLsbD n).map (·.1)

/-- A core is fenced: its bundles and waiters go, its runs stop, admission is withdrawn and a re-admission is due. A ninth
fence reports CHIP_FAILED (Table 5.7). While WIRE_TEST is 1 nothing is fenced (R497). -/
def fenceCore (n : Nat) (d : Dev) : Dev :=
  if d.start.wireTest || isFenced d n then d
  else
    let d := modCore n (fun c => { c with fenced := true, prepared := false, window := none }) (stopRunsOn n (clearCore n d))
    if fencedCount d > 8 then chipFailed d
    else modSched (fun s => { s with
      withdrawn := s.withdrawn ++ (partsWith d n).filter fun p => !s.withdrawn.contains p
      readmit := s.readmit.or (some (1, n / 4)) }) d

/-- Unit reset: a core is fenced; a DMA channel goes out of service, its cluster's others carry its transfer, and admission is re-run
(R410, R419, R140). -/
def unitReset (source channel : Nat) (d : Dev) : Dev :=
  if d.start.wireTest then d
  else if source < 512 then fenceCore (source / 8) d
  else if source ≥ 766 then
    modSched (fun s => { s with readmit := s.readmit.or (some (3, if channel < 256 then channel / 16 else 0xFF)) })
       (modDma channel (fun c => { c with out := true }) d)
  else d

/-! ### Attention of a source (Table 13.18, cause 1) -/

/-- The first 16 bytes of the unit's entry of item 0x0001, 0x0003 or 0x0004. -/
def unitEntry (source channel : Nat) (d : Dev) : List Byte :=
  if source < 512 then
    let c := coreOf d (source / 8)
    leBytes 4 c.engErr.toNat ++ leBytes 4 c.trapStatus.toNat ++ leBytes 8 c.trapAddr.toNat
  else if 576 ≤ source ∧ source < 660 then
    let s := stopOf d ((source - 576) / 4)
    leBytes 4 s.memErr.toNat ++ leBytes 4 s.ceCount ++ leBytes 8 s.memErrAddr
  else if source ≥ 766 then
    let c := dmaOf d channel
    leBytes 4 (dmaHaltWord c).toNat ++ [if c.out then 1 else 0, 0, 0, 0] ++ leBytes 8 c.haltAddr
  else List.replicate 16 0

def sourceAttn (source channel : Nat) (d : Dev) : Dev :=
  let x := srcOf d source
  raiseAttn 1 1 (leBytes 2 source ++ [0, 0] ++ leBytes 4 (calSrcWord x).toNat ++ leBytes 8 (calCfgWord x).toNat ++
    unitEntry source channel d) d

/-! ### Applying reactions (Table 16.5) -/

/-- The reactions of a mask: ERR_N, safe output, unit reset, chip safe state, attention. Both safe reactions give chip safe
state (R411); processor 1 raises the attention, and under chip safe state the class 7 of the restart replaces it (Table
16.5). -/
def applyMask (mask source channel : Nat) (d : Dev) : Dev :=
  let chip := mask / 8 % 2 == 1
  let safe := mask / 2 % 2 == 1
  let d := if mask % 2 = 1 then assertErrN d else d
  let d := if mask / 4 % 2 = 1 then unitReset source channel d else d
  let d := if chip then enterSafe true source d else if safe then enterSafe false source d else d
  if mask / 16 % 2 = 1 && !chip && procUp 1 d then sourceAttn source channel d else d

/-- The Steward's action on a severe source (Table 16.7): CHIP_FAILED for memory poison, HBM channels, mesh links and
Ethernet ports. Relocation of R297 is the memory's (MemoryOps). -/
def stewardAction (source : Nat) (d : Dev) : Dev :=
  if (576 ≤ source ∧ source < 660 ∧ (source - 576) % 4 = 2) ∨ (680 ≤ source ∧ source < 734) ∨
      (761 ≤ source ∧ source ≤ 764) then
    if d.start.wireTest then d else chipFailed d
  else d

/-- The W1C bits of a source: in its CAL_STICKY word, and in CAL_SRC. -/
def stickyReg (source : Nat) : Reg := .calSticky (Fin.ofNat 24 (source / 32))
def srcReg (source : Nat) : Reg := .calSrc (Fin.ofNat 768 source)

/-- A severe instant of a source (R407): SEVERE, then the mask's reactions, then the Steward's action. -/
def severeNow (source channel : Nat) (d : Dev) : Dev :=
  let d := hwSet (srcReg source) (2 ^ 31) (modSrc source (fun x => { x with severe := true }) d)
  stewardAction source (applyMask (srcOf d source).mask source channel d)

/-- An event that its origin cannot deliver, on a wire whose rails disagree: up to 15 stay pending, more set OVERRUN (R402). -/
def keepPending (source channel : Nat) (d : Dev) : Dev :=
  if (srcOf d source).waiting.length < 15 then modSrc source (fun x => { x with waiting := x.waiting ++ [channel] }) d
  else hwSet (srcReg source) (2 ^ 25) (modSrc source (fun x => { x with overrun := true }) d)

/-- One event on a source: not delivered while the wire's rails disagree (R401), held while the source is under FORCE (R414),
otherwise counted (R406). A held event keeps the channel that travelled with it (R419). -/
def signalCh (source channel : Nat) (d : Dev) : Dev :=
  let x := srcOf d source
  if x.mute then keepPending source channel d
  else if x.force then setSrc source { x with rawSeen := true, held := (x.held ++ [channel]).take 15 } d
  else
    let (y, severe) := countEvent d.geyser.now x
    let d := hwSet (stickyReg source) (2 ^ (source % 32)) (setSrc source y d)
    if severe then severeNow source channel d else d

/-- One event on a source that names no channel. -/
def signal (source : Nat) (d : Dev) : Dev := signalCh source 0 d

/-- Whether the next event of a source would be severe and applied now. -/
def nextSevere (source : Nat) (d : Dev) : Bool :=
  let x := srcOf d source
  !x.mute && !x.force && (countEvent d.geyser.now x).2

/-- `n` events on a source, one handshake each; more than 15 pending deliver 15 and set OVERRUN (R402). -/
def signalMany (source channel : Nat) (n : Nat) (d : Dev) : Dev :=
  let d := if n > 15 then hwSet (srcReg source) (2 ^ 25) (modSrc source (fun x => { x with overrun := true }) d) else d
  (List.range (min n 15)).foldl (fun d _ => signalCh source channel d) d

/-! ### Force tests (R414, R415) -/

/-- FORCE is set: ignored while any source is under test. The injected event reaches severity, sets the test bits, and
every reaction of the source is held back. -/
def forceSet (source : Nat) (d : Dev) : Dev :=
  if d.cal.src.any fun e => e.2.force then d
  else modSrc source (fun x => { x with
    force := true, rawSeen := false, testSticky := true, testSevere := true, replayed := false,
    heldMask := x.mask, held := [], forcedAt := d.geyser.now }) d

/-- The channels of the events that the end of a test applies: the held ones, or that of a wire asserted at that instant (R415). -/
def heldEvents (x : Source) : List Nat := if x.asserted.isSome && x.held.isEmpty then [0] else x.held

/-- FORCE clears: held real events, and a wire asserted at that instant, are applied now (R415). -/
def forceClear (source : Nat) (d : Dev) : Dev :=
  let x := srcOf d source
  if x.force then
    let l := heldEvents x
    l.foldl (fun d ch => signalCh source ch d) (setSrc source { x with force := false, held := [], replayed := !l.isEmpty } d)
  else d

end Sys2Proof.Machine
end

