-- ==== Sys2Proof/Machine/Rings.lean ====
section
/-! DEFINITION. Denec packets, replies and rings (12): serialising a packet, replies and the replay store, the checks of
Table 12.10, taking packets from the rings, final replies. Meanings of the opcodes come as an argument (`Body`). -/

namespace Sys2Proof.Machine

open Sys2Proof

/-! ### Result codes (Table 13.13) and refusal words (Table 13.1) -/

def cOk : W16 := 0x000
def cAccepted : W16 := 0x001
def cDone : W16 := 0x002
def cLength : W16 := 0x010
def cReserved : W16 := 0x011
def cOpcode : W16 := 0x012
def cRange : W16 := 0x013
def cPath : W16 := 0x014
def cLayout : W16 := 0x015
def cState : W16 := 0x016
def cObject : W16 := 0x017
def cBadCheck : W16 := 0x021
def cStale : W16 := 0x022
def cNoSession : W16 := 0x023
def cBusy : W16 := 0x030
def cTimePast : W16 := 0x051
def cPoisoned : W16 := 0x061
def cNotManager : W16 := 0x071
def cNotMember : W16 := 0x072
def cMirrorFailed : W16 := 0x073
def cUnreachable : W16 := 0x074
def cDeviceFailed : W16 := 0x075
def cNoSibling : W16 := 0x076
def cRoleTaken : W16 := 0x077
def cSafeState : W16 := 0x080

/-- DETAIL and OFFSET of Table 13.1. -/
def refusalWord (detail offset : Nat) : W64 := BitVec.ofNat 64 (detail * 2 ^ 48 + offset % 2 ^ 32)
def noField : Nat := 0xFFFFFFFF

/-- What rows 7 and 8 of Table 12.10 make of a packet. -/
inductive Answer where
  | refuse (code : W16) (word : W64)
  | ok (word : W64)
  | accept (word : W64) (a : Accepted)
  deriving DecidableEq, Repr

/-- A refusal with a detail and no field at fault; with an offset and no detail. -/
def refuseD (code : W16) (detail : Nat) : Answer := .refuse code (refusalWord detail noField)
def refuseAt (code : W16) (offset : Nat) : Answer := .refuse code (refusalWord 0 offset)
/-- A refusal with a detail, whose field is the one that names the object. -/
def refuseF (code : W16) (detail offset : Nat) : Answer := .refuse code (refusalWord detail offset)

/-- The meaning of an opcode at rows 7 and 8: session, path, packet, device. -/
abbrev Body := Nat → Path → Packet → Dev → Answer × Dev

/-! ### Bytes of a packet and of a reply (Tables 12.7, 12.8) -/

/-- The check of a packet under K_hd, and of a reply under K_dh (R363). -/
def packetCheck (s : Session) (p : Packet) : W128 := first16 (hmac s.kHd (headerBytes p ++ payloadOf p))
def replyCheck (s : Session) (r : Reply) : W128 := first16 (hmac s.kDh (replyBytes r))

/-- The fingerprint of R316. -/
def fingerprint (n : Nat) (p : Packet) : W128 :=
  if n = 0 then first16 (Config.sm3 (headerBytes p ++ payloadOf p)) else p.check

/-! ### Replies -/

/-- A reply with the status as the attention set stands; `checked` says whether it carries a check. -/
def mkReply (n : Nat) (checked : Bool) (code : W16) (flags : W16) (word : W64) (p : Packet) (d : Dev) : Reply :=
  let r : Reply := { status := statusWord d code, opcode := p.opcode, flags := flags, counter := p.counter, tag := p.tag,
                     result := word }
  if checked && n != 0 then { r with check := replyCheck (sessOf d n) r } else r

/-- A reply slot as its 64 bytes (Table 12.9). -/
def replyImage (s : Nat) (r : Reply) : List Byte := sealLine (replyBytes r ++ beBytes 16 r.check.toNat ++ leBytes 8 s ++ [0, 0, 0, 0])

/-- A reply is written into the next slot of a session's reply ring (R312, R313). -/
def writeSlot (rq : Nat) (r : Reply) (d : Dev) : Dev :=
  let q := queueOf d rq
  let s := q.producer + 1
  setQueue rq { q with producer := s }
    { d with queues := { d.queues with replySlots := kput d.queues.replySlots (rq * 65536 + s % 2 ^ q.exp) (replyImage s r) } }

/-- The mailbox reply: DONE sets, SEQ increases (Table 12.3). -/
def mailReply (r : Reply) (d : Dev) : Dev :=
  modFront (fun f => { f with mboxReply := r, mboxDone := true, mboxBusy := false, mboxSeq := (f.mboxSeq + 1) % 65536 }) d

/-- A reply goes to the path of its packet. -/
def deliver (path : Path) (r : Reply) (d : Dev) : Dev :=
  match path with
  | .mailbox => mailReply r d
  | .ring q => writeSlot (queueOf d q).partner r d

/-! ### The replay store (R316) -/

/-- Only the 256 most recent entries stay, but entries awaiting their final reply are never evicted. -/
def trimStore (l : List Stored) : List Stored :=
  (l.zip (List.range l.length)).filterMap fun e => if e.2 < 256 || e.1.waiting then some e.1 else none

/-- The counter is consumed: H moves and the reply is stored (R314). -/
def consume (n : Nat) (p : Packet) (r : Reply) (waiting : Bool) (d : Dev) : Dev :=
  modSess n (fun s => { s with
    high := max s.high p.counter.toNat
    store := trimStore ({ counter := p.counter, fingerprint := fingerprint n p, reply := r, waiting := waiting } ::
      s.store) }) d

/-- A stored reply sent again with REPLAYED, present attention and a fresh check. -/
def replayed (n : Nat) (e : Stored) (d : Dev) : Reply :=
  let r := { e.reply with
    status := statusWord d (e.reply.status &&& 0x0FFF), flags := e.reply.flags ||| 1, check := 0 }
  if n = 0 then r else { r with check := replyCheck (sessOf d n) r }

/-! ### What a packet needs (Tables 13.5 to 13.12) -/

/-- The known opcodes. -/
def knownOpcodes : List Nat :=
  (List.range 10).map (0x0101 + ·) ++ (List.range 6).map (0x0201 + ·) ++ (List.range 9).map (0x0301 + ·) ++
  (List.range 6).map (0x0401 + ·) ++ (List.range 7).map (0x0501 + ·) ++ [0x0601] ++ (List.range 4).map (0x0701 + ·) ++
  (List.range 4).map (0x0801 + ·)

/-- Opcodes of any open session, session 0 included (R366). SESSION_OPEN runs in session 0 only. -/
def openOpcodes : List Nat :=
  [0x0101, 0x0102, 0x0103, 0x0104, 0x0108, 0x0109, 0x0309, 0x0401, 0x0402, 0x0501, 0x0507, 0x0704]

/-- What a provisioning session executes (R357). -/
def provisioningOpcodes : List Nat := [0x0101, 0x0102, 0x0103, 0x0105, 0x0106, 0x0108, 0x0109]

/-- Opcodes whose first reply is ACCEPTED (R329: A→D and 2P). -/
def acceptedOpcodes : List Nat :=
  [0x0106, 0x0108, 0x0201, 0x0203, 0x0204, 0x0205, 0x0206, 0x0304, 0x0306, 0x0307, 0x0308, 0x0601, 0x0701, 0x0702,
   0x0703, 0x0802, 0x0804]

/-- The payload length of an opcode (R327). -/
def layoutOk (op n : Nat) (p : Packet) : Bool :=
  match op with
  | 0x0102 => n == 64
  | 0x0104 => n == 128
  | 0x0106 | 0x0108 | 0x0201 | 0x0203 | 0x0205 | 0x0405 | 0x0501 | 0x0506 | 0x0802 => n == 16
  | 0x0204 => n % 64 == 0 && decide (1 ≤ n / 64 ∧ n / 64 ≤ 16)
  | 0x0206 =>
    let k := pay p 0x10 2
    decide (n ≥ 32) && n == (32 + 8 * k + 15) / 16 * 16
  | 0x0304 | 0x0404 | 0x0701 => n == 64
  | 0x0306 => n == 144
  | _ => n == 0

/-- Reserved inline ranges (offset from 0x20, length) of an opcode. -/
def reservedInl (op : Nat) : List (Nat × Nat) :=
  match op with
  | 0x0107 | 0x0108 => []
  | 0x010A => [(5, 11)]
  | 0x0202 => []
  | 0x0203 => [(12, 4)]
  | 0x0204 | 0x0205 | 0x0206 => [(14, 2)]
  | 0x0301 => [(1, 1), (4, 12)]
  | 0x0302 => [(1, 15)]
  | 0x0303 => [(3, 13)]
  | 0x0305 => [(2, 14)]
  | 0x0308 | 0x0403 => [(10, 6)]
  | 0x0405 => [(2, 2), (14, 2)]
  | 0x0406 => [(1, 15)]
  | 0x0501 => [(8, 8)]
  | 0x0502 => [(9, 7)]
  | 0x0503 => [(2, 2), (8, 8)]
  | 0x0504 => [(1, 15)]
  | 0x0505 => [(8, 8)]
  | 0x0507 | 0x0601 => [(2, 14)]
  | 0x0703 => [(1, 15)]
  | 0x0801 => [(4, 12)]
  | 0x0803 => [(4, 12)]
  | 0x0804 => [(8, 8)]
  | _ => [(0, 16)]

/-- Reserved payload ranges of an opcode; those of loaded objects and queue specifications are their readers'. -/
def reservedPay (op : Nat) (p : Packet) : List (Nat × Nat) :=
  match op with
  | 0x0102 => [(0x12, 14), (0x32, 14)]
  | 0x0104 => [(0x60, 16)]
  | 0x0204 => (List.range ((payloadOf p).length / 64)).flatMap fun i => [(64 * i + 0x16, 2), (64 * i + 0x24, 28)]
  | 0x0206 => (18, 14) :: (List.range (pay p 0x10 2)).map fun i => (32 + 8 * i + 6, 2)
  | 0x0304 => [(0x23, 1), (0x28, 24)]
  | 0x0306 => [(0x22, 2), (0x2C, 4), (0x42, 14), (0x62, 14), (0x82, 14)]
  | 0x0404 => [(6, 2), (0x0B, 1), (0x0F, 1), (0x13, 1), (0x17, 1), (0x26, 2), (0x3D, 3)]
  | 0x0405 => [(12, 4)]
  | 0x0506 => [(3, 1), (12, 4)]
  | 0x0701 => [(0x20, 32)]
  | _ => []

/-- The packet offset of the first byte range that is not zero. -/
def firstNonzero (l : List Byte) (base : Nat) (rs : List (Nat × Nat)) : Option Nat :=
  (rs.find? fun r => !allZero (bytesAt l r.1 r.2)).map fun r => base + r.1

/-- Row 7 before the opcode's own parameters: opcode, layout, reserved fields, header ranges, path and session. -/
def row7 (n : Nat) (path : Path) (p : Packet) (d : Dev) : Option Answer :=
  let op := p.opcode.toNat
  if !knownOpcodes.contains op then some (refuseAt cOpcode 0)
  else if !layoutOk op (payloadOf p).length p then some (refuseAt cLayout 4)
  else if p.flags &&& 0xFFFE ≠ 0 then some (refuseAt cReserved 2)
  else if n = 0 ∧ p.check ≠ 0 then some (refuseAt cReserved 0x30)
  else match firstNonzero p.inl 0x20 (reservedInl op), firstNonzero (payloadOf p) 0x40 (reservedPay op p) with
  | some o, _ => some (refuseAt cReserved o)
  | none, some o => some (refuseAt cReserved o)
  | none, none =>
    if p.partition.toNat > 15 ∧ p.partition ≠ 0xFF then some (refuseAt cRange 0x12)
    else if p.priority.toNat > 3 then some (refuseAt cRange 0x13)
    else
      let mail := path == .mailbox
      let pathBad := (mail && !([0x0101, 0x0102, 0x0103, 0x0109].contains op)) ||
        (!mail && (op == 0x0102 || op == 0x0103))
      let sessBad := (n == 0 && !openOpcodes.contains op) || (n != 0 && op == 0x0104) ||
        ((sessOf d n).provisioning && !provisioningOpcodes.contains op)
      if pathBad || sessBad then some (refuseAt cPath 0) else none

/-! ### Units named by a two-phase change (R239, R320) -/

/-- The clusters that hold a core of a mask. -/
def clustersOf (mask : W64) : List Nat :=
  (List.range 16).filter fun c => (List.range 4).any fun i => mask.getLsbD (4 * c + i)

/-- The unit mask of frame tables and buckets for a set of clusters, with the Steward's bit 48 (R239). -/
def tableUnits (clusters : List Nat) : W64 :=
  BitVec.ofNat 64 (clusters.foldl (fun a c => a + 2 ^ c) 0 + 0xF * 2 ^ 16 +
    clusters.foldl (fun a c => a + 2 ^ (20 + c)) 0 + 2 ^ 36 + 2 ^ 48)

/-- The clusters a packet's command configures: those of its cores, of its partitions, or of its context's partition. -/
def packetClusters (p : Packet) (d : Dev) : List Nat :=
  let ofPart (n : Nat) : List Nat := ((partOf? d n).map fun q => clustersOf q.mask).getD []
  match p.opcode.toNat with
  | 0x0201 | 0x0304 | 0x0306 | 0x0308 =>
    if p.partition = 0xFF then ofPart (ctxOf d p.context).partition else ofPart p.partition.toNat
  | 0x0204 => (List.range ((payloadOf p).length / 64)).flatMap fun i =>
      clustersOf (BitVec.ofNat 64 (pay p (64 * i + 24) 8)) ++ ofPart (pay p (64 * i) 1)
  | 0x0205 => clustersOf (BitVec.ofNat 64 (pay p 0 8))
  | 0x0206 => (List.range (pay p 16 2)).flatMap fun i => ofPart (ctxOf d (BitVec.ofNat 32 (pay p (32 + 8 * i) 4))).partition
  | _ => []

/-- A packet names a unit of a pending change (R235, R320): the same core, a table or bucket that the change names, or the
tables of a cluster whose cores the change names. -/
def namesBusyUnit (p : Packet) (d : Dev) : Bool :=
  let op := p.opcode.toNat
  (d.cores.changes.filter pendingChange).any fun c =>
    if c.cores then
      if op = 0x0205 then (BitVec.ofNat 64 (pay p 0 8) &&& c.named) != 0
      else (packetClusters p d).any fun k => (clustersOf c.named).contains k
    else op == 0x0204 || op == 0x0206 || op == 0x0601 || (packetClusters p d).any fun k => c.named.getLsbD k

/-! ### The checks of Table 12.10 -/

/-- Commands of a session that await a final reply. -/
def awaiting (d : Dev) (n : Nat) : Nat := (d.accepted.filter fun a => a.session == n).length

/-- A Steward processor does its work: released, running, and its rings have been resumed (R326). -/
def stewardRuns (n : Nat) (d : Dev) : Bool :=
  (d.front.state == .ready || d.front.state == .safeState || d.front.state == .chipFailed) &&
    d.start.resumed && procUp n d && !d.watch.dwd.failover

/-- Processor 0 interprets packets (R134). -/
def stewardUp (d : Dev) : Bool := stewardRuns 0 d

/-- Processor 1 runs the fabric protocol (R134). -/
def fabricUp (d : Dev) : Bool := stewardRuns 1 d

/-- A session closes: its keys are gone (R362). -/
def closeSession (n : Nat) (d : Dev) : Dev := { d with sessions := kdel d.sessions n }

/-- A session that SESSION_CLOSE, or the end of provisioning, has marked closes with its ring pair once the reply stands
(R336, R357). -/
def closeMarked (n : Nat) (d : Dev) : Dev :=
  let s := sessOf d n
  if s.closing then
    closeSession n (match s.rings with
      | some (cq, rq) => dropQueue cq (dropQueue rq d)
      | none => d)
  else d

/-- A refusal at rows 1 to 6: a reply, no counter, nothing stored. -/
def plainReply (n : Nat) (checked : Bool) (path : Path) (code : W16) (word : W64) (p : Packet) (d : Dev) : Dev :=
  deliver path (mkReply n checked code 2 word p d) d

/-- The manager's own MAP record of a command that opens, closes, resumes or moves a context comes before its COMMAND record
(R473). -/
def movesContext (p : Packet) : Bool := [0x0306, 0x0307, 0x0308, 0x0703].contains p.opcode.toNat
def mapRecord (c : W32) (dev : Nat) (d : Dev) : Dev :=
  let dom := ((kfind? d.fabric.members dev).map (·.hostDomain)).getD 0
  modFab (fun f => framesOut (nowOf d) [(5, 0xFF, lastImage f)] { f with map := kput f.map c.toNat dev }) (journalAdd c (.map dev dom) d)
def mapFirst (p : Packet) (d : Dev) : Dev :=
  if d.fabric.role = 1 && movesContext p then
    mapRecord p.context (if p.opcode = 0x0703 then inl p 0 1 else d.fabric.device) d
  else d

/-- The first reply of a command whose packet passes: what its meaning answered, and the device after it. -/
def firstReply (n : Nat) (path : Path) (p : Packet) (x : Answer × Dev) : Dev :=
  let d := x.2
  match x.1 with
  | .refuse code w =>
    let r := mkReply n true code 2 w p d
    deliver path r (consume n p r false d)
  | .ok w =>
    let r := mkReply n true cOk 2 w p d
    closeMarked n (deliver path r (consume n p r false d))
  | .accept w a =>
    let d := { d with accepted := d.accepted ++ [a] }
    let r := mkReply n true cAccepted 0 w p d
    deliver path r (consume n p r true d)

/-- A command that its meaning would accept (R473, R476): the manager's MAP record, the COMMAND record, then, with a mirror
peer, the wait for the confirmation with nothing of the command executed. -/
def acceptCommand (n : Nat) (path : Path) (p : Packet) (a : Accepted) (d d' : Dev) (w : W64) : Dev :=
  let record (d : Dev) : Dev := journalAdd p.context (.command p.session p) (mapFirst p d)
  if d.fabric.unmirrored || journalFull d (.command p.session p) then
    firstReply n path p (.refuse cMirrorFailed (refusalWord 0 noField), d)
  else if hasMirror d then
    let d := record d
    { d with accepted := d.accepted ++ [{ session := n, packet := p, path := path, due := d.geyser.now, loaded := false,
                                          mirror := some (d.fabric.nextSeq - 1),
                                          map := d.fabric.role == 1 || !movesContext p }] }
  else firstReply n path p (.accept w a, record d')

/-- The two-phase commands (R235), whose BUSY comes after their own conditions. -/
def twoPhase (op : Nat) : Bool := [0x0204, 0x0205, 0x0206].contains op

/-- A packet that finds its intake full, or names a unit of a pending change (R320). -/
def intakeBusy (n : Nat) (p : Packet) (d : Dev) : Bool :=
  let op := p.opcode.toNat
  (acceptedOpcodes.contains op && (decide (d.accepted.length ≥ 4096) || decide (awaiting d n ≥ 64))) ||
    (!twoPhase op && namesBusyUnit p d)

/-- Rows 5 to 8. BUSY consumes no counter, wherever it is found (Table 12.10, row 6; R235). -/
def rows5to8 (body : Body) (n : Nat) (path : Path) (p : Packet) (d : Dev) : Dev :=
  let op := p.opcode.toNat
  if inSafe d && !([0x0109, 0x010A, 0x0501].contains op) then
    plainReply n true path cSafeState (refusalWord 0 noField) p d
  else if intakeBusy n p d then
    plainReply n true path cBusy (refusalWord 0 noField) p d
  else
    match row7 n path p d with
    | some a => firstReply n path p (a, d)
    | none =>
      let x := body n path p d
      match x.1 with
      | .accept w a => acceptCommand n path p a d x.2 w
      | .refuse code w => if code = cBusy then plainReply n true path code w p d else firstReply n path p x
      | .ok _ => firstReply n path p x

/-- Row 4: the counter under R316, R365. -/
def row4 (body : Body) (n : Nat) (path : Path) (p : Packet) (d : Dev) : Dev :=
  let s := sessOf d n
  match s.store.find? fun e => e.counter == p.counter with
  | some e =>
    if e.fingerprint = fingerprint n p then deliver path (replayed n e d) d
    else
      let d := if n = 0 then d else securityAttn 2 n 0 p.counter.toNat d
      plainReply n true path cStale (refusalWord 0 8) p d
  | none =>
    if p.counter.toNat > s.high ∧ s.high ≠ 0xFFFFFFFFFFFFFFFE then rows5to8 body n path p d
    else plainReply n true path cStale (refusalWord 0 8) p d

/-- Rows 1 to 3, then the rest. The session field must be the ring's owner. -/
def processPacket (body : Body) (path : Path) (p : Packet) (d : Dev) : Dev :=
  let n := p.session.toNat
  let l := p.length.toNat
  let lenBad := l % 16 != 0 || decide (l < 64) || decide (l > (if path = .mailbox then 3840 else 4096))
  let sessBad := decide (n > 255) || (match path with | .ring q => (queueOf d q).owner != n | .mailbox => false)
  if lenBad then
    let d := match path with
      | .ring q => modQueue (queueOf d q).partner (fun x => { x with halted := true })
          (modQueue q (fun x => { x with halted := true }) d)
      | .mailbox => d
    plainReply n false path cLength (refusalWord 0 4) p d
  else if sessBad then plainReply n false path cLength (refusalWord 0 0x10) p d
  else if !(sessOf d n).isOpen then plainReply n false path cNoSession (refusalWord 0 0x10) p d
  else if n = 0 then row4 body n path p d
  else if packetCheck (sessOf d n) p ≠ p.check then
    let d := securityAttn 1 n 0 p.counter.toNat d
    let confirmed := (sessOf d n).confirmed
    let d := plainReply n true path cBadCheck (refusalWord 0 0x30) p d
    if confirmed then d else closeSession n d
  else row4 body n path p (modSess n (fun s => { s with confirmed := true }) d)

/-! ### Taking packets from the rings (R318 to R321) -/

/-- Bytes a packet occupies in its ring (R309). -/
def slotBytes (p : Packet) : Nat := (p.length.toNat + 63) / 64 * 64

/-- Free slots of a session's reply ring. -/
def replyFree (d : Dev) (rq : Nat) : Nat :=
  let q := queueOf d rq
  2 ^ q.exp - (q.producer - q.consumer)

/-- The ring of session `n` may be taken from now: not halted, room for the reply and for every outstanding final reply,
no FENCE waiting, and no command of it between its check and its reply (R473). -/
def ringReady (d : Dev) (n : Nat) : Bool :=
  let s := sessOf d n
  match s.rings, s.waiting with
  | some (cq, rq), p :: _ =>
    !(queueOf d cq).halted && !(d.accepted.any fun a => a.session == n && a.mirror.isSome) && decide (replyFree d rq ≥ 1 + awaiting d n) &&
      !(p.flags.getLsbD 0 && decide (awaiting d n > 0))
  | _, _ => false

/-- The priority and ring of a session's head packet. -/
def headKey (d : Dev) (n : Nat) : Nat × Nat :=
  let s := sessOf d n
  match s.rings, s.waiting with
  | some (cq, _), p :: _ => (p.priority.toNat, cq)
  | _, _ => (0, 0)

/-- The session whose packet is taken next: lowest priority number, then round-robin by queue number (R319). -/
def pickRing (d : Dev) : Option Nat :=
  let ready := ((0 :: d.sessions.map (·.1)).eraseDups).filter (ringReady d)
  let key (n : Nat) : Nat × Nat × Nat :=
    let (pr, q) := headKey d n
    (pr, if q ≥ d.queues.nextRing then 0 else 1, q)
  ready.foldl (fun a n => match a with
    | none => some n
    | some m =>
      let (a1, b1, c1) := key m
      let (a2, b2, c2) := key n
      if a2 < a1 ∨ (a2 = a1 ∧ (b2 < b1 ∨ (b2 = b1 ∧ c2 < c1))) then some n else some m) none

/-- One packet of a ring is taken: the consumer offset moves past it; a PAD continues at the next turn of the ring. -/
def takeFrom (body : Body) (n : Nat) (d : Dev) : Dev :=
  let s := sessOf d n
  match s.rings, s.waiting with
  | some (cq, _), p :: rest =>
    let q := queueOf d cq
    let size := 2 ^ q.exp
    let step := if p.opcode = 0 then size - q.consumer % size else slotBytes p
    let d := setQueue cq { q with consumer := q.consumer + step } (modSess n (fun s => { s with waiting := rest }) d)
    let d := { d with queues := { d.queues with nextRing := cq + 1 } }
    if p.opcode = 0 then d else processPacket body (.ring cq) p d
  | _, _ => d

/-- Packets are taken while one can be, at most `fuel`. -/
def drainRings (body : Body) : Nat → Dev → Dev
  | 0, d => d
  | fuel + 1, d =>
    if stewardUp d then
      match pickRing d with
      | some n => drainRings body fuel (takeFrom body n d)
      | none => d
    else d

/-- All packets that wait in rings. -/
def waitingCount (d : Dev) : Nat := d.sessions.foldl (fun a e => a + e.2.waiting.length) 0

def drainAll (body : Body) (d : Dev) : Dev := drainRings body (waitingCount d) d

/-! ### Final replies (R317) -/

/-- The final reply of an accepted command: it replaces ACCEPTED in the replay store and goes to the session's reply ring,
or is held for the next one (R335). -/
def finalReply (a : Accepted) (code : W16) (word : W64) (d : Dev) : Dev :=
  let n := a.session
  let r := mkReply n true code 2 word a.packet d
  let d := { d with accepted := d.accepted.filter fun b => !(b.session == n && b.packet.counter == a.packet.counter) }
  let d := journalAdd a.packet.context (.final a.packet.session r) d
  let d := modSess n (fun s => { s with store := s.store.map fun e =>
    if e.counter == a.packet.counter then { e with reply := r, waiting := false } else e }) d
  match (sessOf d n).rings with
  | some (_, rq) => closeMarked n (writeSlot rq r d)
  | none => modSess n (fun s => { s with held := s.held ++ [r] }) d

/-- The accepted command of a session and counter. -/
def acceptedOf? (d : Dev) (session : Nat) (counter : W64) : Option Accepted :=
  d.accepted.find? fun a => a.session == session && a.packet.counter == counter

def modAccepted (session : Nat) (counter : W64) (f : Accepted → Accepted) (d : Dev) : Dev :=
  { d with accepted := d.accepted.map fun a => if a.session == session && a.packet.counter == counter then f a else a }

end Sys2Proof.Machine
end

