-- ==== Sys2Proof/Machine/Admission.lean ====
section
/-! DEFINITION. Admission (10 R249 to R269, R536, R537): demand terms, windows and their placement, bucket rates, the seven
terms in order, and what a commit installs. Times are in units of 100 ns unless a name says otherwise; F in M steps/s. -/

namespace Sys2Proof.Machine

open Sys2Proof

def ceilDiv (a b : Nat) : Nat := (a + b - 1) / b

/-! ### Kernels, operations and demand (R220, R257) -/

/-- The layer-0 tensor of a stream (Table 4.3): format, dimensions, tiles, layer 0. -/
def layer0Of (s : Stream) : TensorDesc :=
  let dims := if s.sampling = 3 then [s.height, s.width / 2, 4] else [s.height, s.width, 3]
  let t : TensorDesc := { format := if s.depth = 8 then 0x02 else 0x0C, dims := dims, tiles := 0, layer := 0 }
  { t with tiles := ceilDiv (canonLen t) 4096 }

/-- The kernels of one result's operations: one launch per TILE, FULL, HEAD and SENTINEL check (R253). -/
def resultKernels (p : Plan) (t : Template) : List Kernel := (checksOf p t).filterMap (checkKernel? p)

/-- Unfenced cores of a partition's mask. -/
def coresOf (d : Dev) (q : Partition) : List Nat :=
  (List.range 64).filter fun n => q.mask.getLsbD n && !isFenced d n

/-- The step demand of a launch on a core in a mode (R220). -/
def demandOn (split : Bool) (k : Kernel) : Nat :=
  if split then max k.tensorSteps k.issueSteps else max k.tensorSteps (2 * k.issueSteps)

/-- The step demand that admission counts: that of the slower mode where the cores of the mask run in both, since an operation may
come to any of them (R257). -/
def demand (d : Dev) (q : Partition) (k : Kernel) : Nat := demandOn ((coresOf d q).all fun n => (coreOf d n).split) k

/-- A SUSPENDED context whose CONTEXT_RESUME has been admitted and awaits its activation. -/
def resuming (d : Dev) (c : Nat) : Bool :=
  d.accepted.any fun a => a.packet.opcode == 0x0308 && a.packet.context.toNat == c

/-- Contexts that admission counts, with their numbers: ADMITTED and ACTIVE, DRAINING ones that no re-admission has left out, and
those about to resume (R256, R268). -/
def countedCtx (d : Dev) : List (Nat × Context) :=
  d.contexts.filter fun e => e.2.state == .admitted || e.2.state == .active || (e.2.state == .draining && !e.2.uncounted) ||
    (e.2.state == .suspended && resuming d e.1)

/-- Counted contexts of a partition with their plan and template. -/
def ctxPlans (d : Dev) (p : Nat) : List (Context × Plan × Template) :=
  (countedCtx d).filterMap fun e =>
    if e.2.partition = p then
      match planOf? d e.2.planId e.2.planVersion, templateOf? d e.2.planId e.2.planVersion e.2.template with
      | some l, some t => some (e.2, l.plan, t)
      | _, _ => none
    else none

/-- n_c(L) for L and D in µs and the rate in thousandths of a result per second (R257). -/
def burst (t : Template) (lUs : Nat) : Nat := 2 + t.rate * (lUs + t.deadlineUs) / 1000000000

/-! ### Evidence volume (R265) -/

/-- Bytes of a record with a payload of `n` bytes (R79). -/
def recordBytes (n : Nat) : Nat := ceilDiv (n + 36) 64 * 64

/-- Bytes of the TENSOR records that carry `t` tiles. -/
def tensorRecBytes (t : Nat) : Nat :=
  t / 16 * recordBytes (16 + 4096 * 16) + (if t % 16 = 0 then 0 else recordBytes (16 + 4096 * (t % 16)))

/-- Levels of the tree over `t` leaves. -/
def treeDepth (t : Nat) : Nat := if t ≤ 1 then 0 else Nat.log2 (t - 1) + 1

/-- Dependency tiles of an output tile, and the largest number over a kernel's output tiles. -/
def runTiles (r : List Run) : Nat := (r.filter fun x => x.layer != 0).foldl (fun a x => a + x.count) 0
def maxDeps (k : Kernel) : Nat := k.deps.foldl (fun a e => max a (runTiles e.2)) 0

/-- Bytes of the CRC_LIST records of a tensor of `n` tiles. -/
def listBytes (n : Nat) : Nat :=
  n / 4096 * recordBytes (8 * 4096) + (if n % 4096 = 0 then 0 else recordBytes (8 * (n % 4096)))

/-- Tiles of the layer-0 tensors of a template: those that its DIGEST checks name. -/
def inputTileCounts (p : Plan) (t : Template) : List Nat :=
  (checksOf p t).filterMap fun c => if c.kind = 1 then (p.tensors[c.output]?).map (·.tiles) else none

/-- b_c: the largest evidence volume of one result, in whole records; DEMANDS governs when larger (R257, R265). Under FAULT every
committed tensor has its tile list, the inputs among them (Table 3.12, no. 7). -/
def evidenceBytes (p : Plan) (t : Template) : Nat :=
  let ls := requiredLayers p t
  let commits := (t.inputCount + ls.length) * recordBytes 64
  let lists := if t.grade = 2 then
      ((inputTileCounts p t) ++ ls.map (tilesOfLayer p)).foldl (fun a n => a + listBytes n) 0 else 0
  let opens := (checksOf p t).foldl (fun a c =>
    if c.kind = 2 then
      let ins := (((checkKernel? p c).map (·.inputs)).getD []).map (tilesOfLayer p)
      let path := if t.grade = 1 then 32 * treeDepth (tilesOfLayer p c.firstLayer) else 0
      let k := min c.k (tilesOfLayer p c.firstLayer)
      let deps := ((checkKernel? p c).map maxDeps).getD 0
      let dpath := if t.grade = 1 then 32 * treeDepth (ins.foldl max 0) else 0
      a + k * recordBytes (0x1020 + path) + min (k * deps) (ins.foldl (· + ·) 0) * recordBytes (0x1020 + dpath)
    else a) 0
  let tens := (deliveredLayers p t).foldl (fun a l => a + tensorRecBytes (tilesOfLayer p l)) 0
  max (commits + lists + opens + tens) p.demands.evidenceBytes

/-! ### Window length (R259) -/

/-- A window of lower criticality number donates to the partition. -/
def isDonee (d : Dev) (p : Nat) (q : Partition) : Bool :=
  d.sched.parts.any fun e => e.1 != p && e.2.donate && decide (e.2.criticality < q.criticality) &&
    (e.2.mask &&& q.mask) != 0

/-- s_p in 100 ns: z + y + 5 µs (m + 1) + (u + r) / F, rounded up, and no window is shorter than 10 µs (Table 10.7). -/
def serviceLen (d : Dev) (p : Nat) (q : Partition) : Nat :=
  let cs := ctxPlans d p
  let u := cs.foldl (fun a e => a + burst e.2.2 q.qUs *
    ((resultKernels e.2.1 e.2.2).foldl (fun b k => b + demand d q k) 0)) 0
  let m := cs.foldl (fun a e => a + burst e.2.2 q.qUs * (resultKernels e.2.1 e.2.2).length) 0
  let r := cs.foldl (fun a e => (resultKernels e.2.1 e.2.2).foldl (fun b k => max b (demand d q k)) a) 0
  let don := if isDonee d p q then 1 else 0
  max 100 (ceilDiv (10 * (1024 * (1 + don) + u + r)) d.pace.f + 3 * don + 50 * (m + 1))

/-- The largest kernel of a partition, its re-run reserve (R259). -/
def rerunDemand (d : Dev) (p : Nat) (q : Partition) : Nat :=
  (ctxPlans d p).foldl (fun a e => (resultKernels e.2.1 e.2.2).foldl (fun b k => max b (demand d q k)) a) 0

/-! ### Golden windows (R261) -/

/-- Golden entries of a partition over all loaded plans, with the plan's major frame 0 (or `start0` before activation). -/
def goldenOf (d : Dev) (p : Nat) (start0 : Int) : List (Plan × GoldenEntry × Int) :=
  d.plans.loaded.flatMap fun l =>
    (l.plan.golden.filter (·.partition == p)).map fun g => (l.plan, g, kget start0 l.start p)

def goldenKernel? (p : Plan) (g : GoldenEntry) : Option Kernel :=
  if g.kernelSection = 5 then p.network[g.kernel]? else p.sentinel[g.kernel]?

/-- Two due congruences are solvable together. -/
def solvable (a b : Int × Nat) : Bool := (a.1 - b.1) % (Nat.gcd a.2 b.2 : Int) == 0

/-- The size of the largest pairwise solvable set that extends `chosen` from the list. -/
def largestDue : List (Int × Nat) → List (Int × Nat) → Nat
  | [], chosen => chosen.length
  | e :: r, chosen =>
    let skip := largestDue r chosen
    if chosen.all (solvable e) then max skip (largestDue r (e :: chosen)) else skip

/-- g_p: the largest number of a partition's golden entries that fall due in one major frame (R261). -/
def dueAtOnce (d : Dev) (p : Nat) (q : Partition) : Nat :=
  largestDue ((goldenOf d p (frameNo q (nextBoundary q (d.geyser.now + ms 1)))).map fun e =>
    ((e.2.1.phase : Int) + e.2.2, max 1 e.2.1.period)) []

/-- The length of a partition's GOLDEN window, 0 when it has no entries: z + g (5 µs + 2 d / F + b / 8 GB/s), rounded up. -/
def goldenLen (d : Dev) (p : Nat) (q : Partition) : Nat :=
  let start0 := frameNo q (nextBoundary q (d.geyser.now + ms 1))
  let es := goldenOf d p start0
  if es.isEmpty then 0
  else
    let g := dueAtOnce d p q
    let dg := es.foldl (fun a e => max a (((goldenKernel? e.1 e.2.1).map (demand d q)).getD 0)) 0
    let bg := es.foldl (fun a e =>
      max a (((e.1.weightDigests.find? (·.blob == e.2.1.inputBlob)).map (·.length)).getD 0)) 0
    -- in units of 100 ns / (800 F): z = 10·1024/F, 5 µs = 50, 2 d/F = 20 d/F, b/8 GB/s = b/800
    max 100 <| ceilDiv (10 * 1024 * 800 + g * (50 * 800 * d.pace.f + 20 * 800 * dg + bg * d.pace.f)) (800 * d.pace.f)

/-! ### Placement (R251, R262, R502) -/

/-- Occupied intervals of the cores: core, start, length. -/
abbrev Busy := List (Nat × Nat × Nat)

def overlaps (b : Busy) (core start len : Nat) : Bool :=
  b.any fun e => e.1 == core && decide (e.2.1 < start + len) && decide (start < e.2.1 + e.2.2)

/-- The smallest of the candidate offsets that is free on every core at every start. -/
def smallestFree (cands : List Nat) (ok : Nat → Bool) : Nat :=
  (cands.filter ok).foldl min ((cands.foldl max 0) + 1)

/-- φ_p: the smallest offset at which none of the SERVICE windows meets a placed one. A smallest offset is 0, or puts some
window right behind a placed one, or lies behind them all. -/
def servicePhase (b : Busy) (cores : List Nat) (q len n : Nat) : Nat :=
  let ends := (b.filter fun e => cores.contains e.1).map fun e => e.2.1 + e.2.2
  let cands := 0 :: (ends ++ ends.map (· % q))
  smallestFree cands fun f => (List.range n).all fun i => cores.all fun c => !overlaps b c (f + i * q) len

/-- The earliest offset at which one window fits on every core. -/
def earliestFit (b : Busy) (cores : List Nat) (len : Nat) : Nat :=
  let ends := (b.filter fun e => cores.contains e.1).map fun e => e.2.1 + e.2.2
  smallestFree (0 :: ends) fun f => cores.all fun c => !overlaps b c f len

def coreBits (cluster : Nat) (cores : List Nat) : Nat :=
  (List.range 4).foldl (fun a i => if cores.contains (4 * cluster + i) then a + 2 ^ i else a) 0

/-- Partitions in increasing criticality, then number (R242). -/
def partOrder (d : Dev) : List (Nat × Partition) :=
  (List.range 4).flatMap fun c => d.sched.parts.filter (·.2.criticality == c)

/-- A failing condition of Table 10.13: code, term, condition, partition, unit, item, shortfall. -/
structure Shortfall where
  code : W16
  term : Nat
  condition : Nat
  partition : Nat := 0xFF
  unit : Nat := 0xFF
  item : Nat := 0xFF
  amount : Nat
  deriving DecidableEq, Repr

/-- The result word of Table 10.9. -/
def shortfallWord (s : Shortfall) : W64 :=
  BitVec.ofNat 64 (s.term * 2 ^ 56 + s.partition * 2 ^ 48 + s.unit * 2 ^ 40 + s.item * 2 ^ 32 + s.condition * 2 ^ 24 +
    min s.amount 16777215)

/-- The placement so far: occupied intervals, windows per cluster, and windows that end beyond their major frame, whose item is
their start until the table is whole. -/
structure Placement where
  busy : Busy := []
  windows : KMap (List Window) := []
  beyond : List Shortfall := []
  deriving DecidableEq, Repr

/-- One window on some cores of one cluster; starts and lengths in 100 ns become ns in the table. -/
def addWindow (cluster start len part : Nat) (kind : WindowKind) (cores : List Nat) (donate : Bool) (major : Nat)
    (p : Placement) : Placement :=
  let mine := cores.filter fun c => c / 4 == cluster
  if mine.isEmpty then p
  else
    let ws := kget [] p.windows cluster
    { p with
      busy := p.busy ++ mine.map fun c => (c, start, len)
      windows := kput p.windows cluster (ws ++ [
        { start := 100 * start, length := 100 * len, partition := part, kind := kind, mask := coreBits cluster mine,
          donate := donate }])
      beyond := if start + len > major then p.beyond ++
        [{ code := 0x045, term := 3, condition := 2, partition := part, unit := cluster, item := start,
           amount := start + len - major }] else p.beyond }

/-- Steps 1 to 3 of R251 for one partition. -/
def placeService (d : Dev) (p : Nat) (q : Partition) (pl : Placement) : Placement :=
  let cores := coresOf d q
  let len := serviceLen d p q
  let qq := 10 * q.qUs
  let n := q.majorUs / q.qUs
  let phase := servicePhase pl.busy cores qq len n
  (List.range n).foldl (fun pl i => (clustersOf q.mask).foldl (fun pl k =>
    addWindow k (phase + i * qq) len p .service cores q.donate (10 * q.majorUs) pl) pl) pl

/-- GOLDEN windows of a partition, cluster by cluster (R251 step 4, R261). -/
def placeGolden (d : Dev) (p : Nat) (q : Partition) (pl : Placement) : Placement :=
  let len := goldenLen d p q
  if len = 0 then pl
  else (clustersOf q.mask).foldl (fun pl k =>
    let cores := (coresOf d q).filter fun c => c / 4 == k
    addWindow k (earliestFit pl.busy cores len) len p .golden cores q.donate (10 * q.majorUs) pl) pl

/-- The SELFTEST window of a cluster that holds a frame table: 8.3 ms per second of its major frame, and at least z plus
the longest slice (R262, R502). -/
def selftestLen (d : Dev) (majorUs : Nat) : Nat :=
  max (ceilDiv (83 * majorUs) 1000) (ceilDiv (10 * 1024) d.pace.f + 2000)

def placeSelftest (d : Dev) (pl : Placement) : Placement :=
  (List.range 16).foldl (fun pl k =>
    match d.sched.parts.find? fun e => (clustersOf e.2.mask).contains k with
    | none => pl
    | some e =>
      let cores := ((List.range 4).map (4 * k + ·)).filter fun c => !isFenced d c
      let len := selftestLen d e.2.majorUs
      addWindow k (earliestFit pl.busy cores len) len 0xFF .selftest cores false (10 * e.2.majorUs) pl) pl

/-- The frame tables of the whole set (R251). -/
def placeAll (d : Dev) : Placement :=
  let ps := partOrder d
  let pl := ps.foldl (fun pl e => placeService d e.1 e.2 pl) {}
  placeSelftest d (ps.foldl (fun pl e => placeGolden d e.1 e.2 pl) pl)

/-- Windows of one cluster in the order of their starts: the order in which a frame table holds them (DESIGN CHOICE: Table 10.7
states no order). -/
def byStart : List Window → List Window
  | [] => []
  | w :: r => put w (byStart r)
where
  put (w : Window) : List Window → List Window
    | [] => [w]
    | v :: r => if w.start ≤ v.start then w :: v :: r else v :: put w r

/-- The index in a cluster's frame table of a partition's first window of a kind (Table 10.13, ITEM). -/
def windowIndex (pl : Placement) (k p : Nat) (kind : WindowKind) : Nat :=
  ((byStart (kget [] pl.windows k)).findIdx? fun w => w.partition == p && w.kind == kind).getD 0xFF

/-! ### Term 1: memory -/

/-- Whole 2 MiB segments, in MiB. -/
def segMiB (bytes : Nat) : Nat := 2 * ceilDiv bytes 2097152

/-- The bytes of the tensors that kernels of a plan pass on, each at a multiple of 64 bytes. -/
def handedBytes (p : Plan) : Nat :=
  p.tensors.foldl (fun a t => a + if t.layer = 0 then 0 else ceilDiv (canonLen t) 64 * 64) 0

/-- The HBM scratch of a plan in bytes: its tensors, or what DEMANDS gives when larger (R257). -/
def scratchBytes (p : Plan) : Nat := max (handedBytes p) (p.demands.scratchMiB * 1048576)

/-- A partition's allocations in MiB. -/
def allocMiB (d : Dev) (p : Nat) : Nat :=
  let plans := d.plans.loaded.filter (·.partition == p)
  let copies := plans.foldl (fun a l => a + segMiB (l.plan.totalLength + 128)) 0
  let blobs := ((plans.flatMap fun l => l.plan.weightDigests).eraseDups).foldl (fun a w => a + segMiB w.length) 0
  let scratch := plans.foldl (fun a l => a + segMiB (scratchBytes l.plan)) 0
  let rings := (d.streams.filter (·.2.partition == p)).foldl
    (fun a e => a + segMiB (e.2.slots * canonLen (layer0Of e.2))) 0
  let queues := (d.contexts.filter fun e => e.2.partition == p && e.2.state != .closed).foldl (fun a e =>
    a + segMiB (2 ^ (queueOf d e.2.evQueue).exp + 64 * 2 ^ (queueOf d e.2.chQueue).exp)) 0
  copies + blobs + scratch + rings + queues

/-- Every kernel a partition may launch: those of its contexts and its golden entries. -/
def partKernels (d : Dev) (p : Nat) : List Kernel :=
  (ctxPlans d p).flatMap (fun e => resultKernels e.2.1 e.2.2) ++
    (goldenOf d p 0).filterMap fun e => goldenKernel? e.1 e.2.1

/-- The shared-SRAM scratch of a partition in a cluster it uses, in 64 KiB segments: its largest kernel's. -/
def partScratch (d : Dev) (p : Nat) : Nat := ceilDiv ((partKernels d p).foldl (fun a k => max a k.scratch) 0) 65536

/-- Shared-SRAM scratch of a cluster in 64 KiB segments. -/
def scratchSegs (d : Dev) (k : Nat) : Nat :=
  d.sched.parts.foldl (fun a e => if (clustersOf e.2.mask).contains k then a + partScratch d e.1 else a) 0

/-- Retired segments of a cluster. -/
def retiredIn (d : Dev) (k : Nat) : Nat :=
  (d.memctl.segs.filter fun e => e.2.retired && decide (12192 + 128 * k ≤ e.1 ∧ e.1 < 12192 + 128 * (k + 1))).length

/-- The hold time of a stream (R110), in µs. -/
def holdUs (d : Dev) (i : Nat) (s : Stream) : Nat :=
  d.contexts.foldl (fun a e =>
    if e.2.state != .closed && e.2.streams.contains i then
      max a (((templateOf? d e.2.planId e.2.planVersion e.2.template).map (·.deadlineUs)).getD 0)
    else a) s.limitUs

def term1 (d : Dev) : Option Shortfall :=
  let beyond := d.sched.parts.find? fun e => decide (allocMiB d e.1 > e.2.quota)
  let sum := d.sched.parts.foldl (fun a e => a + e.2.quota) 0
  let sram := (List.range 16).find? fun k => decide (scratchSegs d k > 127 - retiredIn d k)
  let ring := d.streams.find? fun e => decide (e.2.slots < ceilDiv (holdUs d e.1 e.2) (max 1 e.2.periodUs) + 1)
  match beyond, sram, ring with
  | some e, _, _ => some { code := 0x044, term := 1, condition := 1, partition := e.1, amount := allocMiB d e.1 - e.2.quota }
  | none, s, r =>
    if sum > 23872 then some { code := 0x044, term := 1, condition := 2, amount := sum - 23872 }
    else match s, r with
      | some k, _ => some { code := 0x044, term := 1, condition := 3, unit := k,
                            amount := scratchSegs d k - (127 - retiredIn d k) }
      | none, some e => some { code := 0x044, term := 1, condition := 4, partition := e.2.partition, unit := 0x90 + e.2.port,
                               item := e.1,
                               amount := ceilDiv (holdUs d e.1 e.2) (max 1 e.2.periodUs) + 1 - e.2.slots }
      | none, none => none

/-! ### Term 2: compute -/

/-- DMA channels of a cluster in service. -/
def dmaIn (d : Dev) (k : Nat) : Nat := ((List.range 16).filter fun i => !(dmaOf d (16 * k + i)).out).length

/-- Bytes per second a tap digest unit carries: its streams, and its share of golden hashing (R113, R118). -/
def digestRate (d : Dev) (port : Nat) : Nat :=
  let taps := ((List.range 4).filter fun i => (portOf d i).role == .tap).length
  let cam := (d.streams.filter (·.2.port == port)).foldl
    (fun a e => a + canonLen (layer0Of e.2) * 1000000 / max 1 e.2.periodUs) 0
  let gold := d.sched.parts.foldl (fun a e => (goldenOf d e.1 0).foldl (fun a g =>
    a + (((g.1.weightDigests.find? (·.blob == g.2.1.inputBlob)).map (·.length)).getD 0) * 1000000 /
      (max 1 g.2.1.period * max 1 e.2.majorUs)) a) 0
  if (portOf d port).role == .tap then cam + gold / max 1 taps else 0

def term2 (d : Dev) : Option Shortfall :=
  let ps := partOrder d
  match ps.find? fun e => decide (serviceLen d e.1 e.2 > 10 * e.2.qUs) with
  | some e => some { code := 0x041, term := 2, condition := 1, partition := e.1,
                     amount := serviceLen d e.1 e.2 - 10 * e.2.qUs }
  | none =>
  match ps.find? fun e => (partKernels d e.1).any fun k => decide (k.cores > (coresOf d e.2).length) with
  | some e => some { code := 0x041, term := 2, condition := 2, partition := e.1,
                     amount := ((partKernels d e.1).foldl (fun a k => max a k.cores) 0) - (coresOf d e.2).length }
  | none =>
  match ps.find? fun e => decide (goldenLen d e.1 e.2 > 10 * e.2.majorUs) with
  | some e => some { code := 0x041, term := 2, condition := 3, partition := e.1,
                     unit := ((clustersOf e.2.mask).head?).getD 0xFF,
                     item := windowIndex (placeAll d) (((clustersOf e.2.mask).head?).getD 0xFF) e.1 .golden,
                     amount := goldenLen d e.1 e.2 - 10 * e.2.majorUs }
  | none =>
  let need (k : Nat) : Nat := ps.foldl (fun a e =>
    if (clustersOf e.2.mask).contains k then (partKernels d e.1).foldl (fun a q => max a q.dmaChannels) a else a) 0
  match (List.range 16).find? fun k => decide (dmaIn d k < need k) with
  | some k => some { code := 0x041, term := 2, condition := 4, unit := k, amount := need k - dmaIn d k }
  | none =>
  match (List.range 4).find? fun i => decide (digestRate d i > 8000000000) with
  | some i => some { code := 0x041, term := 2, condition := 5, unit := 0x90 + i,
                     amount := ceilDiv (digestRate d i - 8000000000) 1000000 }
  | none => none

/-! ### Term 3: windows -/

/-- A window that ends beyond its major frame, with its index in the finished table. -/
def beyondOf (pl : Placement) (s : Shortfall) : Shortfall :=
  { s with item := ((byStart (kget [] pl.windows s.unit)).findIdx? fun w => w.partition == s.partition && w.start == 100 * s.item).getD 0xFF }

/-- The SELFTEST time a cluster lacks, in 100 ns per major frame (R262, R502). -/
def selftestShort (d : Dev) (pl : Placement) (k : Nat) : Nat :=
  match d.sched.parts.find? fun e => (coresOf d e.2).any (· / 4 == k) with
  | none => 0
  | some e => selftestLen d e.2.majorUs -
      (((kget [] pl.windows k).filter (·.kind == .selftest)).foldl (fun a w => a + w.length / 100) 0)

def term3 (d : Dev) (pl : Placement) : Option Shortfall :=
  match pl.windows.find? fun e => decide (e.2.length > 64) with
  | some e => some { code := 0x045, term := 3, condition := 1, unit := e.1, amount := e.2.length - 64 }
  | none =>
  match pl.beyond.head? with
  | some s => some (beyondOf pl s)
  | none =>
  match (partOrder d).find? fun e => decide (10 * e.2.qUs + serviceLen d e.1 e.2 + 1000 > 15000) with
  | some e => some { code := 0x045, term := 3, condition := 3, partition := e.1,
                     amount := 10 * e.2.qUs + serviceLen d e.1 e.2 + 1000 - 15000 }
  | none => ((List.range 16).find? fun k => decide (selftestShort d pl k > 0)).map fun k =>
      { code := 0x045, term := 3, condition := 4, unit := k, amount := selftestShort d pl k }

/-! ### Term 4: HBM and mesh (R537) -/

/-- Tokens of one launch: reads one per line, writes one or four. A kernel that writes a tensor writes an EPHEMERAL region
(Table 11.2); weights and golden inputs are DURABLE. -/
def kernelTokens (k : Kernel) : Nat :=
  let durable := k.args.any fun a => decide (a.access ≥ 2) && (a.kind == 2 || a.kind == 3)
  ceilDiv k.hbmRead 64 + ceilDiv k.hbmWrite 64 * (if durable then 4 else 1)

/-- Tokens of one result; DEMANDS' HBM bytes govern when larger (R257). -/
def resultTokens (p : Plan) (t : Template) : Nat :=
  max ((resultKernels p t).foldl (fun b k => b + kernelTokens k) 0) (ceilDiv p.demands.hbmBytes 64)

/-- A sum over the golden entries of a partition, in thousandths per second: each entry once in its period of major frames. -/
def goldenRate (d : Dev) (p : Nat) (f : Kernel → Nat) : Nat :=
  match partOf? d p with
  | none => 0
  | some q => (goldenOf d p 0).foldl (fun a g =>
      a + ceilDiv ((((goldenKernel? g.1 g.2.1).map f).getD 0) * 1000000) (max 1 g.2.1.period * max 1 q.majorUs)) 0

/-- Tokens per second of a partition over all stops, its golden kernels among them. -/
def partTokens (d : Dev) (p : Nat) : Nat :=
  (ctxPlans d p).foldl (fun a e => a + ceilDiv (resultTokens e.2.1 e.2.2 * e.2.2.rate) 1000) 0 + goldenRate d p kernelTokens

/-- The largest demand of a partition in one service period: what `f` gives for a result's burst, and `g` for its golden kernels that
can fall due together. -/
def periodDemand (d : Dev) (p : Nat) (q : Partition) (f : Plan → Template → Nat) (g : Kernel → Nat) : Nat :=
  (ctxPlans d p).foldl (fun a e => a + burst e.2.2 q.qUs * f e.2.1 e.2.2) 0 +
    dueAtOnce d p q * ((goldenOf d p 0).foldl (fun a e => max a (((goldenKernel? e.1 e.2.1).map g).getD 0)) 0)

/-- Tokens of one service period of a partition. -/
def periodTokens (d : Dev) (p : Nat) (q : Partition) : Nat := periodDemand d p q resultTokens kernelTokens

/-- Challenge-queue entries of one result: a notice for each input, the challenges of a TILE check with the dependency tiles they list
(a CHALLENGE and its DEPENDENCY entries, R83), and a CANCEL. -/
def challengeEntries (p : Plan) (t : Template) : Nat :=
  t.inputCount + 1 + (checksOf p t).foldl (fun b c =>
    if c.kind = 2 then
      let runs := ((checkKernel? p c).map fun k => k.deps.foldl (fun a e => max a (e.2.filter fun r => r.layer != 0).length) 0).getD 0
      b + c.k * (1 + runs)
    else b) 0

/-- The ACCEPT records per second of the device itself, in a fabric; the mirror area takes those of the peer at the peer's rates
(R537), which no register of this device holds: an implementation value. -/
def acceptRate (d : Dev) : Nat :=
  if inFabric d then
    ((List.range 16).flatMap (ctxPlans d)).foldl (fun a e => a + ceilDiv e.2.2.rate 1000) 0 +
      (if hasMirror d then Config.peerLines d.fabric.device else 0)
  else 0

/-- Tokens per second of the device bucket: Fumarole, frame rings, evidence and challenge queues, golden reads, journal. -/
def deviceTokens (d : Dev) : Nat :=
  let scrub := ceilDiv (24 * 1073741824 * 129 / 128) (64 * max 1 d.memctl.passSec)
  let rings := d.streams.foldl (fun a e =>
    a + 4 * ceilDiv (canonLen (layer0Of e.2)) 64 * 1000000 / max 1 e.2.periodUs) 0
  let all := (List.range 16).flatMap (ctxPlans d)
  let evid := all.foldl (fun a e => a + ceilDiv (5 * ceilDiv (evidenceBytes e.2.1 e.2.2) 64 * e.2.2.rate) 1000) 0
  let chal := all.foldl (fun a e => a + ceilDiv (5 * challengeEntries e.2.1 e.2.2 * e.2.2.rate) 1000) 0
  let gold := d.sched.parts.foldl (fun a e => (goldenOf d e.1 0).foldl (fun a g =>
    a + ceilDiv (((g.1.weightDigests.find? (·.blob == g.2.1.inputBlob)).map (·.length)).getD 0) 64 * 1000000 /
      (max 1 g.2.1.period * max 1 e.2.majorUs)) a) 0
  let live := (d.contexts.filter fun e => e.2.state != .closed).length
  let journal := 4 * (10 * 4 * live + 10 + 4096 * (66 + 2)) + 4 * acceptRate d
  scrub + rings + evid + chal + gold + journal

/-- Lines per µs at one of the four stops. -/
def stopRate (tokens : Nat) : Nat := ceilDiv tokens 4000000

/-- C_H in MB/s. -/
def hbmCapMB (d : Dev) : Nat := min 204800 (256 * d.pace.f) * 4 / 5

/-- Mesh bytes per second of a partition, on whatever link: the whole mesh bytes field of each of its kernels (R537). -/
def meshBytes (d : Dev) (p : Nat) : Nat :=
  (ctxPlans d p).foldl (fun a e => a + ceilDiv ((resultKernels e.2.1 e.2.2).foldl (fun b k => b + k.mesh) 0 * e.2.2.rate) 1000) 0 +
    goldenRate d p (·.mesh)

/-- Mesh bytes of one service period of a partition. -/
def periodMesh (d : Dev) (p : Nat) (q : Partition) : Nat :=
  periodDemand d p q (fun a t => (resultKernels a t).foldl (fun b k => b + k.mesh) 0) (·.mesh)

/-- The member of a list with the largest value, the first of equals. -/
def argMax (l : List Nat) (f : Nat → Nat) : Option Nat :=
  l.foldl (fun a n => match a with
    | none => some n
    | some m => if f m < f n then some n else some m) none

def term4 (d : Dev) : Option Shortfall :=
  let ps := d.sched.parts.map (·.1)
  let dev := stopRate (deviceTokens d)
  let sum := dev + ps.foldl (fun a p => a + stopRate (partTokens d p)) 0
  if sum * 64 > hbmCapMB d then
    let top := (argMax ps fun p => stopRate (partTokens d p)).getD 0xFF
    let part := if dev ≥ stopRate (partTokens d top) ∨ top = 0xFF then 0xFF else top
    some { code := 0x042, term := 4, condition := 1, partition := part, unit := 0x20, amount := sum * 64 - hbmCapMB d }
  else
    let lim := 2304 * d.pace.f * 100000
    let tot := ps.foldl (fun a p => a + meshBytes d p) 0
    if tot > lim then
      some { code := 0x042, term := 4, condition := 2, partition := (argMax ps fun p => meshBytes d p).getD 0xFF, unit := 0x40,
             amount := ceilDiv (tot - lim) 1000000 }
    else none

/-! ### Terms 5 to 7 -/

/-- Counted link capacity in bytes per second (Table 10.10, R527). -/
def linkCap (d : Dev) : Nat :=
  match d.board.gen, d.board.width with
  | 5, 16 => 50000000000
  | 5, 8 => 25000000000
  | 4, 16 => 25000000000
  | 4, 8 => 12500000000
  | 3, 16 => 12300000000
  | 3, 8 => 6100000000
  | _, _ => 0

/-- Counted contexts of a subject slot with plan and template. -/
def slotPlans (d : Dev) (s : Nat) : List (Context × Plan × Template) :=
  ((List.range 16).flatMap (ctxPlans d)).filter (·.1.slot == s)

def slotRate (d : Dev) (s : Nat) : Nat :=
  (slotPlans d s).foldl (fun a e => a + ceilDiv (e.2.2.rate * evidenceBytes e.2.1 e.2.2) 1000) 0
def slotDepth (d : Dev) (s : Nat) : Nat :=
  (slotPlans d s).foldl (fun a e => a + burst e.2.2 0 * evidenceBytes e.2.1 e.2.2) 0

def term5 (d : Dev) : Option Shortfall :=
  let sum := slotRate d 0 + slotRate d 1
  if sum > linkCap d then
    some { code := 0x043, term := 5, condition := 1, amount := ceilDiv (sum - linkCap d) 1000000 }
  else none

def term6 (d : Dev) : Option Shortfall :=
  let all := (List.range 16).flatMap (ctxPlans d)
  let rate := all.foldl (fun a e => a + e.2.2.rate) 0
  let ops := all.foldl (fun a e => a + burst e.2.2 0 * (resultKernels e.2.1 e.2.2).length) 0
  if rate > 48000000 then
    some { code := 0x046, term := 6, condition := 1, amount := ceilDiv (rate - 48000000) 1000 }
  else if ops > 65536 then some { code := 0x046, term := 6, condition := 2, amount := ops - 65536 }
  else none

/-- Mirror traffic in bytes per second: one ACCEPT of 64 bytes per declared result, CONTEXT and CHECKPOINT records, command
records at the intake limit. -/
def mirrorRate (d : Dev) : Nat :=
  let all := (List.range 16).flatMap (ctxPlans d)
  all.foldl (fun a e => a + ceilDiv (64 * e.2.2.rate) 1000) 0 +
    10 * 256 * (d.contexts.filter fun e => e.2.state != .closed).length + 640 + 4096 * 68 * 64

/-- The live records of the journal in bytes, with the CONTEXT record of every context of the set. -/
def journalBytes (d : Dev) : Nat :=
  d.fabric.journal.foldl (fun a r => a + journalRoom (journalPayload r.body).2.length)
    (256 * (countedCtx d).length)

/-- Term 7: the mirror traffic on a FABRIC port, and the journal within the 64 MiB that the peer keeps for it (R471). -/
def term7 (d : Dev) : Option Shortfall :=
  if !hasMirror d then none
  else if mirrorRate d > 2000000000 then
    some { code := 0x047, term := 7, condition := 1,
           unit := 0x90 + ((List.range 4).find? fun i => d.fabric.ports.testBit i).getD 0,
           amount := ceilDiv (mirrorRate d - 2000000000) 1000000 }
  else if journalBytes d > 67108864 then
    some { code := 0x047, term := 7, condition := 2, amount := ceilDiv (journalBytes d - 67108864) 1048576 }
  else none

/-! ### The whole (R258) -/

/-- The longest service period of the set in µs. The device bucket serves no partition, so that the manual names no service period for
it: DESIGN CHOICE, the longest (notes/assumptions/49.md). -/
def longestPeriod (d : Dev) : Nat := d.sched.parts.foldl (fun a e => max a e.2.qUs) 0

/-- The bucket rates and depths of the set (R249, R265). HBM traffic spreads evenly over the four stops; a partition's mesh requests
enter at the stops of its clusters. -/
def configOf (d : Dev) (pl : Placement) : AdmitConfig :=
  let parts := d.sched.parts
  let hbm := (List.range 4).flatMap fun s =>
    parts.map (fun e => (32 * s + e.1,
      (stopRate (partTokens d e.1), max 64 (ceilDiv (periodTokens d e.1 e.2) 4)))) ++
    [(32 * s + 16, (stopRate (deviceTokens d), max 64 (stopRate (deviceTokens d) * longestPeriod d)))]
  let mesh := parts.flatMap fun e => (clustersOf e.2.mask).map fun k =>
    (32 * (4 + k) + e.1, (ceilDiv (meshBytes d e.1) 64000000, max 64 (ceilDiv (periodMesh d e.1 e.2) 64)))
  { windows := kmapv (fun _ ws => byStart ws) pl.windows
    hbm := hbm.foldl (fun m e => kput m e.1 e.2) []
    mesh := mesh.foldl (fun m e => kput m e.1 e.2) []
    scratch := (List.range 16).flatMap fun k => (parts.filter fun e => (clustersOf e.2.mask).contains k).map fun e =>
      (k, e.1, partScratch d e.1)
    ingress := [(slotRate d 0, slotDepth d 0), (slotRate d 1, slotDepth d 1)] }

/-- Admission of the set that `d` holds: the first failing term, or the configuration to commit (Table 10.8). -/
def runAdmission (d : Dev) : Except Shortfall AdmitConfig :=
  match term1 d with
  | some s => .error s
  | none => match term2 d with
    | some s => .error s
    | none =>
      let pl := placeAll d
      match term3 d pl with
      | some s => .error s
      | none => match term4 d with
        | some s => .error s
        | none => match term5 d with
          | some s => .error s
          | none => match term6 d with
            | some s => .error s
            | none => match term7 d with
              | some s => .error s
              | none => .ok (configOf d pl)

/-- Terms 1 and 6 only, for a context admitted SUSPENDED at a takeover (R477). -/
def admitSuspended (d : Dev) : Bool := (term1 d).isNone && (term6 d).isNone

/-! ### Commits (R249, R265, R329) -/

/-- A partition's bucket registers differ from a configuration's. -/
def bucketsDiffer (p : Nat) (cfg : KMap (Nat × Nat)) (m : KMap Bucket) : Bool :=
  cfg.any fun e => e.1 % 32 == p && ((kget {} m e.1).rate, (kget {} m e.1).depth) != e.2

/-- Partitions whose windows, buckets or contexts differ between the frame tables in force and a new configuration. -/
def concerned (d : Dev) (c : AdmitConfig) (named : List Nat) : List Nat :=
  (d.sched.parts.map (·.1)).filter fun p => named.contains p || bucketsDiffer p c.hbm d.sched.hbm ||
    bucketsDiffer p c.mesh d.sched.mesh || (List.range 16).any fun k =>
      ((kget [] d.sched.tables k).filter (·.partition == p)) != ((kget [] c.windows k).filter (·.partition == p))

/-- The commits of a configuration: each partition concerned at its own boundary, the device buckets at the latest, at
acceptance plus 1 ms when no partition is concerned (R329). -/
def commitsFor (d : Dev) (from_ : Time) (c : AdmitConfig) (ps : List Nat) : List PendingCommit :=
  let own := ps.filterMap fun p => (partOf? d p).map fun q =>
    { partition := some p, due := nextBoundary q (from_ + ms 1), config := c : PendingCommit }
  own ++ [{ partition := none, due := own.foldl (fun a x => max a x.due) (from_ + ms 1), config := c }]

/-- The commit boundary: the latest due instant. -/
def boundaryOf (l : List PendingCommit) : Time := l.foldl (fun a x => max a x.due) 0

/-- Commits join those that wait; one of the same part at the same instant gives way to the newer. -/
def queueCommits (l : List PendingCommit) (d : Dev) : Dev :=
  modSched (fun s => { s with
    commits := (s.commits.filter fun x => !l.any fun y => y.partition == x.partition && y.due == x.due) ++ l }) d

/-- A bucket after a commit: the new rate applies from now; added depth comes as tokens, a smaller depth caps the level,
a new bucket starts full. Levels count 2^-32 · lines; the level is first refilled to now. -/
def refill (now : Time) (b : Bucket) : Bucket :=
  { b with level := min (4294967296 * b.depth) (b.level + b.rate * (now - b.at_) / 1000), at_ := now }
def setBucket (now : Time) (rate depth : Nat) (b : Bucket) : Bucket :=
  if b.made then
    let b := refill now b
    { b with rate := rate, depth := depth,
             level := if depth ≥ b.depth then b.level + 4294967296 * (depth - b.depth) else min b.level (4294967296 * depth) }
  else { rate := rate, depth := depth, level := 4294967296 * depth, at_ := now, made := true }

/-- The buckets of one number (a partition, or 16 for the device) take a configuration's rates. -/
def setBuckets (now : Time) (bucket : Nat) (cfg : KMap (Nat × Nat)) (m : KMap Bucket) : KMap Bucket :=
  (cfg.filter fun e => e.1 % 32 == bucket).foldl (fun m e => kmod {} m e.1 (setBucket now e.2.1 e.2.2)) m

/-- A subject slot's ingress bucket at a commit (R265); the level counts 2^-32 ns · bytes per second. -/
def setIngress (now : Time) (rate depth : Nat) (s : Slot) : Slot :=
  let unit := sec 1
  if s.ingressSet then
    let level := min (s.ingressDepth * unit) (s.ingressLevel + s.ingressRate * (now - s.ingressAt))
    { s with ingressRate := rate, ingressDepth := depth, ingressAt := now,
             ingressLevel := if depth ≥ s.ingressDepth then level + (depth - s.ingressDepth) * unit
                             else min level (depth * unit) }
  else { s with ingressRate := rate, ingressDepth := depth, ingressAt := now, ingressLevel := depth * unit,
                ingressSet := true }

/-- A partition's part of a configuration is installed: its windows in every cluster (with the cluster's SELFTEST window),
its buckets; its admission is no longer withdrawn (R267). -/
def installPart (p : Nat) (c : AdmitConfig) (d : Dev) : Dev :=
  let mix (k : Nat) : List Window :=
    let new := (kget [] c.windows k).filter (·.partition == p)
    let test := (kget [] c.windows k).filter (·.partition == 0xFF)
    byStart (((kget [] d.sched.tables k).filter fun w => w.partition != p && (w.partition != 0xFF || new.isEmpty)) ++ new ++
      (if new.isEmpty then [] else test))
  modSched (fun s => { s with
    tables := (List.range 16).foldl (fun m k => kput m k (mix k)) s.tables
    hbm := setBuckets d.geyser.now p c.hbm s.hbm
    mesh := setBuckets d.geyser.now p c.mesh s.mesh
    withdrawn := s.withdrawn.filter (· != p) }) d

/-- The device's part: device buckets and ingress buckets. -/
def installDevice (c : AdmitConfig) (d : Dev) : Dev :=
  let d := modSched (fun s => { s with hbm := setBuckets d.geyser.now 16 c.hbm s.hbm }) d
  [0, 1].foldl (fun d i =>
    let r := (c.ingress[i]?).getD (0, 0)
    modSlot i (setIngress d.geyser.now r.1 r.2) d) d

/-- A plan's golden entries are activated with the partition's commit: its major frame 0 is the frame that begins now
(R117). -/
def activateGolden (p : Nat) (d : Dev) : Dev :=
  match partOf? d p with
  | none => d
  | some q => modPlans (fun x => { x with loaded := x.loaded.map fun l =>
      if (kfind? l.start p).isNone && decide (d.geyser.now ≥ l.since) && l.plan.golden.any (·.partition == p) then
        { l with start := kput l.start p (frameNo q d.geyser.now) } else l }) d

/-- The shared SRAM scratch of a configuration, of the partitions that meet a condition (R243). -/
def installScratch (c : AdmitConfig) (f : Nat → Bool) (d : Dev) : Dev :=
  c.scratch.foldl (fun d e => if f e.2.1 then allocateSram e.1 e.2.1 e.2.2 d else d) d

/-- One pending commit takes effect. -/
def applyCommit (c : PendingCommit) (d : Dev) : Dev :=
  match c.partition with
  | some p => activateGolden p (installScratch c.config (· == p) (installPart p c.config d))
  | none => installDevice c.config d

end Sys2Proof.Machine
end

