-- ==== Sys2Proof/Machine/Numeric.lean ====
section
/-! DEFINITION. Exact arithmetic on the formats of Table 7.1, the tolerance envelope (R45 to R48), the plausibility relations
(R49, R50, R539), and the fp32 operations of the vector unit (R190 to R192). A finite value is a sign, a natural mantissa and
a power of two, so that no comparison rounds. -/

namespace Sys2Proof.Machine

open Sys2Proof

/-- A dyadic rational m · 2^e. -/
structure Dy where
  m : Int
  e : Int
  deriving DecidableEq, Repr

/-- Both mantissas over the smaller exponent. -/
def Dy.align (a b : Dy) : Int × Int × Int :=
  let e := min a.e b.e
  (a.m * 2 ^ (a.e - e).toNat, b.m * 2 ^ (b.e - e).toNat, e)

def Dy.add (a b : Dy) : Dy := let (x, y, e) := a.align b; { m := x + y, e := e }
def Dy.neg (a : Dy) : Dy := { a with m := -a.m }
def Dy.sub (a b : Dy) : Dy := a.add b.neg
def Dy.mul (a b : Dy) : Dy := { m := a.m * b.m, e := a.e + b.e }
def Dy.abs (a : Dy) : Dy := { a with m := a.m.natAbs }
def Dy.le (a b : Dy) : Bool := let (x, y, _) := a.align b; decide (x ≤ y)
def Dy.lt (a b : Dy) : Bool := let (x, y, _) := a.align b; decide (x < y)
def Dy.max (a b : Dy) : Dy := if a.le b then b else a
def Dy.min (a b : Dy) : Dy := if a.le b then a else b
def Dy.ofNat (n : Nat) : Dy := { m := n, e := 0 }

/-- The dyadic of a finite value. -/
def Val.dy? : Val → Option Dy
  | .fin s m e => some { m := if s then -(m : Int) else m, e := e }
  | _ => none

/-! ### Formats (Table 7.1) -/

/-- A floating format: exponent bits, fraction bits, bias, and whether it is OFP8 E4M3 (no infinity). -/
structure FloatFmt where
  eb : Nat
  fb : Nat
  bias : Nat
  e4m3 : Bool := false
  deriving DecidableEq, Repr

def fmtE4M3 : FloatFmt := { eb := 4, fb := 3, bias := 7, e4m3 := true }
def fmtE5M2 : FloatFmt := { eb := 5, fb := 2, bias := 15 }
def fmtBf16 : FloatFmt := { eb := 8, fb := 7, bias := 127 }
def fmtFp16 : FloatFmt := { eb := 5, fb := 10, bias := 15 }
def fmtFp32 : FloatFmt := { eb := 8, fb := 23, bias := 127 }
def fmtFp64 : FloatFmt := { eb := 11, fb := 52, bias := 1023 }
/-- The elements of MXFP4. -/
def fmtE2M1 : FloatFmt := { eb := 2, fb := 1, bias := 1 }

/-- The floating format of a code. -/
def floatFmt? (f : Byte) : Option FloatFmt :=
  match f.toNat with
  | 0x04 => some fmtE4M3
  | 0x05 => some fmtE5M2
  | 0x08 => some fmtBf16
  | 0x09 => some fmtFp16
  | 0x0A => some fmtFp32
  | _ => none

/-- The value of a floating bit pattern; subnormals are kept (R155). -/
def floatVal (f : FloatFmt) (w : Nat) : Val :=
  let s : Bool := w / 2 ^ (f.eb + f.fb) % 2 == 1
  let x := w / 2 ^ f.fb % 2 ^ f.eb
  let t := w % 2 ^ f.fb
  if f.e4m3 && x == 15 && t == 7 then .nan
  else if !f.e4m3 && f.fb != 1 && x == 2 ^ f.eb - 1 then (if t = 0 then .inf s else .nan)
  else if x = 0 then .fin s t (1 - (f.bias : Int) - f.fb)
  else .fin s (2 ^ f.fb + t) ((x : Int) - f.bias - f.fb)

/-- Two's complement of `n` bits. -/
def signedOf (n w : Nat) : Int :=
  let w := w % 2 ^ n
  if w ≥ 2 ^ (n - 1) then (w : Int) - 2 ^ n else w

def intVal (i : Int) : Val := .fin (decide (i < 0)) i.natAbs 0

/-- A value scaled by an E8M0 scale; scale 0xFF is NaN. -/
def scaled (scale : Nat) (v : Val) : Val :=
  if scale = 255 then .nan
  else match v with
    | .fin s m e => .fin s m (e + scale - 127)
    | v => v

/-- The value of an element of a format. An MX element stands with its scale in bits 15 to 8. -/
def elemVal (f : Byte) (w : W32) : Val :=
  let n := w.toNat
  match f.toNat with
  | 0x01 => intVal (signedOf 8 n)
  | 0x02 => intVal (n % 256)
  | 0x03 => intVal (signedOf 4 n)
  | 0x06 => scaled (n / 256 % 256) (floatVal fmtE2M1 (n % 16))
  | 0x07 =>
    let i := signedOf 8 n
    scaled (n / 256 % 256) (.fin (decide (i < 0)) i.natAbs (-6))
  | 0x0B => intVal (signedOf 32 n)
  | 0x0C => intVal (n % 65536)
  | _ => match floatFmt? f with
    | some x => floatVal x n
    | none => .nan

/-- The fp32 value of a plan parameter. -/
def fp32Val (w : W32) : Val := floatVal fmtFp32 w.toNat
/-- A finite fp32 value as a dyadic; 0 for one that is not finite, which no caller reads. -/
def fp32Dy (w : W32) : Dy := ((fp32Val w).dy?).getD (Dy.ofNat 0)

/-! ### Sums, products and order of exact values (R190) -/

def valOfDy (zeroNeg : Bool) (d : Dy) : Val :=
  if d.m = 0 then .fin zeroNeg 0 0 else .fin (decide (d.m < 0)) d.m.natAbs d.e

def Val.neg : Val → Val
  | .fin s m e => .fin (!s) m e
  | .inf s => .inf (!s)
  | .nan => .nan

/-- The exact sum; a zero sum of unlike signs is +0. -/
def Val.add (a b : Val) : Val :=
  match a, b with
  | .nan, _ => .nan
  | _, .nan => .nan
  | .inf s, .inf t => if s = t then .inf s else .nan
  | .inf s, _ => .inf s
  | _, .inf t => .inf t
  | .fin s m e, .fin t n f =>
    valOfDy (s && t) (({ m := if s then -(m : Int) else m, e := e } : Dy).add { m := if t then -(n : Int) else n, e := f })

/-- The exact product. -/
def Val.mul (a b : Val) : Val :=
  match a, b with
  | .nan, _ => .nan
  | _, .nan => .nan
  | .inf s, .inf t => .inf (s != t)
  | .inf s, .fin t m _ => if m = 0 then .nan else .inf (s != t)
  | .fin s m _, .inf t => if m = 0 then .nan else .inf (s != t)
  | .fin s m e, .fin t n f => .fin (s != t) (m * n) (e + f)

/-- a < b and a = b; a NaN compares false. -/
def Val.ltB (a b : Val) : Bool :=
  match a, b with
  | .nan, _ => false
  | _, .nan => false
  | .inf s, .inf t => s && !t
  | .inf s, _ => s
  | _, .inf t => !t
  | _, _ => match a.dy?, b.dy? with
    | some x, some y => x.lt y
    | _, _ => false
def Val.eqB (a b : Val) : Bool :=
  match a, b with
  | .nan, _ => false
  | _, .nan => false
  | .inf s, .inf t => s == t
  | .inf _, _ => false
  | _, .inf _ => false
  | _, _ => match a.dy?, b.dy? with
    | some x, some y => x.le y && y.le x
    | _, _ => false

def Val.leB (a b : Val) : Bool := a.ltB b || a.eqB b

/-- A product that the reals do not give: of an infinity and zero. -/
def timesOpen : Val → Val → Bool
  | .inf _, .fin _ m _ => m == 0
  | .fin _ m _, .inf _ => m == 0
  | _, _ => false

/-- x ≤ a + Σ of products; where a product is open the manual says nothing. -/
def withinSum (x a : Val) (prods : List (Val × Val)) : Bool :=
  if prods.any (fun e => timesOpen e.1 e.2) then Config.zeroTimesInfinity
  else x.leB (prods.foldl (fun b e => b.add (e.1.mul e.2)) a)

/-- a · x ≤ y, with a parameter `a` of any fp32 value. -/
def timesLe (a x y : Val) : Bool := if timesOpen a x then Config.zeroTimesInfinity else (a.mul x).leB y

/-! ### Elements of a tile (Table 3.1) -/

/-- Nibbles of a byte string, low nibble first. -/
def nibbles (l : List Byte) : List W32 :=
  l.flatMap fun b => [BitVec.ofNat 32 (b.toNat % 16), BitVec.ofNat 32 (b.toNat / 16)]

/-- Groups of `n` bytes as words, by at most `fuel` groups. -/
def groupsOf (n : Nat) : Nat → List Byte → List W32
  | 0, _ => []
  | fuel + 1, l => if l.isEmpty then [] else BitVec.ofNat 32 (leNat (l.take n)) :: groupsOf n fuel (l.drop n)

/-- MX blocks: a scale byte, then 32 elements in `n` bytes. -/
def mxElems (n : Nat) (four : Bool) : Nat → List Byte → List W32
  | 0, _ => []
  | fuel + 1, l =>
    match l with
    | [] => []
    | s :: r =>
      let es := if four then nibbles (r.take n) else groupsOf 1 32 (r.take n)
      (es.map fun e => e ||| BitVec.ofNat 32 (s.toNat * 256)) ++ mxElems n four fuel (r.drop n)

/-- The elements of `b`, canonical bytes of one tile. -/
def tileElems (f : Byte) (b : List Byte) : List W32 :=
  match f.toNat with
  | 0x01 | 0x02 | 0x04 | 0x05 => groupsOf 1 b.length b
  | 0x03 => nibbles b
  | 0x08 | 0x09 | 0x0C => groupsOf 2 b.length b
  | 0x0A | 0x0B => groupsOf 4 b.length b
  | 0x06 => mxElems 16 true 240 b
  | 0x07 => mxElems 32 false 124 b
  | _ => []

/-- Elements of tile `i` of a tensor of `n` elements. -/
def tileCount (f : Byte) (n i : Nat) : Nat :=
  let p := elemsPerTile f
  min p (n - i * p)

/-- The elements of tile `i` of a tensor, as delivered. -/
def elemsOfTile (t : TensorDesc) (i : Nat) (tile : List Byte) : List W32 :=
  (tileElems t.format tile).take (tileCount t.format (elemCount t) i)

/-! ### The tolerance envelope (R45 to R48) -/

/-- Where an element lies. -/
inductive Judged where
  | inside | outside | nonfinite
  deriving DecidableEq, Repr

/-- |s − r| ≤ e_a + e_r·|r| + e_s·S, on exact values; in integer mode e_r and e_s are zero (Table 2.9). A zero e_s leaves the
magnitude out; the parameters may be infinite. -/
def judge (env : Envelope) (s : Val) (r : Val) (mag : Val) : Judged :=
  match r, s with
  | .nan, .nan => .inside
  | .nan, _ => .nonfinite
  | .inf a, .inf b => if a = b then .inside else .nonfinite
  | .inf _, _ => .nonfinite
  | .fin .., .nan => .nonfinite
  | .fin .., .inf _ => .nonfinite
  | .fin _ rm re, .fin .. =>
    let diff : Val := match s.add r.neg with
      | .fin _ m e => .fin false m e
      | v => v
    let es := fp32Val env.es
    let prods := if env.mode = 1 then []
      else (fp32Val env.er, Val.fin false rm re) :: (if es.eqB (.fin false 0 0) then [] else [(es, mag)])
    if withinSum diff (fp32Val env.ea) prods then .inside else .outside

/-- The judgement of a whole list of elements: whether one lies outside, and whether one sets NONFINITE (R46). -/
def judgeAll (env : Envelope) (f : Byte) : List W32 → List RefElem → Bool × Bool
  | [], _ => (false, false)
  | s :: l, refs =>
    let r := refs.head?.getD { bits := 0 }
    let (o, n) := judgeAll env f l refs.tail
    match judge env (elemVal f s) (elemVal f r.bits) (floatVal fmtFp64 r.mag.toNat) with
    | .inside => (o, n)
    | .outside => (true, n)
    | .nonfinite => (true, true)

/-! ### Plausibility relations (R50, R539) -/

/-- Where a subject class goes in a class map; without a map, to itself. -/
def mapClass (p : Plan) (r : Relation) (c : Nat) : Option Nat :=
  if r.classMap = 0xFFFFFFFF then some c
  else match p.classMaps.find? (·.1 == r.classMap.toNat) with
    | none => none
    | some m => (m.2.find? (·.1 == c)).bind fun e => if e.2 = 0xFFFF then none else some e.2

def isFin (w : W32) : Bool := ((fp32Val w).dy?).isSome

/-- A box with exact corners. -/
structure Box where
  x0 : Dy
  y0 : Dy
  x1 : Dy
  y1 : Dy
  deriving DecidableEq, Repr

def boxOf (d : Detection) : Box := { x0 := fp32Dy d.x0, y0 := fp32Dy d.y0, x1 := fp32Dy d.x1, y1 := fp32Dy d.y1 }

def Box.area (b : Box) : Dy :=
  ((Dy.ofNat 0).max (b.x1.sub b.x0)).mul ((Dy.ofNat 0).max (b.y1.sub b.y0))

/-- Intersection and union areas. -/
def interUnion (a b : Box) : Dy × Dy :=
  let i := Box.area { x0 := a.x0.max b.x0, y0 := a.y0.max b.y0, x1 := a.x1.min b.x1, y1 := a.y1.min b.y1 }
  let i := if a.area.m = 0 ∨ b.area.m = 0 then Dy.ofNat 0 else i
  (i, (a.area.add b.area).sub i)

/-- A candidate pair: subject index, sentinel index, intersection, union (1 where the union is empty). -/
structure Cand where
  i : Nat
  j : Nat
  inter : Dy
  union : Dy
  deriving DecidableEq, Repr

/-- A larger IoU, by cross products. -/
def Cand.better (a b : Cand) : Bool := (b.inter.mul a.union).lt (a.inter.mul b.union)

/-- Insertion behind everything at least as good, so equal IoUs keep their order. -/
def insertCand (c : Cand) : List Cand → List Cand
  | [] => [c]
  | x :: l => if c.better x then c :: x :: l else x :: insertCand c l

/-- Greedy one-to-one matching: the matched subject and sentinel indices. -/
def greedy : List Cand → List Nat → List Nat → List Nat × List Nat
  | [], si, nj => (si, nj)
  | c :: l, si, nj => if si.contains c.i || nj.contains c.j then greedy l si nj else greedy l (c.i :: si) (c.j :: nj)

def paramAt (r : Relation) (i : Nat) : W32 := (r.p[i]?).getD 0

def detectionsFinite (d : List Detection) : Bool :=
  d.all fun x => isFin x.x0 && isFin x.y0 && isFin x.x1 && isFin x.y1 && isFin x.conf

/-- DETECTION_OVERLAP. -/
def detectionOverlap (p : Plan) (r : Relation) (s n : List Detection) : Bool :=
  if !(detectionsFinite s && detectionsFinite n) then false
  else
    let theta := fp32Val (paramAt r 0)
    let cands := (indexed s).flatMap fun a => (indexed n).filterMap fun b =>
      let (i, u) := interUnion (boxOf a.2) (boxOf b.2)
      let (i, u) := if u.m = 0 then (Dy.ofNat 0, Dy.ofNat 1) else (i, u)
      if mapClass p r a.2.cls = some b.2.cls ∧ timesLe theta (valOfDy false u) (valOfDy false i) = true then
        some ({ i := a.1, j := b.1, inter := i, union := u } : Cand) else none
    let (si, nj) := greedy (cands.foldl (fun l c => insertCand c l) []) [] []
    let floor := fp32Val (paramAt r 3)
    let large (x : Detection) : Bool := floor.leB (valOfDy false (boxOf x).area)
    let us := (indexed s).filter fun a => !si.contains a.1 && (fp32Val (paramAt r 1)).leB (fp32Val a.2.conf) && large a.2
    let un := (indexed n).filter fun b => !nj.contains b.1 && (fp32Val (paramAt r 2)).leB (fp32Val b.2.conf) && large b.2
    decide (us.length ≤ (paramAt r 4).toNat) && decide (un.length ≤ (paramAt r 5).toNat)

/-- Class indices by descending confidence, equal confidences by increasing index. -/
def rankClasses (c : List W32) : List Nat :=
  let ins (e : Nat × W32) (l : List (Nat × W32)) : List (Nat × W32) :=
    let before := l.takeWhile fun x => (fp32Dy e.2).le (fp32Dy x.2)
    before ++ e :: l.drop before.length
  (((indexed c).foldl (fun l e => ins e l) []).map (·.1))

/-- CLASS_AGREE. -/
def classAgree (p : Plan) (r : Relation) (s n : List W32) : Bool :=
  if !(s.all isFin && n.all isFin) then false
  else
    let rn := rankClasses n
    let top := (rn.head?.bind fun i => n[i]?).getD 0
    if (fp32Val top).ltB (fp32Val (paramAt r 1)) then true
    else match (rankClasses s).head? with
      | none => false
      | some c => match mapClass p r c with
        | none => false
        | some m => (rn.take (paramAt r 0).toNat).contains m

/-- SEG_AGREE on a subject map and a sentinel grid. -/
def segAgree (p : Plan) (r : Relation) (hs ws : Nat) (s : List Nat) (hn wn : Nat) (n : List Nat) : Bool :=
  let cells := (List.range hn).flatMap fun i => (List.range wn).map fun j =>
    let a := (2 * i + 1) * hs / (2 * hn)
    let b := (2 * j + 1) * ws / (2 * wn)
    ((s[a * ws + b]?).bind (mapClass p r), (n[i * wn + j]?).getD 0xFFFF)
  let agree := (cells.filter fun c => c.1 == some c.2).length
  let overall := timesLe (fp32Val (paramAt r 0)) (intVal cells.length) (intVal agree)
  let covered := (List.range 32).all fun k =>
    if (paramAt r 2).getLsbD k then
      let mine := cells.filter fun c => c.2 == k
      let hit := (mine.filter fun c => c.1 == some k).length
      mine.isEmpty || timesLe (fp32Val (paramAt r 1)) (intVal mine.length) (intVal hit)
    else true
  overall && covered

/-- One element of REGRESSION_BAND lies inside. -/
def inBand (r : Relation) (s n : Val) : Bool :=
  match n, s with
  | .nan, .nan => true
  | .inf a, .inf b => a == b
  | .fin _ nm ne, .fin .. =>
    match s.add n.neg with
    | .fin _ m e => withinSum (.fin false m e) (fp32Val (paramAt r 0)) [(fp32Val (paramAt r 1), .fin false nm ne)]
    | _ => false
  | _, _ => false

/-- REGRESSION_BAND. -/
def regressionBand (r : Relation) (fs : Byte) (s : List W32) (fn : Byte) (n : List W32) : Bool :=
  let out := ((s.zip n).filter fun e => !inBand r (elemVal fs e.1) (elemVal fn e.2)).length
  withinSum (intVal out) (intVal 0) [(fp32Val (paramAt r 2), intVal n.length)]

/-- Every element of a delivered tensor, tile by tile. -/
def tensorElems (t : TensorDesc) (x : TensorTiles) : List W32 :=
  x.tiles.flatMap fun e => elemsOfTile t e.1 e.2

/-- An output as a relation reads it, from its canonical bytes: its values in linear index for REGRESSION_BAND, the plan's
layout otherwise. -/
def outputView (kind idx : Nat) (t : TensorDesc) (tiles : KMap (List Byte)) : OutputView :=
  if kind = 4 then .values t.format (tiles.flatMap fun e => elemsOfTile t e.1 e.2)
  else Config.viewOf idx t (((tiles.map (·.2)).flatten).take (canonLen t))

/-- A relation holds between a subject output and a sentinel output; an output that is not of the relation's kind breaks
it. A class score that is not finite breaks SEG_AGREE too. -/
def relationHolds (p : Plan) (r : Relation) (s n : OutputView) : Bool :=
  match r.kind, s, n with
  | 1, .detections a, .detections b => detectionOverlap p r a b
  | 2, .classes a, .classes b => classAgree p r a b
  | 3, .grid hs ws a sa, .grid hn wn b sb => (sa ++ sb).all isFin && segAgree p r hs ws a hn wn b
  | 4, .values fs a, .values fn b => regressionBand r fs a fn b
  | _, _, _ => false

/-! ### Rounding -/

/-- m · 2^e as an integer, rounded to nearest, ties to even. -/
def roundInt (m : Nat) (e : Int) : Nat :=
  if e ≥ 0 then m * 2 ^ e.toNat
  else
    let d := 2 ^ (-e).toNat
    let q := m / d
    let r := m % d
    if 2 * r > d ∨ (2 * r = d ∧ q % 2 = 1) then q + 1 else q

/-- m · 2^e as an integer, rounded up. -/
def roundUp (m : Nat) (e : Int) : Nat :=
  if e ≥ 0 then m * 2 ^ e.toNat else (m + 2 ^ (-e).toNat - 1) / 2 ^ (-e).toNat

/-- The encoding, without its sign, of m · 2^e rounded into a format; it may pass the largest finite encoding. -/
def encodeMag (round : Nat → Int → Nat) (f : FloatFmt) (m : Nat) (e : Int) : Nat :=
  if m = 0 then 0
  else
    let low : Int := 1 - (f.bias : Int) - f.fb
    let q := max (((Nat.log2 m : Nat) : Int) + e - f.fb) low
    (q - low).toNat * 2 ^ f.fb + round m (e - q)

/-- The largest finite encoding. -/
def maxEnc (f : FloatFmt) : Nat := if f.e4m3 then 0x7E else (2 ^ f.eb - 1) * 2 ^ f.fb - 1
/-- The encodings of infinity and of the canonical NaN (R164). -/
def infEnc (f : FloatFmt) : Nat := if f.e4m3 then 0x7F else (2 ^ f.eb - 1) * 2 ^ f.fb
def nanEnc (f : FloatFmt) : Nat := if f.e4m3 then 0x7F else (2 ^ f.eb - 1) * 2 ^ f.fb + 2 ^ (f.fb - 1)
def signBit (f : FloatFmt) (s : Bool) : Nat := if s then 2 ^ (f.eb + f.fb) else 0

/-- A value as fp32 under IEEE 754: overflow after rounding gives infinity (R190). -/
def toFp32 : Val → W32
  | .nan => 0x7FC00000
  | .inf s => BitVec.ofNat 32 (signBit fmtFp32 s + infEnc fmtFp32)
  | .fin s m e => BitVec.ofNat 32 (signBit fmtFp32 s + min (encodeMag roundInt fmtFp32 m e) (infEnc fmtFp32))

/-! ### IEEE 754 division and square root (R190) -/

/-- A correctly rounded fp32 quotient: 60 more bits than the format, with a sticky bit for the remainder. -/
def fdiv (a b : W32) : W32 :=
  match fp32Val a, fp32Val b with
  | .nan, _ => toFp32 .nan
  | _, .nan => toFp32 .nan
  | .inf _, .inf _ => toFp32 .nan
  | .inf s, .fin t _ _ => toFp32 (.inf (s != t))
  | .fin s _ _, .inf t => toFp32 (.fin (s != t) 0 0)
  | .fin s m e, .fin t n f =>
    if n = 0 then (if m = 0 then toFp32 .nan else toFp32 (.inf (s != t)))
    else
      let q := m * 2 ^ 320 / n
      let sticky := if m * 2 ^ 320 % n = 0 then 0 else 1
      toFp32 (.fin (s != t) (2 * q + sticky) (e - f - 321))

/-- The integer square root, bit by bit from bit `n`. -/
def sqrtNat : Nat → Nat → Nat → Nat
  | 0, _, r => r
  | n + 1, x, r =>
    let t := r + 2 ^ n
    sqrtNat n x (if t * t ≤ x then t else r)

/-- A correctly rounded fp32 square root. -/
def fsqrt (a : W32) : W32 :=
  match fp32Val a with
  | .nan => toFp32 .nan
  | .inf s => if s then toFp32 .nan else toFp32 (.inf false)
  | .fin s m e =>
    if m = 0 then toFp32 (.fin s 0 0)
    else if s then toFp32 .nan
    else
      let (m, e) := if e % 2 = 0 then (m, e) else (2 * m, e - 1)
      let x := m * 2 ^ 80
      let q := sqrtNat 60 x 0
      let sticky := if q * q = x then 0 else 1
      toFp32 (.fin false (2 * q + sticky) (e / 2 - 41))

/-! ### Vector operations on one lane (R190, R191) -/

def boolWord (b : Bool) : W32 := if b then 1 else 0

/-- v · m / 2^h to nearest even, plus z, clamped to int8 or uint8 (R191). -/
def requantize (v m : W32) (h : Nat) (z : W32) (signed : Bool) : W32 :=
  let x := v.toInt * m.toInt
  let q := roundInt x.natAbs (-((h % 64 : Nat) : Int))
  let q : Int := (if x < 0 then -(q : Int) else q) + z.toInt
  if signed then BitVec.ofInt 32 (max (-128) (min 127 q)) else BitVec.ofInt 32 (max 0 (min 255 q))

/-- A value in a floating output format: one rounding; a sum beyond the largest finite value as Table 7.6 says. -/
def drainFloat (f : FloatFmt) (sat : Bool) : Val → Nat
  | .nan => nanEnc f
  | .inf s => if f.e4m3 then nanEnc f else signBit f s + infEnc f
  | .fin s m e =>
    let top : Dy := ((floatVal f (maxEnc f)).dy?).getD (Dy.ofNat 0)
    if ({ m := m, e := e } : Dy).le top then signBit f s + min (encodeMag roundInt f m e) (maxEnc f)
    else if sat then signBit f s + maxEnc f
    else if f.e4m3 then nanEnc f
    else signBit f s + infEnc f

/-- The value that a register of the vector unit holds. -/
def vecVal (t : VecType) (w : W32) : Val :=
  match t with
  | .int32 => intVal w.toInt
  | .uint32 => intVal w.toNat
  | .fp32 => fp32Val w

/-- A value rounded to an integer in a range, to nearest even, saturating: no integer format has an infinity. -/
def clampInt (lo hi : Int) (nan : Int) : Val → Int
  | .nan => nan
  | .inf s => if s then lo else hi
  | .fin s m e => max lo (min hi (if s then -(roundInt m e : Int) else roundInt m e))

/-- A value in a type of the vector unit. What a NaN becomes as an integer the manual does not say. -/
def vecWord (t : VecType) (sat : Bool) (a : W32) (v : Val) : W32 :=
  match t with
  | .int32 => BitVec.ofInt 32 (clampInt (-2147483648) 2147483647 (Config.nanToInt a).toInt v)
  | .uint32 => BitVec.ofInt 32 (clampInt 0 4294967295 (Config.nanToInt a).toNat v)
  | .fp32 => BitVec.ofNat 32 (drainFloat fmtFp32 sat v)

/-- A value without the E8M0 scale of its block. -/
def unscaled (scale : Nat) : Val → Val
  | .fin s m e => .fin s m (e + 127 - scale)
  | v => v

/-- An E2M1 element: it has neither infinity nor NaN, so it saturates. -/
def e2m1Word (nan : Nat) : Val → Nat
  | .nan => nan % 16
  | .inf s => signBit fmtE2M1 s + 7
  | .fin s m e => signBit fmtE2M1 s + min 7 (encodeMag roundInt fmtE2M1 m e)

/-- A value in a format of Table 7.1, one rounding (R168, R191). An MX element stands with its block's scale, which the
instruction gives, in bits 15 to 8; what a NaN becomes in a format without one the manual does not say. -/
def formatWord (f : Byte) (sat : Bool) (scale : Nat) (a : W32) (v : Val) : W32 :=
  let free := (Config.nanToInt a).toNat
  match floatFmt? f with
  | some x => BitVec.ofNat 32 (drainFloat x sat v)
  | none =>
    match f.toNat with
    | 0x01 => BitVec.ofInt 32 (clampInt (-128) 127 free v) &&& 0xFF
    | 0x02 => BitVec.ofInt 32 (clampInt 0 255 free v) &&& 0xFF
    | 0x03 => BitVec.ofInt 32 (clampInt (-8) 7 free v) &&& 0xF
    | 0x06 => BitVec.ofNat 32 (scale % 256 * 256 + e2m1Word free (unscaled (scale % 256) v))
    | 0x07 => BitVec.ofNat 32 (scale % 256 * 256) |||
        (BitVec.ofInt 32 (clampInt (-128) 127 free ((unscaled (scale % 256) v).mul (.fin false 1 6))) &&& 0xFF)
    | 0x0C => BitVec.ofInt 32 (clampInt 0 65535 free v) &&& 0xFFFF
    | _ => BitVec.ofInt 32 (clampInt (-2147483648) 2147483647 (Config.nanToInt a).toInt v)

/-- A vector operation on the operands of one lane. -/
def vecEval (op : VecOp) (a b c : W32) : W32 :=
  match op with
  | .iadd => a + b
  | .isub => a - b
  | .imul => a * b
  | .band => a &&& b
  | .bor => a ||| b
  | .bxor => a ^^^ b
  | .shl => if b.toNat < 32 then a <<< b.toNat else Config.wideShift a b
  | .shr => if b.toNat < 32 then a >>> b.toNat else Config.wideShift a b
  | .sar => if b.toNat < 32 then a.sshiftRight b.toNat else Config.wideShift a b
  | .fadd => toFp32 ((fp32Val a).add (fp32Val b))
  | .fsub => toFp32 ((fp32Val a).add (fp32Val b).neg)
  | .fmul => toFp32 ((fp32Val a).mul (fp32Val b))
  | .fma => toFp32 (((fp32Val a).mul (fp32Val b)).add (fp32Val c))
  | .iltu => boolWord (a.ult b)
  | .ilts => boolWord (a.slt b)
  | .ieq => boolWord (a == b)
  | .flt => boolWord ((fp32Val a).ltB (fp32Val b))
  | .feq => boolWord ((fp32Val a).eqB (fp32Val b))
  | .select => if c ≠ 0 then a else b
  | .mov => a
  | .requant m h z signed => requantize a m h z signed
  | .convert s t sat => vecWord t sat a (vecVal s a)
  | .toFormat s f sat => formatWord f sat b.toNat a (vecVal s a)
  | .ofFormat f t sat => vecWord t sat a (elemVal f a)

/-- Neighbours added, an odd last value carried. -/
def pairAdd (float : Bool) : List W32 → List W32
  | a :: b :: r => vecEval (if float then .fadd else .iadd) a b 0 :: pairAdd float r
  | r => r

/-- A reduction over the lanes in the fixed tree order (R190): lane 2j with lane 2j + 1 first, `n` levels. -/
def treeAdd (float : Bool) : Nat → List W32 → W32
  | 0, l => l.headD 0
  | n + 1, l => treeAdd float n (pairAdd float l)

end Sys2Proof.Machine
end

