-- ==== Sys2Proof/Machine/Schedule.lean ====
section
/-! DEFINITION. Operations, windows and kernels (08 R184 to R187, R203 to R210, 10 R252 to R255, R267): the operation queue,
launching and donation, dispatch of groups, traps and re-runs, zeroing. -/

namespace Sys2Proof.Machine

open Sys2Proof

/-! ### Objects of an operation -/

def planKernel? (d : Dev) (id v : W64) (section_ kernel : Nat) : Option Kernel := do
  let l ← planOf? d id v
  if section_ = 5 then l.plan.network[kernel]? else l.plan.sentinel[kernel]?

def opKernel? (d : Dev) (o : Operation) : Option Kernel := planKernel? d o.planId o.planVersion o.section_ o.kernel

/-- A resident blob bound to a plan version. -/
def blobOf? (d : Dev) (planId planVersion : W64) (blob : Nat) : Option Blob :=
  d.plans.blobs.find? fun b => b.id.toNat == blob && b.bound.contains (planId, planVersion)

/-- Every blob that the kernel binds has received its DONE (R337). -/
def kernelReady (d : Dev) (planId planVersion : W64) (k : Kernel) : Bool :=
  k.args.all fun a => a.kind != 2 || ((blobOf? d planId planVersion a.index).map (·.usable)).getD false

/-- Where a kernel's container begins in its plan: behind those before it in its section (Table 2.4). -/
def kernelAt? (p : Plan) (k : Kernel) : Option Nat :=
  let place (type : W16) (ks : List Kernel) : Option Nat :=
    match p.sections.find? (·.type == type), ks.findIdx? (· == k) with
    | some s, some i => some (s.offset.toNat + ((ks.take i).map (·.length)).foldl (· + ·) 0)
    | _, _ => none
  (place 5 p.network).or (place 6 p.sentinel)

/-- A line of the kernel's code or constants in the plan copy is unusable. -/
def codePoisoned (l : LoadedPlan) (k : Kernel) : Bool :=
  match kernelAt? l.plan k with
  | some o => l.bad.any fun i => decide (o < 64 * i + 64) && decide (64 * i < o + k.length)
  | none => false

/-- The kernel meets unusable data: a line of a blob it binds, or of its own container (R205, R287, R294). -/
def kernelPoisoned (d : Dev) (planId planVersion : W64) (k : Kernel) : Bool :=
  ((planOf? d planId planVersion).map fun l => codePoisoned l k).getD true ||
    k.args.any fun a => a.kind == 2 && ((blobOf? d planId planVersion a.index).map fun b => !b.bad.isEmpty).getD false

/-! ### The operation queue (R253) -/

/-- The place of an operation: trigger, context, result, and its number among those of one place. Every trigger is moved by the
same 1.5 ms. -/
def opKey (o : Operation) : List Nat :=
  match o.work with
  | .check c s _ => [o.trigger, c.toNat, s, o.seq]
  | .golden _ _ i _ => [o.trigger, 0, i, o.seq]

def keyLe : List Nat → List Nat → Bool
  | a :: l, b :: r => decide (a < b) || (a == b && keyLe l r)
  | _, _ => true

/-- An operation takes its place behind every operation of a key not greater. -/
def insertOp (o : Operation) : List Operation → List Operation
  | [] => [o]
  | x :: l => if keyLe (opKey x) (opKey o) then x :: insertOp o l else o :: x :: l

/-- An operation is queued; one that returns keeps the place that it had (R255). -/
def addOp (o : Operation) (d : Dev) : Dev :=
  modSched (fun s =>
    if o.seq = 0 then { s with queue := insertOp { o with seq := s.nextOp } s.queue, nextOp := s.nextOp + 1 }
    else { s with queue := insertOp o s.queue }) d

/-! ### Time of steps -/

/-- The instant `steps` steps at F after `t`, rounded up. -/
def afterSteps (d : Dev) (t : Time) (steps : Nat) : Time := t + ceilDiv (steps * us 1) (max 1 d.pace.f)

/-- `steps` steps at F fit between `t` and `u`. -/
def stepsFit (d : Dev) (t u : Time) (steps : Nat) : Bool := decide (t + 0 ≤ u) && decide (steps * us 1 ≤ (u - t) * d.pace.f)

/-! ### Zeroing and dispatch (R195, R252, R186, R187, R214) -/

/-- The words of core `n`'s local memory (Table 5.4): 64 Ki words from 0x0011_0000_0000 + n · 512 KiB. -/
def localWord (n w : Nat) : Bool := decide (0x220000000 + n * 65536 ≤ w) && decide (w < 0x220000000 + (n + 1) * 65536)

/-- Local memory of a core is zeroed: no word of it is listed (R195, R252). -/
def zeroLocal (n : Nat) (m : Mem) : Mem :=
  { m with words := m.words.filter fun e => !localWord n e.1, synd := m.synd.filter fun e => !localWord n e.1 }

/-- The cores whose local memory is to be zeroed now. -/
def zeroList (d : Dev) : List Nat := (d.cores.core.filter fun e => e.2.mustZero).map (·.1)

/-- The constants of a kernel in a core's local memory, from offset 0 (R195). -/
def loadConstants (n : Nat) (b : List Byte) (m : Mem) : Mem :=
  (List.range (b.length / 8)).foldl (fun m i =>
    { m with words := kset 0 m.words (0x220000000 + n * 65536 + i) (BitVec.ofNat 64 (fieldAt b (8 * i) 8)) }) m

/-- The cores that take a kernel's constants now. -/
def constList (d : Dev) : List (Nat × List Byte) :=
  (d.cores.core.filter fun e => !e.2.loadConst.isEmpty).map fun e => (e.1, e.2.loadConst)

/-- Zeroing of every core that is marked for it, and the constants of the kernels that have been launched. -/
def zeroCores (s : State) : State :=
  { s with
    mem := (constList s.dev).foldl (fun m e => loadConstants e.1 e.2 m) ((zeroList s.dev).foldl (fun m n => zeroLocal n m) s.mem)
    dev := { s.dev with cores := { s.dev.cores with
      core := kmapv (fun _ c => { c with mustZero := false, loadConst := [] }) s.dev.cores.core } } }

/-- A meaning that changes the device and may end kernels on cores. -/
def onDevZ (f : Dev → Dev) (s : State) : State := zeroCores (onDev f s)

/-- The words of a segment. -/
def segWord (g w : Nat) : Bool :=
  decide (segAddr g / 8 ≤ w) && decide (w < segAddr g / 8 + if g < 12192 then 262144 else 8192)

/-- Every byte of a segment is zero, and so are its check bytes (R243). -/
def zeroSeg (g : Nat) (m : Mem) : Mem :=
  { words := m.words.filter fun e => !segWord g e.1
    synd := m.synd.filter fun e => !segWord g e.1
    parity := m.parity.filter fun e => !segWord g (16 * e.1)
    psynd := m.psynd.filter fun e => !segWord g (128 * e.1) }

/-- Segments that go to another partition are zeroed. -/
def zeroSegs (s : State) : State :=
  { s with mem := s.dev.memctl.toZero.foldl (fun m g => zeroSeg g m) s.mem, dev := modCtl (fun m => { m with toZero := [] }) s.dev }

/-- A meaning that changes the device, may end kernels and may allocate segments. -/
def onDevA (f : Dev → Dev) (s : State) : State := zeroSegs (onDevZ f s)

/-- Groups and threads of a kernel. -/
def gridThreads (k : Kernel) : Nat := k.gridX * k.gridY * k.gridZ
def gridBundles (k : Kernel) : Nat := ceilDiv (gridThreads k) 64
def gridGroups (k : Kernel) : Nat := ceilDiv (gridBundles k) (max 1 k.groupBundles)

/-- The lanes of bundle `b` that hold a thread (R184). -/
def laneMask (k : Kernel) (b : Nat) : W64 :=
  let n := min 64 (gridThreads k - 64 * b)
  BitVec.ofNat 64 (2 ^ n - 1)

/-- Allocation offsets of a core's local memory that no resident bundle uses, in order (R186). -/
def freeBases (c : Core) (k : Kernel) : List Nat :=
  if k.localMem = 0 then [k.constLength, k.constLength]
  else ((List.range ((524288 - k.constLength) / k.localMem)).map fun a => k.constLength + a * k.localMem).filter
    fun b => !(c.bundles.any fun e => e.2.base == b)

def freeSlots (c : Core) : List Nat := (List.range 64).filter fun s => (kfind? c.bundles s).isNone

/-- The bundles of group `g` enter the first free slots, as one pass. -/
def placeGroup (k : Kernel) (g base : Nat) (passB : Bool) (c : Core) : Core :=
  let first := g * max 1 k.groupBundles
  let count := min (max 1 k.groupBundles) (gridBundles k - first)
  ((freeSlots c).zip (List.range count)).foldl (fun c e =>
    let m := laneMask k (first + e.2)
    let b : Bundle := { group := g, index := e.2, passB := passB, base := base, lanes := m, mask := m, order := c.dispatched }
    { c with bundles := kput c.bundles e.1 b, dispatched := c.dispatched + 1 }) c

/-- Group `g` is dispatched on a core, twice on a PAIRED core (R214), when there is room for it. -/
def dispatchGroup? (k : Kernel) (g : Nat) (c : Core) : Option Core :=
  let need := max 1 k.groupBundles
  match freeBases c k with
  | a :: b :: _ =>
    if c.split then (if (freeSlots c).length ≥ need then some (placeGroup k g a false c) else none)
    else if (freeSlots c).length ≥ 2 * need then some (placeGroup k g b true (placeGroup k g a false c)) else none
  | [a] => if c.split && decide ((freeSlots c).length ≥ need) then some (placeGroup k g a false c) else none
  | [] => none

/-- A core takes undispatched groups from `g` on while it has room: the next group and the core. -/
def fillCore (k : Kernel) : Nat → Nat → Core → Nat × Core
  | 0, g, c => (g, c)
  | fuel + 1, g, c =>
    if g ≥ gridGroups k then (g, c)
    else match dispatchGroup? k g c with
      | some c' => fillCore k fuel (g + 1) c'
      | none => (g, c)

/-- Undispatched groups of a run go to its cores, in core order. -/
def dispatchRun (k : Kernel) (cores : List Nat) (g : Nat) (d : Dev) : Nat × Dev :=
  cores.foldl (fun (g, d) n =>
    let (g', c) := fillCore k 64 g (coreOf d n)
    (g', setCore n c d)) (g, d)

/-- The signal objects of a kernel launched with `n` as its first core: 256 from this base (R122, R196). -/
def signalBase (n : Nat) : Nat := 1024 * (n / 4) + 256 * (n % 4)

/-! ### Arguments (R203) -/

/-- The frame that a layer-0 tensor of a result's check names, at its slot of the ring. -/
def frameAddr (d : Dev) (c : W32) (seq index : Nat) : Nat :=
  let x := ctxOf d c
  match planOf? d x.planId x.planVersion, x.results.find? (·.seq == seq) with
  | some l, some r =>
    let j := ((l.plan.tensors.take index).filter (·.layer == 0)).length
    match x.streams[j]? with
    | some i =>
      match streamOf? d i with
      | some s =>
        let slot := ((s.frames.find? (·.capture == r.capture)).map (·.slot)).getD 0
        allocBase d (.ring i) + slot * canonLen (layer0Of s)
      | none => 0
    | none => 0
  | _, _ => 0

/-- Where a tensor that kernels of a plan pass on stands behind the start of the plan's tensors: in table order, each at a multiple
of 64 bytes. The manual lays them out nowhere: DESIGN CHOICE (notes/assumptions/49.md). -/
def tensorOffset (p : Plan) (index : Nat) : Nat :=
  (p.tensors.take index).foldl (fun a t => a + if t.layer = 0 then 0 else ceilDiv (canonLen t) 64 * 64) 0

/-- What an argument register holds, and the memory that the argument opens. -/
def bindArg (d : Dev) (o : Operation) (a : KernelArg) : W64 × Option (Nat × Nat × Nat) :=
  let at_ (base len : Nat) : W64 × Option (Nat × Nat × Nat) := (BitVec.ofNat 64 base, some (base, len, a.access))
  match planOf? d o.planId o.planVersion with
  | none => (0, none)
  | some l =>
    let part := l.partition
    let blobAt (b : W32) : W64 × Option (Nat × Nat × Nat) :=
      at_ (allocBase d (.blob b part)) (((l.plan.weightDigests.find? (·.blob == b)).map (·.length)).getD 0)
    match a.kind with
    | 1 => match l.plan.tensors[a.index]?, o.work with
      | some t, .check c s _ =>
        if t.layer = 0 then at_ (frameAddr d c s a.index) (canonLen t)
        else at_ (allocBase d (.tensors o.planId o.planVersion) + tensorOffset l.plan a.index) (canonLen t)
      | some t, .golden .. => at_ (allocBase d (.tensors o.planId o.planVersion) + tensorOffset l.plan a.index) (canonLen t)
      | none, _ => (0, none)
    | 2 => blobAt (BitVec.ofNat 32 a.index)
    | 3 => match o.work with
      | .golden _ _ i _ => ((l.plan.golden.find? (·.index == i)).map fun g => blobAt g.inputBlob).getD (0, none)
      | .check .. => (0, none)
    | _ => (a.value, none)

/-- The shared SRAM scratch of a kernel in each cluster it uses. -/
def bindScratch (d : Dev) (p : Nat) (k : Kernel) (cores : List Nat) : KMap Nat :=
  if k.scratch = 0 then []
  else (cores.map (· / 4)).foldl (fun m c => kput m c (allocBase d (.sram c p))) []

/-- The constants of a kernel. -/
def constantsOf (k : Kernel) : List Byte := bytesAt k.bytes k.constOffset k.constLength

/-- A run begins on its cores: zeroed local memory with the kernel's constants, resident groups, fresh signal objects, and the
arguments bound. -/
def startRun (k : Kernel) (r : Run_) (d : Dev) : Dev :=
  let base := signalBase (r.cores.headD 0)
  let d := (List.range k.signals).foldl (fun d i => setSignal (base + i) {} d) d
  let d := r.cores.foldl (fun d n =>
    modCore n (fun c => { c with dispatched := 0, retired := 0, loadConst := constantsOf k }) (wipeCore n d)) d
  let (g, d) := dispatchRun k r.cores 0 d
  let bound := k.args.map (bindArg d r.op)
  let scratch := bindScratch d r.op.partition k r.cores
  let run := { r with
    nextGroup := g, started := d.geyser.now, args := bound.map (·.1), scratch := scratch
    bounds := bound.filterMap (·.2) ++ scratch.map fun e => (e.2, k.scratch, 3) }
  modSched (fun s => { s with runs := s.runs ++ [run] }) d

/-! ### Runs -/

/-- The run that occupies a core. -/
def runOn? (d : Dev) (n : Nat) : Option Run_ := d.sched.runs.find? fun r => r.cores.contains n

def modRun (n : Nat) (f : Run_ → Run_) (d : Dev) : Dev :=
  modSched (fun s => { s with runs := s.runs.map fun r => if r.cores.contains n then f r else r }) d

def dropRun (n : Nat) (d : Dev) : Dev :=
  modSched (fun s => { s with runs := s.runs.filter fun r => !r.cores.contains n }) d

/-- The local memory of a core is zeroed in the next 1,024 steps (R252). -/
def zeroingNow (n : Nat) (d : Dev) : Dev :=
  modCore n (fun c => { c with window := c.window.map fun w => { w with ready := afterSteps d d.geyser.now 1024 } }) d

/-- A run leaves its cores: nothing in their local memory survives (R195); after a donated run they first zero their state
(R252). Transfers under way go on, and post nothing any more. -/
def endRun (r : Run_) (d : Dev) : Dev :=
  let d := r.cores.foldl (fun d m => if r.donated then zeroingNow m (wipeCore m d) else wipeCore m d) (dropRun (r.cores.headD 64) d)
  { d with cores := { d.cores with dma := kmapv (fun _ c =>
      if c.busy && r.cores.contains c.core then { c with core := 64, post := none } else c) d.cores.dma } }

/-- A core may run the kernel: unfenced, prepared engines aside, and PAIRED where R212 asks for it. -/
def modeFits (d : Dev) (q : Partition) (k : Kernel) (n : Nat) : Bool :=
  !isFenced d n && !((coreOf d n).split && (decide (q.criticality ≤ 1) || k.flags.getLsbD 1))

/-- Zeroing steps that come before a launch on core `n`: those of a donated run that must stop first (R255). -/
def stopSteps (d : Dev) (n : Nat) : Nat := if ((runOn? d n).map (·.donated)).getD false then 1024 else 0

/-- The steps a launch on core `n` must leave in its window: the demand in the core's mode (R220), the re-run reserve while unused,
zeroing before it and after a donated run (R252, R254). -/
def neededSteps (d : Dev) (n : Nat) (k : Kernel) (w : CoreWindow) (donated : Bool) : Nat :=
  let wq := (partOf? d w.partition)
  let reserve := if w.rerunUsed then 0 else (wq.map fun x => rerunDemand d w.partition x).getD 0
  stopSteps d n + demandOn (coreOf d n).split k + reserve + (if donated then 1024 else 0)

/-- The window of core `n` has room for a launch now. -/
def windowFits (d : Dev) (n : Nat) (k : Kernel) (w : CoreWindow) (donated : Bool) : Bool :=
  stepsFit d (max d.geyser.now w.ready) w.closes (neededSteps d n k w donated)

/-- Cores in an open SERVICE window of a partition that hold no run, or, for a run that is not donated, only a donated one (R255). -/
def ownCores (d : Dev) (p : Nat) (q : Partition) (k : Kernel) (donated : Bool) : List Nat :=
  let mine := (List.range 64).filter fun n =>
    match (coreOf d n).window with
    | some w => w.partition == p && w.kind == .service && decide (d.geyser.now < w.closes) && modeFits d q k n &&
        windowFits d n k w donated
    | none => false
  (mine.filter fun n => (runOn? d n).isNone) ++
    mine.filter fun n => !donated && ((runOn? d n).map (·.donated)).getD false

/-- `n` members of a list, from a free position on (the manual leaves open which cores of the mask are chosen). -/
def chooseFrom (free n : Nat) (l : List Nat) : List Nat :=
  if l.length ≤ n then l
  else
    let k := Config.freeNat free % l.length
    (l.drop k ++ l.take k).take n

/-- A partition's own kernel is in flight: kernels of a partition run one after another (R253, R259). -/
def ownBusy (d : Dev) (p : Nat) : Bool :=
  d.sched.runs.any fun r => r.op.partition == p && !r.donated && (match r.op.work with | .check .. => true | .golden .. => false)

/-- Operations of a DRAINING context that a re-admission has left out run only in time that the others leave, in the manner of donated
time (R268). -/
def lastInLine (d : Dev) (o : Operation) : Bool :=
  match o.work with
  | .check c _ _ => (ctxOf d c).uncounted
  | .golden .. => false

/-- The head of a partition's queue. -/
def headOp? (d : Dev) (p : Nat) : Option Operation :=
  let mine := d.sched.queue.filter fun o => o.partition == p
  match mine.find? fun o => !lastInLine d o with
  | some o => some o
  | none => mine.head?

/-- Donated runs on the cores stop, their operations return to their places, and the cores zero their state (R255). -/
def stopDonated (cores : List Nat) (d : Dev) : Dev :=
  cores.foldl (fun d n =>
    match runOn? d n with
    | some r => if r.donated then addOp r.op (endRun r d) else d
    | none => d) d

/-- The launch of the head of a partition's queue, when it fits. -/
def launchOwn? (p : Nat) (q : Partition) (d : Dev) : Option Dev := do
  let o ← headOp? d p
  let k ← opKernel? d o
  let don := lastInLine d o
  let cs := ownCores d p q k don
  if ownBusy d p || decide (cs.length < k.cores) then none
  else
    let chosen := chooseFrom d.free k.cores cs
    let d := { d with free := d.free + 1 }
    let d := stopDonated chosen d
    let d := modSched (fun s => { s with queue := s.queue.filter fun x => x != o }) d
    some (startRun k { op := o, cores := chosen, donated := don } d)

/-- Partitions that may receive donated time of a partition's windows: strictly higher criticality number, in order. -/
def donees (d : Dev) (p : Nat) : List (Nat × Partition) :=
  match partOf? d p with
  | some q => (partOrder d).filter fun e => decide (e.2.criticality > q.criticality)
  | none => []

/-- Idle cores in open windows of partition `p` with DONATE that may run a kernel of another partition. -/
def donatedCores (d : Dev) (p r : Nat) (q : Partition) (k : Kernel) : List Nat :=
  (List.range 64).filter fun n =>
    match (coreOf d n).window with
    | some w => w.partition == p && w.donate && decide (d.geyser.now < w.closes) && (runOn? d n).isNone &&
        q.mask.getLsbD n && modeFits d q k n && windowFits d n k w true && r != p &&
        (d.sched.golden.all fun g => g.1 != n)
    | none => false

/-- A donated launch in the windows of partition `p` (R254). -/
def launchDonated? (p : Nat) (d : Dev) : Option Dev :=
  (donees d p).findSome? fun e => do
    let o ← headOp? d e.1
    let k ← opKernel? d o
    let cs := donatedCores d p e.1 e.2 k
    if decide (cs.length < k.cores) then none
    else
      let chosen := chooseFrom d.free k.cores cs
      let d := { d with free := d.free + 1 }
      let d := modSched (fun s => { s with queue := s.queue.filter fun x => x != o }) d
      some (startRun k { op := o, cores := chosen, donated := true } d)

/-- The largest golden kernel of a partition: the re-run reserve of its GOLDEN windows (R252, R261). -/
def goldenReserve (d : Dev) (p : Nat) (q : Partition) : Nat :=
  (goldenOf d p 0).foldl (fun a e => max a (((goldenKernel? e.1 e.2.1).map (demand d q)).getD 0)) 0

/-- A golden operation may be launched now on the core whose GOLDEN window is open (R252, R261). -/
def goldenFits (d : Dev) (g : Nat × Operation) : Bool :=
  match (coreOf d g.1).window, partOf? d g.2.partition, opKernel? d g.2 with
  | some w, some q, some k =>
    w.partition == g.2.partition && w.kind == .golden && decide (d.geyser.now < w.closes) && modeFits d q k g.1 &&
      ((runOn? d g.1).map (·.donated)).getD true &&
      stepsFit d (max d.geyser.now w.ready) w.closes
        (stopSteps d g.1 + demandOn (coreOf d g.1).split k + if w.rerunUsed then 0 else goldenReserve d g.2.partition q)
  | _, _, _ => false

/-- The next golden operation of a core whose GOLDEN window is open and that holds no run of its own (R261). -/
def launchGolden? (d : Dev) : Option Dev := do
  let g ← d.sched.golden.find? (goldenFits d)
  let k ← opKernel? d g.2
  let d := stopDonated [g.1] d
  let d := modSched (fun s => { s with golden := s.golden.filter fun x => x != g }) d
  some (startRun k { op := g.2, cores := [g.1] } d)

/-- One launch anywhere, if one is possible: golden runs, then own work in partition order, then donated work. -/
def launchOne? (d : Dev) : Option Dev :=
  match launchGolden? d with
  | some d' => some d'
  | none =>
    match (partOrder d).findSome? fun e => launchOwn? e.1 e.2 d with
    | some d' => some d'
    | none => (d.sched.parts.map (·.1)).findSome? fun p => launchDonated? p d

/-- Launches while one is possible, at most `fuel`. -/
def launchAll : Nat → Dev → Dev
  | 0, d => d
  | fuel + 1, d => match launchOne? d with
    | some d' => launchAll fuel d'
    | none => d

/-- Every launch that is possible now; none in safe state or while no frame table runs. -/
def pump (d : Dev) : Dev :=
  if serving d then launchAll (d.sched.queue.length + d.sched.golden.length) d else d

/-! ### Missed golden runs (R121, R503) -/

/-- The count of misses of a golden entry starts anew. -/
def clearMiss (id v : W64) (index : Nat) (d : Dev) : Dev :=
  modPlans (fun x => { x with loaded := x.loaded.map fun l =>
    if l.plan.identifier == id && l.plan.version == v then { l with misses := kput l.misses index 0 } else l }) d

/-- Two misses in a row of a golden entry raise SELFTEST_STARVED. -/
def starved (id v : W64) (index : Nat) (d : Dev) : Dev :=
  if ((planOf? d id v).map fun l => kget 0 l.misses index).getD 0 ≥ 2 then signal 754 (clearMiss id v index d) else d

/-- A golden run is missed; a second in a row raises SELFTEST_STARVED. -/
def missGolden (id v : W64) (index : Nat) (d : Dev) : Dev := starved id v index (addMiss id v index d)

/-! ### Traps (R205 to R210) -/

def tIllegal : Nat := 1
def tFetch : Nat := 2
def tLocal : Nat := 3
def tPoisoned : Nat := 4
def tAddress : Nat := 5
def tRegParity : Nat := 6
def tEngineFault : Nat := 7
def tEngineLimit : Nat := 8
def tSignalRange : Nat := 9
def tPairMismatch : Nat := 10
def tOverrun : Nat := 11
def tWatchdog : Nat := 12

/-- What a trap captures. -/
structure TrapInfo where
  kind : Nat
  slot : Nat := 0
  lane : Nat := 63
  engine : Nat := 0
  addr : Nat := 0
  deriving DecidableEq, Repr

/-- What TRAP_STATUS and TRAP_ADDR take of a trap (Tables 8.8 and 8.9): the address of the access for kinds 3 to 5, the code offset
for kinds 1 and 2. -/
def trapBody (t : TrapInfo) (rerun : Bool) : W32 :=
  BitVec.ofNat 32 (t.kind * 2 ^ 24 + t.slot * 2 ^ 18 + t.lane * 2 ^ 12 + t.engine * 2 ^ 10 + bit 9 rerun)
def trapPlace (t : TrapInfo) (kernel : Nat) : W64 :=
  BitVec.ofNat 64 (kernel * 2 ^ 48 + if t.kind ≤ 5 then t.addr % 2 ^ 48 else 0)

/-- TRAP_STATUS and TRAP_ADDR take a trap (R210). -/
def captureTrap (n : Nat) (t : TrapInfo) (rerun : Bool) (kernel : Nat) (d : Dev) : Dev :=
  let body := trapBody t rerun
  let d := noteCapture (.trapStatus (Fin.ofNat 64 n)) (coreOf d n).trapStatus body (trapPlace t kernel) d
  modCore n (fun c => { c with
    trapStatus := captureWord c.trapStatus body
    trapAddr := if c.trapStatus &&& 0x80000000 = 0 then trapPlace t kernel else c.trapAddr }) d

/-- A trap condition of a kernel that has trapped already sets MORE and adds to COUNT (R208). -/
def moreTrap (n : Nat) (d : Dev) : Dev :=
  hwSet (.trapStatus (Fin.ofNat 64 n)) (2 ^ 30) (modCore n (fun c => { c with
    trapStatus := captureWord (c.trapStatus ||| 0x80000000) 0 &&& (c.trapStatus ||| 0x7FFFFFFF) }) d)

/-- The golden entry of a plan. -/
def goldenEntry? (d : Dev) (id v : W64) (index : Nat) : Option (Plan × GoldenEntry) :=
  (planOf? d id v).bind fun l => (l.plan.golden.find? (·.index == index)).map fun g => (l.plan, g)

/-- The golden input's root as the digest unit finds it is compared (R118, R120). A fault-free unit of any port finds the root
of the stored blob. -/
def goldenInput (id v : W64) (index : Nat) (found : Option W256) (d : Dev) : Dev :=
  match goldenEntry? d id v index with
  | none => d
  | some (_, g) =>
    let stored := ((blobOf? d id v g.inputBlob.toNat).map (·.bytes)).getD []
    let root := found.getD (secureRoot (tilesOf (stored.length / 4096 + 1) stored))
    if root = g.inputRoot then d else signal 752 d

/-- The check of an operation is unavailable with a reason, and the result settles. -/
def opUnavailable (o : Operation) (reason : W32) (d : Dev) : Dev :=
  match o.work with
  | .check c s i => settle c s (modResult c s (missCheck i reason) (settle c s d))
  | .golden id v i _ => missGolden id v i d

/-- The allocation that holds an address, by the name that its users have for it. -/
def allocAt? (d : Dev) (addr : Nat) : Option Alloc :=
  let addr := nameOf d addr
  d.memctl.allocs.find? fun a => decide (segAddr a.first ≤ addr) && decide (addr < segAddr (a.first + a.count))

/-- Class 6 for the reloadable data at the faulting address: the blob there, or the plan's code (R205, R294). Other data is not
reloadable and raises nothing. -/
def reloadFor (o : Operation) (kind addr : Nat) (d : Dev) : Dev :=
  let page := addr / 4096 * 4096
  if kind = tFetch then reloadAttn o.planId.toNat o.planVersion.toNat 0xFFFFFFFF (allocBase d (.plan o.planId o.planVersion)) d
  else match (allocAt? d addr).map Alloc.what with
    | some (.blob b _) => reloadAttn o.planId.toNat o.planVersion.toNat b.toNat page d
    | some (.plan i v) => reloadAttn i.toNat v.toNat 0xFFFFFFFF page d
    | _ => d

/-- The cores of a run stop issuing and its bundles go (R205). -/
def stopIssue (r : Run_) (d : Dev) : Dev := r.cores.foldl (fun d n => clearCore n d) d

/-- The run's own Caldera event (R206): kind, engine checker's source where it is an engine fault. -/
def trapSource (n kind : Nat) (d : Dev) : Dev :=
  if kind = tIllegal ∨ kind = tLocal ∨ kind = tAddress ∨ kind = tRegParity ∨ kind = tEngineLimit ∨ kind = tSignalRange then
    signal (sCore n 3) d
  else if kind = tOverrun then signal (sCore n 4) d
  else d

/-- A golden run whose kernel traps has still had its input hashed and compared (R118); a run that meets unusable data is missed
instead (R121). -/
def trapInput (r : Run_) (kind : Nat) (d : Dev) : Dev :=
  match r.op.work with
  | .golden id v i _ => if r.rerun || kind == tFetch || kind == tPoisoned then d else goldenInput id v i none d
  | .check .. => d

/-- A trap on core `n`: capture, the core source of R206, the end of the kernel's run, then Table 8.6: a re-run that waits
for its launch, a fence at a repeat, an unavailable check, or nothing more. A kernel traps at most once per run (R208). -/
def trapOn (n : Nat) (t : TrapInfo) (d : Dev) : Dev :=
  match runOn? d n with
  | none => d
  | some r =>
    if r.stopped then moreTrap n d
    else
      let d := captureTrap n t r.rerun r.op.kernel d
      let d := stopIssue r d
      let d := modRun n (fun r => { r with stopped := true, stoppedAt := d.geyser.now, outcome := some t.kind }) d
      let d := trapInput r t.kind (trapSource n t.kind d)
      if t.kind = tFetch ∨ t.kind = tPoisoned then
        pump (opUnavailable r.op rPoisoned (reloadFor r.op t.kind t.addr (endRun r d)))
      else if t.kind = tOverrun then endRun r d
      else if r.rerun then pump (fenceCore n d)
      else d

end Sys2Proof.Machine
end

