-- ==== Sys2Proof/Machine/Checks.lean ====
section
/-! DEFINITION. The checks of a result (02 R42 to R60, R539, 03 R85 to R95): frame binding, challenges, tensors against their
commitments, when an operation is queued, and what a completed kernel's outputs make of its check. -/

namespace Sys2Proof.Machine

open Sys2Proof

/-! ### Parts of a result -/

def resCommit? (r : Result) (layer stream : Nat) : Option Commitment :=
  r.commits.find? fun c => c.layer == layer && c.stream == stream

def resTensor? (r : Result) (layer : Nat) : Option TensorTiles := r.tensors.find? (·.layer == layer)

/-- The device stream that stands for input `s` of a context. -/
def streamNo (x : Context) (s : Nat) : Nat := (x.streams[s]?).getD 16

/-- The held frame of a stream with exactly this capture time (R93). -/
def frameAt? (d : Dev) (stream : Nat) (cap : Time) : Option Frame :=
  (streamOf? d stream).bind fun s => s.frames.find? fun f => f.capture == cap

/-- The frame that the layer-0 COMMIT of input `s` names. -/
def resFrame? (d : Dev) (x : Context) (r : Result) (s : Nat) : Option Frame :=
  (resCommit? r 0 s).bind fun c => frameAt? d (streamNo x s) c.capture

/-- A frame's digest is final in every grade its stream enables. -/
def digestFinal (d : Dev) (stream : Nat) (f : Frame) : Bool :=
  match streamOf? d stream with
  | some s => f.status == .complete && (s.grades % 2 == 0 || f.secure.isSome) && (s.grades / 2 % 2 == 0 || f.fault.isSome)
  | none => false

/-- What the frames of a result say: all complete with final digests, one missing or failed, or one still to come. -/
inductive FramesState where
  | ready | missing | waiting
  deriving DecidableEq, Repr

def framesOf (d : Dev) (x : Context) (r : Result) : FramesState :=
  let ss := List.range x.streams.length
  if ss.any fun s => (resFrame? d x r s).isNone then .missing
  else if ss.all fun s => match resFrame? d x r s with | none => false | some f => digestFinal d (streamNo x s) f then .ready
  else .waiting

/-- The later of the frames' completion and the result's acceptance (R253). -/
def sentinelTrigger (d : Dev) (x : Context) (r : Result) : Time :=
  (List.range x.streams.length).foldl (fun a s => max a (((resFrame? d x r s).map (·.doneAt)).getD 0)) r.accepted

/-! ### Challenges (R43, R85, R86, R372) -/

/-- The words of instance 1 from `n` on, rejected or reduced to indices below `t`, until `k` distinct ones are drawn. -/
def drawLoop (k t : Nat) : Nat → Nat → List Nat → List Nat × Nat
  | 0, n, l => ((l ++ (List.range t).filter fun i => !l.contains i).take k, n)
  | fuel + 1, n, l =>
    if l.length ≥ k then (l, n)
    else
      let v := (Config.drbg 1 n).toNat
      if v < 4294967296 / t * t ∧ !l.contains (v % t) then drawLoop k t fuel (n + 1) (l ++ [v % t])
      else drawLoop k t fuel (n + 1) l

/-- The k challenges of a layer of `t` tiles (R372). Four output bytes are one generate call, and the instance reseeds at its 2^16th
(R371). -/
def drawTiles (k t : Nat) (d : Dev) : List Nat × Dev :=
  if k ≥ t then (List.range t, d)
  else
    let n := (d.bonnet.drbgWords[1]?).getD 0
    let (l, m) := drawLoop k t 65536 n []
    let calls := (d.bonnet.drbgCalls[1]?).getD 0 + (m - n)
    (l, modBonnet (fun b => { b with
      drbgWords := b.drbgWords.set 1 m
      drbgCalls := b.drbgCalls.set 1 (calls % 65536)
      drbgReseed := if 65536 ≤ calls then b.drbgReseed.set 1 d.geyser.now else b.drbgReseed }) d)

/-- Pairs gathered into runs of consecutive tiles of one layer. -/
def runsOf : List (Nat × Nat) → List Run
  | [] => []
  | (l, t) :: rest =>
    match runsOf rest with
    | r :: rs => if r.layer = l ∧ r.first = t + 1 ∧ r.count < 65535 then { r with first := t, count := r.count + 1 } :: rs
                 else { layer := l, first := t, count := 1 } :: r :: rs
    | [] => [{ layer := l, first := t, count := 1 }]

/-- Lists of at most five runs. -/
def fives : Nat → List Run → List (List Run)
  | 0, _ => []
  | fuel + 1, l => if l.isEmpty then [] else l.take 5 :: fives fuel (l.drop 5)

/-- The dependency tiles of some runs are noted with the entry that asks for them. -/
def noteDeps (layer : Nat) (e : W32) (runs : List Run) (r : Result) : Result :=
  { r with deps := r.deps ++ runs.flatMap fun x => (List.range x.count).map fun i =>
    { forLayer := layer, layer := x.layer, tile := x.first + i, entry := e } }

/-- One challenge is posted: its CHALLENGE entry with two runs, then DEPENDENCY entries while runs remain; LAST stands on the
layer's last CHALLENGE and on its final DEPENDENCY entry (R85, R86). -/
def postChallenge (c : W32) (seq layer check number tile : Nat) (runs : List Run) (deadline : Time) (last : Bool) (d : Dev) :
    Dev :=
  let rest := fives runs.length (runs.drop 2)
  let (e, d) := postEntry c seq
    (.challenge layer number tile deadline (runs.take 2) (!rest.isEmpty) last) d
  let d := modResult c seq (fun r => noteDeps layer e (runs.take 2)
    { r with challenges := r.challenges ++ [{ check := check, layer := layer, number := number, tile := tile, entry := e }] }) d
  (indexed rest).foldl (fun d g =>
    let final : Bool := g.1 + 1 == rest.length
    let (e, d) := postEntry c seq (.dependency g.2 (!final) (last && final)) d
    modResult c seq (noteDeps layer e g.2) d) d

/-- Runs that no earlier challenge of the result has listed. -/
def freshRuns (c : W32) (seq : Nat) (k : Kernel) (tile : Nat) (d : Dev) : List Run :=
  match resultOf? (ctxOf d c) seq with
  | some r => runsOf ((depsOf k tile).filter fun e => !r.deps.any fun x => x.layer == e.1 && x.tile == e.2)
  | none => []

/-- The TILE checks on a layer are challenged at K (R43, R85). -/
def challengeLayer (c : W32) (seq layer : Nat) (k0 : Time) (p : Plan) (t : Template) (d : Dev) : Dev :=
  let tiles := tilesOfLayer p layer
  let mine := (indexed (checksOf p t)).filter fun e => e.2.kind == 2 && e.2.firstLayer == layer
  if mine.isEmpty then d
  else
    let d := modResult c seq (fun r => { r with windows := r.windows ++ [(layer, k0)] }) d
    let lastCheck := (mine.getLast?.map (·.1)).getD 0
    mine.foldl (fun d e =>
      let (drawn, d) := drawTiles e.2.k tiles d
      (indexed drawn).foldl (fun d g =>
        let runs := match checkKernel? p e.2 with | some k => freshRuns c seq k g.2 d | none => []
        postChallenge c seq layer e.1 g.1 g.2 runs (k0 + us t.retentionUs)
          (e.1 == lastCheck && g.1 + 1 == drawn.length) d) d) d

/-! ### Consistency with commitments (R71, R72, R94) -/

/-- A tile agrees with the commitment of its layer; none while that commitment is not accepted. -/
def tileAgrees? (grade : Nat) (r : Result) (layer tile tiles : Nat) (data : List Byte) (path : List W256) : Option Bool :=
  match resCommit? r layer 0 with
  | none => none
  | some c =>
    if c.accepted.isNone then none
    else if grade = 1 then some (pathOk c.value data tile tiles path)
    else some (path.isEmpty && kfind? (kget [] r.lists layer) tile == some (crc64 data))

/-- The value that a whole tensor commits to, in a grade: 32 bytes, the list digest in the low-address 8 (R70, R72). -/
def commitOf (grade : Nat) (tiles : List (List Byte)) : W256 :=
  if grade = 1 then secureRoot tiles
  else BitVec.ofNat 256 (beNat (padTo 32 (leBytes 8 (listDigest (tiles.map crc64)).toNat)))

/-- The layers that a check uses (R44, R95). -/
def usesLayer (p : Plan) (t : Template) (c : CheckEntry) (layer : Nat) : Bool :=
  let ins := ((checkKernel? p c).map (·.inputs)).getD []
  let outs := (List.range t.outputCount).filterMap fun i => (p.tensors[t.outputs + i]?).map (·.layer)
  match c.kind with
  | 1 => layer == 0
  | 2 | 3 => c.firstLayer == layer || ins.contains layer
  | 4 => ins.contains layer || outs.contains layer
  | _ => outs.contains layer

/-- COMMIT_INCONSISTENT: every open check that uses the layer fails; with none, the reason alone stands (R44, R95). -/
def inconsistent (p : Plan) (t : Template) (layer : Nat) (r : Result) : Result :=
  (indexed (checksOf p t)).foldl (fun r e =>
    if usesLayer p t e.2 layer && r.checks[e.1]? == some .open_ then
      failCheck e.1 rCommitInconsistent e.2.firstLayer 0xFFFFFFFF r
    else r) (addReason rCommitInconsistent r)

/-- A tensor received whole is compared with its commitment (R94). -/
def compareTensor (grade : Nat) (p : Plan) (t : Template) (layer : Nat) (r : Result) : Result :=
  match resTensor? r layer, resCommit? r layer 0, tensorOfLayer? p layer with
  | some x, some c, some td =>
    if tensorFull td x && !x.agreed then
      if commitOf grade (x.tiles.map (·.2)) = c.value then
        { r with tensors := r.tensors.map fun y => if y.layer == layer then { y with agreed := true } else y }
      else inconsistent p t layer r
    else r
  | _, _, _ => r

/-- Dependency tiles of a layer whose commitment has come are checked; one that fails sets OPENING_INVALID on the checks
of the layer that asked for it (R90). -/
def checkDeps (grade : Nat) (p : Plan) (t : Template) (layer : Nat) (r : Result) : Result :=
  r.deps.foldl (fun r x =>
    match x.data with
    | some b =>
      if x.layer = layer ∧ x.ok = none then
        match tileAgrees? grade r layer x.tile (tilesOfLayer p layer) b x.path with
        | none => r
        | some ok =>
          let r := { r with deps := r.deps.map fun y =>
            if y.layer == layer && y.tile == x.tile then { y with ok := some ok } else y }
          if ok then r
          else (indexed (checksOf p t)).foldl (fun r e =>
            if e.2.kind == 2 && e.2.firstLayer == x.forLayer then
              failCheck e.1 rOpeningInvalid x.forLayer 0xFFFFFFFF r else r) r
      else r
    | none => r) r

/-! ### Queuing an operation (R253, R337) -/

/-- The operation of check `i` is triggered at `at_`; a kernel that binds a blob without its DONE makes the check
unavailable at once (R337). -/
def triggerCheck (c : W32) (seq i : Nat) (p : Plan) (t : Template) (e : CheckEntry) (at_ : Time) (d : Dev) : Dev :=
  match checkKernel? p e, resultOf? (ctxOf d c) seq with
  | some k, some r =>
    let d := modResult c seq (fun r => { r with triggered := r.triggered ++ [i] }) d
    if kernelReady d r.planId r.planVersion k then
      addOp { work := .check c seq i, partition := t.partition, planId := r.planId, planVersion := r.planVersion,
              section_ := if e.kind = 5 then 6 else 5, kernel := e.kernel, trigger := at_ } d
    else modResult c seq (missCheck i rPoisoned) d
  | _, _ => modResult c seq (missCheck i rPoisoned) d

/-- Every challenge of check `i` is opened, and every input tile they need has come and agrees (R90). -/
def tileReady (p : Plan) (e : CheckEntry) (i : Nat) (r : Result) : Bool :=
  let mine := r.challenges.filter (·.check == i)
  let deps := match checkKernel? p e with
    | some k => mine.flatMap fun (h : Challenge) => depsOf k h.tile
    | none => []
  !mine.isEmpty && mine.all (fun h => h.opened.isSome) &&
    deps.all fun q => r.deps.any fun x => x.layer == q.1 && x.tile == q.2 && x.ok == some true

def agreedAll (r : Result) (ls : List Nat) : Bool := ls.all (tensorReady r)

def outputLayers (p : Plan) (t : Template) : List Nat :=
  (List.range t.outputCount).filterMap fun i => (p.tensors[t.outputs + i]?).map (·.layer)

/-- The sentinel outputs of check `i`, once its run has completed. -/
def sentinelOf? (r : Result) (i : Nat) : Option (List (List Byte)) := (r.sentinel.find? (·.1 == i)).map (·.2)

/-- A sentinel output as a relation reads it; its layout is the plan's, numbered behind those of the subject's outputs. -/
def sentinelView (p : Plan) (rel : Relation) (outs : List (List Byte)) : Option OutputView :=
  match p.sentinelOutputs[rel.sentinelOutput]?, outs[rel.sentinelOutput]? with
  | some td, some b => some (outputView rel.kind (256 + rel.sentinelOutput) td (indexed (tilesOf (b.length / 4096 + 1) b)))
  | _, _ => none

/-- A SENTINEL check whose run has completed and whose output is delivered, agreed and committed to concludes (R49, R50,
R91). -/
def concludeSentinel (p : Plan) (t : Template) (e : CheckEntry) (i : Nat) (r : Result) : Result :=
  match sentinelOf? r i, p.relations[t.firstRelation + e.streamOrRelation]? with
  | some outs, some rel =>
    match p.tensors[t.outputs + rel.subjectOutput]? with
    | some td =>
      match resTensor? r td.layer with
      | some x =>
        if tensorReady r td.layer then
          match sentinelView p rel outs with
          | some n =>
            if relationHolds p rel (outputView rel.kind rel.subjectOutput td x.tiles) n then concludeCheck i .pass r
            else failCheck i rRelation e.firstLayer 0xFFFFFFFF r
          | none => failCheck i rRelation e.firstLayer 0xFFFFFFFF r
        else r
      | none => r
    | none => r
  | _, _ => r

/-- The DIGEST check of input `s` (R73, R93, R113), once its commitment is accepted (R91). -/
def digestCheck (d : Dev) (x : Context) (t : Template) (i s : Nat) (r : Result) : Result :=
  match resCommit? r 0 s with
  | none => r
  | some c =>
    match frameAt? d (streamNo x s) c.capture with
    | none => missCheck i rFrameMissing r
    | some f =>
      if c.accepted.isNone then r
      else
        let found : Option W256 := if t.grade = 1 then f.secure
          else f.fault.map fun v => BitVec.ofNat 256 (beNat (padTo 32 (leBytes 8 v.toNat)))
        match found with
        | none => r
        | some v => if v = c.value then concludeCheck i .pass r else failCheck i rBinding 0 0xFFFFFFFF r

/-- When the operation of a check is triggered: the arrival of the last opening and dependency tile of its layer, or of the last
tensor it needs (R253). -/
def tileTrigger (layer : Nat) (r : Result) : Time :=
  ((r.challenges.filter (·.layer == layer)).map (·.arrival) ++ (r.deps.filter (·.forLayer == layer)).map (·.arrival)).foldl max 0
def tensorTrigger (ls : List Nat) (r : Result) : Time :=
  ((r.tensors.filter fun x => ls.contains x.layer).map (·.arrival)).foldl max 0

/-- One check of a result looks whether it can conclude or be queued now. -/
def progressCheck (c : W32) (seq : Nat) (p : Plan) (t : Template) (i : Nat) (e : CheckEntry) (d : Dev) : Dev :=
  let x := ctxOf d c
  match resultOf? x seq with
  | none => d
  | some r =>
    if r.checks[i]? ≠ some .open_ then d
    else
      let ins := ((checkKernel? p e).map (·.inputs)).getD []
      let frames := framesOf d x r
      let queued := r.triggered.contains i
      match e.kind with
      | 1 => modResult c seq (digestCheck d x t i e.streamOrRelation) d
      | 5 =>
        if queued then modResult c seq (concludeSentinel p t e i) d
        else if frames = .missing then modResult c seq (missCheck i rFrameMissing) d
        else if frames = .ready then triggerCheck c seq i p t e (sentinelTrigger d x r) d
        else d
      | k =>
        if queued then d
        else if ins.contains 0 && frames == .missing then modResult c seq (missCheck i rFrameMissing) d
        else if ins.contains 0 && frames == .waiting then d
        else
          let ins := ins.filter (· != 0)
          let needs := if k = 3 then e.firstLayer :: ins else ins ++ outputLayers p t
          if k = 2 then (if tileReady p e i r then triggerCheck c seq i p t e (tileTrigger e.firstLayer r) d else d)
          else if agreedAll r needs then triggerCheck c seq i p t e (tensorTrigger needs r) d
          else d

/-- Every check of a result looks, the verdict rules follow, and kernels launch; what is due comes first (R533). -/
def progress (c : W32) (seq : Nat) (d0 : Dev) : Dev :=
  let d := settle c seq d0
  match resultOf? (ctxOf d c) seq with
  | none => d
  | some r =>
    match resultPlan? d r, resultTemplate? d r with
    | some p, some t =>
      pump (settle c seq ((indexed (checksOf p t)).foldl (fun d e => progressCheck c seq p t e.1 e.2 d) d))
    | _, _ => d

/-- Every pending result of a context that is bound to a stream. -/
def progressStream (stream : Nat) (d : Dev) : Dev :=
  d.contexts.foldl (fun d e =>
    if e.2.streams.contains stream then
      e.2.results.foldl (fun d r => progress (BitVec.ofNat 32 e.1) r.seq d) d
    else d) d

/-! ### What a kernel computes (R115) -/

/-- The layer-0 tensor of a complete frame as its tiles (R69, R105). -/
def frameTiles (f : Frame) : List (List Byte) :=
  let b := (f.groups.map (·.2)).flatten
  tilesOf (b.length / 4096 + 1) b

/-- The tiles of a layer that a result's kernel may read: those of its held frames for layer 0 (R86), otherwise those delivered
in TENSOR and DEP_TILE records. Layer, stream, tile, bytes. -/
def layerTiles (d : Dev) (x : Context) (r : Result) (layer : Nat) : List (Nat × Nat × Nat × List Byte) :=
  if layer = 0 then (List.range x.streams.length).flatMap fun s =>
    match resFrame? d x r s with
    | some f => (indexed (frameTiles f)).map fun e => (0, s, e.1, e.2)
    | none => []
  else
    match resTensor? r layer with
    | some t => t.tiles.map fun e => (layer, 0, e.1, e.2)
    | none => (r.deps.filter (·.layer == layer)).filterMap fun y => y.data.map fun b => (layer, 0, y.tile, b)

/-- A kernel's run: its container, the tiles it reads, and the weight blobs it binds. -/
structure Job where
  bytes : List Byte
  inputs : List (Nat × Nat × Nat × List Byte)
  weights : List (List Byte)
  deriving DecidableEq, Repr

/-- The weights that a kernel of a plan binds, in argument order. -/
def weightsOf (d : Dev) (id v : W64) (k : Kernel) : List (List Byte) :=
  k.args.filterMap fun a => if a.kind = 2 then (blobOf? d id v a.index).map (·.bytes) else none

/-- The run of a check's kernel; for a TILE check, that of one output tile, which reads the tiles the plan lists for it. -/
def jobOf (d : Dev) (x : Context) (r : Result) (k : Kernel) (tile : Option Nat) : Job :=
  let all := k.inputs.flatMap (layerTiles d x r)
  let reads := match tile with
    | none => all
    | some n =>
      let runs := ((k.deps.find? (·.1 == n)).map (·.2)).getD []
      all.filter fun e => runs.any fun q => q.layer == e.1 && decide (q.first ≤ e.2.2.1) && decide (e.2.2.1 < q.first + q.count)
  { bytes := k.bytes, inputs := reads, weights := weightsOf d r.planId r.planVersion k }

/-- A tile of an output of a run, as a hardware fault may have changed it; and a whole output of a descriptor. -/
def jobTile (j : Job) (u : RunUpset) (output tile : Nat) : List Byte :=
  match u.tiles.find? fun e => e.1 == output && e.2.1 == tile with
  | some e => bytesAt e.2.2 0 4096
  | none => (List.range 4096).map (Config.kernelByte j.bytes j.inputs j.weights output tile)
def jobOutput (j : Job) (u : RunUpset) (output : Nat) (td : TensorDesc) : List Byte :=
  ((List.range td.tiles).flatMap (jobTile j u output)).take (canonLen td)

/-- The reference elements of a tile with their magnitude sums (R166). -/
def jobRefs (j : Job) (u : RunUpset) (output : Nat) (td : TensorDesc) (tile : Nat) : List RefElem :=
  (indexed (elemsOfTile td tile (jobTile j u output tile))).map fun e =>
    { bits := e.2, mag := Config.kernelMag j.bytes j.inputs j.weights output tile e.1 }

/-! ### The outputs of a completed kernel (R204, R205, R42 to R48) -/

/-- Elements outside their envelope set ENVELOPE, and NONFINITE beside it (R46). -/
def envelopeFail (i layer tile : Nat) (nonfinite : Bool) (r : Result) : Result :=
  let r := if nonfinite then addReason rNonfinite r else r
  failCheck i rEnvelope layer tile r

/-- A TILE check: each challenged tile against its reference, in challenge order. -/
def judgeTiles (p : Plan) (e : CheckEntry) (i : Nat) (job : Nat → Job) (u : RunUpset) (r : Result) : Result :=
  match p.tensors[e.output]?, p.envelopes[e.envelope.toNat]? with
  | some td, some env =>
    let r := (r.challenges.filter (·.check == i)).foldl (fun r h =>
      let (bad, nf) := judgeAll env td.format (elemsOfTile td h.tile (h.opened.getD [])) (jobRefs (job h.tile) u e.output td h.tile)
      if bad then envelopeFail i e.firstLayer h.tile nf r else r) r
    concludeCheck i .pass r
  | _, _ => concludeCheck i .pass r

/-- A FULL check: every tile of the delivered tensor. -/
def judgeFull (p : Plan) (e : CheckEntry) (i : Nat) (job : Job) (u : RunUpset) (r : Result) : Result :=
  match p.tensors[e.output]?, p.envelopes[e.envelope.toNat]?, resTensor? r e.firstLayer with
  | some td, some env, some x =>
    let r := x.tiles.foldl (fun r g =>
      let (bad, nf) := judgeAll env td.format (elemsOfTile td g.1 g.2) (jobRefs job u e.output td g.1)
      if bad then envelopeFail i e.firstLayer 0xFFFFFFFF nf r else r) r
    concludeCheck i .pass r
  | _, _, _ => concludeCheck i .pass r

/-- A HEAD check: every final output, each with its own envelope entry (R48). -/
def judgeHead (p : Plan) (t : Template) (e : CheckEntry) (i : Nat) (job : Job) (u : RunUpset) (r : Result) : Result :=
  let r := (List.range t.outputCount).foldl (fun r j =>
    match p.tensors[t.outputs + j]?, p.envelopes[e.envelope.toNat + j]? with
    | some td, some env =>
      match resTensor? r td.layer with
      | some x =>
        let refs := (List.range td.tiles).flatMap (jobRefs job u (t.outputs + j) td)
        let (bad, nf) := judgeAll env td.format (tensorElems td x) refs
        if bad then envelopeFail i e.firstLayer 0xFFFFFFFF nf r else r
      | none => r
    | _, _ => r) r
  concludeCheck i .pass r

/-- The outputs of a sentinel run, in output order. -/
def sentinelOutputs (p : Plan) (job : Job) (u : RunUpset) : List (List Byte) :=
  (indexed p.sentinelOutputs).map fun e => jobOutput job u e.1 e.2

/-- What a completed kernel makes of its check. -/
def judged (d : Dev) (x : Context) (p : Plan) (t : Template) (e : CheckEntry) (i : Nat) (k : Kernel) (u : RunUpset)
    (r : Result) : Result :=
  let whole := jobOf d x r k none
  match e.kind with
  | 2 => judgeTiles p e i (fun n => jobOf d x r k (some n)) u r
  | 3 => judgeFull p e i whole u r
  | 4 => judgeHead p t e i whole u r
  | _ => concludeSentinel p t e i { r with sentinel := r.sentinel ++ [(i, sentinelOutputs p whole u)] }

/-- A kernel that served a check is complete: the check concludes, or the sentinel's outputs are kept. The outputs are not
used when the result has its verdict (R253), as one whose deadline instant has come has (R54). -/
def useOutput (c : W32) (seq i : Nat) (u : RunUpset) (d0 : Dev) : Dev :=
  let d := settle c seq d0
  match resultOf? (ctxOf d c) seq with
  | none => d
  | some r =>
    match resultPlan? d r, resultTemplate? d r with
    | some p, some t =>
      match (checksOf p t)[i]? with
      | none => d
      | some e =>
        match checkKernel? p e with
        | some k => settle c seq (modResult c seq (judged d (ctxOf d c) p t e i k u) d)
        | none => d
    | _, _ => d

end Sys2Proof.Machine
end

