-- ==== Sys2Proof/Machine/Evidence.lean ====
section
/-! DEFINITION. Evidence (03): record framing, acceptance of results, the handling of each record type and of records that
cannot be used, the queues' control blocks, and the subject's writes (R15, R16, R265). -/

namespace Sys2Proof.Machine

open Sys2Proof

/-! ### Bytes of a record (R79) -/

/-- The record before its trailer. -/
def recordBody (type : Byte) (r : Record) : List Byte :=
  let n := r.length.toNat
  padTo (recordBytes n - 4) ([type, r.version] ++ leBytes 2 r.flags.toNat ++ leBytes 4 r.context.toNat ++
    leBytes 8 r.seq.toNat ++ leBytes 2 r.layer.toNat ++ leBytes 2 r.reserved.toNat ++ leBytes 4 r.tile.toNat ++
    leBytes 4 n ++ leBytes 4 r.captureNs.toNat ++ bytesAt r.payload 0 (recordBytes n - 36))

/-- A payload field, and payload bytes. -/
def rpay (r : Record) (o n : Nat) : Nat := fieldAt (bytesAt r.payload 0 r.length.toNat) o n
def rpayBytes (r : Record) (o n : Nat) : List Byte := bytesAt (bytesAt r.payload 0 r.length.toNat) o n

def tCommit : Byte := 0x01
def tCrcList : Byte := 0x02
def tOpening : Byte := 0x03
def tDepTile : Byte := 0x04
def tTensor : Byte := 0x05
def tAbandon : Byte := 0x06
def tPad : Byte := 0x0F

/-- The payload agrees with Table 3.4, and the fields that must be zero are. -/
def payloadOk (type : Byte) (r : Record) : Bool :=
  let n := r.length.toNat
  match type.toNat with
  | 0x01 => n == 64 && r.tile == 0 && rpay r 2 2 == 0 && allZero (rpayBytes r 0x16 10)
  | 0x02 => n % 8 == 0 && decide (1 ≤ n / 8 ∧ n / 8 ≤ 4096)
  | 0x03 | 0x04 => decide (n ≥ 4128) && n == 4128 + 32 * rpay r 0 2 && rpay r 2 2 == 0 && allZero (rpayBytes r 8 24)
  | 0x05 => decide (1 ≤ rpay r 4 2 ∧ rpay r 4 2 ≤ 16) && n == 16 + 4096 * rpay r 4 2 && allZero (rpayBytes r 6 10)
  | 0x06 => n == 0 && r.layer == 0 && r.tile == 0 && r.captureNs == 0
  | 0x0F => r.seq == 0 && r.layer == 0 && r.tile == 0 && r.captureNs == 0 && allZero (rpayBytes r 0 n)
  | _ => false

/-- The framing of R98's second row: `x` is the record's queue offset. A PAD ends where the ring ends (Table 3.4). -/
def framingOk (type : Byte) (r : Record) (x ringSize : Nat) : Bool :=
  r.version == 1 && r.flags == 0 && r.reserved == 0 && decide (r.length.toNat ≤ 65552) &&
    (r.payload.drop r.length.toNat).all (· == 0) && payloadOk type r &&
    decide (x % ringSize + recordBytes r.length.toNat ≤ ringSize) &&
    (type != tPad || x % ringSize + recordBytes r.length.toNat == ringSize)

/-! ### The four counters (R99) -/

def evMalformed (c : W32) (d : Dev) : Dev :=
  countRaise 1 (fun d => (ctxOf d c).malformed) (fun k => modCtx c fun x => { x with malformed := k }) 1 9 0 c.toNat 4 d
def evCrcFail (c : W32) (d : Dev) : Dev :=
  countRaise 1 (fun d => (ctxOf d c).crcFail) (fun k => modCtx c fun x => { x with crcFail := k }) 1 9 0 c.toNat 0 d
def evLate (c : W32) (d : Dev) : Dev := modCtx c (fun x => { x with late := x.late.add 1 }) d
def evDup (c : W32) (d : Dev) : Dev := modCtx c (fun x => { x with duplicates := x.duplicates.add 1 }) d

/-! ### What a record does to its result -/

/-- A record taken as valid, malformed, late or a duplicate (Table 3.11). -/
inductive Taken where
  | valid | malformed | late | duplicate
  deriving DecidableEq, Repr

/-- The stream field of a layer-0 COMMIT. -/
def recStream (type : Byte) (r : Record) : Nat := if type = tCommit ∧ r.layer = 0 then rpay r 1 1 else 0

/-- The key of R98: type, layer, stream, tile. -/
def recKey (type : Byte) (r : Record) : Nat × Nat × Nat × Nat := (type.toNat, r.layer.toNat, recStream type r, r.tile.toNat)

/-- The TENSORS index that a commitment of a layer and stream names; layer 0 has the streams' own tensors, which the plan's
DIGEST checks name (Table 2.6). -/
def tensorIndex? (p : Plan) (t : Template) (layer stream : Nat) : Option Nat :=
  if layer = 0 then
    ((checksOf p t).find? fun c => c.kind == 1 && c.streamOrRelation == stream).map (·.output)
  else p.tensors.findIdx? (·.layer == layer)

/-- A COMMIT agrees with the plan, and its layer is required (Table 3.5, R66). -/
def commitOk (p : Plan) (t : Template) (r : Record) : Bool :=
  let layer := r.layer.toNat
  let stream := rpay r 1 1
  let required := if layer = 0 then decide (stream < t.inputCount) else (requiredLayers p t).contains layer && stream == 0
  match tensorIndex? p t layer stream with
  | none => false
  | some ti =>
    required && rpay r 0 1 == t.grade && rpay r 4 4 == ti && rpay r 8 4 == ((p.tensors[ti]?).map (·.tiles)).getD 0 &&
      (layer == 0 || (rpay r 0x0C 4 == 0 && rpay r 0x10 6 == 0)) &&
      (t.grade == 1 || allZero (rpayBytes r 0x28 24))

/-- The capture time in a layer-0 COMMIT. -/
def commitCapture (r : Record) : Time := ofSecNs (rpay r 0x10 6) (rpay r 0x0C 4)

/-- The result's capture time from its first record: stream 0's own, or for another stream the instant with the header's
nanoseconds nearest to its frame (R81). -/
def captureOf (type : Byte) (r : Record) : Time :=
  if type ≠ tCommit then 0
  else
    let own := commitCapture r
    if rpay r 1 1 = 0 then own
    else
      let s := secField own
      let cands := (if s = 0 then [] else [s - 1]) ++ [s, s + 1]
      let dist (a b : Nat) : Nat := if a ≤ b then b - a else a - b
      cands.foldl (fun best k =>
        let v := ofSecNs k r.captureNs.toNat
        if dist v own < dist best own then v else best) (ofSecNs s r.captureNs.toNat)

/-- Every layer-0 COMMIT of the result has arrived (R92). -/
def layer0Done (t : Template) (res : Result) : Bool :=
  (List.range t.inputCount).all fun s => (resCommit? res 0 s).isSome

/-- A commitment of stream 0 is accepted at `k0`: challenges, tensors and dependency tiles of its layer follow (Table 3.10). -/
def acceptCommit (c : W32) (seq layer : Nat) (k0 : Time) (p : Plan) (t : Template) (d : Dev) : Dev :=
  let d := modResult c seq (fun r => { r with commits := r.commits.map fun m =>
    if m.layer == layer && m.stream == 0 then { m with accepted := some k0 } else m }) d
  let d := modResult c seq (fun r => checkDeps t.grade p t layer (compareTensor t.grade p t layer r)) d
  challengeLayer c seq layer k0 p t d

/-- Under FAULT a commitment is accepted once its list is whole and its digest is the commitment (Table 3.10). -/
def tryList (c : W32) (seq layer : Nat) (p : Plan) (t : Template) (d : Dev) : Dev :=
  match resultOf? (ctxOf d c) seq with
  | none => d
  | some r =>
    match resCommit? r layer 0 with
    | none => d
    | some m =>
      let l := kget [] r.lists layer
      if t.grade = 2 ∧ m.accepted = none ∧ l.length = m.tiles ∧
          (m.value = BitVec.ofNat 256 (beNat (padTo 32 (leBytes 8 (listDigest (l.map (·.2))).toNat)))) then
        acceptCommit c seq layer (max m.arrival (kget 0 r.listAt layer)) p t d
      else d

/-- A layer-0 COMMIT names a frame of its stream: the frame is claimed. For stream 0, before capture time plus deadline, the
context keeps the claim (Table 4.5): of those too old to part two frames that are still to be judged, one. -/
def claimFrame (c : W32) (stream : Nat) (cap arr : Time) (t : Template) (d : Dev) : Dev :=
  let n := streamNo (ctxOf d c) stream
  match streamOf? d n with
  | none => d
  | some s =>
    if s.frames.any fun f => f.capture == cap then
      let d := setStream n { s with frames := s.frames.map fun f =>
        if f.capture == cap then { f with claimedBy := c :: f.claimedBy } else f } d
      if stream = 0 ∧ arr < cap + us t.deadlineUs then
        modCtx c (fun x =>
          let old := x.claims.filter fun k => decide (k + us t.deadlineUs ≤ d.geyser.now)
          let new := x.claims.filter fun k => decide (d.geyser.now < k + us t.deadlineUs)
          { x with claims := (match old.getLast? with | some k => [k] | none => []) ++ new ++ [cap] }) d
      else d
    else d

/-- COMMIT (R66, R81, R92 to R95). A second layer-0 COMMIT with the same commitment and another capture time names another
frame: the model takes it as one that carries a different commitment (notes/assumptions/47.md). Under FAULT the commitment of a
layer is accepted with its list, layer 0's too, but for a template with several streams, whose layer-0 lists no field tells
apart (notes/assumptions/12.md): there it is accepted at its arrival. -/
def takeCommit (c : W32) (seq : Nat) (r : Record) (arr : Time) (p : Plan) (t : Template) (d : Dev) : Taken × Dev :=
  match resultOf? (ctxOf d c) seq with
  | none => (.late, d)
  | some res =>
    let layer := r.layer.toNat
    let stream := if layer = 0 then rpay r 1 1 else 0
    let value : W256 := BitVec.ofNat 256 (beNat (rpayBytes r 0x20 32))
    if !commitOk p t r || (layer == 0 && stream == 0 && commitCapture r != res.capture) then (.malformed, d)
    else match resCommit? res layer stream with
    | some m =>
      if m.value = value ∧ m.capture = (if layer = 0 then commitCapture r else 0) then (.duplicate, d)
      else (.valid, modResult c seq (inconsistent p t layer) d)
    | none =>
      let alone : Bool := t.grade == 1 || (layer == 0 && decide (t.inputCount > 1))
      let m : Commitment := { layer := layer, stream := stream, tensor := rpay r 4 4, tiles := rpay r 8 4, value := value,
                              arrival := arr, accepted := if layer = 0 ∧ alone = true then some arr else none
                              capture := if layer = 0 then commitCapture r else 0 }
      let d := modResult c seq (fun r => { r with commits := r.commits ++ [m] }) d
      let d :=
        if layer = 0 then
          let d := claimFrame c stream m.capture arr t d
          if alone then d else tryList c seq layer p t d
        else if alone then acceptCommit c seq layer arr p t d
        else tryList c seq layer p t (modResult c seq (compareTensor t.grade p t layer) d)
      (.valid, d)

/-- CRC_LIST (R72, R95). The record has no stream field, so the lists of layer 0 are not kept when the template has more
than one stream (notes/assumptions/12.md). Table 3.11 has no row for a CRC_LIST under SECURE, for a layer that the plan does not
require, or with entries beyond T: the model counts it malformed and attributes it (notes/assumptions/47.md). -/
def takeCrcList (c : W32) (seq : Nat) (r : Record) (arr : Time) (p : Plan) (t : Template) (d : Dev) : Taken × Dev :=
  match resultOf? (ctxOf d c) seq with
  | none => (.late, d)
  | some res =>
    let layer := r.layer.toNat
    let first := r.tile.toNat
    let n := r.length.toNat / 8
    let tiles := ((tensorIndex? p t layer 0).bind fun i => (p.tensors[i]?).map (·.tiles)).getD 0
    let required := layer == 0 || (requiredLayers p t).contains layer
    if t.grade ≠ 2 ∨ !required ∨ first + n > tiles then (.malformed, d)
    else if layer = 0 ∧ t.inputCount > 1 then (.valid, d)
    else
      let have_ := kget [] res.lists layer
      let new := (List.range n).map fun i => (first + i, BitVec.ofNat 64 (rpay r (8 * i) 8))
      if new.any fun e => match kfind? have_ e.1 with | some v => v != e.2 | none => false then
        (.valid, modResult c seq (inconsistent p t layer) d)
      else if new.all fun e => (kfind? have_ e.1).isSome then (.duplicate, d)
      else
        let d := modResult c seq (fun r => { r with
          lists := kput r.lists layer (new.foldl (fun m e => kput m e.1 (e.2 : W64)) have_)
          listAt := kput r.listAt layer arr }) d
        (.valid, tryList c seq layer p t d)

/-- The path entries of an OPENING or DEP_TILE (Table 3.6). -/
def pathEntries (r : Record) : List W256 :=
  (List.range (rpay r 0 2)).map fun i => BitVec.ofNat 256 (beNat (rpayBytes r (0x1020 + 32 * i) 32))

/-- An arrival within the window of a layer that opened at `k0` (R89). -/
def inWindow (t : Template) (k0 arr : Time) : Bool := decide (k0 ≤ arr) && decide (arr < k0 + us t.retentionUs)

/-- OPENING (R71, R72, R89, R90). -/
def takeOpening (c : W32) (seq : Nat) (r : Record) (arr : Time) (p : Plan) (t : Template) (d : Dev) : Taken × Dev :=
  match resultOf? (ctxOf d c) seq with
  | none => (.late, d)
  | some res =>
    let layer := r.layer.toNat
    let entry : W32 := BitVec.ofNat 32 (rpay r 4 4)
    match res.challenges.find? fun h => h.layer == layer && h.tile == r.tile.toNat && h.entry == entry,
        res.windows.find? (·.1 == layer) with
    | some h, some w =>
      if !inWindow t w.2 arr then (.late, d)
      else if h.opened.isSome then (.duplicate, d)
      else
        let tile := rpayBytes r 0x20 4096
        let ok := (tileAgrees? t.grade res layer h.tile (tilesOfLayer p layer) tile (pathEntries r)).getD false
        (.valid, modResult c seq (fun r =>
          let r := { r with challenges := r.challenges.map fun g =>
            if g.entry == h.entry && g.layer == layer && g.tile == h.tile then { g with opened := some tile, arrival := arr } else g }
          if ok then r else failCheck h.check rOpeningInvalid layer h.tile r) d)
    | _, _ => (.malformed, d)

/-- DEP_TILE (R89, R90). -/
def takeDepTile (c : W32) (seq : Nat) (r : Record) (arr : Time) (p : Plan) (t : Template) (d : Dev) : Taken × Dev :=
  match resultOf? (ctxOf d c) seq with
  | none => (.late, d)
  | some res =>
    let layer := r.layer.toNat
    let entry : W32 := BitVec.ofNat 32 (rpay r 4 4)
    match res.deps.find? fun x => x.layer == layer && x.tile == r.tile.toNat && x.entry == entry with
    | none => (.malformed, d)
    | some x =>
      match res.windows.find? (·.1 == x.forLayer) with
      | none => (.malformed, d)
      | some w =>
        if !inWindow t w.2 arr then (.late, d)
        else if x.data.isSome then (.duplicate, d)
        else
          (.valid, modResult c seq (fun r' =>
            checkDeps t.grade p t layer { r' with deps := r'.deps.map fun y =>
              if y.layer == layer && y.tile == x.tile then
                { y with data := some (rpayBytes r 0x20 4096), path := pathEntries r, arrival := arr } else y }) d)

/-- TENSOR (R94, R95). A tensor that no check needs in full is malformed only where its layer or index is not the plan's; one
that names layer 0, of which Table 3.11 says nothing, is malformed too (notes/assumptions/47.md). -/
def takeTensor (c : W32) (seq : Nat) (r : Record) (arr : Time) (p : Plan) (t : Template) (d : Dev) : Taken × Dev :=
  match resultOf? (ctxOf d c) seq with
  | none => (.late, d)
  | some res =>
    let layer := r.layer.toNat
    let n := rpay r 4 2
    let ti := rpay r 0 4
    match (if layer = 0 then none else tensorIndex? p t layer 0), tensorOfLayer? p layer with
    | some k, some td =>
      if k ≠ ti ∨ !(requiredLayers p t).contains layer ∨ r.tile.toNat + n > td.tiles then (.malformed, d)
      else
        let x : TensorTiles := (resTensor? res layer).getD { layer := layer, tensor := ti }
        let new := (List.range n).map fun i => (r.tile.toNat + i, rpayBytes r (16 + 4096 * i) 4096)
        if new.any fun e => match kfind? x.tiles e.1 with | some b => b != e.2 | none => false then
          (.valid, modResult c seq (inconsistent p t layer) d)
        else if new.all fun e => (kfind? x.tiles e.1).isSome then (.duplicate, d)
        else
          let x := { x with tiles := new.foldl (fun m e => kput m e.1 (e.2 : List Byte)) x.tiles, arrival := arr }
          (.valid, modResult c seq (fun r => compareTensor t.grade p t layer
            { r with tensors := (r.tensors.filter fun y => y.layer != layer) ++ [x] }) d)
    | _, _ => (.malformed, d)

/-- The handling of a record of an accepted, open result (R81, R92, R98): a malformed one is attributed unless a valid record
of its type, layer, stream and tile has come or comes before the checks conclude. -/
def knownRecord (c : W32) (type : Byte) (r : Record) (arr : Time) (framed : Bool) (res : Result) (d : Dev) : Dev :=
  let seq := res.seq
  let key := recKey type r
  let bad (d : Dev) : Dev := evMalformed c (modResult c seq (fun q => if q.valid.contains key then q else { q with attributed := key :: q.attributed }) d)
  if res.withheld then evLate c d
  else if !framed then bad d
  else if type = tAbandon then
    concludeResult c seq (modResult c seq (addReason rEvidenceMissing) d)
  else match resultPlan? d res, resultTemplate? d res with
  | some p, some t =>
    if r.captureNs.toNat ≠ nsField res.capture then bad d
    else if !(type == tCommit && r.layer == 0) && !layer0Done t res then bad d
    else
      let (k, d) :=
        if type = tCommit then takeCommit c seq r arr p t d
        else if type = tCrcList then takeCrcList c seq r arr p t d
        else if type = tOpening then takeOpening c seq r arr p t d
        else if type = tDepTile then takeDepTile c seq r arr p t d
        else takeTensor c seq r arr p t d
      let good (d : Dev) : Dev := modResult c seq (fun q => { q with
        valid := key :: q.valid, attributed := q.attributed.filter (· != key) }) d
      match k with
      | .valid => progress c seq (good d)
      | .malformed => bad d
      | .late => evLate c d
      | .duplicate => evDup c (good d)
  | _, _ => bad d

/-! ### Acceptance (R33, R35, R36, R92, R96, R97, R263, R264) -/

/-- A new result under the plan in force for the context, of a grade. -/
def newResult (x : Context) (grade seq : Nat) (cap deadline now : Time) (checks : Nat) : Result :=
  { seq := seq, planId := x.planId, planVersion := x.planVersion, template := x.template, grade := grade, capture := cap,
    deadline := deadline, accepted := now, checks := List.replicate checks .open_ }

/-- The rate bucket at an arrival: refilled at ρ, depth 2 results (R263). One result is 1000 s of the level. -/
def rateLevelAt (x : Context) (t : Template) (arr : Time) : Nat :=
  min (2 * (1000 * sec 1)) (x.rateLevel + t.rate * (arr - x.rateAt))

/-- The unchecked-verdict bucket now (R264): 8,000 tokens a second, depth 64; one token is 1 s of the level. -/
def uncheckedAt (s : Slot) (now : Time) : Nat := min (64 * sec 1) (s.uncheckedLevel + 8000 * (now - s.uncheckedAt))

/-- A record may open a new result: framing, type, state of the context, distance (R35, R37, R92), use of its content. -/
def mayAccept (x : Context) (type : Byte) (r : Record) (framed : Bool) (p : Plan) (t : Template) : Bool :=
  let seq := r.seq.toNat
  framed && (x.state == .active || x.state == .suspended) && decide (x.accepted < seq) && decide (seq ≤ x.accepted + 64) &&
    (type == tAbandon || (type == tCommit && r.layer == 0 && commitOk p t r &&
      (rpay r 1 1 != 0 || rpay r 0x0C 4 == r.captureNs.toNat)))

/-- Tokens that accepting `seq` takes from the unchecked-verdict bucket. -/
def uncheckedCost (x : Context) (seq : Nat) (fast : Bool) : Nat := seq - x.accepted - 1 + (if fast then 1 else 0)

/-- The skipped sequences before `seq` are recorded in order as UNVERIFIED, NO_EVIDENCE (R35). -/
def recordSkipped (c : W32) (grade seq : Nat) (d : Dev) : Dev :=
  let x := ctxOf d c
  (List.range (seq - x.accepted - 1)).foldl (fun d i =>
    let q := x.accepted + 1 + i
    let d := modCtx c (fun x => { x with
      results := x.results ++ [addReason rNoEvidence (newResult x grade q 0 0 d.geyser.now 0)]
      accepted := q
      skipped := q :: x.skipped }) d
    concludeResult c q d) d

/-- Reasons that conclude a result at its acceptance: over-rate (R97), SUSPENDED and nothing of its checks (R36), ABANDON (R96), a
deadline already past (R92). -/
def firstReasons (x : Context) (type : Byte) (fast : Bool) (deadline now : Time) : W32 :=
  (if fast then rOverRate else 0) ||| (if x.state = .suspended then rSuspended else 0) |||
    (if type = tAbandon then rEvidenceMissing else if deadline ≤ now ∧ x.state ≠ .suspended then rDeadline else 0)

/-- The first record of a new result: tokens, skipped sequences, acceptance, its own handling. -/
def acceptRecord (c : W32) (type : Byte) (r : Record) (arr : Time) (t : Template) (d : Dev) : Dev :=
  let x := ctxOf d c
  let seq := r.seq.toNat
  if x.heldRecords.length ≥ 256 then d
  else
    let level := rateLevelAt x t arr
    let fast : Bool := decide (level < 1000 * sec 1)
    let cost := uncheckedCost x seq fast
    let have_ := uncheckedAt (slotOf d x.slot) d.geyser.now
    if cost * sec 1 > have_ then
      evMalformed c (modSlot x.slot (fun s => { s with unchecked := s.unchecked.add 1 }) d)
    else
      let d := if cost = 0 then d else
        modSlot x.slot (fun s => { s with uncheckedLevel := have_ - cost * sec 1, uncheckedAt := d.geyser.now }) d
      let d := modCtx c (fun x => { x with
        rateLevel := if fast then level else level - 1000 * sec 1
        rateAt := arr }) d
      let d := recordSkipped c t.grade seq d
      let cap := captureOf type r
      let deadline := if type = tAbandon then 0 else cap + us t.deadlineUs
      let why := firstReasons x type fast deadline d.geyser.now
      let d := modCtx c (fun x => { x with
        results := x.results ++ [{ newResult x t.grade seq cap deadline d.geyser.now t.checkCount with
          reasons := why, overRate := fast }]
        accepted := seq }) d
      if why ≠ 0 then concludeResult c seq d
      else match resultOf? (ctxOf d c) seq with
        | some res => knownRecord c type r arr true res d
        | none => d

/-- A record of a queue, taken: framing, owner, and whether its result is open, concluded, skipped or new. What is due by now
comes first (R533). -/
def handleRecord (c : W32) (type : Byte) (r : Record) (arr : Time) (framed : Bool) (d0 : Dev) : Dev :=
  let d := expireDue c d0
  let x := ctxOf d c
  let seq := r.seq.toNat
  if r.context ≠ c then evMalformed c d
  else if type = tPad then (if framed then d else evMalformed c d)
  else match resultOf? x seq with
  | some res => knownRecord c type r arr framed res d
  | none =>
    if seq ≤ x.accepted then
      if x.skipped.contains seq ∨ seq < x.firstSeq then evMalformed c d else evLate c d
    else match planOf? d x.planId x.planVersion, templateOf? d x.planId x.planVersion x.template with
      | some l, some t =>
        if mayAccept x type r framed l.plan t then acceptRecord c type r arr t d else evMalformed c d
      | _, _ => evMalformed c d

/-- A record whose acceptance waits for its ACCEPT record's confirmation (R474), or for a mirror at all (R476). -/
def mustMirror (c : W32) (type : Byte) (r : Record) (framed : Bool) (d : Dev) : Bool :=
  let x := ctxOf d c
  (hasMirror d || d.fabric.unmirrored || journalFull d (.accept 0 0)) && (resultOf? x r.seq.toNat).isNone &&
    match planOf? d x.planId x.planVersion, templateOf? d x.planId x.planVersion x.template with
    | some l, some t => mayAccept x type r framed l.plan t
    | _, _ => false

/-- The record at the consumer offset is consumed and handled (R77 to R79, R98, R100). `confirmed` says that the ACCEPT
record of the front record has been confirmed. -/
def consumeRecord (c : W32) (type : Byte) (r : Record) (confirmed : Bool) (d : Dev) : Dev :=
  let x := ctxOf d c
  match x.batches with
  | [] => d
  | (end_, arr) :: rest =>
    let q := queueOf d x.evQueue
    let body := recordBody type r
    if crc32c body ≠ r.trailer then
      evCrcFail c (modCtx c (fun x => { x with batches := rest })
        (modQueue x.evQueue (fun q => { q with consumer := end_ }) d))
    else
      let framed := framingOk type r q.consumer (2 ^ q.exp)
      if mustMirror c type r framed d && (!confirmed || d.fabric.unmirrored) then
        let d := if d.fabric.unmirrored || journalFull d (.accept 0 0) then d
          else
            let d := journalAdd c (.accept r.seq.toNat (captureOf type r)) d
            modCtx c (fun x => { x with blockedOn := some (d.fabric.nextSeq - 1) }) d
        modCtx c (fun x => { x with blocked := (type, r) :: x.blocked }) d
      else
        let next := min end_ (q.consumer + recordBytes r.length.toNat)
        let d := modCtx c (fun x => { x with batches := if next = end_ then rest else x.batches })
          (modQueue x.evQueue (fun q => { q with consumer := next }) d)
        handleRecord c type r arr framed d

/-- The SK7340 takes a record from a queue: nothing in safe state or during a restart (R100), nothing where no record is
published; behind a blocked record it waits. -/
def takeRecord (c : W32) (type : Byte) (r : Record) (d : Dev) : Dev :=
  let x := ctxOf d c
  if x.state = .closed ∨ !serving d ∨ d.fabric.isolated then d
  else if x.blocked.isEmpty then consumeRecord c type r false d
  else modCtx c (fun x => { x with blocked := x.blocked ++ [(type, r)] }) d

/-- Blocked records are taken in order after a confirmation or a new mirror, at most `fuel`. -/
def drainBlocked (c : W32) : Nat → Bool → Dev → Dev
  | 0, _, d => d
  | fuel + 1, confirmed, d =>
    let x := ctxOf d c
    match x.blocked with
    | [] => d
    | (type, r) :: rest =>
      let ok := (x.blockedOn.map fun n => decide (n ≤ d.fabric.confirmed)).getD true
      if !ok || (x.blockedOn.isNone && journalFull d (.accept 0 0)) || d.fabric.unmirrored || d.fabric.isolated || !serving d then d
      else
        let flag := confirmed || x.blockedOn.isSome || !hasMirror d
        let d := modCtx c (fun x => { x with blocked := [], blockedOn := none }) d
        let d := consumeRecord c type r flag d
        let d := modCtx c (fun x => { x with blocked := x.blocked ++ rest }) d
        drainBlocked c fuel false d

def drainAllBlocked (d : Dev) : Dev :=
  d.contexts.foldl (fun d e => drainBlocked (BitVec.ofNat 32 e.1) e.2.blocked.length false d) d

/-! ### Subject writes (R15, R16, R75, R76, R265, R438, R541) -/

/-- A write from a requester that the slot is not bound to: discarded, counted, class 5 (R16). -/
def foreignWrite (slot : Nat) (requester : W16) (d : Dev) : Dev :=
  securityAttn 3 slot requester.toNat 0 (modSlot slot (fun s => { s with foreign := s.foreign.add 1 }) d)

def boundTo (d : Dev) (slot : Nat) (requester : W16) : Bool := (slotOf d slot).requester == some requester

/-- The producer offset of a context's evidence queue (R75 to R77): one 8-byte write without Relaxed Ordering. -/
def producerUpdate (requester : W16) (c : W32) (value size : Nat) (boundary relaxed : Bool) (d : Dev) : Dev :=
  let x := ctxOf d c
  if x.state = .closed then d
  else if !boundTo d x.slot requester then foreignWrite x.slot requester d
  else
    let q := queueOf d x.evQueue
    if size = 8 ∧ value % 64 = 0 ∧ q.producer < value ∧ value ≤ q.consumer + 2 ^ q.exp ∧ boundary = true ∧
        relaxed = false then
      modCtx c (fun x => { x with batches := x.batches ++ [(value, d.geyser.now)] })
        (modQueue x.evQueue (fun q => { q with producer := value }) d)
    else evMalformed c d

/-- The consumer count of a context's challenge queue (R541); held entries follow (R88). -/
def challengeConsumer (requester : W16) (c : W32) (value : Nat) (d : Dev) : Dev :=
  let x := ctxOf d c
  if x.state = .closed then d
  else if !boundTo d x.slot requester then foreignWrite x.slot requester d
  else
    let q := queueOf d x.chQueue
    if q.consumer ≤ value ∧ value ≤ q.producer then
      drainEntries c x.heldEntries.length (modQueue x.chQueue (fun q => { q with consumer := value }) d)
    else evMalformed c d

/-- Cause 2 MONITOR (R436). -/
def monitorAttn (m fault : Nat) (x : Monitor) (d : Dev) : Dev :=
  raiseAttn 1 2 (leBytes 2 m ++ [BitVec.ofNat 8 x.kind, BitVec.ofNat 8 fault] ++ leBytes 4 x.index ++ leBytes 4 x.count ++
    leBytes 2 x.minimum ++ leBytes 2 x.maximum) d

/-- MONITOR_WINDOW_CLOSE: too few check-ins signal CHECKIN_TOO_FEW; the next window begins. -/
def monitorClose (m : Nat) (d : Dev) : Dev :=
  match kfind? d.watch.monitors m with
  | none => d
  | some x =>
    if x.suspended then d
    else
      let d := advance (x.start + (x.index + 1) * us x.windowUs) d
      let d := if x.count < x.minimum then monitorAttn m 1 x (signal 742 d) else d
      { d with watch := { d.watch with monitors := kput d.watch.monitors m { x with index := x.index + 1, count := 0 } } }

/-- The windows of a monitor that have closed by now and have not been concluded close first (R4, R533). -/
def closeDue (m : Nat) (d : Dev) : Dev :=
  match kfind? d.watch.monitors m with
  | none => d
  | some x => (List.range ((d.geyser.now - x.start) / max 1 (us x.windowUs) - x.index)).foldl (fun d _ => monitorClose m d) d

/-- A check-in counted in a monitor's current window; the first above the maximum signals CHECKIN_TOO_MANY. -/
def countIn (m : Nat) (d : Dev) : Dev :=
  match kfind? d.watch.monitors m with
  | none => d
  | some x =>
    if x.suspended then d
    else
      let y := { x with count := x.count + 1 }
      let d := { d with watch := { d.watch with monitors := kput d.watch.monitors m y } }
      if y.count = y.maximum + 1 then monitorAttn m 2 y (signal 743 d) else d

/-- A check-in (R435). -/
def countCheckin (m : Nat) (d : Dev) : Dev := countIn m (closeDue m d)

/-- A write into a check-in page (R438). -/
def checkinWrite (requester : W16) (slot offset : Nat) (value : W32) (size : Nat) (d : Dev) : Dev :=
  let refuse (d : Dev) : Dev :=
    securityAttn 4 slot requester.toNat 0 (modSlot slot (fun s => { s with checkinRefused := s.checkinRefused.add 1 }) d)
  if !boundTo d slot requester then foreignWrite slot requester d
  else
    let m := value.toNat % 65536
    match kfind? d.watch.monitors m with
    | some x =>
      if offset = 0 ∧ size = 4 ∧ value.toNat / 65536 = 65535 - m ∧ x.kind = 2 ∧ m / 2048 = slot then countCheckin m d
      else refuse d
    | none => refuse d

/-- The context whose evidence ring, or control block, holds a BAR2 offset. -/
def ringAt? (d : Dev) (off : Nat) : Option (W32 × Context) :=
  ((d.contexts.filter fun e => e.2.state != .closed).find? fun e =>
    let q := queueOf d e.2.evQueue
    decide (q.base.toNat ≤ off) && decide (off < q.base.toNat + 2 ^ q.exp)).map fun e => (BitVec.ofNat 32 e.1, e.2)
def controlAt? (d : Dev) (off : Nat) : Option (W32 × Context × Bool × Nat) :=
  (d.contexts.filter fun e => e.2.state != .closed).findSome? fun e =>
    let a := (queueOf d e.2.evQueue).access
    let b := (queueOf d e.2.chQueue).access
    if a ≤ off ∧ off < a + 64 then some (BitVec.ofNat 32 e.1, e.2, true, off - a)
    else if b ≤ off ∧ off < b + 64 then some (BitVec.ofNat 32 e.1, e.2, false, off - b)
    else none

/-- The ingress bucket's level now (R265): bytes, in units of 1 s. -/
def ingressAt (s : Slot) (now : Time) : Nat :=
  min (s.ingressDepth * sec 1) (s.ingressLevel + s.ingressRate * (now - s.ingressAt))

/-- Evidence bytes take their tokens, or are discarded and counted (R265). -/
def takeIngress (slot size : Nat) (d : Dev) : Bool × Dev :=
  let s := slotOf d slot
  let level := ingressAt s d.geyser.now
  if level < size * sec 1 then
    (false, countRaise 1 (fun d => (slotOf d slot).discards) (fun k => modSlot slot fun s => { s with discards := k }) 1
      10 (0x0200 + slot) 0 0 d)
  else (true, modSlot slot (fun s => { s with ingressLevel := level - size * sec 1, ingressAt := d.geyser.now }) d)

/-- A write of `size` bytes to a control block of an open context, by the requester its slot is bound to: it takes its bytes from the
slot's ingress bucket (R16, R265), then has the effect `f`. -/
def viaIngress (requester : W16) (c : W32) (size : Nat) (f : Dev → Dev) (d : Dev) : Dev :=
  let x := ctxOf d c
  if x.state = .closed then d
  else if !boundTo d x.slot requester then foreignWrite x.slot requester d
  else
    let (ok, d) := takeIngress x.slot size d
    if ok then f d else d

/-- A write that R76 discards is counted and has no other effect. -/
def strayWrite (slot : Nat) (d : Dev) : Dev := modSlot slot (fun s => { s with stray := s.stray.add 1 }) d

/-- A write to BAR2 (R15, R16, R76, R265, R438). Every write of a bound slot below its check-in page takes its bytes from the
slot's ingress bucket. A write to a control block at another place or of another size than the field the subject writes there
is counted as malformed: R74 calls those bytes reserved and says no more (notes/assumptions/47.md). -/
def bar2 (requester : W16) (off size : Nat) (value : W64) (boundary relaxed : Bool) (d : Dev) : Dev :=
  let slot := off / 0x80000000
  if off ≥ 0x100000000 then d
  else if !boundTo d slot requester then foreignWrite slot requester d
  else if off % 0x80000000 ≥ 0x7FFFF000 then
    checkinWrite requester slot (off % 0x80000000 - 0x7FFFF000) (value.setWidth 32) size d
  else
    let (ok, d) := takeIngress slot size d
    if !ok then d
    else match controlAt? d off, ringAt? d off with
    | some (c, _, true, o), _ =>
      if o = 0 then producerUpdate requester c value.toNat size boundary relaxed d else evMalformed c d
    | some (c, _, false, o), _ =>
      if o = 8 ∧ size = 8 then challengeConsumer requester c value.toNat d else evMalformed c d
    | none, some (_, x) =>
      let q := queueOf d x.evQueue
      let n := 2 ^ q.exp
      let at_ := (off - q.base.toNat + n - q.consumer % n) % n
      if q.producer > q.consumer ∧ (at_ < q.producer - q.consumer ∨ at_ + size > n) then strayWrite slot d else d
    | none, none => strayWrite slot d

/-! ### The commands -/

def execCommit (at_ : Time) (queue : W32) (r : Record) (s : State) : Host.Outcome State Fault Refusal :=
  .next (onDevZ (fun d => takeRecord queue tCommit r (advance at_ d)) s)

def execCrcList (at_ : Time) (queue : W32) (r : Record) (s : State) : Host.Outcome State Fault Refusal :=
  .next (onDevZ (fun d => takeRecord queue tCrcList r (advance at_ d)) s)

def execOpening (at_ : Time) (queue : W32) (r : Record) (s : State) : Host.Outcome State Fault Refusal :=
  .next (onDevZ (fun d => takeRecord queue tOpening r (advance at_ d)) s)

def execDepTile (at_ : Time) (queue : W32) (r : Record) (s : State) : Host.Outcome State Fault Refusal :=
  .next (onDevZ (fun d => takeRecord queue tDepTile r (advance at_ d)) s)

def execTensor (at_ : Time) (queue : W32) (r : Record) (s : State) : Host.Outcome State Fault Refusal :=
  .next (onDevZ (fun d => takeRecord queue tTensor r (advance at_ d)) s)

def execAbandon (at_ : Time) (queue : W32) (r : Record) (s : State) : Host.Outcome State Fault Refusal :=
  .next (onDevZ (fun d => takeRecord queue tAbandon r (advance at_ d)) s)

def execEvidencePad (at_ : Time) (queue : W32) (type : Byte) (r : Record) (s : State) :
    Host.Outcome State Fault Refusal :=
  .next (onDev (fun d => takeRecord queue type r (advance at_ d)) s)

def execEvidenceProducerUpdate (at_ : Time) (requester : W16) (context : W32) (value : W64) (size : Nat)
    (form : WriteForm) (s : State) : Host.Outcome State Fault Refusal :=
  .next (onDev (fun d => viaIngress requester context size (producerUpdate requester context value.toNat size form.boundary form.relaxed)
    (advance at_ d)) s)

def execChallengeConsumerWrite (at_ : Time) (requester : W16) (context : W32) (value : W64) (s : State) :
    Host.Outcome State Fault Refusal :=
  .next (onDev (fun d => viaIngress requester context 8 (challengeConsumer requester context value.toNat) (advance at_ d)) s)

def execSubjectCheckin (at_ : Time) (requester : W16) (slot : Fin 2) (offset : Nat) (value : W32) (s : State) :
    Host.Outcome State Fault Refusal :=
  .next (onDev (fun d => checkinWrite requester slot.val offset value 4 (advance at_ d)) s)

def execBar2Write (at_ : Time) (requester : W16) (offset : Nat) (w : PostedWrite) (form : WriteForm) (s : State) :
    Host.Outcome State Fault Refusal :=
  .next (onDev (fun d => bar2 requester offset w.size w.value form.boundary form.relaxed (advance at_ d)) s)

/-- The window of a layer's openings closes at K + retention (R89). -/
def closeWindow (c : W32) (seq layer : Nat) (d : Dev) : Dev :=
  match resultOf? (ctxOf d c) seq with
  | none => d
  | some r =>
    match resultTemplate? d r, r.windows.find? (·.1 == layer) with
    | some t, some w =>
      let d := advance (w.2 + us t.retentionUs) d
      if inSafe d then d else progress c seq d
    | _, _ => d

def execOpeningWindowClose (context : W32) (seq : W64) (layer : W16) (s : State) : Host.Outcome State Fault Refusal :=
  .next (onDevZ (closeWindow context seq.toNat layer.toNat) s)

/-- The deadline instant of a result (R53, R91). -/
def deadlineNow (c : W32) (seq : Nat) (d : Dev) : Dev :=
  match resultOf? (ctxOf d c) seq with
  | none => d
  | some r => settle c seq (advance r.deadline d)

def execDeadlineExpiry (context : W32) (seq : W64) (s : State) : Host.Outcome State Fault Refusal :=
  .next (onDevZ (deadlineNow context seq.toNat) s)

end Sys2Proof.Machine
end

