-- ==== Sys2Proof/Machine/Kernels.lean ====
section
/-! DEFINITION. Windows and kernels as commands (04 R117 to R121, 08 R203 to R210, 10 R252 to R255): a window opens and
closes, a kernel completes, a kernel is re-run. -/

namespace Sys2Proof.Machine

open Sys2Proof

/-! ### The close of a window (R207, R229, R252) -/

/-- PAIR_ERR and PAIR_LOC capture a mismatch (R232). -/
def capturePair (n kind group bundle window : Nat) (d : Dev) : Dev :=
  let rerun := ((runOn? d n).map (·.rerun)).getD false
  let kernel := ((runOn? d n).map (·.op.kernel)).getD 0
  let body : W32 := BitVec.ofNat 32 (bit 29 rerun + kind * 2 ^ 27 + bundle % 64 * 2 ^ 21 + min window 8191 * 2 ^ 8)
  let loc : W64 := BitVec.ofNat 64 (kernel % 65536 * 2 ^ 48 + group % 2 ^ 32)
  let d := noteCapture (.pairErr (Fin.ofNat 66 n)) (coreOf d n).pairErr body loc d
  modCore n (fun c => { c with
    pairErr := captureWord c.pairErr body
    pairLoc := if c.pairErr &&& 0x80000000 = 0 then loc else c.pairLoc }) d

/-- A window in the store without a partner there. -/
def loneWindow? (l : List StoredSig) : Option StoredSig :=
  l.find? fun s => !(l.any fun t => t.group == s.group && t.index == s.index && t.window == s.window && t.passB != s.passB)

/-- A kernel that is not complete when the window of its core closes, or becomes complete at that instant or later (R207). A
window in the store without its partner is PARTNER_MISSING (R228, R229); in a re-run it fences the core (R230). -/
def overrun (r : Run_) (d : Dev) : Dev :=
  let n := r.cores.foldl min 64
  let lone := r.cores.filter fun m => !(coreOf d m).split && (loneWindow? (coreOf d m).store).isSome
  let d := lone.foldl (fun d m =>
    match loneWindow? (coreOf d m).store with
    | some s => signal (sCore m 5) (capturePair m 1 s.group s.index s.window d)
    | none => d) d
  let d := modRun n (fun r => { r with stopped := false }) d
  let d := trapOn n { kind := tOverrun } d
  if r.rerun then lone.foldl (fun d m => fenceCore m d) d else d

/-- Golden operations that still wait in the window of a core when it closes are missed. R121 lists poisoned data and a fenced
core only; a run that its due frame did not make is taken as missed too (notes/assumptions/47.md). -/
def missWaiting (n : Nat) (d : Dev) : Dev :=
  let mine := d.sched.golden.filter fun g => g.1 == n
  let d := modSched (fun s => { s with golden := s.golden.filter fun g => g.1 != n }) d
  mine.foldl (fun d g => match g.2.work with | .golden id v i _ => missGolden id v i d | .check .. => d) d

/-- The window of core `n` closes at its close instant. -/
def closeCore (n : Nat) (d : Dev) : Dev :=
  match (coreOf d n).window with
  | none => d
  | some w =>
    let d := advance w.closes d
    let d := match runOn? d n with
      | some r => overrun r d
      | none => d
    modCore n (fun c => { c with window := none }) (missWaiting n d)

/-- WINDOW_CLOSE (R252). -/
def execWindowClose (cluster : Fin 16) (core : Fin 4) (s : State) : Host.Outcome State Fault Refusal :=
  .next (onDevZ (closeCore (4 * cluster.val + core.val)) s)

/-! ### Golden runs that fall due (R117, R118, R121) -/

/-- The golden rotation of a partition: its unfenced cores, in order; and the ports in TAP role. -/
def rotation (d : Dev) (q : Partition) : List Nat := coresOf d q
def tapPorts (d : Dev) : List Nat := (List.range 4).filter fun i => (portOf d i).role == .tap

/-- The member of a list that run `j` of the entry at position `g` of `G` uses (R118). -/
def turn (l : List Nat) (g big j : Nat) : Option Nat := l[(g * l.length / max 1 big + j) % max 1 l.length]?

/-- What the reload of poisoned golden data must name: the golden input, a weight blob, or the plan's own copy (R121). -/
def goldenPoison? (d : Dev) (l : LoadedPlan) (g : GoldenEntry) : Option Nat :=
  let bad (b : Nat) : Bool := ((blobOf? d l.plan.identifier l.plan.version b).map fun b => !b.bad.isEmpty).getD false
  let weights := ((goldenKernel? l.plan g).map fun k => (k.args.filter (·.kind == 2)).map (·.index)).getD []
  if bad g.inputBlob.toNat then some g.inputBlob.toNat
  else match weights.find? bad with
    | some b => some b
    | none => if ((goldenKernel? l.plan g).map (codePoisoned l)).getD false then some 0xFFFFFFFF else none

/-- The golden entry, kernel and blobs can be used; otherwise the run is missed (R121). -/
def goldenUsable (d : Dev) (l : LoadedPlan) (g : GoldenEntry) : Bool :=
  match goldenKernel? l.plan g with
  | some k => kernelReady d l.plan.identifier l.plan.version k && !kernelPoisoned d l.plan.identifier l.plan.version k &&
      ((blobOf? d l.plan.identifier l.plan.version g.inputBlob.toNat).map fun b => b.usable && b.bad.isEmpty).getD false
  | none => false

/-- A run of the entry at position `pos` of its plan falls due in major frame `n` of partition `p`, and its core's GOLDEN
window opens on the cores `here`. -/
def dueGolden (p : Nat) (q : Partition) (n : Int) (here : List Nat) (l : LoadedPlan) (big pos : Nat) (g : GoldenEntry)
    (d : Dev) : Dev :=
  match kfind? l.start p with
  | none => d
  | some s =>
    let j := kget 0 l.runs g.index
    let due := decide (n ≥ s) && decide ((n - s) % (max 1 g.period : Nat) = (g.phase : Int)) && (kfind? l.ranIn g.index != some n)
    let mark (d : Dev) : Dev := modPlans (fun x => { x with loaded := x.loaded.map fun y =>
      if y.plan.identifier == l.plan.identifier && y.plan.version == l.plan.version then
        { y with runs := kput y.runs g.index (j + 1), ranIn := kput y.ranIn g.index n } else y }) d
    if !due then d
    else match turn (rotation d q) pos big j, turn (tapPorts d) pos big j with
      | some core, some port =>
        if !here.contains core then d
        else if goldenUsable d l g then
          let o : Operation := { work := .golden l.plan.identifier l.plan.version g.index port, partition := p,
                                 planId := l.plan.identifier, planVersion := l.plan.version,
                                 section_ := g.kernelSection, kernel := g.kernel, trigger := d.geyser.now }
          modSched (fun s => { s with golden := s.golden ++ [(core, o)] }) (mark d)
        else
          let d := mark d
          missGolden l.plan.identifier l.plan.version g.index (match goldenPoison? d l g with
            | some b => reloadAttn l.plan.identifier.toNat l.plan.version.toNat b 0 d
            | none => d)
      | _, _ => missGolden l.plan.identifier l.plan.version g.index (mark d)

/-- The entries of every loaded plan that fall due with this window, plans in order, entries by index. -/
def dueAll (p : Nat) (q : Partition) (n : Int) (here : List Nat) (d : Dev) : Dev :=
  d.plans.loaded.foldl (fun d l =>
    let mine := l.plan.golden.filter (·.partition == p)
    (indexed mine).foldl (fun d e => dueGolden p q n here l mine.length e.1 e.2 d) d) d

/-- Entries with two misses in a row, fences among them, raise SELFTEST_STARVED. -/
def starvedAll (d : Dev) : Dev :=
  d.plans.loaded.foldl (fun d l => l.misses.foldl (fun d e => starved l.plan.identifier l.plan.version e.1 d) d) d

/-! ### The start of a window (R252, R427) -/

/-- A core's watchdog is released at its first window after a restart (R427). -/
def releaseWd (n : Nat) (d : Dev) : Dev :=
  let w := uwdOf d n
  if w.state = .held then modUwd n (fun w => { w with state := .running, last := d.geyser.now }) d else d

/-- The partition whose major frame a window of a cluster follows: its own, or, for SELFTEST, the cluster's (R262). -/
def framePart? (d : Dev) (cluster : Nat) (w : Window) : Option Partition :=
  if w.partition = 0xFF then (d.sched.parts.find? fun e => (clustersOf e.2.mask).contains cluster).map (·.2)
  else partOf? d w.partition

/-- Window `w` of a cluster opens in major frame `n`: each of its cores zeroes its state and works for the window's
partition. -/
def openWindow (cluster : Nat) (w : Window) (q : Partition) (n : Int) (d : Dev) : Dev :=
  let opens := ((q.epoch : Int) + n * us q.majorUs + ns w.start).toNat
  let d := advance opens d
  let here := ((List.range 4).filter fun i => w.mask.testBit i).map (4 * cluster + ·)
  let d := here.foldl (fun d c =>
    if isFenced d c then d
    else
      let d := releaseWd c (wipeCore c (closeCore c d))
      let cw : CoreWindow := { partition := w.partition, kind := w.kind, opens := opens, closes := opens + ns w.length,
                               ready := afterSteps d opens 1024, donate := w.donate }
      modCore c (fun k => { k with window := some cw }) d) d
  let d := if w.kind = .golden then dueAll w.partition q n here (starvedAll d) else d
  pump d

/-- FRAME_TABLE_WINDOW_START (R252): a frame table runs only while the device is in service (R117). A window that has
passed already does not open. -/
def windowStart (cluster window : Nat) (frame : Int) (d : Dev) : Dev :=
  match (kget [] d.sched.tables cluster)[window]? with
  | none => d
  | some w =>
    match framePart? d cluster w with
    | none => d
    | some q =>
      if !serving d ∨ (d.geyser.now : Int) ≥ q.epoch + frame * us q.majorUs + ns (w.start + w.length) then d
      else openWindow cluster w q frame d

def execFrameTableWindowStart (cluster : Fin 16) (window : Nat) (frame : Int) (s : State) : Host.Outcome State Fault Refusal :=
  .next (onDevZ (windowStart cluster.val window frame) s)

/-! ### The completion of a kernel (R120, R204, R252) -/

/-- The output of a golden run: SM3 over its canonical byte stream (Table 4.6). -/
def goldenDigest (d : Dev) (p : Plan) (g : GoldenEntry) (u : RunUpset) : W256 :=
  let stored := ((blobOf? d p.identifier p.version g.inputBlob.toNat).map (·.bytes)).getD []
  let inputs := (indexed (tilesOf (stored.length / 4096 + 1) stored)).map fun e => (0, 0, e.1, e.2)
  match goldenKernel? p g, p.tensors[g.outputTensor]? with
  | some k, some td =>
    Config.sm3 (jobOutput { bytes := k.bytes, inputs := inputs, weights := weightsOf d p.identifier p.version k } u g.outputTensor td)
  | _, _ => Config.sm3 []

/-- A golden run is complete: its root and digest are compared (R118, R120); the input of a re-run has been compared before. -/
def goldenResult (id v : W64) (index : Nat) (rerun : Bool) (u : RunUpset) (d : Dev) : Dev :=
  match goldenEntry? d id v index with
  | none => d
  | some (p, g) =>
    let d := clearMiss id v index d
    let d := if rerun then d else goldenInput id v index u.root d
    if goldenDigest d p g u = g.outputDigest then d else signal 753 d

/-- The run of core `n` is complete: its cores are free, and what it was for follows. -/
def finishRun (r : Run_) (u : RunUpset) (d : Dev) : Dev :=
  let d := endRun r d
  match r.op.work with
  | .check c s i => useOutput c s i u d
  | .golden id v i _ => goldenResult id v i r.rerun u d

/-- The kernel of a run is complete: every bundle of its grid has ended, every drain it started has been written, every transfer it
programmed has finished and posted (R204), and on a PAIRED core every signature window has compared equal (R219). A store or an
atomic is complete when it has issued. -/
def runComplete (d : Dev) (r : Run_) (k : Kernel) : Bool :=
  decide (gridGroups k ≤ r.nextGroup) &&
    (r.cores.all fun n =>
      let c := coreOf d n
      c.bundles.isEmpty && c.store.isEmpty && c.posts.isEmpty && c.engines.all fun e => e.2.op.isNone) &&
    d.cores.dma.all fun e => !(e.2.busy && r.cores.contains e.2.core)

/-- The instant at which the time of a run on a core ends: the close of the window, or 1,024 steps before it for a donated run
(R254). -/
def runEnds (d : Dev) (r : Run_) (w : CoreWindow) : Bool :=
  decide (w.closes ≤ if r.donated then afterSteps d d.geyser.now 1024 else d.geyser.now)

/-- KERNEL_COMPLETE: a kernel that is complete hands on its outputs, unless its time has ended. -/
def completeOn (n : Nat) (u : RunUpset) (d : Dev) : Dev :=
  match runOn? d n with
  | none => d
  | some r =>
    match opKernel? d r.op with
    | none => d
    | some k =>
      if r.stopped || !runComplete d r k then d
      else match (coreOf d n).window with
        | some w => if runEnds d r w then overrun r d else pump (finishRun r u d)
        | none => pump (finishRun r u d)

def execKernelComplete (at_ : Time) (core : Fin 64) (upset : RunUpset) (s : State) : Host.Outcome State Fault Refusal :=
  .next (onDevZ (fun d => completeOn core.val upset (advance at_ d)) s)

/-! ### Re-runs (R205) -/

/-- KERNEL_RERUN: the same kernel starts once more on the same cores, in the re-run reserve of its window. -/
def rerunOn (n : Nat) (d : Dev) : Dev :=
  match runOn? d n with
  | none => d
  | some r =>
    match opKernel? d r.op with
    | none => d
    | some k =>
      if !r.stopped || r.rerun || !serving d then d
      else
        let used (w : CoreWindow) : CoreWindow := { w with rerunUsed := true }
        let d := r.cores.foldl (fun d m => modCore m (fun c => { c with window := c.window.map used }) d) (endRun { r with donated := false } d)
        startRun k { r with stopped := false, rerun := true, outcome := none, nextGroup := 0 } d

def execKernelRerun (at_ : Time) (core : Fin 64) (s : State) : Host.Outcome State Fault Refusal :=
  .next (onDevZ (fun d => rerunOn core.val (advance at_ d)) s)

end Sys2Proof.Machine
end

