-- ==== Sys2Proof/Machine/Tap.lean ====
section
/-! DEFINITION. The sensor tap (04 R102 to R114, R538): packets, reassembly, frame digests, notices, slots, silence and
unclaimed frames. A frame's ring slot in HBM is held here as the frame itself. -/

namespace Sys2Proof.Machine

open Sys2Proof

/-! ### Pixel groups (R105, Table 4.3) -/

/-- Bytes and pixels of a pixel group on the wire. -/
def groupBytes (s : Stream) : Nat :=
  if s.sampling = 3 then (if s.depth = 8 then 4 else if s.depth = 10 then 5 else 6)
  else (if s.depth = 8 then 3 else if s.depth = 10 then 15 else 9)
def groupPixels (s : Stream) : Nat :=
  if s.sampling = 3 then 2 else (if s.depth = 8 then 1 else if s.depth = 10 then 4 else 2)

/-- Pixel groups of a line and of a frame. -/
def groupsPerLine (s : Stream) : Nat := s.width / groupPixels s
def groupCount (s : Stream) : Nat := groupsPerLine s * s.height

/-- One pixel group unpacked: its samples in wire order, the first in the most significant bits (RFC 4175), as uint8 at
depth 8 and as uint16 otherwise. -/
def unpackGroup (s : Stream) (b : List Byte) : List Byte :=
  let n := b.length * 8 / max 1 s.depth
  let v := beNat b
  (List.range n).flatMap fun i =>
    leBytes (if s.depth = 8 then 1 else 2) (v / 2 ^ (b.length * 8 - s.depth * (i + 1)) % 2 ^ s.depth)

/-! ### Notices (R84, R100, R538) -/

/-- A FRAME_NOTICE is posted to each context bound to a stream; outside service it is withheld. Its stream index is the
device-wide one of Table 4.2: the manual does not say whether it is that or the context's input index of Table 3.5
(notes/assumptions/47.md). -/
def noticeFrame (stream status : Nat) (rtp : W32) (cap : Time) (d : Dev) : Dev :=
  d.contexts.foldl (fun d e =>
    let c : W32 := BitVec.ofNat 32 e.1
    if !e.2.streams.contains stream || e.2.state == .closed then d
    else if serving d then (postEntry c 0 (.frameNotice stream status rtp cap) d).2
    else modCtx c (fun x => { x with withheldNotices := x.withheldNotices ++ [(cap, stream, status, rtp)] }) d) d

/-- The notice with the earliest capture time goes first. -/
def insertNotice (n : Time × Nat × Nat × W32) : List (Time × Nat × Nat × W32) → List (Time × Nat × Nat × W32)
  | [] => [n]
  | m :: l => if n.1 < m.1 then n :: m :: l else m :: insertNotice n l

/-- Withheld notices are posted at the resumption, in increasing capture time. -/
def postWithheld (d : Dev) : Dev :=
  d.contexts.foldl (fun d e =>
    let c : W32 := BitVec.ofNat 32 e.1
    let l := e.2.withheldNotices.foldl (fun l n => insertNotice n l) []
    l.foldl (fun d n => (postEntry c 0 (.frameNotice n.2.1 n.2.2.1 n.2.2.2 n.1) d).2)
      (modCtx c (fun x => { x with withheldNotices := [] }) d)) d

/-! ### Failing and releasing frames (R108, R110) -/

/-- The causes of Table 4.4. -/
inductive FailCause where
  | timeout | superseded | overlap | geometry | ringFull
  deriving DecidableEq, Repr

def countFail (k : FailCause) (s : Stream) : Stream :=
  match k with
  | .timeout => { s with timeout := s.timeout.add 1 }
  | .superseded => { s with superseded := s.superseded.add 1 }
  | .overlap => { s with overlap := s.overlap.add 1 }
  | .geometry => { s with geometry := s.geometry.add 1 }
  | .ringFull => { s with ringFull := s.ringFull.add 1 }

def modStream (n : Nat) (f : Stream → Stream) (d : Dev) : Dev :=
  match streamOf? d n with
  | some s => setStream n (f s) d
  | none => d

/-- A frame fails reassembly: it leaves the ring, is counted, and its notice says FAILED; checks that waited for it see it
missing (R113). -/
def failFrame (n : Nat) (rtp : W32) (cap : Time) (k : FailCause) (d : Dev) : Dev :=
  let d := modStream n (fun s => countFail k { s with frames := s.frames.filter fun f =>
    !(f.rtp == rtp && f.status == .assembling) }) d
  progressStream n (noticeFrame n 1 rtp cap d)

/-- Frames whose assembly limit has passed fail; slots whose hold time has passed are free (R108, R110). -/
def expireFrames (n : Nat) (d : Dev) : Dev :=
  match streamOf? d n with
  | none => d
  | some s =>
    let late := s.frames.filter fun f => f.status == .assembling && decide (f.capture + us s.limitUs ≤ d.geyser.now)
    let d := late.foldl (fun d f => failFrame n f.rtp f.capture .timeout d) d
    modStream n (fun s => { s with frames := s.frames.filter fun f =>
      f.status == .assembling || decide (d.geyser.now < f.capture + us (holdUs d n s)) }) d

/-! ### Packets (R102, R106 to R109, R114) -/

/-- The open stream of a port that a packet's address, UDP port and SSRC name; and one that address and port name. -/
def exactStream? (d : Dev) (port : Nat) (p : TapPacket) : Option (Nat × Stream) :=
  d.streams.find? fun e => e.2.port == port && e.2.dst == p.dst && e.2.udpPort == p.udpPort && e.2.ssrc == p.ssrc
def nearStream? (d : Dev) (port : Nat) (p : TapPacket) : Option (Nat × Stream) :=
  d.streams.find? fun e => e.2.port == port && e.2.dst == p.dst && e.2.udpPort == p.udpPort

/-- The forms of Table 4.1, with the stream's tag and payload type. -/
def formOk (s : Stream) (p : TapPacket) : Bool :=
  (if s.tagged then p.tags == 1 && p.vlan == s.vlan else p.tags == 0) && !p.ipv6 && !p.ipOptions && !p.fragmented &&
    decide (p.size ≤ 9216) && p.rtpVersion == 2 && !p.padding && p.csrc == 0 && p.payloadType == s.payloadType &&
    p.segments.all (fun g => !g.fbit) && decide (1 ≤ p.segments.length ∧ p.segments.length ≤ 8)

/-- `a` is newer than `b` modulo 2^32 (R109). -/
def newer (a b : W32) : Bool := decide (1 ≤ (a - b).toNat) && decide ((a - b).toNat ≤ 2147483647)

/-- A segment lies within the frame in whole pixel groups (GEOMETRY of Table 4.4). -/
def segmentOk (s : Stream) (g : LineSegment) : Bool :=
  let n := g.data.length / groupBytes s
  decide (g.line < s.height) && g.data.length % groupBytes s == 0 && g.offset % groupPixels s == 0 &&
    (s.sampling != 3 || g.offset % 2 == 0) && decide (g.offset + n * groupPixels s ≤ s.width)

/-- The pixel groups of a packet: index and wire bytes. -/
def packetGroups (s : Stream) (p : TapPacket) : List (Nat × List Byte) :=
  p.segments.flatMap fun g =>
    (List.range (g.data.length / groupBytes s)).map fun i =>
      (g.line * groupsPerLine s + g.offset / groupPixels s + i, bytesAt g.data (i * groupBytes s) (groupBytes s))

/-- A packet's groups are written into its frame. -/
def writeGroups (s : Stream) (p : TapPacket) (f : Frame) : Frame :=
  let f := (packetGroups s p).foldl (fun f g =>
    { f with groups := kput f.groups g.1 (unpackGroup s g.2), written := kput f.written g.1 p.seq }) f
  { f with marker := f.marker || p.marker }

/-- The bytes of a complete frame: its layer-0 tensor. -/
def frameStore (n : Nat) (s : Stream) (f : Frame) (d : Dev) : Dev :=
  storeBytes (allocBase d (.ring n) + f.slot * canonLen (layer0Of s)) 16 (f.groups.map (·.2)).flatten d

/-- The lowest slot of a ring that no frame holds. Which slot a frame takes the manual leaves open: DESIGN CHOICE
(notes/assumptions/49.md). -/
def freeSlot (s : Stream) : Nat := ((List.range s.slots).find? fun i => s.frames.all fun f => f.slot != i).getD 0

/-- A packet of a frame in assembly: a duplicate, a failure, or bytes that may complete the frame (R107, R108). -/
def framePacket (n : Nat) (s : Stream) (f : Frame) (p : TapPacket) (d : Dev) : Dev :=
  if f.written.any fun e => e.2 == p.seq then modStream n (fun s => { s with dupPackets := s.dupPackets.add 1 }) d
  else if !p.segments.all (segmentOk s) then failFrame n f.rtp f.capture .geometry d
  else if (packetGroups s p).any fun g => (kfind? f.written g.1).isSome then failFrame n f.rtp f.capture .overlap d
  else
    let f' := writeGroups s p f
    let whole := f'.marker && f'.written.length == groupCount s
    let f' := if whole then { f' with status := .complete, doneAt := d.geyser.now } else f'
    let d := modStream n (fun s => { s with
      frames := s.frames.map fun g => if g.rtp == f.rtp && g.status == .assembling then f' else g
      complete := if whole then s.complete.add 1 else s.complete }) d
    if whole then frameStore n s f' d else d

/-- A packet with a new RTP timestamp opens a frame: the older of two in assembly fails, and a frame without a free slot
fails at once (R106, R108, R109). -/
def openFrame (n : Nat) (p : TapPacket) (d : Dev) : Dev :=
  let cap := ns (nsOf d.geyser.now)
  let d := modStream n (fun s => { s with newest := some p.rtp }) d
  let d := match streamOf? d n with
    | some s =>
      let asm := s.frames.filter (·.status == .assembling)
      match asm with
      | f :: _ :: _ => failFrame n f.rtp f.capture .superseded d
      | _ => d
    | none => d
  match streamOf? d n with
  | none => d
  | some s =>
    if s.frames.length ≥ s.slots then
      progressStream n (noticeFrame n 1 p.rtp cap (modStream n (countFail .ringFull) d))
    else
      let f : Frame := { rtp := p.rtp, capture := cap, slot := freeSlot s }
      framePacket n s f p (setStream n { s with frames := s.frames ++ [f] } d)

/-- The gap counter of Table 4.5: how many extended sequence numbers are missing since the last valid packet; none where the
number goes back. -/
def noteSeq (seq : W32) (s : Stream) : Stream :=
  let k := (s.lastSeq.map fun l => (seq - l).toNat).getD 0
  { s with lastSeq := some seq, gap := if 1 ≤ k ∧ k < 2147483648 then s.gap.add (k - 1) else s.gap }

/-- A valid packet of a stream. -/
def validPacket (n : Nat) (p : TapPacket) (d : Dev) : Dev :=
  let d := expireFrames n d
  let d := modStream n (fun s => { noteSeq p.seq s with lastValid := d.geyser.now, silent := false }) d
  match streamOf? d n with
  | none => d
  | some s =>
    match s.frames.find? fun f => f.rtp == p.rtp && f.status == .assembling with
    | some f => framePacket n s f p d
    | none =>
      match s.newest with
      | some k => if newer p.rtp k then openFrame n p d else modStream n (fun s => { s with latePackets := s.latePackets.add 1 }) d
      | none => openFrame n p d

/-- The tap takes packets: from the resumption of the frame tables until a warm reset is asserted (R538). -/
def tapUp (d : Dev) : Bool := d.start.resumed

/-- A camera packet that a TAP port has taken (R102, R114). -/
def tapTake (port : Nat) (p : TapPacket) (d : Dev) : Dev :=
  if !p.fcsOk || !p.ipOk then modPort port (fun p => { p with headerFail := p.headerFail.add 1 }) d
  else match exactStream? d port p with
    | some (n, s) =>
      if !p.udpOk then modStream n (fun s => { s with checksum := s.checksum.add 1 }) d
      else if formOk s p then validPacket n p d
      else modStream n (fun s => { s with unmatched := s.unmatched.add 1 }) d
    | none =>
      match nearStream? d port p with
      | some (n, _) =>
        if p.udpOk then modStream n (fun s => { s with unmatched := s.unmatched.add 1 }) d else countUnsupported port d
      | none => countUnsupported port d

/-- A camera packet at a port (R14, R102, R138, R450). -/
def tapReceive (port : Nat) (p : TapPacket) (d : Dev) : Dev :=
  portHears port [.tap] (fun d => if !tapUp d then d else portBuffers port p.size p.drained (tapTake port p) d) d

/-- TAP_PACKET: the stamp of the arrival is the corrected stamp of R392 (R534). -/
def execTapPacket (at_ : Time) (port : Fin 4) (p : TapPacket) (s : State) : Host.Outcome State Fault Refusal :=
  .next (onDevZ (fun d => tapReceive port.val p (advance at_ d)) s)

/-! ### Digests (R73, R112) -/

/-- FRAME_DIGEST_COMPLETE: the digests of a complete frame are final in every grade its stream enables; the notice follows
and checks that waited go on. -/
def digestComplete (n : Nat) (rtp : W32) (d : Dev) : Dev :=
  match streamOf? d n with
  | none => d
  | some s =>
    match s.frames.find? fun f => f.rtp == rtp && f.status == .complete && f.secure.isNone && f.fault.isNone with
    | none => d
    | some f =>
      let ts := frameTiles f
      let sec_ := if s.grades % 2 = 1 then some (secureRoot ts) else none
      let flt := if s.grades / 2 % 2 = 1 then some (listDigest (ts.map crc64)) else none
      let d := setStream n { s with frames := s.frames.map fun g =>
        if g.rtp == rtp && g.status == .complete then { g with secure := sec_, fault := flt } else g } d
      progressStream n (noticeFrame n 0 rtp f.capture d)

def execFrameDigestComplete (at_ : Time) (stream : Fin 16) (rtp : W32) (s : State) : Host.Outcome State Fault Refusal :=
  .next (onDevZ (fun d => digestComplete stream.val rtp (advance at_ d)) s)

/-! ### Timed events of a frame and of a stream -/

/-- ASSEMBLY_TIMEOUT, at capture time plus the assembly limit (Table 4.4). -/
def assemblyTimeout (n : Nat) (rtp : W32) (d : Dev) : Dev :=
  match streamOf? d n with
  | none => d
  | some s =>
    match s.frames.find? fun f => f.rtp == rtp && f.status == .assembling with
    | some f => failFrame n rtp f.capture .timeout (advance (f.capture + us s.limitUs) d)
    | none => d

def execAssemblyTimeout (stream : Fin 16) (rtp : W32) (s : State) : Host.Outcome State Fault Refusal :=
  .next (onDevZ (assemblyTimeout stream.val rtp) s)

/-- SLOT_RELEASE, at capture time plus the hold time (R110). -/
def slotRelease (n : Nat) (rtp : W32) (d : Dev) : Dev :=
  match streamOf? d n with
  | none => d
  | some s =>
    match s.frames.find? fun f => f.rtp == rtp && f.status == .complete with
    | some f =>
      modStream n (fun s => { s with frames := s.frames.filter fun g => !(g.rtp == rtp && g.status == .complete) })
        (advance (f.capture + us (holdUs d n s)) d)
    | none => d

def execSlotRelease (stream : Fin 16) (rtp : W32) (s : State) : Host.Outcome State Fault Refusal :=
  .next (onDev (slotRelease stream.val rtp) s)

/-- STREAM_SILENCE, at the last valid packet plus the silence limit, only in service (Table 4.5, R538). -/
def streamSilence (n : Nat) (d : Dev) : Dev :=
  match streamOf? d n with
  | none => d
  | some s =>
    if s.silenceUs = 0 ∨ s.silent ∨ !serving d then d
    else
      let d := advance (s.lastValid + us s.silenceUs) d
      let k := s.silences.add 1
      raiseAttn 1 3 (counterDetail 10 n 0 0x30 k.n) (setStream n { s with silent := true, silences := k } d)

def execStreamSilence (stream : Fin 16) (s : State) : Host.Outcome State Fault Refusal :=
  .next (onDev (streamSilence stream.val) s)

/-- UNCLAIMED_FRAME, at the capture time of a COMPLETE frame of stream 0 plus the context's deadline: without a claim it is
counted, and attention is raised when the frames in a row reach the context's limit (Table 4.5). A claim of a frame between
two unclaimed ones starts the count anew. While the device is not in service, and for a context that accepts no new result, no
claim could come: the model judges no frame then, which Table 4.5 does not say (notes/assumptions/47.md). -/
def unclaimedFrame (c : W32) (cap : Time) (d : Dev) : Dev :=
  let x := ctxOf d c
  let n := streamNo x 0
  match templateOf? d x.planId x.planVersion x.template, streamOf? d n with
  | some t, some s =>
    match s.frames.find? fun f => f.capture == cap && f.status == .complete with
    | none => d
    | some f =>
      if !(x.state == .active || x.state == .suspended) || f.claimedBy.contains c || f.judged.contains c ||
          !serving d then d
      else
        let d := advance (cap + us t.deadlineUs) d
        let k := s.unclaimed.add 1
        let run := if x.claims.any fun q => decide (q < cap) then 1 else x.unclaimedRun + 1
        let d := setStream n { s with
          unclaimed := k
          frames := s.frames.map fun g => if g.capture == cap then { g with judged := c :: g.judged } else g } d
        let d := modCtx c (fun x => { x with unclaimedRun := run, claims := x.claims.filter fun q => decide (cap < q) }) d
        if run = x.unclaimedLimit then raiseAttn 1 3 (counterDetail 10 n 0 0x2C k.n) d else d
  | _, _ => d

def execUnclaimedFrame (context : W32) (capture : Time) (s : State) : Host.Outcome State Fault Refusal :=
  .next (onDev (unclaimedFrame context capture) s)

end Sys2Proof.Machine
end

