-- ==== Sys2Proof/Machine/MemoryOps.lean ====
section
/-! DEFINITION. Memory and its codes (11): decoding a word, the page code, reads, writes and scrubbing, segments and their
modes, the page log, sticky cells, tags, buckets. Word numbers are addresses divided by 8, lines by 64, pages by 4,096. -/

namespace Sys2Proof.Machine

open Sys2Proof

/-! ### The address map (Table 5.3) -/

def inHbm (addr : Nat) : Bool := decide (addr < 0x5F4000000)
/-- The cluster whose shared SRAM holds an address; the last 64 KiB of each window are not mapped. -/
def sramCluster? (addr : Nat) : Option Nat :=
  if 0x1000000000 ≤ addr ∧ addr < 0x1008000000 ∧ (addr - 0x1000000000) % 0x800000 < 0x7F0000 then
    some ((addr - 0x1000000000) / 0x800000)
  else none
/-- The core whose local memory holds an address. -/
def localCore? (addr : Nat) : Option Nat :=
  if 0x1100000000 ≤ addr ∧ addr < 0x1102000000 then some ((addr - 0x1100000000) / 0x80000) else none

/-- The channel of an HBM page (R133). -/
def hbmChannel (page : Nat) : Nat := (page ^^^ page / 16 ^^^ page / 256) % 16

/-- The memory stop of an address (R405): HBM stops 0 to 3, cluster stops 4 to 19; local memory has none. -/
def stopAt? (addr : Nat) : Option Nat :=
  if inHbm addr then some (hbmChannel (addr / 4096) / 4) else (sramCluster? addr).map (4 + ·)

/-- The segment of an address (R243): 2 MiB of HBM, 64 KiB of shared SRAM. -/
def segmentAt? (addr : Nat) : Option Nat :=
  if inHbm addr then some (addr / 0x200000)
  else (sramCluster? addr).map fun c => 12192 + 128 * c + (addr - 0x1000000000) % 0x800000 / 0x10000

/-- The mode that governs a word: its segment's, EPHEMERAL in local memory (R270). -/
def modeAt (d : Dev) (k : Nat) : SegMode :=
  match segmentAt? (8 * k) with
  | some g => (segOf d g).mode
  | none => .ephemeral

/-! ### Words (R272 to R275) -/

def wordAt (m : Mem) (k : Nat) : W64 := kget 0 m.words k
def syndAt (m : Mem) (k : Nat) : Byte := kget 0 m.synd k

/-- A word is stored with its check byte, or with a difference from it. -/
def putWord (k : Nat) (w : W64) (s : Byte) (m : Mem) : Mem :=
  { m with words := kset 0 m.words k w, synd := kset 0 m.synd k s }

/-- The value a read of a word gives, where the word code gives one. -/
def wordValue? (m : Mem) (k : Nat) : Option W64 :=
  match readSyndrome (syndAt m k) with
  | .clean => some (wordAt m k)
  | .checkBit => some (wordAt m k)
  | .dataBit i => some (wordAt m k ^^^ BitVec.twoPow 64 i)
  | .bad => none

def isBad (m : Mem) (k : Nat) : Bool := (wordValue? m k).isNone

/-- A word rewritten as a read gives it. -/
def fixWord (k : Nat) (m : Mem) : Mem :=
  match wordValue? m k with
  | some w => putWord k w 0 m
  | none => m

/-- The words of a line, and of a page. -/
def lineWords (l : Nat) : List Nat := (List.range 8).map (8 * l + ·)
def pageWords (p : Nat) : List Nat := (List.range 512).map (512 * p + ·)
def pageLines (p : Nat) : List Nat := (List.range 64).map (64 * p + ·)

/-- A line is poisoned: its eight words, or its CRC, read as the marker (R275, R288). -/
def linePoisoned (m : Mem) (l : Nat) : Bool := (lineWords l).all fun k => syndAt m k == 0xFF
def lineBad (m : Mem) (l : Nat) : Bool := (lineWords l).any (isBad m)
def lineClean (m : Mem) (l : Nat) : Bool := (lineWords l).all fun k => syndAt m k == 0

/-- A line is poisoned (R275, R288): data as stored, marks in its check bytes. -/
def poisonLine (l : Nat) (m : Mem) : Mem := (lineWords l).foldl (fun m k => { m with synd := kset 0 m.synd k 0xFF }) m

/-- The lines of a page that hold an uncorrectable word. -/
def badLines (m : Mem) (p : Nat) : List Nat := (pageLines p).filter (lineBad m)

/-! ### The page code (R276 to R279) -/

/-- Byte `b` of a word. -/
def byteOf (w : W64) (b : Nat) : Byte := (w >>> (8 * b)).setWidth 8

/-- Word `i` of a page as the page code reads it: corrected where the word code corrects, raw otherwise. -/
def codeWord (m : Mem) (p i : Nat) : W64 := (wordValue? m (512 * p + i)).getD (wordAt m (512 * p + i))

/-- Symbol x(w, beat) of a page. -/
def symbol (m : Mem) (p w beat : Nat) : Byte := byteOf (codeWord m p (2 * beat + w / 8)) (w % 8)

/-- A parity word is correctable, and a check byte as its word code gives it. -/
def parityOk (m : Mem) (p : Nat) : Bool := (List.range 4).all fun j => readSyndrome (kget 0 m.psynd (4 * p + j)) != .bad
def checkAt (m : Mem) (p b : Nat) : Byte :=
  let raw : Byte := kget 0 m.parity (32 * p + b)
  match readSyndrome (kget 0 m.psynd (4 * p + b / 8)) with
  | .dataBit i => if i / 8 = b % 8 then raw ^^^ BitVec.twoPow 8 (i % 8) else raw
  | _ => raw

/-- p0(w) and p1(w) over the page as it stands. -/
def sum0 (m : Mem) (p w : Nat) : Byte := (List.range 256).foldl (fun a b => a ^^^ symbol m p w b) 0
def sum1 (m : Mem) (p w : Nat) : Byte := (List.range 256).foldl (fun a b => a ^^^ gfMul (symbol m p w b) (locator b)) 0

/-- σ0(w) and σ1(w). -/
def sigma0 (m : Mem) (p w : Nat) : Byte := sum0 m p w ^^^ checkAt m p w
def sigma1 (m : Mem) (p w : Nat) : Byte := sum1 m p w ^^^ checkAt m p (16 + w)

/-- The check bytes of a page are written, with their word codes. -/
def putParity (p : Nat) (f : Nat → Byte) (m : Mem) : Mem :=
  { m with
    parity := (List.range 32).foldl (fun a b => kset 0 a (32 * p + b) (f b)) m.parity
    psynd := (List.range 4).foldl (fun a j => kdel a (4 * p + j)) m.psynd }

/-- The check bytes over the page as it is now stored (R283). -/
def buildParity (p : Nat) (m : Mem) : Mem :=
  putParity p (fun b => if b < 16 then
      (List.range 256).foldl (fun a beat => a ^^^ byteOf (wordAt m (512 * p + 2 * beat + b / 8)) (b % 8)) 0
    else
      (List.range 256).foldl (fun a beat =>
        a ^^^ gfMul (byteOf (wordAt m (512 * p + 2 * beat + (b - 16) / 8)) ((b - 16) % 8)) (locator beat)) 0) m

/-- A delta update for a line whose words go from `old` to `new` (R282). -/
def deltaParity (l : Nat) (old new : List W64) (m : Mem) : Mem :=
  let p := l / 64
  let first := 8 * l % 512
  let ds := (indexed (old.zip new)).map fun e => (first + e.1, e.2.1 ^^^ e.2.2)
  putParity p (fun b =>
    let w := b % 16
    let mine := ds.filter fun e => e.1 % 2 == w / 8
    mine.foldl (fun a e =>
      let x := byteOf e.2 (w % 8)
      a ^^^ (if b < 16 then x else gfMul x (locator (e.1 / 2)))) (checkAt m p b)) m

/-- The errors of one lane in erasure mode: beats and values (R278). -/
def eraseLane (m : Mem) (p w : Nat) (beats : List Nat) : Option (List (Nat × Byte)) :=
  let s0 := sigma0 m p w
  let s1 := sigma1 m p w
  match beats with
  | [] => if s0 = 0 ∧ s1 = 0 then some [] else none
  | [a] => if s1 = gfMul s0 (locator a) then some [(a, s0)] else none
  | [a, b] =>
    let eb := gfMul (s1 ^^^ gfMul s0 (locator a)) (gfInv (locator a ^^^ locator b))
    some [(a, s0 ^^^ eb), (b, eb)]
  | _ => none

/-- A byte error is added to a word: the stored check byte stays, so the syndrome follows the data. -/
def addError (k lane : Nat) (e : Byte) (m : Mem) : Mem :=
  let old := wordAt m k
  let new := old ^^^ (e.setWidth 64 <<< (8 * lane))
  putWord k new (syndAt m k ^^^ checkByte old ^^^ checkByte new) m

/-- The errors of all lanes are added; lanes 0 to 7 are even words, 8 to 15 odd words. -/
def addErrors (p : Nat) (es : List (Nat × Nat × Byte)) (m : Mem) : Mem :=
  es.foldl (fun m e => addError (512 * p + 2 * e.2.1 + e.1 / 8) (e.1 % 8) e.2.2 m) m

/-- Errors found per lane, as lane, beat and value; none when a lane fails. -/
def lanesOf (f : Nat → Option (List (Nat × Byte))) : Nat → Option (List (Nat × Nat × Byte))
  | 0 => some []
  | n + 1 =>
    match lanesOf f n, f n with
    | some l, some es => some (l ++ es.map fun e => (n, e.1, e.2))
    | _, _ => none

/-- Lines are written back as they are read. -/
def fixLines (ls : List Nat) (m : Mem) : Mem := ls.foldl (fun m l => (lineWords l).foldl (fun m k => fixWord k m) m) m

/-- The decode in erasure mode: the memory with the corrected lines written back. Check bytes that cannot be read fail the decode
(DEDUCED, notes/assumptions/49.md). -/
def eraseDecode (m : Mem) (p : Nat) : Option Mem :=
  let bad := (List.range 512).filter fun i => isBad m (512 * p + i)
  if !parityOk m p then none
  else match lanesOf (fun w => eraseLane m p w ((bad.filter fun i => i % 2 == w / 8).map (· / 2))) 16 with
    | none => none
    | some es =>
      let m' := addErrors p es m
      if bad.all fun i => syndAt m' (512 * p + i) == 0 then some (fixLines (badLines m p) m') else none

/-- The error of one lane in error mode (R279). -/
def errorLane (m : Mem) (p w : Nat) : Option (List (Nat × Byte)) :=
  let s0 := sigma0 m p w
  let s1 := sigma1 m p w
  if s0 = 0 ∧ s1 = 0 then some []
  else if s0 = 0 then none
  else match (List.range 256).find? fun b => gfMul s0 (locator b) == s1 with
    | some b => some [(b, s0)]
    | none => none

/-- The page syndrome is not zero. -/
def pageDirty (m : Mem) (p : Nat) : Bool := (List.range 16).any fun w => sigma0 m p w != 0 || sigma1 m p w != 0

/-- The decode in error mode: every corrected word must show syndrome 0. -/
def errorDecode (m : Mem) (p : Nat) : Option Mem :=
  match lanesOf (errorLane m p) 16 with
  | none => none
  | some es =>
    let m' := addErrors p es m
    if es.all fun e => syndAt m' (512 * p + 2 * e.2.1 + e.1 / 8) == 0 then some m' else none

/-! ### Reporting (R296, R300) -/

/-- Readers of Table 11.8. -/
def rdCore : Nat := 0
def rdDma : Nat := 1
def rdFumarole : Nat := 2
def rdDevice : Nat := 3

/-- MEM_ERR and MEM_ERR_ADDR capture an event of a word. -/
def captureMem (stop kind reader : Nat) (synd : Byte) (k : Nat) (d : Dev) : Dev :=
  let body : W32 := BitVec.ofNat 32 (kind * 2 ^ 27 + reader * 2 ^ 24 + synd.toNat * 2 ^ 16 + k / 8 % 64 * 2 ^ 8)
  let d := noteCapture (.memErr (Fin.ofNat 21 stop)) (stopOf d stop).memErr body (BitVec.ofNat 64 (8 * k)) d
  modStop stop (fun x =>
    { x with
      memErr := captureWord x.memErr body
      memErrAddr := if x.memErr &&& 0x80000000 = 0 then 8 * k else x.memErrAddr }) d

/-- Lines that were poisoned: one event each on MEM_POISON. -/
def signalPoison (stop n : Nat) (d : Dev) : Dev := (List.range n).foldl (fun d _ => signal (sMem stop 2) d) d

/-- The page's partition and whether its content is reloadable. -/
def pageOwner (d : Dev) (p : Nat) : Nat × Bool :=
  match segmentAt? (4096 * p) with
  | some g => (if (segOf d g).device then 0xFF else (segOf d g).owner, (segOf d g).reloadable)
  | none => (0xFF, false)

/-- The lines of a page that are poisoned are marked in the object whose copy they hold: a blob, or a plan (R337). -/
def markLines (p : Nat) (lines : List Nat) (d : Dev) : Dev :=
  let places (w : AllocFor) : List Nat := lines.map fun l => (nameOf d (4096 * p) - allocBase d w) / 64 + l % 64
  match (allocAt? d (4096 * p)).map Alloc.what with
  | some (.blob b part) => modPlans (fun x => { x with blobs := x.blobs.map fun y =>
      if y.id == b && y.partition == part then { y with bad := (places (.blob b part) ++ y.bad).eraseDups } else y }) d
  | some (.plan i v) => modPlans (fun x => { x with loaded := x.loaded.map fun y =>
      if y.plan.identifier == i && y.plan.version == v then { y with bad := (places (.plan i v) ++ y.bad).eraseDups } else y }) d
  | _ => d

/-- A reloadable page is poisoned: attention class 6 names the blob that the Steward allocated there, or the plan copy (R294). -/
def reloadPage (p : Nat) (d : Dev) : Dev :=
  if !(pageOwner d p).2 then d
  else match (allocAt? d (4096 * p)).map Alloc.what with
    | some (.blob b part) =>
      let (i, v) := ((d.plans.blobs.find? fun x => x.id == b && x.partition == part).bind (·.bound.head?)).getD (0, 0)
      reloadAttn i.toNat v.toNat b.toNat (4096 * p) d
    | some (.plan i v) => reloadAttn i.toNat v.toNat 0xFFFFFFFF (4096 * p) d
    | _ => reloadAttn 0 0 0xFFFFFFFF (4096 * p) d

/-- The position that a new page-log entry takes: the page's own entry of that cause, a fresh one, or the oldest resolved
one (R295). -/
def logSlot? (p cause : Nat) (l : List PageEntry) : Option Nat :=
  match l.findIdx? fun e => e.page == 4096 * p && e.cause == cause && e.lines != 0 with
  | some i => some i
  | none =>
    if l.length < 1024 then some l.length
    else ((indexed l).filter (·.2.lines == 0)).foldl (fun a e => match a with
      | none => some e
      | some b => if e.2.capture < b.2.capture then some e else some b) none |>.map (·.1)

/-- The page log records lines of a page; PAGE_LOG_FULL fires when all 1,024 entries are unresolved (R295). -/
def logPage (p : Nat) (lines : List Nat) (cause : Nat) (d : Dev) : Dev :=
  let mask : W64 := lines.foldl (fun a l => a ||| BitVec.twoPow 64 (l % 64)) 0
  let (part, rel) := pageOwner d p
  match logSlot? p cause d.memctl.log with
  | none => signal 750 d
  | some i =>
    let fresh : PageEntry := { page := 4096 * p, lines := mask, cause := cause, partition := part, reloadable := rel,
                               told := rel, capture := d.geyser.now }
    let e := match d.memctl.log[i]? with
      | some e => if e.page = 4096 * p ∧ e.cause = cause ∧ e.lines ≠ 0 then { e with lines := e.lines ||| mask } else fresh
      | none => fresh
    let d := modCtl (fun m => { m with log := m.log.take i ++ e :: m.log.drop (i + 1) }) d
    if 1024 ≤ d.memctl.log.length ∧ (d.memctl.log.all (·.lines != 0)) = true then signal 750 d else d

/-- Marks of a line are cleared in the page log (R285). -/
def clearMark (l : Nat) (d : Dev) : Dev :=
  modCtl (fun m => { m with log := m.log.map fun e =>
    if e.page = 4096 * (l / 64) then { e with lines := e.lines &&& ~~~BitVec.twoPow 64 (l % 64) } else e }) d

/-! ### Sticky cells (R296 to R299) -/

/-- The relocation of an HBM segment starts, waits for the one in progress, or finds the pool empty (R297, R299). -/
def relocate (g k : Nat) (d : Dev) : Dev :=
  let busy := (d.memctl.moving.map fun x => x.1 == g).getD false || d.memctl.toMove.contains g || (segOf d g).retired
  if busy then d
  else if d.memctl.spares = 0 then chipFailed d
  else
    let d := raiseAttn 6 14 [] (logPage (k / 512) [] 6 d)
    modCtl (fun m => match m.moving with
      | some _ => { m with toMove := m.toMove ++ [g], spares := m.spares - 1 }
      | none => { m with moving := some (g, 12064 + (128 - m.spares), d.geyser.now), spares := m.spares - 1 }) d

/-- A shared-SRAM segment is retired and admission is re-run; more than eight in a cluster end service (R298, R299). -/
def retire (g : Nat) (d : Dev) : Dev :=
  if (segOf d g).retired then d
  else
    let d := modSeg g (fun x => { x with retired := true, valid := false }) d
    if retiredIn d ((g - 12192) / 128) > 8 then chipFailed d
    else modSched (fun s => { s with readmit := s.readmit.or (some (2, (g - 12192) / 128)) }) d

/-- One event on MEM_STICKY_CELL; at a severe one the segment is moved or retired. -/
def stickyEvent (stop k : Nat) (d : Dev) : Dev :=
  let sev := nextSevere (sMem stop 3) d
  let d := signal (sMem stop 3) d
  if !sev then d
  else match segmentAt? (8 * k) with
    | some g => if g < 12192 then relocate g k d else retire g d
    | none => d

/-- A corrected word: MEM_CE_COUNT and MEM_CE (R300). -/
def countWord (k : Nat) (d : Dev) : Dev :=
  match stopAt? (8 * k) with
  | none => d
  | some stop => signal (sMem stop 0) (modStop stop (fun x => { x with ceCount := min (x.ceCount + 1) 4294967295 }) d)

/-- A demand read or a verify read corrects a word: MEM_STICKY_CELL too where the write-back log holds the word (R296). -/
def correctedWord (k : Nat) (d : Dev) : Dev :=
  match stopAt? (8 * k) with
  | none => d
  | some stop =>
    let logged := (stopOf d stop).wbLog.any (·.1 == k)
    let d := countWord k d
    if logged then stickyEvent stop k d else d

/-- A rewritten word enters the write-back log, while there is room, for a verify read 1 ms later; without room it is counted. -/
def logWord (k : Nat) (d : Dev) : Dev :=
  match stopAt? (8 * k) with
  | none => d
  | some stop => modStop stop (fun x =>
      if x.wbLog.any (·.1 == k) then { x with wbLog := x.wbLog.map fun e => if e.1 = k then (k, d.geyser.now + ms 1) else e }
      else if x.wbLog.length < 256 then { x with wbLog := x.wbLog ++ [(k, d.geyser.now + ms 1)] }
      else { x with wbFull := x.wbFull + 1 }) d

/-! ### Injections (R301) -/

/-- The injected line of a stop is exactly as the injection left it, and its page holds no other uncorrectable word. -/
def onlyInjected (k : Nat) (s : State) : Bool :=
  match stopAt? (8 * k) with
  | none => false
  | some stop =>
    let x := stopOf s.dev stop
    x.injectAddr / 64 == k / 8 && !x.expect.isEmpty && (lineWords (k / 8)).map (syndAt s.mem) == x.expect &&
      (badLines s.mem (k / 512)).all (· == k / 8)

/-- A read finds the injected error, and perhaps corrects it. -/
def foundInjection (k : Nat) (corrected : Bool) (d : Dev) : Dev :=
  match stopAt? (8 * k) with
  | some stop => modStop stop (fun x => { x with inject := x.inject ||| 2 ||| (if corrected then 1 else 0) }) d
  | none => d

/-- A write of a line ends what an injection left in it. -/
def endInjection (l : Nat) (d : Dev) : Dev :=
  match stopAt? (64 * l) with
  | some stop => modStop stop (fun x => if x.injectAddr / 64 = l then { x with expect := [] } else x) d
  | none => d

/-! ### Reading a word (R273, R274, R278, R287, R288) -/

/-- What a reader meets: the value, or a reason of Table 11.5 (2 UNCORRECTABLE, 3 POISONED, 4 CHECK_CRC). -/
abbrev WordResult := Except Nat W64

/-- Unusable data is met: MEM_ERR captures it, unless it is exactly what an injection left. Table 11.8 has no KIND for an uncorrectable
word that no page code covers: the model captures 2 (DESIGN CHOICE, notes/assumptions/49.md). -/
def meetBad (kind reader k : Nat) (synd : Byte) (inj : Bool) (d : Dev) : Dev :=
  if inj then foundInjection k false d
  else match stopAt? (8 * k) with
    | some stop => captureMem stop kind reader synd k d
    | none => d

/-- Lines of a page are poisoned: one event each on MEM_POISON, and reloadable content is named where no trap names it (R294). -/
def tellPoison (p reader : Nat) (lines : List Nat) (d : Dev) : Dev :=
  let d := match stopAt? (4096 * p) with
    | some stop => signalPoison stop lines.length d
    | none => d
  let d := markLines p lines d
  if lines.isEmpty || decide (reader < rdFumarole) then d else reloadPage p d

/-- The stop reads the lines of a page: the words that the word code corrects are counted (R278, R300). -/
def countPage (p : Nat) (s : State) : State :=
  onDev (fun d => ((pageWords p).filter fun k => syndAt s.mem k != 0 && !isBad s.mem k).foldl (fun d k => correctedWord k d) d) s

/-- Lines of a page whose erasure decode failed are poisoned. They enter the page log with cause 1, so that a repair finds them (R337):
Table 11.7 has no cause of its own for a reader's decode (DESIGN CHOICE, notes/assumptions/49.md). -/
def poisonBad (p reader k : Nat) (inj : Bool) (s : State) : State :=
  let new := (badLines s.mem p).filter fun l => !linePoisoned s.mem l
  let was := linePoisoned s.mem (k / 8)
  let synd := syndAt s.mem k
  let s := { s with mem := new.foldl (fun m l => poisonLine l m) s.mem }
  onDev (fun d =>
    let d := meetBad (if was then 3 else 2) reader k synd inj d
    if inj || new.isEmpty then d else tellPoison p reader new (logPage p new 1 d)) s

/-- A word that the word code does not correct is read in a DURABLE page: the page is decoded in erasure mode, and its corrected lines
written back or the bad ones poisoned (R278). -/
def decodePage (reader k : Nat) (inj : Bool) (s : State) : State :=
  let s := countPage (k / 512) s
  match eraseDecode s.mem (k / 512) with
  | some m' =>
    onDev (fun d =>
      if inj then endInjection (k / 8) (foundInjection k true d)
      else match stopAt? (8 * k) with
        | some stop => signal (sMem stop 1) (captureMem stop 1 reader (syndAt s.mem k) k d)
        | none => d) { s with mem := m' }
  | none => poisonBad (k / 512) reader k inj s

/-- A read of word `k`. The last component says that the event was an injected one. -/
def readWord (reader k : Nat) (s : State) : WordResult × Bool × State :=
  let m := s.mem
  let inj := onlyInjected k s
  match modeAt s.dev k with
  | .check =>
    if lineClean m (k / 8) then (.ok (wordAt m k), false, s)
    else
      let p := linePoisoned m (k / 8)
      (.error (if p then 3 else 4), inj, onDev (meetBad (if p then 3 else 4) reader k (syndAt m k) inj) s)
  | mode =>
    match wordValue? m k with
    | some w =>
      if syndAt m k = 0 then (.ok w, false, s)
      else if inj then (.ok w, true, onDev (foundInjection k true) s)
      else (.ok w, false, onDev (correctedWord k) s)
    | none =>
      if mode = .durable then
        let s := decodePage reader k inj s
        match wordValue? s.mem k with
        | some w => (.ok w, inj, s)
        | none => (.error (if linePoisoned m (k / 8) then 3 else 2), inj, s)
      else
        let p := linePoisoned m (k / 8)
        (.error (if p then 3 else 2), inj, onDev (meetBad (if p then 3 else 2) reader k (syndAt m k) inj) s)

/-- The eight words of a line, in order; the first unusable one ends the read. -/
def readLine (reader l : Nat) (s : State) : Except Nat (List W64) × Bool × State :=
  (lineWords l).foldl (fun (a : Except Nat (List W64) × Bool × State) k =>
    match a.1 with
    | .error e => (.error e, a.2.1, a.2.2)
    | .ok ws =>
      let (r, i, s) := readWord reader k a.2.2
      match r with
      | .ok w => (.ok (ws ++ [w]), a.2.1 || i, s)
      | .error e => (.error e, a.2.1 || i, s)) (.ok [], false, s)

/-! ### Writing a line (R282 to R285, R288) -/

/-- The words of a line are stored, with their word codes or the line's CRC. -/
def putLine (l : Nat) (ws : List W64) (m : Mem) : Mem :=
  ((lineWords l).zip ws).foldl (fun m e => putWord e.1 e.2 0 m) m

/-- The line's words as a write merges them: values where they can be read, and whether a word that is not wholly written
cannot be. -/
def mergeWord (k : Nat) (lineOk : Bool) (m : Mem) (mask : List Bool) (data : List Byte) : Option W64 :=
  if mask.all id then some (BitVec.ofNat 64 (leNat data))
  else if mask.all (!·) then (if lineOk then wordValue? m k else none)
  else if !lineOk then none
  else (wordValue? m k).map fun w => BitVec.ofNat 64 (leNat ((List.range 8).map fun b =>
    if mask.getD b false then data.getD b 0 else byteOf w b))

/-- Bytes `[o, o + n)` of a line are written with `b`: the new words, or none where the write cannot be performed (R284). A
word that is untouched and unusable in an otherwise usable line also holds the write back. -/
def mergeLine (l o : Nat) (b : List Byte) (check : Bool) (m : Mem) : Option (List W64) :=
  let lineOk := !check || lineClean m l
  (List.range 8).foldr (fun i acc =>
    let mask := (List.range 8).map fun j => decide (o ≤ 8 * i + j) && decide (8 * i + j < o + b.length)
    let data := (List.range 8).map fun j => b.getD (8 * i + j - o) 0
    match mergeWord (8 * l + i) lineOk m mask data, acc with
    | some w, some ws => some (w :: ws)
    | _, _ => none) (some [])

/-- A rebuild of a page's parity around a written line (R283). -/
def rebuildPage (l : Nat) (ws : List W64) (reader : Nat) (s : State) : State :=
  let p := l / 64
  let new := (badLines s.mem p).filter fun x => !linePoisoned s.mem x && x != l
  let m := putLine l ws (new.foldl (fun m x => poisonLine x m) s.mem)
  let s := { s with mem := buildParity p m }
  onDev (fun d =>
    let d := tellPoison p rdDevice new (logPage p (badLines m p) 3 d)
    match stopAt? (64 * l) with
    | some stop => captureMem stop 6 reader 0 (8 * l) d
    | none => d) s

/-- A line of a DURABLE page takes new words: a delta update, or a rebuild. -/
def storeDurable (l : Nat) (ws : List W64) (reader : Nat) (s : State) : State :=
  if !parityOk s.mem (l / 64) then rebuildPage l ws reader s
  else if lineBad s.mem l then rebuildPage l ws reader s
  else
    let old := (lineWords l).map fun k => (wordValue? s.mem k).getD 0
    { s with mem := putLine l ws (deltaParity l old ws s.mem) }

/-- A write of bytes within one line, at its stop. The answer is a reason of Table 11.5 where it is not performed. -/
def writeLine (reader l o : Nat) (b : List Byte) (s : State) : Option Nat × State :=
  let mode := modeAt s.dev (8 * l)
  -- the old line is read first where the write needs it: in a DURABLE page, and for a narrow write
  let inj := onlyInjected (8 * l) s
  let s := if mode = .durable then
      match (lineWords l).find? (isBad s.mem) with
      | some k => decodePage reader k inj s
      | none => s
    else s
  let fixed := if mode = .check then [] else (lineWords l).filter fun k =>
    syndAt s.mem k != 0 && !isBad s.mem k && (mode == .durable || b.length < 64)
  let s := onDev (fun d => fixed.foldl (fun d k => if inj then foundInjection k true d else correctedWord k d) d) s
  match mergeLine l o b (decide (mode = .check)) s.mem with
  | none => (some (if linePoisoned s.mem l then 3 else if mode = .check then 4 else 2), s)
  | some ws =>
    let s := if mode = .durable then storeDurable l ws reader s else { s with mem := putLine l ws s.mem }
    (none, onDev (fun d => endInjection l (clearMark l d)) s)

/-! ### Keys, tags and buckets (R244, R246 to R248) -/

/-- The accessor reaches the address at all: the map of Table 5.3, R126 for local memory, and R123 for that of a fenced core. -/
def mapped (d : Dev) (who : Accessor) (addr : Nat) : Bool :=
  match localCore? addr with
  | some n => !isFenced d n && (match who with
    | .core c => c.val == n
    | .dma ch => decide (ch < 256) && n / 4 == ch / 16
    | _ => false)
  | none => inHbm addr || (sramCluster? addr).isSome

/-- The partition whose kernel runs on a core, for the key of its accesses. -/
def coreKey (d : Dev) (n : Nat) : Key :=
  match runOn? d n with
  | some r => .partition (Fin.ofNat 16 r.op.partition)
  | none => match (coreOf d n).window with
    | some w => .partition (Fin.ofNat 16 w.partition)
    | none => .device

/-- The partition of the first bulk command whose transfer is under way, for host-side channels. -/
def hostPart (d : Dev) : Option Nat :=
  (d.accepted.find? fun a => [0x0106, 0x0201, 0x0203, 0x0802].contains a.packet.opcode.toNat && !a.loaded && a.outcome.isNone).map
    fun a => a.packet.partition.toNat

/-- The key an access carries (R244): the partition of the core's window, of the cluster channel, or of the Denec command that
started a host-side transfer; the device key otherwise. -/
def keyOf (d : Dev) (who : Accessor) : Key :=
  match who with
  | .core n => coreKey d n.val
  | .dma ch =>
    if ch < 256 then .partition (Fin.ofNat 16 (dmaOf d ch).partition)
    else match hostPart d with
      | some p => if p < 16 then .partition (Fin.ofNat 16 p) else .device
      | none => .partition (Fin.ofNat 16 (dmaOf d ch).partition)
  | _ => .device

/-- The place that an access with a partition's key reaches: the users of a relocated segment go on to its spare (R297). -/
def reach (d : Dev) (key : Key) (addr : Nat) : Nat :=
  match key with
  | .partition _ => placeNow d addr
  | .device => addr

/-- The key opens the segment for a read or a write (R244). -/
def keyOpens (d : Dev) (key : Key) (addr : Nat) (write : Bool) : Bool :=
  match key, segmentAt? addr with
  | .device, _ => true
  | .partition _, none => (localCore? addr).isSome
  | .partition p, some g =>
    let t := segOf d g
    t.valid && !t.device && (t.owner == p.val || (!write && t.readMask.getLsbD p.val))

/-- A request of a cost reaches its bucket at an instant: the bucket, and the instant at which its tokens have come. A short bucket
makes the request wait behind those before it; a rate of 0 or a depth below the cost blocks it (R247, Table 10.5). -/
def chargeBucket (t cost : Nat) (b : Bucket) : Bucket × Option Time :=
  let b := if b.at_ > t then b else refill t b
  let need := 4294967296 * cost
  if b.level ≥ need then ({ b with level := b.level - need, waited := b.waited || decide (t < b.at_) }, some b.at_)
  else if b.rate = 0 ∨ b.depth < cost then ({ b with waited := true }, none)
  else
    let due := b.at_ + ceilDiv ((need - b.level) * 1000) b.rate
    ({ b with level := 0, at_ := due, waited := true }, some due)

/-- The mesh stop at which an accessor's requests enter: clusters, and stop P for host-side channels. -/
def injectStop (who : Accessor) : Option Nat :=
  match who with
  | .core n => some (4 + n.val / 4)
  | .dma ch => some (if ch < 256 then 4 + ch / 16 else 20)
  | _ => none

/-- The bucket number of a key: the partition, or 16 for the device. -/
def bucketNo : Key → Nat
  | .partition p => p.val
  | .device => 16

/-- A bucket takes a request; WAITED is set by the hardware (Table 10.6). -/
def chargeHbm (stop b t cost : Nat) (d : Dev) : Option Time × Dev :=
  let (x, r) := chargeBucket t cost (kget {} d.sched.hbm (32 * stop + b))
  let d := modSched (fun s => { s with hbm := kput s.hbm (32 * stop + b) x }) d
  (r, if r = some d.geyser.now then d else hwSet (.hbmBucketStat (Fin.ofNat 4 stop) (Fin.ofNat 17 b)) (2 ^ 31) d)
def chargeMesh (stop p t : Nat) (d : Dev) : Option Time × Dev :=
  let (x, r) := chargeBucket t 1 (kget {} d.sched.mesh (32 * stop + p))
  let d := modSched (fun s => { s with mesh := kput s.mesh (32 * stop + p) x }) d
  (r, if r = some d.geyser.now then d else hwSet (.meshBucketStat (Fin.ofNat 24 stop) (Fin.ofNat 16 p)) (2 ^ 31) d)

/-- A request takes its tokens at its injection point, where it enters the mesh, and then at the HBM stop (R247, R248): the instant
at which it has them. A request that is blocked at the stop keeps what it has taken; device traffic has no injection bucket. -/
def takeTokens (who : Accessor) (key : Key) (addr cost : Nat) (d : Dev) : Option Time × Dev :=
  let now := d.geyser.now
  let addr := reach d key addr
  let (r, d) := match key, injectStop who with
    | .partition p, some i =>
      if (localCore? addr).isNone && stopAt? addr != some i then chargeMesh i p.val now d else (some now, d)
    | _, _ => (some now, d)
  match r, (if inHbm addr then stopAt? addr else none) with
  | some t, some stop => chargeHbm stop (bucketNo key) t cost d
  | r, _ => (r, d)

/-- Several requests of one accessor, as addresses and costs: the instant at which the last has its tokens. Where one is blocked, none
has taken any; WAITED stays. -/
def claimAll (who : Accessor) (key : Key) (l : List (Nat × Nat)) (d : Dev) : Option Time × Dev :=
  let (r, e) := l.foldl (fun (a : Option Time × Dev) x =>
    match a.1 with
    | none => a
    | some t =>
      let (u, d) := takeTokens who key x.1 x.2 a.2
      (u.map (max t), d)) (some d.geyser.now, d)
  if r.isSome then (r, e)
  else
    let back (old new : KMap Bucket) : KMap Bucket := kmapv (fun k b => { kget {} old k with waited := b.waited }) new
    (none, modSched (fun s => { s with hbm := back d.sched.hbm s.hbm, mesh := back d.sched.mesh s.mesh }) e)

/-- The token cost of a write (Table 10.4). -/
def writeCost (d : Dev) (addr n : Nat) : Nat :=
  (if modeAt d (placeNow d addr / 8) = .durable then 4 else 1) + (if n < 64 then 1 else 0)

/-! ### Halting a channel (R291) -/

/-- A DMA channel halts; the kernel that programmed it traps (R291). -/
def haltChannel (ch reason addr : Nat) (d : Dev) : Dev :=
  let c := dmaOf d ch
  if c.halted then d
  else
    let d := modDma ch (fun c => { c with halted := true, reason := reason, haltAddr := addr, busy := false }) d
    if c.busy && decide (ch < 256) then
      trapOn c.core { kind := if reason = 1 then tAddress else tPoisoned, addr := addr } d
    else d

/-! ### Accesses (R124, R125, R246, R287) -/

/-- An access is refused under R125: a core traps, a channel halts. -/
def refuseAccess (who : Accessor) (addr : Nat) (d : Dev) : Dev :=
  match who with
  | .core n => trapOn n.val { kind := tAddress, addr := addr } d
  | .dma ch => haltChannel ch 1 addr d
  | _ => d

/-- An accessor meets unusable data (Table 11.4): no trap or halt results from scrubbing itself (R293). -/
def meetUnusable (who : Accessor) (addr reason : Nat) (d : Dev) : Dev :=
  let deviceData := who != .fumarole && ((segmentAt? addr).map fun g => (segOf d g).device).getD false
  let d := if deviceData then signal 749 d else d
  match who with
  | .core n => trapOn n.val { kind := if (localCore? addr).isSome then tLocal else tPoisoned, addr := addr } d
  | .dma ch => haltChannel ch reason addr d
  | _ => d

def readerOf (who : Accessor) : Nat :=
  match who with
  | .core _ => rdCore
  | .dma _ => rdDma
  | .fumarole => rdFumarole
  | .device => rdDevice

/-- The outcome of the checks before an access. -/
inductive Gate where
  | go | refused | tags (stop : Nat)
  deriving DecidableEq, Repr

/-- The checks before an access: the map, the two copies of the tags (R246), the key (R125, R244). -/
def gate (who : Accessor) (key : Key) (addr : Nat) (write : Bool) (d : Dev) : Gate :=
  let addr := reach d key addr
  if !mapped d who addr then .refused
  else match (stopAt? addr).bind fun st => if (stopOf d st).tagsDisagree then some st else none with
    | some st => .tags st
    | none => if keyOpens d key addr write then .go else .refused

/-- What an access refused before it reaches memory does. -/
def gateStop (g : Gate) (who : Accessor) (addr : Nat) (d : Dev) : Dev :=
  match g with
  | .refused => refuseAccess who addr d
  | .tags st => signal (sSegTag st) d
  | _ => d

/-- A read of the word that holds an address, by a request that has its tokens. -/
def accessRead (who : Accessor) (key : Key) (addr : Nat) (s : State) : Option W64 × State :=
  match gate who key addr false s.dev with
  | .go =>
    let addr := reach s.dev key addr
    let (r, inj, s) := readWord (readerOf who) (addr / 8) s
    match r with
    | .ok w => (some w, s)
    | .error e => (none, if inj then s else onDev (meetUnusable who addr e) s)
  | g => (none, onDev (gateStop g who addr) s)

/-- A write of bytes within one line, by a request that has its tokens. -/
def accessWrite (who : Accessor) (key : Key) (addr : Nat) (b : List Byte) (s : State) : Bool × State :=
  match gate who key addr true s.dev with
  | .go =>
    let addr := reach s.dev key addr
    let (r, s) := writeLine (readerOf who) (addr / 64) (addr % 64) b s
    match r with
    | none => (true, s)
    | some e => (false, onDev (meetUnusable who addr e) s)
  | g => (false, onDev (gateStop g who addr) s)

/-- Bytes cut at line boundaries, by at most `fuel` lines. -/
def cutLines : Nat → Nat → List Byte → List (Nat × List Byte)
  | 0, _, _ => []
  | fuel + 1, addr, b =>
    if b.isEmpty then []
    else
      let n := 64 - addr % 64
      (addr, b.take n) :: cutLines fuel (addr + n) (b.drop n)

/-- A write of any length, line by line; the first line that is not performed ends it. -/
def accessWriteAll (who : Accessor) (key : Key) (addr : Nat) (b : List Byte) (s : State) : Bool × State :=
  (cutLines (b.length / 64 + 2) addr b).foldl (fun (a : Bool × State) e =>
    if a.1 then accessWrite who key e.1 e.2 a.2 else a) (true, s)

/-- Reads of the words `ws` of one line, after the checks before an access; none where one is unusable. -/
def accessReadWords (who : Accessor) (key : Key) (addr : Nat) (ws : List Nat) (s : State) : Option (List W64) × State :=
  match gate who key addr false s.dev with
  | .go => ws.foldl (fun (a : Option (List W64) × State) k =>
      match a.1 with
      | none => a
      | some l =>
        let k := reach s.dev key (8 * k) / 8
        let (r, inj, s) := readWord (readerOf who) k a.2
        match r with
        | .ok w => (some (l ++ [w]), s)
        | .error e => (none, if inj then s else onDev (meetUnusable who (8 * k) e) s)) (some [], s)
  | g => (none, onDev (gateStop g who addr) s)

/-- The stretches of `[addr, addr + n)` within single lines, by at most `fuel` lines. -/
def cutRange : Nat → Nat → Nat → List (Nat × Nat)
  | 0, _, _ => []
  | fuel + 1, addr, n =>
    if n = 0 then []
    else (addr, min n (64 - addr % 64)) :: cutRange fuel (addr + min n (64 - addr % 64)) (n - min n (64 - addr % 64))

/-- A read of any length, line by line; the first line that cannot be used ends it. -/
def accessReadAll (who : Accessor) (key : Key) (addr n : Nat) (s : State) : Option (List Byte) × State :=
  (cutRange (n / 64 + 2) addr n).foldl (fun (a : Option (List Byte) × State) e =>
    match a.1 with
    | none => a
    | some b =>
      let first := e.1 / 8
      let words := (List.range ((e.1 + e.2 - 1) / 8 - first + 1)).map (first + ·)
      let (r, s) := accessReadWords who key e.1 words a.2
      (r.map fun ws => b ++ bytesAt (ws.flatMap fun w => leBytes 8 w.toNat) (e.1 % 8) e.2, s)) (some [], s)

/-! ### Waiting requests (R247) -/

/-- A request that has its tokens is performed. -/
def perform (r : Request) (s : State) : State :=
  let key := keyOf s.dev r.who
  match r.data with
  | none =>
    let (v, s) := accessRead r.who key r.addr s
    onDev (modCtl fun m => { m with lastRead := v }) s
  | some b => (accessWrite r.who key r.addr b s).2

/-- The order in which a stop serves requests whose tokens came at one instant: the device first, then increasing criticality, then
round-robin from the partition served last (R242, R247). -/
def serveRank (d : Dev) (r : Request) : Nat :=
  if r.bucket = 16 then 0
  else
    let c := ((partOf? d r.bucket).map (·.criticality)).getD 3
    let last := kget 15 d.sched.turn ((stopAt? r.addr).getD 24)
    1 + 16 * c + (r.bucket + 15 - last) % 16

/-- `a` is served before `b`. -/
def servedBefore (d : Dev) (a b : Request) : Bool :=
  decide (a.due < b.due) || (a.due == b.due && decide (serveRank d a < serveRank d b))

/-- The request that is served next, of those whose tokens have come. -/
def nextRequest? (d : Dev) : Option Request :=
  (d.sched.requests.filter fun r => decide (r.due ≤ d.geyser.now)).foldl (fun a r => match a with
    | none => some r
    | some b => if servedBefore d r b then some r else some b) none

/-- One waiting request is served. -/
def serveOne (s : State) : State :=
  match nextRequest? s.dev with
  | none => s
  | some r => perform r (onDev (modSched fun x => { x with
      requests := x.requests.erase r
      turn := if r.bucket = 16 then x.turn else kput x.turn ((stopAt? r.addr).getD 24) r.bucket }) s)

/-- Every request whose tokens have come by now is served. -/
def serveRequests (s : State) : State := (List.range s.dev.sched.requests.length).foldl (fun s _ => serveOne s) s

/-- The host-side channel that carries a transfer: one in service that is not halted. Which one the manual leaves open: the first,
DESIGN CHOICE (notes/assumptions/49.md). -/
def hostChannel? (d : Dev) : Option Nat :=
  ((List.range 32).map (256 + ·)).find? fun c => !(dmaOf d c).out && !(dmaOf d c).halted

/-- Bytes that units have written reach memory: the tap with the device key, host-side channels with the partition of their command
(R111, R135, R244). -/
def flushWrites (s : State) : State :=
  s.dev.memctl.toWrite.foldl (fun s e =>
    if e.2.1 < 16 then (accessWriteAll (.dma ((hostChannel? s.dev).getD 256)) (.partition (Fin.ofNat 16 e.2.1)) e.1 e.2.2 s).2
    else (cutLines (e.2.2.length / 64 + 2) e.1 e.2.2).foldl (fun s x =>
      (accessWrite .device .device (placeNow s.dev x.1) x.2 s).2) s) (onDev (modCtl fun m => { m with toWrite := [] }) s)

/-- Time comes to a memory command's instant. -/
def atMem (at_ : Time) (s : State) : State := serveRequests (flushWrites (onDev (advance at_) s))

/-- A request reaches its stop: refused there, performed at once, or made to wait until its tokens have come. A request that a bucket
blocks is not served before a commit gives the bucket a rate: it has no effect but WAITED. -/
def ask (r : Request) (s : State) : State :=
  let key := keyOf s.dev r.who
  let r := { r with bucket := bucketNo key }
  match gate r.who key r.addr r.data.isSome s.dev with
  | .go =>
    let cost := match r.data with | some b => writeCost s.dev r.addr b.length | none => 1
    let (t, d) := takeTokens r.who key r.addr cost s.dev
    let s := { s with dev := d }
    match t with
    | some t =>
      if t ≤ d.geyser.now then perform r s
      else onDev (modSched fun x => { x with requests := x.requests ++ [{ r with due := t }] }) s
    | none => s
  | g => onDev (gateStop g r.who r.addr) s

/-! ### The commands -/

/-- MEMORY_READ: what it returns is held, none where the data is unusable, the access refused or the request still waits. A read with
the device key at an address that does not exist stops. -/
def execMemoryRead (at_ : Time) (who : Accessor) (line off : Nat) (s : State) : Host.Outcome State Fault Refusal :=
  let addr := 64 * line + off
  let s := onDev (modCtl fun m => { m with lastRead := none }) (atMem at_ s)
  match who, mapped s.dev who addr with
  | .device, false => .fault (.unmapped addr)
  | .fumarole, false => .fault (.unmapped addr)
  | _, _ => .next (zeroCores (ask { who := who, addr := addr, bucket := 16, due := 0 } s))

/-- MEMORY_WRITE: a request for each line that it touches. -/
def execMemoryWrite (at_ : Time) (who : Accessor) (line off : Nat) (data : List Byte) (s : State) :
    Host.Outcome State Fault Refusal :=
  let addr := 64 * line + off
  let s := atMem at_ s
  match who, mapped s.dev who addr with
  | .device, false => .fault (.unmapped addr)
  | .fumarole, false => .fault (.unmapped addr)
  | _, _ => .next (zeroCores ((cutLines (data.length / 64 + 2) addr data).foldl (fun s e =>
      ask { who := who, addr := e.1, bucket := 16, due := 0, data := some e.2 } s) s))

/-! ### Scrubbing (R292 to R296) -/

/-- Corrected words of a page are rewritten and logged. -/
def scrubWords (p : Nat) (s : State) : State :=
  ((pageWords p).filter fun k => syndAt s.mem k != 0 && !isBad s.mem k).foldl (fun s k =>
    if onlyInjected k s then onDev (fun d => endInjection (k / 8) (foundInjection k true d)) { s with mem := fixWord k s.mem }
    else onDev (fun d => logWord k (countWord k d)) { s with mem := fixWord k s.mem }) s

/-- Lines that the engine poisons are recorded, and a reloadable page is named (R293, R294). -/
def scrubPoison (p : Nat) (lines : List Nat) (cause kind : Nat) (s : State) : State :=
  let was := s.mem
  let k := ((lineWords (lines.headD (64 * p))).find? fun k => if cause = 4 then syndAt was k != 0 else isBad was k).getD (8 * lines.headD (64 * p))
  let s := { s with mem := lines.foldl (fun m l => poisonLine l m) s.mem }
  onDev (fun d =>
    let d := logPage p lines cause d
    let d := match stopAt? (4096 * p) with
      | some stop => captureMem stop kind rdFumarole (syndAt was k) k d
      | none => d
    tellPoison p rdFumarole lines d) s

/-- The parity words of a page that the word code corrects. -/
def flawedParity (m : Mem) (p : Nat) : List Nat :=
  (List.range 4).filter fun j => kget 0 m.psynd (4 * p + j) != 0 && readSyndrome (kget 0 m.psynd (4 * p + j)) != .bad

/-- The flaw of a page's check bytes is exactly the one that an injection of KIND 5 left, which no read has met yet (R301). -/
def parityInjected (p : Nat) (s : State) : Bool :=
  match stopAt? (4096 * p) with
  | none => false
  | some stop =>
    let x := stopOf s.dev stop
    let v := x.inject.toNat
    let byte := 2 * (v / 2 ^ 24 % 16)
    x.injectAddr / 4096 == p && v / 2 ^ 28 % 8 == 5 && x.inject.getLsbD 2 && !x.inject.getLsbD 1 &&
      kget 0 s.mem.psynd (4 * p + byte / 8) == columns.getD (8 * (byte % 8) + v / 2 ^ 8 % 8) 0 && flawedParity s.mem p == [byte / 8]

/-- Corrected check bytes are rewritten. They are words like any other (R277), so each counts; the write-back log holds word addresses,
and they have none. -/
def scrubParity (p : Nat) (s : State) : State :=
  let n := (flawedParity s.mem p).length
  let inj := parityInjected p s
  onDev (fun d => match stopAt? (4096 * p) with
    | some _ =>
      if inj then foundInjection (512 * p) true d
      else (List.range n).foldl (fun d _ => countWord (512 * p) d) d
    | none => d) { s with mem := putParity p (checkAt s.mem p) s.mem }

/-- A DURABLE page (Table 11.6). Check bytes that cannot be read are built anew, and a decode in error mode is a page decode that
succeeded (DEDUCED, notes/assumptions/49.md). -/
def scrubDurable (p : Nat) (s : State) : State :=
  let s := scrubWords p s
  if !parityOk s.mem p then
    let new := (badLines s.mem p).filter fun l => !linePoisoned s.mem l
    let s := { s with mem := buildParity p (new.foldl (fun m l => poisonLine l m) s.mem) }
    onDev (fun d =>
      let d := tellPoison p rdFumarole new (logPage p (badLines s.mem p) 3 d)
      match stopAt? (4096 * p) with
      | some stop => captureMem stop 6 rdFumarole 0 (512 * p) d
      | none => d) s
  else
    let s := scrubParity p s
    let bad := (badLines s.mem p).filter fun l => !linePoisoned s.mem l
    if !bad.isEmpty then
      let k := ((lineWords (bad.headD 0)).find? (isBad s.mem)).getD 0
      let inj := onlyInjected k s
      match eraseDecode s.mem p with
      | some m' =>
        let fixed := (pageWords p).filter (isBad s.mem)
        onDev (fun d =>
          if inj then endInjection (k / 8) (foundInjection k true d)
          else
            let d := fixed.foldl (fun d k => logWord k d) d
            match stopAt? (4096 * p) with
            | some stop => signal (sMem stop 1) (captureMem stop 1 rdFumarole (syndAt s.mem k) k d)
            | none => d) { s with mem := m' }
      | none => if inj then onDev (foundInjection k false) s else scrubPoison p bad 1 2 s
    else if (badLines s.mem p).isEmpty && pageDirty s.mem p then
      match errorDecode s.mem p with
      | some m' => onDev (fun d => match stopAt? (4096 * p) with
          | some stop => signal (sMem stop 1) (captureMem stop 5 rdFumarole 0 (512 * p) d)
          | none => d) { s with mem := m' }
      | none => scrubPoison p (pageLines p) 2 2 s
    else s

/-- SCRUB_PAGE: an engine reads a page and acts as Table 11.6 says. Its reads of the 64 lines and of the check bytes take device tokens
(R292); the command's instant is the one at which they are served. The pass of HBM pauses while a segment moves (R297). An
engine walks pages in increasing address, so a lower page than its last begins the next pass. -/
def scrubPage (p : Nat) (s : State) : State :=
  match stopAt? (4096 * p) with
  | none => s
  | some stop =>
    if inHbm (4096 * p) && s.dev.memctl.moving.isSome then s else
    let s := onDev (fun d =>
      (if inHbm (4096 * p) then chargeHbm stop 16 d.geyser.now 65 else fun d => (none, d)) (modStop stop (fun x => { x with
        passPage := p
        passStart := if p < x.passPage then d.geyser.now else x.passStart }) d) |>.2) s
    match modeAt s.dev (512 * p) with
    | .durable => scrubDurable p s
    | .ephemeral =>
      let s := scrubWords p s
      let bad := (badLines s.mem p).filter fun l => !linePoisoned s.mem l
      if bad.isEmpty then s
      else
        let k := ((lineWords (bad.headD 0)).find? (isBad s.mem)).getD 0
        if onlyInjected k s then onDev (foundInjection k false) s else scrubPoison p bad 1 2 s
    | .check =>
      let bad := (pageLines p).filter fun l => !lineClean s.mem l && !linePoisoned s.mem l
      if bad.isEmpty then s
      else if onlyInjected (8 * bad.headD 0) s then onDev (foundInjection (8 * bad.headD 0) false) s
      else scrubPoison p bad 4 4 s

def execScrubPage (at_ : Time) (page : Nat) (s : State) : Host.Outcome State Fault Refusal :=
  .next (onDevZ id (scrubPage page (atMem at_ s)))

/-- SCRUB_VERIFY_READ, 1 ms after the write-back of a word in the log (R296). -/
def verifyRead (k : Nat) (s : State) : State :=
  match stopAt? (8 * k) with
  | none => s
  | some stop =>
    match (stopOf s.dev stop).wbLog.find? (·.1 == k) with
    | none => s
    | some e =>
      let s := onDev (advance e.2) s
      let drop (d : Dev) : Dev := modStop stop (fun x => { x with wbLog := x.wbLog.filter (·.1 != k) }) d
      if syndAt s.mem k ≠ 0 ∧ !isBad s.mem k then
        onDev (fun d => logWord k (stickyEvent stop k (countWord k d))) { s with mem := fixWord k s.mem }
      else onDev drop s

def execScrubVerifyRead (word : Nat) (s : State) : Host.Outcome State Fault Refusal :=
  .next (onDevZ id (verifyRead word (flushWrites s)))

/-! ### Relocation (R297) -/

/-- The entries of a table whose keys lie in `[a, a + n)` are copied to `[b, b + n)`, over what is there. -/
def moveKeys {α : Type} [DecidableEq α] (z : α) (a b n : Nat) (t : KMap α) : KMap α :=
  (t.filter fun e => decide (a ≤ e.1) && decide (e.1 < a + n)).foldl (fun t e => kset z t (e.1 - a + b) e.2)
    (t.filter fun e => !(decide (b ≤ e.1) && decide (e.1 < b + n)))

/-- The contents of HBM segment `a` are copied to segment `b`, with their marks and parity. -/
def moveSegment (a b : Nat) (m : Mem) : Mem :=
  { words := moveKeys 0 (262144 * a) (262144 * b) 262144 m.words
    synd := moveKeys 0 (262144 * a) (262144 * b) 262144 m.synd
    parity := moveKeys 0 (16384 * a) (16384 * b) 16384 m.parity
    psynd := moveKeys 0 (2048 * a) (2048 * b) 2048 m.psynd }

/-- RELOCATION_COMPLETE: the spare takes the old segment's contents, tag and mode; the old one is retired. -/
def relocated (g : Nat) (s : State) : State :=
  match s.dev.memctl.moving with
  | none => s
  | some (a, b, _) =>
    if a ≠ g then s
    else
      let t := segOf s.dev a
      let s := { s with mem := moveSegment a b s.mem }
      onDev (fun d =>
        let d := modSeg b (fun _ => t) d
        let d := modSeg a (fun x => { x with retired := true, valid := false }) d
        modCtl (fun m => { m with
          moved := (let l := kmapv (fun _ v => if v = a then b else v) m.moved
            if m.moved.any (·.2 == a) then l else kput l a b)
          moving := match m.toMove with
            | x :: _ => some (x, 12064 + (128 - (m.spares + m.toMove.length)), d.geyser.now)
            | [] => none
          toMove := m.toMove.drop 1 }) d) s

def execRelocationComplete (at_ : Time) (segment : Nat) (s : State) : Host.Outcome State Fault Refusal :=
  .next (relocated segment (atMem at_ s))

/-! ### Fumarole's pass (R292, R418) -/

/-- FUMAROLE_LATE: a scrub engine's pass is not complete within 1.25 times the period. -/
def execFumaroleLate (stop : Fin 20) (s : State) : Host.Outcome State Fault Refusal :=
  .next (onDevZ (fun d =>
    let t := (stopOf d stop.val).passStart + ms (1250 * d.memctl.passSec)
    signal 751 (modStop stop.val (fun x => { x with passStart := t }) (advance t d))) s)

/-! ### Modes (R271, R290) -/

def segModeOf (m : BitVec 2) : Option SegMode :=
  match m.toNat with
  | 0 => some .durable
  | 1 => some .ephemeral
  | 2 => some .check
  | _ => none

/-- SEG_MODE_WRITE: the Steward writes MODE and the stop converts the segment; the reserved code changes nothing. -/
def execSegModeWrite (at_ : Time) (segment : Nat) (mode : BitVec 2) (s : State) : Host.Outcome State Fault Refusal :=
  .next (onDev (fun d =>
    let d := advance at_ d
    match segModeOf mode with
    | some m => if (segOf d segment).mode = m then d
                else modSeg segment (fun x => { x with converting := true, convertTo := m }) d
    | none => d) s)

/-- The first word and the number of words of a segment. -/
def segmentWords (g : Nat) : Nat × Nat :=
  if g < 12192 then (262144 * g, 262144)
  else (0x200000000 + (g - 12192) / 128 * 1048576 + (g - 12192) % 128 * 8192, 8192)

/-- One line with a mark is read under its old mode and written under the new one. -/
def convertLine (old : SegMode) (l : Nat) (m : Mem) : Mem :=
  if old = .check then poisonLine l m
  else if lineBad m l then poisonLine l m
  else (lineWords l).foldl (fun m k => fixWord k m) m

/-- Lines of a segment that hold a mark. -/
def markedLines (g : Nat) (m : Mem) : List Nat :=
  let (a, n) := segmentWords g
  ((m.synd.filter fun e => decide (a ≤ e.1) && decide (e.1 < a + n)).map (·.1 / 8)).eraseDups

/-- Pages of a segment that hold anything but zero. -/
def usedPages (g : Nat) (m : Mem) : List Nat :=
  let (a, n) := segmentWords g
  ((m.words.filter fun e => decide (a ≤ e.1) && decide (e.1 < a + n)).map (·.1 / 512)).eraseDups

/-- The parity of a segment's pages is dropped, or built anew. -/
def convertParity (g : Nat) (mode : SegMode) (m : Mem) : Mem :=
  let (a, n) := segmentWords g
  let inside (p : Nat) : Bool := decide (a / 512 ≤ p) && decide (p < (a + n) / 512)
  let m := { m with
    parity := m.parity.filter fun e => !inside (e.1 / 32)
    psynd := m.psynd.filter fun e => !inside (e.1 / 4) }
  if mode = .durable then (usedPages g m).foldl (fun m p => buildParity p m) m else m

/-- SEGMENT_CONVERSION_COMPLETE (R290): each line is read under its old mode. Corrected words count; lines unusable under the old mode are written poisoned and
recorded with cause CONVERSION. -/
def convertSegment (g : Nat) (s : State) : State :=
  let t := segOf s.dev g
  if !t.converting then s
  else
    let ls := markedLines g s.mem
    let s := if t.mode = .durable then (ls.filter (lineBad s.mem)).foldl (fun s l => (readLine rdDevice l s).2.2) s else s
    let bad := ls.filter fun l => decide (t.mode = .check) || lineBad s.mem l
    let new := bad.filter fun l => !linePoisoned s.mem l
    let fixed := if t.mode = .check then [] else
      (ls.filter fun l => !lineBad s.mem l).flatMap fun l => (lineWords l).filter fun k => syndAt s.mem k != 0
    let m := convertParity g t.convertTo (ls.foldl (fun m l => convertLine t.mode l m) s.mem)
    onDev (fun d =>
      let d := fixed.foldl (fun d k => correctedWord k d) d
      let d := bad.foldl (fun d l => logPage (l / 64) [l] 5 d) d
      let d := (new.map (· / 64)).eraseDups.foldl (fun d p => tellPoison p rdDevice (new.filter fun l => l / 64 == p) d) d
      modSeg g (fun x => { x with converting := false, mode := x.convertTo }) d) { s with mem := m }

def execSegmentConversionComplete (at_ : Time) (segment : Nat) (s : State) : Host.Outcome State Fault Refusal :=
  .next (onDevZ id (convertSegment segment (atMem at_ s)))

/-- Objects that a host-side transfer has landed in CHECK segments are converted to DURABLE (R494). -/
def convertLanded (s : State) : State :=
  let gs := (s.dev.memctl.allocs.flatMap (allocSegs s.dev)).filter fun g => (segOf s.dev g).converting && (segOf s.dev g).reloadable
  gs.foldl (fun s g => convertSegment g s) s

/-! ### Injection (R301, Table 11.10) -/

/-- A stored bit of a word is inverted: data bit, or check bit from 64 on. In CHECK mode a change of data leaves the line's
stored CRC, so every check byte of the line differs by the CRC's change. -/
def flipBit (check : Bool) (l i b : Nat) (m : Mem) : Mem :=
  let k := 8 * l + i
  if b ≥ 64 then { m with synd := kset 0 m.synd k (syndAt m k ^^^ BitVec.twoPow 8 (b - 64)) }
  else
    let old := (lineWords l).flatMap fun j => leBytes 8 (wordAt m j).toNat
    let w := wordAt m k ^^^ BitVec.twoPow 64 b
    if check then
      let m' := { m with words := kset 0 m.words k w }
      let new := (lineWords l).flatMap fun j => leBytes 8 (wordAt m' j).toNat
      let diff := crc64 old ^^^ crc64 new
      (List.range 8).foldl (fun m i => { m with synd := kset 0 m.synd (8 * l + i) (syndAt m (8 * l + i) ^^^ byteOf diff i) }) m'
    else putWord k w (syndAt m k ^^^ checkByte (wordAt m k) ^^^ checkByte w) m

/-- The injection of a MEM_INJECT word on line `l`. -/
def injectLine (v : Nat) (check : Bool) (l : Nat) (m : Mem) : Mem :=
  let word := v / 2 ^ 24 % 8
  let a := v / 2 ^ 8 % 256
  let b := v / 2 ^ 16 % 256
  match v / 2 ^ 28 % 8 with
  | 0 => flipBit check l word (a % 72) m
  | 1 => flipBit check l word (b % 72) (flipBit check l word (a % 72) m)
  | 2 => (List.range 128).foldl (fun m i =>
      let x := 2 * a + i
      if x < 512 then flipBit check l (x / 64) (x % 64) m else m) m
  | 3 => flipBit check l (a % 64 / 8) (64 + a % 8) m
  | 4 => poisonLine l m
  | 5 =>
    let byte := 2 * (v / 2 ^ 24 % 16)
    let key := 4 * (l / 64) + byte / 8
    let raw : Byte := kget 0 m.parity (32 * (l / 64) + byte)
    let bit := 8 * (byte % 8) + a % 8
    { m with
      parity := kset 0 m.parity (32 * (l / 64) + byte) (raw ^^^ BitVec.twoPow 8 (a % 8))
      psynd := kset 0 m.psynd key (kget 0 m.psynd key ^^^ columns.getD bit 0) }
  | _ => m

/-- MEM_INJECT_ARM: a write of MEM_INJECT; ARM applies the injection at once to the line of MEM_INJECT_ADDR and clears the
three flags. -/
def memInject (stop v : Nat) (s : State) : State :=
  let x := stopOf s.dev stop
  let keep := v % 2 ^ 31 / 8 * 8 % 2 ^ 31
  if v / 2 ^ 31 % 2 = 0 then
    onDev (modStop stop fun y => { y with inject := BitVec.ofNat 32 keep ||| (y.inject &&& 7) }) s
  else
    let l := x.injectAddr / 64
    let check := decide (modeAt s.dev (8 * l) = .check)
    if stopAt? (64 * l) ≠ some stop then
      onDev (modStop stop fun y => { y with inject := BitVec.ofNat 32 keep }) s
    else
      let m := injectLine v check l s.mem
      onDev (modStop stop fun y => { y with
        inject := BitVec.ofNat 32 (keep + 4)
        expect := (lineWords l).map (syndAt m) }) { s with mem := m }

def execMemInjectArm (at_ : Time) (stop : Fin 21) (value : W32) (s : State) : Host.Outcome State Fault Refusal :=
  .next (memInject stop.val value.toNat (atMem at_ s))

end Sys2Proof.Machine
end

