-- ==== Sys2Proof/Machine/Special.lean ====
section
/-! DEFINITION. The special functions of Table 8.1 (08 R192). Division and square root are correctly rounded; the others give a
value within 1 ulp of the function's, and which one of those is left free. The function itself is formed with 160 bits behind
the point, which is far below the bound. -/

namespace Sys2Proof.Machine

open Sys2Proof

/-! ### Fixed point: 2^-160 units -/

def fxOne : Int := 2 ^ 160
def fxMul (a b : Int) : Int := a * b / fxOne
def fxDiv (a b : Int) : Int := if b = 0 then 0 else a * fxOne / b
def fxOf (d : Dy) : Int := if d.e + 160 ≥ 0 then d.m * 2 ^ (d.e + 160).toNat else d.m / 2 ^ (-(d.e + 160)).toNat
def dyOf (x : Int) : Dy := { m := x, e := -160 }

/-- π, ln 2 and 2 / √π. -/
def fxPi : Int := 4591442807048218921384805199743311128454155024418
def fxLn2 : Int := 1013035739299659071135698605846798551586536899366
def fxErf : Int := 1649128000240172121335468122222580532118151184855

/-- Σ of a series whose term `n` becomes term `n + 1` by `next`; `weigh` gives what a term adds. -/
def series (next weigh : Nat → Int → Int) : Nat → Nat → Int → Int
  | 0, _, _ => 0
  | fuel + 1, n, t => weigh n t + series next weigh fuel (n + 1) (next n t)

/-- e^x for 0 ≤ x ≤ 1. -/
def fxExp (x : Int) : Int := series (fun n t => fxMul t x / (n + 1)) (fun _ t => t) 60 0 fxOne

/-- 2 · atanh y for |y| ≤ 1/3. -/
def fxAtanh2 (y : Int) : Int := 2 * series (fun _ t => fxMul t (fxMul y y)) (fun n t => t / (2 * n + 1)) 60 0 y

/-- sin and cos for |x| ≤ 1. -/
def fxSin (x : Int) : Int := series (fun n t => -(fxMul t (fxMul x x)) / ((2 * n + 2) * (2 * n + 3))) (fun _ t => t) 40 0 x
def fxCos (x : Int) : Int := series (fun n t => -(fxMul t (fxMul x x)) / ((2 * n + 1) * (2 * n + 2))) (fun _ t => t) 40 0 fxOne

/-- erf for |x| ≤ 6. -/
def fxErfOf (x : Int) : Int :=
  fxMul fxErf (series (fun n t => -(fxMul t (fxMul x x)) / (n + 1)) (fun n t => t / (2 * n + 1)) 220 0 x)

/-! ### The functions of a finite value -/

/-- 2^(n + r / ln 2) for 0 ≤ r < ln 2. -/
def expParts (n r : Int) : Dy := { m := fxExp r, e := n - 160 }
def exp2Dy (x : Dy) : Dy :=
  let n := fxOf x / fxOne
  expParts n (fxMul (fxOf x - n * fxOne) fxLn2)
def expDy (x : Dy) : Dy :=
  let n := fxOf x / fxLn2
  expParts n (fxOf x - n * fxLn2)

/-- ln (m · 2^e). -/
def lnFx (m : Nat) (e : Int) : Int :=
  let k := Nat.log2 m
  let y : Int := m * fxOne / 2 ^ k
  fxLn2 * (e + k) + fxAtanh2 (fxDiv (y - fxOne) (y + fxOne))

/-- A magnitude below 2^-30, where the series are the value itself within 2^-60 of it. -/
def tiny (x : Dy) : Bool := x.abs.lt { m := 1, e := -30 }

def tanhFx (x : Int) : Int :=
  let e := fxOf (expDy (dyOf (-2 * x.natAbs)))
  let t := fxDiv (fxOne - e) (fxOne + e)
  if x < 0 then -t else t

/-- The quarter turn that holds `x`, and the rest. -/
def quarter (x : Int) : Int × Int :=
  let q := (2 * x + fxPi / 2) / fxPi
  (q, x - q * fxPi / 2)
def sinFx (x : Int) : Int :=
  let (q, r) := quarter x
  match (q % 4).toNat with
  | 0 => fxSin r
  | 1 => fxCos r
  | 2 => -fxSin r
  | _ => -fxCos r

/-- The function's value at a finite input of its domain, to far less than 1 ulp. -/
def nearly (fn : SpecialFn) (s : Bool) (m : Nat) (e : Int) : Dy :=
  let x : Dy := { m := if s then -(m : Int) else m, e := e }
  match fn with
  | .recip => { m := (if s then -1 else 1) * (2 ^ 400 / m : Nat), e := -400 - e }
  | .rsqrt =>
    let (m, e) := if e % 2 = 0 then (m, e) else (2 * m, e - 1)
    { m := sqrtNat 200 (2 ^ 400 / m) 0, e := -200 - e / 2 }
  | .exp2 => exp2Dy x
  | .exp => expDy x
  | .log2 => dyOf (fxDiv (lnFx m e) fxLn2)
  | .log => dyOf (lnFx m e)
  | .tanh => if tiny x then x else if (Dy.ofNat 40).le x.abs then { m := if s then -1 else 1, e := 0 } else dyOf (tanhFx (fxOf x))
  | .sigmoid =>
    if (Dy.ofNat 100).le x then { m := 1, e := 0 }
    else if x.le { m := -60, e := 0 } then expDy x
    else dyOf (fxDiv fxOne (fxOne + fxOf (expDy x.neg)))
  | .erf =>
    if tiny x then x.mul (dyOf fxErf)
    else if (Dy.ofNat 6).le x.abs then { m := if s then -1 else 1, e := 0 }
    else dyOf (fxErfOf (fxOf x))
  | .sin => if tiny x then x else dyOf (sinFx (fxOf x))
  | .cos => dyOf (sinFx (fxOf x + fxPi / 2))
  | .div | .sqrt => x

/-! ### The bound of 1 ulp -/

/-- The place of an fp32 pattern in the order of its values, and back. -/
def ordOf (w : W32) : Int := if w.msb then -((w.toNat % 2 ^ 31 : Nat) : Int) else w.toNat
def ofOrd (n : Int) : W32 := if n < 0 then BitVec.ofNat 32 (2 ^ 31 + n.natAbs) else BitVec.ofNat 32 n.toNat

/-- One unit in the last place at a pattern. -/
def ulpAt (w : W32) : Dy := { m := 1, e := max 1 (w.toNat / 2 ^ 23 % 256 : Nat) - 150 }

/-- The value that the unit writes for a function whose value is `v`: the nearest, or a neighbour that lies within 1 ulp. -/
def withinUlp (fn : SpecialFn) (a : W32) (v : Dy) : W32 :=
  let r := toFp32 (valOfDy false v)
  let c := ofOrd (ordOf r - 1 + (Config.ulpChoice fn a % 3 : Nat))
  match (fp32Val r).dy?, (fp32Val c).dy? with
  | some _, some x => if (x.sub v).abs.le (ulpAt r) then c else r
  | _, _ => r

/-- A special function (Table 8.1): the special values, then a value within the bound. -/
def specialEval (fn : SpecialFn) (a b : W32) : W32 :=
  match fn, fp32Val a with
  | .div, _ => fdiv a b
  | .sqrt, _ => fsqrt a
  | _, .nan => toFp32 .nan
  | .recip, .inf s => toFp32 (.fin s 0 0)
  | .rsqrt, .inf s => if s then toFp32 .nan else 0
  | .exp, .inf s => if s then 0 else toFp32 (.inf false)
  | .exp2, .inf s => if s then 0 else toFp32 (.inf false)
  | .log, .inf true => toFp32 .nan
  | .log2, .inf true => toFp32 .nan
  | .tanh, .inf s => toFp32 (intVal (if s then -1 else 1))
  | .erf, .inf s => toFp32 (intVal (if s then -1 else 1))
  | .sigmoid, .inf true => 0
  | .sin, .inf _ => toFp32 .nan
  | .cos, .inf _ => toFp32 .nan
  | f, .inf _ => Config.special f a
  | f, .fin s m e =>
    let x : Dy := { m := if s then -(m : Int) else m, e := e }
    match f with
    | .recip => if m = 0 then toFp32 (.inf s) else withinUlp f a (nearly f s m e)
    | .rsqrt =>
      if m = 0 then toFp32 (.inf s) else if s then toFp32 .nan else withinUlp f a (nearly f s m e)
    | .log | .log2 =>
      if m = 0 then (if s then Config.special f a else toFp32 (.inf true))
      else if s then toFp32 .nan
      else withinUlp f a (nearly f s m e)
    | .exp | .exp2 =>
      if (Dy.ofNat 200).le x then toFp32 (.inf false)
      else if x.le { m := -200, e := 0 } then withinUlp f a { m := 1, e := -200 }
      else withinUlp f a (nearly f s m e)
    | .sin | .cos => if x.abs.le { m := 1, e := 20 } then withinUlp f a (nearly f s m e) else toFp32 .nan
    | f => withinUlp f a (nearly f s m e)

end Sys2Proof.Machine
end

