-- ==== Sys2Proof/Machine/Engines.lean ====
section
/-! DEFINITION. Tensor engines (07): operand pairs, accumulation in 33 × 33 cells, the drain with its checks, injections. -/

namespace Sys2Proof.Machine

open Sys2Proof

/-! ### Pairs (Tables 7.3 and 7.4) -/

/-- What Tables 7.3 and 7.4 give a pair: operand formats, whether it is exact, the width of its register and the exponent of the
register's least significant bit, its reduction limit. -/
structure PairInfo where
  fmts : List (Nat × Nat)
  exact : Bool
  width : Nat
  lsb : Int := 0
  limit : Nat
  deriving DecidableEq, Repr

def pairInfo? (pair : Nat) : Option PairInfo :=
  match pair with
  | 0x01 => some { fmts := [(1, 1)], exact := true, width := 32, limit := 131071 }
  | 0x02 => some { fmts := [(1, 2), (2, 1)], exact := true, width := 32, limit := 65793 }
  | 0x03 => some { fmts := [(2, 2)], exact := true, width := 32, limit := 33025 }
  | 0x04 => some { fmts := [(3, 3)], exact := true, width := 32, limit := 1048576 }
  | 0x05 => some { fmts := [(1, 3), (3, 1)], exact := true, width := 32, limit := 1048576 }
  | 0x06 => some { fmts := [(4, 4), (4, 5), (5, 4), (5, 5)], exact := true, width := 88, lsb := -32, limit := 1048576 }
  | 0x07 => some { fmts := [(6, 6)], exact := true, width := 560, lsb := -272, limit := 1048576 }
  | 0x08 => some { fmts := [(7, 7)], exact := true, width := 560, lsb := -272, limit := 1048576 }
  | 0x09 => some { fmts := [(6, 7), (7, 6)], exact := true, width := 560, lsb := -272, limit := 1048576 }
  | 0x0A => some { fmts := [(8, 8)], exact := false, width := 32, limit := 65536 }
  | 0x0B => some { fmts := [(9, 9)], exact := false, width := 32, limit := 65536 }
  | 0x0C => some { fmts := [(8, 8)], exact := true, width := 560, lsb := -272, limit := 1048576 }
  | 0x0D => some { fmts := [(9, 9)], exact := true, width := 560, lsb := -272, limit := 1048576 }
  | 0x0E => some { fmts := [(10, 10)], exact := false, width := 32, limit := 65536 }
  | _ => none

/-- Drain formats (Table 7.5): int32 for integer pairs, the floating formats otherwise. -/
def drainOk (pair : Nat) (f : Byte) : Bool :=
  if pair ≤ 5 then f == 0x0B else (floatFmt? f).isSome

/-- An operation whose parameters lie in their ranges (Table 7.2). -/
def opOk (p : PairInfo) (op : EngineOp) : Bool :=
  p.fmts.contains (op.fmtA.toNat, op.fmtB.toNat) && decide (1 ≤ op.k) && decide (op.k ≤ p.limit) &&
    (match op.drain with | some f => drainOk op.pair f | none => true)

/-! ### Operands in local memory (R156, R157) -/

/-- `n` bytes of local memory at a place lie in the constants or in the allocation (R195). -/
def inView (k : Kernel) (a : LocalAddr) (n : Nat) : Bool := decide (a.off + n ≤ if a.const then k.constLength else k.localMem)

/-- The device address of a place in a core's local memory, for a pass whose allocation starts at `base`. -/
def viewAddr (core base : Nat) (a : LocalAddr) : Nat :=
  0x1100000000 + core * 0x80000 + (if a.const then a.off else base + a.off)

/-- The bytes of `n` elements of an operand format, and of the scales of 32 rows or columns over K indices. -/
def operandBytes (f : Byte) (n : Nat) : Nat :=
  match f.toNat with
  | 0x03 | 0x06 => (n + 1) / 2
  | 0x01 | 0x02 | 0x04 | 0x05 | 0x07 => n
  | 0x08 | 0x09 => 2 * n
  | _ => 4 * n
def scaleBytes (f : Byte) (k : Nat) : Nat := if f = 6 ∨ f = 7 then 32 * ((k + 31) / 32) else 0

/-- Elements without their scales. -/
def operandElems (f : Byte) (b : List Byte) : List W32 :=
  match f.toNat with
  | 0x03 | 0x06 => nibbles b
  | 0x01 | 0x02 | 0x04 | 0x05 | 0x07 => groupsOf 1 b.length b
  | 0x08 | 0x09 => groupsOf 2 b.length b
  | _ => groupsOf 4 b.length b

/-- What an operation reads: the elements of A and B, and their scales. -/
structure Operands where
  k : Nat
  fmtA : Byte
  fmtB : Byte
  a : List W32
  b : List W32
  scaleA : List Byte
  scaleB : List Byte
  deriving DecidableEq, Repr

/-- The regions an operation reads and writes, with their lengths. -/
def opReads (op : EngineOp) : List (LocalAddr × Nat) :=
  [(op.aAddr, operandBytes op.fmtA (32 * op.k)), (op.bAddr, operandBytes op.fmtB (32 * op.k)),
   (op.scaleA, scaleBytes op.fmtA op.k), (op.scaleB, scaleBytes op.fmtB op.k)]
def opWrites (op : EngineOp) : List (LocalAddr × Nat) :=
  match op.drain with
  | some f => [(op.outAddr, 1024 * elemBytes f 1), (op.sAddr, if op.mag then 8192 else 0)]
  | none => []

/-- Bytes of local memory, read line by line; an unusable word traps the kernel with the engine and the slot of the bundle that
started it (R157, Table 8.8). -/
def engineBytes (core : Fin 64) (engine slot addr n : Nat) (s : State) : Option (List Byte) × State :=
  let before := (coreOf s.dev core.val).trapStatus
  let (r, s) := accessReadAll (.core core) (coreKey s.dev core.val) addr n s
  (r, if r.isSome then s else onDev (fun d =>
    let place : W32 := BitVec.ofNat 32 (slot * 2 ^ 18 + engine * 2 ^ 10)
    if before &&& 0x80000000 = 0 then modCore core.val (fun c => { c with trapStatus := (c.trapStatus &&& 0xFF03F3FF) ||| place }) d
    else d) s)

/-- The operands of an operation, none where a read of one has ended it. -/
def readOperands (core : Fin 64) (engine slot base : Nat) (op : EngineOp) (s : State) : Option Operands × State :=
  let (rs, s) := (opReads op).foldl (fun (a : Option (List (List Byte)) × State) e =>
    match a.1 with
    | none => a
    | some l =>
      let (r, s) := engineBytes core engine slot (viewAddr core.val base e.1) e.2 a.2
      (r.map fun b => l ++ [b], s)) (some [], s)
  match rs with
  | some [a, b, sa, sb] =>
    (some { k := op.k, fmtA := op.fmtA, fmtB := op.fmtB, a := operandElems op.fmtA a, b := operandElems op.fmtB b,
            scaleA := sa, scaleB := sb }, s)
  | _ => (none, s)

/-! ### Operands and checksum operands (R161, R172) -/

/-- A scale of an MX operand: blocks of 32 reduction indices. -/
def scaleAt (l : List Byte) (i k n : Nat) : W32 :=
  (l.getD (i * ((n + 31) / 32) + k / 32) 0).setWidth 32 <<< 8

/-- A[i][k] and B[k][j]. -/
def opA (op : Operands) (i k : Nat) : Val :=
  elemVal op.fmtA (op.a.getD (i * op.k + k) 0 ||| (if op.fmtA = 6 ∨ op.fmtA = 7 then scaleAt op.scaleA i k op.k else 0))
def opB (op : Operands) (k j : Nat) : Val :=
  elemVal op.fmtB (op.b.getD (32 * k + j) 0 ||| (if op.fmtB = 6 ∨ op.fmtB = 7 then scaleAt op.scaleB j k op.k else 0))

def Val.abs : Val → Val
  | .fin _ m e => .fin false m e
  | .inf _ => .inf false
  | .nan => .nan

/-- Rounded to fp32, and rounded up to binary64. -/
def round32 (v : Val) : Val := fp32Val (toFp32 v)
def encUp64 : Val → Nat
  | .nan => nanEnc fmtFp64
  | .inf s => signBit fmtFp64 s + infEnc fmtFp64
  | .fin s m e => signBit fmtFp64 s + min (encodeMag roundUp fmtFp64 m e) (infEnc fmtFp64)
def up64 (v : Val) : Val := floatVal fmtFp64 (encUp64 v)

def sumVals (l : List Val) : Val := l.foldl Val.add (.fin false 0 0)

/-- The operand of row `i` and of column `j` at index `k`; row 32 and column 32 are the checksum operands. -/
def rowOperand (exact : Bool) (op : Operands) (i k : Nat) : Val :=
  if i < 32 then opA op i k
  else let s := sumVals ((List.range 32).map fun i => opA op i k); if exact then s else round32 s
def colOperand (exact : Bool) (op : Operands) (j k : Nat) : Val :=
  if j < 32 then opB op k j
  else let s := sumVals ((List.range 32).map fun j => opB op k j); if exact then s else round32 s

/-- The magnitude operands (R172). In a rounded pair they are rounded toward +∞; the manual names no format, and the model takes the
binary64 of the magnitude lane (DESIGN CHOICE, notes/assumptions/47.md). -/
def rowMag (exact : Bool) (op : Operands) (i k : Nat) : Val :=
  if i < 32 then (opA op i k).abs
  else let s := sumVals ((List.range 32).map fun i => (opA op i k).abs); if exact then s else up64 s
def colMag (exact : Bool) (op : Operands) (j k : Nat) : Val :=
  if j < 32 then (opB op k j).abs
  else let s := sumVals ((List.range 32).map fun j => (opB op k j).abs); if exact then s else up64 s

/-! ### Accumulation (R158, R160 to R163, R165, R170) -/

/-- One product in an exact lane: the register and the residue take a finite product, each on its own path; a flag and its
complement take the rest. The block sums of an MX pair (R161) are exact, so that each element product may enter by itself. -/
def exactAdd (lsb : Int) (l : Lane) (a b : Val) : Lane :=
  match a, b, a.mul b with
  | .fin _ ma _, .fin _ mb _, .fin s m e =>
    let x := (e - lsb).toNat
    let r : Int := ((ma % 127) * (mb % 127) * 2 ^ (x % 7) : Nat)
    { l with
      reg := l.reg + (if s then -1 else 1) * ((m : Int) * 2 ^ x)
      res := (((l.res : Int) + (if s then -r else r)) % 127).toNat }
  | _, _, .inf s =>
    match l.inf with
    | some t => if s = t then l else { l with nan := true, notNan := false }
    | none => { l with inf := some s, notInf := false }
  | _, _, .nan => { l with nan := true, notNan := false }
  | _, _, _ => l

/-- The flags of a rounded lane stand for the value that it holds. -/
def roundedLane (v : Val) : Lane :=
  { fp := v
    nan := match v with | .nan => true | _ => false
    inf := match v with | .inf s => some s | _ => none
    notNan := match v with | .nan => false | _ => true
    notInf := match v with | .inf _ => false | _ => true }

/-- One product added to a sum: exactly, or as one fused multiply-add rounded to fp32. -/
def addProduct (p : PairInfo) (l : Lane) (a b : Val) : Lane :=
  if p.exact then exactAdd p.lsb l a b else roundedLane (round32 ((a.mul b).add l.fp))

/-- One magnitude added: exactly, or in binary64 with product and sum rounded up. -/
def addMagnitude (p : PairInfo) (l : Lane) (a b : Val) : Lane :=
  if p.exact then exactAdd p.lsb l a b else roundedLane (up64 (l.fp.add (up64 (a.mul b))))

/-- The value of a lane: NaN overrides infinity, infinity the register (R163). -/
def laneVal (p : PairInfo) (l : Lane) : Val :=
  if l.nan then .nan
  else match l.inf with
    | some s => .inf s
    | none => if p.exact then .fin (decide (l.reg < 0)) l.reg.natAbs p.lsb else l.fp

def cellKeys : List Nat := List.range 1089
def cellAt (e : Engine) (i j : Nat) : Cell := kget {} e.cells (33 * i + j)

/-- A cell's sums after an operation, in increasing k. -/
def stepCell (p : PairInfo) (op : Operands) (i j : Nat) (c : Cell) : Cell :=
  (List.range op.k).foldl (fun c k =>
    { sum := addProduct p c.sum (rowOperand p.exact op i k) (colOperand p.exact op j k)
      mag := addMagnitude p c.mag (rowMag p.exact op i k) (colMag p.exact op j k) }) c

/-- Every cell after an operation. -/
def accumulate (p : PairInfo) (start : Bool) (op : Operands) (e : Engine) : Engine :=
  let e := if start then { e with cells := [], k := 0 } else e
  { e with
    cells := cellKeys.map fun n => (n, stepCell p op (n / 33) (n % 33) (cellAt e (n / 33) (n % 33)))
    k := e.k + op.k }

/-! ### Hardware errors in a cell -/

/-- Bit `b` of a register of `w` bits in two's complement is inverted. -/
def flipReg (w b : Nat) (r : Int) : Int :=
  if b < w then
    let u := (r % 2 ^ w).toNat
    signedOf w (if u.testBit b then u - 2 ^ b else u + 2 ^ b)
  else r

/-- The fp32 or binary64 value of a lane with one bit of its pattern inverted. -/
def flip32 (v : Val) (b : Nat) : Val := fp32Val (toFp32 v ^^^ BitVec.twoPow 32 b)
def flip64 (v : Val) (b : Nat) : Val :=
  floatVal fmtFp64 ((BitVec.ofNat 64 (encUp64 v)) ^^^ BitVec.twoPow 64 b).toNat

def flipLane (p : PairInfo) (mag : Bool) (b : Nat) (l : Lane) : Lane :=
  if p.exact then { l with reg := flipReg p.width b l.reg }
  else { l with fp := if mag then flip64 l.fp b else flip32 l.fp b }
def flipRes (b : Nat) (l : Lane) : Lane :=
  { l with res := if l.res.testBit (b % 7) then l.res - 2 ^ (b % 7) else l.res + 2 ^ (b % 7) }

/-- A wrong operand has entered a cell: register and residue take it alike, so that only the checksums can see it (R171). -/
def operandError (p : PairInfo) (b : Nat) (l : Lane) : Lane :=
  if p.exact then { l with reg := l.reg + 2 ^ b, res := (l.res + 2 ^ (b % 7)) % 127 } else flipLane p false b l

/-- A hardware error changes a cell. One in a converter shows at the drain only. -/
def upsetCell (p : PairInfo) (u : EngineUpset) (c : Cell) : Cell :=
  match u.part with
  | .sum => { c with sum := flipLane p false u.bit c.sum }
  | .mag => { c with mag := flipLane p true u.bit c.mag }
  | .sumResidue => { c with sum := flipRes u.bit c.sum }
  | .magResidue => { c with mag := flipRes u.bit c.mag }
  | .operand => { c with sum := operandError p u.bit c.sum }
  | .flags => { c with sum := if u.bit % 2 = 0 then { c.sum with notNan := !c.sum.notNan } else { c.sum with notInf := !c.sum.notInf } }
  | .converter => c

def upsetEngine (p : PairInfo) (us : List EngineUpset) (e : Engine) : Engine :=
  us.foldl (fun e u => { e with cells := kmod {} e.cells (33 * u.row.val + u.col.val) (upsetCell p u) }) e

/-! ### The drain (R164, R166 to R168) -/

/-- A cell's sum in the output format. -/
def drainWord (f : Byte) (sat : Bool) (v : Val) : W32 :=
  match floatFmt? f with
  | some x => BitVec.ofNat 32 (drainFloat x sat v)
  | none => match v with
    | .fin s m e => BitVec.ofInt 32 (let n : Int := (m : Int) * 2 ^ e.toNat; if s then -n else n)
    | _ => 0

/-- The bytes of an output element. -/
def outBytes (f : Byte) : Nat := elemBytes f 1

/-- The 32 × 32 results, row by row, and their S values. -/
def drainResults (p : PairInfo) (f : Byte) (sat : Bool) (e : Engine) : List Byte :=
  (List.range 1024).flatMap fun n =>
    leBytes (outBytes f) (drainWord f sat (laneVal p (cellAt e (n / 32) (n % 32)).sum)).toNat
def drainMags (p : PairInfo) (e : Engine) : List Byte :=
  (List.range 1024).flatMap fun n => leBytes 8 (encUp64 (laneVal p (cellAt e (n / 32) (n % 32)).mag))

/-! ### Comparisons (R173 to R176) -/

def Val.isFinite : Val → Bool
  | .fin .. => true
  | _ => false

/-- The cells of row or column comparison `i`, the last one the checksum cell. -/
def line (row : Bool) (i : Nat) (e : Engine) : List Cell :=
  (List.range 33).map fun j => if row then cellAt e i j else cellAt e j i

/-- A cell drains a non-finite value (R175). -/
def drainsOpen (p : PairInfo) (f : Byte) (sat : Bool) (c : Cell) : Bool :=
  match floatFmt? f with
  | some x => !(floatVal x (drainWord f sat (laneVal p c.sum)).toNat).isFinite
  | none => !(laneVal p c.sum).isFinite

/-- A row or column comparison is not made when one of its cells drains a non-finite value (R175). -/
def lineExempt (p : PairInfo) (f : Byte) (sat row : Bool) (i : Nat) (e : Engine) : Bool :=
  (line row i e).any (drainsOpen p f sat)

/-- Row and column comparisons left out at a drain, on the sum lane and, with MAG, on the magnitude lane too. -/
def exemptCount (p : PairInfo) (f : Byte) (sat mag : Bool) (e : Engine) : Nat :=
  let n := ((List.range 32).filter fun i => lineExempt p f sat true i e).length +
    ((List.range 32).filter fun i => lineExempt p f sat false i e).length
  if mag then 2 * n else n

/-- Two exact values, their difference over 100, against a bound of hundredths. -/
def withinHundredths (a b bound : Dy) : Bool := ((a.sub b).abs.mul (Dy.ofNat 100)).le bound

/-- |Σ ĉ − ĉ_check| ≤ 1.01 · (2K + 2) · 2^−24 · M̂ + (K + 1) · 2^−149, over 100 to stay exact (R174). -/
def withinDelta (k : Nat) (cells : List Val) (mag : Val) : Bool :=
  match (sumVals (cells.take 32)).dy?, (cells.getD 32 .nan).dy?, mag.dy? with
  | some s, some c, some m =>
    withinHundredths s c (((({ m := 101 * (2 * k + 2), e := -24 } : Dy)).mul m).add { m := 100 * (k + 1), e := -149 })
  | _, _, _ => true

/-- |Σ Ŝ − M̂| ≤ 1.01 · (K + 33) · 2^−52 · M̂ (R174). -/
def withinMag (k : Nat) (cells : List Val) : Bool :=
  match (sumVals (cells.take 32)).dy?, (cells.getD 32 .nan).dy? with
  | some s, some m => withinHundredths s m (({ m := 101 * (k + 33), e := -52 } : Dy).mul m)
  | _, _ => true

/-- The registers of a list of cells sum to that of the last. -/
def sumsTo (regs : List Int) : Bool := (regs.take 32).foldl (· + ·) 0 == regs.getD 32 0

/-- A row or column comparison passes on both lanes (R173, R174). In a rounded pair the checksum cell's magnitude bounds the
difference, with and without MAG. -/
def linePasses (p : PairInfo) (mag row : Bool) (i : Nat) (e : Engine) : Bool :=
  let l := line row i e
  if p.exact then sumsTo (l.map (·.sum.reg)) && (!mag || sumsTo (l.map (·.mag.reg)))
  else
    withinDelta e.k (l.map fun c => laneVal p c.sum) (laneVal p (l.getD 32 {}).mag) &&
      (!mag || withinMag e.k (l.map fun c => laneVal p c.mag))

/-- The corner comparisons pass: the checksum column's and the checksum row's sums against the corner, on both lanes. With a
special value in one of these cells they are not made: R175 speaks of rows and columns only, and a finite product that an
infinite or NaN checksum operand hides would fail them on sound hardware (DEDUCED, notes/assumptions/49.md). -/
def cornerPasses (p : PairInfo) (f : Byte) (sat mag : Bool) (e : Engine) : Bool :=
  [true, false].all fun row =>
    let l := line row 32 e
    (l.any (drainsOpen p f sat)) || (sumsTo (l.map (·.sum.reg)) && (!mag || sumsTo (l.map (·.mag.reg))))

/-- A lane's residue agrees with its register (R170). -/
def residueOk (l : Lane) : Bool := decide ((l.res : Int) = l.reg % 127)
/-- A cell's flag pairs are complements of each other (R169). -/
def flagsOk (l : Lane) : Bool := l.notNan == !l.nan && l.notInf == !l.inf.isSome

/-- A failing check: its kind as ENG_ERR codes it, row and column. -/
structure EngineFail where
  kind : Nat
  row : Nat
  col : Nat
  deriving DecidableEq, Repr

/-- The cells that fail a check of their own. -/
def cellFails (kind : Nat) (e : Engine) (ok : Cell → Bool) : List EngineFail :=
  (cellKeys.filter fun n => !ok (cellAt e (n / 33) (n % 33))).map fun n => { kind := kind, row := n / 33, col := n % 33 }

/-- Every check of a drain that fails, in the order of the kinds, then of rows and columns (R169, R170, R173, R174). The two
converters give the same from the same register, so they differ where an error has met one of them. The order among kinds is
open: DESIGN CHOICE (notes/assumptions/49.md). -/
def failures (p : PairInfo) (op : EngineOp) (f : Byte) (us : List EngineUpset) (e : Engine) : List EngineFail :=
  let lanes (b : Bool) (kind : Nat) (get : Cell → Lane) : List EngineFail :=
    if p.exact && b then cellFails kind e fun c => residueOk (get c) else []
  let lines (row : Bool) : List EngineFail :=
    ((List.range 32).filter fun i => !lineExempt p f op.saturate row i e && !linePasses p op.mag row i e).map fun i =>
      if row then { kind := 2, row := i, col := 33 } else { kind := 3, row := 32, col := i }
  lanes true 0 (·.sum) ++ lanes op.mag 1 (·.mag) ++ lines true ++ lines false ++
    (if p.exact && !cornerPasses p f op.saturate op.mag e then [{ kind := 4, row := 32, col := 32 }] else []) ++
    ((us.filter fun u => u.part == .converter && decide (u.row.val < 32) && decide (u.col.val < 32) &&
        decide (u.bit < 8 * outBytes f)).map fun u => { kind := 5, row := u.row.val, col := u.col.val }) ++
    cellFails 6 e fun c => flagsOk c.sum && (!op.mag || flagsOk c.mag)

/-! ### A failing engine (R177 to R180) -/

/-- The core source of a kind: residue, checksum, drain. -/
def engineSource (kind : Nat) : Nat := if kind ≤ 1 then 0 else if kind ≤ 4 then 1 else 2

/-- ENG_ERR's capture of a failure (Table 7.9). -/
def engErrBody (engine pair : Nat) (u : EngineFail) : W32 :=
  BitVec.ofNat 32 (u.kind % 8 * 2 ^ 27 + engine * 2 ^ 25 + u.row * 2 ^ 19 + u.col * 2 ^ 13 + pair % 32 * 2 ^ 8)

/-- ENG_ERR has captured a failure at the present instant. -/
def engCaptured (n : Nat) (d : Dev) : Bool :=
  (setsNow d).any fun h => h.reg == .engErr (Fin.ofNat 64 n) && h.bits == 0x80000000

/-- ENG_ERR takes a failure; of engines that fail in one step the lowest stands (R179). -/
def captureEng (n : Nat) (body : W32) (d : Dev) : Dev :=
  let old := (coreOf d n).engErr
  let lower := engCaptured n d && decide (body.toNat / 2 ^ 25 % 4 < old.toNat / 2 ^ 25 % 4)
  let d' := noteCapture (.engErr (Fin.ofNat 64 n)) old body 0 d
  let w := captureWord old body
  modCore n (fun c => { c with engErr := if lower then (w &&& 0xC00000FF) ||| (body &&& 0x3FFFFF00) else w }) d'

/-- A failing check of an engine: capture, the trap ENGINE_FAULT, one event on the source of the check; nothing is written. A
second engine of the same step takes no trap of its own (R179). -/
def engineFail (n engine slot pair : Nat) (u : EngineFail) (d : Dev) : Dev :=
  let again := engCaptured n d
  let d := captureEng n (engErrBody engine pair u) d
  let d := if again then d else trapOn n { kind := tEngineFault, slot := slot, engine := engine } d
  signal (sCore n (engineSource u.kind)) d

/-! ### An injected error (R181, R182, Table 7.10) -/

/-- The fields of ENG_INJECT. -/
structure Injection where
  kind : Nat
  engine : Nat
  row : Nat
  col : Nat
  bit : Nat
  deriving DecidableEq, Repr

def injection (w : W32) : Injection :=
  let n := w.toNat
  { kind := n / 2 ^ 28 % 8, engine := n / 2 ^ 26 % 4, row := n / 2 ^ 20 % 64, col := n / 2 ^ 14 % 64, bit := n / 2 ^ 4 % 1024 }

/-- An injection waits for the next drain of engine `engine`. -/
def injectWaits (c : Core) (engine : Nat) : Bool := c.engInject.getLsbD 31 && (injection c.engInject).engine == engine

/-- The error that an injection makes: in the register, or past its width in the residue, of the cell for kinds 0 to 4; in a
converter output; in a flag copy. -/
def injectUpset? (p : PairInfo) (j : Injection) : Option EngineUpset :=
  if h : j.row < 33 ∧ j.col < 33 then
    let width := if p.exact then p.width else if j.kind = 1 then 64 else 32
    let part : EnginePart :=
      if j.kind = 5 then .converter
      else if j.kind = 6 then .flags
      else if j.kind = 1 then (if j.bit < width then .mag else .magResidue)
      else if j.bit < width then .sum else .sumResidue
    let bit := if j.kind ≤ 4 ∧ j.bit ≥ width then j.bit - width else j.bit
    if (j.kind ≤ 4 ∧ bit ≥ 7 ∧ j.bit ≥ width) ∨ (j.kind = 6 ∧ bit ≥ 2) then none
    else some { part := part, row := ⟨j.row, h.1⟩, col := ⟨j.col, h.2⟩, bit := bit }
  else none

/-- The comparison that an injection exercises holds a failure: the cell, the row, the column, or the corner. -/
def injectMeets (j : Injection) (u : EngineFail) : Bool :=
  u.kind == j.kind && match j.kind with
    | 2 => u.row == j.row
    | 3 => u.col == j.col
    | 4 => true
    | _ => u.row == j.row && u.col == j.col

/-- The checker of the injection's kind fails when it sees the error; the other checkers of the drain do not see it (DEDUCED from
R181, notes/assumptions/49.md). -/
def injectSeen (p : PairInfo) (op : EngineOp) (f : Byte) (e : Engine) (j : Injection) : Bool :=
  match injectUpset? p j with
  | some u => (failures p op f [u] (upsetEngine p [u] e)).any (injectMeets j)
  | none => false

/-- The drain that carries an injection: APPLIED, and DETECTED when the checker fails. -/
def applyInject (n : Nat) (seen : Bool) (d : Dev) : Dev :=
  modCore n (fun c => { c with engInject := (c.engInject &&& 0x7FFFFFF0) ||| 8 ||| (if seen then 4 else 0) }) d

/-! ### ENGINE_OPERATION_END -/

def engineOf (c : Core) (i : Nat) : Engine := kget {} c.engines i
def setEngine (n i : Nat) (e : Engine) (d : Dev) : Dev := modCore n (fun c => { c with engines := kput c.engines i e }) d

/-- A drain that has passed every check: results and S values are written to local memory, and forwarded to pass B of a
PAIRED core (R217). -/
def writeDrain (core : Fin 64) (p : PairInfo) (op : EngineOp) (f : Byte) (e : Engine) (s : State) : State :=
  let n := core.val
  let res := drainResults p f op.saturate e
  let mags := if op.mag then drainMags p e else []
  let fwd : List (Nat × Nat × Nat × List W32) := match e.owner with
    | some (g, b, o) => if (coreOf s.dev n).split then [] else
        [(g, b, o, BitVec.ofNat 32 res.length :: groupsOf 4 (res.length + mags.length) (res ++ mags))]
    | none => []
  let s := onDev (modCore n fun c => { c with forwards := c.forwards ++ fwd }) s
  let key := coreKey s.dev n
  let (ok, s) := accessWriteAll (.core core) key (viewAddr n e.base op.outAddr) res s
  if ok && op.mag then (accessWriteAll (.core core) key (viewAddr n e.base op.sAddr) mags s).2 else s

/-- The drain of an operation (R173 to R182). Of a kernel that has stopped nothing is written, and its failures count. -/
def drain (core : Fin 64) (engine : Nat) (p : PairInfo) (op : EngineOp) (f : Byte) (us : List EngineUpset) (e : Engine)
    (stopped : Bool) (s : State) : State :=
  let n := core.val
  let c := coreOf s.dev n
  let found := failures p op f us e
  let s := onDev (modCore n fun c => { c with exempt := min (c.exempt + exemptCount p f op.saturate op.mag e) 4294967295 }) s
  let j := injection c.engInject
  let carries := injectWaits c engine
  let real := if carries then found.filter (!injectMeets j ·) else found
  let s := if carries then onDev (applyInject n (found.any (injectMeets j) || injectSeen p op f e j)) s else s
  match real with
  | u :: _ => onDev (engineFail n engine e.slot op.pair u) s
  | [] => if carries || stopped then s else writeDrain core p op f e s

/-- The end of the operation that an engine runs (R157, R159, R177). -/
def engineEnd (core : Fin 64) (engine : Nat) (us : List EngineUpset) (s : State) : State :=
  let n := core.val
  let e := engineOf (coreOf s.dev n) engine
  match e.op.bind fun op => (pairInfo? op.pair).map fun p => (op, p) with
  | none => s
  | some (op, p) =>
    if isFenced s.dev n then s
    else
      let s := onDev (setEngine n engine { e with op := none }) s
      if (if op.start then 0 else e.k) + op.k > p.limit then
        onDev (trapOn n { kind := tEngineLimit, slot := e.slot, engine := engine }) s
      else
        let stopped := ((runOn? s.dev n).map (·.stopped)).getD true
        match readOperands core engine e.slot e.base op s with
        | (none, s) => s
        | (some x, s) =>
          let e := upsetEngine p us (accumulate p op.start x { e with op := none })
          let s := onDev (setEngine n engine e) s
          match op.drain with
          | none => s
          | some f => drain core engine p op f us e stopped s

/-- ENGINE_OPERATION_END: the errors that meet the operation during its steps, and those that meet its drain. -/
def execEngineOperationEnd (at_ : Time) (core : Fin 64) (engine : Fin 4) (during atDrain : List EngineUpset) (s : State) :
    Host.Outcome State Fault Refusal :=
  .next (zeroCores (engineEnd core engine.val (during ++ atDrain) (onDev (advance at_) s)))

/-- A kernel of a criticality-0 or criticality-1 partition is in a window of the core (R181). -/
def highKernel (n : Nat) (d : Dev) : Bool :=
  match runOn? d n with
  | some r => ((partOf? d r.op.partition).map fun q => decide (q.criticality ≤ 1)).getD false
  | none => false

/-- A write of ENG_INJECT: the fields; ARM arms one injection and clears the two flags. The Steward writes ARM only where no window
of the core holds a kernel of criticality 0 or 1 (R181): elsewhere ARM is not written. -/
def writeEngInject (n : Nat) (value : W32) (d : Dev) : Dev :=
  let arm := value.getLsbD 31 && !highKernel n d
  modCore n (fun c => { c with
    engInject := if arm then value &&& 0xFFFFFFF0 else (value &&& 0x7FFFFFF0) ||| (c.engInject &&& 0x8000000C) }) d

/-- ENG_INJECT_ARM. -/
def execEngInjectArm (at_ : Time) (core : Fin 64) (value : W32) (s : State) : Host.Outcome State Fault Refusal :=
  .next (onDev (fun d => writeEngInject core.val value (advance at_ d)) s)

end Sys2Proof.Machine
end

