-- ==== Sys2Proof/Machine/Issue.lean ====
section
/-! DEFINITION. Issue (08 R184 to R210, 09 R214 to R224): a bundle instruction issues and retires, folds its items, closes
signature windows; signal objects; cluster DMA. A constant of the kernel reaches a register as `imm`: the encoding is not
published. -/

namespace Sys2Proof.Machine

open Sys2Proof

/-! ### Signatures (R221 to R224) -/

/-- sig := ((sig xor item) · x^128) mod x^128 + x^7 + x^2 + x + 1. -/
def foldItem (sig item : W128) : W128 :=
  let v : W256 := (sig ^^^ item).setWidth 256
  let t := v ^^^ (v <<< 1) ^^^ (v <<< 2) ^^^ (v <<< 7)
  let hi := t >>> 128
  (t ^^^ hi ^^^ (hi <<< 1) ^^^ (hi <<< 2) ^^^ (hi <<< 7)).setWidth 128

/-- A header item: kind, the field at bit 104 or 96, the active-lane mask. -/
def headerItem (kind field : Nat) (mask : W64) : W128 := BitVec.ofNat 128 (kind * 2 ^ 120 + field + mask.toNat)
def field104 (x : Nat) : Nat := x % 256 * 2 ^ 104
def field96 (x : Nat) : Nat := x % 65536 * 2 ^ 96

/-- Payload bytes in successive items, low byte first, by at most `fuel` items. -/
def packItems : Nat → List Byte → List W128
  | 0, _ => []
  | fuel + 1, l => if l.isEmpty then [] else BitVec.ofNat 128 (leNat (l.take 16)) :: packItems fuel (l.drop 16)

def items (header : W128) (payload : List Byte) : List W128 := header :: packItems (payload.length / 16 + 1) payload

/-! ### Where an instruction issues -/

/-- A ready bundle: its core and slot, the run and kernel it belongs to. -/
structure Site where
  core : Fin 64
  slot : Nat
  run : Run_
  kernel : Kernel
  bundle : Bundle
  split : Bool
  deriving DecidableEq, Repr

def bundleOf? (d : Dev) (n slot : Nat) : Option Bundle := kfind? (coreOf d n).bundles slot
def setBundle (n slot : Nat) (b : Bundle) (d : Dev) : Dev :=
  modCore n (fun c => { c with bundles := kput c.bundles slot b }) d
def modBundle (n slot : Nat) (f : Bundle → Bundle) (d : Dev) : Dev :=
  match bundleOf? d n slot with
  | some b => setBundle n slot (f b) d
  | none => d

/-- The bundle in a slot, when it is resident and its kernel runs. -/
def residentSite? (core : Fin 64) (slot : Nat) (d : Dev) : Option Site := do
  let b ← bundleOf? d core.val slot
  let r ← runOn? d core.val
  let k ← opKernel? d r.op
  if r.stopped || isFenced d core.val || b.ended then none
  else some { core := core, slot := slot, run := r, kernel := k, bundle := b, split := (coreOf d core.val).split }

/-- A ready bundle waits for nothing, its memory requests' tokens among them (R247). -/
def readySite? (core : Fin 64) (slot : Nat) (d : Dev) : Option Site := do
  let x ← residentSite? core slot d
  if x.bundle.waiting || x.bundle.barrier || !x.bundle.served.all (fun t => decide (t ≤ d.geyser.now)) then none else some x

/-- The active lanes of a bundle, in logical order (R189). -/
def activeMask (b : Bundle) : W64 := b.mask &&& b.lanes
def activeLanes (b : Bundle) : List Nat := (List.range 64).filter fun l => (activeMask b).getLsbD l

/-- Where a register of a logical lane stands (R185, Table 9.1): pass B is rotated by 17 lanes and its banks are swapped. -/
def physLane (b : Bundle) (lane : Nat) : Nat := if b.passB then (lane + 17) % 64 else lane
def physBank (b : Bundle) (r : Fin 64) : Nat := if b.passB then 1 - r.val / 32 else r.val / 32
def regKey (b : Bundle) (lane : Nat) (r : Fin 64) : Nat := 64 * physLane b lane + 32 * physBank b r + r.val % 32

def regAt (b : Bundle) (lane : Nat) (r : Fin 64) : W32 := kget 0 b.regs (regKey b lane r)
def putReg (r : Fin 64) (v : Nat → W32) (b : Bundle) : Bundle :=
  { b with
    regs := (activeLanes b).foldl (fun m l => kput m (regKey b l r) (v l)) b.regs
    badParity := b.badParity.filter fun k => !((activeLanes b).any fun l => regKey b l r == k) }

/-- A bit of a register changes; its parity bit does not. -/
def upsetReg (key bit : Nat) (b : Bundle) : Bundle :=
  { b with
    regs := kput b.regs key (kget 0 b.regs key ^^^ BitVec.twoPow 32 bit)
    badParity := if b.badParity.contains key then b.badParity.filter (· != key) else key :: b.badParity }

/-- The lowest active lane whose read of one of the registers fails its parity (R185). -/
def parityLane? (b : Bundle) (rs : List (Fin 64)) : Option Nat :=
  (activeLanes b).find? fun l => rs.any fun r => b.badParity.contains (regKey b l r)

/-! ### The signature store (R224) -/

/-- The entries of a store, one for each window that waits for its partner or for its comparison. -/
def storeKeys (c : Core) : List (Nat × Nat × Nat) := (c.store.map fun s => (s.group, s.index, s.window)).eraseDups

/-- A window close of the bundle finds an entry: room, or the partner's. -/
def storeRoom (c : Core) (b : Bundle) : Bool :=
  decide ((storeKeys c).length < 256) || (storeKeys c).contains (b.group, b.index, b.sig.window)

/-- The bundle's window closes: the close item, the signature into the store, the next window. -/
def closeSig (n slot : Nat) (act : Option Act) (b : Bundle) (d : Dev) : Dev :=
  let item := headerItem 0x0F 0 (activeMask b)
  let sig := (items item (leBytes 4 b.sig.window ++ leBytes 2 b.sig.retired)).foldl foldItem b.sig.sig
  let e : StoredSig := { group := b.group, index := b.index, window := b.sig.window, passB := b.passB, sig := sig, act := act }
  modCore n (fun c => { c with store := c.store ++ [e] }) (setBundle n slot { b with sig := { window := b.sig.window + 1 } } d)

/-! ### Retirement -/

/-- A bundle retires an instruction that releases nothing: it counts, and on a PAIRED core its items are folded. -/
def retireQuiet (n slot : Nat) (split : Bool) (b : Bundle) (its : List W128) (closing : Bool) (act : Option Act) (d : Dev) :
    Dev :=
  let d := modCore n (fun c => { c with retired := c.retired + 1 }) d
  if split then setBundle n slot b d
  else
    let w : SigWindow := { b.sig with sig := its.foldl foldItem b.sig.sig, retired := b.sig.retired + 1 }
    let b := { b with sig := w }
    if closing || decide (w.retired ≥ 4096) then closeSig n slot (if b.passB then none else act) b d
    else setBundle n slot b d

/-! ### Signal objects (R196 to R199) -/

/-- The object that an index of the kernel's allocation names. -/
def objectOf (x : Site) (obj : Nat) : Nat := signalBase (x.run.cores.headD 0) + obj

/-- The items of a signal operation (Table 9.2). -/
def signalItems (b : Bundle) (code obj n t : Nat) : List W128 :=
  items (headerItem 0x07 (field104 code) (activeMask b)) (leBytes 4 obj ++ leBytes 4 n ++ leBytes 4 t)

/-- A wait completes and retires; on a PAIRED core pass B's matching wait may then complete (Table 9.1). -/
def releaseWaiter (n slot obj k : Nat) (d : Dev) : Dev :=
  match bundleOf? d n slot with
  | none => d
  | some b =>
    let split := (coreOf d n).split
    let index := obj - signalBase (((runOn? d n).map fun r => r.cores.headD 0).getD 0)
    let d := if split then d
      else modCore n (fun c => { c with forwards := c.forwards ++ [(b.group, b.index, b.ordinal, [])] }) d
    retireQuiet n slot split { b with waiting := false, ordinal := b.ordinal + 1 } (signalItems b 2 index k 0) false none d

/-- Waiters are served from the head while the count suffices. -/
def serveSignal (obj : Nat) : Nat → Dev → Dev
  | 0, d => d
  | fuel + 1, d =>
    let s := signalOf d obj
    match s.waiters with
    | (n, slot, k) :: rest =>
      if k ≤ s.count then
        serveSignal obj fuel (releaseWaiter n slot obj k (setSignal obj { count := s.count - k, waiters := rest } d))
      else d
    | [] => d

/-- post(n): whether it took effect; a count above 0xFFFF_FFFF leaves the object unchanged (R197). -/
def postSignal (obj n : Nat) (d : Dev) : Bool × Dev :=
  let s := signalOf d obj
  if s.count + n > 4294967295 then (false, d)
  else (true, serveSignal obj s.waiters.length (setSignal obj { s with count := s.count + n } d))

/-- wait(n) of a bundle: it continues, or joins the tail of the queue. -/
def waitSignal (x : Site) (obj n : Nat) (d : Dev) : Dev :=
  let s := signalOf d obj
  if s.waiters.isEmpty && decide (n ≤ s.count) then
    releaseWaiter x.core.val x.slot obj n (setSignal obj { s with count := s.count - n } d)
  else
    modBundle x.core.val x.slot (fun b => { b with waiting := true })
      (setSignal obj { s with waiters := s.waiters ++ [(x.core.val, x.slot, n)] } d)

/-- A trap of a bundle. -/
def trapAt (x : Site) (kind : Nat) (d : Dev) : Dev := trapOn x.core.val { kind := kind, slot := x.slot } d

/-! ### What a closed window releases (R199, R218) -/

/-- The channel that carries the work of a channel of the kernel's allocation (R140): the cluster's channel of that number; where that
one is out of service and owes no transfer, one of the cluster's last channels in service, which admission keeps
free (Table 10.8, term 2). Which one the manual leaves open: DESIGN CHOICE (notes/assumptions/49.md). -/
def channelOf? (d : Dev) (core channel : Nat) : Option Nat :=
  let first := 16 * (core / 4)
  let lost (i : Nat) : Bool := (dmaOf d (first + i)).out && !(dmaOf d (first + i)).busy
  if channel ≥ 16 then none
  else if !lost channel then some (first + channel)
  else (((List.range 16).reverse.map (first + ·)).filter fun c => !(dmaOf d c).out)[((List.range channel).filter lost).length]?

/-- A DMA transfer starts on a channel, or on the one that carries its work by now. -/
def startDma (x : Site) (ch src dst lines : Nat) (post : Option (Nat × Nat)) (d : Dev) : Dev :=
  modDma ((channelOf? d x.core.val (ch % 16)).getD ch) (fun c =>
    if c.halted || c.out then c
    else { c with busy := true, served := none, src := src, dst := dst, lines := lines, linesDone := 0, core := x.core.val,
                  owner := (x.bundle.group, x.bundle.index), partition := x.run.op.partition, post := post }) d

/-- A transfer that a bundle of a core programmed is under way. -/
def transferring (d : Dev) (core group index : Nat) : Bool :=
  d.cores.dma.any fun e => e.2.busy && e.2.core == core && e.2.owner == (group, index)

/-- A post takes effect; one out of range traps its bundle. -/
def postNow (core slot obj n : Nat) (d : Dev) : Dev :=
  let (ok, d) := postSignal obj n d
  if ok then d else trapOn core { kind := tSignalRange, slot := slot } d

/-- A post waits for the transfers that its bundle programmed before it (R199). -/
def doAct (x : Site) (a : Act) (d : Dev) : Dev :=
  match a with
  | .post obj n =>
    if transferring d x.core.val x.bundle.group x.bundle.index then
      modCore x.core.val (fun c => { c with posts := c.posts ++
        [{ obj := obj, n := n, group := x.bundle.group, index := x.bundle.index, slot := x.slot }] }) d
    else postNow x.core.val x.slot obj n d
  | .dma ch src dst lines post => startDma x ch src dst lines post d

/-- Posts of a core whose transfers have finished take effect, in their order. -/
def flushPosts (n : Nat) (d : Dev) : Dev :=
  let due := (coreOf d n).posts.filter fun p => !transferring d n p.group p.index
  let d := modCore n (fun c => { c with posts := c.posts.filter fun p => transferring d n p.group p.index }) d
  due.foldl (fun d p => postNow n p.slot p.obj p.n d) d

/-- The bundle `b` retires an instruction with its items. `closing`: the instruction closes the window (R223); `act` is what
it releases: at once on a SPLIT core, after the comparison on a PAIRED one. -/
def retireInstr (x : Site) (b : Bundle) (its : List W128) (closing : Bool) (act : Option Act) (d : Dev) : Dev :=
  let d := retireQuiet x.core.val x.slot x.split b its closing act d
  match (if x.split then act else none) with
  | some a => doAct x a d
  | none => d

/-- The items of a register write, which retires. -/
def regItems (b : Bundle) (r : Fin 64) : List W128 :=
  items (headerItem 0x01 (field104 r.val) (activeMask b)) ((activeLanes b).flatMap fun l => leBytes 4 (regAt b l r).toNat)
def retireReg (x : Site) (b : Bundle) (r : Fin 64) (extra : List W128) (d : Dev) : Dev :=
  retireInstr x b (extra ++ regItems b r) false none d

/-- An instruction that would close a window waits while the store is full (R224). -/
def mayRetire (x : Site) (closing : Bool) (d : Dev) : Bool :=
  x.split || !(closing || decide (x.bundle.sig.retired + 1 ≥ 4096)) || storeRoom (coreOf d x.core.val) x.bundle

/-! ### Forwarded values (R215) -/

/-- The values forwarded for the bundle's next forwarded operation, taken out of the core. -/
def takeForward? (x : Site) (d : Dev) : Option (List W32 × Dev) :=
  let key (f : Nat × Nat × Nat × List W32) : Bool :=
    f.1 == x.bundle.group && f.2.1 == x.bundle.index && f.2.2.1 == x.bundle.ordinal
  match (coreOf d x.core.val).forwards.find? key with
  | some f => some (f.2.2.2, modCore x.core.val (fun c => { c with forwards := c.forwards.filter fun g => !key g }) d)
  | none => none

/-- Pass A forwards values. -/
def forward (x : Site) (v : List W32) (d : Dev) : Dev :=
  if x.split then d
  else modCore x.core.val (fun c => { c with forwards := c.forwards ++ [(x.bundle.group, x.bundle.index, x.bundle.ordinal, v)] }) d

def bump (b : Bundle) : Bundle := { b with ordinal := b.ordinal + 1 }

/-! ### Memory accesses of lanes -/

/-- A trap that a lane's access has just taken names its bundle slot and lane (R210). -/
def patchTrap (x : Site) (lane : Nat) (before : W32) (d : Dev) : Dev :=
  if before &&& 0x80000000 = 0 then
    modCore x.core.val (fun c =>
      if c.trapStatus &&& 0x80000000 = 0 then c
      else { c with trapStatus := (c.trapStatus &&& 0xFF000FFF) ||| BitVec.ofNat 32 (x.slot * 2 ^ 18 + lane * 2 ^ 12) }) d
  else d

def trapWord (x : Site) (s : State) : W32 := (coreOf s.dev x.core.val).trapStatus

/-- A lane reads bytes, and writes bytes. -/
def laneRead (x : Site) (lane addr n : Nat) (s : State) : Option (List Byte) × State :=
  let before := trapWord x s
  let (r, s) := accessReadAll (.core x.core) (coreKey s.dev x.core.val) addr n s
  (r, if r.isSome then s else onDev (patchTrap x lane before) s)
def laneWrite (x : Site) (lane addr : Nat) (b : List Byte) (s : State) : Bool × State :=
  let before := trapWord x s
  let (ok, s) := accessWriteAll (.core x.core) (coreKey s.dev x.core.val) addr b s
  (ok, if ok then s else onDev (patchTrap x lane before) s)

/-- A condition met by one lane. -/
def laneTrap (x : Site) (lane kind addr : Nat) (d : Dev) : Dev :=
  trapOn x.core.val { kind := kind, slot := x.slot, lane := lane, addr := addr } d

/-- Local memory of pass B stands complemented (Table 9.1); the constants, which both passes share, do not. -/
def passBytes (b : Bundle) (a : LocalAddr) (l : List Byte) : List Byte := if b.passB && !a.const then l.map (~~~·) else l

/-- Each active lane in turn, until one fails: the bytes by lane. -/
def lanesDo (ls : List Nat) (f : Nat → State → Option (List Byte) × State) (s : State) :
    Option (List (Nat × List Byte)) × State :=
  ls.foldl (fun (a : Option (List (Nat × List Byte)) × State) l =>
    match a.1 with
    | none => a
    | some vs =>
      let (r, s) := f l a.2
      match r with
      | some v => (some (vs ++ [(l, v)]), s)
      | none => (none, s)) (some [], s)

def bytesOf (vs : List (Nat × List Byte)) (l : Nat) : List Byte := ((vs.find? fun e => e.1 == l).map (·.2)).getD []

/-- Word `i` of what a lane has read, and the bytes that a lane stores from registers `r` on. -/
def wordOf (b : List Byte) (i : Nat) : W32 := BitVec.ofNat 32 (fieldAt b (4 * i) 4)
def regBytes (b : Bundle) (lane : Nat) (r : Fin 64) (n : Nat) : List Byte :=
  ((List.range ((n + 3) / 4)).flatMap fun i => leBytes 4 (regAt b lane (Fin.ofNat 64 (r.val + i))).toNat).take n

/-- `n` bytes per lane move between memory and consecutive registers from `r` on. -/
def widthOk (r : Fin 64) (n : Nat) : Bool := decide (1 ≤ n) && decide (r.val + (n + 3) / 4 ≤ 64)

/-- A local access of a lane (R195). -/
def localPlace (x : Site) (const : Bool) (addr : Fin 64) (l : Nat) : LocalAddr :=
  { const := const, off := (regAt x.bundle l addr).toNat }

def localRead (x : Site) (const : Bool) (addr : Fin 64) (n l : Nat) (s : State) : Option (List Byte) × State :=
  let a := localPlace x const addr l
  let at_ := viewAddr x.core.val x.bundle.base a
  if inView x.kernel a n then
    let (r, s) := laneRead x l at_ n s
    (r.map (passBytes x.bundle a), s)
  else (none, onDev (laneTrap x l tAddress at_) s)

def localWrite (x : Site) (const : Bool) (addr : Fin 64) (l : Nat) (b : List Byte) (s : State) : Option (List Byte) × State :=
  let a := localPlace x const addr l
  let at_ := viewAddr x.core.val x.bundle.base a
  if inView x.kernel a b.length then
    let (ok, s) := laneWrite x l at_ (passBytes x.bundle a b) s
    (if ok then some b else none, s)
  else (none, onDev (laneTrap x l tAddress at_) s)

/-- The start of a base of device addresses (R203). -/
def devBase (x : Site) : DevBase → Nat
  | .arg i => (x.run.args.getD i.val 0).toNat
  | .scratch => kget 0 x.run.scratch (x.core.val / 4)

/-- The kernel may reach `n` bytes at a device address: a bound argument of that access, or its scratch (R203). -/
def inBounds (x : Site) (addr n : Nat) (write : Bool) : Bool :=
  x.run.bounds.any fun e => decide (e.1 ≤ addr) && decide (addr + n ≤ e.1 + e.2.1) && e.2.2.testBit (if write then 1 else 0)

/-- A device address of a lane. -/
def devAddr (x : Site) (base : DevBase) (addr : Fin 64) (l : Nat) : Nat := devBase x base + (regAt x.bundle l addr).toNat

/-- A device access of a lane. -/
def deviceRead (x : Site) (base : DevBase) (addr : Fin 64) (n l : Nat) (s : State) : Option (List Byte) × State :=
  let a := devAddr x base addr l
  if inBounds x a n false then laneRead x l a n s else (none, onDev (laneTrap x l tAddress a) s)
def deviceWrite (x : Site) (base : DevBase) (addr : Fin 64) (l : Nat) (b : List Byte) (s : State) : Option (List Byte) × State :=
  let a := devAddr x base addr l
  if inBounds x a b.length true then
    let (ok, s) := laneWrite x l a b s
    (if ok then some b else none, s)
  else (none, onDev (laneTrap x l tAddress a) s)

/-- The requests of a device access: one for each line that an active lane touches. -/
def deviceLines (x : Site) (base : DevBase) (addr : Fin 64) (n : Nat) (write : Bool) (d : Dev) : List (Nat × Nat) :=
  (activeLanes x.bundle).flatMap fun l =>
    (cutRange (n / 64 + 2) (devAddr x base addr l) n).map fun e => (e.1, if write then writeCost d e.1 e.2 else 1)

/-- A device access issues when its requests have their tokens; until then its bundle waits (R247). A request that will be refused
takes none. -/
def withTokens (x : Site) (l : List (Nat × Nat)) (write : Bool) (f : Site → State → State) (s : State) : State :=
  let go (s : State) : State := f { x with bundle := { x.bundle with served := none } } s
  let key := coreKey s.dev x.core.val
  match x.bundle.served with
  | some _ => go s
  | none =>
    let (t, d) := claimAll (.core x.core) key (l.takeWhile fun e => gate (.core x.core) key e.1 write s.dev == .go) s.dev
    let s := { s with dev := d }
    match t with
    | none => s
    | some t =>
      if t ≤ d.geyser.now then go s else onDev (setBundle x.core.val x.slot { x.bundle with served := some t }) s

/-- What an atomic leaves in memory (Table 8.3). -/
def atomicNew (op : AtomicOp) (old v : W32) : W32 :=
  match op with
  | .add => old + v
  | .min signed => if (if signed then old.slt v else old.ult v) then old else v
  | .max signed => if (if signed then old.slt v else old.ult v) then v else old
  | .exchange => v
  | .compareExchange e => if old = e then v else old

/-- The operation code that an atomic folds. The manual does not publish the codes: free. -/
def atomicCode (op : AtomicOp) : Nat := (Config.operationCode op).toNat

/-! ### The instructions -/

/-- What a lane has read enters the registers from `dst` on, each of which retires as a register write. -/
def finishLoad (x : Site) (dst : Fin 64) (n : Nat) (r : Option (List (Nat × List Byte))) (extra : List W128) (s : State) : State :=
  match r with
  | some vs =>
    let words := List.range ((n + 3) / 4)
    let b := words.foldl (fun b i => putReg (Fin.ofNat 64 (dst.val + i)) (fun l => wordOf (bytesOf vs l) i) b) x.bundle
    let its := words.flatMap fun i => regItems b (Fin.ofNat 64 (dst.val + i))
    onDev (retireInstr x b (extra ++ its) false none) s
  | none => s

/-- A store's items: the bytes per lane, then each active lane's address and bytes. -/
def storeItems (kind n : Nat) (b : Bundle) (addr : Nat → List Byte) (v : Nat → List Byte) : List W128 :=
  items (headerItem kind (field96 n) (activeMask b)) ((activeLanes b).flatMap fun l => addr l ++ v l)

def atomicItems (op : AtomicOp) (b : Bundle) (addr : Nat → Nat) (v : Nat → W32) (old : Nat → W32) : List W128 :=
  items (headerItem 0x04 (field104 (atomicCode op)) (activeMask b)) ((activeLanes b).flatMap fun l =>
    leBytes 8 (addr l) ++ leBytes 4 (v l).toNat ++ leBytes 4 (old l).toNat)

/-- Group barriers of a core release when every bundle of the group and pass has reached them or ended, and the transfers that they
programmed before have finished (R199). -/
def openBarriers (n : Nat) (d : Dev) : Dev :=
  let all := (coreOf d n).bundles
  let held (b : Bundle) : Bool := all.any fun e => e.2.group == b.group && e.2.passB == b.passB &&
    ((!e.2.barrier && !e.2.ended) || transferring d n e.2.group e.2.index)
  modCore n (fun c => { c with bundles := kmapv (fun _ b => if b.barrier && !held b then { b with barrier := false } else b) c.bundles }) d

/-- A bundle reaches its group barrier. -/
def atBarrier (x : Site) (d : Dev) : Dev :=
  openBarriers x.core.val (modBundle x.core.val x.slot (fun b => { b with barrier := true }) d)

/-- A mismatch of a kind: capture, trap, event (R228, R229). The trap is captured before a severe event can fence the core. -/
def pairMismatch (n kind group index window slot : Nat) (d : Dev) : Dev :=
  signal (sCore n 5) (trapOn n { kind := tPairMismatch, slot := slot } (capturePair n kind group index window d))

/-- The end instruction: the bundle ends; PARTNER_MISSING is found at the later pass's end (R229); a group whose bundles have
all ended leaves the core, and the next groups are dispatched (R186, R187). -/
def afterEnd (x : Site) (d : Dev) : Dev :=
  let n := x.core.val
  let g := x.bundle.group
  let d := openBarriers n (modBundle n x.slot (fun b => { b with ended := true }) d)
  let other := (coreOf d n).bundles.find? fun e => e.2.group == g && e.2.index == x.bundle.index && e.2.passB != x.bundle.passB
  let later := (other.map (·.2.ended)).getD true
  let mine := (coreOf d n).store.filter fun s => s.group == g && s.index == x.bundle.index
  match (if !x.split && later then loneWindow? mine else none) with
  | some s => pairMismatch n 1 g x.bundle.index s.window x.slot d
  | none =>
    if ((coreOf d n).bundles.filter fun e => e.2.group == g).all (fun e => e.2.ended) then
      let d := modCore n (fun c => { c with bundles := c.bundles.filter fun e => e.2.group != g }) d
      let (next, d) := dispatchRun x.kernel [n] x.run.nextGroup d
      modRun n (fun r => { r with nextGroup := next }) d
    else d

/-- A drain forwarded to pass B: its values and S values go, complemented, to pass B's own output address. -/
def takeDrain (x : Site) (op : EngineOp) (v : List W32) (s : State) : State :=
  match v with
  | len :: ws =>
    let bytes := ws.flatMap fun w => leBytes 4 w.toNat
    let put (a : LocalAddr) (b : List Byte) (s : State) : State :=
      (accessWriteAll (.core x.core) (coreKey s.dev x.core.val) (viewAddr x.core.val x.bundle.base a) (passBytes x.bundle a b) s).2
    let s := put op.outAddr (bytes.take len.toNat) s
    if op.mag then put op.sAddr (bytes.drop len.toNat) s else s
  | [] => s

/-- A signal instruction on an object of the kernel's allocation. -/
def issueSignal (x : Site) (obj : Nat) (op : SignalOp) (d : Dev) : Dev :=
  if obj ≥ x.kernel.signals then trapAt x tSignalRange d
  else match op with
    | .post n =>
      if n = 0 ∨ n > 65536 then trapAt x tIllegal d
      else if mayRetire x true d then
        retireInstr x x.bundle (signalItems x.bundle 1 obj n 0) true (some (.post (objectOf x obj) n)) d
      else d
    | .wait n =>
      if n = 0 ∨ n > 65536 then trapAt x tIllegal d
      else if !mayRetire x false d then d
      else if x.bundle.passB then
        match takeForward? x d with
        | some (_, d) => retireInstr x (bump x.bundle) (signalItems x.bundle 2 obj n 0) false none d
        | none => d
      else waitSignal x (objectOf x obj) n d
    | .test dst =>
      if !mayRetire x false d then d
      else if x.bundle.passB then
        match takeForward? x d with
        | some (v, d) =>
          let t := v.headD 0
          retireReg x (putReg dst (fun _ => t) (bump x.bundle)) dst (signalItems x.bundle 3 obj 0 t.toNat) d
        | none => d
      else
        let t : W32 := BitVec.ofNat 32 (signalOf d (objectOf x obj)).count
        retireReg x (putReg dst (fun _ => t) (bump x.bundle)) dst (signalItems x.bundle 3 obj 0 t.toNat) (forward x [t] d)

/-- An atomic on local memory: each pass performs its own. -/
def issueAtomicLocal (x : Site) (op : AtomicOp) (dst addr operand : Fin 64) (s : State) : State :=
  let b := x.bundle
  let (r, s) := lanesDo (activeLanes b) (fun l s =>
    let (o, s) := localRead x false addr 4 l s
    match o with
    | some old =>
      let (w, s) := localWrite x false addr l (leBytes 4 (atomicNew op (wordOf old 0) (regAt b l operand)).toNat) s
      (w.map fun _ => old, s)
    | none => (none, s)) s
  match r with
  | some vs => finishLoad x dst 4 r
      (atomicItems op b (fun l => (regAt b l addr).toNat) (regAt b · operand) fun l => wordOf (bytesOf vs l) 0) s
  | none => s

/-- An atomic on device memory: pass A performs it and forwards the old values. -/
def issueAtomicDevice (x : Site) (op : AtomicOp) (dst : Fin 64) (base : DevBase) (addr operand : Fin 64) (s : State) : State :=
  let b := x.bundle
  let its (vs : List (Nat × List Byte)) : List W128 :=
    atomicItems op b (devAddr x base addr) (regAt b · operand) fun l => wordOf (bytesOf vs l) 0
  if b.passB then
    match takeForward? x s.dev with
    | some (v, d) =>
      let vs := (activeLanes b).zip (v.map fun w => leBytes 4 w.toNat)
      finishLoad { x with bundle := bump b } dst 4 (some vs) (its vs) { s with dev := d }
    | none => s
  else
    withTokens x (deviceLines x base addr 4 true s.dev) true (fun x s =>
      let (r, s) := lanesDo (activeLanes b) (fun l s =>
        let (o, s) := deviceRead x base addr 4 l s
        match o with
        | some old =>
          let (w, s) := deviceWrite x base addr l (leBytes 4 (atomicNew op (wordOf old 0) (regAt b l operand)).toNat) s
          (w.map fun _ => old, s)
        | none => (none, s)) s
      match r with
      | some vs => finishLoad { x with bundle := bump x.bundle } dst 4 r (its vs)
          (onDev (forward x (vs.map fun e => wordOf e.2 0)) s)
      | none => s) s

/-- The parameters of Table 7.2 as a tensor operation folds them (Table 9.2). The manual gives them no widths: DESIGN CHOICE
(notes/assumptions/49.md). -/
def tensorItems (b : Bundle) (op : EngineOp) : List W128 :=
  let place (a : LocalAddr) : List Byte := leBytes 4 a.off
  items (headerItem 0x05 0 (activeMask b))
    ([BitVec.ofNat 8 op.pair, op.fmtA, op.fmtB] ++ leBytes 4 op.k ++ place op.aAddr ++ place op.bAddr ++ place op.scaleA ++
      place op.scaleB ++ [if op.start then 1 else 0, op.drain.getD 0, if op.saturate then 0 else 1, if op.mag then 1 else 0] ++
      place op.outAddr ++ place op.sAddr)

/-- A tensor instruction: pass A starts the engine; pass B receives what the drain forwards (R215, R217). -/
def issueTensor (x : Site) (engine : Fin 4) (op : EngineOp) (s : State) : State :=
  let n := x.core.val
  let its := tensorItems x.bundle op
  let ok := ((pairInfo? op.pair).map fun p => opOk p op).getD false
  let inside := (opReads op ++ opWrites op).all fun e => inView x.kernel e.1 e.2
  if !ok then onDev (trapAt x tIllegal) s
  else if !inside then onDev (trapAt x tAddress) s
  else if x.bundle.passB then
    if op.drain.isSome then
      match takeForward? x s.dev with
      | some (v, d) => onDev (retireInstr x (bump x.bundle) its false none) (takeDrain x op v { s with dev := d })
      | none => s
    else onDev (retireInstr x (bump x.bundle) its false none) s
  else
    let e := engineOf (coreOf s.dev n) engine.val
    if e.op.isSome then s
    else onDev (fun d => retireInstr x (bump x.bundle) its false none
      (setEngine n engine.val { e with
        op := some op, slot := x.slot, base := x.bundle.base
        owner := some (x.bundle.group, x.bundle.index, x.bundle.ordinal) } d)) s

/-- An end of a transfer, and whether the kernel may reach it (R126, R203). -/
def dmaAddr (x : Site) : DmaPlace → Nat
  | .core i off => 0x1100000000 + (x.core.val / 4 * 4 + i.val) * 0x80000 + off
  | .device base off => devBase x base + off
def dmaReach (x : Site) (lines : Nat) (write : Bool) : DmaPlace → Bool
  | .core _ off => decide (off + 64 * lines ≤ 0x80000)
  | .device base off => inBounds x (devBase x base + off) (64 * lines) write

/-- DMA programming on a channel of the kernel's allocation. -/
def issueDma (x : Site) (channel : Nat) (src dst : DmaPlace) (lines : Nat) (post : Option (Nat × Nat)) (d : Dev) : Dev :=
  let its := items (headerItem 0x06 0 (activeMask x.bundle))
    (leBytes 4 channel ++ leBytes 8 (dmaAddr x src) ++ leBytes 8 (dmaAddr x dst) ++ leBytes 8 lines)
  let postOk := match post with | some (o, _) => decide (o < x.kernel.signals) | none => true
  if channel ≥ x.kernel.dmaChannels ∨ !dmaReach x lines false src ∨ !dmaReach x lines true dst then trapAt x tAddress d
  else if !postOk then trapAt x tSignalRange d
  else match channelOf? d x.core.val channel with
    | none => d
    | some ch =>
      if (dmaOf d ch).busy || !mayRetire x true d then d
      else retireInstr x x.bundle its true
        (some (.dma ch (dmaAddr x src) (dmaAddr x dst) lines (post.map fun e => (objectOf x e.1, e.2)))) d

/-- A branch: the lanes whose register is not zero take it; both paths issue in turn, the one taken first, and rejoin (R189). Which
comes first the manual leaves open: DESIGN CHOICE (notes/assumptions/49.md). -/
def branchOn (pred : Fin 64) (b : Bundle) : Bundle :=
  let taken : W64 := (activeLanes b).foldl (fun m l => if regAt b l pred ≠ 0 then m ||| BitVec.twoPow 64 l else m) 0
  let other := activeMask b &&& ~~~taken
  if taken = 0 ∨ other = 0 then { b with paths := { other := 0, after := b.mask } :: b.paths }
  else { b with mask := taken, paths := { other := other, after := b.mask } :: b.paths }

/-- The post-dominator of a branch: the other path issues, or the paths have rejoined. -/
def rejoin (b : Bundle) : Bundle :=
  match b.paths with
  | [] => b
  | p :: r =>
    if p.other = 0 then { b with mask := p.after, paths := r }
    else { b with mask := p.other, paths := { p with other := 0 } :: r }

/-- The registers that an instruction reads in its active lanes. -/
def regsRead : BundleInstr → List (Fin 64)
  | .branch p => [p]
  | .vec _ _ a b c => [a, b, c]
  | .special _ _ a b => [a, b]
  | .laneReduceAdd _ a _ => [a]
  | .lanePermute _ a i => [a, i]
  | .loadLocal _ a _ _ => [a]
  | .storeLocal r a _ n => a :: (List.range ((n + 3) / 4)).map fun i => Fin.ofNat 64 (r.val + i)
  | .atomicLocal _ _ a o => [a, o]
  | .loadDevice _ _ a _ => [a]
  | .storeDevice r _ a n => a :: (List.range ((n + 3) / 4)).map fun i => Fin.ofNat 64 (r.val + i)
  | .atomicDevice _ _ _ a o => [a, o]
  | _ => []

/-- The vector, special-function and local-memory classes, of which a step issues one; the others make the second (R188). -/
def vectorClass : BundleInstr → Bool
  | .argument .. => true
  | .vec .. => true
  | .special .. => true
  | .imm .. => true
  | .laneReduceAdd .. => true
  | .lanePermute .. => true
  | .loadLocal .. => true
  | .storeLocal .. => true
  | .atomicLocal .. => true
  | _ => false

/-- What the bundle's next instruction waits for has come (R188, R215, R224). -/
def operandsReady (x : Site) (i : BundleInstr) (d : Dev) : Bool :=
  let forwarded := !x.bundle.passB || (takeForward? x d).isSome
  mayRetire x false d && match i with
    | .finish => mayRetire x true d
    | .tensorStart e op =>
      if x.bundle.passB then op.drain.isNone || forwarded else (engineOf (coreOf d x.core.val) e.val).op.isNone
    | .engineWait e => (engineOf (coreOf d x.core.val) e.val).op.isNone
    | .dmaStart ch .. => mayRetire x true d && ((channelOf? d x.core.val ch).map fun c => !(dmaOf d c).busy).getD true
    | .dmaWait ch => ((channelOf? d x.core.val ch).map fun c => !(dmaOf d c).busy).getD true
    | .signal _ (.post _) => mayRetire x true d
    | .signal _ (.wait _) => forwarded
    | .signal _ (.test _) => forwarded
    | .atomicDevice .. => forwarded
    | _ => true

/-- The effect of an instruction that a ready bundle issues. -/
def issueInstr (x : Site) (i : BundleInstr) (s : State) : State :=
  let b := x.bundle
  let plain (b : Bundle) (d : Dev) : Dev := retireInstr x b [] false none d
  let write (dst : Fin 64) (v : Nat → W32) : State := onDev (retireReg x (putReg dst v b) dst []) s
  match parityLane? b (regsRead i) with
  | some l => onDev (laneTrap x l tRegParity 0) s
  | none =>
    if !operandsReady x i s.dev then s
    else match i with
    | .branch p => onDev (plain (branchOn p b)) s
    | .rejoin => onDev (plain (rejoin b)) s
    | .setMask m => onDev (plain { b with mask := m &&& b.lanes }) s
    | .argument dst i high =>
      let v := x.run.args.getD i.val 0
      write dst fun _ => ((if high then v >>> 32 else v).setWidth 32)
    | .barrier => onDev (fun d => atBarrier x (plain b d)) s
    | .finish => onDev (fun d => afterEnd x (retireInstr x b [] true none d)) s
    | .vec op dst p q r => write dst fun l => vecEval op (regAt b l p) (regAt b l q) (regAt b l r)
    | .special fn dst p q => write dst fun l => specialEval fn (regAt b l p) (regAt b l q)
    | .imm dst v => write dst fun _ => v
    | .laneReduceAdd dst a float =>
      let m := activeMask b
      let v := treeAdd float 6 ((List.range 64).map fun l => if m.getLsbD l then regAt b l a else Config.idleLane m l)
      write dst fun _ => v
    | .lanePermute dst a idx => write dst fun l => regAt b ((regAt b l idx).toNat % 64) a
    | .loadLocal dst addr const n =>
      if widthOk dst n then
        let (r, s) := lanesDo (activeLanes b) (localRead x const addr n) s
        finishLoad x dst n r [] s
      else onDev (trapAt x tIllegal) s
    | .storeLocal src addr const n =>
      if widthOk src n then
        let (r, s) := lanesDo (activeLanes b) (fun l s => localWrite x const addr l (regBytes b l src n) s) s
        match r with
        | some _ => onDev (retireInstr x b
            (storeItems 0x02 n b (fun l => leBytes 4 (regAt b l addr).toNat) (regBytes b · src n)) false none) s
        | none => s
      else onDev (trapAt x tIllegal) s
    | .atomicLocal op dst addr operand => issueAtomicLocal x op dst addr operand s
    | .loadDevice dst base addr n =>
      if widthOk dst n then
        withTokens x (deviceLines x base addr n false s.dev) false (fun x s =>
          let (r, s) := lanesDo (activeLanes b) (deviceRead x base addr n) s
          finishLoad x dst n r [] s) s
      else onDev (trapAt x tIllegal) s
    | .storeDevice src base addr n =>
      let its := storeItems 0x03 n b (fun l => leBytes 8 (devAddr x base addr l)) (regBytes b · src n)
      if !widthOk src n then onDev (trapAt x tIllegal) s
      else if b.passB then onDev (retireInstr x b its false none) s
      else
        withTokens x (deviceLines x base addr n true s.dev) true (fun x s =>
          let (r, s) := lanesDo (activeLanes b) (fun l s => deviceWrite x base addr l (regBytes b l src n) s) s
          match r with
          | some _ => onDev (retireInstr x x.bundle its false none) s
          | none => s) s
    | .atomicDevice op dst base addr operand => issueAtomicDevice x op dst base addr operand s
    | .tensorStart e op => issueTensor x e op s
    | .engineWait _ => onDev (plain b) s
    | .dmaStart ch src dst lines post => onDev (issueDma x ch src dst lines post) s
    | .dmaWait _ => onDev (plain b) s
    | .signal obj op => onDev (issueSignal x obj op) s

/-- A bundle issues its next instruction, after what the hardware does to it (Table 8.6, R185). -/
def issueOne (core : Fin 64) (c : Candidate) (s : State) : State :=
  match readySite? core c.slot.val s.dev with
  | none => s
  | some x =>
    match c.fault with
    | some (.illegal off) => onDev (trapOn core.val { kind := tIllegal, slot := x.slot, addr := off }) s
    | some (.fetchUncorrectable off) => onDev (trapOn core.val { kind := tFetch, slot := x.slot, addr := off }) s
    | some (.regUpset lane bank index bit) =>
      let b := upsetReg (64 * lane.val + 32 * bank.val + index.val) bit.val x.bundle
      issueInstr { x with bundle := b } c.instr (onDev (setBundle core.val x.slot b) s)
    | none => issueInstr x c.instr s

/-- A candidate can issue now: its bundle is ready, and so is its next instruction. A fault of the fetch needs no operands. -/
def mayIssue (core : Fin 64) (d : Dev) (c : Candidate) : Bool :=
  match readySite? core c.slot.val d with
  | none => false
  | some x => match c.fault with
    | some (.illegal _) => true
    | some (.fetchUncorrectable _) => true
    | _ => (parityLane? x.bundle (regsRead c.instr)).isSome || operandsReady x c.instr d

/-- The oldest by dispatch order (R188). -/
def oldest (n : Nat) (d : Dev) (l : List Candidate) : Option Candidate :=
  let age (c : Candidate) : Nat := ((bundleOf? d n c.slot.val).map (·.order)).getD 0
  l.foldl (fun a c => match a with
    | none => some c
    | some b => if age c < age b then some c else some b) none

/-- The bundles that issue in a step: of each pair of classes the oldest that can, in slot order. -/
def chosen (core : Fin 64) (next : List Candidate) (d : Dev) : List Candidate :=
  let can := ((indexed next).filter fun e =>
    mayIssue core d e.2 && !((next.take e.1).any fun c => c.slot == e.2.slot)).map (·.2)
  let v := oldest core.val d (can.filter fun c => vectorClass c.instr)
  let o := oldest core.val d (can.filter fun c => !vectorClass c.instr)
  match v, o with
  | some a, some b => if a.slot.val ≤ b.slot.val then [a, b] else [b, a]
  | some a, none => [a]
  | none, some b => [b]
  | none, none => []

/-- CORE_ISSUE: one issue step of a core (R188). -/
def coreIssue (core : Fin 64) (next : List Candidate) (s : State) : State :=
  (chosen core next s.dev).foldl (fun s c => issueOne core c s) s

def execCoreIssue (at_ : Time) (core slot : Fin 64) (i : Issued) (others : List Candidate) (s : State) :
    Host.Outcome State Fault Refusal :=
  .next (zeroCores (coreIssue core ({ toIssued := i, slot := slot } :: others) (atMem at_ s)))

/-! ### Operations as they reach a cluster stop -/

/-- SIGNAL_POST, SIGNAL_WAIT, SIGNAL_TEST: the operation of a ready bundle. On a PAIRED core a post takes effect once both passes
have retired it and their windows have compared equal (R218). -/
def signalOp (core : Fin 64) (slot obj : Nat) (op : SignalOp) (d : Dev) : Dev :=
  match readySite? core slot d with
  | none => d
  | some x => issueSignal x obj op d

def execSignalPost (at_ : Time) (core slot : Fin 64) (obj n : Nat) (s : State) : Host.Outcome State Fault Refusal :=
  .next (onDevZ (fun d => signalOp core slot.val obj (.post n) (advance at_ d)) s)

def execSignalWait (at_ : Time) (core slot : Fin 64) (obj n : Nat) (s : State) : Host.Outcome State Fault Refusal :=
  .next (onDevZ (fun d => signalOp core slot.val obj (.wait n) (advance at_ d)) s)

def execSignalTest (at_ : Time) (core slot : Fin 64) (obj : Nat) (dst : Fin 64) (s : State) :
    Host.Outcome State Fault Refusal :=
  .next (onDevZ (fun d => signalOp core slot.val obj (.test dst) (advance at_ d)) s)

/-! ### Cluster DMA (R135, R197, R291) -/

/-- One line moves, its requests having their tokens; the answer says whether the channel goes on. -/
def dmaLine (ch src dst : Nat) (key : Key) (s : State) : Bool × State :=
  match gate (.dma ch) key src false s.dev with
  | .go =>
    let (r, _, s) := readLine rdDma (reach s.dev key src / 64) s
    match r with
    | .ok ws => accessWrite (.dma ch) key (dst / 64 * 64) (ws.flatMap fun w => leBytes 8 w.toNat) s
    | .error e => (false, onDev (haltChannel ch e (src / 64 * 64)) s)
  | g => (false, onDev (gateStop g (.dma ch) src) s)

/-- The lines of a transfer in increasing source address, by at most `fuel`; whether all have been written. -/
def dmaLines (ch : Nat) (key : Key) : Nat → Nat → Nat → State → Bool × State
  | 0, _, _, s => (true, s)
  | fuel + 1, src, dst, s =>
    let (ok, s) := dmaLine ch src dst key s
    if ok then dmaLines ch key fuel (src + 64) (dst + 64) (onDev (modDma ch fun c => { c with linesDone := c.linesDone + 1 }) s)
    else (false, s)

/-- The requests of a transfer: a read and a write for each line, up to the first that will be refused. -/
def dmaRequests (ch : Nat) (key : Key) (d : Dev) : List (Nat × Nat) :=
  let c := dmaOf d ch
  ((List.range c.lines).flatMap fun i => [(c.src + 64 * i, 1, false), (c.dst + 64 * i, writeCost d (c.dst + 64 * i) 64, true)]).takeWhile
    (fun e => gate (.dma ch) key e.1 e.2.2 d == .go) |>.map fun e => (e.1, e.2.1)

/-- The instant at which a transfer's lines have their tokens, held by its channel from then on (R247). -/
def dmaTokens (ch : Nat) (key : Key) (d : Dev) : Option Time × Dev :=
  match (dmaOf d ch).served with
  | some t => (some t, d)
  | none =>
    let (t, d) := claimAll (.dma ch) key (dmaRequests ch key d) d
    (t, modDma ch (fun c => { c with served := t }) d)

/-- DMA_COMPLETE: the channel's lines move, once they have their tokens; the completion posts once. The transfer of a channel that
has gone out of service is carried to its end by the cluster's others (R140). -/
def dmaComplete (ch : Nat) (s : State) : State :=
  let c := dmaOf s.dev ch
  let key := keyOf s.dev (.dma ch)
  if !c.busy || c.halted then s
  else
    let (t, d) := dmaTokens ch key s.dev
    let s := { s with dev := d }
    if !t.any (fun t => decide (t ≤ d.geyser.now)) then s
    else
      let (ok, s) := dmaLines ch key c.lines c.src c.dst s
      if !ok then s
      else
        let s := onDev (modDma ch fun c => { c with busy := false, post := none, served := none }) s
        let s := match c.post with
          | some (obj, n) => onDev (fun d =>
              let (ok, d) := postSignal obj n d
              if ok then d else trapOn c.core { kind := tSignalRange } d) s
          | none => s
        onDev (fun d => if c.core < 64 then openBarriers c.core (flushPosts c.core d) else d) s

def execDmaComplete (at_ : Time) (channel : Fin 288) (s : State) : Host.Outcome State Fault Refusal :=
  .next (zeroCores (dmaComplete channel.val (atMem at_ s)))

/-- DMA_HALT_RESTART: HALTED and the other fields clear. -/
def execDmaHaltRestart (at_ : Time) (channel : Fin 288) (s : State) : Host.Outcome State Fault Refusal :=
  .next (onDev (fun d => modDma channel.val (fun c =>
    if c.halted then { c with halted := false, reason := 0, partition := 0, linesDone := 0, haltAddr := 0 } else c)
    (advance at_ d)) s)

end Sys2Proof.Machine
end

