-- ==== Sys2Proof/Machine/Pairing.lean ====
section
/-! DEFINITION. Comparators and debug (09 R224 to R234) and changes on several units at once (09 R235 to R239, 10 R249). -/

namespace Sys2Proof.Machine

open Sys2Proof

/-! ### The comparator (R224, R225, R228) -/

/-- A mismatch in a Steward processor's paired firmware: PAIR_ERR and STEWARD_PAIR_MISMATCH (R134, Table 9.4). -/
def stewardMismatch (p bundle window : Nat) (d : Dev) : Dev :=
  let body : W32 := BitVec.ofNat 32 (bundle % 64 * 2 ^ 21 + min window 8191 * 2 ^ 8)
  let d := noteCapture (.pairErr (Fin.ofNat 66 (64 + p))) (procOf d p).pairErr body 0 d
  signal (734 + p) (modProc p (fun c => { c with pairErr := captureWord c.pairErr body }) d)

/-- Two partner windows of a core are compared and their entry is freed; an equal pair releases what the window closed with.
`upset` says that a hardware fault in one pass has changed its signature. -/
def compareCore (n group bundle window : Nat) (upset : Bool) (d : Dev) : Dev :=
  let key (s : StoredSig) : Bool := s.group == group && s.index == bundle && s.window == window
  let c := coreOf d n
  match c.store.find? (fun s => key s && !s.passB), c.store.find? (fun s => key s && s.passB) with
  | some a, some b =>
    let d := modCore n (fun c => { c with store := c.store.filter fun s => !key s }) d
    if a.sig = b.sig ∧ !upset then
      match a.act, runOn? d n with
      | some act, some r =>
        match opKernel? d r.op with
        | some k =>
          let slot := ((c.bundles.find? fun e => e.2.group == group && e.2.index == bundle && !e.2.passB).map (·.1)).getD 0
          doAct { core := Fin.ofNat 64 n, slot := slot, run := r, kernel := k, bundle := { group := group, index := bundle },
                  split := false } act d
        | none => d
      | _, _ => d
    else
      let slot := ((c.bundles.find? fun e => e.2.group == group && e.2.index == bundle && !e.2.passB).map (·.1)).getD 0
      pairMismatch n 0 group bundle window slot d
  | _, _ => d

/-- SIGNATURE_COMPARE on unit 0 to 63 a core, 64 and 65 the Steward processors. A rail violation answers no comparison. -/
def signatureCompare (unit group bundle window : Nat) (upset rail : Bool) (d : Dev) : Dev :=
  if unit < 64 then
    if rail then signal (sCore unit 6) d
    else if isFenced d unit then d
    else compareCore unit group bundle window upset d
  else if rail then signal (736 + (unit - 64)) d
  else if upset then stewardMismatch (unit - 64) bundle window d
  else d

def execSignatureCompare (at_ : Time) (unit : Fin 66) (group bundle window : Nat) (upset railViolation : Bool) (s : State) :
    Host.Outcome State Fault Refusal :=
  .next (onDevZ (fun d => signatureCompare unit.val group bundle window upset railViolation (advance at_ d)) s)

/-! ### Difference injection (R226, R227, Table 9.3) -/

/-- PAIR_INJECT after a write: the comparison reports a mismatch unless EQUAL is set; a comparator that does not work reports
the opposite. -/
def injectWord (old value : W32) (working : Bool) : W32 :=
  let keep := value &&& 0x607F0000
  if value.getLsbD 31 then
    let differs := !value.getLsbD 29
    keep ||| 4 ||| (if differs == working then 2 else 1)
  else keep ||| (old &&& 7)

/-- Bundles of a core are resident. -/
def resident (n : Nat) (d : Dev) : Bool := !(coreOf d n).bundles.isEmpty

/-- A rail violation of a comparator, real whatever comparison meets it (R225, R227). -/
def railFault (unit : Nat) (d : Dev) : Dev := signal (if unit < 64 then sCore unit 6 else 736 + (unit - 64)) d

/-- PAIR_INJECT of a unit changes. -/
def modInject (unit : Nat) (f : W32 → W32) (d : Dev) : Dev :=
  if unit < 64 then modCore unit (fun c => { c with pairInject := f c.pairInject }) d
  else modProc (unit - 64) (fun c => { c with pairInject := f c.pairInject }) d

/-- A write of PAIR_INJECT. The Steward writes ARM only while the core holds no resident bundle (R227): elsewhere ARM has no effect.
A comparator that fails is fenced with its core; the start stops with CHIP_FAILED for the Steward's. A comparison that ends in a
rail violation has no answer. -/
def pairInject (unit : Nat) (value : W32) (working rail : Bool) (d : Dev) : Dev :=
  let arm := value.getLsbD 31 && !(decide (unit < 64) && resident unit d)
  let d := modInject unit (fun w =>
    if arm then (if rail then value &&& 0x607F0000 else injectWord w value working)
    else injectWord w (value &&& 0x7FFFFFFF) working) d
  if !arm then d
  else if rail then pump (railFault unit d)
  else if working then d
  else if unit < 64 then pump (fenceCore unit d)
  else chipFailed d

def execPairInjectArm (at_ : Time) (unit : Fin 66) (value : W32) (upset : PairUpset) (s : State) :
    Host.Outcome State Fault Refusal :=
  .next (onDevZ (fun d => pairInject unit.val value upset.working upset.railViolation (advance at_ d)) s)

/-- The 257 writes of a comparator test, in the order R226 lists them: 0 in pass A and 1 in pass B at each position, the reverse,
and no difference. -/
def testWrites : List W32 :=
  ((List.range 128).map fun i => BitVec.ofNat 32 (0x80000000 + 0x10000 * i)) ++
    ((List.range 128).map fun i => BitVec.ofNat 32 (0xC0000000 + 0x10000 * i)) ++ [0xA0000000]

/-- PAIR_INJECT after the test. -/
def afterTest (working : Bool) (w : W32) : W32 := testWrites.foldl (fun w v => injectWord w v working) w

/-- The comparator reported what each comparison of its test should give. -/
def testPasses (working : Bool) : Bool :=
  testWrites.all fun v => (injectWord 0 v working).getLsbD (if v.getLsbD 29 then 0 else 1)

/-! ### Debug (R233, R234, R375) -/

/-- FIELD_LOCK is blown when any of its three bits is (R375). -/
def fieldLocked (d : Dev) : Bool := d.bonnet.fieldLock != 0

/-- Debug attaches to a core: PAIR_BROKEN_DEBUG, and the core is fenced at the same instant. -/
def debugCore (n : Nat) (d : Dev) : Dev :=
  if fieldLocked d then d
  else pump (fenceCore n (signal (sCore n 7) (modCore n (fun c => { c with debug := true, probe := true }) d)))

def execDebugAttachCore (at_ : Time) (core : Fin 64) (s : State) : Host.Outcome State Fault Refusal :=
  .next (onDevZ (fun d => debugCore core.val (advance at_ d)) s)

/-- Debug attaches to a Steward processor: chip safe state. -/
def debugSteward (d : Dev) : Dev := if fieldLocked d then d else enterSafe true 0xFFFF d

def execDebugAttachSteward (at_ : Time) (processor : Fin 2) (s : State) : Host.Outcome State Fault Refusal :=
  .next (onDevZ (fun d => (fun _ => debugSteward (advance at_ d)) processor) s)

/-! ### Contents of a change (Tables 10.1, 13.4, 13.6) -/

/-- COMMIT instant and prepare timeout of a two-phase packet. -/
def commitInstant (p : Packet) : Time := ofSecNs (inl p 8 6) (inl p 4 4)
def prepareUs (p : Packet) : Nat := inl p 0 4

/-- Entry `i` of PARTITION_SET: the partition number, and its new entry, none where DEFINED is clear. -/
def partEntry (p : Packet) (i : Nat) : Nat × Option Partition :=
  let o := 64 * i
  let q : Partition := { criticality := pay p (o + 1) 1, donate := (pay p (o + 2) 2).testBit 1, majorUs := pay p (o + 4) 4,
                         qUs := pay p (o + 8) 4, epoch := ofSecNs (pay p (o + 16) 6) (pay p (o + 12) 4),
                         mask := BitVec.ofNat 64 (pay p (o + 24) 8), quota := pay p (o + 32) 4 }
  (pay p o 1, if (pay p (o + 2) 2).testBit 0 then some q else none)

def partEntries (p : Packet) : List (Nat × Option Partition) :=
  (List.range ((payloadOf p).length / 64)).map (partEntry p)

/-- The partition table after PARTITION_SET. -/
def withParts (p : Packet) (m : KMap Partition) : KMap Partition :=
  (partEntries p).foldl (fun m e => match e.2 with
    | some q => kput m e.1 q
    | none => kdel m e.1) m

/-- The modes of the named cores. -/
def modeCores (p : Packet) : W64 := BitVec.ofNat 64 (pay p 0 8)
def modeSplit (p : Packet) : W64 := BitVec.ofNat 64 (pay p 8 8)

/-- The contexts a PLAN_SWAP names, with their new template. -/
def swapContexts (p : Packet) : List (W32 × Nat) :=
  (List.range (pay p 16 2)).map fun i => (BitVec.ofNat 32 (pay p (32 + 8 * i) 4), pay p (32 + 8 * i + 4) 2)

/-- Plan bindings after PLAN_SWAP: each named context to the new plan version (R338) and its template. -/
def swapBindings (plan : W64 × W64) (p : Packet) (d : Dev) : Dev :=
  (swapContexts p).foldl (fun d e => modCtx e.1 (fun x =>
    { x with planId := plan.1, planVersion := plan.2, template := e.2 }) d) d

/-! ### The two phases (R236 to R239) -/

/-- A core acknowledges: PREPARED with the pending mode. Entry to PAIRED needs a comparator that passes its test (R226, R236), which
a core with resident bundles cannot make (R227): DEDUCED, its acknowledgement waits (notes/assumptions/49.md). -/
def ackCore (n : Nat) (c : Change) (ok : Bool) (d : Dev) : Bool × Dev :=
  let split := (modeSplit c.packet).getLsbD n
  let prepared := modCore n fun k => { k with prepared := true, pendingSplit := split }
  if isFenced d n then (false, d)
  else if split then (true, prepared d)
  else if resident n d then (false, d)
  else
    let d := modInject n (afterTest ok) d
    if ok then (true, prepared d) else (false, pump (fenceCore n d))

/-- UNIT_PREPARE_ACK: the oldest pending change that names the unit and awaits it. -/
def prepareAck (unit : Nat) (ok : Bool) (d : Dev) : Dev :=
  match d.cores.changes.find? fun c => pendingChange c && c.named.getLsbD unit && !c.acked.getLsbD unit with
  | none => d
  | some c =>
    if d.geyser.now ≥ c.prepareBy then d
    else
      let (yes, d) := if c.cores then ackCore unit c ok d else (true, d)
      if yes then setChange { c with acked := c.acked ||| BitVec.twoPow 64 unit } 0 d else d

def execUnitPrepareAck (at_ : Time) (unit : UnitBit) (comparatorOk : Bool) (s : State) : Host.Outcome State Fault Refusal :=
  .next (onDevZ (fun d => prepareAck unit.val comparatorOk (advance at_ d)) s)

/-- The earliest of some changes by an instant. -/
def earliest (key : Change → Time) (l : List Change) : Option Change :=
  l.foldl (fun a c => match a with
    | none => some c
    | some b => if key c < key b then some c else some b) none

/-- PREPARE_TIMEOUT: the change aborts when an acknowledgement is missing (R237). -/
def prepareTimeout (d : Dev) : Dev :=
  match earliest (·.prepareBy) (d.cores.changes.filter fun c => pendingChange c && c.acked != c.named) with
  | none => d
  | some c => abortOne 2 c (advance c.prepareBy d)

def execPrepareTimeout (s : State) : Host.Outcome State Fault Refusal := .next (onDev prepareTimeout s)

/-- Named units of a configuration that apply it: frame tables by cluster, HBM and mesh buckets by stop (R239). -/
def installUnits (units : W64) (c : AdmitConfig) (d : Dev) : Dev :=
  let now := d.geyser.now
  let meshUnit (stop : Nat) : Nat := if 4 ≤ stop ∧ stop < 20 then 16 + stop else 36
  let hbm := c.hbm.filter fun e => units.getLsbD (16 + e.1 / 32)
  let mesh := c.mesh.filter fun e => units.getLsbD (meshUnit (e.1 / 32))
  modSched (fun s => { s with
    tables := (List.range 16).foldl (fun m k =>
      if units.getLsbD k then kput m k (kget [] c.windows k) else m) s.tables
    hbm := (List.range 17).foldl (fun m b => setBuckets now b hbm m) s.hbm
    mesh := (List.range 16).foldl (fun m b => setBuckets now b mesh m) s.mesh
    withdrawn := [] }) d

/-- A core applies its new mode: it zeroes its state and empties its store (R238). -/
def applyMode (n : Nat) (c : Change) (d : Dev) : Dev :=
  let d := wipeCore n d
  modCore n (fun k => { k with split := k.pendingSplit, prepared := false, changeId := c.id }) d

/-- A change of a partition's major frame or epoch leaves the frames of its plans numbered on from frame 0 (R117): `old` and
`new` are the partition's numbers of the frame that begins now. -/
def renumberPlans (p : Nat) (old new : Int) (d : Dev) : Dev :=
  let move (k : Int) : Int := new - (old - k)
  modPlans (fun x => { x with loaded := x.loaded.map fun l => { l with
    start := kmapv (fun q k => if q = p then move k else k) l.start
    ranIn := kmapv (fun i k => if l.plan.golden.any (fun g => g.index == i && g.partition == p) then move k else k) l.ranIn } }) d

/-- PARTITION_SET commits: the new partitions, and the numbering of their frames. -/
def commitParts (packet : Packet) (d : Dev) : Dev :=
  let e := modSched (fun s => { s with parts := withParts packet s.parts }) d
  d.sched.parts.foldl (fun e q =>
    match partOf? e q.1 with
    | some r => renumberPlans q.1 (frameNo q.2 d.geyser.now) (frameNo r d.geyser.now) e
    | none => e) e

/-- The units that apply at the COMMIT instant; the tables and buckets that the change's admission built commit with it. -/
def applyChange (c : Change) (units : W64) (d : Dev) : Dev :=
  let d :=
    if c.cores then ((List.range 64).filter fun n => units.getLsbD n).foldl (fun d n => applyMode n c d) d
    else if units.getLsbD 48 then
      if c.opcode = 0x0204 then commitParts c.packet d
      else setMasks (swapBindings c.plan c.packet d)
    else d
  let d := installScratch c.config (fun _ => true) (installUnits (if c.cores then BitVec.allOnes 64 else units) c.config d)
  let d := [0, 1].foldl (fun d i =>
    let r := (c.config.ingress[i]?).getD (0, 0)
    modSlot i (setIngress d.geyser.now r.1 r.2) d) d
  (d.sched.parts.map (·.1)).foldl (fun d p => activateGolden p d) d

/-- CHANGE_COMMIT: `applied` are the units that apply in time; a change that is not acknowledged in full aborts instead. -/
def changeCommit (applied : W64) (d : Dev) : Dev :=
  match earliest (·.commitAt) (d.cores.changes.filter pendingChange) with
  | none => d
  | some c =>
    let d := advance c.commitAt d
    if c.acked ≠ c.named then abortOne 2 c d
    else
      let units := c.acked &&& applied
      pump (setChange { c with committed := true, applied := units } 1 (applyChange c units d))

def execChangeCommit (applied : W64) (s : State) : Host.Outcome State Fault Refusal := .next (onDevA (changeCommit applied) s)

/-- A committed change whose acknowledged units have not all applied: a core is fenced; any other unit brings chip safe
state (R238). -/
def failApply (c : Change) (d : Dev) : Dev :=
  let failed := c.acked &&& ~~~c.applied
  if !c.committed || failed = 0 || c.failed ≠ 0 then d
  else
    let d := setChange { c with failed := failed } 1 (advance (c.commitAt + us 20) d)
    if c.cores then pump (((List.range 64).filter fun n => failed.getLsbD n).foldl (fun d n => fenceCore n d) d)
    else enterSafe true 0xFFFF d

/-- CHANGE_APPLY_DEADLINE, 20 µs after COMMIT. -/
def applyDeadline (d : Dev) : Dev := d.cores.changes.foldl (fun d c => failApply c d) d

def execChangeApplyDeadline (s : State) : Host.Outcome State Fault Refusal := .next (onDevZ applyDeadline s)

/-- CHANGE_DONE: the final reply of the oldest concluded change carries the units that applied. -/
def changeDone (d : Dev) : Dev :=
  match d.cores.changes.find? fun c => c.committed || c.aborted with
  | none => d
  | some c =>
    let d := failApply c d
    let d := { d with cores := { d.cores with changes := d.cores.changes.filter fun x => x.id != c.id } }
    match acceptedOf? d c.session c.counter with
    | some a => finalReply a cDone c.applied d
    | none => d

/-! ### The commit of an admission (R249, R329) -/

/-- The change record of an admission that no two-phase command started (Table 13.19). -/
def admissionRecord (c : PendingCommit) (d : Dev) : Dev :=
  let units := tableUnits (c.config.windows.map (·.1))
  { d with cores := { d.cores with
    record := { id := d.cores.nextChange % 65536, outcome := 1, commitAt := c.due, named := units, acked := units, applied := units }
    nextChange := d.cores.nextChange + 1 } }

/-- ADMISSION_COMMIT: a partition's part, or the device's, takes effect at its due instant. -/
def admissionCommit (partition : Option Nat) (d : Dev) : Dev :=
  match d.sched.commits.find? fun c => c.partition == partition with
  | none => d
  | some c =>
    let d := advance c.due d
    let d := applyCommit c (modSched (fun s => { s with commits := s.commits.erase c }) d)
    pump (if c.partition.isNone then admissionRecord c d else d)

end Sys2Proof.Machine
end

