-- ==== Sys2Proof/Machine/CalderaOps.lean ====
section
/-! DEFINITION. Caldera's commands (16 R401 to R417): events on source wires, rail disagreements, force tests, RELEASE, the
self-test of the collector. -/

namespace Sys2Proof.Machine

open Sys2Proof

/-- What an origin's fault does in its own unit: a failed entropy test stops the DRBG (R373); a memory stop whose two copies of the
tags disagree refuses every access from then on (R246). -/
def originEffect (source : Nat) (d : Dev) : Dev :=
  if source = 747 then modBonnet (fun b => { b with drbgStopped := true }) d
  else if sSegTag 0 ≤ source ∧ source ≤ sSegTag 19 then modStop (source - sSegTag 0) (fun m => { m with tagsDisagree := true }) d
  else d

/-- SOURCE_EVENT: the pending events of an origin, one handshake each (R402); a lasting condition is remembered (R403). -/
def sourceEvent (source channel : Nat) (lasting : Bool) (pending : Nat) (d : Dev) : Dev :=
  let d := modSrc source (fun x => { x with
    asserted := if lasting then some d.geyser.now else none
    lastEvent := if lasting then some d.geyser.now else none }) (originEffect source d)
  pump (signalMany source channel (max 1 pending) d)

def execSourceEvent (at_ : Time) (source : Fin 768) (channel : Fin 288) (lasting : Bool) (pending : Nat) (s : State) :
    Host.Outcome State Fault Refusal :=
  .next (onDevZ (fun d => sourceEvent source.val channel.val lasting pending (advance at_ d)) s)

/-- The rails agree again: what the origin kept pending is delivered (R401, R402). -/
def railsAgree (source : Nat) (d : Dev) : Dev :=
  let l := (srcOf d source).waiting
  pump (l.foldl (fun d ch => signalCh source ch d) (modSrc source (fun x => { x with mute := false, waiting := [] }) d))

/-- A rail disagreement begins (R401): WIRE_n is severe at its first event; a force test does not hold it back (R414). The wire
delivers no events from here on. -/
def railDisagreement (source : Nat) (d : Dev) : Dev :=
  let d := hwSet (srcReg source) (2 ^ 30) (modSrc source (fun x => { x with wire := true, mute := true }) d)
  pump (applyMask (if source < 512 then maskEUA else maskECA) source 0 d)

/-- RAIL_DISAGREEMENT: it begins on the source's wire, or has `ended`. -/
def execRailDisagreement (at_ : Time) (wire : WireChange) (s : State) : Host.Outcome State Fault Refusal :=
  .next (onDevZ (fun d =>
    if wire.ended then railsAgree wire.source.val (advance at_ d) else railDisagreement wire.source.val (advance at_ d)) s)

/-- LASTING_CONDITION_REPEAT: one more event at the end of each further 10 µs (R403). -/
def conditionRepeat (source : Nat) (d : Dev) : Dev :=
  match (srcOf d source).asserted, (srcOf d source).lastEvent with
  | some _, some t =>
    let d := advance (t + us 10) d
    pump (signal source (modSrc source (fun x => { x with lastEvent := some (t + us 10) }) d))
  | _, _ => d

def execLastingConditionRepeat (source : Fin 768) (s : State) : Host.Outcome State Fault Refusal :=
  .next (onDevZ (conditionRepeat source.val) s)

/-- CAL_RAISE: only sources 752, 753 and 754 are accepted (R404). -/
def calRaise (value : W32) (d : Dev) : Dev :=
  let n := value.toNat % 1024
  if 752 ≤ n ∧ n ≤ 754 then pump (signal n d) else d

def execCalRaise (at_ : Time) (value : W32) (s : State) : Host.Outcome State Fault Refusal :=
  .next (onDevZ (fun d => calRaise value (advance at_ d)) s)

def execCalForceSet (at_ : Time) (source : Fin 768) (s : State) : Host.Outcome State Fault Refusal :=
  .next (onDev (fun d => forceSet source.val (advance at_ d)) s)

def execCalForceClear (at_ : Time) (source : Fin 768) (s : State) : Host.Outcome State Fault Refusal :=
  .next (onDevZ (fun d => pump (forceClear source.val (advance at_ d))) s)

/-- FORCE_EXPIRY: FORCE clears 50 µs after it was set. -/
def forceExpiry (d : Dev) : Dev :=
  match d.cal.src.find? fun e => e.2.force with
  | some e => pump (forceClear e.1 (advance (e.2.forcedAt + us 50) d))
  | none => d

def execForceExpiry (s : State) : Host.Outcome State Fault Refusal := .next (onDevZ forceExpiry s)

/-- CAL_RELEASE: a RELEASE within the 25 µs stays pending (R413); processor 1 writes it (R134). -/
def calRelease (d : Dev) : Dev :=
  if !procUp 1 d then d
  else errUpdate (modCal (fun c => { c with
    released := true
    releasePending := c.errN && decide (d.geyser.now < c.assertedAt + us 25) }) d)

def execCalRelease (at_ : Time) (s : State) : Host.Outcome State Fault Refusal :=
  .next (onDev (fun d => calRelease (advance at_ d)) s)

/-- ERR_N_MINIMUM_END: 25 µs after the last assertion. -/
def errMinimumEnd (d : Dev) : Dev :=
  if d.cal.errN then
    errUpdate (modCal (fun c => { c with releasePending := false }) (advance (d.cal.assertedAt + us 25) d))
  else d

def execErrNMinimumEnd (s : State) : Host.Outcome State Fault Refusal := .next (onDev errMinimumEnd s)

/-- A copy disagreement or a rail violation inside the collector (R417). -/
def selfFault (d : Dev) : Dev :=
  enterSafe true 0xFFFF (assertErrN (modCal (fun c => { c with selfFault := true }) d))

/-- CAL_SELF_TEST: SELF_TEST presents one difference, which the comparators report; `fault`: the copies themselves
disagree. -/
def calSelfTest (fault : Bool) (d : Dev) : Dev :=
  if fault then selfFault d else modCal (fun c => { c with selfDetected := true }) d

def execCalSelfTest (at_ : Time) (fault : Bool) (s : State) : Host.Outcome State Fault Refusal :=
  .next (onDevZ (fun d => calSelfTest fault (advance at_ d)) s)

end Sys2Proof.Machine
end

