-- ==== Sys2Proof/Machine/Watchdogs.lean ====
section
/-! DEFINITION. Watchdogs and monitors (17 R420 to R439) and self-test slices in service (20 R501 to R503). -/

namespace Sys2Proof.Machine

open Sys2Proof

/-! ### Unit watchdogs (R420 to R428) -/

/-- UWD_CFG's ranges (Table 17.3). -/
def uwdRange (v : Nat) : Bool :=
  let grace := v / 2 ^ 48 % 32768
  let p := v / 2 ^ 24 % 16777216
  let o := v % 16777216
  decide (5 ≤ grace ∧ grace ≤ 10000) && decide (100 ≤ p ∧ p ≤ 10000000) && decide (1 ≤ o ∧ o + 10 ≤ p)

/-- The first write enables and locks; one out of range sets CFG_ERR (R422). -/
def uwdCfg (n v : Nat) (d : Dev) : Dev :=
  (fun d => if (uwdOf d n).cfgErr then hwSet (.uwdStatus (Fin.ofNat 67 n)) (2 ^ 26) d else d) <| modUwd n (fun w =>
    if w.enabled then w
    else if uwdRange v then
      { w with enabled := true, state := .running, graceUs := v / 2 ^ 48 % 32768, periodUs := v / 2 ^ 24 % 16777216,
               openUs := v % 16777216, last := d.geyser.now, test := n == 66, testDone := false }
    else { w with cfgErr := true }) d

def execUwdCfgWrite (at_ : Time) (unit : Fin 67) (value : W64) (s : State) : Host.Outcome State Fault Refusal :=
  .next (onDev (fun d => uwdCfg unit.val value.toNat (advance at_ d)) s)

/-- A watchdog counts: it neither is OFF nor HELD. -/
def uwdCounts (w : UnitWd) : Bool := w.state == .running || w.state == .grace

/-- The expiry source of an instance (Table 17.1). -/
def uwdSource (n : Nat) : Nat := if n < 64 then sCore n 3 else if n < 66 then 738 + (n - 64) else 741

/-- An expiry at `x`, late or early (R420, R425): the window runs from `x`, the unit traps, one event is signalled. Instance
66 has no unit; in its test it sets only status bits. -/
def uwdExpire (n : Nat) (early : Bool) (x : Time) (d : Dev) : Dev :=
  let w := uwdOf d n
  let d := modUwd n (fun w => { w with
    last := x
    expiries := min (w.expiries + 1) 65535
    expired := w.expired || !early
    early := w.early || early
    state := if n = 66 then w.state else .grace
    graceFrom := x }) d
  let d := hwSet (.uwdStatus (Fin.ofNat 67 n)) (if early then 2 ^ 28 else 2 ^ 29) d
  if n = 66 ∧ w.test then d else pump (signal (uwdSource n) d)

/-- A service that reaches the watchdog now; a period that has run out expires first (R421). -/
def uwdServe (n : Nat) : Nat → Dev → Dev
  | 0, d => d
  | fuel + 1, d =>
    let w := uwdOf d n
    if !uwdCounts w then d
    else if d.geyser.now ≥ w.last + us w.periodUs then uwdServe n fuel (uwdExpire n false (w.last + us w.periodUs) d)
    else if d.geyser.now < w.last + us w.openUs then uwdExpire n true d.geyser.now d
    else modUwd n (fun w => { w with last := d.geyser.now }) d

/-- UWD_SERVICE of a processor's own instance, or by processor 1 of the spare (R424, R428); every period that has run out expires
first. -/
def uwdService (n : Nat) (d : Dev) : Dev :=
  let w := uwdOf d n
  if !procUp (if n = 64 then 0 else 1) d then d
  else uwdServe n ((d.geyser.now - w.last) / max 1 (us w.periodUs) + 1) d

def execUwdService (at_ : Time) (unit : Fin 3) (s : State) : Host.Outcome State Fault Refusal :=
  .next (onDevZ (fun d => uwdService (64 + unit.val) (advance at_ d)) s)

/-- SEQUENCER_SERVICE at a 1 ms boundary: only when the scheduler has answered the probe, and not before s + O (R423). -/
def sequencerService (n : Nat) (answered : Bool) (d : Dev) : Dev :=
  let w := uwdOf d n
  if !answered || d.geyser.now % ms 1 != 0 || !uwdCounts w || decide (d.geyser.now < w.last + us w.openUs) then d
  else uwdServe n 1 d

def execSequencerService (at_ : Time) (core : Fin 64) (answered : Bool) (s : State) : Host.Outcome State Fault Refusal :=
  .next (onDevZ (fun d => sequencerService core.val answered (advance at_ d)) s)

/-- UWD_TEST_DONE: accepted once, on instance 66 (Table 17.5). -/
def execUwdTestDone (at_ : Time) (s : State) : Host.Outcome State Fault Refusal :=
  .next (onDev (fun d => modUwd 66 (fun w => if w.test then { w with test := false, testDone := true } else w) (advance at_ d)) s)

/-- UWD_EXPIRY: no service before s + P. -/
def uwdExpiry (n : Nat) (d : Dev) : Dev :=
  let w := uwdOf d n
  if uwdCounts w then
    let x := w.last + us w.periodUs
    uwdExpire n false x (advance x d)
  else d

def execUwdExpiry (unit : Fin 67) (s : State) : Host.Outcome State Fault Refusal := .next (onDevZ (uwdExpiry unit.val) s)

/-- A core's acknowledgement: TRAP_STATUS with kind WATCHDOG; a kernel that runs traps (R425, R426). -/
def coreAck (n : Nat) (d : Dev) : Dev :=
  let d := modUwd n (fun w => { w with state := .running }) d
  match runOn? d n with
  | some r => if r.stopped then captureTrap n { kind := tWatchdog } r.rerun r.op.kernel d else trapOn n { kind := tWatchdog } d
  | none => captureTrap n { kind := tWatchdog } false 0 d

/-- UNIT_ACKNOWLEDGE: a core, or a Steward processor that has written its crash record; chip safe state may already hold its
watchdog (R427). -/
def unitAck (n : Nat) (d : Dev) : Dev :=
  let w := uwdOf d n
  if n < 64 then (if w.state = .grace then coreAck n d else d)
  else if n = 66 then d
  else if w.state = .grace ∨ (w.state = .held ∧ w.graceFrom = w.last ∧ w.expiries > 0) then
    let d := modUwd n (fun w => { w with
      state := if w.state = .grace then .running else w.state
      graceFrom := 0 }) d
    { d with watch := { d.watch with crash := d.watch.crash ++ [n - 64] } }
  else d

def execUnitAcknowledge (at_ : Time) (unit : Fin 67) (s : State) : Host.Outcome State Fault Refusal :=
  .next (onDevZ (fun d => unitAck unit.val (advance at_ d)) s)

/-- GRACE_EXPIRY: the hard timer resets the unit; a core is fenced and its watchdog stays HELD. -/
def graceExpiry (n : Nat) (d : Dev) : Dev :=
  let w := uwdOf d n
  if w.state = .grace then
    let d := advance (w.graceFrom + us w.graceUs) d
    let d := hwSet (.uwdStatus (Fin.ofNat 67 n)) (2 ^ 27) (modUwd n (fun w => { w with state := .held, hard := true }) d)
    if n < 64 then pump (fenceCore n d) else modProc (n - 64) (fun p => { p with held := true }) d
  else d

def execGraceExpiry (unit : Fin 67) (s : State) : Host.Outcome State Fault Refusal := .next (onDevZ (graceExpiry unit.val) s)

/-! ### The device watchdog (R429 to R433) -/

inductive DwdCause where
  | late | early | badValue
  deriving DecidableEq, Repr

/-- The one expiry before power-on reset: PWR_CUT_N and FAILOVER_N low, SAFE forced, DEVICE_WDOG. -/
def dwdExpire (c : DwdCause) (x : Time) (d : Dev) : Dev :=
  let d := modDwd (fun w => { w with
    state := .expired
    late := decide (c = .late)
    early := decide (c = .early)
    badValue := decide (c = .badValue)
    failover := true
    pwrCut := true
    expiredAt := x }) d
  let d := { d with board := { d.board with failoverN := false, pwrCutN := false } }
  signal 740 (forceSafe d)

/-- The end of the window in which the device watchdog stands (R432). -/
def dwdEnd (w : DeviceWd) : Time := w.last + (if w.state = .restart then ms 500 else us w.periodUs)

/-- A service value (R431): wrong, late, early or valid. Processor 1 services the device watchdog (R134). -/
def dwdService (v : W32) (d : Dev) : Dev :=
  let w := d.watch.dwd
  if (w.state ≠ .running ∧ w.state ≠ .restart) ∨ !procUp 1 d then d
  else if d.geyser.now ≥ dwdEnd w then dwdExpire .late (dwdEnd w) d
  else if v ≠ w.next then dwdExpire .badValue d.geyser.now d
  else if w.state = .running ∧ d.geyser.now < w.last + us w.openUs then dwdExpire .early d.geyser.now d
  else modDwd (fun w => { w with state := .running, last := d.geyser.now, next := ~~~v }) d

def execDwdService (at_ : Time) (value : W32) (s : State) : Host.Outcome State Fault Refusal :=
  .next (onDevZ (fun d => dwdService value (advance at_ d)) s)

def dwdExpiry (d : Dev) : Dev :=
  let w := d.watch.dwd
  if w.state = .running ∨ w.state = .restart then dwdExpire .late (dwdEnd w) (advance (dwdEnd w) d) else d

def execDwdExpiry (s : State) : Host.Outcome State Fault Refusal := .next (onDevZ dwdExpiry s)

/-- PWR_CUT_RELEASE: 20 ms after the expiry. -/
def pwrCutRelease (d : Dev) : Dev :=
  if d.watch.dwd.pwrCut then
    let d := modDwd (fun w => { w with pwrCut := false }) (advance (d.watch.dwd.expiredAt + ms 20) d)
    { d with board := { d.board with pwrCutN := true } }
  else d

def execPwrCutRelease (s : State) : Host.Outcome State Fault Refusal := .next (onDev pwrCutRelease s)

/-! ### Monitors (R434 to R436) -/

def execMonitorWindowClose (monitor : Fin 4096) (s : State) : Host.Outcome State Fault Refusal :=
  .next (onDev (monitorClose monitor.val) s)

/-! ### Self-test slices (R501 to R503, Table 20.7)

Slices 0 ENGINE, 1 PAIR, 2 MEMORY, 3 SOURCE, 4 COLLECTOR. Sweeps are keyed: engine e as e, core n as 256 + n, memory stop s as
320 + s, all sources 341, collector 342. -/

def sweepKey (slice unit : Nat) : Nat :=
  match slice with
  | 0 => unit % 256
  | 1 => 256 + unit % 64
  | 2 => 320 + unit % 21
  | 3 => 341
  | _ => 342

/-- Slices of a sweep, and its diagnostic interval in ms. -/
def sweepSize (key : Nat) : Nat := if key < 256 then 25 else if key = 341 then 96 else 1
def sweepMs (key : Nat) : Nat := if key < 256 then 10000 else if key = 341 then 60000 else 1000
def sliceUs (slice : Nat) : Nat :=
  match slice with
  | 0 => 200
  | 1 => 60
  | 2 => 40
  | 3 => 160
  | _ => 5

/-- The next start of a criticality-0 window on core `n` after now. -/
def nextCrit0? (n : Nat) (d : Dev) : Option Time :=
  ((kget [] d.sched.tables (n / 4)).filterMap fun w =>
    match partOf? d w.partition with
    | some q =>
      if q.criticality = 0 ∧ w.mask.testBit (n % 4) then
        let m : Int := us q.majorUs
        let r := ((d.geyser.now : Int) - q.epoch - ns w.start) % m
        some (if r = 0 then (d.geyser.now + us q.majorUs) else ((d.geyser.now : Int) + (m - r)).toNat)
      else none
    | none => none).foldl (fun a t => match a with
      | none => some t
      | some b => some (min b t)) none

/-- A slice on a core may start now: unused time, an end before the window closes and before the next criticality-0 window
(R262). -/
def sliceFits (n len : Nat) (d : Dev) : Bool :=
  let fin := d.geyser.now + us len
  let free := (runOn? d n).isNone || ((runOn? d n).map (·.donated)).getD false
  let inWindow := match (coreOf d n).window with
    | some w => decide (w.ready ≤ d.geyser.now) && decide (fin ≤ w.closes)
    | none => true
  let before := match nextCrit0? n d with
    | some t => decide (fin ≤ t)
    | none => true
  free && inWindow && before

/-- The core on which a slice runs. -/
def sliceCore? (slice unit : Nat) : Option Nat :=
  match slice with
  | 0 => some (unit % 256 / 4)
  | 1 => some (unit % 64)
  | _ => none

/-- A slice that fails acts as Table 20.4 gives. -/
def sliceFail (slice unit : Nat) (d : Dev) : Dev :=
  match sliceCore? slice unit with
  | some n => pump (fenceCore n d)
  | none => chipFailed d

/-- What a slice leaves in registers beyond its answer: PAIR_INJECT (R226), the test bits of the next 8 sources (R414), SELF_DETECTED
(R417) and the detection of CVU_CTRL. For ENGINE and MEMORY the spec does not say which injection of the list comes last: DESIGN
CHOICE, nothing (notes/assumptions/49.md). -/
def sliceTraces (slice unit : Nat) (passed : Bool) (d : Dev) : Dev :=
  match slice with
  | 1 => modInject (unit % 64) (afterTest passed) d
  | 3 => (List.range 8).foldl (fun d i =>
      let n := (8 * kget 0 d.start.sweepDone 341 + i) % 768
      pump (forceClear n (forceSet n d))) d
  | 4 => modGnt (fun g => { g with cvuDetected := passed }) (modCal (fun c => { c with selfDetected := passed }) d)
  | _ => d

/-- SELFTEST_SLICE: it runs, or is deferred and counted. -/
def selftestSlice (slice unit : Nat) (passed : Bool) (d : Dev) : Dev :=
  let key := sweepKey slice unit
  let deferred := match sliceCore? slice unit with
    | some n => !sliceFits n (sliceUs slice) d
    | none => false
  if deferred then modSched (fun s => { s with deferred := kmod 0 s.deferred key (· + 1) }) d
  else
    let d := match sliceCore? slice unit with
      | some n => stopDonated [n] d
      | none => d
    let d := sliceTraces slice unit passed d
    let d := if passed then d else sliceFail slice unit d
    let done := kget 0 d.start.sweepDone key + 1
    if done ≥ sweepSize key then
      modStart (fun s => { s with
        sweepDone := kset 0 s.sweepDone key 0
        sweepStart := kput s.sweepStart key d.geyser.now }) d
    else modStart (fun s => { s with sweepDone := kset 0 s.sweepDone key done }) d

def execSelftestSlice (at_ : Time) (slice unit : Nat) (passed : Bool) (s : State) : Host.Outcome State Fault Refusal :=
  .next (onDevZ (fun d => selftestSlice slice unit passed (advance at_ d)) s)

/-- SWEEP_INTERVAL_EXPIRY: the sweep is not complete in its interval; a new one starts. -/
def sweepExpiry (key : Nat) (d : Dev) : Dev :=
  let t := kget d.start.serviceAt d.start.sweepStart key + ms (sweepMs key)
  let d := advance t d
  pump (signal 754 (modStart (fun s => { s with
    sweepDone := kset 0 s.sweepDone key 0
    sweepStart := kput s.sweepStart key t }) d))

def execSweepIntervalExpiry (unit : Nat) (s : State) : Host.Outcome State Fault Refusal := .next (onDevZ (sweepExpiry unit) s)

end Sys2Proof.Machine
end

