-- ==== Sys2Proof/Machine/GauntletOps.lean ====
section
/-! DEFINITION. Gauntlet (18): arming, test pulses and readback of the SAFE pairs, segments of messages, the check-value unit;
frames and links of the Ethernet ports (R14, R138, R450, R455, R530). -/

namespace Sys2Proof.Machine

open Sys2Proof

/-! ### SAFE pairs (R444 to R449) -/

/-- FORCE_TEST drives all pins low; `pins` are those that did not reach 0 within 2 µs. Ignored while ARMED. A failure at a
start reports CHIP_FAILED (Table 20.4). -/
def forceTest (pins : Byte) (d : Dev) : Dev :=
  if d.gnt.armed then d
  else
    let d := modGnt (fun g => { g with testPassed := pins == 0, readDiff := pins }) d
    if pins = 0 ∨ d.start.resumed then d else chipFailed d

def execForceTest (at_ : Time) (pins : Byte) (s : State) : Host.Outcome State Fault Refusal :=
  .next (onDev (fun d => forceTest pins (advance at_ d)) s)

/-- ARM is ignored unless TEST_PASSED is 1 and FORCED is 0 (R449); never after CHIP_FAILED or a device-watchdog expiry
(R459). -/
def gntArm (d : Dev) : Dev :=
  if d.gnt.testPassed && !d.gnt.forced && d.front.state != .chipFailed && !d.watch.dwd.failover then
    modGnt (fun g => { g with armed := true, testPassed := false, readDiff := 0 }) d
  else d

def execGntArm (at_ : Time) (s : State) : Host.Outcome State Fault Refusal := .next (onDev (fun d => gntArm (advance at_ d)) s)

/-- Bit of a pin in READ and DRIVE. -/
def pinBit (pair : Nat) (pin : SafePin) : Nat := 2 * pair + (match pin with | .a => 0 | .b => 1)

/-- A pair's readback fails: READBACK_ERR, SAFE_READBACK (R446). -/
def readbackFail (pair pin : Nat) (d : Dev) : Dev :=
  pump (signal 760 (modGnt (fun g => { g with
    readbackErr := g.readbackErr ||| BitVec.twoPow 4 pair
    readDiff := g.readDiff ||| BitVec.twoPow 8 pin }) (hwSet .gntStatus (2 ^ pair) d)))

/-- The offset of a pin's test pulse in each 20 ms (R445). -/
def pulseOffset (pair : Nat) (pin : SafePin) : Time := us (2500 * pair) + (match pin with | .a => 0 | .b => ms 10)

/-- SAFE_TEST_PULSE: a pulse begins in its slot on an active pair; `followed`: the readback followed both edges. -/
def safeTestPulse (pair : Nat) (pin : SafePin) (followed : Bool) (d : Dev) : Dev :=
  if pairActive d pair && d.geyser.now % ms 20 == pulseOffset pair pin then
    let d := modGnt (fun g => { g with pulses := kput g.pulses (pinBit pair pin) d.geyser.now }) d
    if followed then d else readbackFail pair (pinBit pair pin) d
  else d

def execSafeTestPulse (at_ : Time) (pair : Fin 4) (pin : SafePin) (followed : Bool) (s : State) :
    Host.Outcome State Fault Refusal :=
  .next (onDevZ (fun d => safeTestPulse pair.val pin followed (advance at_ d)) s)

/-- SAFE_READBACK_CHECK, 10 µs after the last change of drive: the pin's level against its drive. -/
def safeReadback (pair : Nat) (pin : SafePin) (level : Bool) (d : Dev) : Dev :=
  let b := pinBit pair pin
  if (gntDrive d).getLsbD b = level then modGnt (fun g => { g with readDiff := g.readDiff &&& ~~~BitVec.twoPow 8 b }) d
  else readbackFail pair b d

def execSafeReadbackCheck (at_ : Time) (pair : Fin 4) (pin : SafePin) (level : Bool) (s : State) :
    Host.Outcome State Fault Refusal :=
  .next (onDevZ (fun d => safeReadback pair.val pin level (advance at_ d)) s)

/-! ### Segments (R450 to R453) -/

/-- A segment's header up to the CRC (Table 18.3). -/
def segmentHeader (m : OutMsg) (index count len : Nat) : List Byte :=
  let r := m.record
  leBytes 4 0x54525746 ++ [1, BitVec.ofNat 8 r.verdict, BitVec.ofNat 8 r.grade, BitVec.ofNat 8 r.device] ++
  leBytes 4 r.context.toNat ++ leBytes 2 r.alive ++ leBytes 2 (bit 0 m.result + bit 1 m.fallback) ++ leBytes 8 r.seq ++
  leBytes 4 r.reasons.toNat ++ timeBytes r.capture ++ leBytes 2 index ++ timeBytes r.instant ++ leBytes 2 count ++
  leBytes 4 len ++ leBytes 4 m.payload.length

/-- Segment `i` of a message: header, CRC-32 over header and payload, payload. -/
def segmentBytes (m : OutMsg) (i : Nat) : List Byte :=
  let part := (m.payload.drop (8192 * i)).take 8192
  let h := segmentHeader m i (segCount m.payload.length) part.length
  h ++ leBytes 4 (crcMsg (h ++ part)).toNat ++ part

/-- The layer-2 frame of a segment, without its FCS. -/
def segmentFrame (port : Nat) (m : OutMsg) (i : Nat) : List Byte :=
  [0x03, 0x53, 0x4B, 0x00, 0x00, 0x01] ++ beBytes 6 (Config.portAddress port).toNat ++ [0x88, 0xB5] ++ segmentBytes m i

/-- SEGMENT_TRANSMIT: the next segment of the port's oldest message leaves; none once FORCED has latched (R457). -/
def segmentTransmit (port : Nat) (d : Dev) : Dev :=
  let p := portOf d port
  match p.out with
  | [] => d
  | m :: rest =>
    if d.gnt.forced || !p.link || p.role != .out then d
    else
      let next := m.nextSeg + 1
      let done := decide (next ≥ segCount m.payload.length)
      modPort port (fun p => { p with
        lastSegment := segmentFrame port m m.nextSeg
        out := if done then rest else { m with nextSeg := next } :: rest }) d

def execSegmentTransmit (at_ : Time) (port : Fin 4) (s : State) : Host.Outcome State Fault Refusal :=
  .next (onDev (fun d => segmentTransmit port.val (advance at_ d)) s)

/-! ### Frames and links -/

/-- A frame that is no camera packet, PTP message or fabric frame of its port. -/
def ethTake (port : Nat) (fcsOk : Bool) (d : Dev) : Dev :=
  if fcsOk then countUnsupported port d else modPort port (fun p => { p with headerFail := p.headerFail.add 1 }) d

/-- ETH_FRAME_RECEIVE: such a frame at a port (R14, R138). -/
def ethFrame (port size : Nat) (fcsOk : Bool) (drained : Nat) (d : Dev) : Dev :=
  portHears port [.tap, .fabric] (portBuffers port size drained (ethTake port fcsOk)) d

def execEthFrameReceive (at_ : Time) (port : Fin 4) (size : Nat) (fcsOk : Bool) (drained : Nat) (s : State) :
    Host.Outcome State Fault Refusal :=
  .next (onDev (fun d => ethFrame port.val size fcsOk drained (advance at_ d)) s)

/-- ETH_LINK_DOWN: every message queued on an OUT port is discarded and counted as refused (R455); a lost link is attention
class 1 (Table 5.7), with cause 14: Table 13.18 lists none of its own (notes/assumptions/47.md). -/
def linkDown (port : Nat) (d : Dev) : Dev :=
  let p := portOf d port
  if !p.link then d
  else
    let n := p.out.length + p.outWait.length
    let d := raiseAttn 1 14 [] d
    let d := modPort port (fun p => { p with link := false, rxBytes := 0, linkLosses := p.linkLosses.add 1, out := [], outWait := [] }) d
    if p.role = .out ∧ n > 0 then refuseOut port n d else d

def execEthLinkDown (at_ : Time) (port : Fin 4) (s : State) : Host.Outcome State Fault Refusal :=
  .next (onDev (fun d => linkDown port.val (advance at_ d)) s)

def execEthLinkUp (at_ : Time) (port : Fin 4) (s : State) : Host.Outcome State Fault Refusal :=
  .next (onDev (fun d => modPort port.val (fun p => { p with link := true }) (advance at_ d)) s)

/-! ### The check-value unit (R458, Table 18.6) -/

/-- CVU_INJECT: DETECTED tells whether the comparators reported the difference. At a start, one that they miss reports
CHIP_FAILED (Table 20.4). -/
def cvuInject (working : Bool) (d : Dev) : Dev :=
  let d := modGnt (fun g => { g with cvuDetected := working }) d
  if working || d.start.resumed then d else chipFailed d

def execCvuInject (at_ : Time) (working : Bool) (s : State) : Host.Outcome State Fault Refusal :=
  .next (onDev (fun d => cvuInject working (advance at_ d)) s)

end Sys2Proof.Machine
end

