-- ==== Sys2Proof/Machine/PaceOps.lean ====
section
/-! DEFINITION. Pace (06 R143 to R151, R535): VCORE comparators, gauges, TRACK, AVSBus. -/

namespace Sys2Proof.Machine

open Sys2Proof

/-- VCORE_COMPARATOR: VCORE below 0.70 V or above 0.93 V at a cluster. -/
def execVcoreComparator (at_ : Time) (cluster : Fin 16) (high : Bool) (s : State) : Host.Outcome State Fault Refusal :=
  .next (onDevZ (fun d => pump (signal (sPace cluster.val (if high then 3 else 2)) (advance at_ d))) s)

/-- A gauge window ends (R146, R147): counts, MIN, BELOW, DISAGREE, and the sources whose conditions hold. -/
def gaugeCompare (c : Nat) (a b : Nat) (d : Dev) : Dev :=
  let low := min a b
  let armed := d.pace.testArmed && d.pace.testCluster == c
  let below := decide (low < (if armed then 65535 else 10 * d.pace.f))
  let differ := decide ((max a b - low) * 100 > 3 * max a b)
  let d := modGauge c (fun g => { g with
    countA := BitVec.ofNat 16 a
    countB := BitVec.ofNat 16 b
    valid := true
    below := g.below || below
    disagree := g.disagree || differ
    min := if low < g.min.toNat then BitVec.ofNat 16 low else g.min }) d
  let d := hwSet (.gaugeStatus (Fin.ofNat 16 c)) (bit 30 below + bit 29 differ) d
  let d := if armed then modPace (fun p => { p with testArmed := false }) d else d
  let d := if below then signal (sPace c 0) d else d
  if differ then signal (sPace c 1) d else d

/-- GAUGE_WINDOW_END at a whole multiple of 10 µs; after a reset the first window is the first whole one that begins at or
after the Steward's release: R535 says so of a warm reset, and the model takes it for a cold start too (DESIGN CHOICE,
notes/assumptions/47.md). -/
def gaugeWindow (c a b : Nat) (d : Dev) : Dev :=
  let now := d.geyser.now
  if now % us 10 = 0 ∧ d.start.released ∧ now ≥ d.start.releasedAt + us 10 then pump (gaugeCompare c a b d) else d

def execGaugeWindowEnd (at_ : Time) (cluster : Fin 16) (countA countB : W16) (s : State) : Host.Outcome State Fault Refusal :=
  .next (onDevZ (fun d => gaugeWindow cluster.val countA.toNat countB.toNat (advance at_ d)) s)

/-- MIN_REARM sets MIN to 0xFFFF in every cluster. -/
def rearm (d : Dev) : Dev := modPace (fun p => { p with gauges := kmapv (fun _ g => { g with min := 0xFFFF }) p.gauges }) d

def execMinRearm (at_ : Time) (s : State) : Host.Outcome State Fault Refusal := .next (onDev (fun d => rearm (advance at_ d)) s)

/-- TEST_ARM: the next window of the cluster compares against 0xFFFF. -/
def execTestArm (at_ : Time) (cluster : Fin 16) (s : State) : Host.Outcome State Fault Refusal :=
  .next (onDev (fun d => modPace (fun p => { p with testArmed := true, testCluster := cluster.val }) (advance at_ d)) s)

/-- Cause 12 PACE: event, cluster, MIN, target, readback, F. -/
def paceAttn (cls event cluster low : Nat) (d : Dev) : Dev :=
  raiseAttn cls 12 ([BitVec.ofNat 8 event, BitVec.ofNat 8 cluster] ++ leBytes 2 low ++ leBytes 2 d.pace.target ++
    leBytes 2 d.pace.readback ++ leBytes 2 d.pace.f) d

/-- The lowest MIN over the clusters, and its cluster. -/
def lowestMin (d : Dev) : Nat × Nat :=
  (List.range 16).foldl (fun a c => if (gaugeOf d c).min.toNat < a.1 then ((gaugeOf d c).min.toNat, c) else a)
    ((gaugeOf d 0).min.toNat, 0)

/-- TRACK's step (R149, R151): 100 · MIN against 10 · F · (100 + g). -/
def trackStep (d : Dev) : Dev :=
  let (low, c) := lowestMin d
  let g := 10 * d.pace.f * (100 + d.pace.guardPct)
  let below := decide (low * 100 < g)
  let t := d.pace.target
  let target := if below then min 900 (t + 5) else if low * 10000 > 104 * g then max 720 (t - 5) else t
  let lost := below && decide (t ≥ 900)
  let d := if d.pace.stopped then d else modPace (fun p => { p with target := target }) d
  let d := if lost && !d.pace.marginTold then paceAttn 1 1 c low d else d
  rearm (modPace (fun p => { p with marginTold := if lost then true else if low * 100 > g then false else p.marginTold }) d)

/-- FIXED holds the configured setpoint (R149): after a start's first write of 0.80 V the Steward writes it at the next 1 ms boundary
(DESIGN CHOICE: R148 and R149 name no instant, notes/assumptions/49.md), unless AVSBus failures have stopped its writes (R150). -/
def fixedStep (d : Dev) : Dev := if d.pace.stopped then d else modPace (fun p => { p with target := p.setpoint }) d

/-- TRACK_ADJUST, at the next 1 ms boundary (R149): the Steward makes it, so a stopped Steward makes none. -/
def trackAdjust (d : Dev) : Dev :=
  let t := nextBeat (ms 1) d.pace.trackAt d.geyser.now
  let d := modPace (fun p => { p with trackAt := some t }) (advance t d)
  if !(d.start.released && stewardUp d) then d else if d.pace.track then trackStep d else fixedStep d

def execTrackAdjust (s : State) : Host.Outcome State Fault Refusal := .next (onDev trackAdjust s)

/-- AVSBUS_TRANSACTION_END: the readback after a target write; three failures in a row stop the writes (R150). -/
def avsbusEnd (error : Bool) (readback : Nat) (status : W16) (fault : Bool) (d : Dev) : Dev :=
  if d.pace.stopped || !d.start.released then d
  else
    let t := d.pace.target
    let bad := error || fault || decide (readback > t + 10) || decide (readback + 10 < t)
    let d := modPace (fun p => { p with
      readback := if error then p.readback else readback
      status := if error then p.status else status
      failures := if bad then p.failures + 1 else 0 }) d
    if d.pace.failures ≥ 3 then
      paceAttn 1 2 0 (lowestMin d).1 (modPace (fun p => { p with stopped := true }) d)
    else d

def execAvsbusTransactionEnd (at_ : Time) (error : Bool) (readback : Nat) (status : W16) (statusFault : Bool) (s : State) :
    Host.Outcome State Fault Refusal :=
  .next (onDev (fun d => avsbusEnd error readback status statusFault (advance at_ d)) s)

end Sys2Proof.Machine
end

