-- ==== Sys2Proof/Machine/GeyserOps.lean ====
section
/-! DEFINITION. Geyser (15 R380 to R400): the clock, its servo and steps, PTP messages, transmit queues, pulse outputs. -/

namespace Sys2Proof.Machine

open Sys2Proof

/-! ### Transitions and the increment (R381 to R389) -/

/-- The clock changes state: class 3, event 1 (R387). Consecutive good measurements count anew. -/
def clockTo (c : ClockState) (port : Nat) (d : Dev) : Dev :=
  let old := d.geyser.state
  if old = c then d
  else timeAttn 1 (clockCode old) (clockCode c) port d.geyser.offset (modGey (fun g => { g with state := c, good := 0 }) d)

/-- 6.4 ns (1 ± 10^-4), the limits of R382. -/
def incrLow : Nat := 0x06663C74FC
def incrHigh : Nat := 0x06669057D1

/-- A written increment is clamped; CLAMPED sets when that changes it. The servo's time at a limit is kept (R389). -/
def writeIncr (v : Nat) (d : Dev) : Dev :=
  let w := max incrLow (min incrHigh v)
  let limit := w == incrLow || w == incrHigh
  modGey (fun g => { g with
    incr := BitVec.ofNat 40 w
    clamped := g.clamped || w != v
    limitSince := if limit then some (g.limitSince.getD g.now) else none
    limitTold := g.limitTold && limit }) (if w != v then hwSet .geyCtrl (2 ^ 29) d else d)

def execGeyIncrWrite (at_ : Time) (value : BitVec 40) (s : State) : Host.Outcome State Fault Refusal :=
  .next (onDev (fun d => writeIncr value.toNat (advance at_ d)) s)

/-- SERVO_LIMIT_HOLD: one continuous second at a limit (R389). -/
def limitHold (d : Dev) : Dev :=
  match d.geyser.limitSince with
  | some t =>
    if d.geyser.now ≥ t + sec 1 ∧ !d.geyser.limitTold then
      timeAttn 3 (clockCode d.geyser.state) (clockCode d.geyser.state) d.geyser.master d.geyser.offset
        (modGey (fun g => { g with limitTold := true }) d)
    else d
  | none => d

def execServoLimitHold (at_ : Time) (s : State) : Host.Outcome State Fault Refusal :=
  .next (onDev (fun d => limitHold (advance at_ d)) s)

/-! ### Steps (R383 to R386) -/

/-- A context is in a state other than CLOSED; a two-phase change is pending (R384). -/
def anyContext (d : Dev) : Bool := d.contexts.any fun e => e.2.state != .closed
def changePending (d : Dev) : Bool := d.cores.changes.any pendingChange
def mayStep (d : Dev) : Bool := d.geyser.state == .unlocked && !anyContext d && !changePending d

/-- An output that is programmed: it runs until it is idle (R342, R396). -/
def pulseRuns (p : Pulse) : Bool := p.mode != 0

/-- The start of an interval in progress, moved with a step (R385). -/
def shiftBy (a : Int) (t : Time) : Time := ((t : Int) + a).toNat

/-- Every elapsed interval in progress is freed of the step: watchdogs, check-in windows, Caldera's windows, buckets, and the
other intervals the device measures (R385). -/
def shiftIntervals (a : Int) (d : Dev) : Dev :=
  let f := shiftBy a
  let bucket (_ : Nat) (b : Bucket) : Bucket := { b with at_ := f b.at_ }
  let src (_ : Nat) (x : Source) : Source :=
    { x with opens := f x.opens, forcedAt := f x.forcedAt, asserted := x.asserted.map f, lastEvent := x.lastEvent.map f }
  let uwd (_ : Nat) (w : UnitWd) : UnitWd := { w with last := f w.last, graceFrom := f w.graceFrom }
  let mon (_ : Nat) (m : Monitor) : Monitor := { m with start := f m.start }
  let slot (_ : Nat) (s : Slot) : Slot := { s with uncheckedAt := f s.uncheckedAt, ingressAt := f s.ingressAt }
  let stop (_ : Nat) (m : MemStop) : MemStop :=
    { m with wbLog := m.wbLog.map fun e => (e.1, f e.2), passStart := f m.passStart }
  let strm (_ : Nat) (s : Stream) : Stream := { s with lastValid := f s.lastValid }
  let sess (_ : Nat) (s : Session) : Session := { s with openedAt := f s.openedAt }
  let ptp (_ : Nat) (p : PtpPort) : PtpPort := { p with announceAt := f p.announceAt }
  let ctx (_ : Nat) (x : Context) : Context :=
    { x with rateAt := f x.rateAt, results := x.results.map fun r => { r with windows := r.windows.map fun e => (e.1, f e.2) } }
  let core (_ : Nat) (c : Core) : Core :=
    { c with bundles := c.bundles.map fun e => (e.1, { e.2 with served := e.2.served.map f }) }
  let dma (_ : Nat) (c : DmaChannel) : DmaChannel := { c with served := c.served.map f }
  let memb (_ : Nat) (m : Member) : Member := { m with lastSend := f m.lastSend }
  { d with
    watch := { d.watch with
      uwd := kmapv uwd d.watch.uwd
      dwd := { d.watch.dwd with last := f d.watch.dwd.last, expiredAt := f d.watch.dwd.expiredAt }
      monitors := kmapv mon d.watch.monitors }
    cal := { d.cal with
      src := kmapv src d.cal.src
      assertedAt := f d.cal.assertedAt
      safeAt := f d.cal.safeAt
      restarts := d.cal.restarts.map f }
    contexts := kmapv ctx d.contexts
    cores := { d.cores with core := kmapv core d.cores.core, dma := kmapv dma d.cores.dma }
    sched := { d.sched with
      hbm := kmapv bucket d.sched.hbm
      mesh := kmapv bucket d.sched.mesh
      requests := d.sched.requests.map fun r => { r with due := f r.due } }
    slots := kmapv slot d.slots
    streams := kmapv strm d.streams
    sessions := kmapv sess d.sessions
    memctl := { d.memctl with
      stops := kmapv stop d.memctl.stops
      moving := d.memctl.moving.map fun e => (e.1, e.2.1, f e.2.2) }
    bonnet := { d.bonnet with drbgReseed := d.bonnet.drbgReseed.map f }
    gnt := { d.gnt with pulses := kmapv (fun _ t => f t) d.gnt.pulses }
    geyser := { d.geyser with limitSince := d.geyser.limitSince.map f, ports := kmapv ptp d.geyser.ports }
    fabric := { d.fabric with
      lease := f d.fabric.lease
      managerInstant := f d.fabric.managerInstant
      isolatedAt := f d.fabric.isolatedAt
      confirmedAt := f d.fabric.confirmedAt
      sentAt := f d.fabric.sentAt
      sent := d.fabric.sent.map fun e => (e.1, f e.2)
      members := kmapv memb d.fabric.members }
    start := { d.start with
      releasedAt := f d.start.releasedAt
      resetAt := f d.start.resetAt
      serviceAt := f d.start.serviceAt
      commandedAt := d.start.commandedAt.map f
      sweepStart := kmapv (fun _ t => f t) d.start.sweepStart } }

/-- A running output stops at a step and goes idle (R386). -/
def stopPulse (p : Pulse) : Pulse :=
  if pulseRuns p then { p with mode := 0, run := false, stopped := true, level := false } else p

/-- A step of `a` (2^-32 ns) applies at the next tick in UNLOCKED; a time that would be negative becomes zero. -/
def applyStep (a : Int) (d : Dev) : Dev :=
  if d.geyser.state ≠ .unlocked then hwSet .geyCtrl (2 ^ 28) (modGey (fun g => { g with stepRefused := true }) d)
  else
    let tick := d.geyser.now + d.geyser.incr.toNat
    let new := shiftBy a tick
    let made : Int := (new : Int) - tick
    let d := shiftIntervals made d
    let d := modGey (fun g => { g with now := new, stepped := true, good := 0, pulses := kmapv (fun _ p => stopPulse p) g.pulses }) d
    let d := d.geyser.pulses.foldl (fun d e => if e.2.stopped then hwSet (.pulseCtrl (Fin.ofNat 8 e.1)) (2 ^ 28) d else d)
      (hwSet .geyCtrl (2 ^ 27) d)
    timeAttn 2 0 0 0xFF (made.tdiv 4294967296) d

/-- GEY_STEP: signed nanoseconds and a fraction in 2^-16 ns (Table 15.3). -/
def stepWrite (stepNs : BitVec 48) (frac : W16) (d : Dev) : Dev :=
  applyStep (stepNs.toInt * 4294967296 + frac.toNat * 65536) (modGey (fun g => { g with stepNs := stepNs, stepFrac := frac }) d)

def execGeyStepWrite (at_ : Time) (stepNs : BitVec 48) (stepFrac : W16) (s : State) : Host.Outcome State Fault Refusal :=
  .next (onDev (fun d => stepWrite stepNs stepFrac (advance at_ d)) s)

/-! ### The servo (R387, R388) -/

/-- One offset measurement in 2^-32 ns: a step in UNLOCKED beyond the threshold when R384 allows it, otherwise the count of
good measurements, LOCKED after enough of them, and an increment of the servo's own choice within R382. -/
def servo (off : Int) (port : Nat) (d : Dev) : Dev :=
  let d := modGey (fun g => { g with offset := off.tdiv 4294967296 }) d
  if mayStep d && decide (off.natAbs > ns d.geyser.cfg.stepThreshold) then applyStep (-off) d
  else
    let good := if off.natAbs ≤ ns d.geyser.cfg.lockThreshold then d.geyser.good + 1 else 0
    let d := modGey (fun g => { g with good := good }) d
    let d := if d.geyser.state ≠ .locked ∧ good ≥ d.geyser.cfg.lockCount then clockTo .locked port d else d
    let (n, d) := fresh d
    let (m, d) := fresh d
    let est := max incrLow (min incrHigh (Config.servo m off).toNat)
    writeIncr (Config.servo n off).toNat (modGey (fun g => { g with estimate := BitVec.ofNat 40 est }) d)

/-- LOCKED goes to FREE_RUN with the increment held at the last estimate (R387, R388). -/
def freeRun (port : Nat) (d : Dev) : Dev :=
  if d.geyser.state = .locked then writeIncr d.geyser.estimate.toNat (clockTo .freeRun port d) else d

/-! ### Ports and the best master (R390, IEEE 1588) -/

/-- The roles that carry PTP (Table 1.2). -/
def ptpRoles : List PortRole := [.tap, .fabric]

/-- PTP runs on a port in TAP or FABRIC role with a mechanism enabled and its link up, while processor 1 runs (R134). -/
def ptpUp (d : Dev) (port : Nat) : Bool :=
  procUp 1 d && ptpRoles.contains (portOf d port).role && (portOf d port).link && (d.geyser.cfg.mech[port]?).getD 0 != 0
def mechOf (d : Dev) (port : Nat) : Nat := (d.geyser.cfg.mech[port]?).getD 0
def twoStepOf (d : Dev) (port : Nat) : Bool := (d.geyser.cfg.steps[port]?).getD 1 == 2
def asymOf (d : Dev) (port : Nat) : Int := ((d.geyser.cfg.asym[port]?).getD 0) * 4294967296

/-- A message of the configured domain on a port that runs PTP. -/
def ptpHears (d : Dev) (port : Nat) (m : PtpMessage) : Bool := ptpUp d port && m.domain == d.geyser.cfg.domain

/-- The order of data sets: priority1, class, accuracy, variance, priority2, identity, then steps removed. -/
def dataKey (a : AnnounceData) : List Nat :=
  [a.priority1, a.clockClass, a.accuracy, a.variance, a.priority2, a.identity.toNat, a.steps]
def keyLess : List Nat → List Nat → Bool
  | a :: r, b :: q => decide (a < b) || (a == b && keyLess r q)
  | _, _ => false
def better (a b : AnnounceData) : Bool := keyLess (dataKey a) (dataKey b)

/-- This device's own data set. -/
def ownData (g : PtpConfig) : AnnounceData :=
  { priority1 := g.priority1, clockClass := g.clockClass, priority2 := g.priority2, identity := Config.clockIdentity }

/-- The best foreign master over the ports that run PTP, with its port. -/
def bestForeign (d : Dev) : Option (Nat × AnnounceData) :=
  (List.range 4).foldl (fun a i =>
    match a, (if ptpUp d i then (ptpOf d i).foreign else none) with
    | none, some f => some (i, f)
    | some (j, b), some f => if better f b then some (i, f) else some (j, b)
    | a, none => a) none

/-- The state the best master clock algorithm gives a port. Without MASTER_CAPABLE a port that would be MASTER listens. -/
def bmcaState (d : Dev) (port : Nat) : PtpState :=
  let g := d.geyser.cfg
  let asMaster : PtpState := if g.masterCapable then .master else .listening
  if !ptpUp d port then .disabled
  else if g.external then
    (match (g.extState[port]?).getD 0 with
     | 1 => asMaster
     | 2 => .slave
     | 3 => .passive
     | _ => .listening)
  else
    let mine := (ptpOf d port).foreign
    match bestForeign d with
    | none => if (ptpOf d port).state = .master then .master else .listening
    | some (bp, b) =>
      let own := ownData g
      if g.clockClass ≤ 127 then
        (match mine with
         | some f => if better own f then asMaster else .passive
         | none => asMaster)
      else if g.masterCapable && better own b then .master
      else if bp = port then .slave
      else
        (match mine with
         | some f => if f.identity = b.identity then .passive else asMaster
         | none => asMaster)

/-- The identity a slave port follows. -/
def masterId (d : Dev) : Option W64 := ((ptpOf d d.geyser.master).foreign).map (·.identity)

/-- Port states are decided anew; a change of the master makes a LOCKED clock FREE_RUN and drops its measurements. -/
def runBmca (d : Dev) : Dev :=
  let states := (List.range 4).map fun i => (i, bmcaState d i)
  let before := (d.geyser.master, masterId d)
  let d := states.foldl (fun d e => modPtp e.1 (fun p =>
    if p.state = e.2 then p else { p with state := e.2, syncRx := none, syncPair := none, delayTx := none }) d) d
  let m := ((states.find? fun e => e.2 == .slave).map (·.1)).getD 0xFF
  let d := modGey (fun g => { g with master := m }) d
  if before.1 ≠ 0xFF ∧ before ≠ (m, masterId d) then freeRun m d else d

/-- 2^n seconds. -/
def intervalOf (n : Int) : Time := if n ≥ 0 then sec 1 * 2 ^ n.toNat else sec 1 / 2 ^ (-n).toNat

/-- PTP_ANNOUNCE: the port keeps the best foreign master it hears, and the algorithm runs. -/
def ptpAnnounce (port : Nat) (m : PtpMessage) (a : AnnounceData) (d : Dev) : Dev :=
  if !ptpHears d port m || d.geyser.cfg.external then d
  else
    let keep := match (ptpOf d port).foreign with
      | none => true
      | some f => f.identity == a.identity || better a f
    let before := masterId d
    let port0 := d.geyser.master
    if keep then
      let d := modPtp port (fun p => { p with foreign := some a, announceAt := d.geyser.now }) d
      let d := if port0 = port ∧ before ≠ masterId d then freeRun port d else d
      runBmca d
    else d

def execPtpAnnounce (at_ : Time) (port : Fin 4) (m : PtpMessage) (a : AnnounceData) (s : State) :
    Host.Outcome State Fault Refusal :=
  .next (onDev (fun d => portHears port.val ptpRoles (ptpAnnounce port.val m a) (advance at_ d)) s)

/-- ANNOUNCE_RECEIPT_TIMEOUT: the foreign master is forgotten; a LOCKED clock that followed it is FREE_RUN; a port that hears
none becomes MASTER where it may. -/
def announceTimeout (port : Nat) (d : Dev) : Dev :=
  if !ptpUp d port || d.geyser.cfg.external then d
  else
    let g := d.geyser.cfg
    let d := advance ((ptpOf d port).announceAt + g.receiptTimeout * intervalOf g.logAnnounce) d
    let d := if d.geyser.master = port then freeRun port d else d
    let d := modPtp port (fun p => { p with foreign := none }) d
    let d := if g.masterCapable && (bestForeign d).isNone then modPtp port (fun p => { p with state := .master }) d else d
    runBmca d

def execAnnounceReceiptTimeout (port : Fin 4) (s : State) : Host.Outcome State Fault Refusal :=
  .next (onDev (announceTimeout port.val) s)

/-! ### Messages (R388, R390, R393 to R395) -/

/-- A message's correction field, in 2^-32 ns. -/
def corrOf (m : PtpMessage) : Int := m.correction * 65536

/-- The port follows the source of a message. -/
def fromMaster (d : Dev) (port : Nat) (m : PtpMessage) : Bool :=
  (ptpOf d port).state == .slave && (d.geyser.cfg.external || masterId d == some m.source)

/-- A Sync's origin and receipt are known: one offset measurement. -/
def servoMeasure (port : Nat) (origin receipt : Time) (corr : Int) (d : Dev) : Dev :=
  let t1 : Int := (origin : Int) + corr + asymOf d port
  let off := (receipt : Int) - t1 - (ptpOf d port).meanDelay
  servo off port (modPtp port (fun p => { p with syncRx := none, syncPair := some (t1.toNat, receipt) }) d)

/-- PTP_SYNC: a one-step Sync measures at once; a two-step Sync waits for its Follow_Up. -/
def ptpSync (port : Nat) (m : PtpMessage) (d : Dev) : Dev :=
  if !ptpHears d port m || !fromMaster d port m then d
  else if m.twoStep then
    modPtp port (fun p => { p with syncRx := some (m.sequenceId, d.geyser.now, corrOf m) }) d
  else servoMeasure port m.stamp d.geyser.now (corrOf m) d

def execPtpSync (at_ : Time) (port : Fin 4) (m : PtpMessage) (s : State) : Host.Outcome State Fault Refusal :=
  .next (onDev (fun d => portHears port.val ptpRoles (ptpSync port.val m) (advance at_ d)) s)

/-- PTP_FOLLOW_UP: it completes the Sync of its sequenceId. -/
def ptpFollowUp (port : Nat) (m : PtpMessage) (d : Dev) : Dev :=
  if !ptpHears d port m || !fromMaster d port m then d
  else match (ptpOf d port).syncRx with
    | some (q, t2, c) => if q = m.sequenceId then servoMeasure port m.stamp t2 (c + corrOf m) d else d
    | none => d

def execPtpFollowUp (at_ : Time) (port : Fin 4) (m : PtpMessage) (s : State) : Host.Outcome State Fault Refusal :=
  .next (onDev (fun d => portHears port.val ptpRoles (ptpFollowUp port.val m) (advance at_ d)) s)

/-- The newest message a port sent. -/
def sendPtp (port type : Nat) (ident : W16) (stamp : Time) (corr : Int) (d : Dev) : Dev :=
  modPtp port (fun p => { p with sent := some (type, ident, stamp, corr) }) d

/-- PTP_DELAY_REQ: a MASTER port answers with a Delay_Resp that carries the receipt stamp. -/
def ptpDelayReq (port : Nat) (m : PtpMessage) (d : Dev) : Dev :=
  if ptpHears d port m && mechOf d port == 1 && (ptpOf d port).state == .master then
    sendPtp port 9 m.sequenceId d.geyser.now (corrOf m) d
  else d

def execPtpDelayReq (at_ : Time) (port : Fin 4) (m : PtpMessage) (s : State) : Host.Outcome State Fault Refusal :=
  .next (onDev (fun d => portHears port.val ptpRoles (ptpDelayReq port.val m) (advance at_ d)) s)

/-- PTP_DELAY_RESP: the mean path delay from the last Sync and this Delay_Req, whose stamp must not have been lost (R395). -/
def ptpDelayResp (port : Nat) (m : PtpMessage) (d : Dev) : Dev :=
  if !ptpHears d port m || !fromMaster d port m || mechOf d port != 1 then d
  else match (ptpOf d port).delayTx, (ptpOf d port).syncPair with
    | some (q, t3), some (t1, t2) =>
      if q = m.sequenceId then
        let delay := (((t2 : Int) - t1) + ((m.stamp : Int) - corrOf m - t3)) / 2
        modPtp port (fun p => { p with meanDelay := delay, delayTx := none }) d
      else d
    | _, _ => d

def execPtpDelayResp (at_ : Time) (port : Fin 4) (m : PtpMessage) (s : State) : Host.Outcome State Fault Refusal :=
  .next (onDev (fun d => portHears port.val ptpRoles (ptpDelayResp port.val m) (advance at_ d)) s)

/-- PTP_PDELAY_REQ: a two-step answer carries the receipt stamp; a one-step answer adds its turnaround, which the hardware
measures, to the correction (R393). -/
def ptpPdelayReq (port : Nat) (m : PtpMessage) (d : Dev) : Dev :=
  if !ptpHears d port m || mechOf d port != 2 then d
  else if twoStepOf d port then sendPtp port 3 m.sequenceId d.geyser.now (corrOf m) d
  else
    let (n, d) := fresh d
    sendPtp port 3 m.sequenceId 0 (corrOf m + (Config.freeWord n).toNat) d

def execPtpPdelayReq (at_ : Time) (port : Fin 4) (m : PtpMessage) (s : State) : Host.Outcome State Fault Refusal :=
  .next (onDev (fun d => portHears port.val ptpRoles (ptpPdelayReq port.val m) (advance at_ d)) s)

/-- PTP_PDELAY_RESP: a one-step answer measures at once; a two-step answer waits for its Follow_Up. -/
def ptpPdelayResp (port : Nat) (m : PtpMessage) (d : Dev) : Dev :=
  if !ptpHears d port m || mechOf d port != 2 then d
  else match (ptpOf d port).pdelayTx with
    | some (q, t1) =>
      if q ≠ m.sequenceId then d
      else
        let c := corrOf m + asymOf d port
        if m.twoStep then modPtp port (fun p => { p with pdelayResp := some (q, d.geyser.now, m.stamp, c) }) d
        else modPtp port (fun p => { p with meanDelay := ((d.geyser.now : Int) - t1 - c) / 2, pdelayTx := none }) d
    | none => d

def execPtpPdelayResp (at_ : Time) (port : Fin 4) (m : PtpMessage) (s : State) : Host.Outcome State Fault Refusal :=
  .next (onDev (fun d => portHears port.val ptpRoles (ptpPdelayResp port.val m) (advance at_ d)) s)

/-- PTP_PDELAY_RESP_FOLLOW_UP: the peer delay of a two-step exchange. -/
def ptpPdelayFollowUp (port : Nat) (m : PtpMessage) (d : Dev) : Dev :=
  if !ptpHears d port m || mechOf d port != 2 then d
  else match (ptpOf d port).pdelayTx, (ptpOf d port).pdelayResp with
    | some (q, t1), some (r, t4, t2, c) =>
      if q = m.sequenceId ∧ r = q then
        let delay := (((t4 : Int) - t1) - ((m.stamp : Int) - t2) - c - corrOf m) / 2
        modPtp port (fun p => { p with meanDelay := delay, pdelayTx := none, pdelayResp := none }) d
      else d
    | _, _ => d

def execPtpPdelayRespFollowUp (at_ : Time) (port : Fin 4) (m : PtpMessage) (s : State) : Host.Outcome State Fault Refusal :=
  .next (onDev (fun d => portHears port.val ptpRoles (ptpPdelayFollowUp port.val m) (advance at_ d)) s)

/-- PTP_MANAGEMENT: discarded and counted where the port carries PTP. -/
def execPtpManagement (at_ : Time) (port : Fin 4) (s : State) : Host.Outcome State Fault Refusal :=
  .next (onDev (fun d => portHears port.val ptpRoles
    (modPort port.val fun p => { p with management := p.management.add 1 }) (advance at_ d)) s)

/-- The port may send a message of a type: Sync and Announce as MASTER, a delay request by its mechanism. -/
def maySend (d : Dev) (port type : Nat) : Bool :=
  ptpUp d port && match type with
    | 0 | 0xB => (ptpOf d port).state == .master
    | 1 => (ptpOf d port).state == .slave && mechOf d port == 1
    | 2 => mechOf d port == 2
    | _ => false

/-- PTP_MESSAGE_SEND: one more sequenceId; a one-step Sync carries its egress stamp (R393), every other message none. -/
def ptpSend (port type : Nat) (d : Dev) : Dev :=
  if maySend d port type then
    let q := (ptpOf d port).seqId + 1
    let stamp := if type = 0 ∧ !twoStepOf d port then d.geyser.now else 0
    sendPtp port type q stamp 0 (modPtp port (fun p => { p with seqId := q }) d)
  else d

def execPtpMessageSend (at_ : Time) (port : Fin 4) (messageType : BitVec 4) (s : State) : Host.Outcome State Fault Refusal :=
  .next (onDev (fun d => ptpSend port.val messageType.toNat (advance at_ d)) s)

/-- Messages whose stamp goes through the transmit queue (R393). -/
def queuedType (d : Dev) (port type : Nat) : Bool :=
  type == 1 || type == 2 || ((type == 0 || type == 3) && twoStepOf d port)

/-- TX_TIMESTAMP: the stamp enters the queue of 16, or is discarded with OVERFLOW (R394, R395). -/
def txStamp (port type : Nat) (ident : W16) (d : Dev) : Dev :=
  let p := portOf d port
  if !queuedType d port type then d
  else if p.txq.length < 16 then
    modPort port (fun p => { p with txq := p.txq ++ [{ messageType := type, ident := ident, stamp := d.geyser.now }] }) d
  else if p.txqOverflow then d
  else
    timeAttn 4 (clockCode d.geyser.state) (clockCode d.geyser.state) port d.geyser.offset
      (hwSet (.txqStatus (Fin.ofNat 4 port)) (2 ^ 31) (modPort port (fun p => { p with txqOverflow := true }) d))

def execTxTimestamp (at_ : Time) (port : Fin 4) (messageType : BitVec 4) (ident : W16) (s : State) :
    Host.Outcome State Fault Refusal :=
  .next (onDev (fun d => txStamp port.val messageType.toNat ident (advance at_ d)) s)

/-- TXQ_ENTRY_READ: the oldest entry leaves; the Steward sends the Follow_Up or keeps the request's stamp. -/
def txqRead (port : Nat) (d : Dev) : Dev :=
  match (portOf d port).txq with
  | [] => d
  | e :: r =>
    let d := modPort port (fun p => { p with txq := r }) d
    match e.messageType with
    | 0 => sendPtp port 8 e.ident e.stamp 0 d
    | 1 => modPtp port (fun p => { p with delayTx := some (e.ident, e.stamp) }) d
    | 2 => modPtp port (fun p => { p with pdelayTx := some (e.ident, e.stamp) }) d
    | 3 => sendPtp port 0xA e.ident e.stamp 0 d
    | _ => d

def execTxqEntryRead (at_ : Time) (port : Fin 4) (s : State) : Host.Outcome State Fault Refusal :=
  .next (onDev (fun d => txqRead port.val (advance at_ d)) s)

/-! ### PPS_IN (R399) -/

/-- No port is in SLAVE state, and PPS_IN is the reference. -/
def ppsReference (d : Dev) : Bool := d.geyser.cfg.ppsIn == 2 && !(List.range 4).any fun i => (ptpOf d i).state == .slave

/-- A missing edge: the second in a row makes a LOCKED clock FREE_RUN. -/
def ppsMissed (d : Dev) : Dev :=
  let d := modGey (fun g => { g with ppsMissing := g.ppsMissing + 1 }) d
  if d.geyser.ppsMissing ≥ 2 then freeRun 0xFF d else d

/-- The distance from the nearest whole second. -/
def ppsOffset (t : Time) : Int :=
  let r := t % sec 1
  if 2 * r ≤ sec 1 then r else (r : Int) - (sec 1 : Nat)

/-- PPS_IN: the edge is stamped; as the reference it gives the servo an offset, unless it counts as missing. -/
def ppsEdge (d : Dev) : Dev :=
  if d.geyser.cfg.ppsIn = 0 then d
  else
    let d := modGey (fun g => { g with ppsStamp := g.now }) d
    if !ppsReference d then d
    else
      let off := ppsOffset d.geyser.now
      if d.geyser.state ≠ .unlocked ∧ off.natAbs > ms 100 then ppsMissed d
      else servo off 0xFF (modGey (fun g => { g with ppsMissing := 0 }) d)

def execPpsIn (at_ : Time) (s : State) : Host.Outcome State Fault Refusal := .next (onDev (fun d => ppsEdge (advance at_ d)) s)

def execPpsInMissing (at_ : Time) (s : State) : Host.Outcome State Fault Refusal :=
  .next (onDev (fun d => let d := advance at_ d; if ppsReference d then ppsMissed d else d) s)

/-! ### Pulses (R396 to R398) -/

/-- The instant of occurrence `n` of an output. -/
def occurrence (p : Pulse) (n : Nat) : Time := p.start + n * p.period

/-- PULSE_OCCURRENCE: the output rises; a one-shot has no occurrence to come. -/
def pulseRise (o : Nat) (d : Dev) : Dev :=
  let p := pulseOf d o
  if p.run then
    modPulse o (fun p => { p with level := true, n := p.n + 1, run := p.mode == 2 }) (advance (occurrence p p.n) d)
  else d

def execPulseOccurrence (output : Fin 8) (s : State) : Host.Outcome State Fault Refusal := .next (onDev (pulseRise output.val) s)

/-- PULSE_FALL: the output falls at the occurrence plus the width; a one-shot becomes idle. -/
def pulseDrop (o : Nat) (d : Dev) : Dev :=
  let p := pulseOf d o
  if p.level then
    modPulse o (fun p => { p with level := false, mode := if p.mode = 1 then 0 else p.mode })
      (advance (occurrence p (p.n - 1) + p.width) d)
  else d

def execPulseFall (output : Fin 8) (s : State) : Host.Outcome State Fault Refusal := .next (onDev (pulseDrop output.val) s)

/-- PPS_OUT rises at each whole second and falls after the configured width. -/
def ppsDrive (rise : Bool) (d : Dev) : Dev :=
  let now := d.geyser.now
  if rise then
    if d.geyser.ppsOut then d
    else modGey (fun g => { g with ppsOut := true }) (advance (if now % sec 1 = 0 then now else nextMultiple (sec 1) now) d)
  else if d.geyser.ppsOut then
    modGey (fun g => { g with ppsOut := false }) (advance (now / sec 1 * sec 1 + us d.geyser.cfg.ppsWidthUs) d)
  else d

def execPpsOut (rise : Bool) (s : State) : Host.Outcome State Fault Refusal := .next (onDev (ppsDrive rise) s)

/-- REFCLK_FAULT (R400): severe at the first event, chip safe state. -/
def execRefclkFault (at_ : Time) (s : State) : Host.Outcome State Fault Refusal :=
  .next (onDevZ (fun d => pump (signal 745 (advance at_ d))) s)

end Sys2Proof.Machine
end

