-- ==== Sys2Proof/Machine/OpSession.lean ====
section
/-! DEFINITION. Session and security opcodes (13 Table 13.5, 14 R351 to R370) and the attention opcodes (12 R324, R325). Each
meaning answers what rows 7 and 8 of Table 12.10 make of its packet. -/

namespace Sys2Proof.Machine

open Sys2Proof

/-! ### Numbers and places that the device assigns -/

/-- The first unused of `count` numbers from `lo`, searched upward and around from a free start. -/
def scanFree (used : Nat → Bool) (lo count : Nat) : Nat → Nat → Nat
  | 0, i => lo + i % count
  | fuel + 1, i => if used (lo + i % count) then scanFree used lo count fuel (i + 1) else lo + i % count

/-- A number of `lo` to `lo + count − 1` that is not in use: which one is the device's to choose. -/
def assign (inUse : List Nat) (lo count : Nat) (d : Dev) : Nat × Dev :=
  let (n, d) := fresh d
  (scanFree inUse.contains lo count inUse.length (Config.freeNat n % count), d)

/-- An unassigned queue number (R305), none whose closing command still owes its final reply; an entry of kind 0 only counts doorbell
faults. -/
def newQueue (d : Dev) : Nat × Dev :=
  assign ((d.queues.table.filter fun e => e.2.kind != 0).map (·.1) ++ d.accepted.flatMap (·.queues)) 0 1048576 d

/-- BAR0 offset of a queue's doorbell (Table 12.1). -/
def doorbellAt (q : Nat) : Nat := 0x01000000 + 8 * q

/-! ### Buffer references and queue specifications -/

/-- A buffer reference at payload offset `o` (Table 13.3): address and length, and a refusal when one is out of range. -/
def bufAddr (p : Packet) (o : Nat) : W64 := BitVec.ofNat 64 (pay p o 8)
def bufLen (p : Packet) (o : Nat) : Nat := pay p (o + 8) 8
def badBuffer (p : Packet) (o : Nat) : Option Answer :=
  if pay p o 8 % 64 ≠ 0 then some (refuseAt cRange (0x40 + o))
  else if bufLen p o < 64 ∨ bufLen p o > 67108992 then some (refuseAt cRange (0x48 + o))
  else none

/-- A buffer of another length than an object's. -/
def badLength (o : Nat) : Answer := .refuse cLayout (refusalWord 6 (0x48 + o))

/-- A queue specification at payload offset `o` (Table 12.5) against the kind, exponents, owner, slot and partition it must
have; `base` is the condition on its base. -/
def badSpec (p : Packet) (o kind lo hi owner : Nat) (slot : Nat → Bool) (partition : Nat) (base : Nat → Bool) :
    Option Answer :=
  let f (n k : Nat) : Nat := pay p (o + n) k
  let bad (n : Nat) : Option Answer := some (refuseAt cRange (0x40 + o + n))
  if !allZero (bytesAt (payloadOf p) (o + 0x12) 14) then some (refuseAt cReserved (0x40 + o + 0x12))
  else if f 2 2 / 2 ≠ 0 then some (refuseAt cReserved (0x40 + o + 2))
  else if f 0 1 ≠ kind then bad 0
  else if f 1 1 < lo ∨ f 1 1 > hi then bad 1
  else if f 2 2 ≠ 0 then bad 2
  else if f 4 4 ≠ owner then bad 4
  else if !base (f 8 8) then bad 8
  else if !slot (f 0x10 1) then bad 0x10
  else if f 0x11 1 ≠ partition then bad 0x11
  else none

/-! ### DEVICE_INFO -/

/-- Result word of DEVICE_INFO. -/
def deviceInfoWord (d : Dev) : W64 :=
  BitVec.ofNat 64 (d.bonnet.firmware.toNat * 2 ^ 32 + d.pace.f % 65536 * 65536 + bit 15 (fieldLocked d) +
    bit 14 d.pace.fuseOk + (if inFabric d then d.fabric.device else 0))

def bodyDeviceInfo (_n : Nat) (_path : Path) (_p : Packet) (d : Dev) : Answer × Dev := (.ok (deviceInfoWord d), d)

/-! ### RING_PAIR_OPEN, RING_PAIR_CLOSE (R305, R335) -/

/-- Final replies held for a session's next ring pair are written, in order, before any other (R335). -/
def flushHeld (n rq : Nat) (d : Dev) : Dev :=
  let held := (sessOf d n).held
  held.foldl (fun d r => writeSlot rq r d) (modSess n (fun s => { s with held := [] }) d)

def bodyRingPairOpen (n : Nat) (_path : Path) (p : Packet) (d : Dev) : Answer × Dev :=
  let host (b : Nat) : Bool := b % 4096 == 0
  let none_ (s : Nat) : Bool := s == 0xFF
  match badSpec p 0 1 12 24 n none_ 0xFF host, badSpec p 32 2 7 16 n none_ 0xFF host with
  | some a, _ => (a, d)
  | none, some a => (a, d)
  | none, none =>
    if (sessOf d n).rings.isSome then (refuseF cState 9 0x40, d)
    else
      let (cq, d) := newQueue d
      let c : Queue := { kind := 1, exp := pay p 1 1, owner := n, base := BitVec.ofNat 64 (pay p 8 8), access := doorbellAt cq }
      let d := setQueue cq c d
      let (rq, d) := newQueue d
      let r : Queue := { kind := 2, exp := pay p 33 1, owner := n, base := BitVec.ofNat 64 (pay p 40 8),
                         access := doorbellAt rq, partner := cq }
      let d := setQueue rq r (modQueue cq (fun q => { q with partner := rq }) d)
      let d := modSess n (fun s => { s with rings := some (cq, rq), waiting := [] }) d
      (.ok (BitVec.ofNat 64 (rq * 2 ^ 32 + cq)), flushHeld n rq d)

def bodyRingPairClose (n : Nat) (_path : Path) (_p : Packet) (d : Dev) : Answer × Dev :=
  match (sessOf d n).rings with
  | none => (refuseD cObject 0, d)
  | some (cq, rq) => (.ok 0, dropQueue cq (dropQueue rq (modSess n (fun s => { s with rings := none, waiting := [] }) d)))

/-! ### Keys (R354 to R358) -/

/-- The key identifier of a public key (R354). -/
def keyIdOf (publicKey : List Byte) : W128 := first16 (Config.sm3 publicKey)

/-- Entries of the key store, and valid authority slots. -/
def enrolled? (d : Dev) (kind : Nat) (id : W128) : Option (Nat × KeyEntry) :=
  d.bonnet.keys.find? fun e => e.2.kind == kind && e.2.keyId == id && !e.2.revoked
def authority? (d : Dev) (id : W128) : Option (Nat × KeyEntry) :=
  d.bonnet.authority.find? fun e => e.2.keyId == id && !e.2.revoked
/-- A device with no valid authority slot is unclaimed (R357). -/
def unclaimed (d : Dev) : Bool := !d.bonnet.authority.any fun e => !e.2.revoked
/-- An identifier the device knows: enrolled, an authority slot's, or revoked. -/
def knownKey (d : Dev) (id : W128) : Bool :=
  d.bonnet.keys.any (fun e => e.2.keyId == id) || d.bonnet.authority.any (fun e => e.2.keyId == id) ||
    d.bonnet.revokedIds.contains id

/-- The highest enrolment sequence accepted from a signer. -/
def signerSeq (d : Dev) (id : W128) : Nat := ((d.bonnet.signerSeq.find? fun e => e.1 == id).map (·.2)).getD 0

/-- The checks of R356 on an enrolment record of 192 bytes, in the order of its table; the slot's entry on acceptance. -/
def enrolCheck (provisioning : Bool) (b : List Byte) (d : Dev) : Option (W16 × W64) :=
  let f (o n : Nat) : Nat := fieldAt b o n
  let kind := f 6 1
  let key := bytesAt b 0x20 64
  let id := keyIdOf key
  let signer : W128 := BitVec.ofNat 128 (beNat (bytesAt b 0x60 16))
  let binding := beNat (bytesAt b 0x10 16)
  let range : Option Nat :=
    if f 0 4 ≠ 0x4C524E45 then some 0
    else if f 4 2 ≠ 1 then some 4
    else if kind < 1 ∨ kind > 3 then some 6
    else if f 7 1 ≠ 0 then some 7
    else if f 0x0C 4 ≠ 0 then some 0x0C
    else if !allZero (bytesAt b 0x70 16) then some 0x70
    else none
  let signerKey : Option (List Byte) :=
    if provisioning then (if kind = 1 ∧ signer = id ∧ unclaimed d then some key else none)
    else (authority? d signer).map (·.2.publicKey)
  match range with
  | some o => some (cLayout, refusalWord 3 o)
  | none =>
    if provisioning ∧ kind ≠ 1 then some (cPath, refusalWord 0 6)
    else match signerKey with
      | none => some (cLayout, refusalWord 1 0x60)
      | some k =>
        if !Config.sm2Verify k (bytesAt b 0 128) (BitVec.ofNat 512 (beNat (bytesAt b 0x80 64))) then
          some (cLayout, refusalWord 1 0x80)
        else if binding ≠ 0 ∧ binding ≠ Config.serial.toNat then some (cRange, refusalWord 0 0x10)
        else if f 8 4 ≤ signerSeq d signer then some (cState, refusalWord 7 8)
        else if knownKey d id then some (cState, refusalWord 9 0x20)
        else if kind = 1 ∧ d.bonnet.authority.length ≥ 4 then some (cState, refusalWord 8 6)
        else if kind ≠ 1 ∧ d.bonnet.keys.length ≥ 32 then some (cState, refusalWord 8 6)
        else if kind = 1 ∧ !d.bonnet.fuseEn then some (cState, refusalWord 15 6)
        else none

/-- An accepted record is enrolled: the slot it takes, 0x80 + i for an authority slot (R356); slot 0 in provisioning (R357). -/
def enrolKey (provisioning : Bool) (b : List Byte) (d : Dev) : Nat × Dev :=
  let key := bytesAt b 0x20 64
  let signer : W128 := BitVec.ofNat 128 (beNat (bytesAt b 0x60 16))
  let kind := fieldAt b 6 1
  let e : KeyEntry := { keyId := keyIdOf key, kind := kind, publicKey := key, seq := fieldAt b 8 4 }
  let note (x : Bonnet) : Bonnet :=
    { x with signerSeq := (x.signerSeq.filter fun s => s.1 != signer) ++ [(signer, fieldAt b 8 4)] }
  if kind = 1 then
    let (i, d) := if provisioning then (0, d) else assign (d.bonnet.authority.map (·.1)) 0 4 d
    (0x80 + i, modBonnet (fun x => { note x with authority := kput x.authority i e }) d)
  else
    let (i, d) := assign (d.bonnet.keys.map (·.1)) 0 32 d
    (i, modBonnet (fun x => { note x with keys := kput x.keys i e }) d)

def bodyKeyEnrol (n : Nat) (path : Path) (p : Packet) (d : Dev) : Answer × Dev :=
  match badBuffer p 0 with
  | some a => (a, d)
  | none =>
    if bufLen p 0 ≠ 192 then (badLength 0, d)
    else (.accept 0 { session := n, packet := p, path := path, loaded := false }, d)

/-- KEY_ENROL's transfer has ended: the record is checked and enrolled (R356). -/
def enrolLoaded (a : Accepted) (b : List Byte) (d : Dev) : (W16 × W64) × Dev :=
  let prov := (sessOf d a.session).provisioning
  match enrolCheck prov b d with
  | some r => (r, d)
  | none =>
    let (slot, d) := enrolKey prov b d
    ((cDone, BitVec.ofNat 64 slot), if prov then modSess a.session (fun s => { s with closing := true }) d else d)

def bodyKeyRevoke (_n : Nat) (_path : Path) (p : Packet) (d : Dev) : Answer × Dev :=
  let id : W128 := BitVec.ofNat 128 (beNat (bytesAt p.inl 0 16))
  let root := d.bonnet.authority.find? fun e => e.2.keyId == id && !e.2.revoked
  let key := d.bonnet.keys.find? fun e => e.2.keyId == id
  if root.isNone ∧ key.isNone then (refuseAt cObject 0x20, d)
  else
    let valid := (d.bonnet.authority.filter fun e => !e.2.revoked).length
    let used := d.plans.loaded.any (fun l => l.plan.signer == id) ||
      d.sessions.any (fun e => e.1 != 0 && e.2.isOpen && e.2.keyId == id) || (root.isSome && valid == 1)
    if used then (refuseF cState 9 0x20, d)
    else if root.isSome ∧ !d.bonnet.fuseEn then (refuseF cState 15 0x20, d)
    else if d.bonnet.generation ≥ 128 then (refuseF cState 8 0x20, d)
    else
      let d := modBonnet (fun x => { x with generation := x.generation + 1 }) d
      match root, key with
      | some (i, e), _ => (.ok 0, modBonnet (fun x => { x with authority := kput x.authority i { e with revoked := true } }) d)
      | none, some (i, _) =>
        (.ok 0, modBonnet (fun x => { x with keys := kdel x.keys i, revokedIds := x.revokedIds ++ [id] }) d)
      | none, none => (.ok 0, d)

/-! ### The DRBG (R371) -/

/-- One generate call of an instance: it reseeds at 2^16 calls; the number of its draw is answered. -/
def drbgDraw (i : Nat) (d : Dev) : Nat × Dev :=
  let calls := (d.bonnet.drbgCalls[i]?).getD 0
  let words := (d.bonnet.drbgWords[i]?).getD 0
  let reseed := decide (calls + 1 ≥ 65536)
  (words, modBonnet (fun b => { b with
    drbgCalls := b.drbgCalls.set i (if reseed then 0 else calls + 1)
    drbgWords := b.drbgWords.set i (words + 1)
    drbgReseed := if reseed then b.drbgReseed.set i d.geyser.now else b.drbgReseed }) d)

/-- DRBG_RESEED: after 100 ms, or 2^16 calls; an instance whose entropy failed never reseeds (R371, R373). -/
def drbgReseed (i : Nat) (d : Dev) : Dev :=
  let last := (d.bonnet.drbgReseed[i]?).getD 0
  if d.bonnet.drbgStopped || decide (d.geyser.now < last + ms 100) then d
  else modBonnet (fun b => { b with drbgCalls := b.drbgCalls.set i 0, drbgReseed := b.drbgReseed.set i d.geyser.now }) d

def execDrbgReseed (at_ : Time) (which : Fin 2) (s : State) : Host.Outcome State Fault Refusal :=
  .next (onDev (fun d => drbgReseed which.val (advance at_ d)) s)

/-! ### SESSION_OPEN, SESSION_CLOSE (R357 to R362, R336) -/

/-- Open sessions besides session 0. -/
def openSessions (d : Dev) : List Nat := (d.sessions.filter fun e => e.1 != 0 && e.2.isOpen).map (·.1)

/-- The host's static key: an operator key, an authority root, or its ephemeral key in provisioning (R357, R359). -/
def staticKey? (id : W128) (ra : List Byte) (d : Dev) : Option (List Byte) :=
  if id = 0 then (if unclaimed d && d.bonnet.fuseEn then some ra else none)
  else match enrolled? d 3 id, authority? d id with
    | some e, _ => some e.2.publicKey
    | none, some e => some e.2.publicKey
    | none, none => none

/-- The response of Table 14.4. -/
def openResponse (n : Nat) (prov : Bool) (rb : List Byte) (sb : W256) (d : Dev) : List Byte :=
  [BitVec.ofNat 8 n, BitVec.ofNat 8 (bit 0 prov + bit 1 (fieldLocked d))] ++ List.replicate 14 0 ++
  beBytes 16 Config.serial.toNat ++ bytesAt rb 0 64 ++ digestBytes sb ++ bytesAt Config.identityKey 0 64 ++
  leBytes 4 d.bonnet.firmware.toNat ++ List.replicate 60 0

/-- The device writes a host buffer (R307). -/
def hostWrite (a : W64) (b : List Byte) (d : Dev) : Dev :=
  modFront (fun f => { f with hostDmaAddr := a, hostDmaData := b }) d

def bodySessionOpen (_n : Nat) (_path : Path) (p : Packet) (d : Dev) : Answer × Dev :=
  let b := payloadOf p
  let id : W128 := BitVec.ofNat 128 (beNat (bytesAt b 0 16))
  let ra := bytesAt b 0x10 64
  let want := beNat (bytesAt b 0x50 16)
  match badBuffer p 0x70 with
  | some a => (a, d)
  | none =>
    if bufLen p 0x70 ≠ 256 then (badLength 0x70, d)
    else match staticKey? id ra d with
      | none => (refuseAt cObject 0x40, d)
      | some k =>
        if want ≠ 0 ∧ want ≠ Config.serial.toNat then (refuseAt cRange 0x90, d)
        else if !Config.sm2OnCurve ra then (.refuse cLayout (refusalWord 1 0x50), d)
        else if (openSessions d).length ≥ 255 then (refuseD cState 8, d)
        else
          let (n, d) := assign (openSessions d) 1 255 d
          let (e, d) := drbgDraw 0 d
          let (khd, kdh, rb, sb) := Config.sm2Agree k ra e
          let s : Session := { isOpen := true, confirmed := false, provisioning := id == 0, keyId := id, kHd := khd,
                               kDh := kdh, openedAt := d.geyser.now }
          (.ok (BitVec.ofNat 64 n), setSess n s (hostWrite (bufAddr p 0x70) (openResponse n (id == 0) rb sb d) d))

/-- SESSION_CLOSE is refused while commands await a final reply; the ring pair that carries it closes with the session. -/
def bodySessionClose (n : Nat) (_path : Path) (_p : Packet) (d : Dev) : Answer × Dev :=
  if awaiting d n > 0 then (refuseF cState 13 0x10, d)
  else (.ok 0, modSess n (fun s => { s with closing := true }) d)

/-- SESSION_CONFIRM_TIMEOUT: an unconfirmed session closes 10 s after it opened (R360). -/
def confirmTimeout (n : Nat) (d : Dev) : Dev :=
  let s := sessOf d n
  if n ≠ 0 ∧ s.isOpen ∧ !s.confirmed then
    let d := advance (s.openedAt + sec 10) d
    closeMarked n (modSess n (fun s => { s with closing := true }) d)
  else d

def execSessionConfirmTimeout (session : Nat) (s : State) : Host.Outcome State Fault Refusal :=
  .next (onDev (confirmTimeout session) s)

/-! ### ATTEST (R370) -/

def bodyAttest (n : Nat) (path : Path) (p : Packet) (d : Dev) : Answer × Dev :=
  match badBuffer p 0 with
  | some a => (a, d)
  | none => (.accept 0 { session := n, packet := p, path := path }, d)

/-- The key store in use, as the manual's measurement covers it: enrolled keys, revoked identifiers and the highest
sequence of each signer, in an encoding that the manual does not publish (a free function of them). -/
def keyStoreBytes (b : Bonnet) : List Byte :=
  Config.keyStoreImage (leBytes 4 b.generation ++
    b.keys.flatMap (fun e => [BitVec.ofNat 8 e.1, BitVec.ofNat 8 e.2.kind] ++ e.2.publicKey) ++
    b.revokedIds.flatMap (fun i => beBytes 16 i.toNat) ++
    b.signerSeq.flatMap fun e => beBytes 16 e.1.toNat ++ leBytes 4 e.2)

/-- FUSE state of Table 14.6. -/
def fuseState (d : Dev) : Nat :=
  let slot (i : Nat) : Nat := match kfind? d.bonnet.authority i with
    | some e => if e.revoked then bit (5 + i) true else bit (1 + i) true
    | none => 0
  bit 0 (fieldLocked d) + slot 0 + slot 1 + slot 2 + slot 3 + bit 9 d.bonnet.fuseEn

/-- The report of Table 14.6, before its signature. -/
def attestBody (nonce : List Byte) (d : Dev) : List Byte :=
  let cert := Config.certificate
  let c := (cert.length + 15) / 16 * 16
  let ps := d.plans.loaded
  let ks := d.bonnet.keys
  let total := 0x110 + 64 * ps.length + 32 * ks.length + c + 64
  leBytes 4 0x54535441 ++ leBytes 2 1 ++ leBytes 2 ps.length ++ leBytes 2 ks.length ++ leBytes 2 0 ++ leBytes 4 total ++
  bytesAt nonce 0 16 ++ beBytes 16 Config.serial.toNat ++ leBytes 4 d.bonnet.firmware.toNat ++
  leBytes 2 d.bonnet.securityFuse ++ leBytes 2 (fuseState d) ++ leBytes 2 d.pace.f ++ leBytes 1 (fencedCount d) ++
  leBytes 1 (stateCode d.front.state) ++ leBytes 2 d.front.warmCount ++ leBytes 2 0 ++ leBytes 6 (secField d.geyser.now) ++
  leBytes 2 0 ++ leBytes 4 (nsField d.geyser.now) ++ leBytes 1 (clockCode d.geyser.state) ++
  leBytes 1 (if inFabric d then d.fabric.device else 0) ++ leBytes 2 0 ++ digestBytes d.bonnet.romMeasure ++
  digestBytes d.bonnet.firmwareMeasure ++ digestBytes (Config.sm3 (keyStoreBytes d.bonnet)) ++
  leBytes 4 d.bonnet.generation ++ List.replicate 12 0 ++ bytesAt Config.identityKey 0 64 ++ leBytes 4 cert.length ++
  List.replicate 12 0 ++
  ps.flatMap (fun l => leBytes 8 l.plan.identifier.toNat ++ leBytes 8 l.plan.version.toNat ++ digestBytes l.digest ++
    beBytes 16 l.plan.signer.toNat) ++
  ks.flatMap (fun e => beBytes 16 e.2.keyId.toNat ++ [BitVec.ofNat 8 e.1, BitVec.ofNat 8 e.2.kind, 0, 0] ++
    leBytes 4 e.2.seq ++ List.replicate 8 0) ++
  padTo c cert

/-- ATTEST at the instant of signing: the report in the buffer, or a refusal of a buffer that is too short. -/
def attestNow (a : Accepted) (d : Dev) : (W16 × W64) × Dev :=
  let body := attestBody (bytesAt a.packet.inl 0 16) d
  if body.length + 64 > bufLen a.packet 0 then ((cLayout, refusalWord 6 0x48), d)
  else
    let (n, d) := fresh d
    let report := body ++ beBytes 64 (Config.sm2Sign body n).toNat
    ((cDone, BitVec.ofNat 64 report.length), hostWrite (bufAddr a.packet 0) report d)

/-! ### ATTN_READ, ATTN_ACK (R324, R325) -/

/-- Table 12.13. -/
def attnReadWord (d : Dev) : W64 :=
  BitVec.ofNat 64 (d.attn.serial.toNat * 2 ^ 32 + attnMask d * 65536 + d.attn.raises)

def bodyAttnRead (_n : Nat) (_path : Path) (_p : Packet) (d : Dev) : Answer × Dev := (.ok (attnReadWord d), d)

/-- Classes that ATTN_ACK clears: named by the mask, with a recorded serial at or below the acknowledged one; class 7 stays
while the device is in safe state. -/
def ackAttn (serial mask : Nat) (d : Dev) : Dev :=
  { d with attn := { d.attn with
      pending := d.attn.pending.filter fun e =>
        !(mask.testBit e.1 && decide (e.2.toNat ≤ serial) && !(e.1 == 7 && inSafe d))
      raises := 0 } }

def bodyAttnAck (_n : Nat) (_path : Path) (p : Packet) (d : Dev) : Answer × Dev :=
  let mask := inl p 4 1
  if mask % 2 = 1 then (refuseAt cReserved 0x24, d)
  else
    let d := ackAttn (inl p 0 4) mask d
    (.ok (BitVec.ofNat 64 (attnMask d)), d)

end Sys2Proof.Machine
end

