-- ==== Sys2Proof/Machine/PlanRead.lean ====
section
/-! DEFINITION. Reading a plan: the fields that Tables 2.2 to 2.11, 4.6, 8.4 and 8.5 lay out, taken from the plan's bytes, so
that what the signature of R38 covers is what the device judges by (01 R10). What the manual does not lay out comes from
`Config.planParts`, a function of the same bytes (notes/assumptions/23.md). -/

namespace Sys2Proof.Machine

open Sys2Proof

/-- Bytes of a plan as a word of `8 * n` bits. -/
def rawWord (n : Nat) (raw : List Byte) (o : Nat) : BitVec (8 * n) := BitVec.ofNat (8 * n) (fieldAt raw o n)

/-- 16 and 32 bytes whose first byte is most significant: a key identifier, a digest (R351). -/
def keyIdAt (raw : List Byte) (o : Nat) : W128 := BitVec.ofNat 128 (beNat (bytesAt raw o 16))
def digestAt (raw : List Byte) (o : Nat) : W256 := BitVec.ofNat 256 (beNat (bytesAt raw o 32))

/-- The entries of `size` bytes that a span of `len` bytes from `o` holds. -/
def entriesAt {α : Type} (size : Nat) (f : Nat → α) (o len : Nat) : List α :=
  (List.range (len / size)).map fun i => f (o + size * i)

/-! ### The tables -/

/-- Table 2.3. -/
def readSection (raw : List Byte) (o : Nat) : SectionEntry :=
  { type := rawWord 2 raw o, version := rawWord 2 raw (o + 2), offset := rawWord 4 raw (o + 4), length := rawWord 4 raw (o + 8),
    reserved := rawWord 4 raw (o + 0xC) }

/-- Table 2.5. -/
def readTemplate (raw : List Byte) (o : Nat) : Template :=
  { index := fieldAt raw o 2, partition := fieldAt raw (o + 2) 1, grade := fieldAt raw (o + 3) 1
    deadlineUs := fieldAt raw (o + 4) 4, rate := fieldAt raw (o + 8) 4, retentionUs := fieldAt raw (o + 0xC) 4
    firstCheck := fieldAt raw (o + 0x10) 2, checkCount := fieldAt raw (o + 0x12) 2
    firstRelation := fieldAt raw (o + 0x14) 2, relationCount := fieldAt raw (o + 0x16) 2
    inputCount := fieldAt raw (o + 0x18) 1, outputCount := fieldAt raw (o + 0x19) 1, flags := rawWord 2 raw (o + 0x1A)
    outputs := fieldAt raw (o + 0x1C) 4, reserved := allZero (bytesAt raw (o + 0x20) 32) }

/-- Table 2.6. -/
def readCheck (raw : List Byte) (o : Nat) : CheckEntry :=
  { kind := fieldAt raw o 1, k := fieldAt raw (o + 1) 1, flags := rawWord 2 raw (o + 2), firstLayer := fieldAt raw (o + 4) 2
    lastLayer := fieldAt raw (o + 6) 2, output := fieldAt raw (o + 8) 4, envelope := rawWord 4 raw (o + 0xC)
    kernel := fieldAt raw (o + 0x10) 4, streamOrRelation := fieldAt raw (o + 0x14) 4, reserved := rawWord 8 raw (o + 0x18) }

/-- Table 2.9. -/
def readEnvelope (raw : List Byte) (o : Nat) : Envelope :=
  { ea := rawWord 4 raw o, er := rawWord 4 raw (o + 4), es := rawWord 4 raw (o + 8), mode := fieldAt raw (o + 0xC) 1
    format := rawWord 1 raw (o + 0xD), reserved := rawWord 2 raw (o + 0xE) }

/-- Table 2.11. -/
def readRelation (raw : List Byte) (o : Nat) : Relation :=
  { kind := fieldAt raw o 1, subjectOutput := fieldAt raw (o + 1) 1, sentinelOutput := fieldAt raw (o + 2) 1
    reserved := rawWord 1 raw (o + 3), classMap := rawWord 4 raw (o + 4)
    p := (List.range 6).map fun i => rawWord 4 raw (o + 8 + 4 * i) }

/-- A class map: the classes that a table of 4,096 entries names, each with its sentinel class (Table 2.11). -/
def readClassMap (raw : List Byte) (o : Nat) : List (Nat × Nat) :=
  (List.range 4096).filterMap fun i =>
    let v := fieldAt raw (o + 2 * i) 2
    if v = 0xFFFF then none else some (i, v)

/-- Table 8.5. -/
def readArg (raw : List Byte) (o : Nat) : KernelArg :=
  { kind := fieldAt raw o 1, access := fieldAt raw (o + 1) 1, reserved := rawWord 2 raw (o + 2), index := fieldAt raw (o + 4) 4
    value := rawWord 8 raw (o + 8) }

/-- Table 8.4, with what the code says. -/
def readKernel (raw : List Byte) (o : Nat) (c : CodeParts) : Kernel :=
  { magic := rawWord 4 raw o, version := rawWord 2 raw (o + 4), flags := rawWord 2 raw (o + 6), length := fieldAt raw (o + 8) 4
    codeOffset := fieldAt raw (o + 0xC) 4, codeLength := fieldAt raw (o + 0x10) 4, constOffset := fieldAt raw (o + 0x14) 4
    constLength := fieldAt raw (o + 0x18) 4, entry := fieldAt raw (o + 0x1C) 4, gridX := fieldAt raw (o + 0x20) 4
    gridY := fieldAt raw (o + 0x24) 4, gridZ := fieldAt raw (o + 0x28) 4, groupBundles := fieldAt raw (o + 0x2C) 2
    signals := fieldAt raw (o + 0x2E) 2, localMem := fieldAt raw (o + 0x30) 4, scratch := fieldAt raw (o + 0x34) 4
    dmaChannels := fieldAt raw (o + 0x38) 1, cores := fieldAt raw (o + 0x39) 1, issueSteps := fieldAt raw (o + 0x40) 8
    tensorSteps := fieldAt raw (o + 0x48) 8, retired := fieldAt raw (o + 0x50) 8, hbmRead := fieldAt raw (o + 0x58) 8
    hbmWrite := fieldAt raw (o + 0x60) 8, mesh := fieldAt raw (o + 0x68) 8
    args := entriesAt 16 (readArg raw) (o + 0x80) (16 * fieldAt raw (o + 0x3A) 2)
    reservedZero := fieldAt raw (o + 0x3C) 4 == 0 && allZero (bytesAt raw (o + 0x70) 16)
    decodes := c.decodes, inputs := c.inputs, deps := c.deps, bytes := bytesAt raw o (min (fieldAt raw (o + 8) 4) (raw.length - o)) }

/-- Containers one after another from `o`, each as long as it says, at most `fuel`, while they begin before `stop`. -/
def readKernels (raw : List Byte) : Nat → Nat → Nat → List CodeParts → List Kernel
  | 0, _, _, _ => []
  | fuel + 1, o, stop, cs =>
    if stop ≤ o then []
    else
      let k := readKernel raw o (cs.head?.getD {})
      if k.length = 0 then [k] else k :: readKernels raw fuel (o + k.length) stop cs.tail

/-- WEIGHT_DIGESTS (Table 2.4). -/
def readDigest (raw : List Byte) (o : Nat) : WeightDigest :=
  { blob := rawWord 4 raw o, length := fieldAt raw (o + 4) 8, digest := digestAt raw (o + 12) }

/-- Table 4.6. -/
def readGolden (raw : List Byte) (o : Nat) : GoldenEntry :=
  { index := fieldAt raw o 2, period := fieldAt raw (o + 2) 2, phase := fieldAt raw (o + 4) 2
    kernelSection := fieldAt raw (o + 6) 1, partition := fieldAt raw (o + 7) 1, kernel := fieldAt raw (o + 8) 4
    inputTensor := fieldAt raw (o + 0xC) 4, inputBlob := rawWord 4 raw (o + 0x10), outputTensor := fieldAt raw (o + 0x14) 4
    inputRoot := digestAt raw (o + 0x20), outputDigest := digestAt raw (o + 0x40), reserved18 := rawWord 8 raw (o + 0x18)
    reserved60 := allZero (bytesAt raw (o + 0x60) 32) }

/-! ### The container -/

/-- A plan from the bytes of its buffer (Table 2.2). The relation entries are those that a template names, since class maps
follow them in the same section; of the entries of GOLDEN no more than its section holds are read. -/
def readPlan (raw : List Byte) : Plan :=
  let x := Config.planParts raw
  let total := fieldAt raw 0x18 4
  let sections := entriesAt 16 (readSection raw) 0x80 (16 * min 64 (fieldAt raw 0x1C 2))
  let span (t : Nat) : Nat × Nat :=
    ((sections.find? fun s => s.type.toNat == t).map fun s => (s.offset.toNat, s.length.toNat)).getD (0, 0)
  let all {α : Type} (t size : Nat) (f : Nat → α) : List α := entriesAt size f (span t).1 (span t).2
  let templates := all 1 64 (readTemplate raw)
  let named := templates.foldl (fun a t => max a (t.firstRelation + t.relationCount)) 0
  let relations := (all 4 32 (readRelation raw)).take named
  let maps := ((relations.map (·.classMap.toNat)).eraseDups).filter fun o => decide (o + 8192 ≤ (span 4).2)
  { magic := rawWord 4 raw 0, containerVersion := rawWord 2 raw 4, reserved06 := rawWord 2 raw 6, identifier := rawWord 8 raw 8
    version := rawWord 8 raw 0x10, totalLength := total, sectionCount := fieldAt raw 0x1C 2, templateCount := fieldAt raw 0x1E 2
    minFirmware := rawWord 4 raw 0x20, reserved24 := rawWord 4 raw 0x24, thindi := rawWord 8 raw 0x28, signer := keyIdAt raw 0x30
    reserved40 := allZero (bytesAt raw 0x40 64), sections := sections, templates := templates
    checks := all 2 32 (readCheck raw), envelopes := all 3 16 (readEnvelope raw), relations := relations
    classMaps := maps.map fun o => (o, readClassMap raw ((span 4).1 + o))
    network := readKernels raw ((span 5).2 / 64 + 1) (span 5).1 ((span 5).1 + (span 5).2) x.network
    sentinel := (readKernels raw ((span 6).2 / 64 + 1) (span 6).1 ((span 6).1 + (span 6).2) x.sentinel).take x.sentinelCount
    sentinelOutputs := x.sentinelOutputs, weightDigests := all 7 44 (readDigest raw), demands := x.demands
    golden := if (sections.any fun s => s.type.toNat == 9) then
        (entriesAt 128 (readGolden raw) ((span 9).1 + 0x40) ((span 9).2 - 0x40)).take (fieldAt raw (span 9).1 4) else []
    goldenCount := fieldAt raw (span 9).1 4, goldenReserved := allZero (bytesAt raw ((span 9).1 + 4) 60)
    tensors := x.tensors, raw := raw, signature := BitVec.ofNat 512 (beNat (bytesAt raw total 64)) }

end Sys2Proof.Machine
end

