-- ==== Sys2Proof/Machine/PlanCheck.lean ====
section
/-! DEFINITION. What PLAN_LOAD checks in a plan (02 R38 to R50, R540, 04 R116, R119, 08 R202, 10 R240), in the order of R39. A
rule is a pair of a byte offset and whether it holds; the first that fails, by offset within its section and sections in
directory order, is the one reported. -/

namespace Sys2Proof.Machine

open Sys2Proof

/-- Offset, detail (Table 13.2) and whether the field is as it must be. -/
abbrev Rule := Nat × Nat × Bool

def rule (o : Nat) (ok : Bool) : Rule := (o, 3, ok)
def firstBroken (l : List Rule) : Option (Nat × Nat) := (l.find? fun r => !r.2.2).map fun r => (r.1, r.2.1)

/-- A code of Table 7.1 that elements may have. -/
def isFormat (f : Byte) : Bool := elemsPerTile f != 0

/-- An fp32 pattern that is not negative (Table 2.9): +∞ is not, a NaN is no number of the range. -/
def notNegative (w : W32) : Bool := decide ((w &&& 0x7FFFFFFF).toNat ≤ 0x7F800000) && (!w.getLsbD 31 || w == 0x80000000)

/-! ### Header and directory (Tables 2.2 to 2.4) -/

def headerRules (p : Plan) : List Rule :=
  [rule 0 (p.magic == 0x4E414C50), rule 4 (p.containerVersion == 1), rule 6 (p.reserved06 == 0),
   rule 0x18 (p.totalLength % 64 == 0 && decide (p.totalLength ≤ 67108864)),
   rule 0x1C (decide (1 ≤ p.sectionCount ∧ p.sectionCount ≤ 64) && p.sections.length == p.sectionCount),
   rule 0x1E (decide (1 ≤ p.templateCount ∧ p.templateCount ≤ 256)), rule 0x24 (p.reserved24 == 0),
   rule 0x40 p.reserved40] ++
  (p.sections.zip (List.range p.sections.length)).flatMap fun e =>
    let o := 0x80 + 16 * e.2
    [rule o (decide (1 ≤ e.1.type.toNat ∧ e.1.type.toNat ≤ 10)), rule (o + 2) (e.1.version == 1),
     rule (o + 4) (e.1.offset.toNat % 64 == 0), rule (o + 0xC) (e.1.reserved == 0)]

def hasSentinel (p : Plan) : Bool := p.checks.any (·.kind == 5)

/-- The section types a plan must hold (Table 2.4). -/
def requiredSections (p : Plan) : List Nat :=
  [1, 2, 3, 5, 7, 8, 10] ++ (if hasSentinel p then [4, 6] else []) ++ (if p.golden.isEmpty then [] else [9])

def sectionAt? (p : Plan) (t : Nat) : Option SectionEntry := p.sections.find? fun s => s.type.toNat == t

/-- Presence, overlap and extent: detail 4. -/
def sectionRules (p : Plan) : List Rule :=
  let missing := (requiredSections p).any fun t => (sectionAt? p t).isNone
  let span (s : SectionEntry) : Nat × Nat := (s.offset.toNat, s.offset.toNat + s.length.toNat)
  let clash (i : Nat) (s : SectionEntry) : Bool := ((p.sections.take i).any fun r =>
    decide ((span r).1 < (span s).2 ∧ (span s).1 < (span r).2))
  (0x1C, 4, !missing) ::
  (p.sections.zip (List.range p.sections.length)).map fun e =>
    (0x80 + 16 * e.2 + 4, 4,
      decide ((span e.1).1 ≥ 0x80 + 16 * p.sections.length ∧ (span e.1).2 ≤ p.totalLength) && !clash e.2 e.1)

/-! ### Sections -/

def tensorRules (o : Nat) (p : Plan) : List Rule :=
  p.tensors.map fun t =>
    let last := (t.dims.getLast?).getD 0
    let mx := t.format == 0x06 || t.format == 0x07
    let need := ceilDiv (elemCount t) (max 1 (elemsPerTile t.format))
    rule o (isFormat t.format && decide (1 ≤ t.dims.length ∧ t.dims.length ≤ 8) && t.dims.all (fun n => decide (n ≥ 1)) && (!mx || last % 32 == 0) && t.tiles == need &&
      decide (1 ≤ need ∧ need ≤ 4194304))

def digestRules (o : Nat) (p : Plan) : List Rule :=
  (p.weightDigests.zip (List.range p.weightDigests.length)).map fun e =>
    rule (o + 44 * e.2) (decide (e.1.length ≥ 1) && !(p.weightDigests.take e.2).any (·.blob == e.1.blob))

def envelopeRules (o : Nat) (p : Plan) : List Rule :=
  (p.envelopes.zip (List.range p.envelopes.length)).flatMap fun e =>
    let b := o + 16 * e.2
    let zero (w : W32) : Bool := w &&& 0x7FFFFFFF == 0
    [rule b (notNegative e.1.ea), rule (b + 4) (notNegative e.1.er && (e.1.mode != 1 || zero e.1.er)),
     rule (b + 8) (notNegative e.1.es && (e.1.mode != 1 || zero e.1.es)), rule (b + 0xC) (decide (e.1.mode ≤ 1)),
     rule (b + 0xD) (isFormat e.1.format), rule (b + 0xE) (e.1.reserved == 0)]

/-- Parameters that a relation kind uses (Table 2.12). -/
def relationParams (kind : Nat) : Nat := match kind with | 1 => 6 | 2 => 2 | 3 | 4 => 3 | _ => 0

/-- The templates whose relations hold entry `i`. -/
def templatesOf (p : Plan) (i : Nat) : List Template :=
  p.templates.filter fun t => decide (t.firstRelation ≤ i ∧ i < t.firstRelation + t.relationCount)

/-- R540 for a subject output: CLASS_AGREE and SEG_AGREE need an element in it, REGRESSION_BAND as many as the sentinel's. -/
def subjectFits (p : Plan) (t : Template) (r : Relation) : Bool :=
  match p.tensors[t.outputs + r.subjectOutput]? with
  | none => false
  | some a =>
    match r.kind with
    | 2 | 3 => decide (elemCount a > 0)
    | 4 => (p.sentinelOutputs[r.sentinelOutput]?).all fun b => elemCount a == elemCount b
    | _ => true

/-- R540 for a sentinel output. -/
def sentinelFits (p : Plan) (r : Relation) : Bool :=
  match p.sentinelOutputs[r.sentinelOutput]? with
  | none => false
  | some b => (r.kind != 2 && r.kind != 3) || decide (elemCount b > 0)

def relationRules (o : Nat) (p : Plan) : List Rule :=
  ((p.relations.zip (List.range p.relations.length)).flatMap fun e =>
    let b := o + 32 * e.2
    let r := e.1
    let ts := templatesOf p e.2
    [rule b (decide (1 ≤ r.kind ∧ r.kind ≤ 4)),
     rule (b + 1) (ts.all fun t => decide (r.subjectOutput < t.outputCount) && subjectFits p t r),
     rule (b + 2) (ts.isEmpty || sentinelFits p r), rule (b + 3) (r.reserved == 0),
     rule (b + 4) (r.classMap == 0xFFFFFFFF || p.classMaps.any fun m => m.1 == r.classMap.toNat)] ++
    (List.range 6).map fun i =>
      let v := (r.p[i]?).getD 0
      rule (b + 8 + 4 * i) ((decide (i < relationParams r.kind) || v == 0) &&
        (r.kind != 2 || i != 0 || decide (1 ≤ v.toNat ∧ v.toNat ≤ 16))))

/-- Table 8.4, Table 8.5 and R202; at least one group fits a core (R186). -/
def kernelRules (o : Nat) (p : Plan) (k : Kernel) : List Rule :=
  let r (at_ : Nat) (ok : Bool) : Rule := (o + at_, 5, ok)
  [r 0 (k.magic == 0x4C4E524B), r 4 (k.version == 1), r 6 (k.flags &&& 0xFFFC == 0),
   r 8 (k.length % 64 == 0 && decide (0 < k.length ∧ k.length ≤ 4194304)),
   r 0xC (k.codeOffset % 64 == 0),
   r 0x10 (k.codeLength % 16 == 0 && decide (0 < k.codeLength ∧ k.codeLength ≤ 1048576 ∧ k.codeOffset + k.codeLength ≤ k.length)),
   r 0x14 (k.constOffset % 64 == 0),
   r 0x18 (k.constLength % 64 == 0 && decide (k.constLength ≤ 65536 ∧ k.constOffset + k.constLength ≤ k.length)),
   r 0x1C (decide (k.entry < k.codeLength) && k.decodes),
   r 0x20 (decide (1 ≤ k.gridX ∧ k.gridX ≤ 4294967295)), r 0x24 (decide (1 ≤ k.gridY ∧ k.gridY ≤ 65535)),
   r 0x28 (decide (1 ≤ k.gridZ ∧ k.gridZ ≤ 65535 ∧ k.gridX * k.gridY * k.gridZ ≤ 4294967296)),
   r 0x2C (decide (1 ≤ k.groupBundles ∧ k.groupBundles ≤ 64)), r 0x2E (decide (k.signals ≤ 256)),
   r 0x30 (k.localMem % 64 == 0 && decide (k.localMem ≤ 524288 - k.constLength)), r 0x34 (k.scratch % 4096 == 0 && decide (k.scratch ≤ 4194304)),
   r 0x38 (decide (k.dmaChannels ≤ 16)), r 0x39 (decide (1 ≤ k.cores ∧ k.cores ≤ 64)), r 0x3A (decide (k.args.length ≤ 32 ∧ 0x80 + 16 * k.args.length ≤ k.length)),
   r 0x3C k.reservedZero] ++
  (k.args.zip (List.range k.args.length)).flatMap fun e =>
    let a := e.1
    let b := 0x80 + 16 * e.2
    [r b (decide (1 ≤ a.kind ∧ a.kind ≤ 4)),
     r (b + 1) (if a.kind = 4 then a.access == 1 else decide (1 ≤ a.access ∧ a.access ≤ 3)), r (b + 2) (a.reserved == 0),
     r (b + 4) (if a.kind = 1 ∨ a.kind = 3 then decide (a.index < p.tensors.length)
        else if a.kind = 2 then p.weightDigests.any fun w => w.blob.toNat == a.index
        else a.index == 0),
     r (b + 8) (a.kind == 4 || a.value == 0)]

/-- The containers of a section, one after another. -/
def kernelsRules (p : Plan) : Nat → List Kernel → List Rule
  | _, [] => []
  | o, k :: r => kernelRules o p k ++ kernelsRules p (o + k.length) r

def checkRules (o : Nat) (p : Plan) : List Rule :=
  (p.checks.zip (List.range p.checks.length)).flatMap fun e =>
    let b := o + 32 * e.2
    let c := e.1
    [rule b (decide (1 ≤ c.kind ∧ c.kind ≤ 5)), rule (b + 1) (if c.kind = 2 then decide (1 ≤ c.k ∧ c.k ≤ 64) else c.k == 0),
     rule (b + 2) (c.flags == 0), rule (b + 4) (c.kind != 1 || c.firstLayer == 0),
     rule (b + 6) (if c.kind = 4 then decide (c.lastLayer ≥ c.firstLayer) else c.lastLayer == c.firstLayer),
     rule (b + 8) (decide (c.output < p.tensors.length)),
     rule (b + 0xC) (if c.kind = 1 ∨ c.kind = 5 then c.envelope == 0xFFFFFFFF else decide (c.envelope.toNat < p.envelopes.length)),
     rule (b + 0x10) (match c.kind with
       | 1 => true
       | 5 => decide (c.kernel < p.sentinel.length)
       | _ => decide (c.kernel < p.network.length)),
     rule (b + 0x14) (match c.kind with
       | 1 => decide (c.streamOrRelation ≤ 3)
       | 5 => decide (c.streamOrRelation ≤ 15)
       | _ => c.streamOrRelation == 0),
     rule (b + 0x18) (c.reserved == 0)]

def templateRules (o : Nat) (p : Plan) (d : Dev) : List Rule :=
  rule o (p.templates.length == p.templateCount) ::
  (p.templates.zip (List.range p.templates.length)).flatMap fun e =>
    let b := o + 64 * e.2
    let t := e.1
    let cs := checksOf p t
    let digests := (cs.filter (·.kind == 1)).map (·.streamOrRelation)
    [rule b (t.index == e.2), rule (b + 2) (decide (t.partition ≤ 15) && (partOf? d t.partition).isSome),
     rule (b + 3) (t.grade == 1 || t.grade == 2), rule (b + 4) (decide (1000 ≤ t.deadlineUs ∧ t.deadlineUs ≤ 1000000)),
     rule (b + 8) (decide (1 ≤ t.rate ∧ t.rate ≤ 48000000)),
     rule (b + 0xC) (decide (100 ≤ t.retentionUs ∧ t.retentionUs ≤ 50000)),
     rule (b + 0x10) (decide (t.firstCheck + t.checkCount ≤ p.checks.length) &&
       (List.range t.inputCount).all (fun s => (digests.filter (· == s)).length == 1) && digests.length == t.inputCount &&
       cs.any (fun c => c.kind == 4 || c.kind == 5)),
     rule (b + 0x12) (decide (1 ≤ t.checkCount ∧ t.checkCount ≤ 256)),
     rule (b + 0x14) (decide (t.firstRelation + t.relationCount ≤ p.relations.length)),
     rule (b + 0x16) (decide (t.relationCount ≤ 16) &&
       cs.all fun c => c.kind != 5 || decide (c.streamOrRelation < t.relationCount)),
     rule (b + 0x18) (decide (1 ≤ t.inputCount ∧ t.inputCount ≤ 4)),
     rule (b + 0x19) (decide (1 ≤ t.outputCount ∧ t.outputCount ≤ 8) &&
       cs.all fun c => c.kind != 4 || decide (c.envelope.toNat + t.outputCount ≤ p.envelopes.length)),
     rule (b + 0x1A) (t.flags &&& 0xFFFE == 0), rule (b + 0x1C) (decide (t.outputs + t.outputCount ≤ p.tensors.length)),
     rule (b + 0x20) t.reserved]

/-- A layer-0 tensor of R105: rows of pixels of three components, or of pixel pairs of four, uint8 or uint16, of a width and
height that a stream can have (Tables 4.2, 4.3). A golden input is a frame of its own, so no stream's geometry binds it. -/
def layer0Form (t : TensorDesc) : Bool :=
  (t.format == 2 || t.format == 12) && match t.dims with
    | [h, w, c] =>
      let pixels := if c = 4 then 2 * w else w
      (c == 3 || c == 4) && decide (32 ≤ h ∧ h ≤ 4096 ∧ 32 ≤ pixels ∧ pixels ≤ 4096) && (t.format == 2 || pixels % 2 == 0)
    | _ => false

def goldenRules (o : Nat) (p : Plan) (d : Dev) : List Rule :=
  rule o (decide (1 ≤ p.goldenCount ∧ p.goldenCount ≤ 64) && p.golden.length == p.goldenCount) ::
  rule (o + 4) p.goldenReserved ::
  (p.golden.zip (List.range p.golden.length)).flatMap fun e =>
    let b := o + 0x40 + 128 * e.2
    let g := e.1
    let k := goldenKernel? p g
    [rule b (g.index == e.2), rule (b + 2) (decide (1 ≤ g.period ∧ g.period ≤ 65535)), rule (b + 4) (decide (g.phase < g.period)),
     rule (b + 6) (g.kernelSection == 5 || g.kernelSection == 6),
     rule (b + 7) (decide (g.partition ≤ 15) && (partOf? d g.partition).isSome),
     rule (b + 8) (match k with | some k => k.cores == 1 | none => false),
     rule (b + 0xC) (match p.tensors[g.inputTensor]? with | some t => layer0Form t | none => false),
     rule (b + 0x10) (p.weightDigests.any (·.blob == g.inputBlob)), rule (b + 0x14) (decide (g.outputTensor < p.tensors.length)),
     rule (b + 0x18) (g.reserved18 == 0), rule (b + 0x60) g.reserved60]

/-- The rules of the section of a directory entry. -/
def sectionFieldRules (p : Plan) (d : Dev) (s : SectionEntry) : List Rule :=
  let o := s.offset.toNat
  match s.type.toNat with
  | 1 => templateRules o p d
  | 2 => checkRules o p
  | 3 => envelopeRules o p
  | 4 => relationRules o p
  | 5 => kernelsRules p o p.network
  | 6 => kernelsRules p o p.sentinel ++ p.sentinelOutputs.map fun t => rule o (isFormat t.format)
  | 7 => digestRules o p
  | 9 => goldenRules o p d
  | 10 => tensorRules o p
  | _ => []

/-- The first condition of R39 that a plan breaks, as result code and word. -/
def planBroken (p : Plan) (d : Dev) : Option (W16 × W64) :=
  let signed := match enrolled? d 2 p.signer with
    | some e => Config.sm2Verify e.2.publicKey (p.raw.take p.totalLength) p.signature
    | none => false
  let layout (x : Nat × Nat) : W16 × W64 := (cLayout, refusalWord x.2 x.1)
  if !signed then some (cLayout, refusalWord 1 noField)
  else match firstBroken (headerRules p) with
    | some x => some (layout x)
    | none => match firstBroken (sectionRules p) with
      | some x => some (layout x)
      | none => match p.sections.findSome? fun s => firstBroken (sectionFieldRules p d s) with
        | some x => some (layout x)
        | none =>
          if p.minFirmware.toNat > d.bonnet.firmware.toNat then some (cState, refusalWord 7 0x20)
          else if d.plans.loaded.any fun l => l.plan.identifier == p.identifier && decide (l.plan.version.toNat > p.version.toNat) then
            some (cState, refusalWord 7 noField)
          else none

end Sys2Proof.Machine
end

