-- ==== Sys2Proof/Machine/OpPlan.lean ====
section
/-! DEFINITION. Plan and admission opcodes (13 Table 13.6, R337, R338; 09 R235; 10 R240, R241). -/

namespace Sys2Proof.Machine

open Sys2Proof

/-! ### Common refusals -/

/-- The header partition of an opcode whose object belongs to `own` (R330). -/
def badPart (p : Packet) (own : Nat) : Option Answer :=
  if p.partition = 0xFF ∨ p.partition.toNat = own then none else some (refuseAt cRange 0x12)

/-- A failing admission as a refusal (Table 10.9). -/
def refuseShort (s : Shortfall) : Answer := .refuse s.code (shortfallWord s)

/-- Accepted commands of some opcodes. -/
def awaits (d : Dev) (ops : List Nat) (f : Packet → Bool) : Bool :=
  d.accepted.any fun a => ops.contains a.packet.opcode.toNat && f a.packet

/-! ### PLAN_LOAD -/

def bodyPlanLoad (n : Nat) (path : Path) (p : Packet) (d : Dev) : Answer × Dev :=
  match badBuffer p 0 with
  | some a => (a, d)
  | none =>
    if p.partition = 0xFF then (refuseAt cRange 0x12, d)
    else if (partOf? d p.partition.toNat).isNone then (refuseAt cObject 0x12, d)
    else (.accept 0 { session := n, packet := p, path := path, loaded := false }, d)

/-- The SM3 of a plan with its signature block, as ATTEST reports it. -/
def planDigest (p : Plan) : W256 := Config.sm3 p.raw

/-- The outcome of an accepted command is decided: result code and word, and the earliest instant of its final reply. -/
def decide_ (a : Accepted) (code : W16) (word : W64) (due : Time) (d : Dev) : Dev :=
  modAccepted a.session a.packet.counter (fun x => { x with loaded := true, outcome := some (code, word), due := due }) d

/-- HBM for an object that lands from the host: CHECK segments, to be DURABLE once it has verified (R494). -/
def land (w : AllocFor) (p bytes : Nat) (d : Dev) : Dev :=
  let d := allocate w p .check true bytes d
  match allocOf? d w with
  | some a => (allocSegs d a).foldl (fun d g => modSeg g (fun x => { x with converting := true, convertTo := .durable }) d) d
  | none => d

/-- The lines of an object's copy that the page log marks (R337), by their place in the object. -/
def markedOf (w : AllocFor) (d : Dev) : List Nat :=
  match allocOf? d w with
  | none => []
  | some a => ((List.range (a.count * 512)).flatMap fun i =>
      let page := placeNow d (segAddr a.first + 4096 * i)
      (List.range 64).filterMap fun j =>
        if d.memctl.log.any fun e => e.page == page && e.lines.getLsbD j then some (64 * i + j) else none)

/-- The marked lines of an object (as `d` has them) are written anew. -/
def rewriteLines (w : AllocFor) (part : Nat) (b : List Byte) (d e : Dev) : Dev :=
  (markedOf w d).foldl (fun e i => storeBytes (allocBase e w + 64 * i) part (bytesAt b (64 * i) 64) e) e

/-- A repair of a loaded plan copy (R337): the buffer holds the same plan. -/
def repairPlan (a : Accepted) (p : Plan) (old : LoadedPlan) (d : Dev) : Dev :=
  if !old.active then decide_ a cState (refusalWord 13 noField) d.geyser.now d
  else if planDigest p ≠ old.digest then decide_ a cLayout (refusalWord 1 noField) d.geyser.now d
  else
    decide_ a cDone (BitVec.ofNat 64 (bufLen a.packet 0)) d.geyser.now
      (rewriteLines (.plan p.identifier p.version) old.partition p.raw d
       (modPlans (fun x => { x with loaded := x.loaded.map fun l =>
        if l.plan.identifier == p.identifier && l.plan.version == p.version then { l with bad := [] } else l }) d))

/-- A new plan: admission of the whole set with it, and the commits that follow (R329). -/
def newPlan (a : Accepted) (p : Plan) (d : Dev) : Dev :=
  let part := a.packet.partition.toNat
  let now := d.geyser.now
  let l : LoadedPlan := { plan := p, partition := part, order := d.plans.nextOrder, digest := planDigest p,
                          since := now + ms 1 }
  let e := modPlans (fun x => { x with loaded := x.loaded ++ [l], nextOrder := x.nextOrder + 1 }) d
  match runAdmission e with
  | .error s => decide_ a s.code (shortfallWord s) now d
  | .ok c =>
    let cs := commitsFor e now c (concerned e c (p.golden.map (·.partition)))
    let e := allocate (.tensors p.identifier p.version) part .ephemeral false (scratchBytes p)
      (land (.plan p.identifier p.version) part (p.totalLength + 128) e)
    let e := setMasks (storeBytes (allocBase e (.plan p.identifier p.version)) part p.raw e)
    let e := decide_ a cDone (BitVec.ofNat 64 (bufLen a.packet 0)) (boundaryOf cs) (queueCommits cs e)
    modAccepted a.session a.packet.counter (fun x => { x with plan := some (p.identifier, p.version) }) e

/-- The plan of a PLAN_LOAD has been read. -/
def planLoaded (a : Accepted) (raw : List Byte) (d : Dev) : Dev :=
  let p := readPlan raw
  if raw.length ≠ bufLen a.packet 0 ∨ bufLen a.packet 0 ≠ p.totalLength + 128 then decide_ a cLayout (refusalWord 6 0x48) d.geyser.now d
  else match planBroken p d with
    | some r => decide_ a r.1 r.2 d.geyser.now d
    | none => match planOf? d p.identifier p.version with
      | some old => repairPlan a p old d
      | none => newPlan a p d

/-! ### PLAN_UNLOAD -/

/-- A plan version is in use: by a context, or by an accepted result without a verdict (R33). -/
def planInUse (d : Dev) (id v : W64) : Bool :=
  d.contexts.any fun e => e.2.state != .closed &&
    ((e.2.planId == id && e.2.planVersion == v) || e.2.results.any fun r => r.planId == id && r.planVersion == v)

/-- The golden operations of a plan version go with it. -/
def ofPlan (id v : W64) (o : Operation) : Bool :=
  match o.work with
  | .golden i w _ _ => i == id && w == v
  | .check .. => false

/-- A plan version leaves; a blob goes with the last version bound to it (R338). Their memory is released. -/
def dropPlan (id v : W64) (d : Dev) : Dev :=
  let left (b : Blob) : Blob := { b with bound := b.bound.filter (· != (id, v)) }
  let gone := d.plans.blobs.filter fun b => (left b).bound.isEmpty
  let d := gone.foldl (fun d b => release (.blob b.id b.partition) d) (release (.tensors id v) (release (.plan id v) d))
  let d := modPlans (fun x => { x with
    loaded := x.loaded.filter fun l => !(l.plan.identifier == id && l.plan.version == v)
    blobs := (x.blobs.map left).filter fun b => !b.bound.isEmpty }) d
  modSched (fun s => { s with
    queue := s.queue.filter fun o => !ofPlan id v o
    golden := s.golden.filter fun g => !ofPlan id v g.2 }) d

def bodyPlanUnload (_n : Nat) (_path : Path) (p : Packet) (d : Dev) : Answer × Dev :=
  let id : W64 := BitVec.ofNat 64 (inl p 0 8)
  let v : W64 := BitVec.ofNat 64 (inl p 8 8)
  match planOf? d id v with
  | none => (refuseAt cObject 0x28, d)
  | some l =>
    match badPart p l.partition with
    | some a => (a, d)
    | none =>
      if planInUse d id v then (refuseF cState 9 0x20, d)
      else if !l.active || awaits d [0x0203] (fun q => inl q 0 8 == id.toNat) ||
          awaits d [0x0206] (fun q => pay q 0 8 == id.toNat || pay q 8 8 == id.toNat) then (refuseF cState 13 0x20, d)
      else (.ok 0, dropPlan id v d)

/-! ### WEIGHT_LOAD (R337, R338) -/

/-- Loaded versions of an identifier. -/
def versionsOf (d : Dev) (id : W64) : List LoadedPlan := d.plans.loaded.filter fun l => l.plan.identifier == id

def bodyWeightLoad (n : Nat) (path : Path) (p : Packet) (d : Dev) : Answer × Dev :=
  match badBuffer p 0 with
  | some a => (a, d)
  | none =>
    let vs := versionsOf d (BitVec.ofNat 64 (inl p 0 8))
    match vs with
    | [] => (refuseAt cObject 0x20, d)
    | l :: _ =>
      match badPart p l.partition with
      | some a => (a, d)
      | none =>
        if vs.all fun x => !x.active then (refuseF cState 13 0x20, d)
        else if !(vs.any fun x => x.active && x.plan.weightDigests.any fun w =>
            w.blob == BitVec.ofNat 32 (inl p 8 4) && w.length == bufLen p 0) then (.refuse cLayout (refusalWord 2 noField), d)
        else (.accept 0 { session := n, packet := p, path := path, loaded := false }, d)

/-- Lines of a byte string, and a string whose marked lines come from another. -/
def lineCount (n : Nat) : Nat := ceilDiv n 64
def mergeLines (bad : List Nat) (old new : List Byte) : List Byte :=
  ((List.range (lineCount old.length)).flatMap fun i =>
    bytesAt (if bad.contains i then new else old) (64 * i) 64).take old.length

/-- The versions of an identifier whose entry for a blob has this length and digest. -/
def matching (d : Dev) (id : W64) (blob : W32) (len : Nat) (digest : W256) : List (W64 × W64) :=
  ((versionsOf d id).filter fun l => l.active &&
    l.plan.weightDigests.any fun w => w.blob == blob && w.length == len && w.digest == digest).map
      fun l => (l.plan.identifier, l.plan.version)

/-- The blob of a WEIGHT_LOAD has been read: a new blob, bound to every matching version and stored once, or a repair of a
resident one. -/
def weightsLoaded (a : Accepted) (b : List Byte) (d : Dev) : Dev :=
  let id : W64 := BitVec.ofNat 64 (inl a.packet 0 8)
  let blob : W32 := BitVec.ofNat 32 (inl a.packet 8 4)
  let now := d.geyser.now
  let dig := Config.sm3 b
  let vs := matching d id blob b.length dig
  let rebind (x : Blob) : Blob := { x with bound := (x.bound ++ matching d id blob x.bytes.length x.digest).eraseDups }
  let resident (digest : Option W256) : Option Blob := d.plans.blobs.find? fun x =>
    x.id == blob && x.bytes.length == b.length && x.bound.any (fun e => e.1 == id) && digest.all (· == x.digest)
  let repair (x : Blob) : Dev :=
    let merged := mergeLines x.bad x.bytes b
    if Config.sm3 merged ≠ x.digest then decide_ a cLayout (refusalWord 2 noField) now d
    else
      let fixed := rebind { x with bytes := merged, bad := [] }
      decide_ a cDone (BitVec.ofNat 64 x.bad.length) now
        (rewriteLines (.blob x.id x.partition) x.partition merged d <| modPlans (fun p => { p with blobs := p.blobs.map fun y => if y == x then fixed else y }) d)
  if bufLen a.packet 0 ≠ b.length then decide_ a cLayout (refusalWord 6 0x48) now d
  else match resident (if vs.isEmpty then none else some dig) with
    | some x => repair x
    | none =>
      if vs.isEmpty then decide_ a cLayout (refusalWord 2 noField) now d
      else
        let x : Blob := { id := blob, digest := dig, bytes := b,
                          partition := ((versionsOf d id).head?.map (·.partition)).getD 0, bound := vs }
        let d := land (.blob blob x.partition) x.partition b.length d
        let d := storeBytes (allocBase d (.blob blob x.partition)) x.partition b d
        decide_ a cDone (BitVec.ofNat 64 (lineCount b.length)) now (modPlans (fun p => { p with blobs := p.blobs ++ [x] }) d)

/-- The blob of a WEIGHT_LOAD is usable from its DONE (R337). -/
def blobUsable (p : Packet) (d : Dev) : Dev :=
  let id : W64 := BitVec.ofNat 64 (inl p 0 8)
  let blob : W32 := BitVec.ofNat 32 (inl p 8 4)
  modPlans (fun x => { x with blobs := x.blobs.map fun b =>
    if b.id == blob && b.bound.any (fun e => e.1 == id) then { b with usable := true } else b }) d

/-! ### Two-phase changes (R235) -/

/-- Rows 1 to 5 of R235 against the partitions concerned. -/
def badTwoPhase (p : Packet) (parts : List Partition) (d : Dev) : Option Answer :=
  let c := commitInstant p
  if prepareUs p < 100 ∨ prepareUs p > 100000 then some (refuseAt cRange 0x20)
  else if inl p 4 4 ≥ 1000000000 ∨ !(parts.all fun q => isBoundary q c) then some (refuseAt cRange 0x24)
  else if c ≤ d.geyser.now then some (refuseAt cTimePast 0x24)
  else if c < d.geyser.now + us (prepareUs p) then some (refuseAt cRange 0x24)
  else if namesBusyUnit p d then some (.refuse cBusy (refusalWord 0 noField))
  else none

/-- A change begins: PREPARE goes to every named unit (R236). -/
def beginChange (n : Nat) (path : Path) (p : Packet) (named : W64) (plan : W64 × W64) (config : AdmitConfig) (d : Dev) :
    Answer × Dev :=
  let c : Change := { id := d.cores.nextChange % 65536, opcode := p.opcode, session := n, counter := p.counter,
                      commitAt := commitInstant p, prepareBy := d.geyser.now + us (prepareUs p), named := named,
                      cores := p.opcode == 0x0205, packet := p, plan := plan, config := config }
  (.accept 0 { session := n, packet := p, path := path, loaded := false },
   { d with cores := { d.cores with
      changes := d.cores.changes ++ [c]
      record := changeRecord 0 c
      nextChange := if d.cores.nextChange % 65536 = 65535 then 1 else d.cores.nextChange + 1 } })

/-! ### PARTITION_SET -/

/-- The first field of an entry out of the ranges of Table 10.1, by its offset. -/
def badEntry (p : Packet) (i : Nat) : Option Answer :=
  let o := 64 * i
  let f (k n : Nat) : Nat := pay p (o + k) n
  let bad (k : Nat) : Option Answer := some (refuseAt cRange (0x40 + o + k))
  if f 2 2 / 4 ≠ 0 then some (refuseAt cReserved (0x40 + o + 2))
  else if f 0 1 > 15 ∨ (List.range i).any (fun j => pay p (64 * j) 1 == f 0 1) then bad 0
  else if f 1 1 > 3 then bad 1
  else if f 4 4 < 1000 ∨ f 4 4 > 1000000 then bad 4
  else if f 8 4 < 100 ∨ f 8 4 > 1400 ∨ f 4 4 % f 8 4 ≠ 0 then bad 8
  else if f 0xC 4 ≥ 1000000000 then bad 0xC
  else none

/-- A live object depends on a partition. -/
def partInUse (d : Dev) (n : Nat) : Bool :=
  d.contexts.any (fun e => e.2.state != .closed && e.2.partition == n) || d.streams.any (fun e => e.2.partition == n) ||
    d.plans.loaded.any fun l => l.partition == n || l.plan.golden.any (·.partition == n)

/-- An accepted command names a partition, or a context of it. -/
def partPending (d : Dev) (n : Nat) : Bool :=
  awaits d [0x0201, 0x0203, 0x0304, 0x0306, 0x0307, 0x0308] fun q => q.partition.toNat == n ||
    ((ctxOf d q.context).state != .closed && (ctxOf d q.context).partition == n)

/-- An entry that clears DEFINED or changes the criticality of a partition in use, or redefines one that an accepted command
names (R334). -/
def entryRefused (i : Nat) (e : Nat × Option Partition) (d : Dev) : Option Answer :=
  match partOf? d e.1 with
  | none => none
  | some old =>
    let cuts := match e.2 with
      | none => true
      | some q => q.criticality != old.criticality
    if cuts && partInUse d e.1 then some (refuseF cState 9 (0x40 + 64 * i))
    else if partPending d e.1 then some (refuseF cState 13 (0x40 + 64 * i))
    else none

/-- R241: partitions that name cores of one cluster share major frame and epoch. -/
def framesAgree (a b : Partition) : Bool :=
  !((clustersOf a.mask).any (clustersOf b.mask).contains) || (a.majorUs == b.majorUs && a.epoch == b.epoch)

/-- The first entry that breaks R241, by its place in the payload. -/
def clashEntry (p : Packet) (parts : KMap Partition) : Option Nat :=
  (List.range (partEntries p).length).find? fun i =>
    match (partEntries p)[i]? with
    | some (n, some q) => parts.any fun e => e.1 != n && !framesAgree q e.2
    | _ => false

def bodyPartitionSet (n : Nat) (path : Path) (p : Packet) (d : Dev) : Answer × Dev :=
  let es := partEntries p
  match (List.range es.length).findSome? (badEntry p), (es.zip (List.range es.length)).findSome? fun e => entryRefused e.2 e.1 d with
  | some a, _ => (a, d)
  | none, some a => (a, d)
  | none, none =>
    let parts := withParts p d.sched.parts
    if p.partition ≠ 0xFF ∧ !es.any (·.1 == p.partition.toNat) then (refuseAt cRange 0x12, d)
    else match clashEntry p parts with
      | some i => (refuseAt cRange (0x44 + 64 * i), d)
      | none =>
        let old := es.filterMap fun e => partOf? d e.1
        let new := es.filterMap (·.2)
        match badTwoPhase p (old ++ new) d with
        | some a => (a, d)
        | none =>
          let e := modSched (fun s => { s with parts := parts }) d
          match runAdmission e with
          | .error s => (refuseShort s, d)
          | .ok c =>
            let ks := (List.range 16).filter fun k =>
              (old ++ new).any (fun q => (clustersOf q.mask).contains k) || kget [] d.sched.tables k != kget [] c.windows k
            beginChange n path p (tableUnits ks) (0, 0) c d

/-! ### CORE_MODE_SET -/

/-- The named cores in their new modes. -/
def withModes (p : Packet) (d : Dev) : Dev :=
  (List.range 64).foldl (fun d i =>
    if (modeCores p).getLsbD i then modCore i (fun c => { c with split := (modeSplit p).getLsbD i }) d else d) d

def bodyCoreModeSet (n : Nat) (path : Path) (p : Packet) (d : Dev) : Answer × Dev :=
  let m := modeCores p
  if m = 0 then (refuseAt cRange 0x40, d)
  else if modeSplit p &&& ~~~m ≠ 0 then (refuseAt cRange 0x48, d)
  else if (List.range 64).any fun i => m.getLsbD i && isFenced d i then (refuseF cState 12 0x40, d)
  else match badTwoPhase p ((d.sched.parts.filter fun e => e.2.mask &&& m != 0).map (·.2)) d with
    | some a => (a, d)
    | none =>
      match (partOrder d).find? fun e => decide (e.2.criticality ≤ 1) && e.2.mask &&& modeSplit p != 0 with
      | some e => (refuseShort { code := 0x041, term := 2, condition := 0, partition := e.1, amount := 0 }, d)
      | none =>
        match runAdmission (withModes p d) with
        | .error s => (refuseShort s, d)
        | .ok c => beginChange n path p m (0, 0) c d

/-! ### PLAN_SWAP -/

/-- The first of the named contexts that is not open, does not use the old plan, uses another version of it than the first one, names a
template that the new plan lacks, or changes its partition. -/
def badSwap (p : Packet) (new : LoadedPlan) (d : Dev) : Option Answer :=
  let old : W64 := BitVec.ofNat 64 (pay p 0 8)
  let cs := swapContexts p
  let first := (cs.head?.map fun e => (ctxOf d e.1).planVersion).getD 0
  (cs.zip (List.range cs.length)).findSome? fun e =>
    let x := ctxOf d e.1.1
    let o := 0x60 + 8 * e.2
    if x.state = .closed then some (refuseAt cObject o)
    else if x.planId ≠ old ∨ x.planVersion ≠ first then some (refuseAt cRange o)
    else match badPart p x.partition, new.plan.templates[e.1.2]? with
      | some a, _ => some a
      | none, none => some (refuseAt cObject (o + 4))
      | none, some t => if t.partition ≠ x.partition then some (refuseAt cRange (o + 4)) else none

def bodyPlanSwap (n : Nat) (path : Path) (p : Packet) (d : Dev) : Answer × Dev :=
  let old : W64 := BitVec.ofNat 64 (pay p 0 8)
  let new : W64 := BitVec.ofNat 64 (pay p 8 8)
  if pay p 16 2 < 1 ∨ pay p 16 2 > 256 then (refuseAt cRange 0x50, d)
  else if (versionsOf d old).isEmpty then (refuseAt cObject 0x40, d)
  else if (versionsOf d new).isEmpty then (refuseAt cObject 0x48, d)
  else match newestPlan? d new with
    | none => (refuseF cState 13 0x48, d)
    | some l =>
      match badSwap p l d with
      | some a => (a, d)
      | none =>
        match (swapContexts p).findIdx? fun e => awaits d [0x0306, 0x0307, 0x0308] fun q => q.context == e.1 with
        | some i => (refuseF cState 13 (0x60 + 8 * i), d)
        | none =>
          let ps := ((swapContexts p).map fun e => (ctxOf d e.1).partition).eraseDups
          match badTwoPhase p (ps.filterMap (partOf? d)) d with
          | some a => (a, d)
          | none =>
            let v := (l.plan.identifier, l.plan.version)
            match runAdmission (swapBindings v p d) with
            | .error s => (refuseShort s, d)
            | .ok c =>
              let ks := (List.range 16).filter fun k =>
                ps.any (fun q => ((partOf? d q).map fun q => (clustersOf q.mask).contains k).getD false) ||
                  kget [] d.sched.tables k != kget [] c.windows k
              beginChange n path p (tableUnits ks) v c d

end Sys2Proof.Machine
end

