-- ==== Sys2Proof/Machine/OpContext.lean ====
section
/-! DEFINITION. Context, subject, port and tap opcodes (13 Table 13.7, R339 to R341; 01 R14 to R17; 02 R29 to R37; 04 R103,
R104, R111). -/

namespace Sys2Proof.Machine

open Sys2Proof

/-! ### Subject slots and ports -/

def bodySubjectRegister (_n : Nat) (_path : Path) (p : Packet) (d : Dev) : Answer × Dev :=
  let s := inl p 0 1
  if s > 1 then (refuseAt cRange 0x20, d)
  else if (slotOf d s).requester.isSome then (refuseF cState 9 0x20, d)
  else (.ok 0, modSlot s (fun x => { x with requester := some (BitVec.ofNat 16 (inl p 2 2)) }) d)

def bodySubjectRelease (_n : Nat) (_path : Path) (p : Packet) (d : Dev) : Answer × Dev :=
  let s := inl p 0 1
  if s > 1 then (refuseAt cRange 0x20, d)
  else if (slotOf d s).requester.isNone then (refuseAt cObject 0x20, d)
  else if d.contexts.any fun e => e.2.state != .closed && e.2.slot == s then (refuseF cState 9 0x20, d)
  else (.ok 0, modSlot s (fun x => { x with requester := none }) d)

def roleOf (n : Nat) : PortRole := if n = 1 then .tap else if n = 2 then .fabric else .out

/-- PORT_ROLE_SET: once after each power-on reset (R14). -/
def bodyPortRoleSet (_n : Nat) (_path : Path) (p : Packet) (d : Dev) : Answer × Dev :=
  let i := inl p 0 1
  let r := inl p 1 1
  let v := inl p 2 1
  if i > 3 then (refuseAt cRange 0x20, d)
  else if r < 1 ∨ r > 3 then (refuseAt cRange 0x21, d)
  else if v < 1 ∨ v > 2 then (refuseAt cRange 0x22, d)
  else if (portOf d i).role ≠ .none_ then (refuseF cState 11 0x20, d)
  else if r = 2 ∧ !inFabric d ∧ (List.range 4).any fun j => (portOf d j).role == .fabric then (refuseF cState 9 0x21, d)
  else
    let d := modPort i (fun x => { x with role := roleOf r, speed := v }) d
    (.ok 0, runBmca (modPtp i (fun x => { x with announceAt := d.geyser.now }) d))

/-! ### Streams (R103) -/

/-- The stream that a TAP_STREAM_OPEN payload lays out (Table 4.2). Its first silence runs from the command's acceptance: the
manual does not say where it begins (DESIGN CHOICE, notes/assumptions/47.md). -/
def streamOfPacket (p : Packet) (now : Time) : Stream :=
  { port := pay p 2 1, sampling := pay p 3 1, depth := pay p 4 1, tagged := pay p 5 1 == 1, vlan := pay p 6 2,
    dst := BitVec.ofNat 32 (pay p 8 4), udpPort := pay p 0xC 2, payloadType := pay p 0xE 1, grades := pay p 0xF 1,
    ssrc := BitVec.ofNat 32 (pay p 0x10 4), width := pay p 0x14 2, height := pay p 0x16 2, periodUs := pay p 0x18 4,
    limitUs := pay p 0x1C 4, slots := pay p 0x20 2, partition := pay p 0x22 1, silenceUs := pay p 0x24 4, lastValid := now }

/-- The first field out of its range, by payload offset (Table 4.2; the frame's geometry as Table 4.1 bounds it). -/
def badStream (p : Packet) : Option Nat :=
  let s := streamOfPacket p 0
  let within (lo hi v : Nat) : Bool := decide (lo ≤ v ∧ v ≤ hi)
  let rules : List (Nat × Bool) :=
    [(0, within 0 15 (pay p 0 2)), (2, within 0 3 s.port), (3, within 1 3 s.sampling),
     (4, s.depth == 8 || s.depth == 10 || s.depth == 12), (5, within 0 1 (pay p 5 1)),
     (6, if s.tagged then within 1 4094 s.vlan else s.vlan == 0), (0xC, within 1 65535 s.udpPort),
     (0xE, within 96 127 s.payloadType), (0xF, s.grades % 4 != 0), (0x10, s.ssrc != 0),
     (0x14, s.width % groupPixels s == 0 && within 32 4096 s.width), (0x16, within 32 4096 s.height),
     (0x18, within 1000 1000000 s.periodUs), (0x1C, within 500 100000 s.limitUs), (0x20, within 2 64 s.slots),
     (0x22, within 0 15 s.partition), (0x24, s.silenceUs == 0 || within 1000 10000000 s.silenceUs)]
  (rules.find? fun r => !r.2).map fun r => r.1

/-- An IPv4 multicast destination. -/
def isMulticast (a : W32) : Bool := a.toNat / 2 ^ 28 == 14

/-- The port reports its membership of the multicast groups that its open streams use (Table 4.1, Network). -/
def reportGroups (port : Nat) (d : Dev) : Dev :=
  let used := (d.streams.filter fun e => e.2.port == port && isMulticast e.2.dst).map (·.2.dst)
  modPort port (fun p => { p with groups := used.foldl (fun l a => if l.contains a then l else l ++ [a]) [] }) d

def bodyTapStreamOpen (n : Nat) (path : Path) (p : Packet) (d : Dev) : Answer × Dev :=
  let now := d.geyser.now
  let s := streamOfPacket p now
  let i := pay p 0 2
  if s.grades / 4 ≠ 0 then (refuseAt cReserved 0x4F, d)
  else match badStream p with
    | some o => (refuseAt cRange (0x40 + o), d)
    | none =>
      if (partOf? d s.partition).isNone then (refuseAt cObject 0x62, d)
      else match badPart p s.partition with
        | some a => (a, d)
        | none =>
          let same := d.streams.filter fun e => e.2.port == s.port
          if (portOf d s.port).role ≠ .tap then (refuseF cState 10 0x42, d)
          else if (streamOf? d i).isSome then (refuseF cState 9 0x40, d)
          else if same.length ≥ 8 then (refuseF cState 8 0x42, d)
          else if same.any fun e => e.2.dst == s.dst && e.2.udpPort == s.udpPort && e.2.ssrc == s.ssrc then
            (refuseF cState 9 0x48, d)
          else
            let e := setStream i s d
            match runAdmission e with
            | .error f => (refuseShort f, d)
            | .ok c =>
              let cs := commitsFor e now c (concerned e c [])
              (.accept 0 { session := n, packet := p, path := path, due := boundaryOf cs },
                allocate (.ring i) s.partition .durable false (s.slots * canonLen (layer0Of s))
                  (queueCommits cs (reportGroups s.port e)))

/-- TAP_STREAM_OPEN's DONE: the stream may be named by other commands (R314). -/
def streamOpened (p : Packet) (d : Dev) : Dev := modStream (pay p 0 2) (fun s => { s with opened := true }) d

def bodyTapStreamClose (_n : Nat) (_path : Path) (p : Packet) (d : Dev) : Answer × Dev :=
  let i := inl p 0 2
  match streamOf? d i with
  | none => (refuseAt cObject 0x20, d)
  | some s =>
    match badPart p s.partition with
    | some a => (a, d)
    | none =>
      if d.contexts.any fun e => e.2.state != .closed && e.2.streams.contains i then (refuseF cState 9 0x20, d)
      else if !s.opened then (refuseF cState 13 0x20, d)
      else (.ok 0, release (.ring i) (reportGroups s.port { d with streams := kdel d.streams i }))

/-! ### Places in BAR2 (R340) -/

/-- What occupies a slot's half: evidence rings, challenge rings and control blocks of the open contexts, as start and end. -/
def slotRegions (d : Dev) (slot : Nat) : List (Nat × Nat) :=
  (d.contexts.filter fun e => e.2.state != .closed && e.2.slot == slot).flatMap fun e =>
    let v := queueOf d e.2.evQueue
    let h := queueOf d e.2.chQueue
    [(v.base.toNat, v.base.toNat + 2 ^ v.exp), (v.access, v.access + 64), (h.access, h.access + 64),
     (h.base.toNat, h.base.toNat + 64 * 2 ^ h.exp)]

/-- The first place of `len` bytes from `at_` on, within `size` bytes from `lo`, that meets none of the regions; past the end it
starts over at `lo`. -/
def placeFrom (taken : List (Nat × Nat)) (lo size len : Nat) : Nat → Nat → Option Nat
  | 0, _ => none
  | fuel + 1, at_ =>
    if size < at_ - lo + len then placeFrom taken lo size len fuel lo
    else match taken.find? fun r => decide (r.1 < at_ + len ∧ at_ < r.2) with
      | some r => placeFrom taken lo size len fuel (ceilDiv r.2 64 * 64)
      | none => some at_

/-- A place in a slot's half outside its check-in page, searched from a free start. -/
def placeIn (slot len : Nat) (taken : List (Nat × Nat)) (d : Dev) : Option Nat × Dev :=
  let lo := 0x80000000 * slot
  let (n, d) := fresh d
  (placeFrom taken lo 0x7FFFF000 len (2 * taken.length + 4) (lo + 64 * (Config.freeNat n % (0x7FFFF000 / 64))), d)

/-! ### CONTEXT_OPEN (R340, R341) -/

/-- What a CONTEXT_OPEN names. -/
structure OpenNames where
  plan : LoadedPlan
  template : Template
  index : Nat
  streams : List Nat
  slot : Nat
  activation : Time
  deriving DecidableEq, Repr

def openId (p : Packet) : W64 := BitVec.ofNat 64 (pay p 0 8)
def openVersion (p : Packet) : W64 := BitVec.ofNat 64 (pay p 0x24 8)
def openStreams (p : Packet) : List Nat := (List.range 4).map fun j => pay p (0xC + j) 1
def openFirst (p : Packet) : Nat := pay p 0x10 8

/-- The plan, template and streams exist (first row of R341); a creating command that has not sent its final reply is
PENDING (Table 12.11). -/
def openNames (p : Packet) (d : Dev) : Except Answer OpenNames :=
  let id := openId p
  let v := openVersion p
  let known : Option LoadedPlan := if v = 0 then newestPlan? d id else planOf? d id v
  let used := (openStreams p).filter (· != 0xFF)
  match known with
  | none => .error (if (versionsOf d id).isEmpty then refuseAt cObject 0x40
                    else if v = 0 then refuseF cState 13 0x40 else refuseAt cObject 0x64)
  | some l =>
    match l.plan.templates[pay p 8 2]? with
    | none => .error (refuseAt cObject 0x48)
    | some t =>
      if used.any fun s => (streamOf? d s).isNone then .error (refuseAt cObject 0x4C)
      else if (partOf? d t.partition).isNone then .error (refuseAt cObject 0x48)
      else if !l.active || used.any (fun s => !((streamOf? d s).map (·.opened)).getD false) then .error (refuseF cState 13 0x40)
      else .ok { plan := l, template := t, index := pay p 8 2, streams := used, slot := pay p 0x40 1,
                 activation := ofSecNs (pay p 0x1C 6) (pay p 0x18 4) }

/-- The rows of R341 that give 0x013, with the ranges of Tables 12.5 and 13.8. -/
def openRange (p : Packet) (o : OpenNames) (d : Dev) : Option Answer :=
  let own := p.context.toNat
  let part := o.template.partition
  let lo := 0x80000000 * o.slot
  let b := pay p 0x38 8
  let spec (at_ kind lo hi : Nat) (slot base : Nat → Bool) := badSpec p at_ kind lo hi own slot part base
  let onBoundary := match partOf? d part with
    | some q => isBoundary q o.activation
    | none => false
  if p.partition.toNat ≠ part then some (refuseAt cRange 0x12)
  else if pay p 0xA 1 > 3 then some (refuseAt cRange 0x4A)
  else if openFirst p < 1 then some (refuseAt cRange 0x50)
  else if pay p 0x18 4 ≥ 1000000000 ∨ !onBoundary then some (refuseAt cRange 0x58)
  else match spec 0x30 3 18 28 (fun s => s ≤ 1) (fun b => b % 4096 == 0),
      spec 0x50 4 8 16 (fun s => s == o.slot) (fun b => b == 0), spec 0x70 5 6 16 (fun s => s == 0xFF) (fun b => b % 4096 == 0) with
    | some a, _, _ => some a
    | none, some a, _ => some a
    | none, none, some a => some a
    | none, none, none =>
      if !(decide (lo ≤ b ∧ b + 2 ^ pay p 0x31 1 ≤ lo + 0x7FFFF000)) then some (refuseAt cRange 0x78)
      else if 2 ^ pay p 0x51 1 < o.plan.plan.demands.challengeDepth then some (refuseAt cRange 0x91)
      else if o.streams.length ≠ o.template.inputCount ∨ (openStreams p).take o.streams.length ≠ o.streams then
        some (refuseAt cRange 0x4C)
      else none

/-- R104: the first place of a stream that does not enable the grade, or whose layer-0 tensor differs. -/
def gradeUnfit? (o : OpenNames) (d : Dev) : Option Nat :=
  ((o.streams.zip (List.range o.streams.length)).find? fun e =>
    !(match streamOf? d e.1, (checksOf o.plan.plan o.template).find? fun c => c.kind == 1 && c.streamOrRelation == e.2 with
    | some s, some c => (s.grades / (if o.template.grade = 1 then 1 else 2)) % 2 == 1 &&
        o.plan.plan.tensors[c.output]? == some (layer0Of s)
    | _, _ => false)).map (·.2)

/-- The rows of R341 from an evidence ring that overlaps to the activation in the past. -/
def openState (p : Packet) (o : OpenNames) (d : Dev) : Option Answer :=
  let b := pay p 0x38 8
  let top := b + 2 ^ pay p 0x31 1
  if (slotRegions d o.slot).any fun r => decide (r.1 < top ∧ b < r.2) then some (refuseF cState 9 0x78)
  else if (portOf d (pay p 0xA 1)).role ≠ .out then some (refuseF cState 10 0x4A)
  else if (slotOf d o.slot).requester.isNone then some (refuseF cState 10 0x80)
  else if o.streams.any fun s => ((streamOf? d s).map fun x => (portOf d x.port).role != .tap).getD true then
    some (refuseF cState 10 0x4C)
  else match gradeUnfit? o d with
  | some j => some (refuseF cState 14 (0x4C + j))
  | none =>
  if o.activation ≤ d.geyser.now then some (refuseAt cTimePast 0x58)
  else none

/-- The new context with its three queues, ADMITTED, as admission sees it; none when the half has no room for the blocks
that the device places. -/
def newContext (p : Packet) (o : OpenNames) (d : Dev) : Option (Nat × Nat) × Dev :=
  let c := p.context
  let b := pay p 0x38 8
  let ring := (b, b + 2 ^ pay p 0x31 1)
  let taken := ring :: slotRegions d o.slot
  match placeIn o.slot 64 taken d with
  | (none, d) => (none, d)
  | (some ev, d) =>
    let taken := (ev, ev + 64) :: taken
    match placeIn o.slot 64 taken d with
    | (none, d) => (none, d)
    | (some ch, d) =>
      let size := 64 * 2 ^ pay p 0x51 1
      match placeIn o.slot size ((ch, ch + 64) :: taken) d with
      | (none, d) => (none, d)
      | (some base, d) =>
        let part := o.template.partition
        let (evq, d) := newQueue d
        let q : Queue := { kind := 3, exp := pay p 0x31 1, owner := c.toNat, base := BitVec.ofNat 64 b, slot := o.slot,
                           partition := part, access := ev }
        let d := setQueue evq q d
        let (chq, d) := newQueue d
        let r : Queue := { kind := 4, exp := pay p 0x51 1, owner := c.toNat, base := BitVec.ofNat 64 base, slot := o.slot,
                           partition := part, access := ch, partner := evq }
        let d := setQueue chq r (modQueue evq (fun x => { x with partner := chq }) d)
        let (vq, d) := newQueue d
        let before := openFirst p - 1
        let v : Queue := { kind := 5, exp := pay p 0x71 1, owner := c.toNat, base := BitVec.ofNat 64 (pay p 0x78 8),
                           partition := part, access := doorbellAt vq, producer := before, consumer := before }
        let x : Context := { state := .admitted, planId := o.plan.plan.identifier, planVersion := o.plan.plan.version,
                             template := o.index, partition := part, slot := o.slot, streams := o.streams,
                             outPort := pay p 0xA 1, unclaimedLimit := if pay p 0xB 1 = 0 then 3 else pay p 0xB 1,
                             firstSeq := openFirst p, activation := o.activation, order := d.ctxOrder, evQueue := evq,
                             chQueue := chq, vQueue := vq, accepted := before, recorded := before,
                             opened := bytesAt (payloadOf p) 0 144 }
        (some (ev, ch), setCtx c x (setQueue vq v { d with ctxOrder := d.ctxOrder + 1 }))

/-- R111: the ring slots of the named streams still suffice. -/
def ringShort (o : OpenNames) (e : Dev) : Option Shortfall :=
  o.streams.findSome? fun i => (streamOf? e i).bind fun s =>
    let need := ceilDiv (holdUs e i s) (max 1 s.periodUs) + 1
    if s.slots < need then
      some { code := 0x044, term := 1, condition := 4, partition := s.partition, unit := 0x90 + s.port, item := i,
             amount := need - s.slots }
    else none

/-- Result word of CONTEXT_OPEN's first reply: the places of its evidence and challenge control blocks in BAR2 (R340). -/
def placesWord (ev ch : Nat) : W64 := BitVec.ofNat 64 (ch * 2 ^ 32 + ev)

/-- The last rows of R341: the commit boundary, R111 and the terms of Table 10.8, in a context that has been built. -/
def openAdmit (n : Nat) (path : Path) (p : Packet) (o : OpenNames) (d : Dev) : Answer × Dev :=
  let now := d.geyser.now
  let part := o.template.partition
  match newContext p o d with
  | (none, _) => (refuseD cState 8, d)
  | (some (ev, ch), e) =>
    let early (ps : List PendingCommit) : Bool := decide (o.activation < boundaryOf ps)
    match ringShort o e, runAdmission e with
    | some s, r =>
      let cs := commitsFor e now (match r with | .ok c => c | .error _ => {}) [part]
      if early cs then (refuseAt cRange 0x58, d) else (refuseShort s, d)
    | none, .error s => if early (commitsFor e now {} [part]) then (refuseAt cRange 0x58, d) else (refuseShort s, d)
    | none, .ok c =>
      let cs := commitsFor e now c (concerned e c [part])
      if early cs then (refuseAt cRange 0x58, d)
      else (.accept (placesWord ev ch)
              { session := n, packet := p, path := path, due := o.activation, loaded := false },
            setMasks (allocate (.queues p.context) part .durable false (2 ^ pay p 0x31 1 + 64 * 2 ^ pay p 0x51 1)
              (journalCtx p.context (queueCommits cs e))))

def bodyContextOpen (n : Nat) (path : Path) (p : Packet) (d : Dev) : Answer × Dev :=
  let flag (o : Nat) : Bool := pay p (o + 2) 2 / 2 != 0
  match ([0x30, 0x50, 0x70].find? flag) with
  | some o => (refuseAt cReserved (0x42 + o), d)
  | none =>
    match openNames p d with
    | .error a => (a, d)
    | .ok o =>
      if (ctxOf d p.context).state ≠ .closed || awaits d [0x0307] (fun q => q.context == p.context) then
        (refuseF cState 9 0x14, d)
      else if d.contexts.length ≥ 65536 then (refuseF cState 8 0x14, d)
      else match openRange p o d, openState p o d with
        | some a, _ => (a, d)
        | none, some a => (a, d)
        | none, none => openAdmit n path p o d

/-! ### CONTEXT_CLOSE, CONTEXT_RESUME, CONTEXT_STATUS -/

/-- A command that names a context awaits its final reply (R334). -/
def ctxPending (d : Dev) (c : W32) : Bool :=
  awaits d [0x0306, 0x0307, 0x0308] (fun q => q.context == c) ||
    awaits d [0x0206] fun q => (swapContexts q).any (·.1 == c)

/-- CONTEXT_CLOSE: an ADMITTED context becomes CLOSED; another one DRAINING, then CLOSED as soon as nothing is left (Table
2.1, R37). -/
def bodyContextClose (n : Nat) (path : Path) (p : Packet) (d : Dev) : Answer × Dev :=
  let c := p.context
  let x := ctxOf d c
  if x.state = .closed then (refuseAt cObject 0x14, d)
  else match badPart p x.partition with
    | some a => (a, d)
    | none =>
      if ctxPending d c || x.state == .draining then (refuseF cState 13 0x14, d)
      else
        let a : Accepted := { session := n, packet := p, path := path, loaded := false }
        if x.results = [] ∧ x.heldRecords = [] then
          (.accept 0 { a with loaded := true, done := BitVec.ofNat 64 x.recorded },
            if x.state = .admitted then closeContext c d
            else closeIfDrained c (journalCtx c (modCtx c (fun x => { x with state := .draining }) d)))
        else (.accept 0 a, journalCtx c (modCtx c (fun x => { x with state := .draining }) d))

def bodyContextResume (n : Nat) (path : Path) (p : Packet) (d : Dev) : Answer × Dev :=
  let c := p.context
  let x := ctxOf d c
  let now := d.geyser.now
  let act := ofSecNs (inl p 4 6) (inl p 0 4)
  let onBoundary := match partOf? d x.partition with
    | some q => isBoundary q act
    | none => false
  if x.state = .closed then (refuseAt cObject 0x14, d)
  else match badPart p x.partition with
    | some a => (a, d)
    | none =>
      if x.state ≠ .suspended then (refuseF cState 0 0x14, d)
      else if ctxPending d c then (refuseF cState 13 0x14, d)
      else if inl p 0 4 ≥ 1000000000 then (refuseAt cRange 0x20, d)
      else if act ≤ now then (refuseAt cTimePast 0x20, d)
      else if !onBoundary then (refuseAt cRange 0x20, d)
      else
        let e := modCtx c (fun x => { x with state := .active }) d
        let r := runAdmission e
        let cfg : AdmitConfig := match r with | .ok g => g | .error _ => {}
        let named := match r with | .ok g => concerned e g [x.partition] | .error _ => [x.partition]
        let cs := commitsFor d now cfg named
        if act < boundaryOf cs then (refuseAt cRange 0x20, d)
        else match r with
          | .error s => (refuseShort s, d)
          | .ok _ =>
            (.accept 0 { session := n, packet := p, path := path, due := act, loaded := false },
             modCtx c (fun x => { x with activation := act }) (queueCommits cs d))

/-- Result word of CONTEXT_STATUS. -/
def ctxStatusWord (x : Context) : W64 := BitVec.ofNat 64 (ctxCode x.state * 2 ^ 60 + x.accepted % 2 ^ 56)

def bodyContextStatus (_n : Nat) (_path : Path) (p : Packet) (d : Dev) : Answer × Dev :=
  let x := ctxOf d p.context
  match (if x.state = .closed then none else badPart p x.partition) with
  | some a => (a, d)
  | none => (.ok (if x.state = .closed then 0 else ctxStatusWord x), d)

/-! ### CONTEXT_ACTIVATION (R32, R329) -/

/-- The final reply of CONTEXT_OPEN: the queue numbers; of CONTEXT_RESUME: zero. -/
def queueWord (x : Context) : W64 := BitVec.ofNat 64 (x.vQueue * 2 ^ 40 + x.chQueue * 2 ^ 20 + x.evQueue)
def activationWord (a : Accepted) (x : Context) : W64 := if a.packet.opcode = 0x0306 then queueWord x else 0

/-- A context becomes ACTIVE at its activation instant, with a full rate bucket (R263). -/
def becomeActive (c : W32) (d : Dev) : Dev :=
  let t := (ctxOf d c).activation
  journalCtx c (modCtx c (fun x => { x with
    state := .active, activated := true, rateLevel := 2 * (1000 * sec 1), rateAt := t }) (advance t d))

/-- The activation instant of a context: a context taken over has no command (R478); the others' commands have their DONE. A
context that a re-admission has shed before stays SUSPENDED, and its CONTEXT_OPEN has its DONE at the same instant. -/
def activate (c : W32) (d : Dev) : Dev :=
  let x := ctxOf d c
  if inSafe d then d
  else match d.accepted.find? fun a => (a.packet.opcode == 0x0306 || a.packet.opcode == 0x0308) && a.packet.context == c with
    | none => if x.state = .admitted then concludeOld c (queueWord x) (becomeActive c d) else d
    | some a =>
      let resume := a.packet.opcode == 0x0308
      if a.mirror.isSome || a.outcome.isSome then d
      else if !resume && x.state == .suspended then finalReply a cDone (activationWord a x) (advance x.activation d)
      else if x.state ≠ (if resume then CtxState.suspended else CtxState.admitted) then d
      else finalReply a cDone (activationWord a x) (becomeActive c d)

end Sys2Proof.Machine
end

