-- ==== Sys2Proof/Machine/OpTime.lean ====
section
/-! DEFINITION. Time opcodes (13 Table 13.9, R342; 15 R383 to R391, R396, R397). -/

namespace Sys2Proof.Machine

open Sys2Proof

/-! ### TIME_READ, TIME_STATUS, TIME_SET -/

def timeReadWord (d : Dev) : W64 :=
  BitVec.ofNat 64 (secField d.geyser.now % 2 ^ 32 * 2 ^ 32 + nsField d.geyser.now)

def bodyTimeRead (_n : Nat) (_path : Path) (_p : Packet) (d : Dev) : Answer × Dev := (.ok (timeReadWord d), d)

/-- A signed value held to 32 bits. -/
def saturate32 (v : Int) : Nat := (BitVec.ofInt 32 (max (-2147483648) (min 2147483647 v))).toNat

def timeStatusWord (d : Dev) : W64 :=
  BitVec.ofNat 64 (clockCode d.geyser.state * 2 ^ 56 + d.geyser.master % 256 * 2 ^ 48 + saturate32 d.geyser.offset)

def bodyTimeStatus (_n : Nat) (_path : Path) (_p : Packet) (d : Dev) : Answer × Dev := (.ok (timeStatusWord d), d)

def bodyTimeSet (_n : Nat) (_path : Path) (p : Packet) (d : Dev) : Answer × Dev :=
  let v := ofSecNs (inl p 4 6) (inl p 0 4)
  if inl p 0 4 ≥ 1000000000 then (refuseAt cRange 0x20, d)
  else if d.geyser.state ≠ .unlocked then (refuseF cState 11 0x20, d)
  else if anyContext d || changePending d then (refuseF cState 9 0x20, d)
  else (.ok 0, applyStep ((v : Int) - d.geyser.now) d)

/-! ### PTP_CONFIG (R391, Table 15.6) -/

/-- A signed byte and a signed word of a payload. -/
def pay8s (p : Packet) (o : Nat) : Int := (BitVec.ofNat 8 (pay p o 1)).toInt
def pay32s (p : Packet) (o : Nat) : Int := (BitVec.ofNat 32 (pay p o 4)).toInt

/-- The record's fields out of range, by payload offset in increasing order. A port without a mechanism holds no steps or
state. -/
def badPtp (p : Packet) : Option Nat :=
  let external := (pay p 1 1).testBit 0
  let within (lo hi v : Int) : Bool := decide (lo ≤ v ∧ v ≤ hi)
  let entry (i : Nat) : List (Nat × Bool) :=
    let o := 8 + 4 * i
    let on := pay p o 1 != 0
    [(o, decide (pay p o 1 ≤ 2)), (o + 1, if on then within 1 2 (pay p (o + 1) 1) else pay p (o + 1) 1 == 0),
     (o + 2, if external && on then within 1 3 (pay p (o + 2) 1) else pay p (o + 2) 1 == 0)]
  let rules : List (Nat × Bool) :=
    [(0, decide (pay p 0 1 ≤ 127)), (5, within 2 10 (pay p 5 1))] ++ (List.range 4).flatMap entry ++
    [(0x18, within (-4) 1 (pay8s p 0x18)), (0x19, within (-3) 3 (pay8s p 0x19)), (0x1A, within (-4) 5 (pay8s p 0x1A)),
     (0x1B, within (-4) 5 (pay8s p 0x1B)), (0x1C, within 1000 1000000000 (pay p 0x1C 4)),
     (0x20, within 20 10000 (pay p 0x20 4)), (0x24, within 4 64 (pay p 0x24 2)), (0x38, decide (pay p 0x38 4 ≤ 500000)),
     (0x3C, decide (pay p 0x3C 1 ≤ 2))]
  (rules.find? fun r => !r.2).map fun r => r.1

def mechAt (p : Packet) (i : Nat) : Nat := pay p (8 + 4 * i) 1

def ptpConfigOf (p : Packet) : PtpConfig :=
  let flags := pay p 1 1
  { raw := payloadOf p, domain := pay p 0 1, external := flags.testBit 0, masterCapable := flags.testBit 2,
    priority1 := pay p 2 1, priority2 := pay p 3 1, clockClass := if pay p 4 1 = 0 then 248 else pay p 4 1,
    receiptTimeout := pay p 5 1, mech := (List.range 4).map (mechAt p),
    steps := (List.range 4).map fun i => pay p (9 + 4 * i) 1, extState := (List.range 4).map fun i => pay p (10 + 4 * i) 1,
    logSync := pay8s p 0x18, logAnnounce := pay8s p 0x19, stepThreshold := pay p 0x1C 4, lockThreshold := pay p 0x20 4,
    lockCount := pay p 0x24 2, asym := (List.range 4).map fun i => pay32s p (0x28 + 4 * i),
    ppsWidthUs := if pay p 0x38 4 = 0 then 100000 else pay p 0x38 4, ppsIn := pay p 0x3C 1 }

/-- An accepted record applies at once: a port of another domain or without a mechanism forgets its master, and the port
states are decided anew. -/
def applyPtp (g : PtpConfig) (d : Dev) : Dev :=
  let same := g.domain == d.geyser.cfg.domain
  let d := modGey (fun x => { x with cfg := g, ppsMissing := 0 }) d
  runBmca ((List.range 4).foldl (fun d i => modPtp i (fun x => { x with
    announceAt := d.geyser.now
    foreign := if same && ptpUp d i then x.foreign else none }) d) d)

def bodyPtpConfig (_n : Nat) (_path : Path) (p : Packet) (d : Dev) : Answer × Dev :=
  let flags := pay p 1 1
  let off (i : Nat) : Bool := (portOf d i).role != .tap && (portOf d i).role != .fabric
  if flags / 8 ≠ 0 then (refuseAt cReserved 0x41, d)
  else match badPtp p with
    | some o => (refuseAt cRange (0x40 + o), d)
    | none =>
      let slaves := ((List.range 4).filter fun i => pay p (10 + 4 * i) 1 == 2).length
      match (List.range 4).find? (fun i => mechAt p i != 0 && off i) with
      | some i => (refuseF cState 10 (0x48 + 4 * i), d)
      | none =>
      if slaves > 1 then (refuseF cState 10 0x48, d)
      else if flags.testBit 1 && (anyContext d || changePending d) then (refuseF cState 9 0x41, d)
      else
        let d := if flags.testBit 1 then clockTo .unlocked d.geyser.master d else d
        (.ok 0, applyPtp (ptpConfigOf p) d)

/-! ### PULSE_SET, PULSE_STOP (R342) -/

/-- Occurrences of a periodic pulse that lie at or before now. -/
def skippedPulses (start period now : Time) : Nat := if start ≤ now then (now - start) / period + 1 else 0

def bodyPulseSet (_n : Nat) (_path : Path) (p : Packet) (d : Dev) : Answer × Dev :=
  let o := inl p 0 1
  let mode := inl p 1 1
  let start := ofSecNs (inl p 8 6) (inl p 4 4)
  let period := pay p 0 8
  let width := pay p 8 4
  let now := d.geyser.now
  if o > 7 then (refuseAt cRange 0x20, d)
  else if mode ≠ 1 ∧ mode ≠ 2 then (refuseAt cRange 0x21, d)
  else if inl p 4 4 ≥ 1000000000 then (refuseAt cRange 0x24, d)
  else if (mode = 1 ∧ period ≠ 0) ∨ (mode = 2 ∧ period < 100) then (refuseAt cRange 0x40, d)
  else if width < 10 ∨ (mode = 2 ∧ width ≥ period) then (refuseAt cRange 0x48, d)
  else if pulseRuns (pulseOf d o) then (refuseF cState 9 0x20, d)
  else if mode = 1 ∧ start ≤ now then (refuseAt cTimePast 0x24, d)
  else
    let skip := if mode = 2 then skippedPulses start (ns period) now else 0
    let x : Pulse := { mode := mode, run := true, stopped := (pulseOf d o).stopped, start := start, period := ns period,
                       width := ns width, n := skip }
    let word := if mode = 2 then min skip 4294967295 * 2 ^ 32 + nsField (occurrence x skip) else 0
    (.ok (BitVec.ofNat 64 word), modPulse o (fun _ => x) d)

def bodyPulseStop (_n : Nat) (_path : Path) (p : Packet) (d : Dev) : Answer × Dev :=
  let o := inl p 0 1
  if o > 7 then (refuseAt cRange 0x20, d)
  else (.ok 0, modPulse o (fun x => { x with mode := 0, run := false, level := false }) d)

end Sys2Proof.Machine
end

