-- ==== Sys2Proof/Machine/OpFault.lean ====
section
/-! DEFINITION. Fault and diagnostic opcodes (13 Tables 13.10, 13.11, 13.15 to 13.19, R343 to R345, R350; 16 R409, R413 to R415;
17 R429, R434). -/

namespace Sys2Proof.Machine

open Sys2Proof

/-! ### DIAG_READ: entries (Tables 13.16, 13.17, 13.19) -/

/-- A DIAG_READ item: the bytes before its entries, the size of an entry, how many there are, and entry `i`. -/
structure DiagItem where
  lead : List Byte := []
  size : Nat
  total : Nat
  entry : Nat → List Byte

def coreEntry (d : Dev) (n : Nat) : List Byte :=
  let c := coreOf d n
  leBytes 4 c.engErr.toNat ++ leBytes 4 c.trapStatus.toNat ++ leBytes 8 c.trapAddr.toNat ++ leBytes 4 c.pairErr.toNat ++
  leBytes 4 (coreModeWord c).toNat ++ leBytes 8 c.pairLoc.toNat ++ leBytes 4 c.exempt

def memStopEntry (d : Dev) (n : Nat) : List Byte :=
  let s := stopOf d n
  leBytes 4 s.memErr.toNat ++ leBytes 4 s.ceCount ++ leBytes 8 s.memErrAddr

def dmaEntry (d : Dev) (n : Nat) : List Byte :=
  let c := dmaOf d n
  leBytes 4 (dmaHaltWord c).toNat ++ [if c.out then 1 else 0, 0, 0, 0] ++ leBytes 8 c.haltAddr

/-- Bucket registers as they read now. -/
def bucketAt (d : Dev) (m : KMap Bucket) (key : Nat) : Bucket :=
  let b := kget {} m key
  if b.made then refill d.geyser.now b else b

def bucketEntry (d : Dev) (stop i : Nat) : List Byte :=
  let h := bucketAt d d.sched.hbm (32 * stop + i)
  let m := bucketAt d d.sched.mesh (32 * stop + i)
  let z := leBytes 8 0
  (if stop < 4 then leBytes 4 (bucketWord h).toNat ++ leBytes 4 (bucketStatWord h).toNat else z) ++
  (if i < 16 then leBytes 4 (bucketWord m).toNat ++ leBytes 4 (bucketStatWord m).toNat else z)

def windowEntry (w : Window) : List Byte :=
  leBytes 4 w.start ++ leBytes 4 w.length ++
  [BitVec.ofNat 8 w.partition, (match w.kind with | .service => 1 | .golden => 2 | .selftest => 3), BitVec.ofNat 8 w.mask,
   if w.donate then 1 else 0, 0, 0, 0, 0]

/-- A queue descriptor (Table 12.5); an unassigned number reads as zero. -/
def queueEntry (d : Dev) (n : Nat) : List Byte :=
  match kfind? d.queues.table n with
  | none => List.replicate 64 0
  | some q =>
    leBytes 1 q.kind ++ leBytes 1 q.exp ++ leBytes 2 (bit 0 q.halted) ++ leBytes 4 q.owner ++ leBytes 8 q.base.toNat ++
    leBytes 1 q.slot ++ leBytes 1 q.partition ++ List.replicate 14 0 ++ leBytes 8 q.producer ++ leBytes 8 q.consumer ++
    leBytes 8 q.access ++ leBytes 4 q.partner ++ leBytes 4 q.faults.n

def countersOf (l : List Counter) : List Byte := l.flatMap fun c => leBytes 4 c.n

def streamCounters (s : Stream) : List Counter :=
  [s.checksum, s.unmatched, s.gap, s.dupPackets, s.latePackets, s.complete, s.timeout, s.superseded, s.overlap, s.geometry,
   s.ringFull, s.unclaimed, s.silences]
def portCounters (p : Port) : List Counter :=
  [p.overruns, p.unsupported, p.outReceived, p.outRefused, p.fabricCheck, p.fabricDup, p.management, p.linkLosses,
   p.headerFail]
def slotCounters (s : Slot) : List Counter := [s.discards, s.foreign, s.checkinRefused, s.unchecked]

def pageLogEntry (e : PageEntry) : List Byte :=
  leBytes 8 e.page ++ leBytes 8 e.lines.toNat ++ leBytes 1 e.cause ++ leBytes 1 e.partition ++
  leBytes 2 (bit 0 e.reloadable + bit 1 e.told) ++ timeBytes e.capture ++ [0, 0]

/-- An attention-log entry with its CRC-32C (Table 13.17). -/
def attnEntry (e : AttnEntry) : List Byte :=
  let b := leBytes 4 e.serial.toNat ++ leBytes 1 e.cls ++ leBytes 1 e.cause ++ [0, 0] ++ timeBytes e.instant ++ [0, 0] ++
    padTo 40 (e.detail.take 40)
  b ++ leBytes 4 (crc32c b).toNat

def changeEntry (r : ChangeRecord) : List Byte :=
  leBytes 2 r.id ++ leBytes 2 r.opcode.toNat ++ leBytes 1 r.outcome ++ [0, 0, 0] ++ timeBytes r.commitAt ++
  List.replicate 6 0 ++ leBytes 8 r.named.toNat ++ leBytes 8 r.acked.toNat ++ leBytes 8 r.applied.toNat ++
  leBytes 8 r.failed.toNat ++ List.replicate 8 0

/-- CAL_STICKY word `w`, and START_WIRE_FAIL word `w`. -/
def stickyWord (d : Dev) (w : Nat) : Nat := (List.range 32).foldl (fun a b => a + bit b (srcOf d (32 * w + b)).sticky) 0
def wireFailWord (d : Dev) (w : Nat) : Nat :=
  (List.range 32).foldl (fun a b => a + bit b (d.start.wireFail.contains (32 * w + b))) 0

def calderaLead (d : Dev) : List Byte :=
  padTo 256 ((List.range 24).flatMap (fun w => leBytes 4 (stickyWord d w)) ++ leBytes 4 (calReactWord d.cal).toNat ++
    leBytes 4 (startStatusWord d.start).toNat ++ (List.range 24).flatMap fun w => leBytes 4 (wireFailWord d w))

def sourceEntry (d : Dev) (n : Nat) : List Byte :=
  let x := srcOf d n
  leBytes 4 (calSrcWord (readCount d.geyser.now x)).toNat ++ leBytes 4 0 ++ leBytes 8 (calCfgWord x).toNat

def avsbusEntry (p : Pace) : List Byte :=
  leBytes 2 p.target ++ leBytes 2 p.readback ++ leBytes 1 (min p.failures 255) ++ [if p.track then 2 else 1] ++
  leBytes 1 p.guardPct ++ [if p.stopped then 1 else 0] ++ leBytes 2 p.status.toNat ++ leBytes 2 p.setpoint ++ leBytes 4 0

/-- Segments of a memory: those of the HBM, or of a cluster's shared SRAM. -/
def segmentBase (inst : Nat) : Nat := if inst = 0 then 0 else 12192 + 128 * (inst - 1)

/-- The port, stream or slot entry of item 0x000A. -/
def counterEntry (d : Dev) (inst : Nat) : List Byte :=
  padTo 64 (countersOf (
    if inst < 16 then ((streamOf? d inst).map streamCounters).getD []
    else if inst < 0x0200 then portCounters (portOf d (inst - 0x0100))
    else slotCounters (slotOf d (inst - 0x0200))))

/-- An item of Table 13.16 for an instance and an index; none for an instance out of range. -/
def diagItem? (item inst index : Nat) (d : Dev) : Option DiagItem :=
  let when_ (ok : Bool) (x : DiagItem) : Option DiagItem := if ok then some x else none
  let log := d.attn.log.filter fun e => decide (e.serial.toNat ≥ index)
  match item with
  | 0x0001 => when_ (decide (inst < 64)) { size := 48, total := 1, entry := fun _ => padTo 48 (coreEntry d inst) }
  | 0x0002 => when_ (inst == 0)
      { lead := leBytes 4 (floorFuseWord d.pace).toNat ++ leBytes 2 d.pace.f ++ [if d.pace.fuseOk then 1 else 0] ++
          List.replicate 9 0, size := 8, total := 16, entry := fun i =>
            leBytes 4 (gaugeCountWord (gaugeOf d i)).toNat ++ leBytes 4 (gaugeStatusWord (gaugeOf d i)).toNat }
  | 0x0003 => when_ (decide (inst < 21)) { size := 16, total := 1, entry := fun _ => memStopEntry d inst }
  | 0x0004 => when_ (decide (inst < 288)) { size := 16, total := 1, entry := fun _ => dmaEntry d inst }
  | 0x0005 => when_ (decide (inst ≤ 16))
      { size := 8, total := if inst = 0 then 12192 else 128, entry := fun i =>
          let s := segOf d (segmentBase inst + i)
          leBytes 4 (segTagWord s).toNat ++ leBytes 4 (segModeWord s).toNat }
  | 0x0006 => when_ (decide (inst < 24)) { size := 16, total := 17, entry := bucketEntry d inst }
  | 0x0007 => when_ (decide (inst < 16))
      { lead := padTo 16 (leBytes 1 (kget [] d.sched.tables inst).length), size := 16,
        total := (kget [] d.sched.tables inst).length,
        entry := fun i => ((kget [] d.sched.tables inst)[i]?.map windowEntry).getD [] }
  | 0x0008 => when_ (inst == 0)
      { size := 64, total := d.queues.table.foldl (fun a e => max a (e.1 + 1)) 0, entry := queueEntry d }
  | 0x0009 => when_ (inst == 0)
      { size := 16, total := if (ctxOf d (BitVec.ofNat 32 index)).state = .closed then 0 else index + 1,
        entry := fun i => let x := ctxOf d (BitVec.ofNat 32 i)
                          countersOf [x.crcFail, x.malformed, x.late, x.duplicates] }
  | 0x000A => when_ (decide (inst < 16) || decide (0x0100 ≤ inst ∧ inst < 0x0104) || decide (0x0200 ≤ inst ∧ inst < 0x0202))
      { size := 64, total := 1, entry := fun _ => counterEntry d inst }
  | 0x000B => when_ (inst == 0)
      { size := 32, total := d.memctl.log.length, entry := fun i => (d.memctl.log[i]?.map pageLogEntry).getD [] }
  | 0x000C => when_ (inst == 0)
      { size := 64, total := index + log.length, entry := fun i => (log[i - index]?.map attnEntry).getD [] }
  | 0x000D => when_ (inst == 0) { size := 64, total := 1, entry := fun _ => changeEntry d.cores.record }
  | 0x000E => when_ (inst == 0) { lead := calderaLead d, size := 16, total := 768, entry := sourceEntry d }
  | 0x000F => when_ (inst == 0) { size := 16, total := 1, entry := fun _ => avsbusEntry d.pace }
  | _ => none

/-- Bytes before the entries, and bytes of an entry, of each item (Table 13.16). -/
def diagLead (item : Nat) : Nat := if item = 0x0002 ∨ item = 0x0007 then 16 else if item = 0x000E then 256 else 0

/-- The response of Table 13.15: as many whole entries from the index on as `len` bytes hold, and their number. -/
def diagResponse (item inst index len : Nat) (x : DiagItem) : List Byte × Nat :=
  let n := min (x.total - index) ((len - 16 - x.lead.length) / x.size)
  (leBytes 2 item ++ leBytes 2 inst ++ leBytes 4 index ++ leBytes 4 n ++ leBytes 2 x.size ++ leBytes 2 x.lead.length ++
    x.lead ++ (List.range n).flatMap fun i => x.entry (index + i), n)

/-- Counters that the host has read raise attention again at their next increment (R343). -/
def diagSeen (item inst index n : Nat) (d : Dev) : Dev :=
  if n = 0 then d
  else match item with
  | 0x0008 => { d with queues := { d.queues with table := kmapv (fun k q =>
      if index ≤ k ∧ k < index + n then { q with faults := q.faults.seen } else q) d.queues.table } }
  | 0x0009 => modCtx (BitVec.ofNat 32 index) (fun x => { x with
      crcFail := x.crcFail.seen, malformed := x.malformed.seen, late := x.late.seen, duplicates := x.duplicates.seen }) d
  | 0x000A =>
    if inst < 16 then modStream inst (fun s => { s with
      checksum := s.checksum.seen, unmatched := s.unmatched.seen, gap := s.gap.seen, dupPackets := s.dupPackets.seen,
      latePackets := s.latePackets.seen, complete := s.complete.seen, timeout := s.timeout.seen,
      superseded := s.superseded.seen, overlap := s.overlap.seen, geometry := s.geometry.seen, ringFull := s.ringFull.seen,
      unclaimed := s.unclaimed.seen, silences := s.silences.seen }) d
    else if inst < 0x0200 then modPort (inst - 0x0100) (fun p => { p with
      overruns := p.overruns.seen, unsupported := p.unsupported.seen, outReceived := p.outReceived.seen,
      outRefused := p.outRefused.seen, fabricCheck := p.fabricCheck.seen, fabricDup := p.fabricDup.seen,
      management := p.management.seen, linkLosses := p.linkLosses.seen, headerFail := p.headerFail.seen }) d
    else modSlot (inst - 0x0200) (fun s => { s with
      discards := s.discards.seen, foreign := s.foreign.seen, checkinRefused := s.checkinRefused.seen,
      unchecked := s.unchecked.seen }) d
  | _ => d

def bodyDiagRead (_n : Nat) (_path : Path) (p : Packet) (d : Dev) : Answer × Dev :=
  let item := inl p 0 2
  let inst := inl p 2 2
  let index := inl p 4 4
  if item < 1 ∨ item > 0x000F then (refuseAt cRange 0x20, d)
  else match diagItem? item inst index d with
    | none => (refuseAt cRange 0x22, d)
    | some x =>
      match badBuffer p 0 with
      | some a => (a, d)
      | none =>
        if bufLen p 0 < 16 + diagLead item then (badLength 0, d)
        else
          let (b, n) := diagResponse item inst index (bufLen p 0) x
          (.ok (BitVec.ofNat 64 b.length), diagSeen item inst index n (hostWrite (bufAddr p 0) b d))

/-! ### FAULT_CONFIG, FAULT_TEST, HOLD, RELEASE_HOLD -/

/-- A source with a unit that a unit reset can act on (R409). -/
def hasUnit (source : Nat) : Bool := decide (source < 512) || decide (766 ≤ source)

def bodyFaultConfig (_n : Nat) (_path : Path) (p : Packet) (d : Dev) : Answer × Dev :=
  let s := inl p 0 2
  let n := inl p 2 1
  let m := inl p 3 1
  let w := inl p 4 4
  let c := inl p 8 1
  if s > 767 then (refuseAt cRange 0x20, d)
  else if n < 1 then (refuseAt cRange 0x22, d)
  else if m > 31 ∨ (m.testBit 2 ∧ !hasUnit s) then (refuseAt cRange 0x23, d)
  else if w < 1 ∨ w > 60000000 then (refuseAt cRange 0x24, d)
  else if c > 1 then (refuseAt cRange 0x28, d)
  else if (srcOf d s).fixed then (refuseF cState 11 0x20, d)
  else (.ok 0, errUpdate (modSrc s (fun x => { x with cls := c, mask := m, n := n, w := w }) d))

/-- TEST_STICKY, TEST_SEVERE and HELD of a test. -/
def faultTestWord (x : Source) : W64 := BitVec.ofNat 64 (bit 56 x.testSticky + bit 57 x.testSevere + x.heldMask)

/-- FAULT_TEST: the force is set, lasts for the duration, and the reply follows the resample (R344, R415). -/
def bodyFaultTest (_n : Nat) (_path : Path) (p : Packet) (d : Dev) : Answer × Dev :=
  let s := inl p 0 2
  let t := inl p 4 4
  if s > 767 then (refuseAt cRange 0x20, d)
  else if t < 1 ∨ t > 50 then (refuseAt cRange 0x24, d)
  else if d.cal.src.any fun e => e.2.force then (refuseF cState 13 0x20, d)
  else
    let d := forceSet s d
    let d := pump (forceClear s (advance (d.geyser.now + us t) d))
    (.ok (faultTestWord (srcOf d s)), d)

/-- HOLD asserts ERR_N when it is not asserted; that assertion cancels no RELEASE (R345). -/
def holdErrN (d : Dev) : Dev :=
  modCal (fun c => { c with
    hold := true
    errN := true
    assertedAt := if c.errN then c.assertedAt else d.geyser.now }) d

def releaseHold (d : Dev) : Dev := errUpdate (modCal (fun c => { c with hold := false }) d)

/-- ERR_CONTROL's result word: ERR_N asserted after the command. -/
def errWord (d : Dev) : W64 := BitVec.ofNat 64 (bit 0 d.cal.errN)

def bodyErrControl (_n : Nat) (_path : Path) (p : Packet) (d : Dev) : Answer × Dev :=
  let op := inl p 0 1
  if op = 1 then let d := holdErrN d; (.ok (errWord d), d)
  else if op = 2 then let d := releaseHold d; (.ok (errWord d), d)
  else (refuseAt cRange 0x20, d)

/-! ### WATCHDOG_SET, MONITOR_SET, CHECKIN -/

def bodyWatchdogSet (_n : Nat) (_path : Path) (p : Packet) (d : Dev) : Answer × Dev :=
  let per := inl p 0 4
  let o := inl p 4 4
  if per < 1000 ∨ per > 10000000 then (refuseAt cRange 0x20, d)
  else if o < 1 ∨ o + 500 > per then (refuseAt cRange 0x24, d)
  else if d.watch.dwd.enabled then (refuseF cState 11 0x20, d)
  else (.ok 0, modDwd (fun w => { w with
    enabled := true, state := .running, periodUs := per, openUs := o, last := d.geyser.now, next := 0x00005AA5 }) d)

def bodyMonitorSet (_n : Nat) (_path : Path) (p : Packet) (d : Dev) : Answer × Dev :=
  let m := pay p 0 2
  let k := pay p 2 1
  let v := pay p 4 4
  let lo := pay p 8 2
  let hi := pay p 10 2
  if m > 4095 then (refuseAt cRange 0x40, d)
  else if k < 1 ∨ k > 2 then (refuseAt cRange 0x42, d)
  else if v < 1000 ∨ v > 60000000 then (refuseAt cRange 0x44, d)
  else if hi < 1 ∨ hi < lo then (refuseAt cRange 0x4A, d)
  else if (kfind? d.watch.monitors m).isSome then (refuseF cState 11 0x40, d)
  else
    let x : Monitor := { kind := k, windowUs := v, minimum := lo, maximum := hi, start := d.geyser.now }
    (.ok 0, { d with watch := { d.watch with monitors := kput d.watch.monitors m x } })

def bodyCheckin (_n : Nat) (_path : Path) (p : Packet) (d : Dev) : Answer × Dev :=
  let m := inl p 0 2
  if m > 4095 then (refuseAt cRange 0x20, d)
  else match kfind? d.watch.monitors m with
    | none => (refuseAt cObject 0x20, d)
    | some x => if x.kind = 2 then (refuseF cState 10 0x20, d) else (.ok 0, countCheckin m d)

end Sys2Proof.Machine
end

