-- ==== Sys2Proof/Machine/OpMaint.lean ====
section
/-! DEFINITION. Memory, maintenance and fabric opcodes (13 Table 13.12, R346, R347; 06 R149, R150; 14 R369, R375, R376; 19 R460
to R463, R473, R485, R486), and the fabric state they share with the frames: the mirror ring, joining and leaving. -/

namespace Sys2Proof.Machine

open Sys2Proof

/-! ### SCRUB_PERIOD (R292, R329) -/

def scrubSeconds (p : Packet) : Nat := inl p 0 2

def bodyScrubPeriod (n : Nat) (path : Path) (p : Packet) (d : Dev) : Answer × Dev :=
  let v := scrubSeconds p
  if v < 10 ∨ v > 600 then (refuseAt cRange 0x20, d)
  else match runAdmission (modCtl (fun m => { m with passSec := v }) d) with
    | .error s => (refuseShort s, d)
    | .ok c =>
      let cs := commitsFor d d.geyser.now c (concerned d c [])
      (.accept 0 { session := n, packet := p, path := path, due := boundaryOf cs }, queueCommits cs d)

/-- The new period applies from its DONE. -/
def periodSet (p : Packet) (d : Dev) : Dev := modCtl (fun m => { m with passSec := scrubSeconds p }) d

/-! ### PACE_CONFIG (R149, R150) -/

/-- FIXED takes a setpoint and TRACK a guard; the other of the two is unused and zero (Table 12.7). -/
def bodyPaceConfig (_n : Nat) (_path : Path) (p : Packet) (d : Dev) : Answer × Dev :=
  let mode := inl p 0 1
  let guard := inl p 1 1
  let mv := inl p 2 2
  let again (x : Pace) : Pace := { x with stopped := false, failures := 0 }
  if mode = 1 then
    if guard ≠ 0 then (refuseAt cRange 0x21, d)
    else if mv < 720 ∨ mv > 900 ∨ mv % 5 ≠ 0 then (refuseAt cRange 0x22, d)
    else (.ok 0, modPace (fun x => again { x with track := false, setpoint := mv, target := mv }) d)
  else if mode = 2 then
    if guard < 2 ∨ guard > 20 then (refuseAt cRange 0x21, d)
    else if mv ≠ 0 then (refuseAt cRange 0x22, d)
    else (.ok 0, modPace (fun x => again { x with track := true, guardPct := guard }) d)
  else (refuseAt cRange 0x20, d)

/-! ### FIRMWARE_STAGE (R367, R369) -/

def bodyFirmwareStage (n : Nat) (path : Path) (p : Packet) (d : Dev) : Answer × Dev :=
  match badBuffer p 0 with
  | some a => (a, d)
  | none => (.accept 0 { session := n, packet := p, path := path, loaded := false }, d)

/-- The checks of R367, step 2, on an image (Table 14.5). -/
def imageBroken (b : List Byte) (d : Dev) : Option (W16 × W64) :=
  let f (o n : Nat) : Nat := fieldAt b o n
  let key := bytesAt b 0x40 64
  let range : Option Nat :=
    if f 0 4 ≠ 0x57524946 then some 0
    else if f 4 2 ≠ 1 then some 4
    else if f 6 2 > 64 then some 6
    else if f 0xC 4 % 64 ≠ 0 ∨ f 0xC 4 > 3145728 then some 0xC
    else if !allZero (bytesAt b 0x18 8) then some 0x18
    else if !allZero (bytesAt b 0x80 64) then some 0x80
    else none
  match range with
  | some o => some (cLayout, refusalWord 3 o)
  | none =>
    if b.length ≠ 256 + f 0xC 4 then some (cLayout, refusalWord 6 0x48)
    else if Config.sm3 key ≠ Config.firmwareRoot ||
        !Config.sm2Verify key (bytesAt b 0 192) (BitVec.ofNat 512 (beNat (bytesAt b 0xC0 64))) then
      some (cLayout, refusalWord 1 noField)
    else if digestBytes (Config.sm3 (b.drop 256)) ≠ bytesAt b 0x20 32 then some (cLayout, refusalWord 2 noField)
    else if f 6 2 < d.bonnet.securityFuse then some (cState, refusalWord 7 noField)
    else none

/-- The image of a FIRMWARE_STAGE has been read: it goes to the slot that did not boot (R369). -/
def imageLoaded (a : Accepted) (b : List Byte) (d : Dev) : Dev :=
  let now := d.geyser.now
  if bufLen a.packet 0 ≠ b.length then decide_ a cLayout (refusalWord 6 0x48) now d
  else match imageBroken b d with
    | some r => decide_ a r.1 r.2 now d
    | none =>
      let v := fieldAt b 8 4
      decide_ a cDone (BitVec.ofNat 64 v) now
        (modBonnet (fun x => { x with staged := some (BitVec.ofNat 32 v, fieldAt b 6 2) }) d)

/-! ### WARM_RESET, FIELD_LOCK (R346, R375, R376) -/

def bodyWarmReset (_n : Nat) (_path : Path) (p : Packet) (d : Dev) : Answer × Dev :=
  if inl p 0 4 ≠ 0x5741524D then (refuseAt cRange 0x20, d)
  else (.ok 0, modStart (fun s => { s with commandedAt := some d.geyser.now }) d)

def bodyFieldLock (n : Nat) (path : Path) (p : Packet) (d : Dev) : Answer × Dev :=
  if inl p 0 8 ≠ 0x4649454C444C4F43 then (refuseAt cRange 0x20, d)
  else if !d.bonnet.fuseEn then (refuseF cState 15 0x20, d)
  else if fieldLocked d then (refuseF cState 11 0x20, d)
  else (.accept 0 { session := n, packet := p, path := path }, d)

/-- FIELD_LOCK blows all three bits, and cuts off a debugger at the instant of DONE. -/
def lockFuse (d : Dev) : Dev :=
  let d := modBonnet (fun b => { b with fieldLock := 7 }) d
  { d with cores := { d.cores with core := kmapv (fun _ c => { c with probe := false }) d.cores.core } }

/-! ### The mirror ring and what a confirmation releases (R472 to R476) -/

/-- Messages whose HELD record is confirmed join their port's queue (R475). -/
def releaseMessages (d : Dev) : Dev :=
  { d with ports := kmapv (fun _ p => { p with
      out := p.out ++ (p.outWait.filter fun e => decide (e.1 ≤ d.fabric.confirmed)).map (·.2)
      outWait := p.outWait.filter fun e => !decide (e.1 ≤ d.fabric.confirmed) }) d.ports }

/-- A change of the members: where the mirror peer changes, the device is unmirrored until the new one holds a copy of every
live record (R476); without a mirror peer nothing waits for one. -/
def reRing (f : Dev → Dev) (d : Dev) : Dev :=
  let before := mirrorPeer? d.fabric
  let d := f d
  let after := mirrorPeer? d.fabric
  if after = before then d
  else if after.isSome then modFab (fun x => { x with unmirrored := true, copied := false, confirmedAt := d.geyser.now }) d
  else
    drainAllBlocked (releaseMessages
      (modFab (fun x => { x with unmirrored := false, copied := true, confirmed := x.nextSeq - 1 }) d))

/-! ### Joining and leaving (R461 to R463) -/

/-- The fabric record of a FABRIC_JOIN (Table 19.2). -/
def joinId (p : Packet) : W64 := BitVec.ofNat 64 (pay p 0 8)
def joinRole (p : Packet) : Nat := pay p 8 1
def joinNumber (p : Packet) : Nat := pay p 9 1
def joinDomain (p : Packet) : Nat := pay p 0xA 1
def joinPorts (p : Packet) : Nat := pay p 0xB 1

/-- The first field out of its range, by payload offset. -/
def badJoin (p : Packet) : Option Nat :=
  let bits := ((List.range 4).filter fun i => (joinPorts p).testBit i).length
  if joinId p = 0 then some 0
  else if joinRole p < 1 ∨ joinRole p > 3 then some 8
  else if joinNumber p > 63 then some 9
  else if joinDomain p > 63 then some 0xA
  else if bits < 1 ∨ bits > 2 then some 0xB
  else if joinRole p = 1 ∧ !allZero (bytesAt (payloadOf p) 0x10 16) then some 0x10
  else none

/-- The accepted FABRIC_JOIN, if one waits. -/
def joining? (d : Dev) : Option Accepted := d.accepted.find? fun a => a.packet.opcode == 0x0701 && a.outcome.isNone

/-- A fabric state with nothing of a fabric in it: the journal and its numbering stay (R470). -/
def alone (f : Fabric) : Fabric :=
  { journal := f.journal, nextSeq := f.nextSeq, checkpointFrom := f.checkpointFrom, frameSeq := f.frameSeq,
    outFrames := f.outFrames, confirmed := f.nextSeq - 1 }

/-- The manager sets MASTER_CAPABLE unless an external grandmaster serves the fabric (R460, R465, R483). -/
def setMaster (d : Dev) : Dev :=
  if (List.range 4).any fun i => (ptpOf d i).foreign.isSome then d
  else runBmca (modGey (fun g => { g with cfg := { g.cfg with masterCapable := true } }) d)

/-- The state that a FABRIC_JOIN's record brings; role 0 until the manager has entered the device. -/
def joinState (role : Nat) (p : Packet) (f : Fabric) : Fabric :=
  { alone f with
    id := joinId p, role := role, device := joinNumber p, hostDomain := joinDomain p, ports := joinPorts p,
    minFirmware := BitVec.ofNat 32 (pay p 0xC 4), manager := joinNumber p
    members := if role = 1 then [(joinNumber p, { role := 1, serial := Config.serial, hostDomain := joinDomain p })] else [] }

def bodyFabricJoin (n : Nat) (path : Path) (p : Packet) (d : Dev) : Answer × Dev :=
  if joinPorts p / 16 ≠ 0 then (refuseAt cReserved 0x4B, d)
  else match badJoin p with
    | some o => (refuseAt cRange (0x40 + o), d)
    | none =>
      if inFabric d ∨ anyContext d then (refuseD cState 9, d)
      else if (joining? d).isSome then (refuseD cState 13, d)
      else if !(List.range 4).any fun i => (joinPorts p).testBit i && (portOf d i).role == .fabric then (refuseF cState 10 0x4B, d)
      else
        let a : Accepted := { session := n, packet := p, path := path, due := d.geyser.now,
                              done := BitVec.ofNat 64 (joinNumber p) }
        if joinRole p = 1 then
          let d := modFab (joinState 1 p) d
          (.accept 0 a, setMaster (journalAdd 0 (.member (joinNumber p) 1 true Config.serial) d))
        else (.accept 0 { a with loaded := false }, modFab (joinState 0 p) d)

/-- A device that is no member any longer (R463, R489). -/
def leaveFabric (d : Dev) : Dev := drainAllBlocked (releaseMessages (modFab alone d))

/-- Contexts mapped to this device. -/
def mappedHere (d : Dev) : Bool := anyContext d || d.fabric.map.any fun e => e.2 == d.fabric.device

def othersInService (d : Dev) : Bool := d.fabric.members.any fun e => e.1 != d.fabric.device && e.2.inService

def bodyFabricLeave (n : Nat) (path : Path) (p : Packet) (d : Dev) : Answer × Dev :=
  if !inFabric d then (.refuse cNotMember (refusalWord 0 noField), d)
  else if mappedHere d || (d.fabric.role == 1 && othersInService d) then (refuseD cState 9, d)
  else (.accept 0 { session := n, packet := p, path := path, due := d.geyser.now }, d)

/-! ### FABRIC_STATUS, CONTEXT_REMAP (R463, R486, R487) -/

def fabricStatusWord (d : Dev) : W64 :=
  let f := d.fabric
  BitVec.ofNat 64 (f.role * 2 ^ 56 + f.device * 2 ^ 48 + f.manager * 2 ^ 40 +
    ((mirrorPeer? f).getD f.device) * 2 ^ 32 + (f.members.filter fun e => e.2.inService).length)

def bodyFabricStatus (_n : Nat) (_path : Path) (_p : Packet) (d : Dev) : Answer × Dev :=
  if inFabric d then (.ok (fabricStatusWord d), d) else (.refuse cNotMember (refusalWord 0 noField), d)

/-- Whether a device meets R477 for a context is for that device to say: a free value. -/
def siblingFits (d : Dev) : Bool × Dev :=
  let (n, d) := fresh d
  (Config.freeNat n % 2 == 1, d)

/-- The move of a context of this device: the first boundary of its partition at least 1 ms from now (R486). -/
def scheduleRemap (c : W32) (target : Nat) (d : Dev) : Dev :=
  let t := d.geyser.now + ms 1
  let at_ := match partOf? d (ctxOf d c).partition with
    | some q => nextBoundary q t
    | none => t
  modFab (fun f => { f with remaps := (f.remaps.filter fun e => e.1 != c) ++ [(c, target, at_)] }) d

def bodyContextRemap (n : Nat) (path : Path) (p : Packet) (d : Dev) : Answer × Dev :=
  let c := p.context
  let target := inl p 0 1
  let own := (ctxOf d c).state != .closed
  if !inFabric d then (.refuse cNotMember (refusalWord 0 noField), d)
  else if d.fabric.role ≠ 1 then (.refuse cNotManager (refusalWord 0 noField), d)
  else if target > 63 then (refuseAt cRange 0x20, d)
  else if !own && (kfind? d.fabric.map c.toNat).isNone && !d.fabric.unplaced.contains c then (refuseAt cObject 0x14, d)
  else match (if own then badPart p (ctxOf d c).partition else none) with
    | some a => (a, d)
    | none =>
      if own && (ctxPending d c || (ctxOf d c).state == .draining || awaits d [0x0703] (fun q => q.context == c)) then (refuseF cState 13 0x14, d)
      else
        let serves := ((kfind? d.fabric.members target).map (·.inService)).getD false
        let (fits, d) := siblingFits d
        if !serves || !fits then (.refuse cNoSibling (refusalWord 0 noField), d)
        else
          let a : Accepted := { session := n, packet := p, path := path, due := d.geyser.now, loaded := !(own && target != d.fabric.device),
                                done := BitVec.ofNat 64 target }
          let moves := own && target != d.fabric.device
          let d := modFab (fun f => { f with unplaced := f.unplaced.filter (· != c) }) d
          (.accept 0 a, if moves then scheduleRemap c target d else d)

end Sys2Proof.Machine
end

