-- ==== Sys2Proof/Machine/Readmission.lean ====
section
/-! DEFINITION. Re-admission after a fence, a retired segment, a lost DMA channel or a change of the PCIe link: shedding, and
the commits of what remains (10 R267 to R269, 02 R36). -/

namespace Sys2Proof.Machine

open Sys2Proof

/-- Criticality of a context's partition. -/
def criticalityOf (d : Dev) (x : Context) : Nat := ((partOf? d x.partition).map (·.criticality)).getD 0

/-- `a` is shed before `b`: the highest criticality number first, then the most recently opened (R268). -/
def shedBefore (d : Dev) (a b : Nat × Context) : Bool :=
  let ka := criticalityOf d a.2
  let kb := criticalityOf d b.2
  decide (kb < ka) || (ka == kb && decide (b.2.order < a.2.order))

def insertShed (d : Dev) (e : Nat × Context) : List (Nat × Context) → List (Nat × Context)
  | [] => [e]
  | f :: l => if shedBefore d e f then e :: f :: l else f :: insertShed d e l

/-- The contexts that may be shed, in the order of R268. -/
def shedOrder (d : Dev) : List (Nat × Context) := ((countedCtx d).filter (·.2.state != .draining)).foldr (insertShed d) []

/-- The set without a context: it is SUSPENDED, and its resumption does not count. -/
def without (c : Nat) (d : Dev) : Dev :=
  let c32 := BitVec.ofNat 32 c
  { modCtx c32 (fun x => { x with state := .suspended }) d with
    accepted := d.accepted.filter fun a => !(a.packet.opcode == 0x0308 && a.packet.context == c32) }
def without_ (l : List Nat) (d : Dev) : Dev := l.foldl (fun d c => without c d) d

/-- Contexts shed one at a time until the rest admits. -/
def shedUntil (d : Dev) : List Nat → List Nat → List Nat
  | [], out => out
  | c :: l, out =>
    match runAdmission (without_ out d) with
    | .ok _ => out
    | .error _ => shedUntil d l (out ++ [c])

/-- Each shed context is tried again in the reverse order, and kept where it fits. -/
def keepFitting (d : Dev) (out : List Nat) : List Nat :=
  out.reverse.foldl (fun keepOut c =>
    let trial := keepOut.filter (· != c)
    match runAdmission (without_ trial d) with
    | .ok _ => trial
    | .error _ => keepOut) out

/-- Cause 4 CONTEXT, class 1. -/
def contextAttn (c : W32) (cause unit : Nat) (d : Dev) : Dev :=
  raiseAttn 1 4 (leBytes 4 c.toNat ++ [3, BitVec.ofNat 8 cause] ++ leBytes 2 unit) d

/-- A context enters SUSPENDED: its pending results are UNVERIFIED, attention class 1 (R36); a resumption that waits is
refused with the condition that fails. -/
def suspendCtx (cause unit : Nat) (why : Shortfall) (c : W32) (d : Dev) : Dev :=
  let d := concludeAll c rSuspended (journalCtx c (modCtx c (fun x => { x with state := .suspended }) d))
  let d := { d with accepted := d.accepted.map fun a =>
    if a.packet.opcode = 0x0308 ∧ a.packet.context = c then
      { a with loaded := true, outcome := some (why.code, shortfallWord why), due := d.geyser.now }
    else a }
  contextAttn c cause unit d

/-- A device in service other than this one, in this device's host domain. -/
def siblings (d : Dev) : List Nat :=
  (d.fabric.members.filter fun e => e.2.inService && e.1 != d.fabric.device && e.2.hostDomain == d.fabric.hostDomain).map (·.1)

/-- A shed context leaves: in a fabric it is handed to the manager, which moves it to a sibling that takes it, otherwise SUSPENDED
(R269, R487). The spec gives no frame that tells a member what the manager found: the answer is a free value (DESIGN CHOICE,
notes/assumptions/49.md). -/
def shedCtx (cause unit : Nat) (why : Shortfall) (c : W32) (d : Dev) : Dev :=
  match (if inFabric d then siblings d else []) with
  | [] => suspendCtx cause unit why c d
  | t :: _ =>
    let (fits, d) := siblingFits d
    if fits then scheduleRemap c t (if d.fabric.role = 1 then mapRecord c t d else d) else suspendCtx cause unit why c d

/-- READMISSION: admission of the whole set again with the contexts it must shed, attention class 1 (after a change of
the PCIe link it was raised then, R528), and the commits. A set
that fails with every context shed commits nothing. -/
def readmission (d : Dev) : Dev :=
  match d.sched.readmit with
  | none => d
  | some (cause, unit) =>
    if d.front.state = .chipFailed || !stewardUp d then d
    else
      let clear := (List.range 64).foldl (fun (m : W64) n => if isFenced d n then m &&& ~~~((1 : W64) <<< n) else m) (~~~(0 : W64))
      let d := modSched (fun s => { s with
        readmit := none, parts := kmapv (fun _ q => { q with mask := q.mask &&& clear }) s.parts }) d
      let d := { d with contexts := kmapv (fun _ x => if x.state = .draining then { x with uncounted := true } else x) d.contexts }
      let why : Shortfall := match runAdmission d with
        | .error s => s
        | .ok _ => { code := 0, term := 0, condition := 0, amount := 0 }
      let out := keepFitting d (shedUntil d ((shedOrder d).map (·.1)) [])
      let shed := out.map fun c => (ctxOf d (BitVec.ofNat 32 c)).partition
      let named := d.sched.withdrawn ++ shed
      let r := runAdmission (without_ out d)
      let d := out.foldl (fun d c => shedCtx cause unit why (BitVec.ofNat 32 c) d) d
      let d := if cause = 4 then d else raiseAttn 1 14 [] d
      match r with
      | .error _ => d
      | .ok c => queueCommits (commitsFor d d.geyser.now c (concerned d c named)) d

def execReadmission (at_ : Time) (s : State) : Host.Outcome State Fault Refusal :=
  .next (onDevZ (fun d => pump (readmission (advance at_ d))) s)

end Sys2Proof.Machine
end

