-- ==== Sys2Proof/Machine/Denec.lean ====
section
/-! DEFINITION. Denec commands: one meaning per opcode of the table, over the checks of Table 12.10 and the opcode's own
meaning; doorbells and the mailbox (12 R303, R304, R308, R309); the end of a bulk transfer (13 R332) and final replies (R317). -/

namespace Sys2Proof.Machine

open Sys2Proof

/-! ### The meaning of an opcode -/

/-- Opcodes whose object has a partition (R330). -/
def partitionOpcodes : List Nat :=
  [0x0201, 0x0202, 0x0203, 0x0204, 0x0206, 0x0304, 0x0305, 0x0306, 0x0307, 0x0308, 0x0309, 0x0703]

/-- Rows 7 and 8 of Table 12.10, after the checks that no opcode's own parameters enter. -/
def opcodeBody : Body := fun n path p d =>
  let op := p.opcode.toNat
  if !partitionOpcodes.contains op && p.partition != 0xFF then (refuseAt cRange 0x12, d)
  else match op with
  | 0x0101 => bodyDeviceInfo n path p d
  | 0x0102 => bodyRingPairOpen n path p d
  | 0x0103 => bodyRingPairClose n path p d
  | 0x0104 => bodySessionOpen n path p d
  | 0x0105 => bodySessionClose n path p d
  | 0x0106 => bodyKeyEnrol n path p d
  | 0x0107 => bodyKeyRevoke n path p d
  | 0x0108 => bodyAttest n path p d
  | 0x0109 => bodyAttnRead n path p d
  | 0x010A => bodyAttnAck n path p d
  | 0x0201 => bodyPlanLoad n path p d
  | 0x0202 => bodyPlanUnload n path p d
  | 0x0203 => bodyWeightLoad n path p d
  | 0x0204 => bodyPartitionSet n path p d
  | 0x0205 => bodyCoreModeSet n path p d
  | 0x0206 => bodyPlanSwap n path p d
  | 0x0301 => bodySubjectRegister n path p d
  | 0x0302 => bodySubjectRelease n path p d
  | 0x0303 => bodyPortRoleSet n path p d
  | 0x0304 => bodyTapStreamOpen n path p d
  | 0x0305 => bodyTapStreamClose n path p d
  | 0x0306 => bodyContextOpen n path p d
  | 0x0307 => bodyContextClose n path p d
  | 0x0308 => bodyContextResume n path p d
  | 0x0309 => bodyContextStatus n path p d
  | 0x0401 => bodyTimeRead n path p d
  | 0x0402 => bodyTimeStatus n path p d
  | 0x0403 => bodyTimeSet n path p d
  | 0x0404 => bodyPtpConfig n path p d
  | 0x0405 => bodyPulseSet n path p d
  | 0x0406 => bodyPulseStop n path p d
  | 0x0501 => bodyDiagRead n path p d
  | 0x0502 => bodyFaultConfig n path p d
  | 0x0503 => bodyFaultTest n path p d
  | 0x0504 => bodyErrControl n path p d
  | 0x0505 => bodyWatchdogSet n path p d
  | 0x0506 => bodyMonitorSet n path p d
  | 0x0507 => bodyCheckin n path p d
  | 0x0601 => bodyScrubPeriod n path p d
  | 0x0701 => bodyFabricJoin n path p d
  | 0x0702 => bodyFabricLeave n path p d
  | 0x0703 => bodyContextRemap n path p d
  | 0x0704 => bodyFabricStatus n path p d
  | 0x0801 => bodyPaceConfig n path p d
  | 0x0802 => bodyFirmwareStage n path p d
  | 0x0803 => bodyWarmReset n path p d
  | 0x0804 => bodyFieldLock n path p d
  | _ => (refuseAt cOpcode 0, d)

/-! ### Packets that arrive -/

/-- Bytes that a packet takes in its ring from producer offset `x`: a PAD runs to the end of the ring (R309). -/
def ringStep (p : Packet) (exp x : Nat) : Nat := if p.opcode = 0 then 2 ^ exp - x % 2 ^ exp else slotBytes p

/-- A packet is published in a COMMAND ring, which takes it when it has room. -/
def publish (q : Nat) (p : Packet) (d : Dev) : Dev :=
  let x := queueOf d q
  let step := ringStep p x.exp x.producer
  if x.kind ≠ 1 ∨ x.producer + step > x.consumer + 2 ^ x.exp then d
  else modSess x.owner (fun s => { s with waiting := s.waiting ++ [p] }) (setQueue q { x with producer := x.producer + step } d)

/-- Rings are taken as far as R318 to R321 allow. -/
def serveRings (d : Dev) : Dev := drainAll opcodeBody d

/-- A packet submitted in the mailbox while it is idle and the Steward runs. -/
def mailPacket (p : Packet) (d : Dev) : Dev :=
  if !stewardUp d || d.front.mboxBusy then d
  else processPacket opcodeBody .mailbox p (modFront (fun f => { f with mboxDone := false }) d)

/-- A packet arrives on its path. -/
def arrive (path : Path) (p : Packet) (d : Dev) : Dev :=
  match path with
  | .ring q => serveRings (publish q p d)
  | .mailbox => mailPacket p d

/-- A packet of an opcode arrives at an instant. -/
def denec (op : W16) (at_ : Time) (path : Path) (p : Packet) (s : State) : State :=
  onDevA (fun d => pump (arrive path { p with opcode := op } (advance at_ d))) s

/-- The inline bytes of ERR_CONTROL with its operation. -/
def errPacket (op : Byte) (p : Packet) : Packet := { p with inl := op :: (p.inl.drop 1) }

abbrev Out := Host.Outcome State Fault Refusal

def execPad (at_ : Time) (queue : Nat) (s : State) : Out := .next (denec 0 at_ (.ring queue) { opcode := 0 } s)
def execDeviceInfo (at_ : Time) (path : Path) (p : Packet) (s : State) : Out := .next (denec 0x0101 at_ path p s)
def execRingPairOpen (at_ : Time) (path : Path) (p : Packet) (s : State) : Out := .next (denec 0x0102 at_ path p s)
def execRingPairClose (at_ : Time) (path : Path) (p : Packet) (s : State) : Out := .next (denec 0x0103 at_ path p s)
def execSessionOpen (at_ : Time) (path : Path) (p : Packet) (s : State) : Out := .next (denec 0x0104 at_ path p s)
def execSessionClose (at_ : Time) (path : Path) (p : Packet) (s : State) : Out := .next (denec 0x0105 at_ path p s)
def execKeyEnrol (at_ : Time) (path : Path) (p : Packet) (s : State) : Out := .next (denec 0x0106 at_ path p s)
def execKeyRevoke (at_ : Time) (path : Path) (p : Packet) (s : State) : Out := .next (denec 0x0107 at_ path p s)
def execAttest (at_ : Time) (path : Path) (p : Packet) (s : State) : Out := .next (denec 0x0108 at_ path p s)
def execAttnRead (at_ : Time) (path : Path) (p : Packet) (s : State) : Out := .next (denec 0x0109 at_ path p s)
def execAttnAck (at_ : Time) (path : Path) (p : Packet) (s : State) : Out := .next (denec 0x010A at_ path p s)
def execPlanLoad (at_ : Time) (path : Path) (p : Packet) (s : State) : Out := .next (denec 0x0201 at_ path p s)
def execPlanUnload (at_ : Time) (path : Path) (p : Packet) (s : State) : Out := .next (denec 0x0202 at_ path p s)
def execWeightLoad (at_ : Time) (path : Path) (p : Packet) (s : State) : Out := .next (denec 0x0203 at_ path p s)
def execPartitionSet (at_ : Time) (path : Path) (p : Packet) (s : State) : Out := .next (denec 0x0204 at_ path p s)
def execCoreModeSet (at_ : Time) (path : Path) (p : Packet) (s : State) : Out := .next (denec 0x0205 at_ path p s)
def execPlanSwap (at_ : Time) (path : Path) (p : Packet) (s : State) : Out := .next (denec 0x0206 at_ path p s)
def execSubjectRegister (at_ : Time) (path : Path) (p : Packet) (s : State) : Out := .next (denec 0x0301 at_ path p s)
def execSubjectRelease (at_ : Time) (path : Path) (p : Packet) (s : State) : Out := .next (denec 0x0302 at_ path p s)
def execPortRoleSet (at_ : Time) (path : Path) (p : Packet) (s : State) : Out := .next (denec 0x0303 at_ path p s)
def execTapStreamOpen (at_ : Time) (path : Path) (p : Packet) (s : State) : Out := .next (denec 0x0304 at_ path p s)
def execTapStreamClose (at_ : Time) (path : Path) (p : Packet) (s : State) : Out := .next (denec 0x0305 at_ path p s)
def execContextOpen (at_ : Time) (path : Path) (p : Packet) (s : State) : Out := .next (denec 0x0306 at_ path p s)
def execContextClose (at_ : Time) (path : Path) (p : Packet) (s : State) : Out := .next (denec 0x0307 at_ path p s)
def execContextResume (at_ : Time) (path : Path) (p : Packet) (s : State) : Out := .next (denec 0x0308 at_ path p s)
def execContextStatus (at_ : Time) (path : Path) (p : Packet) (s : State) : Out := .next (denec 0x0309 at_ path p s)
def execTimeRead (at_ : Time) (path : Path) (p : Packet) (s : State) : Out := .next (denec 0x0401 at_ path p s)
def execTimeStatus (at_ : Time) (path : Path) (p : Packet) (s : State) : Out := .next (denec 0x0402 at_ path p s)
def execTimeSet (at_ : Time) (path : Path) (p : Packet) (s : State) : Out := .next (denec 0x0403 at_ path p s)
def execPtpConfig (at_ : Time) (path : Path) (p : Packet) (s : State) : Out := .next (denec 0x0404 at_ path p s)
def execPulseSet (at_ : Time) (path : Path) (p : Packet) (s : State) : Out := .next (denec 0x0405 at_ path p s)
def execPulseStop (at_ : Time) (path : Path) (p : Packet) (s : State) : Out := .next (denec 0x0406 at_ path p s)
def execDiagRead (at_ : Time) (path : Path) (p : Packet) (s : State) : Out := .next (denec 0x0501 at_ path p s)
def execFaultConfig (at_ : Time) (path : Path) (p : Packet) (s : State) : Out := .next (denec 0x0502 at_ path p s)
def execFaultTest (at_ : Time) (path : Path) (p : Packet) (s : State) : Out := .next (denec 0x0503 at_ path p s)
def execHold (at_ : Time) (path : Path) (p : Packet) (s : State) : Out := .next (denec 0x0504 at_ path (errPacket 1 p) s)
def execReleaseHold (at_ : Time) (path : Path) (p : Packet) (s : State) : Out := .next (denec 0x0504 at_ path (errPacket 2 p) s)
def execWatchdogSet (at_ : Time) (path : Path) (p : Packet) (s : State) : Out := .next (denec 0x0505 at_ path p s)
def execMonitorSet (at_ : Time) (path : Path) (p : Packet) (s : State) : Out := .next (denec 0x0506 at_ path p s)
def execCheckin (at_ : Time) (path : Path) (p : Packet) (s : State) : Out := .next (denec 0x0507 at_ path p s)
def execScrubPeriod (at_ : Time) (path : Path) (p : Packet) (s : State) : Out := .next (denec 0x0601 at_ path p s)
def execFabricJoin (at_ : Time) (path : Path) (p : Packet) (s : State) : Out := .next (denec 0x0701 at_ path p s)
def execFabricLeave (at_ : Time) (path : Path) (p : Packet) (s : State) : Out := .next (denec 0x0702 at_ path p s)
def execContextRemap (at_ : Time) (path : Path) (p : Packet) (s : State) : Out := .next (denec 0x0703 at_ path p s)
def execFabricStatus (at_ : Time) (path : Path) (p : Packet) (s : State) : Out := .next (denec 0x0704 at_ path p s)
def execPaceConfig (at_ : Time) (path : Path) (p : Packet) (s : State) : Out := .next (denec 0x0801 at_ path p s)
def execFirmwareStage (at_ : Time) (path : Path) (p : Packet) (s : State) : Out := .next (denec 0x0802 at_ path p s)
def execWarmReset (at_ : Time) (path : Path) (p : Packet) (s : State) : Out := .next (denec 0x0803 at_ path p s)
def execFieldLock (at_ : Time) (path : Path) (p : Packet) (s : State) : Out := .next (denec 0x0804 at_ path p s)

/-! ### Doorbells and the mailbox (R303, R304, R308) -/

/-- A write to BAR0 of a requester that is bound to a subject slot is discarded, as R16 discards (R303). -/
def fromHost (requester : W16) (f : Dev → Dev) (d : Dev) : Dev :=
  match [0, 1].find? fun i => (slotOf d i).requester == some requester with
  | some i => foreignWrite i requester d
  | none => f d

/-- A doorbell write of `size` bytes: one narrower than 8 bytes is discarded (R303). -/
def doorbell (requester : W16) (size : Nat) (f : Dev → Dev) (d : Dev) : Dev :=
  fromHost requester (fun d => if size = 8 then f d else d) d

/-- A doorbell write that breaks Table 12.6: counted, attention class 1 at the first. -/
def doorbellFault (n : Nat) (d : Dev) : Dev :=
  countRaise 1 (fun d => (queueOf d n).faults) (fun c => modQueue n fun q => { q with faults := c }) 1 0x0008 0 n 0x3C d

/-- The producer offset after packets from offset `x`. -/
def publishedTo (exp : Nat) : Nat → List Packet → Nat
  | x, [] => x
  | x, p :: l => publishedTo exp (x + ringStep p exp x) l

def commandDoorbell (n value : Nat) (ps : List Packet) (d : Dev) : Dev :=
  let q := queueOf d n
  if q.kind ≠ 1 ∨ value % 64 ≠ 0 ∨ value ≤ q.producer ∨ value > q.consumer + 2 ^ q.exp ∨
      publishedTo q.exp q.producer ps ≠ value then doorbellFault n d
  else serveRings (ps.foldl (fun d p => publish n p d) d)

def execCommandDoorbell (at_ : Time) (requester : W16) (queue : Nat) (w : PostedWrite) (packets : List Packet) (s : State) : Out :=
  .next (onDevA (fun d => pump (doorbell requester w.size (commandDoorbell queue w.value.toNat packets) (advance at_ d))) s)

def replyDoorbell (n value : Nat) (d : Dev) : Dev :=
  let q := queueOf d n
  if q.kind ≠ 2 ∨ value < q.consumer ∨ value > q.producer then doorbellFault n d
  else serveRings (setQueue n { q with consumer := value } d)

def execReplyDoorbell (at_ : Time) (requester : W16) (queue : Nat) (w : PostedWrite) (s : State) : Out :=
  .next (onDevA (fun d => pump (doorbell requester w.size (replyDoorbell queue w.value.toNat) (advance at_ d))) s)

/-- Slots of the verdict ring free: held records follow, and a draining context may close (R64, R37). -/
def verdictDoorbell (n value : Nat) (d : Dev) : Dev :=
  let q := queueOf d n
  if q.kind ≠ 5 ∨ value < q.consumer ∨ value > q.producer then doorbellFault n d
  else
    let c := BitVec.ofNat 32 q.owner
    closeIfDrained c (drainRecords c (ctxOf d c).heldRecords.length (setQueue n { q with consumer := value } d))

def execVerdictDoorbell (at_ : Time) (requester : W16) (queue : Nat) (w : PostedWrite) (s : State) : Out :=
  .next (onDev (fun d => doorbell requester w.size (verdictDoorbell queue w.value.toNat) (advance at_ d)) s)

def execMboxGo (at_ : Time) (requester : W16) (p : Packet) (s : State) : Out :=
  .next (onDevA (fun d => pump (fromHost requester (mailPacket p) (advance at_ d))) s)

/-! ### The end of a bulk transfer (R332) -/

/-- Plan, version and blob of a transfer, for its attention. -/
def transferIds (p : Packet) : Nat × Nat :=
  if p.opcode = 0x0203 then (inl p 0 8, inl p 8 4) else (0, 0xFFFFFFFF)

def transferDone (a : Accepted) (obj : List Byte) (failures : Nat) (d : Dev) : Dev :=
  let now := d.geyser.now
  if failures ≥ 3 then
    let ids := transferIds a.packet
    reloadAttn ids.1 0 ids.2 0 (decide_ a cPoisoned 0 now d)
  else match a.packet.opcode.toNat with
  | 0x0106 =>
    let r := enrolLoaded a obj d
    decide_ a r.1.1 r.1.2 now r.2
  | 0x0201 => planLoaded a obj d
  | 0x0203 => weightsLoaded a obj d
  | _ => imageLoaded a obj d

/-- BULK_TRANSFER_COMPLETE of a command whose object has not been read yet; a host-side channel has carried it (R135, R332). -/
def bulkComplete (session : Nat) (counter : W64) (obj : List Byte) (failures : Nat) (d : Dev) : Dev :=
  match acceptedOf? d session counter with
  | none => d
  | some a =>
    if [0x0106, 0x0201, 0x0203, 0x0802].contains a.packet.opcode.toNat && !a.loaded && a.outcome.isNone && a.mirror.isNone &&
        stewardUp d && d.board.linkUp && (hostChannel? d).isSome then transferDone a obj failures d
    else d

def execBulkTransferComplete (at_ : Time) (session : Nat) (counter : W64) (obj : List Byte) (crcFailures : Nat) (s : State) :
    Out :=
  .next (convertLanded (flushWrites (onDevA (fun d => bulkComplete session counter obj crcFailures (advance at_ d)) s)))

/-! ### COMMAND_FINAL_REPLY (R317, R329) -/

/-- The result of a command and what its DONE brings with it. -/
def finalWork (a : Accepted) (d : Dev) : (W16 × W64) × Dev :=
  let r : W16 × W64 := a.outcome.getD (cDone, a.done)
  if r.1 ≠ cDone then (r, d)
  else match a.packet.opcode.toNat with
  | 0x0108 => attestNow a d
  | 0x0201 => (r, match a.plan with
      | some (i, v) => modPlans (fun x => { x with loaded := x.loaded.map fun l =>
          if l.plan.identifier == i && l.plan.version == v then { l with active := true } else l }) d
      | none => d)
  | 0x0203 => (r, blobUsable a.packet d)
  | 0x0304 => (r, streamOpened a.packet d)
  | 0x0601 => (r, periodSet a.packet d)
  | 0x0702 => (r, leaveFabric d)
  | 0x0804 => (r, lockFuse d)
  | _ => (r, d)

/-- The final reply of a command whose work is done, from its earliest instant on. -/
def commandFinal (session : Nat) (counter : W64) (d : Dev) : Dev :=
  match acceptedOf? d session counter with
  | none => d
  | some a =>
    if !a.loaded || a.mirror.isSome || decide (d.geyser.now < a.due) || !stewardUp d then d
    else
      let r := finalWork a d
      serveRings (finalReply a r.1.1 r.1.2 r.2)

def execCommandFinalReply (at_ : Time) (session : Nat) (counter : W64) (s : State) : Out :=
  .next (onDevA (fun d => pump (commandFinal session counter (advance at_ d))) s)

/-! ### The other two final replies -/

def execContextActivation (context : W32) (s : State) : Out := .next (onDevA (fun d => pump (serveRings (activate context d))) s)

def execChangeDone (s : State) : Out := .next (onDevA (fun d => pump (serveRings (changeDone d))) s)

end Sys2Proof.Machine
end

