-- ==== Sys2Proof/Machine/FabricLife.lean ====
section
/-! DEFINITION. The watch fabric's frames, liveness and mirroring (19 R464 to R476): frames received, pair keys, heartbeats,
leases and isolation, the journal and its copies, checkpoints, and what a confirmation releases. -/

namespace Sys2Proof.Machine

open Sys2Proof

/-! ### Frames received (R464, R465) -/

/-- A frame whose check fails, or of another fabric: discarded, counted at its port, class 5 at the first. -/
def frameBad (badCheck : Bool) (h : FabricHeader) (d : Dev) : Dev :=
  let port := h.port.val
  let c := (portOf d port).fabricCheck
  let d := modPort port (fun p => { p with fabricCheck := (c.add 1).tell }) d
  if c.told then d
  else if badCheck then securityAttn 6 h.source 0 0 d
  else raiseAttn 5 3 (counterDetail 0x000A (0x0100 + port) 0 0x10 (c.add 1).n) d

def modMember (n : Nat) (f : Member → Member) (d : Dev) : Dev :=
  modFab (fun x => { x with members := kmod { role := 0, inService := false } x.members n f }) d

/-- A frame for this device with a valid check and a new sequence is taken; the second copy of one is discarded. -/
def takeSealed (h : FabricHeader) (f : Dev → Dev) (d : Dev) : Dev :=
  if d.fabric.id = 0 || !fabricUp d || (h.dest != d.fabric.device && h.dest != 0xFF) then d
  else if h.fabric ≠ d.fabric.id then frameBad false h d
  else match kfind? d.fabric.members h.source with
    | none => frameBad true h d
    | some m =>
      if m.pairKey.isNone || !h.checkOk then frameBad true h d
      else if m.seen.contains h.frameSeq then
        modPort h.port.val (fun p => { p with fabricDup := p.fabricDup.add 1 }) d
      else
        let d := modMember h.source (fun m => { m with seen := m.seen ++ [h.frameSeq] }) d
        f (if h.source = d.fabric.manager then
            modFab (fun x => { x with managerInstant := max x.managerInstant h.sendTime }) d
          else d)

/-- A fabric frame at its port (R14). -/
def takeFrame (h : FabricHeader) (f : Dev → Dev) (d : Dev) : Dev := portHears h.port.val [.fabric] (takeSealed h f) d

/-! ### Members in their roles -/

def deputyOf (f : Fabric) : Option Nat := (f.members.find? fun e => e.2.inService && e.2.role == 2).map (·.1)

/-- Cause 8 FABRIC, class 4. -/
def fabricAttn (event device : Nat) (c : W32) (d : Dev) : Dev :=
  raiseAttn 4 8 ([BitVec.ofNat 8 event, BitVec.ofNat 8 device, 0, 0] ++ leBytes 4 c.toNat) d

/-- The manager's MEMBER record of a member, sent to all (R470). -/
def memberRecord (n : Nat) (d : Dev) : Dev :=
  let m : Member := kget { role := 0, inService := false } d.fabric.members n
  modFab (fun f => framesOut (nowOf d) [(5, 0xFF, lastImage f)] f) (journalAdd 0 (.member n m.role m.inService m.serial) d)

/-- The lowest-numbered worker in service becomes deputy where there is none (R483, R485). -/
def appointDeputy (d : Dev) : Dev :=
  match deputyOf d.fabric, d.fabric.members.find? fun e => e.2.inService && e.2.role == 3 with
  | none, some e => fabricAttn 3 e.1 0 (memberRecord e.1 (reRing (modMember e.1 fun m => { m with role := 2 }) d))
  | _, _ => d

/-! ### Where a context goes (R477) -/

/-- The first device in service of a host domain for which R477 holds, by increasing device number. -/
def chooseSibling : List Nat → Dev → Option Nat × Dev
  | [], d => (none, d)
  | t :: l, d =>
    let (fits, d) := siblingFits d
    if fits then (some t, d) else chooseSibling l d

def inDomain (dom : Nat) (d : Dev) : List Nat :=
  (d.fabric.members.filter fun e => e.2.inService && e.2.hostDomain == dom).map (·.1)

/-- Records packed into payloads of at most 8,192 bytes (R464). -/
def packRecords (l : List (List Byte)) : List (List Byte) :=
  l.foldl (fun a r => match a.getLast? with
    | some g => if g.length + r.length ≤ 8192 then a.dropLast ++ [g ++ r] else a ++ [r]
    | none => [r]) []

/-- The mirrored journal of device `n` holds records of a context: its SLICE goes to the takeover device. -/
def sendSlice (n : Nat) (c : W32) (target : Nat) (d : Dev) : Dev :=
  let l := d.fabric.mirrored.filter fun r => r.origin == n && r.context == c
  modFab (framesOut d.geyser.now ((packRecords (l.map journalImage)).map fun b => (7, target, b))) d

/-- The newest CONTEXT record that this device mirrors of a context of device `n`. -/
def mirroredContext? (n : Nat) (c : W32) (d : Dev) : Option JournalRecord :=
  (d.fabric.mirrored.filter fun r => r.origin == n && r.context == c && (journalPayload r.body).1 == 5).getLast?

/-- The payload of a TAKEOVER: the context, the failed device, and the context's parameters where this device mirrors them. Table 19.4
gives no layout: DESIGN CHOICE (notes/assumptions/49.md), as for every frame type but JOURNAL, MAP and SLICE. -/
def takeoverPayload (n : Nat) (c : W32) (d : Dev) : List Byte :=
  leBytes 4 c.toNat ++ [BitVec.ofNat 8 n] ++ ((mirroredContext? n c d).map fun r => (journalPayload r.body).2).getD []

/-- A context of a failed device is mapped to a sibling, with MAP and TAKEOVER; without one it is mapped to no device, class 4. -/
def placeContext (failed dom : Nat) (c : W32) (d : Dev) : Dev :=
  match chooseSibling (inDomain dom d) d with
  | (some t, d) =>
    let d := modFab (fun f => { f with unplaced := f.unplaced.filter (· != c) }) (mapRecord c t d)
    sendSlice failed c t (if t = d.fabric.device then d
      else modFab (framesOut d.geyser.now [(6, t, takeoverPayload failed c d)]) d)
  | (none, d) =>
    let known := d.fabric.unplaced.contains c
    let d := modFab (fun f => { f with map := kdel f.map c.toNat, unplaced := (f.unplaced.filter (· != c)) ++ [c] }) d
    if known then d else fabricAttn 4 0xFF c d

/-- Contexts without a device are tried again, at each join, declaration and admission change (R477). -/
def retryUnplaced (d : Dev) : Dev := d.fabric.unplaced.foldl (fun d c => placeContext 0xFF d.fabric.hostDomain c d) d

/-! ### Pair keys and new members (R465) -/

/-- The waiting FABRIC_JOIN ends with a refusal; the device is in no fabric. -/
def joinFails (code : W16) (d : Dev) : Dev :=
  match joining? d with
  | none => d
  | some a => decide_ a code (refusalWord 0 noField) d.geyser.now (modFab alone d)

/-- The manager enters a peer it accepts: the deputy where there is none, otherwise a worker. -/
def enterMember (n : Nat) (d : Dev) : Dev :=
  let known := ((kfind? d.fabric.members n).map fun m => m.inService && m.role != 0).getD false
  if known then d
  else
    let role := if (deputyOf d.fabric).isNone then 2 else 3
    let d := reRing (modMember n fun m => { m with
      role := role, inService := true, hostDomain := d.fabric.hostDomain, lastSend := d.geyser.now }) d
    let d := modFab (fun f => { f with lease := max f.lease (d.geyser.now + ms 10) }) d
    retryUnplaced (memberRecord n d)

/-- PAIR_KEY_AGREEMENT with a peer: its certificate verifies, names the key used, and its firmware is new enough. -/
def pairKeyAgreed (peer : Nat) (certOk keyNamed : Bool) (firmware : W32) (d : Dev) : Dev :=
  if d.fabric.id = 0 || !fabricUp d || peer == d.fabric.device then d
  else
    let ok := certOk && keyNamed && decide (firmware.toNat ≥ d.fabric.minFirmware.toNat)
    if !ok then
      if d.fabric.role = 0 then joinFails cUnreachable d else modMember peer (fun m => { m with pairKey := none }) d
    else
      let (n, d) := fresh d
      let d := modMember peer (fun m => { m with pairKey := some n, seen := [] }) d
      if d.fabric.role = 0 then
        modFab (fun f => { f with manager := if f.manager = f.device then peer else f.manager }) d
      else if d.fabric.role = 1 then enterMember peer d
      else d

def execPairKeyAgreement (at_ : Time) (peer : Fin 64) (certOk keyNamed : Bool) (firmware : W32) (s : State) : Out :=
  .next (onDevA (fun d => pump (serveRings (pairKeyAgreed peer.val certOk keyNamed firmware (advance at_ d)))) s)

/-! ### A declaration of failure (R468, R477, R481) -/

/-- COMMAND records of a journal without their FINAL. -/
def openCommands (l : List JournalRecord) : List (W32 × W16 × W64 × W16) :=
  l.filterMap fun r => match r.body with
    | .command s p =>
      if l.any fun f => match f.body with
        | .final s' r => s' == s && r.counter == p.counter
        | _ => false then none else some (r.context, s, p.counter, p.opcode)
    | _ => none

/-- Commands of the failed device that no other device continues: class 4, status 0x075 (R481). -/
def concludeLost (n : Nat) (d : Dev) : Dev :=
  ((openCommands (d.fabric.mirrored.filter fun r => r.origin == n)).filter fun e =>
    !([0x0306, 0x0307, 0x0308].contains e.2.2.2.toNat)).foldl
      (fun d e => concludedAttn e.1 e.2.1 cDeviceFailed e.2.2.1 0 d) d

/-- The criticality of a context of device `n`, from the CONTEXT record that the manager mirrors and the plan it holds itself. Of a
context of which it holds neither, the spec gives the manager no way to know it: such a context comes last (DESIGN CHOICE,
notes/assumptions/49.md). -/
def critOf (n : Nat) (c : W32) (d : Dev) : Nat :=
  (do
    let r ← mirroredContext? n c d
    let b := ((journalPayload r.body).2).drop 32
    let v := BitVec.ofNat 64 (fieldAt b 0x24 8)
    let id := BitVec.ofNat 64 (fieldAt b 0 8)
    let t ← if v = 0 then (newestPlan? d id).bind fun p => p.plan.templates[fieldAt b 8 2]? else templateOf? d id v (fieldAt b 8 2)
    let q ← partOf? d t.partition
    pure q.criticality).getD 4

/-- The contexts of a failed device in the order of R477: by criticality number, then by context number. -/
def inTurn (n : Nat) (l : List Nat) (d : Dev) : List Nat :=
  (List.range 5).flatMap fun k => l.filter fun c => min 4 (critOf n (BitVec.ofNat 32 c) d) == k

/-- The manager declares a device failed. -/
def declareFailed (n : Nat) (d : Dev) : Dev :=
  match kfind? d.fabric.members n with
  | none => d
  | some m =>
    if d.fabric.role ≠ 1 ∨ n = d.fabric.device ∨ !m.inService then d
    else
      let d := reRing (modMember n fun m => { m with inService := false }) d
      let d := fabricAttn 1 n 0 (memberRecord n d)
      let d := appointDeputy d
      let lost := (d.fabric.map.filter fun e => e.2 == n).map (·.1)
      let d := (inTurn n lost d).foldl (fun d c => placeContext n m.hostDomain (BitVec.ofNat 32 c) d) d
      retryUnplaced (concludeLost n d)

def failureDeclared (n : Nat) (d : Dev) : Dev :=
  match kfind? d.fabric.members n with
  | none => d
  | some m => if !fabricUp d || decide (d.geyser.now < m.lastSend + ms 20) then d else declareFailed n d

def execFailureDeclaration (at_ : Time) (device : Fin 64) (s : State) : Out :=
  .next (onDev (fun d => failureDeclared device.val (advance at_ d)) s)

/-! ### Heartbeats and leases (R466, R467, R484) -/

/-- The payload of a HEARTBEAT: role, the newest manager instant, the state bits; the deputy's holds the send instants of the workers'
heartbeats, which it forwards within 2 ms (R466). -/
def heartbeatPayload (d : Dev) : List Byte :=
  let f := d.fabric
  [BitVec.ofNat 8 f.role] ++ timeBytes f.managerInstant ++
    [BitVec.ofNat 8 (bit 0 f.isolated + bit 1 (d.front.state == .chipFailed))] ++
    (if f.role = 2 then (f.members.filter fun e => e.2.role == 3).flatMap fun e => BitVec.ofNat 8 e.1 :: timeBytes e.2.lastSend else [])

/-- HEARTBEAT_SEND, at the next 1 ms boundary: to the manager and the deputy; the manager's reach every member. -/
def heartbeatSend (d : Dev) : Dev :=
  let t := nextBeat (ms 1) d.fabric.beatAt d.geyser.now
  let d := modFab (fun f => { f with beatAt := some t }) (advance t d)
  if !inFabric d || !fabricUp d then d
  else
    let me := d.fabric.device
    let peers : List Nat := if d.fabric.role = 1 then [0xFF]
      else (d.fabric.manager :: (deputyOf d.fabric).toList).filter (· != me)
    modFab (fun f =>
      let g := framesOut d.geyser.now (peers.map fun n => (1, n, heartbeatPayload d)) f
      let l := f.sent ++ (List.range peers.length).map fun i => (f.frameSeq + 1 + i, d.geyser.now)
      { g with sent := l.drop (l.length - 64) }) d

def execHeartbeatSend (s : State) : Out := .next (onDev heartbeatSend s)

/-- A heartbeat: its send instant, the newest manager instant it reports, an ECHO, and a failure it announces (R468); the deputy's
brings the manager the send instants of the workers' heartbeats (R466). -/
def heartbeat (h : FabricHeader) (managerInstant : Time) (isolated failed : Bool) (forwarded : List (Nat × Time)) (d : Dev) : Dev :=
  takeFrame h (fun d =>
    let d := if d.fabric.role = 1 ∧ deputyOf d.fabric = some h.source then
        forwarded.foldl (fun d e => if (kfind? d.fabric.members e.1).isSome then
          modMember e.1 (fun m => { m with lastSend := max m.lastSend e.2 }) d else d) d
      else d
    let d := modMember h.source (fun m => { m with lastSend := max m.lastSend h.sendTime }) d
    let d := modFab (fun f => { f with managerInstant := max f.managerInstant managerInstant }) d
    let echoes := d.fabric.role == 1 || d.fabric.role == 2 || (d.fabric.role == 3 && h.source == d.fabric.manager)
    let d := if echoes then modFab (framesOut d.geyser.now [(2, h.source, leBytes 8 h.frameSeq ++ timeBytes h.sendTime)]) d else d
    if isolated || failed then declareFailed h.source d else d) d

def execHeartbeat (at_ : Time) (h : FabricHeader) (role : Nat) (managerInstant : Time) (flags : BeatFlags)
    (forwarded : List (Nat × Time)) (s : State) : Out :=
  .next (onDev (fun d => (fun _ => heartbeat h managerInstant flags.isolated flags.failed forwarded (advance at_ d)) role) s)

/-- An echo of one of this device's heartbeats extends its lease: from the manager or the deputy, and on the manager from
any member. -/
def echo (h : FabricHeader) (seq : Nat) (send : Time) (d : Dev) : Dev :=
  takeFrame h (fun d =>
    let f := d.fabric
    if (f.role = 1 ∨ h.source = f.manager ∨ deputyOf f = some h.source) ∧ f.sent.contains (seq, send) ∧ !f.isolated then
      modFab (fun f => { f with lease := max f.lease (send + ms 10) }) d
    else d) d

def execEcho (at_ : Time) (h : FabricHeader) (echoedSeq : Nat) (echoedSend : Time) (s : State) : Out :=
  .next (onDev (fun d => echo h echoedSeq echoedSend (advance at_ d)) s)

/-- The lease has ended: the device is isolated, and Gauntlet forces its SAFE pairs (R467). -/
def isolate (d : Dev) : Dev :=
  if d.fabric.isolated then d
  else
    let d := advance d.fabric.lease d
    forceSafe (modFab (fun f => { f with isolated := true, isolatedAt := f.lease }) d)

def execLeaseExpiry (s : State) : Out :=
  .next (onDev (fun d => if d.fabric.role = 2 ∨ d.fabric.role = 3 then isolate d else d) s)

def execManagerIsolation (s : State) : Out :=
  .next (onDev (fun d => if d.fabric.role = 1 ∧ othersInService d then isolate d else d) s)

/-! ### Confirmations (R473 to R476) -/

/-- A confirmed command is executed now, and has its first reply. -/
def runMirrored (a : Accepted) (d : Dev) : Dev :=
  let d := { d with accepted := d.accepted.filter (· != a) }
  firstReply a.session a.path a.packet (opcodeBody a.session a.path a.packet d)

def confirmCommands (d : Dev) : Dev :=
  (d.accepted.filter fun a => a.map && match a.mirror with
    | some q => decide (q ≤ d.fabric.confirmed)
    | none => false).foldl (fun d a => runMirrored a d) d

/-- What a confirmation releases: messages, blocked evidence, commands, a join whose first checkpoint the peer holds. -/
def afterConfirm (d : Dev) : Dev :=
  let d := match joining? d with
    | some a => if inFabric d then modAccepted a.session a.packet.counter (fun a => { a with loaded := true }) d else d
    | none => d
  serveRings (confirmCommands (drainAllBlocked (releaseMessages d)))

def confirm (h : FabricHeader) (seq : Nat) (d : Dev) : Dev :=
  takeFrame h (fun d =>
    if mirrorPeer? d.fabric ≠ some h.source then d
    else afterConfirm (modFab (fun f => { f with
      confirmed := max f.confirmed (min seq (f.nextSeq - 1))
      confirmedAt := d.geyser.now
      unmirrored := if f.copied then false else f.unmirrored }) d)) d

def execConfirm (at_ : Time) (h : FabricHeader) (journalSeq : Nat) (s : State) : Out :=
  .next (onDevA (fun d => pump (confirm h journalSeq (advance at_ d))) s)

/-- MIRROR_COPY_COMPLETE: a new mirror peer holds every live record. -/
def copyComplete (d : Dev) : Dev :=
  if (mirrorPeer? d.fabric).isNone || d.fabric.copied then d
  else afterConfirm (modFab (fun f => { f with
    copied := true, unmirrored := false, confirmed := f.nextSeq - 1, confirmedAt := d.geyser.now }) d)

def execMirrorCopyComplete (at_ : Time) (s : State) : Out :=
  .next (onDevA (fun d => pump (copyComplete (advance at_ d))) s)

/-- The oldest record that the mirror peer has not confirmed. -/
def unconfirmed? (d : Dev) : Option JournalRecord :=
  if (mirrorPeer? d.fabric).isNone then none else d.fabric.journal.find? fun r => decide (r.seq > d.fabric.confirmed)

/-- JOURNAL_RESEND: no confirmation 20 µs after the frame was sent (R476). -/
def journalResend (d : Dev) : Dev :=
  match unconfirmed? d, mirrorPeer? d.fabric with
  | some r, some m =>
    let d := advance (d.fabric.sentAt + us 20) d
    modFab (fun f => framesOut d.geyser.now [(3, m, journalImage r)] { f with sentAt := d.geyser.now, resent := f.resent + 1 }) d
  | _, _ => d

def execJournalResend (s : State) : Out := .next (onDev journalResend s)

/-- MIRROR_TIMEOUT: the mirror peer has confirmed nothing for 500 µs (R476). -/
def mirrorTimeout (d : Dev) : Dev :=
  match unconfirmed? d with
  | some r => modFab (fun f => { f with unmirrored := true }) (advance (max d.fabric.confirmedAt r.instant + us 500) d)
  | none => d

def execMirrorTimeout (s : State) : Out := .next (onDev mirrorTimeout s)

/-- A command whose record or MAP record has not come in time is refused, with nothing of it executed (R473). -/
def refuseMirrored (a : Accepted) (code : W16) (d : Dev) : Dev :=
  let d := advance (a.due + us 500) { d with accepted := d.accepted.filter (· != a) }
  serveRings (firstReply a.session a.path a.packet (.refuse code (refusalWord 0 noField), d))

def commandMirrorTimeout (session : Nat) (counter : W64) (d : Dev) : Dev :=
  match acceptedOf? d session counter with
  | none => d
  | some a => match a.mirror with
    | none => d
    | some q => if q ≤ d.fabric.confirmed then d else refuseMirrored a cMirrorFailed d

def execCommandMirrorTimeout (session : Nat) (counter : W64) (s : State) : Out :=
  .next (onDevA (fun d => pump (commandMirrorTimeout session counter d)) s)

/-- PEER_ANSWER_TIMEOUT: a join unanswered for 100 ms (R462), a manager that has sent no MAP record for 500 µs (R473), a
target of a move that does not answer before the move begins (R487). -/
def peerTimeout (session : Nat) (counter : W64) (d : Dev) : Dev :=
  match acceptedOf? d session counter with
  | none => d
  | some a =>
    if a.mirror.isSome then (if a.map then d else refuseMirrored a cUnreachable d)
    else if a.packet.opcode = 0x0701 ∧ !inFabric d ∧ a.outcome.isNone then joinFails cUnreachable (advance (a.due + ms 100) d)
    else if a.packet.opcode = 0x0703 ∧ !a.loaded ∧ (ctxOf d a.packet.context).state ≠ .draining then
      let d := advance (a.due + us 500) d
      decide_ a cUnreachable (refusalWord 0 noField) d.geyser.now
        (mapRecord a.packet.context d.fabric.device
          (modFab (fun f => { f with remaps := f.remaps.filter fun e => e.1 != a.packet.context }) d))
    else d

def execPeerAnswerTimeout (session : Nat) (counter : W64) (s : State) : Out :=
  .next (onDevA (fun d => pump (peerTimeout session counter d)) s)

/-! ### The mirrored journal (R470 to R472) -/

/-- One record from the predecessor is held where it follows without gap; a new origin begins a new copy; a CHECKPOINT frees
what is older than its oldest live record. -/
def holdRecord (r : JournalRecord) (f : Fabric) : Fabric :=
  let same := f.mirrored.any fun x => x.origin == r.origin
  let g : Fabric :=
    if !same then { f with mirrored := [r], mirroredSeq := r.seq }
    else if r.seq = f.mirroredSeq + 1 then { f with mirrored := f.mirrored ++ [r], mirroredSeq := r.seq }
    else f
  match r.body with
  | .checkpoint oldest => { g with mirrored := g.mirrored.filter fun x => decide (x.seq ≥ oldest) }
  | .context st _ _ _ =>
    if f.role = 1 then { g with map := if st = 0 then kdel g.map r.context.toNat else kput g.map r.context.toNat r.origin }
    else g
  | _ => g

def journalFrame (h : FabricHeader) (rs : List JournalRecord) (d : Dev) : Dev :=
  takeFrame h (fun d =>
    if nextIn h.source (ringOrder d.fabric) ≠ some d.fabric.device then d
    else modFab (fun f =>
      let g := (rs.filter fun r => r.origin == h.source).foldl (fun f r => holdRecord r f) f
      framesOut d.geyser.now [(4, h.source, leBytes 8 g.mirroredSeq)] g) d) d

def execJournal (at_ : Time) (h : FabricHeader) (records : List JournalRecord) (s : State) : Out :=
  .next (onDev (fun d => journalFrame h records (advance at_ d)) s)

/-! ### CHECKPOINT (R471) -/

/-- A record that a checkpoint keeps: recent, a COMMAND without its FINAL, or a HELD record not yet in the ring. -/
def keptRecord (d : Dev) (cut : Nat) (r : JournalRecord) : Bool :=
  decide (r.seq ≥ cut) || match r.body with
    | .command s p => d.accepted.any fun a => a.packet.session == s && a.packet.counter == p.counter
    | .held v => (ctxOf d r.context).heldRecords.any fun x => x.seq == v.seq
    | _ => false

/-- Every 100 ms: a CONTEXT record for every context not CLOSED, then the CHECKPOINT with the oldest live record; records
older than the previous checkpoint are freed. -/
def checkpoint (d : Dev) : Dev :=
  let t := nextBeat (ms 100) d.fabric.checkpointAt d.geyser.now
  let d := modFab (fun f => { f with checkpointAt := some t }) (advance t d)
  if !fabricUp d then d
  else
    let d := d.contexts.foldl (fun d e => journalCtx (BitVec.ofNat 32 e.1) d) d
    let cut := d.fabric.checkpointFrom
    let live := d.fabric.journal.filter (keptRecord d cut)
    let d := modFab (fun f => { f with journal := live, checkpointFrom := f.nextSeq }) d
    journalAdd 0 (.checkpoint ((live.head?.map (·.seq)).getD d.fabric.nextSeq)) d

def execCheckpoint (s : State) : Out := .next (onDev checkpoint s)

end Sys2Proof.Machine
end

