-- ==== Sys2Proof/Machine/FabricMove.lean ====
section
/-! DEFINITION. The map, takeovers and planned moves of the watch fabric (19 R473, R477 to R487), and joining as the manager's
MAP frames complete it (R461, R462). -/

namespace Sys2Proof.Machine

open Sys2Proof

/-! ### MAP frames -/

/-- The manager has entered this device: it is a member in the role it asked for, and its first checkpoint is written. -/
def enterFabric (p : Packet) (d : Dev) : Dev :=
  let d := modFab (fun f => { f with
    role := joinRole p, lease := d.geyser.now + ms 10, managerInstant := d.geyser.now }) d
  let d := reRing (modMember d.fabric.device fun _ =>
    { role := joinRole p, serial := Config.serial, hostDomain := joinDomain p }) d
  journalAdd 0 (.checkpoint d.fabric.nextSeq) d

/-- A MEMBER record: another member, or this device, whose wanted role or number may be held by another (R462). -/
def takeMember (n role : Nat) (inService : Bool) (serial : W128) (d : Dev) : Dev :=
  let waiting := if d.fabric.role = 0 then joining? d else none
  let taken (p : Packet) : Bool := inService &&
    ((n == joinNumber p && serial != Config.serial) || (n != joinNumber p && role == joinRole p && role != 3))
  match waiting with
  | some a =>
    if taken a.packet then joinFails cRoleTaken d
    else if n = joinNumber a.packet ∧ inService then enterFabric a.packet d
    else modMember n (fun m => { m with role := role, inService := inService, serial := serial }) d
  | none =>
    let d := reRing (modMember n fun m => { m with
      role := role, inService := inService, serial := serial
      hostDomain := if m.role = 0 then d.fabric.hostDomain else m.hostDomain }) d
    modFab (fun f => { f with
      manager := if inService && role == 1 then n else f.manager
      role := if n = f.device then role else f.role }) d

/-- A MAP record: the commands that wait for it may go on, a context of this device that is mapped elsewhere moves, and the
slice of a failed device's context goes to its takeover device. -/
def takeMap (c : W32) (dev dom : Nat) (d : Dev) : Dev :=
  let before := kget 0xFF d.fabric.map c.toNat
  let d := modFab (fun f => { f with
    map := kput f.map c.toNat dev
    members := kmod { role := 0, inService := false } f.members dev fun m => { m with hostDomain := dom } }) d
  let d := { d with accepted := d.accepted.map fun a =>
    if a.packet.context = c ∧ a.mirror.isSome then { a with map := true } else a }
  let x := ctxOf d c
  if x.state ≠ .closed ∧ x.state ≠ .draining ∧ dev ≠ d.fabric.device then scheduleRemap c dev d
  else if ((kfind? d.fabric.members before).map (·.inService)).getD true then d
  else sendSlice before c dev d

def mapFrame (h : FabricHeader) (rs : List JournalRecord) (d : Dev) : Dev :=
  takeFrame h (fun d =>
    if h.source ≠ d.fabric.manager then d
    else afterConfirm (rs.foldl (fun d r => match r.body with
      | .member n role s serial => takeMember n role s serial d
      | .map dev dom => takeMap r.context dev dom d
      | _ => d) d)) d

def execMap (at_ : Time) (h : FabricHeader) (records : List JournalRecord) (s : State) : Out :=
  .next (onDevA (fun d => pump (mapFrame h records (advance at_ d))) s)

/-! ### TAKEOVER, SLICE, HANDED (R478, R486) -/

def takeoverOf? (d : Dev) (c : W32) : Option Takeover := d.fabric.takeovers.find? fun t => t.data.context == c
def setTakeover (t : Takeover) (d : Dev) : Dev :=
  modFab (fun f => { f with takeovers := (f.takeovers.filter fun x => x.data.context != t.data.context) ++ [t] }) d
def dropTakeover (c : W32) (d : Dev) : Dev :=
  modFab (fun f => { f with takeovers := f.takeovers.filter fun x => x.data.context != c }) d

/-- TAKEOVER from the manager; the manager itself may be the chosen device. -/
def takeoverFrame (h : FabricHeader) (t : TakeoverData) (d : Dev) : Dev :=
  let go (d : Dev) : Dev :=
    if h.source ≠ d.fabric.manager ∨ !inFabric d ∨ (ctxOf d t.context).state ≠ .closed then d
    else
      let here := d.fabric.mirrored.filter fun r => r.origin == t.failed && r.context == t.context
      setTakeover { data := t, records := here, sliced := !here.isEmpty } d
  if h.source = d.fabric.device then (if fabricUp d then go d else d) else takeFrame h go d

def execTakeover (at_ : Time) (h : FabricHeader) (t : TakeoverData) (s : State) : Out :=
  .next (onDev (fun d => takeoverFrame h t (advance at_ d)) s)

def sliceFrame (h : FabricHeader) (c : W32) (rs : List JournalRecord) (d : Dev) : Dev :=
  takeFrame h (fun d => match takeoverOf? d c with
    | some t => setTakeover { t with records := t.records ++ (rs.filter fun r => r.context == c), sliced := true } d
    | none => d) d

def execSlice (at_ : Time) (h : FabricHeader) (context : W32) (records : List JournalRecord) (s : State) : Out :=
  .next (onDev (fun d => sliceFrame h context records (advance at_ d)) s)

def handedFrame (h : FabricHeader) (c : W32) (last : Nat) (alive : W16) (d : Dev) : Dev :=
  takeFrame h (fun d => match takeoverOf? d c with
    | some t => setTakeover { t with handed := some (last, alive.toNat) } d
    | none => d) d

def execHanded (at_ : Time) (h : FabricHeader) (context : W32) (lastSeq : Nat) (nextAlive : W16) (s : State) : Out :=
  .next (onDev (fun d => handedFrame h context lastSeq nextAlive (advance at_ d)) s)

/-! ### TAKEOVER_READBACK (R479 to R482) -/

/-- The newest CONTEXT record: consumed sequence and next alive counter. -/
def newestContext (l : List JournalRecord) : Option (Nat × W16) :=
  l.foldl (fun a r => match r.body with
    | .context _ n v _ => some (n, v)
    | _ => a) none

/-- The fields of a slot read back (Table 2.16): whether its CRC-32C holds, its sequence, its alive counter, MESSAGE_SENT. -/
def slotOk (s : RingSlot) : Bool := s.bytes.length == 64 && sealLine (s.bytes.take 60) == s.bytes
def slotSeq (s : RingSlot) : Nat := fieldAt s.bytes 8 8
def slotAlive (s : RingSlot) : Nat := fieldAt s.bytes 0x1C 2
def slotSent (s : RingSlot) : Bool := (fieldAt s.bytes 6 2).testBit 0

/-- The run of valid slots from sequence `q` on: the last of it. -/
def lastWritten (slots : List RingSlot) (l : Nat) : Nat → Nat → Nat → Nat
  | 0, _, w => w
  | fuel + 1, q, w =>
    if slots.any fun s => s.index == q % l && slotOk s && slotSeq s == q then lastWritten slots l fuel (q + 1) q else w

/-- The highest sequence among the ACCEPT records. -/
def highestAccept (l : List JournalRecord) (base : Nat) : Nat :=
  l.foldl (fun a r => match r.body with
    | .accept q _ => max a q
    | _ => a) base

/-- The record that a takeover writes for a sequence under its template's grade: the HELD record unchanged, otherwise WITHHELD
(R480). -/
def takeoverRecord (c : W32) (grade : Nat) (l : List JournalRecord) (q : Nat) (d : Dev) : VerdictRecord :=
  let held := l.findSome? fun r => match r.body with
    | .held v => if v.seq = q then some v else none
    | _ => none
  let cap := (l.findSome? fun r => match r.body with
    | .accept s t => if s = q then some t else none
    | _ => none).getD 0
  match held with
  | some v => v
  | none =>
    { context := c, verdict := 6, grade := grade, seq := q, reasons := rSafeState, device := d.fabric.device, capture := cap,
      instant := d.geyser.now }

/-- `a` is later than `b` as a serial number of 16 bits. -/
def aliveLater (a b : Nat) : Bool :=
  let k := (a + 65536 - b % 65536) % 65536
  decide (1 ≤ k ∧ k ≤ 32767)

/-- The alive counter of the highest sequence with MESSAGE_SENT among the slots read and the held records. -/
def highestSent (slots : List RingSlot) (l : List JournalRecord) : Option Nat :=
  let a := (slots.filter fun s => slotOk s && slotSent s).map fun s => (slotSeq s, slotAlive s)
  let b := l.filterMap fun r => match r.body with
    | .held v => if v.sent then some (v.seq, v.alive) else none
    | _ => none
  ((a ++ b).foldl (fun (m : Option (Nat × Nat)) e => match m with
    | some x => if x.1 < e.1 then some e else some x
    | none => some e) none).map (·.2)

/-- The next alive counter (R480): the later of the two candidates. -/
def nextAliveOf (slots : List RingSlot) (l : List JournalRecord) : Nat :=
  match (highestSent slots l).map fun a => (a + 1) % 65536, (newestContext l).map fun x => x.2.toNat with
  | some a, some b => if aliveLater a b then a else b
  | some a, none => a
  | none, some b => b
  | none, none => 0

/-- The CONTEXT_OPEN that a takeover stands for (Table 13.8), with its queue specifications. -/
def takeoverPacket (t : TakeoverData) (part evBase : Nat) : Packet :=
  let spec (kind exp : Nat) (base slot : Nat) : List Byte :=
    [BitVec.ofNat 8 kind, BitVec.ofNat 8 exp, 0, 0] ++ leBytes 4 t.context.toNat ++ leBytes 8 base ++
      [BitVec.ofNat 8 slot, BitVec.ofNat 8 part] ++ List.replicate 14 0
  let streams := (t.streams ++ List.replicate 4 0xFF).take 4
  { opcode := 0x0306, length := 208, context := t.context
    payload := leBytes 8 t.planId.toNat ++ leBytes 2 t.template ++ [BitVec.ofNat 8 t.outPort, BitVec.ofNat 8 t.unclaimed] ++
      streams.map (BitVec.ofNat 8) ++ leBytes 8 t.firstSeq ++ List.replicate 12 0 ++ leBytes 8 t.planVersion.toNat ++
      leBytes 4 t.slot ++ spec 3 t.evExp evBase t.slot ++ spec 4 t.chExp 0 t.slot ++
      spec 5 t.verdictExp t.verdictBase.toNat 0xFF }

/-- The evidence ring keeps its place where the slot has room, or takes another (R482). -/
def takeoverBase (t : TakeoverData) (d : Dev) : Nat × Dev :=
  let b := t.evBase.toNat
  let taken := slotRegions d t.slot
  if taken.any fun r => decide (r.1 < b + 2 ^ t.evExp ∧ b < r.2) then
    match placeIn t.slot (2 ^ t.evExp + 4096) taken d with
    | (some p, d) => (ceilDiv p 4096 * 4096, d)
    | (none, d) => (b, d)
  else (b, d)

/-- Cause 9 TAKEOVER, class 4. -/
def takeoverAttn (t : TakeoverData) (resume : Nat) (x : Context) (ev ch : Nat) (d : Dev) : Dev :=
  raiseAttn 4 9 (leBytes 4 t.context.toNat ++ [BitVec.ofNat 8 t.failed, BitVec.ofNat 8 d.fabric.device, 0, 0] ++
    leBytes 8 resume ++ leBytes 4 ev ++ leBytes 4 ch ++ leBytes 4 x.vQueue) d

/-- The commands of the failed device that go on here (R481); a CONTEXT_CLOSE drains the context. -/
def continueOld (c : W32) (l : List JournalRecord) (d : Dev) : Dev :=
  let mine := (openCommands l).filter fun e => e.1 == c && [0x0306, 0x0307, 0x0308].contains e.2.2.2.toNat
  let d := modFab (fun f => { f with oldCommands := f.oldCommands ++ mine }) d
  if mine.any fun e => e.2.2.2 == 0x0307 then closeIfDrained c (journalCtx c (modCtx c (fun x => { x with state := .draining }) d))
  else if (ctxOf d c).state = .suspended then concludeOld c (queueWord (ctxOf d c)) d
  else d

/-- The context of a takeover: its queues, ADMITTED where admission holds and otherwise SUSPENDED under terms 1 and 6 (R477),
its records from q_w + 1 to q_a, and its next alive counter. -/
def takeOver (t : Takeover) (doorbell : Nat) (slots : List RingSlot) (d : Dev) : Dev :=
  let c := t.data.context
  let now := d.geyser.now
  let noPlace (d : Dev) : Dev := fabricAttn 4 0xFF c (dropTakeover c d)
  let part := ((templateOf? d t.data.planId t.data.planVersion t.data.template).map (·.partition)).getD 0xFF
  let (base, d1) := takeoverBase t.data d
  let p := takeoverPacket t.data part base
  match openNames p d1, partOf? d part with
  | .ok o, some q =>
    match newContext p o d1 with
    | (none, _) => noPlace d
    | (some (ev, ch), e) =>
      let l := 2 ^ t.data.verdictExp
      let consumed := max (max (((newestContext t.records).map (·.1)).getD 0) doorbell) t.data.consumed
      let qw := lastWritten slots l l (consumed + 1) consumed
      let qa := match t.handed with
        | some h => max qw h.1
        | none => highestAccept t.records qw
      let alive := match t.handed with
        | some h => h.2
        | none => nextAliveOf slots t.records
      let e := modCtx c (fun x => { x with
        activation := nextBoundary q now, accepted := qa, recorded := qw, alive := alive }) e
      let e := modQueue (ctxOf e c).vQueue (fun v => { v with producer := qw, consumer := consumed }) e
      let started : Option Dev := match runAdmission e with
        | .ok g => some (queueCommits (commitsFor e now g (concerned e g [part])) e)
        | .error _ =>
          let f := modCtx c (fun x => { x with state := .suspended }) e
          if admitSuspended f then some (contextAttn c 5 0xFF f) else none
      match started with
      | none => noPlace d
      | some e =>
        let e := ((List.range (qa - qw)).map (qw + 1 + ·)).foldl (fun e q =>
          (storeRecord c (takeoverRecord c o.template.grade t.records q e) e).2) e
        let e := modCtx c (fun x => { x with recorded := qa }) e
        let e := takeoverAttn t.data (qa + 1) (ctxOf e c) ev ch (journalCtx c (dropTakeover c e))
        continueOld c t.records e
  | _, _ => noPlace d

def takeoverReadback (c : W32) (doorbell : Nat) (slots : List RingSlot) (d : Dev) : Dev :=
  match takeoverOf? d c with
  | none => d
  | some t =>
    if muted d || !fabricUp d || !(t.sliced || t.handed.isSome) || (ctxOf d c).state != .closed then d
    else takeOver t doorbell slots d

def execTakeoverReadback (at_ : Time) (context : W32) (doorbell : Nat) (slots : List RingSlot) (s : State) : Out :=
  .next (onDevA (fun d => pump (takeoverReadback context doorbell slots (advance at_ d))) s)

/-! ### REMAP_BOUNDARY (R486) -/

/-- The boundary of a planned move: the context drains. -/
def remapBoundary (c : W32) (d : Dev) : Dev :=
  match d.fabric.remaps.find? fun e => e.1 == c with
  | none => d
  | some e =>
    let d := advance e.2.2 d
    let x := ctxOf d c
    if x.state = .closed then modFab (fun f => { f with remaps := f.remaps.filter fun e => e.1 != c }) d
    else closeIfDrained c (journalCtx c (modCtx c (fun x => { x with state := .draining }) d))

def execRemapBoundary (context : W32) (s : State) : Out := .next (onDevA (fun d => pump (remapBoundary context d)) s)

/-! ### MANAGER_PROMOTION (R483) -/

/-- The deputy becomes manager 20 ms after the newest instant of the manager that it knows: records of the members and the
map, the old manager's contexts, a deputy, and MASTER_CAPABLE. -/
def promote (d : Dev) : Dev :=
  if d.fabric.role ≠ 2 || !fabricUp d then d
  else
    let d := advance (d.fabric.managerInstant + ms 20) d
    let old := d.fabric.manager
    let me := d.fabric.device
    let maps := d.fabric.mirrored.filterMap fun r => match r.body with
      | .map dev _ => if r.origin = old then some (r.context, dev) else none
      | _ => none
    let d := reRing (fun d => modMember me (fun m => { m with role := 1 }) (modFab (fun f => { f with
      role := 1, manager := me, map := maps.foldl (fun m e => kput m e.1.toNat e.2) f.map }) d)) d
    let d := fabricAttn 2 me 0 ((d.fabric.members.map (·.1)).foldl (fun d n => memberRecord n d) d)
    let d := (d.fabric.map).foldl (fun d e => mapRecord (BitVec.ofNat 32 e.1) e.2 d) d
    setMaster (appointDeputy (declareFailed old d))

def execManagerPromotion (s : State) : Out := .next (onDev promote s)

/-! ### ADMISSION_COMMIT (R249, R329, R477) -/

/-- A part of an admission takes effect; a manager then tries the contexts without a device again. -/
def execAdmissionCommit (partition : Option (Fin 16)) (s : State) : Out :=
  .next (onDevA (fun d =>
    let d := admissionCommit (partition.map (·.val)) d
    if d.fabric.role = 1 then retryUnplaced d else d) s)

end Sys2Proof.Machine
end

