-- ==== Sys2Proof/Machine/Reset.lean ====
section
/-! DEFINITION. Resets, the cold start and the warm restart (20 R490 to R500; 14 R367, R368; 16 R408, R412; 17 R424 to R433;
18 R448, R459; 11 R302; 12 R326). -/

namespace Sys2Proof.Machine

open Sys2Proof

/-! ### What power-on and test resets leave (Table 20.2) -/

/-- Fuses keep their value. -/
def keptPace (p : Pace) : Pace := { floor := p.floor, floorInv := p.floorInv, f := p.f, fuseOk := p.fuseOk }

/-- Fuses, the flash of Bonnet, the choice of boot slot, and the place in the DRBG's output. -/
def keptBonnet (b : Bonnet) : Bonnet :=
  { fieldLock := b.fieldLock, fuseEn := b.fuseEn, authority := b.authority, keys := b.keys, revokedIds := b.revokedIds,
    signerSeq := b.signerSeq, generation := b.generation, securityFuse := b.securityFuse,
    runningSecurity := b.runningSecurity, bootSlot := b.bootSlot, firmware := b.firmware, staged := b.staged,
    drbgWords := b.drbgWords, romMeasure := b.romMeasure, firmwareMeasure := b.firmwareMeasure }

/-- PORST_N low: everything but fuses and flash is at its reset value (R490, R381). -/
def powerOn (d : Dev) : Dev := { pace := keptPace d.pace, bonnet := keptBonnet d.bonnet, free := d.free }

def execPorstNAssert (at_ : Time) (s : State) : Out :=
  .next ((fun _ => { s with mem := {}, dev := powerOn s.dev }) at_)

/-- The slot that boots (R367): the higher version among the valid ones, slot A when they are equal. -/
def bootChoice (valid : BitVec 2) (a b : W32) : Option (Nat × W32) :=
  if valid.getLsbD 0 && (!valid.getLsbD 1 || decide (b.toNat ≤ a.toNat)) then some (0, a)
  else if valid.getLsbD 1 then some (1, b)
  else none

/-- The security version of the image that boots: the staged image's where it boots, otherwise at least the counter. -/
def bootSecurity (slot : Nat) (version : W32) (d : Dev) : Nat × Dev :=
  let b := d.bonnet
  if slot = b.bootSlot ∧ version = b.firmware then (b.runningSecurity, d)
  else match b.staged with
    | some (v, s) => if v = version ∧ slot ≠ b.bootSlot then (s, d) else (b.securityFuse, d)
    | none =>
      let (n, d) := fresh d
      (b.securityFuse + (Config.freeWord n).toNat % (65 - min b.securityFuse 64), d)

/-- A digest the manual leaves to the image. -/
def freeDigest (d : Dev) : W256 × Dev :=
  let (a, d) := fresh d
  let (b, d) := fresh d
  let (c, d) := fresh d
  let (e, d) := fresh d
  (Config.freeWord a ++ Config.freeWord b ++ Config.freeWord c ++ Config.freeWord e, d)

/-- PORST_N high: the boot sequencer chooses a slot and runs; with no valid image the device stays in BOOT (R368). -/
def coldStart (valid : BitVec 2) (a b : W32) (d : Dev) : Dev :=
  if d.front.state ≠ .reset ∨ !d.start.cold ∨ d.start.booting then d
  else match bootChoice valid a b with
    | none => modStart (fun s => { s with bootOk := false }) (modFront (fun f => { f with state := .boot }) d)
    | some (slot, version) =>
      let (security, d) := bootSecurity slot version d
      let (measure, d) := freeDigest d
      modStart (fun s => { s with booting := true }) (modBonnet (fun x => { x with
        bootSlot := slot
        firmware := version
        runningSecurity := security
        bootWrapDrawn := true
        romMeasure := Config.romMeasure
        firmwareMeasure := measure }) d)

def execPorstNRelease (at_ : Time) (slotsValid : BitVec 2) (versionA versionB : W32) (s : State) : Out :=
  .next (onDev (fun d => coldStart slotsValid versionA versionB (advance at_ d)) s)

/-! ### The Steward is released (R367, R424, R427, R433, R145, R148, R498) -/

/-- The Steward marks the units whose wires failed: cores are fenced; any other source is CHIP_FAILED (R498). -/
def wireVerdicts (d : Dev) : Dev :=
  d.start.wireFail.foldl (fun d n => if n < 512 then fenceCore (n / 8) d else chipFailed d) d

/-- The floor fuse is checked at every start (R145). -/
def checkFloor (d : Dev) : Dev :=
  let p := d.pace
  let n := p.floor.toNat
  if p.floorInv = ~~~p.floor ∧ 780 ≤ n ∧ n ≤ 1350 ∧ n % 10 = 0 then modPace (fun p => { p with f := n, fuseOk := true }) d
  else
    let d := modPace (fun p => { p with f := 780, fuseOk := false }) d
    paceAttn 6 3 0 (lowestMin d).1 d

/-- The first AVSBus writes of a start, in either mode: a transition rate of 1 mV/µs and a target of 0.80 V (R148, R520). -/
def firstTarget (d : Dev) : Dev := modPace (fun p => { p with slew := 1, target := 800 }) d

/-- The key store has no copy that qualifies: it is empty (R354). -/
def loseKeys (d : Dev) : Dev :=
  securityAttn 5 0 0 0 (modBonnet (fun b => { b with keys := [], revokedIds := [], signerSeq := [] }) d)

/-- Crash records enter the attention log with cause 11, class 1 (R425). -/
def crashAttn (d : Dev) : Dev :=
  let d := d.watch.crash.foldl (fun d n => raiseAttn 1 11 ([BitVec.ofNat 8 n, 0, 0, 0] ++ leBytes 4 (64 + n)) d) d
  { d with watch := { d.watch with crash := [] } }

/-- Both processors run; their watchdogs, enabled, run from now. -/
def startProcs (d : Dev) : Dev :=
  releaseWd 65 (releaseWd 64 (modProc 1 (fun p => { p with stopped := false, held := false })
    (modProc 0 (fun p => { p with stopped := false, held := false }) d)))

def stewardRelease (imageValid selfTestOk keyStoreOk : Bool) (d : Dev) : Dev :=
  if !d.start.booting || !d.start.bootOk || d.start.released then d
  else if d.watch.dwd.failover then modFront (fun f => { f with state := .safeState }) d
  else
    let d := modFront (fun f => { f with state := .boot }) d
    if !imageValid || !selfTestOk then modStart (fun s => { s with bootOk := false }) d
    else
      let d := startProcs (modStart (fun s => { s with released := true, releasedAt := d.geyser.now }) d)
      let d := firstTarget (checkFloor d)
      let d := crashAttn (if keyStoreOk then d else loseKeys d)
      if d.start.cold && d.start.wiresDone then wireVerdicts d else d

def execStewardRelease (at_ : Time) (imageValid selfTestOk keyStoreOk : Bool) (s : State) : Out :=
  .next (onDevZ (fun d => stewardRelease imageValid selfTestOk keyStoreOk (advance at_ d)) s)

/-! ### Wire tests and the test reset (R497) -/

/-- A source's wire driver is pulsed under FORCE; `moved`: the pulse reaches the collector, so that RAW_SEEN is set. -/
def wirePulse (source : Nat) (moved : Bool) (d : Dev) : Dev :=
  if !d.start.cold || !d.start.released || d.start.wiresDone || d.front.state != .boot then d
  else
    let d := forceSet source (modStart (fun s => { s with wireTest := true }) d)
    if moved then forceClear source (modSrc source (fun x => { x with rawSeen := true, held := (x.held ++ [0]).take 15 }) d)
    else modStart (fun s => { s with wireFail := s.wireFail ++ [source] }) (forceClear source d)

def execWireDriverPulse (at_ : Time) (source : Fin 768) (moved : Bool) (s : State) : Out :=
  .next (onDevZ (fun d => wirePulse source.val moved (advance at_ d)) s)

/-- The test reset: as power-on reset but for Geyser's reset domain and the EXPIRIES of instance 66 (R428); it clears every latched reaction. -/
def testReset (d : Dev) : Dev :=
  { powerOn d with
    geyser := d.geyser
    bonnet := { keptBonnet d.bonnet with bootWrapDrawn := true }
    watch := { uwd := if (uwdOf d 66).expiries = 0 then [] else [(66, { expiries := (uwdOf d 66).expiries })] }
    start := { wiresDone := true, wireFail := d.start.wireFail, booting := true, resetAt := d.geyser.now } }

/-- TEST_RESET follows the last wire test of a cold start. -/
def execTestReset (at_ : Time) (s : State) : Out :=
  let d := advance at_ s.dev
  .next (if d.start.cold && d.start.released && d.start.wireTest && d.front.state == .boot then
      { s with mem := {}, dev := testReset d }
    else onDev (advance at_) s)

/-! ### The end of the start-up tests (R496, R412, R369) -/

/-- The sources marked "CHIP_FAILED at the second event". -/
def secondEvent : List Nat := [734, 735, 738, 739, 755, 756]

/-- The cluster SRAM goes from CHECK to its normal modes (Table 20.6). -/
def sramModes (d : Dev) : Dev :=
  modCtl (fun m => { m with segs := kmapv (fun n g =>
    if n ≥ 12192 ∧ g.converting then { g with converting := false, mode := g.convertTo } else g) m.segs }) d

/-- The comparator tests of a start (R226, Table 20.4): PAIR_INJECT of every comparator holds the last comparison. What the other
tests leave in the injection registers the spec does not say: DESIGN CHOICE, nothing (notes/assumptions/49.md). -/
def comparatorTests (bad : List (Fin 66)) (d : Dev) : Dev :=
  (List.range 66).foldl (fun d n => if decide (n < 64) && isFenced d n then d else
    modInject n (afterTest !(bad.any (·.val == n))) d) d

/-- START_UP_TESTS_COMPLETE: cores that failed are fenced, CHIP_FAILED where a test or a second event brings it, otherwise
READY. At a cold start the Steward then takes commands. -/
def testsComplete (failed : W64) (comparators : List (Fin 66)) (bad : Bool) (d : Dev) : Dev :=
  if !d.start.released || (d.front.state != .boot && d.front.state != .chipFailed) || d.start.testsDone || (d.start.cold && !d.start.wiresDone) then d
  else
    let now := d.geyser.now
    let d := comparatorTests comparators d
    let out (n : Nat) : Bool := failed.getLsbD n || comparators.any (·.val == n)
    let d := (List.range 64).foldl (fun d n => if out n then fenceCore n d else d) d
    let second := secondEvent.any fun n => decide ((readCount now (srcOf d n)).count ≥ 2)
    let d := if bad || second || comparators.any (fun n => decide (64 ≤ n.val)) then chipFailed d else d
    let d := modStart (fun s => { s with
      testsDone := true
      resumed := s.cold
      serviceAt := if s.cold then now else s.serviceAt }) d
    if d.front.state = .chipFailed then d
    else
      let d := sramModes (modFront (fun f => { f with state := .ready }) d)
      modBonnet (fun b => { b with securityFuse := max b.securityFuse b.runningSecurity }) d

def execStartUpTestsComplete (at_ : Time) (failed : StartFailures) (chipFailed : Bool) (s : State) : Out :=
  .next (onDevZ (fun d => testsComplete failed.cores failed.comparators chipFailed (advance at_ d)) s)

/-! ### A warm reset (R490 to R492, Table 20.2) -/

/-- The force test in progress ends as every clear ends it; of what the held events cause, only counts, sticky bits, SEVERE and
a unit reset come about (R408). -/
def endForces (d : Dev) : Dev :=
  let held := (d.cal.src.filter fun e => e.2.force).map (·.1)
  held.foldl (fun d n =>
    let x := srcOf d n
    let l := heldEvents x
    let d := setSrc n { x with force := false, held := [], replayed := !l.isEmpty } d
    l.foldl (fun d ch =>
      let (y, severe) := countEvent d.geyser.now (srcOf d n)
      let d := setSrc n { y with severe := y.severe || severe } d
      if severe && y.mask / 4 % 2 == 1 then unitReset n ch d else d) d) d

/-- Gauntlet: ARMED and FORCED cleared, the pairs at (0, 0); queued messages are gone (R448, R457). -/
def resetGauntlet (d : Dev) : Dev :=
  let d := forceSafe d
  modGnt (fun g => { g with armed := false, forced := false, testPassed := false, readDiff := 0, readbackErr := 0, pulses := [] })
    d

/-- Caldera's reaction latches, and what origins had not delivered; ERR_N stays asserted until the first release after the start (Table 16.6). -/
def resetCaldera (cause : Nat) (d : Dev) : Dev :=
  let d := assertErrN d
  modCal (fun c => { c with
    src := kmapv (fun _ x => { x with waiting := [] }) c.src
    selfFault := false
    chipSafe := false
    safeOut := false
    selfDetected := false
    hold := false
    restarts := if cause = 3 ∨ cause = 4 then c.restarts ++ [d.geyser.now] else c.restarts }) d

/-- Cores keep FENCED, their mode and the counts of their error registers; processors the count of theirs. -/
def resetCores (d : Dev) : Dev :=
  let low (w : W32) : W32 := w &&& 0xFF
  { d with cores := { d.cores with
      core := kmapv (fun _ c => { fenced := c.fenced, split := c.split, debug := c.debug, engErr := low c.engErr,
                                  trapStatus := low c.trapStatus, pairErr := low c.pairErr }) d.cores.core
      proc := kmapv (fun _ p => { pairErr := low p.pairErr }) d.cores.proc
      signals := []
      dma := kmapv (fun _ c => { out := c.out }) d.cores.dma } }

/-- The instances 0 to 65 are HELD with configuration, lock, EXPIRIES and HARD; 66 is OFF with EXPIRIES; the device watchdog
enters RESTART; the monitors stop counting (R427, R428, R432, R439). -/
def resetWatch (d : Dev) : Dev :=
  let now := d.geyser.now
  let w := d.watch.dwd
  { d with watch := { d.watch with
      uwd := kmapv (fun n u =>
        if n = 66 then { expiries := u.expiries }
        else { state := if u.enabled then .held else .off, enabled := u.enabled, graceUs := u.graceUs,
               periodUs := u.periodUs, openUs := u.openUs, hard := u.hard, expiries := u.expiries }) d.watch.uwd
      dwd := if w.enabled ∧ w.state ≠ .expired then { w with state := .restart, last := now, next := 0x00005AA5 } else w
      monitors := kmapv (fun _ m => { m with suspended := true }) d.watch.monitors } }

/-- HBM keeps its contents, the codes and the page log; cluster SRAM restarts in CHECK mode (R302). MEM_ERR keeps its count of the
events since power-on reset (Table 11.8). -/
def resetMemctl (d : Dev) : Dev :=
  modCtl (fun m => { m with
    stops := (m.stops.map fun e => (e.1, ({ memErr := e.2.memErr &&& 0xFF } : MemStop))).filter fun e => e.2 != {}
    segs := kmapv (fun n g =>
      if n < 12192 then g
      else { g with mode := .check, converting := true, convertTo := if g.converting then g.convertTo else g.mode }) m.segs })
    d

/-- Cluster SRAM and local memory lose their contents. -/
def resetMem (m : Mem) : Mem :=
  { words := m.words.filter fun e => decide (e.1 < 0xBE800000)
    synd := m.synd.filter fun e => decide (e.1 < 0xBE800000)
    parity := m.parity.filter fun e => decide (e.1 < 0xBE80000)
    psynd := m.psynd.filter fun e => decide (e.1 < 0x17D0000) }

/-- Kernels, their queue, waiting requests and the levels of the buckets are lost; tables, partitions and settings stay. -/
def resetSched (d : Dev) : Dev :=
  let full (_ : Nat) (b : Bucket) : Bucket := { b with level := 4294967296 * b.depth, at_ := d.geyser.now, waited := false }
  modSched (fun s => { s with
    queue := [], golden := [], runs := [], hbm := kmapv full s.hbm, mesh := kmapv full s.mesh, deferred := [],
    requests := [], turn := [] }) d

/-- Geyser keeps time, increment, pulses and the PTP configuration; LOCKED becomes FREE_RUN (R381). -/
def resetGeyser (d : Dev) : Dev :=
  let port (_ : Nat) (p : PtpPort) : PtpPort := { state := if p.state = .disabled then .disabled else .listening, seqId := p.seqId }
  modGey (fun g => { g with
    state := if g.state = .locked then .freeRun else g.state
    ports := kmapv port g.ports
    master := 0xFF
    good := 0
    limitSince := none
    limitTold := false }) d

/-- The pace mode stays; gauges and the AVSBus state restart, the regulator keeps its target (R520, R535). -/
def resetPace (d : Dev) : Dev :=
  modPace (fun p => { p with gauges := [], testArmed := false, testCluster := 0, failures := 0, stopped := false, status := 0,
                             marginTold := false }) d

/-- Frames in assembly fail with cause TIMEOUT; their notices wait for the resumption (R538). -/
def resetFrames (d : Dev) : Dev :=
  d.streams.foldl (fun d e =>
    (e.2.frames.filter fun f => f.status == .assembling).foldl (fun d f => failFrame e.1 f.rtp f.capture .timeout d) d) d

/-- Unconfirmed sessions close (R360); commands whose journal record is not mirrored were never accepted and are gone; pair
keys are agreed anew. -/
def resetSessions (d : Dev) : Dev :=
  { d with
    sessions := d.sessions.filter fun e => e.1 == 0 || !e.2.isOpen || e.2.confirmed
    accepted := d.accepted.filter fun a => a.mirror.isNone
    fabric := { d.fabric with
      isolated := false
      frameSeq := 0
      sent := []
      outFrames := []
      members := kmapv (fun _ m => { m with pairKey := none, seen := [] }) d.fabric.members } }

/-- The mesh and the ports' buffers and queues hold nothing; of ports and slots only what Table 20.2 lists stays: roles, speeds,
bindings and the settings of the buckets, whose levels are lost (R302). Their counters are not listed (R492). -/
def resetLinks (d : Dev) : Dev :=
  { d with
    mesh := {}
    ports := kmapv (fun _ p => { role := p.role, speed := p.speed, link := p.link, groups := p.groups }) d.ports
    slots := kmapv (fun _ s => { requester := s.requester, uncheckedAt := d.geyser.now, ingressRate := s.ingressRate,
                                 ingressDepth := s.ingressDepth, ingressSet := s.ingressSet,
                                 ingressLevel := s.ingressDepth * sec 1, ingressAt := d.geyser.now }) d.slots }

/-- The DRBG is instantiated again, with its start-up tests (R371). -/
def resetDrbg (d : Dev) : Dev :=
  modBonnet (fun b => { b with drbgCalls := [0, 0], drbgReseed := [d.geyser.now, d.geyser.now], drbgStopped := false }) d

/-- DEVICE_STATE reads RESET and the boot sequencer runs; a device without a valid image stays in BOOT (R368). -/
def resetStart (cause source : Nat) (d : Dev) : Dev :=
  let d := modStart (fun s => { s with
    cold := false
    booting := true
    wireTest := false
    released := false
    testsDone := false
    resumed := false
    resetAt := d.geyser.now
    cause := cause
    causeSource := source
    commandedAt := none
    sweepStart := []
    sweepDone := [] }) d
  modFront (fun f => { state := if d.start.bootOk then .reset else .boot, warmCount := min (f.warmCount + 1) 65535,
                       hostDmaAddr := f.hostDmaAddr, hostDmaData := f.hostDmaData }) d

/-- An expiry of the device watchdog at the instant of a warm reset is handled as an expiry (R432). -/
def expiryFirst (d : Dev) : Dev :=
  let w := d.watch.dwd
  if (w.state = .running ∨ w.state = .restart) ∧ dwdEnd w ≤ d.geyser.now then dwdExpire .late (dwdEnd w) d else d

/-- The device's part of a warm reset. -/
def warmDev (cause source : Nat) (d : Dev) : Dev :=
  let d := abortChange 3 (withholdAll (endForces (expiryFirst d)))
  let d := resetFrames (resetStart cause source d)
  let d := resetCaldera cause (resetGauntlet d)
  let d := resetWatch (resetCores d)
  let d := resetSched (resetMemctl d)
  let d := resetPace (resetGeyser d)
  resetDrbg (resetLinks (resetSessions d))

/-- A warm reset now. None under PORST_N or after CHIP_FAILED, which only power-on reset ends (R412, R490); before the first
boot of a cold start there is nothing to restart. -/
def warmReset (cause source : Nat) (s : State) : State :=
  let d := s.dev
  if d.front.state = .chipFailed ∨ (d.front.state = .reset ∧ !d.start.booting) then s
  else { s with mem := resetMem s.mem, dev := warmDev cause source d }

/-! ### The events that bring a warm reset -/

def execWarmN (at_ : Time) (s : State) : Out := .next (warmReset 1 0xFFFF (onDev (advance at_) s))

/-- CHIP_SAFE_WARM_RESET: at most 100 µs after chip safe state latches. -/
def execChipSafeWarmReset (s : State) : Out :=
  .next (if s.dev.cal.chipSafe ∧ !s.dev.start.wireTest then
      warmReset 3 s.dev.cal.safeSource (onDev (advance (s.dev.cal.safeAt + us 100)) s)
    else s)

/-- SAFE_STATE_WARM_RESET: within 10 ms of SAFE_OUT; a third restart in 60 s is CHIP_FAILED instead. -/
def safeRestart (s : State) : State :=
  if s.dev.cal.safeOut ∧ !s.dev.cal.chipSafe ∧ !s.dev.start.wireTest then
    let s := onDev (advance (s.dev.cal.safeAt + ms 10)) s
    if recentRestarts s.dev ≥ 2 then onDev chipFailed s else warmReset 4 s.dev.cal.safeSource s
  else s

def execSafeStateWarmReset (s : State) : Out := .next (safeRestart s)

def execCommandedWarmReset (at_ : Time) (s : State) : Out :=
  let s := onDev (advance at_) s
  .next (if s.dev.start.commandedAt.isSome then warmReset 2 0xFFFF s else s)

/-- ISOLATION_WARM_RESET: 30 ms after the lease ended. -/
def execIsolationWarmReset (s : State) : Out :=
  .next (if s.dev.fabric.isolated then
      warmReset 5 0xFFFF (onDev (advance (s.dev.fabric.isolatedAt + ms 30)) s)
    else s)

/-! ### The resumption (R499, R326, R469, R439) -/

/-- The contexts of a device in a fabric run on no more here; commands for them end with DEVICE_FAILED (R469, R481). -/
def dropContexts (d : Dev) : Dev :=
  let d := d.contexts.foldl (fun d e => dropQueue e.2.evQueue (dropQueue e.2.chQueue (dropQueue e.2.vQueue d))) d
  { d with
    contexts := []
    accepted := d.accepted.map fun a =>
      if a.packet.opcode = 0x0306 ∨ a.packet.opcode = 0x0307 ∨ a.packet.opcode = 0x0308 then
        { a with loaded := true, outcome := some (cDeviceFailed, 0), due := d.geyser.now }
      else a
    fabric := { d.fabric with lease := d.geyser.now + ms 10 } }

/-- Every monitor starts a new sequence of windows (R439). -/
def resumeMonitors (d : Dev) : Dev :=
  { d with watch := { d.watch with monitors := kmapv (fun _ m => { m with
      start := d.geyser.now, index := 0, count := 0, suspended := false }) d.watch.monitors } }

/-- A core that holds no window is released (R427). -/
def releaseCores (d : Dev) : Dev :=
  (List.range 64).foldl (fun d n =>
    let windows := (kget [] d.sched.tables (n / 4)).any fun w => w.mask.testBit (n % 4)
    if windows || isFenced d n then d else releaseWd n d) d

/-- The rings, class 7, final replies and WITHHELD records; then the frame tables, notices and evidence. -/
def restartResume (d : Dev) : Dev :=
  if !d.start.testsDone || d.start.resumed || d.front.state == .reset then d
  else
    let d := restartAttn d.start.cause d.start.causeSource (recentRestarts d) d
    let d := resumeMonitors d
    let d := if inFabric d && d.front.state != .chipFailed then dropContexts d else d
    let d := modStart (fun s => { s with resumed := true, serviceAt := d.geyser.now }) d
    let d := { d with streams := kmapv (fun _ s => { s with lastValid := d.geyser.now }) d.streams }
    let d := if serving d then postWithheld d else d
    let d := if inFabric d || d.front.state == .chipFailed then d else recordWithheld d
    pump (serveRings (if serving d then releaseCores d else d))

def execRestartResume (at_ : Time) (s : State) : Out := .next (onDevA (fun d => restartResume (advance at_ d)) s)

end Sys2Proof.Machine
end

