-- ==== Sys2Proof/Machine/Board.lean ====
section
/-! DEFINITION. The PCIe link, the SMBus and the mesh links (22 R523 to R529, 05 R131). -/

namespace Sys2Proof.Machine

open Sys2Proof

def modBoard (f : Board → Board) (d : Dev) : Dev := { d with board := f d.board }

/-! ### PCIe (R527 to R529) -/

/-- PCIE_LINK_DOWN: the endpoint alone is reset; verdict rings count as full and host-side transfers stop (R529). -/
def execPcieLinkDown (at_ : Time) (s : State) : Out :=
  .next (onDev (fun d => modBoard (fun b => { b with linkUp := false }) (advance at_ d)) s)

/-- Held records of every context follow into their rings, and draining contexts may close. -/
def drainAllRecords (d : Dev) : Dev :=
  (d.contexts.map (·.1)).foldl (fun d k =>
    let c := BitVec.ofNat 32 k
    closeIfDrained c (drainRecords c (ctxOf d c).heldRecords.length d)) d

/-- PCIE_LINK_UP: the rings take records again. -/
def pcieUp (d : Dev) : Dev := drainAllRecords (modBoard (fun b => { b with linkUp := true }) d)

def execPcieLinkUp (at_ : Time) (s : State) : Out := .next (onDev (fun d => pcieUp (advance at_ d)) s)

/-- Partitions of the contexts bound to a subject slot. -/
def slotPartitions (d : Dev) : List Nat :=
  (d.contexts.map (·.2.partition)).foldl (fun l p => if l.contains p then l else l ++ [p]) []

/-- PCIE_LINK_RETRAIN: another rate or width while the link is up is an admission event (R528). -/
def retrain (gen width : Nat) (d : Dev) : Dev :=
  if !d.board.linkUp || (gen == d.board.gen && width == d.board.width) then modBoard (fun b => { b with gen := gen, width := width }) d
  else
    let d := raiseAttn 1 14 [] (modBoard (fun b => { b with gen := gen, width := width }) d)
    let ps := slotPartitions d
    modSched (fun s => { s with
      withdrawn := s.withdrawn ++ ps.filter fun p => !s.withdrawn.contains p
      readmit := s.readmit.or (some (4, 0xFF)) }) d

def execPcieLinkRetrain (at_ : Time) (gen width : Nat) (s : State) : Out :=
  .next (onDev (fun d => retrain gen width (advance at_ d)) s)

/-! ### SMBus (R523) -/

/-- SMBUS_TRANSACTION: a read; only the selected register pointer moves. -/
def execSmbusTransaction (at_ : Time) (pointer : Byte) (s : State) : Out :=
  .next (onDev (fun d => modBoard (fun b => { b with smbusPointer := pointer }) (advance at_ d)) s)

/-! ### The mesh (R127, R128, R131)

The links are numbered as R405 says: 3y + x from (x, y) to (x + 1, y), and 18 + 5x + y from (x, y) to (x, y + 1); stop (x, y) is
4y + x here. -/

/-- The two stops that a link joins; it carries packets from the first to the second, or back. -/
def linkEnds (l : Nat) : Nat × Nat :=
  if l < 18 then (4 * (l / 3) + l % 3, 4 * (l / 3) + l % 3 + 1)
  else (4 * ((l - 18) % 5) + (l - 18) / 5, 4 * ((l - 18) % 5) + (l - 18) / 5 + 4)

/-- The stop that a packet at `here` reaches next: along its row to the destination column, then along that column (R127). -/
def meshNext (here dest : Nat) : Nat :=
  if here % 4 < dest % 4 then here + 1
  else if dest % 4 < here % 4 then here - 1
  else if here < dest then here + 4
  else here - 4

/-- The link between two neighbouring stops. -/
def linkOf (a b : Nat) : Nat :=
  let lo := min a b
  if max a b = lo + 1 then 3 * (lo / 4) + lo % 4 else 18 + 5 * (lo % 4) + lo / 4

def classCode : MeshClass → Nat
  | .safety => 0
  | .response => 1
  | .request => 2

/-- The buffer of a link that holds the packets of a class on their way from `a` to `b`. -/
def bufferKey (a b : Nat) (c : MeshClass) : Nat := (2 * linkOf a b + if a < b then 0 else 1) * 3 + classCode c

/-- A packet stands at a stop: it has arrived, or it waits for the next link of its route. -/
def meshPut (here : Nat) (p : MeshPacket) (m : Mesh) : Mesh :=
  if here = p.dest.val then { m with delivered := kmod [] m.delivered here (· ++ [p]) }
  else { m with buffers := kmod [] m.buffers (bufferKey here (meshNext here p.dest.val) p.cls) (· ++ [p]) }

/-- The packet that the arbiter of a link lets pass: safety traffic before responses, responses before requests, each class in
its order (R127, R128). -/
def meshTake (a b : Nat) (m : Mesh) : Option (MeshPacket × Mesh) :=
  [MeshClass.safety, MeshClass.response, MeshClass.request].findSome? fun c =>
    match kget [] m.buffers (bufferKey a b c) with
    | [] => none
    | p :: rest => some (p, { m with buffers := kset [] m.buffers (bufferKey a b c) rest })

/-- The stop at a link's near end has sent packets of its own units that leave over this link. -/
def meshSend (a b : Nat) (sent : List MeshPacket) (m : Mesh) : Mesh :=
  (sent.filter fun p => p.source.val == a && p.dest.val != a && meshNext a p.dest.val == b).foldl (fun m p => meshPut a p m) m

/-- MESH_PACKET_RECEIVE: the next packet crosses the link. Each failed header CRC counts on the link's source; the link
retransmits once, and a failed retransmission is CHIP_FAILED. -/
def meshPacket (link : Nat) (back : Bool) (sent : List MeshPacket) (crcOk retryOk : Bool) (d : Dev) : Dev :=
  let (x, y) := linkEnds link
  let a := if back then y else x
  let b := if back then x else y
  match meshTake a b (meshSend a b sent d.mesh) with
  | none => d
  | some (p, m) =>
    let arrive (d : Dev) : Dev := { d with mesh := meshPut b p m }
    if crcOk then arrive d
    else if retryOk then signal (696 + link) (arrive d)
    else chipFailed (signal (696 + link) (signal (696 + link) { d with mesh := m }))

def execMeshPacketReceive (at_ : Time) (way : MeshWay) (sent : List MeshPacket) (crc : MeshCrc) (s : State) : Out :=
  .next (onDevZ (fun d => pump (meshPacket way.link.val way.back sent crc.ok crc.retryOk (advance at_ d))) s)

end Sys2Proof.Machine
end

