-- ==== Sys2Proof/Machine/RegisterOps.lean ====
section
/-! DEFINITION. Writes to registers by their access codes (00 R5, R6, Table 0.1), and to BAR0 (12 R303, R304). RO fields and
reserved ranges discard a write; W1C clears the bits written with 1; an RWL register takes its first write only. A WO bit
brings its action, on hardware that works. -/

namespace Sys2Proof.Machine

open Sys2Proof

/-! ### Registers of cores and processors -/

/-- ENG_ERR, TRAP_STATUS with TRAP_ADDR, PAIR_ERR with PAIR_LOC, and MEM_ERR with MEM_ERR_ADDR (R180, R210, R232, R300). -/
def writeEngErr (core : Fin 64) (v : W64) (d : Dev) : Dev :=
  modCore core.val (fun c => { c with engErr := (writeCapture (.engErr core) c.engErr 0 v d).1 }) d
def writeTrapStatus (core : Fin 64) (v : W64) (d : Dev) : Dev :=
  modCore core.val (fun c =>
    let (w, a) := writeCapture (.trapStatus core) c.trapStatus c.trapAddr v d
    { c with trapStatus := w, trapAddr := a }) d
def writePairErr (unit : Fin 66) (v : W64) (d : Dev) : Dev :=
  if unit.val < 64 then
    modCore unit.val (fun c =>
      let (w, a) := writeCapture (.pairErr unit) c.pairErr c.pairLoc v d
      { c with pairErr := w, pairLoc := a }) d
  else modProc (unit.val - 64) (fun c => { c with pairErr := (writeCapture (.pairErr unit) c.pairErr 0 v d).1 }) d
def writeMemErr (stop : Fin 21) (v : W64) (d : Dev) : Dev :=
  modStop stop.val (fun x =>
    let (w, a) := writeCapture (.memErr stop) x.memErr (BitVec.ofNat 64 x.memErrAddr) v d
    { x with memErr := w, memErrAddr := a.toNat }) d

/-! ### Segments, buckets, DMA, memory stops -/

def writeSegTag (segment v : Nat) (d : Dev) : Dev :=
  modSeg segment (fun g => { g with
    readMask := BitVec.ofNat 16 (v / 2 ^ 16)
    valid := v.testBit 7
    device := v.testBit 6
    owner := v % 16 }) d

/-- HBM_BUCKET and MESH_BUCKET: rate and depth; WAITED of the STAT word is W1C. -/
def writeBucket (hbm : Bool) (stop bucket v : Nat) (d : Dev) : Dev :=
  let f := setBucket d.geyser.now (v / 65536 % 65536) (v % 65536)
  modSched (fun s =>
    if hbm then { s with hbm := kmod {} s.hbm (stop * 32 + bucket) f }
    else { s with mesh := kmod {} s.mesh (stop * 32 + bucket) f }) d
def writeBucketStat (hbm : Bool) (stop bucket v : Nat) (d : Dev) : Dev :=
  let f (b : Bucket) : Bucket := { b with waited := w1c b.waited v 31 }
  modSched (fun s =>
    if hbm then { s with hbm := kmod {} s.hbm (stop * 32 + bucket) f }
    else { s with mesh := kmod {} s.mesh (stop * 32 + bucket) f }) d

def writeDmaHalt (channel v : Nat) (d : Dev) : Dev :=
  if v.testBit 30 then
    modDma channel (fun c =>
      if c.halted then { c with halted := false, reason := 0, partition := 0, linesDone := 0, haltAddr := 0 } else c) d
  else d

/-- FUM_CTRL: the pass period in seconds, 10 to 600 (R292). -/
def writeFumCtrl (v : Nat) (d : Dev) : Dev := if 10 ≤ v ∧ v ≤ 600 then modCtl (fun m => { m with passSec := v }) d else d

/-! ### Caldera -/

/-- CAL_STICKY word: a set in the same instant wins, so that a source whose condition lasts stays set. -/
def writeSticky (word v : Nat) (d : Dev) : Dev :=
  errUpdate (modCal (fun c => { c with src := kmapv (fun n x =>
    if n / 32 = word then { x with sticky := x.sticky && (!v.testBit (n % 32) || x.asserted.isSome) } else x) c.src }) d)

/-- CAL_SRC: FORCE, and the W1C bits. -/
def writeCalSrc (n v : Nat) (d : Dev) : Dev :=
  let d := modSrc n (fun x => { x with
    severe := w1c x.severe v 31
    wire := w1c x.wire v 30
    overrun := w1c x.overrun v 25 }) d
  if v.testBit 29 then forceSet n d else pump (forceClear n d)

/-- CAL_CFG: the fields of a fixed source are RO (Table 16.4, R146). -/
def writeCalCfg (n v : Nat) (d : Dev) : Dev :=
  errUpdate <| modSrc n (fun x => { x with
    cls := if x.fixed then x.cls else v / 2 ^ 45 % 2
    mask := if x.fixed then x.mask else v / 2 ^ 40 % 32
    n := if x.fixed then x.n else v / 2 ^ 32 % 256
    w := if x.fixed then x.w else v % 2 ^ 26 }) d

/-- CAL_REACT: SELF_TEST, HOLD, RELEASE. -/
def writeCalReact (v : Nat) (d : Dev) : Dev :=
  let d := if v.testBit 25 then calSelfTest false d else d
  let d := if v.testBit 23 then holdErrN d else if d.cal.hold then releaseHold d else d
  if v.testBit 26 then calRelease d else d

/-! ### Time, pulses, watchdogs, Gauntlet, pace -/

/-- GEY_CTRL: STATE takes a code that is not reserved. -/
def writeGeyCtrl (v : Nat) (d : Dev) : Dev :=
  modGey (fun g => { g with
    state := match v / 2 ^ 30 % 4 with | 0 => .unlocked | 1 => .locked | 2 => .freeRun | _ => g.state
    clamped := w1c g.clamped v 29
    stepRefused := w1c g.stepRefused v 28
    stepped := w1c g.stepped v 27 }) d

def writePulseCtrl (n v : Nat) (d : Dev) : Dev :=
  modPulse n (fun p => { p with
    mode := if v / 2 ^ 29 % 4 = 3 then p.mode else v / 2 ^ 29 % 4
    stopped := w1c p.stopped v 28 }) d

def writeUwdStatus (n v : Nat) (d : Dev) : Dev :=
  modUwd n (fun w => { w with
    expired := w1c w.expired v 29
    early := w1c w.early v 28
    hard := w1c w.hard v 27
    cfgErr := w1c w.cfgErr v 26 }) d

/-- DWD_CFG: the first write enables and locks (Table 17.7); one with a field outside its range is ignored (R422, R429). -/
def writeDwdCfg (v : Nat) (d : Dev) : Dev :=
  modDwd (fun w =>
    let p := v / 2 ^ 24 % 2 ^ 24
    let o := v % 2 ^ 24
    if w.enabled || !decide (1000 ≤ p ∧ p ≤ 10000000 ∧ 1 ≤ o ∧ o + 500 ≤ p) then w
    else { w with enabled := true, state := .running, periodUs := v / 2 ^ 24 % 2 ^ 24, openUs := v % 2 ^ 24,
                  last := d.geyser.now, next := 0x00005AA5 }) d

def writeGaugeStatus (c v : Nat) (d : Dev) : Dev :=
  modGauge c (fun g => { g with below := w1c g.below v 30, disagree := w1c g.disagree v 29 }) d
def writeGaugeCtrl (v : Nat) (d : Dev) : Dev :=
  let d := modPace (fun p => { p with testCluster := v / 2 ^ 16 % 16, testArmed := p.testArmed || v.testBit 30 }) d
  if v.testBit 31 then rearm d else d

/-- CVU_ALIVE: the slot addressed, and its next alive counter (Table 18.5). -/
def writeCvuAlive (v : Nat) (d : Dev) : Dev :=
  let slot := v / 65536 % 65536
  let next := v % 65536
  let d := modGnt (fun g => { g with cvuSlot := slot, cvuNext := kset 0 g.cvuNext slot next }) d
  { d with contexts := kmapv (fun _ x => if cvuSlotOf x = slot then { x with alive := next } else x) d.contexts }

/-! ### BAR0 (Tables 12.1 to 12.3, 12.6) -/

/-- Bytes written to the mailbox packet area, discarded while BUSY is 1 (R304). -/
def writeArea (offset size v : Nat) (d : Dev) : Dev :=
  if d.front.mboxBusy then d
  else modFront (fun f => { f with
    mboxArea := (List.range size).foldl (fun a i => kset 0 a (offset - 0x100 + i) (BitVec.ofNat 8 (v / 256 ^ i))) f.mboxArea }) d

/-- A doorbell that is written here: the consumed sequence of a REPLY or VERDICT queue. A COMMAND doorbell publishes packets
and comes by its own command. -/
def writeDoorbell (q v : Nat) (d : Dev) : Dev :=
  match (queueOf d q).kind with
  | 1 => d
  | 2 => replyDoorbell q v d
  | 5 => verdictDoorbell q v d
  | _ => doorbellFault q d

def writeBar0 (offset size v : Nat) (d : Dev) : Dev :=
  if 0x100 ≤ offset ∧ offset + size ≤ 0x1000 then writeArea offset (min size 8) v d
  else if 0x1000000 ≤ offset ∧ offset < 0x1800000 ∧ size = 8 ∧ offset % 8 = 0 then writeDoorbell ((offset - 0x1000000) / 8) v d
  else d

/-! ### REGISTER_WRITE -/

/-- A write of `v` to a register: its effect on the device. -/
def writeReg (r : Reg) (value : W64) (d : Dev) : Dev :=
  let v := lessHwSets r value d
  let n := v.toNat
  let w : W32 := v.setWidth 32
  match r with
  | .floorFuse => d
  | .gaugeCount _ => d
  | .gaugeStatus c => writeGaugeStatus c.val n d
  | .gaugeCtrl => writeGaugeCtrl n d
  | .engErr c => writeEngErr c value d
  | .engInject c => writeEngInject c.val w d
  | .trapStatus c => writeTrapStatus c value d
  | .trapAddr _ => d
  | .pairErr u => writePairErr u value d
  | .pairLoc _ => d
  | .pairInject u => pairInject u.val w true false d
  | .coreMode _ => d
  | .segTag g => writeSegTag g n d
  | .hbmBucket s b => writeBucket true s.val b.val n d
  | .hbmBucketStat s b => writeBucketStat true s.val b.val n d
  | .meshBucket s b => writeBucket false s.val b.val n d
  | .meshBucketStat s b => writeBucketStat false s.val b.val n d
  | .dmaHalt c => writeDmaHalt c.val n d
  | .memErr s => writeMemErr s value d
  | .memInject _ => d
  | .memInjectAddr s => modStop s.val (fun x => { x with injectAddr := n % 2 ^ 48 }) d
  | .fumCtrl => writeFumCtrl n d
  | .calSticky k => writeSticky k.val n d
  | .calSrc s => writeCalSrc s.val n d
  | .calCfg s => writeCalCfg s.val n d
  | .calReact => writeCalReact n d
  | .dmaFault _ => d
  | .geyCtrl => writeGeyCtrl n d
  | .pulseCtrl o => writePulseCtrl o.val n d
  | .txqStatus p => modPort p.val (fun x => { x with txqOverflow := w1c x.txqOverflow n 31 }) d
  | .uwdStatus u => writeUwdStatus u.val n d
  | .dwdCfg => writeDwdCfg n d
  | .dwdStatus => d
  | .gntStatus => modGnt (fun g => { g with readbackErr := g.readbackErr &&& ~~~(v.setWidth 4) }) d
  | .cvuAlive => writeCvuAlive n d
  | .cvuCtrl => if n.testBit 31 then cvuInject true d else d
  | .startStatus => d
  | .bar0 requester offset size => fromHost requester (writeBar0 offset size n) d

/-- The register, and for MEM_INJECT the memory that its injection changes. -/
def registerWrite (r : Reg) (v : W64) (s : State) : State :=
  match r with
  | .memInject stop => memInject stop.val (v.toNat % 2 ^ 32) s
  | _ => onDevZ (writeReg r v) s

def execRegisterWrite (at_ : Time) (r : Reg) (value : W64) (s : State) : Out :=
  .next (registerWrite r value (onDev (advance at_) s))

end Sys2Proof.Machine
end

