-- ==== Sys2Proof/Machine/Dispatch.lean ====
section
/-! DEFINITION. The dispatch: one arm per command, each one direct call of its meaning. -/

namespace Sys2Proof.Machine

open Sys2Proof

def exec (i : Instr) (s : State) : Host.Outcome State Fault Refusal :=
  match i with
  | .pad at_ queue => Sys2Proof.Machine.execPad at_ queue s
  | .deviceInfo at_ path p => Sys2Proof.Machine.execDeviceInfo at_ path p s
  | .ringPairOpen at_ path p => Sys2Proof.Machine.execRingPairOpen at_ path p s
  | .ringPairClose at_ path p => Sys2Proof.Machine.execRingPairClose at_ path p s
  | .sessionOpen at_ path p => Sys2Proof.Machine.execSessionOpen at_ path p s
  | .sessionClose at_ path p => Sys2Proof.Machine.execSessionClose at_ path p s
  | .keyEnrol at_ path p => Sys2Proof.Machine.execKeyEnrol at_ path p s
  | .keyRevoke at_ path p => Sys2Proof.Machine.execKeyRevoke at_ path p s
  | .attest at_ path p => Sys2Proof.Machine.execAttest at_ path p s
  | .attnRead at_ path p => Sys2Proof.Machine.execAttnRead at_ path p s
  | .attnAck at_ path p => Sys2Proof.Machine.execAttnAck at_ path p s
  | .planLoad at_ path p => Sys2Proof.Machine.execPlanLoad at_ path p s
  | .planUnload at_ path p => Sys2Proof.Machine.execPlanUnload at_ path p s
  | .weightLoad at_ path p => Sys2Proof.Machine.execWeightLoad at_ path p s
  | .partitionSet at_ path p => Sys2Proof.Machine.execPartitionSet at_ path p s
  | .coreModeSet at_ path p => Sys2Proof.Machine.execCoreModeSet at_ path p s
  | .planSwap at_ path p => Sys2Proof.Machine.execPlanSwap at_ path p s
  | .subjectRegister at_ path p => Sys2Proof.Machine.execSubjectRegister at_ path p s
  | .subjectRelease at_ path p => Sys2Proof.Machine.execSubjectRelease at_ path p s
  | .portRoleSet at_ path p => Sys2Proof.Machine.execPortRoleSet at_ path p s
  | .tapStreamOpen at_ path p => Sys2Proof.Machine.execTapStreamOpen at_ path p s
  | .tapStreamClose at_ path p => Sys2Proof.Machine.execTapStreamClose at_ path p s
  | .contextOpen at_ path p => Sys2Proof.Machine.execContextOpen at_ path p s
  | .contextClose at_ path p => Sys2Proof.Machine.execContextClose at_ path p s
  | .contextResume at_ path p => Sys2Proof.Machine.execContextResume at_ path p s
  | .contextStatus at_ path p => Sys2Proof.Machine.execContextStatus at_ path p s
  | .timeRead at_ path p => Sys2Proof.Machine.execTimeRead at_ path p s
  | .timeStatus at_ path p => Sys2Proof.Machine.execTimeStatus at_ path p s
  | .timeSet at_ path p => Sys2Proof.Machine.execTimeSet at_ path p s
  | .ptpConfig at_ path p => Sys2Proof.Machine.execPtpConfig at_ path p s
  | .pulseSet at_ path p => Sys2Proof.Machine.execPulseSet at_ path p s
  | .pulseStop at_ path p => Sys2Proof.Machine.execPulseStop at_ path p s
  | .diagRead at_ path p => Sys2Proof.Machine.execDiagRead at_ path p s
  | .faultConfig at_ path p => Sys2Proof.Machine.execFaultConfig at_ path p s
  | .faultTest at_ path p => Sys2Proof.Machine.execFaultTest at_ path p s
  | .hold at_ path p => Sys2Proof.Machine.execHold at_ path p s
  | .releaseHold at_ path p => Sys2Proof.Machine.execReleaseHold at_ path p s
  | .watchdogSet at_ path p => Sys2Proof.Machine.execWatchdogSet at_ path p s
  | .monitorSet at_ path p => Sys2Proof.Machine.execMonitorSet at_ path p s
  | .checkin at_ path p => Sys2Proof.Machine.execCheckin at_ path p s
  | .scrubPeriod at_ path p => Sys2Proof.Machine.execScrubPeriod at_ path p s
  | .fabricJoin at_ path p => Sys2Proof.Machine.execFabricJoin at_ path p s
  | .fabricLeave at_ path p => Sys2Proof.Machine.execFabricLeave at_ path p s
  | .contextRemap at_ path p => Sys2Proof.Machine.execContextRemap at_ path p s
  | .fabricStatus at_ path p => Sys2Proof.Machine.execFabricStatus at_ path p s
  | .paceConfig at_ path p => Sys2Proof.Machine.execPaceConfig at_ path p s
  | .firmwareStage at_ path p => Sys2Proof.Machine.execFirmwareStage at_ path p s
  | .warmReset at_ path p => Sys2Proof.Machine.execWarmReset at_ path p s
  | .fieldLock at_ path p => Sys2Proof.Machine.execFieldLock at_ path p s
  | .commandDoorbell at_ requester queue w packets => Sys2Proof.Machine.execCommandDoorbell at_ requester queue w packets s
  | .replyDoorbell at_ requester queue w => Sys2Proof.Machine.execReplyDoorbell at_ requester queue w s
  | .verdictDoorbell at_ requester queue w => Sys2Proof.Machine.execVerdictDoorbell at_ requester queue w s
  | .mboxGo at_ requester p => Sys2Proof.Machine.execMboxGo at_ requester p s
  | .commandFinalReply at_ session counter => Sys2Proof.Machine.execCommandFinalReply at_ session counter s
  | .bulkTransferComplete at_ session counter obj crcFailures => Sys2Proof.Machine.execBulkTransferComplete at_ session counter obj crcFailures s
  | .segmentConversionComplete at_ segment => Sys2Proof.Machine.execSegmentConversionComplete at_ segment s
  | .admissionCommit partition => Sys2Proof.Machine.execAdmissionCommit partition s
  | .contextActivation context => Sys2Proof.Machine.execContextActivation context s
  | .unitPrepareAck at_ unit comparatorOk => Sys2Proof.Machine.execUnitPrepareAck at_ unit comparatorOk s
  | .prepareTimeout => Sys2Proof.Machine.execPrepareTimeout  s
  | .changeCommit applied => Sys2Proof.Machine.execChangeCommit applied s
  | .changeApplyDeadline => Sys2Proof.Machine.execChangeApplyDeadline  s
  | .changeDone => Sys2Proof.Machine.execChangeDone  s
  | .readmission at_ => Sys2Proof.Machine.execReadmission at_ s
  | .bar2Write at_ requester offset w form => Sys2Proof.Machine.execBar2Write at_ requester offset w form s
  | .evidenceProducerUpdate at_ requester context value size form => Sys2Proof.Machine.execEvidenceProducerUpdate at_ requester context value size form s
  | .commit at_ queue r => Sys2Proof.Machine.execCommit at_ queue r s
  | .crcList at_ queue r => Sys2Proof.Machine.execCrcList at_ queue r s
  | .opening at_ queue r => Sys2Proof.Machine.execOpening at_ queue r s
  | .depTile at_ queue r => Sys2Proof.Machine.execDepTile at_ queue r s
  | .tensor at_ queue r => Sys2Proof.Machine.execTensor at_ queue r s
  | .abandon at_ queue r => Sys2Proof.Machine.execAbandon at_ queue r s
  | .evidencePad at_ queue type r => Sys2Proof.Machine.execEvidencePad at_ queue type r s
  | .challengeConsumerWrite at_ requester context value => Sys2Proof.Machine.execChallengeConsumerWrite at_ requester context value s
  | .subjectCheckin at_ requester slot offset value => Sys2Proof.Machine.execSubjectCheckin at_ requester slot offset value s
  | .openingWindowClose context seq layer => Sys2Proof.Machine.execOpeningWindowClose context seq layer s
  | .deadlineExpiry context seq => Sys2Proof.Machine.execDeadlineExpiry context seq s
  | .kernelComplete at_ core upset => Sys2Proof.Machine.execKernelComplete at_ core upset s
  | .frameTableWindowStart cluster window frame => Sys2Proof.Machine.execFrameTableWindowStart cluster window frame s
  | .windowClose cluster core => Sys2Proof.Machine.execWindowClose cluster core s
  | .coreIssue at_ core slot first others => Sys2Proof.Machine.execCoreIssue at_ core slot first others s
  | .kernelRerun at_ core => Sys2Proof.Machine.execKernelRerun at_ core s
  | .engineOperationEnd at_ core engine during atDrain => Sys2Proof.Machine.execEngineOperationEnd at_ core engine during atDrain s
  | .signatureCompare at_ unit group bundle window upset railViolation => Sys2Proof.Machine.execSignatureCompare at_ unit group bundle window upset railViolation s
  | .signalPost at_ core slot obj n => Sys2Proof.Machine.execSignalPost at_ core slot obj n s
  | .signalWait at_ core slot obj n => Sys2Proof.Machine.execSignalWait at_ core slot obj n s
  | .signalTest at_ core slot obj dst => Sys2Proof.Machine.execSignalTest at_ core slot obj dst s
  | .dmaComplete at_ channel => Sys2Proof.Machine.execDmaComplete at_ channel s
  | .dmaHaltRestart at_ channel => Sys2Proof.Machine.execDmaHaltRestart at_ channel s
  | .memoryRead at_ who line off => Sys2Proof.Machine.execMemoryRead at_ who line off s
  | .memoryWrite at_ who line off data => Sys2Proof.Machine.execMemoryWrite at_ who line off data s
  | .meshPacketReceive at_ way sent crc => Sys2Proof.Machine.execMeshPacketReceive at_ way sent crc s
  | .scrubPage at_ page => Sys2Proof.Machine.execScrubPage at_ page s
  | .scrubVerifyRead word => Sys2Proof.Machine.execScrubVerifyRead word s
  | .relocationComplete at_ segment => Sys2Proof.Machine.execRelocationComplete at_ segment s
  | .fumaroleLate stop => Sys2Proof.Machine.execFumaroleLate stop s
  | .segModeWrite at_ segment mode => Sys2Proof.Machine.execSegModeWrite at_ segment mode s
  | .tapPacket at_ port p => Sys2Proof.Machine.execTapPacket at_ port p s
  | .frameDigestComplete at_ stream rtp => Sys2Proof.Machine.execFrameDigestComplete at_ stream rtp s
  | .assemblyTimeout stream rtp => Sys2Proof.Machine.execAssemblyTimeout stream rtp s
  | .slotRelease stream rtp => Sys2Proof.Machine.execSlotRelease stream rtp s
  | .streamSilence stream => Sys2Proof.Machine.execStreamSilence stream s
  | .unclaimedFrame context capture => Sys2Proof.Machine.execUnclaimedFrame context capture s
  | .ethFrameReceive at_ port size fcsOk drained => Sys2Proof.Machine.execEthFrameReceive at_ port size fcsOk drained s
  | .ethLinkDown at_ port => Sys2Proof.Machine.execEthLinkDown at_ port s
  | .ethLinkUp at_ port => Sys2Proof.Machine.execEthLinkUp at_ port s
  | .segmentTransmit at_ port => Sys2Proof.Machine.execSegmentTransmit at_ port s
  | .ptpSync at_ port m => Sys2Proof.Machine.execPtpSync at_ port m s
  | .ptpFollowUp at_ port m => Sys2Proof.Machine.execPtpFollowUp at_ port m s
  | .ptpDelayReq at_ port m => Sys2Proof.Machine.execPtpDelayReq at_ port m s
  | .ptpDelayResp at_ port m => Sys2Proof.Machine.execPtpDelayResp at_ port m s
  | .ptpPdelayReq at_ port m => Sys2Proof.Machine.execPtpPdelayReq at_ port m s
  | .ptpPdelayResp at_ port m => Sys2Proof.Machine.execPtpPdelayResp at_ port m s
  | .ptpPdelayRespFollowUp at_ port m => Sys2Proof.Machine.execPtpPdelayRespFollowUp at_ port m s
  | .ptpAnnounce at_ port m a => Sys2Proof.Machine.execPtpAnnounce at_ port m a s
  | .ptpManagement at_ port => Sys2Proof.Machine.execPtpManagement at_ port s
  | .announceReceiptTimeout port => Sys2Proof.Machine.execAnnounceReceiptTimeout port s
  | .ptpMessageSend at_ port messageType => Sys2Proof.Machine.execPtpMessageSend at_ port messageType s
  | .txTimestamp at_ port messageType ident => Sys2Proof.Machine.execTxTimestamp at_ port messageType ident s
  | .txqEntryRead at_ port => Sys2Proof.Machine.execTxqEntryRead at_ port s
  | .ppsIn at_ => Sys2Proof.Machine.execPpsIn at_ s
  | .ppsInMissing at_ => Sys2Proof.Machine.execPpsInMissing at_ s
  | .servoLimitHold at_ => Sys2Proof.Machine.execServoLimitHold at_ s
  | .geyIncrWrite at_ value => Sys2Proof.Machine.execGeyIncrWrite at_ value s
  | .geyStepWrite at_ stepNs stepFrac => Sys2Proof.Machine.execGeyStepWrite at_ stepNs stepFrac s
  | .pulseOccurrence output => Sys2Proof.Machine.execPulseOccurrence output s
  | .pulseFall output => Sys2Proof.Machine.execPulseFall output s
  | .ppsOut rise => Sys2Proof.Machine.execPpsOut rise s
  | .refclkFault at_ => Sys2Proof.Machine.execRefclkFault at_ s
  | .sourceEvent at_ source channel lasting pending => Sys2Proof.Machine.execSourceEvent at_ source channel lasting pending s
  | .railDisagreement at_ wire => Sys2Proof.Machine.execRailDisagreement at_ wire s
  | .lastingConditionRepeat source => Sys2Proof.Machine.execLastingConditionRepeat source s
  | .calRaise at_ value => Sys2Proof.Machine.execCalRaise at_ value s
  | .calForceSet at_ source => Sys2Proof.Machine.execCalForceSet at_ source s
  | .calForceClear at_ source => Sys2Proof.Machine.execCalForceClear at_ source s
  | .forceExpiry => Sys2Proof.Machine.execForceExpiry  s
  | .calRelease at_ => Sys2Proof.Machine.execCalRelease at_ s
  | .errNMinimumEnd => Sys2Proof.Machine.execErrNMinimumEnd  s
  | .calSelfTest at_ fault => Sys2Proof.Machine.execCalSelfTest at_ fault s
  | .vcoreComparator at_ cluster high => Sys2Proof.Machine.execVcoreComparator at_ cluster high s
  | .gaugeWindowEnd at_ cluster countA countB => Sys2Proof.Machine.execGaugeWindowEnd at_ cluster countA countB s
  | .minRearm at_ => Sys2Proof.Machine.execMinRearm at_ s
  | .testArm at_ cluster => Sys2Proof.Machine.execTestArm at_ cluster s
  | .trackAdjust => Sys2Proof.Machine.execTrackAdjust  s
  | .avsbusTransactionEnd at_ error readback status statusFault => Sys2Proof.Machine.execAvsbusTransactionEnd at_ error readback status statusFault s
  | .engInjectArm at_ core value => Sys2Proof.Machine.execEngInjectArm at_ core value s
  | .pairInjectArm at_ unit value upset => Sys2Proof.Machine.execPairInjectArm at_ unit value upset s
  | .memInjectArm at_ stop value => Sys2Proof.Machine.execMemInjectArm at_ stop value s
  | .cvuInject at_ working => Sys2Proof.Machine.execCvuInject at_ working s
  | .forceTest at_ pins => Sys2Proof.Machine.execForceTest at_ pins s
  | .gntArm at_ => Sys2Proof.Machine.execGntArm at_ s
  | .safeTestPulse at_ pair pin followed => Sys2Proof.Machine.execSafeTestPulse at_ pair pin followed s
  | .safeReadbackCheck at_ pair pin level => Sys2Proof.Machine.execSafeReadbackCheck at_ pair pin level s
  | .uwdCfgWrite at_ unit value => Sys2Proof.Machine.execUwdCfgWrite at_ unit value s
  | .uwdService at_ unit => Sys2Proof.Machine.execUwdService at_ unit s
  | .uwdTestDone at_ => Sys2Proof.Machine.execUwdTestDone at_ s
  | .sequencerService at_ core answered => Sys2Proof.Machine.execSequencerService at_ core answered s
  | .uwdExpiry unit => Sys2Proof.Machine.execUwdExpiry unit s
  | .unitAcknowledge at_ unit => Sys2Proof.Machine.execUnitAcknowledge at_ unit s
  | .graceExpiry unit => Sys2Proof.Machine.execGraceExpiry unit s
  | .dwdService at_ value => Sys2Proof.Machine.execDwdService at_ value s
  | .dwdExpiry => Sys2Proof.Machine.execDwdExpiry  s
  | .pwrCutRelease => Sys2Proof.Machine.execPwrCutRelease  s
  | .monitorWindowClose monitor => Sys2Proof.Machine.execMonitorWindowClose monitor s
  | .selftestSlice at_ slice unit passed => Sys2Proof.Machine.execSelftestSlice at_ slice unit passed s
  | .sweepIntervalExpiry unit => Sys2Proof.Machine.execSweepIntervalExpiry unit s
  | .drbgReseed at_ which => Sys2Proof.Machine.execDrbgReseed at_ which s
  | .sessionConfirmTimeout session => Sys2Proof.Machine.execSessionConfirmTimeout session s
  | .porstNAssert at_ => Sys2Proof.Machine.execPorstNAssert at_ s
  | .porstNRelease at_ slotsValid versionA versionB => Sys2Proof.Machine.execPorstNRelease at_ slotsValid versionA versionB s
  | .warmN at_ => Sys2Proof.Machine.execWarmN at_ s
  | .chipSafeWarmReset => Sys2Proof.Machine.execChipSafeWarmReset  s
  | .safeStateWarmReset => Sys2Proof.Machine.execSafeStateWarmReset  s
  | .commandedWarmReset at_ => Sys2Proof.Machine.execCommandedWarmReset at_ s
  | .isolationWarmReset => Sys2Proof.Machine.execIsolationWarmReset  s
  | .stewardRelease at_ imageValid selfTestOk keyStoreOk => Sys2Proof.Machine.execStewardRelease at_ imageValid selfTestOk keyStoreOk s
  | .wireDriverPulse at_ source moved => Sys2Proof.Machine.execWireDriverPulse at_ source moved s
  | .testReset at_ => Sys2Proof.Machine.execTestReset at_ s
  | .startUpTestsComplete at_ failed chipFailed => Sys2Proof.Machine.execStartUpTestsComplete at_ failed chipFailed s
  | .restartResume at_ => Sys2Proof.Machine.execRestartResume at_ s
  | .pcieLinkDown at_ => Sys2Proof.Machine.execPcieLinkDown at_ s
  | .pcieLinkUp at_ => Sys2Proof.Machine.execPcieLinkUp at_ s
  | .pcieLinkRetrain at_ gen width => Sys2Proof.Machine.execPcieLinkRetrain at_ gen width s
  | .smbusTransaction at_ pointer => Sys2Proof.Machine.execSmbusTransaction at_ pointer s
  | .debugAttachCore at_ core => Sys2Proof.Machine.execDebugAttachCore at_ core s
  | .debugAttachSteward at_ processor => Sys2Proof.Machine.execDebugAttachSteward at_ processor s
  | .heartbeatSend => Sys2Proof.Machine.execHeartbeatSend  s
  | .heartbeat at_ h role managerInstant flags forwarded => Sys2Proof.Machine.execHeartbeat at_ h role managerInstant flags forwarded s
  | .echo at_ h echoedSeq echoedSend => Sys2Proof.Machine.execEcho at_ h echoedSeq echoedSend s
  | .journal at_ h records => Sys2Proof.Machine.execJournal at_ h records s
  | .confirm at_ h journalSeq => Sys2Proof.Machine.execConfirm at_ h journalSeq s
  | .map at_ h records => Sys2Proof.Machine.execMap at_ h records s
  | .takeover at_ h d => Sys2Proof.Machine.execTakeover at_ h d s
  | .slice at_ h context records => Sys2Proof.Machine.execSlice at_ h context records s
  | .handed at_ h context lastSeq nextAlive => Sys2Proof.Machine.execHanded at_ h context lastSeq nextAlive s
  | .takeoverReadback at_ context doorbell slots => Sys2Proof.Machine.execTakeoverReadback at_ context doorbell slots s
  | .leaseExpiry => Sys2Proof.Machine.execLeaseExpiry  s
  | .managerIsolation => Sys2Proof.Machine.execManagerIsolation  s
  | .failureDeclaration at_ device => Sys2Proof.Machine.execFailureDeclaration at_ device s
  | .managerPromotion => Sys2Proof.Machine.execManagerPromotion  s
  | .journalResend => Sys2Proof.Machine.execJournalResend  s
  | .mirrorTimeout => Sys2Proof.Machine.execMirrorTimeout  s
  | .commandMirrorTimeout session counter => Sys2Proof.Machine.execCommandMirrorTimeout session counter s
  | .mirrorCopyComplete at_ => Sys2Proof.Machine.execMirrorCopyComplete at_ s
  | .checkpoint => Sys2Proof.Machine.execCheckpoint  s
  | .remapBoundary context => Sys2Proof.Machine.execRemapBoundary context s
  | .registerWrite at_ r value => Sys2Proof.Machine.execRegisterWrite at_ r value s
  | .peerAnswerTimeout session counter => Sys2Proof.Machine.execPeerAnswerTimeout session counter s
  | .pairKeyAgreement at_ peer certOk keyNamed firmware => Sys2Proof.Machine.execPairKeyAgreement at_ peer certOk keyNamed firmware s

end Sys2Proof.Machine
end

