-- ==== Sys2Proof/Machine/Step.lean ====
section
/-! DEFINITION. One step: the command at the front of the queue, or, on an empty queue, one tick of the clock. -/

namespace Sys2Proof.Machine

open Sys2Proof

/-- One step. A waiting command is taken off the queue and executed on the state with the queue's rest. With nothing
waiting the block idles for one REFCLK tick (R380): Geyser adds its increment. DESIGN CHOICE (log 4): the table has no row
for a tick. -/
def step (s : State) : Host.Outcome State Fault Refusal :=
  match s.pending with
  | [] => .next (tick s)
  | c :: rest => exec c { s with pending := rest }

/-- `s` with the command that the word spells at the front of its queue; `s` itself where the word spells none. -/
def State.withFetchWord (s : State) (nbits w : Nat) : State :=
  match decodeTableWord nbits w with
  | some i => { s with pending := i :: s.pending }
  | none => s

end Sys2Proof.Machine
end

