-- ==== Sys2Proof/Safety.lean ====
section
/-! DEFINITION. What counts as a safe state of the block and what a command changes, in the terms the statements use: memory
in its one canonical form, outputs that never show an active pair while they are forced, the state at a command's arrival,
and states that differ in named parts only. -/

namespace Sys2Proof.Machine

open Sys2Proof

/-- The canonical form of the memory: in each of its four tables keys strictly rise and no entry is the zero that an
unlisted key reads as. -/
def Mem.wf (m : Mem) : Bool := kwf 0 m.words && kwf 0 m.synd && kwf 0 m.parity && kwf 0 m.psynd

/-- No pin of any SAFE pair is driven (R444). -/
def pinsLow (d : Dev) : Prop := gntDrive d = 0

/-- The instant at which a command stamped `t` is taken: never before the device's own time (R534). -/
def arrival (t : Time) (s : State) : Time := max s.dev.geyser.now t

/-- Core `c'` is core `c` but for what the launch of kernels changes: the resident bundles with the signatures they store and
forward, the posts that wait, the engine operations under way, the counts since the launch, the zeroing of local memory, the constants
it takes and the open window. Every register of the core stays. -/
def onlyBundles (c c' : Core) : Prop :=
  c' = { c with
    dispatched := c'.dispatched
    posts := c'.posts
    retired := c'.retired
    loadConst := c'.loadConst
    engines := c'.engines
    bundles := c'.bundles
    store := c'.store
    forwards := c'.forwards
    mustZero := c'.mustZero
    window := c'.window }

/-- A transfer of a channel goes on, whatever becomes of the core and the post that programmed it. -/
def sameTransfer (c c' : DmaChannel) : Prop := c' = { c with core := c'.core, post := c'.post }

/-- `e` differs from `d` in nothing but what the launch of kernels changes (R253 to R267): the waiting and the running
operations, the bundles of the cores that take them with their signal objects, whom the transfers of a run that ends belong to, and the
counter of free values. -/
def onlyLaunches (d e : Dev) : Prop :=
  e = { d with
    free := e.free
    sched := { d.sched with queue := e.sched.queue, golden := e.sched.golden, runs := e.sched.runs, nextOp := e.sched.nextOp }
    cores := { d.cores with core := e.cores.core, signals := e.cores.signals, dma := e.cores.dma } } ∧
  (∀ n, onlyBundles (coreOf d n) (coreOf e n)) ∧ ∀ n, sameTransfer (dmaOf d n) (dmaOf e n)

/-- `e` differs from `d` in nothing but what issuing verdicts changes (R52 to R64, R245): the queues and what is written into
them, the contexts, attention, messages of the OUT ports, the journal, the commands that wait for a context, the waiting
operations, and the memory that a context which closes gives back with the masks that follow. -/
def onlyVerdicts (d e : Dev) : Prop :=
  e = { d with
    queues := e.queues
    accepted := e.accepted
    attn := e.attn
    contexts := e.contexts
    ports := e.ports
    fabric := e.fabric
    sched := { d.sched with queue := e.sched.queue }
    memctl := { d.memctl with allocs := e.memctl.allocs, toWrite := e.memctl.toWrite, segs := e.memctl.segs } }

/-- `e` differs from `d` in nothing but what the reactions of a severe source change (R407 to R412): beside what verdicts
change, DEVICE_STATE, Caldera's latches (no source's own registers), the cores, the partitions' work, the counts of golden
runs, unit watchdogs, Gauntlet, and the memory of contexts that close. -/
def onlyReactions (d e : Dev) : Prop :=
  e = { d with
    front := { d.front with state := e.front.state }
    queues := e.queues
    accepted := e.accepted
    attn := e.attn
    plans := e.plans
    contexts := e.contexts
    ports := e.ports
    sched := e.sched
    cores := e.cores
    watch := { d.watch with uwd := e.watch.uwd }
    gnt := e.gnt
    fabric := e.fabric
    memctl := { d.memctl with allocs := e.memctl.allocs, toWrite := e.memctl.toWrite, segs := e.memctl.segs }
    cal := { e.cal with src := d.cal.src } }

/-- The entries of a table of words that lie below the cores' local memories (Table 5.4: from word 0x2_2000_0000 on). -/
def belowLocal {α : Type} (m : KMap α) : KMap α := m.filter fun e => decide (e.1 < 0x220000000)

/-- `m'` is `m` but for words of the cores' local memories, where kernels that end leave zeros and kernels that begin find their
constants (R195, R252). -/
def onlyZeroed (m m' : Mem) : Prop :=
  belowLocal m'.words = belowLocal m.words ∧ belowLocal m'.synd = belowLocal m.synd ∧ m'.parity = m.parity ∧ m'.psynd = m.psynd

/-- A device and a memory once the segments that an allocation has taken are zeroed (R243). -/
def zeroed (d : Dev) : Dev := modCtl (fun m => { m with toZero := [] }) d
def zeroedMem (d : Dev) (m : Mem) : Mem := d.memctl.toZero.foldl (fun m g => zeroSeg g m) m

/-- A state once everything that its device has left to do in memory is done: kernels that ended are zeroed, new segments are zeroed
(R243), the bytes of a host-side transfer are written (R135), and segments that such a transfer has landed in are converted (R494). -/
def landed (s : State) : State := convertLanded (flushWrites (zeroSegs (zeroCores s)))

/-- The state whose device becomes `d`: the local memory of the cores that it marks for zeroing is zeroed (R195, R252). -/
def cleared (s : State) (d : Dev) : State := zeroCores { s with dev := d }

/-- The state whose device becomes `d`: beside that, segments that it has allocated are zeroed (R243). -/
def settled (s : State) (d : Dev) : State := zeroSegs (cleared s d)

/-! ### Denec packets that pass every check but their own opcode's (12 R309 to R321, Table 12.10) -/

/-- Packet `p` of session `n` comes to the meaning of its opcode: rows 1 to 7 of Table 12.10 let it pass on its path. -/
structure packetPasses (n : Nat) (path : Path) (p : Packet) (d : Dev) : Prop where
  up : stewardUp d = true
  session : p.session.toNat = n
  number : n ≤ 255
  lengthUnit : p.length.toNat % 16 = 0
  lengthMin : 64 ≤ p.length.toNat
  lengthMax : p.length.toNat ≤ if path = .mailbox then 3840 else 4096
  isOpen : (sessOf d n).isOpen = true
  check : n = 0 ∨ packetCheck (sessOf d n) p = p.check
  fresh : ∀ e ∈ (sessOf d n).store, e.counter ≠ p.counter
  above : (sessOf d n).high < p.counter.toNat
  highMax : (sessOf d n).high ≠ 0xFFFFFFFFFFFFFFFE
  notSafe : inSafe d = false ∨ p.opcode.toNat ∈ [0x0109, 0x010A, 0x0501]
  room : p.opcode.toNat ∈ acceptedOpcodes → d.accepted.length < 4096 ∧ awaiting d n < 64
  notBusy : twoPhase p.opcode.toNat = true ∨ namesBusyUnit p d = false
  row7 : row7 n path p d = none
  header : p.opcode.toNat ∈ partitionOpcodes ∨ p.partition = 0xFF

/-- Command ring `q` of session `n` takes a packet at once: it has room, nothing waits anywhere, and the reply ring `rq` can
hold the reply (R309, R318 to R321, R473). -/
structure ringTakes (n q rq : Nat) (p : Packet) (d : Dev) : Prop where
  kind : (queueOf d q).kind = 1
  owner : (queueOf d q).owner = n
  running : (queueOf d q).halted = false
  space : (queueOf d q).producer + slotBytes p ≤ (queueOf d q).consumer + 2 ^ (queueOf d q).exp
  rings : (sessOf d n).rings = some (q, rq)
  other : rq ≠ q
  empty : ∀ e ∈ d.sessions, e.2.waiting = []
  replies : 1 + awaiting d n ≤ replyFree d rq
  unmirrored : ∀ a ∈ d.accepted, a.session = n → a.mirror = none
  fence : p.flags.getLsbD 0 = false ∨ awaiting d n = 0

/-- The packet is taken on its path: from the mailbox, idle so far, or from a command ring. -/
def pathTakes (n : Nat) (path : Path) (p : Packet) (d : Dev) : Prop :=
  match path with
  | .mailbox => d.front.mboxBusy = false
  | .ring q => ∃ rq, ringTakes n q rq p d

/-- The device in which the opcode of a packet so taken has its effect: the ring has moved past the packet, the mailbox has
dropped DONE, and the session is confirmed (R309, R360, Table 12.3). -/
def packetTaken (n : Nat) (path : Path) (p : Packet) (d : Dev) : Dev :=
  let d := match path with
    | .mailbox => modFront (fun f => { f with mboxDone := false }) d
    | .ring q => modSess n (fun s => { s with waiting := [] }) (modQueue q (fun x => { x with
        producer := x.producer + slotBytes p, consumer := x.consumer + slotBytes p })
          { d with queues := { d.queues with nextRing := q + 1 } })
  if n = 0 then d else modSess n (fun s => { s with confirmed := true }) d

/-- Device `d` after a packet's meaning answered `x`: the first reply of Table 12.8, or the acceptance of R473; BUSY consumes no
counter (Table 12.10, row 6). -/
def answerOf (n : Nat) (path : Path) (p : Packet) (d : Dev) (x : Answer × Dev) : Dev :=
  match x.1 with
  | .accept w a => acceptCommand n path p a d x.2 w
  | .refuse code w => if code = cBusy then plainReply n true path code w p d else firstReply n path p x
  | .ok _ => firstReply n path p x

/-- `u` is `s` after a function of the device answered `d`, and then the launches that the effect lets happen and the zeroing of what
it has allocated. -/
def doneAs (d : Dev) (s u : State) : Prop :=
  onlyLaunches (zeroed d) u.dev ∧ onlyZeroed (zeroedMem d s.mem) u.mem ∧ u.pending = s.pending

/-- `u` is `s` after a packet that was taken as device `d` had its answer and effect `x`. -/
def answeredAs (n : Nat) (path : Path) (p : Packet) (d : Dev) (x : Answer × Dev) (s u : State) : Prop :=
  doneAs (answerOf n path p d x) s u

/-- Packet `p` of opcode `op`, well-formed for its command, arrives at `t` on a path that takes it at once and passes every
check but the opcode's own; `d` is the device in which the opcode has its effect. -/
def packetComes (op : W16) (n : Nat) (t : Time) (path : Path) (p : Packet) (s : State) (d : Dev) : Prop :=
  p.opcode = op ∧ packetPasses n path p (advance t s.dev) ∧ pathTakes n path p (advance t s.dev) ∧
    d = packetTaken n path p (advance t s.dev)

/-! ### Evidence records that are taken, and results that take them (03 R77 to R100) -/

/-- A record of context `c` is at the front of its evidence queue: the device takes evidence, nothing blocks the queue, and
the queue's oldest batch ends at `end_` and was published at `arr`. -/
structure recordComes (c : W32) (end_ : Nat) (arr : Time) (rest : List (Nat × Time)) (d : Dev) : Prop where
  isOpen : (ctxOf d c).state ≠ .closed
  serves : serving d = true
  member : d.fabric.isolated = false
  free : (ctxOf d c).blocked = []
  batch : (ctxOf d c).batches = (end_, arr) :: rest

/-- The device once the record has left its queue: the consumer offset is at the record's end, and a batch that ends there is
over (R77, R78). -/
def recordConsumed (c : W32) (r : Record) (end_ : Nat) (rest : List (Nat × Time)) (d : Dev) : Dev :=
  let q := queueOf d (ctxOf d c).evQueue
  let next := min end_ (q.consumer + recordBytes r.length.toNat)
  modCtx c (fun x => { x with batches := if next = end_ then rest else x.batches })
    (modQueue (ctxOf d c).evQueue (fun q => { q with consumer := next }) d)

/-- A record of a result that is accepted and open meets what R81, R92 and R98 ask before its type's own rules. -/
structure recordFits (type : Byte) (r : Record) (res : Result) (p : Plan) (t : Template) (d : Dev) : Prop where
  pending : res.withheld = false
  plan : resultPlan? d res = some p
  template : resultTemplate? d res = some t
  capture : r.captureNs.toNat = nsField res.capture
  layer0 : type = tCommit ∧ r.layer = 0 ∨ layer0Done t res = true

/-- What a record that R98 calls malformed leaves on its result: its key counts unless a valid record of that key has come. -/
def malformedOn (c : W32) (seq : Nat) (key : Nat × Nat × Nat × Nat) (d : Dev) : Dev :=
  evMalformed c (modResult c seq (fun q => if q.valid.contains key then q else { q with attributed := key :: q.attributed }) d)

/-- A valid record of a key has come: a malformed one of the same key counts no more, earlier or later (R98). -/
def keyTaken (c : W32) (seq : Nat) (key : Nat × Nat × Nat × Nat) (d : Dev) : Dev :=
  modResult c seq (fun q => { q with valid := key :: q.valid, attributed := q.attributed.filter (· != key) }) d

/-- What a valid record leads to once its contents are in: the checks of its result look whether they can go on. -/
def validOn (c : W32) (seq : Nat) (key : Nat × Nat × Nat × Nat) (d : Dev) : Dev := progress c seq (keyTaken c seq key d)

/-! ### Frames of the watch fabric (19 R464, R465) -/

/-- Frame `h` is for this device, which has a fabric, and arrives at a port whose link is up and whose role is FABRIC (R14). -/
structure frameForUs (h : FabricHeader) (d : Dev) : Prop where
  link : (portOf d h.port.val).link = true
  role : (portOf d h.port.val).role = .fabric
  member : d.fabric.id ≠ 0
  up : fabricUp d = true
  dest : h.dest = d.fabric.device ∨ h.dest = 0xFF

/-- Frame `h` comes from member `m`, which has a pair key, with a valid check, and is the first copy of its sequence. -/
structure frameComes (h : FabricHeader) (m : Member) (d : Dev) : Prop extends frameForUs h d where
  fabric : h.fabric = d.fabric.id
  source : kfind? d.fabric.members h.source = some m
  key : m.pairKey.isSome = true
  check : h.checkOk = true
  first : h.frameSeq ∉ m.seen

/-- The device once a frame is taken: the sequence is seen, and an instant of the manager is the newest known. -/
def frameTaken (h : FabricHeader) (d : Dev) : Dev :=
  let d := modMember h.source (fun m => { m with seen := m.seen ++ [h.frameSeq] }) d
  if h.source = d.fabric.manager then modFab (fun f => { f with managerInstant := max f.managerInstant h.sendTime }) d else d

end Sys2Proof.Machine
end

