-- ==== Sys2Proof/Certificates/Slice0/Obligations.lean ====
section
/-! DEFINITION. The statements for the provers: what the spec's rules say that the block and its commands do. Each statement names
in its docstring the rules it draws on. A command's effect is stated as the state that `exec` answers; `advance t s.dev` is the device at the
command's arrival, `onlyLaunches`, `onlyZeroed`, `onlyReactions` and `cleared` (Safety.lean) say what else may change: kernels
that the scheduler launches (R253 to R267), local memory that is zeroed (R195, R252), the reactions of a severe source (R407 to R412). -/

open Sys2Proof Sys2Proof.Machine

/-! ### The block as a whole -/

/-- A step takes the command at the front of the queue: step of a state with command c in front is exec of c on the state with the
queue's rest. With an empty queue the block idles for one tick of REFCLK, which adds the increment to Geyser's time and changes
nothing else (R380; that a tick is what an empty queue's step does is the model's choice, log 4). -/
def Obligations.StepTakesTheFront : Prop :=
  (∀ (c : Instr) (rest : List Instr) (s : State), step { s with pending := c :: rest } = exec c { s with pending := rest }) ∧
  (∀ (s : State), s.pending = [] → ∃ u, step s = .next u ∧ u = { s with dev := { s.dev with geyser := { s.dev.geyser with
    now := s.dev.geyser.now + s.dev.geyser.incr.toNat } } })

/-- Every command answers a next state, with no refusal; the one stop is an access of the device itself or of the scrub engine to
an address that Table 5.3 does not map, which no rule describes. No command touches the queue of waiting commands.
The model's readings that this rests on: logs 19 and 40. -/
def Obligations.CommandsComplete : Prop :=
  (∀ (c : Instr) (s : State),
    (∀ t w l o, c = .memoryRead t w l o → w = .device ∨ w = .fumarole → mapped s.dev w (64 * l + o) = true) →
    (∀ t w l o b, c = .memoryWrite t w l o b → w = .device ∨ w = .fumarole → mapped s.dev w (64 * l + o) = true) →
    ∃ u, exec c s = .next u ∧ u.pending = s.pending) ∧
  (∀ (t : Time) (w : Accessor) (a : Nat) (b : List Byte) (s : State), w = .device ∨ w = .fumarole → mapped s.dev w a = false →
    exec (.memoryRead t w (a / 64) (a % 64)) s = .fault (.unmapped a) ∧
      exec (.memoryWrite t w (a / 64) (a % 64) b) s = .fault (.unmapped a))

/-- In every state whose memory is in its canonical form (its tables rise strictly and list no zero), a step that answers a next state
leaves memory in that form: reads, writes, scrubbing, injection, relocation, conversion, zeroing and resets keep it.
The model's readings that this rests on: log 16. -/
def Obligations.MemoryStaysCanonical : Prop :=
  ∀ s u, Mem.wf s.mem = true → step s = .next u → Mem.wf u.mem = true

/-- R211, R323, R366, R381, R408, R490, Tables 12.2, 12.4, 15.1, 15.2, 16.2 to 16.6 and 18.1: what power-on reset leaves. DEVICE_STATE reads
RESET and no attention class is pending; Geyser's time is 0, the clock UNLOCKED and the increment nominal; ERR_N is asserted and no
reaction is latched; SAFE pairs are neither armed nor forced, and no pin is driven; no queue is assigned, no session but session 0 is
open, no context or plan exists; no core is fenced and every core is PAIRED. Memory lists nothing, and no command waits. The
model's choice, which no rule states: no fuse of FIELD_LOCK is blown and no key is enrolled (log 2); every word of memory reads 0
with a fitting code (log 16). -/
def Obligations.ResetLeaves : Prop :=
  State.reset.pending = [] ∧ State.reset.mem = {} ∧ Mem.wf State.reset.mem = true ∧
  State.reset.dev.front.state = .reset ∧ State.reset.dev.attn.pending = [] ∧ State.reset.dev.attn.log = [] ∧
  State.reset.dev.geyser.now = 0 ∧ State.reset.dev.geyser.state = .unlocked ∧ State.reset.dev.geyser.incr = 0x0666666666 ∧
  State.reset.dev.cal.errN = true ∧ State.reset.dev.cal.chipSafe = false ∧ State.reset.dev.cal.safeOut = false ∧
  State.reset.dev.gnt.armed = false ∧ State.reset.dev.gnt.forced = false ∧ State.reset.dev.gnt.pulses = [] ∧
  pinsLow State.reset.dev ∧ State.reset.dev.queues.table = [] ∧
  (∀ n, n ≠ 0 → (sessOf State.reset.dev n).isOpen = false) ∧ (sessOf State.reset.dev 0).isOpen = true ∧
  State.reset.dev.contexts = [] ∧ State.reset.dev.plans.loaded = [] ∧ State.reset.dev.bonnet.keys = [] ∧
  State.reset.dev.bonnet.fieldLock = 0 ∧
  (∀ n, isFenced State.reset.dev n = false ∧ (coreOf State.reset.dev n).split = false ∧ (coreOf State.reset.dev n).bundles = []) ∧
  (∀ n, (srcOf State.reset.dev n).force = false ∧ (srcOf State.reset.dev n).count = 0) ∧
  (∀ k, wordAt State.reset.mem k = 0 ∧ syndAt State.reset.mem k = 0)

/-! ### Packets, replies and rings (12) -/

/-- R312, R314, R316, Tables 12.8 and 12.9: the first reply of a command that is not accepted carries the status as attention
stands, the packet's opcode, counter and tag, FINAL, and a check in every session but 0; on a ring it takes the next slot of
the reply ring as that slot's 64 bytes, in the mailbox it replaces the reply, sets DONE and counts SEQ; the packet's counter is
consumed and the reply stored. Nothing else changes. -/
def Obligations.FirstReplies : Prop :=
  (∀ (n q rq k : Nat) (p : Packet) (a : Answer) (code : W16) (w : W64) (d u : Dev) (r : Reply), (sessOf d n).closing = false →
    a = .ok w ∧ code = 0 ∨ a = .refuse code w →
    r = { status := statusWord d code, opcode := p.opcode, flags := 2, counter := p.counter, tag := p.tag, result := w,
          check := r.check } →
    r.check = (if n = 0 then 0 else first16 (hmac (sessOf d n).kDh (leBytes 2 r.status.toNat ++ leBytes 2 p.opcode.toNat ++
      leBytes 2 2 ++ [0, 0] ++ leBytes 8 p.counter.toNat ++ leBytes 8 p.tag.toNat ++ leBytes 8 w.toNat))) →
    rq = (queueOf d q).partner → k = (queueOf d rq).producer + 1 → u = firstReply n (.ring q) p (a, d) →
    kfind? u.queues.replySlots (rq * 65536 + k % 2 ^ (queueOf d rq).exp) = some (replyImage k r) ∧
      queueOf u rq = { queueOf d rq with producer := k } ∧ (∀ i, i ≠ rq → queueOf u i = queueOf d i) ∧
      (sessOf u n).high = max (sessOf d n).high p.counter.toNat ∧
      (sessOf u n).store = trimStore ({ counter := p.counter, fingerprint := fingerprint n p, reply := r, waiting := false } ::
        (sessOf d n).store) ∧ (∀ i, i ≠ n → sessOf u i = sessOf d i) ∧
      u = { d with queues := u.queues, sessions := u.sessions }) ∧
  (∀ (n : Nat) (p : Packet) (a : Answer) (code : W16) (w : W64) (d u : Dev), (sessOf d n).closing = false →
    a = .ok w ∧ code = 0 ∨ a = .refuse code w → u = firstReply n .mailbox p (a, d) →
    u.front.mboxDone = true ∧ u.front.mboxBusy = false ∧ u.front.mboxSeq = (d.front.mboxSeq + 1) % 65536 ∧
      u.front.mboxReply.result = w ∧ u.front.mboxReply.status = statusWord d code ∧ u.queues = d.queues ∧
      (sessOf u n).high = max (sessOf d n).high p.counter.toNat ∧ u = { d with front := u.front, sessions := u.sessions })

/-- Table 12.10, rows 1 to 6: the first check that fails gives the reply, and no counter is consumed and nothing stored. A bad
length halts the ring; a session that is not open answers 0x023; a wrong check answers 0x021 with attention class 5, and an
unconfirmed session closes; a counter that the store holds with the same fingerprint is replayed, and with another it is stale,
with attention class 5 outside session 0; any other that is not above the highest is stale, and so is every one once the highest is
spent; in safe state only ATTN_READ, ATTN_ACK and DIAG_READ run; a full intake, and a busy unit for a command that is not two-phase,
answer 0x030.
The model's readings that this rests on: logs 8 and 9. -/
def Obligations.PacketRows : Prop :=
  ∀ (n : Nat) (path : Path) (p : Packet) (d : Dev), p.session.toNat = n →
    (p.length.toNat % 16 ≠ 0 ∨ p.length.toNat < 64 ∨ (if path = .mailbox then 3840 else 4096) < p.length.toNat →
      processPacket opcodeBody path p d = (match path with
        | .mailbox => deliver path (mkReply n false cLength 2 (refusalWord 0 4) p d) d
        | .ring q =>
          let e := modQueue (queueOf d q).partner (fun x => { x with halted := true })
            (modQueue q (fun x => { x with halted := true }) d)
          deliver path (mkReply n false cLength 2 (refusalWord 0 4) p e) e)) ∧
    (p.length.toNat % 16 = 0 → 64 ≤ p.length.toNat → p.length.toNat ≤ (if path = .mailbox then 3840 else 4096) → n ≤ 255 →
      (∀ q, path = .ring q → (queueOf d q).owner = n) →
      ((sessOf d n).isOpen = false →
        processPacket opcodeBody path p d = deliver path (mkReply n false cNoSession 2 (refusalWord 0 0x10) p d) d) ∧
      ((sessOf d n).isOpen = true → n ≠ 0 → packetCheck (sessOf d n) p ≠ p.check →
        ∃ e, e = securityAttn 1 n 0 p.counter.toNat d ∧ processPacket opcodeBody path p d =
          (if (sessOf d n).confirmed then deliver path (mkReply n true cBadCheck 2 (refusalWord 0 0x30) p e) e
           else closeSession n (deliver path (mkReply n true cBadCheck 2 (refusalWord 0 0x30) p e) e))) ∧
      ((sessOf d n).isOpen = true → (n = 0 ∨ packetCheck (sessOf d n) p = p.check) →
        ∃ e, e = (if n = 0 then d else modSess n (fun s => { s with confirmed := true }) d) ∧
          (∀ x, (sessOf d n).store.find? (fun x => x.counter == p.counter) = some x → x.fingerprint = fingerprint n p →
            processPacket opcodeBody path p d = deliver path (replayed n x e) e) ∧
          (∀ x, (sessOf d n).store.find? (fun x => x.counter == p.counter) = some x → x.fingerprint ≠ fingerprint n p →
            ∃ g, g = (if n = 0 then e else securityAttn 2 n 0 p.counter.toNat e) ∧
              processPacket opcodeBody path p d = deliver path (mkReply n true cStale 2 (refusalWord 0 8) p g) g) ∧
          ((∀ x ∈ (sessOf d n).store, x.counter ≠ p.counter) →
            p.counter.toNat ≤ (sessOf d n).high ∨ (sessOf d n).high = 0xFFFFFFFFFFFFFFFE →
            processPacket opcodeBody path p d = deliver path (mkReply n true cStale 2 (refusalWord 0 8) p e) e) ∧
          ((∀ x ∈ (sessOf d n).store, x.counter ≠ p.counter) → (sessOf d n).high < p.counter.toNat →
            (sessOf d n).high ≠ 0xFFFFFFFFFFFFFFFE → inSafe d = true → p.opcode ≠ 0x0109 → p.opcode ≠ 0x010A →
            p.opcode ≠ 0x0501 →
            processPacket opcodeBody path p d = deliver path (mkReply n true cSafeState 2 (refusalWord 0 noField) p e) e) ∧
          ((∀ x ∈ (sessOf d n).store, x.counter ≠ p.counter) → (sessOf d n).high < p.counter.toNat →
            (sessOf d n).high ≠ 0xFFFFFFFFFFFFFFFE → inSafe d = false →
            (p.opcode.toNat ∉ [0x0204, 0x0205, 0x0206] ∧ namesBusyUnit p d = true) ∨
              (p.opcode.toNat ∈ acceptedOpcodes ∧ (4096 ≤ d.accepted.length ∨ 64 ≤ awaiting d n)) →
            processPacket opcodeBody path p d = deliver path (mkReply n true cBusy 2 (refusalWord 0 noField) p e) e)))

/-- R303, R304, R308, R309, R64: a doorbell write that publishes whole packets moves the producer there and lets the rings be
taken; reply and verdict doorbells free slots; a write that breaks Table 12.6 is counted, one narrower than 8 bytes is discarded,
and one of a subject's requester is discarded and counted; MBOX_GO runs the packet while the mailbox is idle; a PAD runs to the end of its ring.
The model's readings that this rests on: logs 3 and 10. -/
def Obligations.DoorbellsAndMailbox : Prop :=
  (∀ (t : Time) (rid : W16) (n : Nat) (v : W64) (ps : List Packet) (s : State) (d : Dev), d = advance t s.dev →
    (slotOf d 0).requester ≠ some rid → (slotOf d 1).requester ≠ some rid → (queueOf d n).kind = 1 → v.toNat % 64 = 0 →
    (queueOf d n).producer < v.toNat → v.toNat ≤ (queueOf d n).consumer + 2 ^ (queueOf d n).exp →
    publishedTo (queueOf d n).exp (queueOf d n).producer ps = v.toNat →
    ∃ u e, exec (.commandDoorbell t rid n ⟨v, 8⟩ ps) s = .next u ∧ doneAs (serveRings e) s u ∧
      e = ps.foldl (fun d p => publish n p d) d ∧ queueOf e n = { queueOf d n with producer := v.toNat } ∧
      (sessOf e (queueOf d n).owner).waiting = (sessOf d (queueOf d n).owner).waiting ++ ps ∧
      e = { d with queues := { d.queues with table := e.queues.table }, sessions := e.sessions }) ∧
  (∀ (t : Time) (rid : W16) (n : Nat) (v : W64) (s : State) (d : Dev), d = advance t s.dev →
    (slotOf d 0).requester ≠ some rid → (slotOf d 1).requester ≠ some rid → (queueOf d n).kind = 2 →
    (queueOf d n).consumer ≤ v.toNat → v.toNat ≤ (queueOf d n).producer →
    ∃ u, exec (.replyDoorbell t rid n ⟨v, 8⟩) s = .next u ∧
      doneAs (serveRings (setQueue n { queueOf d n with consumer := v.toNat } d)) s u) ∧
  (∀ (t : Time) (rid : W16) (n : Nat) (v : W64) (s : State) (d : Dev) (c : W32), d = advance t s.dev →
    (slotOf d 0).requester ≠ some rid → (slotOf d 1).requester ≠ some rid → (queueOf d n).kind = 5 →
    (queueOf d n).consumer ≤ v.toNat → v.toNat ≤ (queueOf d n).producer → c = BitVec.ofNat 32 (queueOf d n).owner →
    ∃ u, exec (.verdictDoorbell t rid n ⟨v, 8⟩) s = .next u ∧
      u = { s with dev := closeIfDrained c (drainRecords c (ctxOf d c).heldRecords.length
        (setQueue n { queueOf d n with consumer := v.toNat } d)) } ∧
      ((ctxOf d c).heldRecords = [] → (ctxOf d c).state ≠ .draining →
        u.dev = setQueue n { queueOf d n with consumer := v.toNat } d)) ∧
  (∀ (t : Time) (rid : W16) (n : Nat) (v : W64) (s : State) (d : Dev), d = advance t s.dev →
    (slotOf d 0).requester ≠ some rid → (slotOf d 1).requester ≠ some rid →
    (queueOf d n).kind ≠ 5 ∨ v.toNat < (queueOf d n).consumer ∨ (queueOf d n).producer < v.toNat →
    ∃ u, exec (.verdictDoorbell t rid n ⟨v, 8⟩) s = .next u ∧
      u = { s with dev := { d with queues := { d.queues with table := u.dev.queues.table }, attn := u.dev.attn } } ∧
      (queueOf u.dev n).faults.n = min 4294967295 ((queueOf d n).faults.n + 1) ∧
      (∀ i, i ≠ n → queueOf u.dev i = queueOf d i) ∧
      u.dev.attn.serial = if (queueOf d n).faults.told then d.attn.serial else d.attn.serial + 1) ∧
  (∀ (t : Time) (rid : W16) (n : Nat) (v : W64) (k : Nat) (ps : List Packet) (s : State), (slotOf s.dev 0).requester ≠ some rid →
    (slotOf s.dev 1).requester ≠ some rid → k ≠ 8 →
    exec (.verdictDoorbell t rid n ⟨v, k⟩) s = .next { s with dev := advance t s.dev } ∧
    (∃ u, exec (.commandDoorbell t rid n ⟨v, k⟩ ps) s = .next u ∧ doneAs (advance t s.dev) s u) ∧
    ∃ u, exec (.replyDoorbell t rid n ⟨v, k⟩) s = .next u ∧ doneAs (advance t s.dev) s u) ∧
  (∀ (t : Time) (rid : W16) (n : Nat) (v : W64) (k : Nat) (s : State), (slotOf s.dev 0).requester = some rid →
    ∃ u, exec (.verdictDoorbell t rid n ⟨v, k⟩) s = .next u ∧
      u = { s with dev := { advance t s.dev with slots := u.dev.slots, attn := u.dev.attn } } ∧
      (slotOf u.dev 0).foreign.n = min 4294967295 ((slotOf s.dev 0).foreign.n + 1) ∧
      u.dev.attn.serial = s.dev.attn.serial + 1) ∧
  (∀ (n : Nat) (t : Time) (rid : W16) (p : Packet) (s : State) (d : Dev), packetComes p.opcode n t .mailbox p s d →
    p.opcode ≠ 0 → (slotOf s.dev 0).requester ≠ some rid → (slotOf s.dev 1).requester ≠ some rid →
    ∃ u, exec (.mboxGo t rid p) s = .next u ∧ answeredAs n .mailbox p d (opcodeBody n .mailbox p d) s u) ∧
  (∀ (t : Time) (rid : W16) (p : Packet) (s : State), (slotOf s.dev 0).requester ≠ some rid →
    (slotOf s.dev 1).requester ≠ some rid → stewardUp s.dev = false ∨ s.dev.front.mboxBusy = true →
    ∃ u, exec (.mboxGo t rid p) s = .next u ∧ doneAs (advance t s.dev) s u) ∧
  (∀ (n q rq k : Nat) (t : Time) (s : State) (d : Dev), d = advance t s.dev → ringTakes n q rq { opcode := 0, flags := 0 } d →
    stewardUp d = true → k = 2 ^ (queueOf d q).exp - (queueOf d q).producer % 2 ^ (queueOf d q).exp →
    (queueOf d q).producer = (queueOf d q).consumer →
    ∃ u, exec (.pad t q) s = .next u ∧ doneAs (modSess n (fun x => { x with waiting := [] }) (setQueue q { queueOf d q with
        producer := (queueOf d q).producer + k, consumer := (queueOf d q).consumer + k }
        { d with queues := { d.queues with nextRing := q + 1 } })) s u)

/-! ### Sessions, keys and attention (12, 13 Table 13.5, 14) -/

/-- R305, R335, R336, R357 to R360: DEVICE_INFO answers the firmware version, F, the FIELD_LOCK and fuse bits and the device's
number; RING_PAIR_OPEN assigns two unassigned queue numbers to a session without a ring pair; RING_PAIR_CLOSE takes them
back, the final replies that are due later being held; SESSION_OPEN opens an unassigned session under the agreed keys;
SESSION_CLOSE closes its own once nothing of it awaits a final reply: the session is gone, and the ring pair that carried the command
with it (that this ring pair does not hold the session open is the model's reading, log 47).
The model's readings that this rests on: logs 5, 8 and 47. -/
def Obligations.SessionCommands : Prop :=
  (∀ (n : Nat) (t : Time) (path : Path) (p : Packet) (s : State) (d : Dev), packetComes 0x0101 n t path p s d →
    ∃ u, exec (.deviceInfo t path p) s = .next u ∧ answeredAs n path p d (.ok (BitVec.ofNat 64 (
      d.bonnet.firmware.toNat * 2 ^ 32 + d.pace.f % 65536 * 65536 + bit 15 (fieldLocked d) + bit 14 d.pace.fuseOk +
        (if inFabric d then d.fabric.device else 0))), d) s u) ∧
  (∀ (n : Nat) (t : Time) (path : Path) (p : Packet) (s : State) (d : Dev), packetComes 0x0102 n t path p s d →
    badSpec p 0 1 12 24 n (· == 0xFF) 0xFF (· % 4096 == 0) = none →
    badSpec p 32 2 7 16 n (· == 0xFF) 0xFF (· % 4096 == 0) = none → (sessOf d n).rings = none →
    (d.queues.table.filter fun x => x.2.kind != 0).length + 1 < 1048576 →
    ∃ u cq rq e, exec (.ringPairOpen t path p) s = .next u ∧
      answeredAs n path p d (.ok (BitVec.ofNat 64 (rq * 2 ^ 32 + cq)), flushHeld n rq e) s u ∧ cq ≠ rq ∧
      (∀ k, k = cq ∨ k = rq → k < 1048576 ∧ k ∉ (d.queues.table.filter fun x => x.2.kind != 0).map (·.1)) ∧
      e = { d with free := d.free + 2, queues := { d.queues with table := e.queues.table }, sessions := e.sessions } ∧
      queueOf e cq = { kind := 1, exp := pay p 1 1, owner := n, base := BitVec.ofNat 64 (pay p 8 8), access := doorbellAt cq,
                       partner := rq } ∧
      queueOf e rq = { kind := 2, exp := pay p 33 1, owner := n, base := BitVec.ofNat 64 (pay p 40 8),
                       access := doorbellAt rq, partner := cq } ∧
      (∀ k, k ≠ cq → k ≠ rq → queueOf e k = queueOf d k) ∧
      sessOf e n = { sessOf d n with rings := some (cq, rq), waiting := [] } ∧ ∀ k, k ≠ n → sessOf e k = sessOf d k) ∧
  (∀ (n : Nat) (t : Time) (path : Path) (p : Packet) (s : State) (d : Dev) (cq rq : Nat), packetComes 0x0103 n t path p s d →
    (sessOf d n).rings = some (cq, rq) →
    ∃ u, exec (.ringPairClose t path p) s = .next u ∧ answeredAs n path p d (.ok 0,
      { modSess n (fun x => { x with rings := none, waiting := [] }) d with queues := { d.queues with
        table := kdel (kdel d.queues.table rq) cq } }) s u) ∧
  (∀ (n : Nat) (t : Time) (path : Path) (p : Packet) (s : State) (d : Dev) (id : W128) (ra : List Byte) (want : Nat)
      (k : List Byte), packetComes 0x0104 n t path p s d → id = BitVec.ofNat 128 (beNat (bytesAt (payloadOf p) 0 16)) →
    ra = bytesAt (payloadOf p) 0x10 64 → want = beNat (bytesAt (payloadOf p) 0x50 16) → badBuffer p 0x70 = none →
    bufLen p 0x70 = 256 → staticKey? id ra d = some k → want = 0 ∨ want = Config.serial.toNat → Config.sm2OnCurve ra = true →
    (openSessions d).length < 255 →
    ∃ u m e draw, exec (.sessionOpen t path p) s = .next u ∧ answeredAs n path p d (.ok (BitVec.ofNat 64 m), e) s u ∧
      1 ≤ m ∧ m ≤ 255 ∧ m ∉ openSessions d ∧ draw = Config.sm2Agree k ra ((d.bonnet.drbgWords[0]?).getD 0) ∧
      sessOf e m = { isOpen := true, confirmed := false, provisioning := id == 0, keyId := id, kHd := draw.1,
                     kDh := draw.2.1, openedAt := d.geyser.now } ∧
      (∀ i, i ≠ m → sessOf e i = sessOf d i) ∧ e.front = { d.front with
        hostDmaAddr := bufAddr p 0x70, hostDmaData := openResponse m (id == 0) draw.2.2.1 draw.2.2.2 d } ∧
      e = { d with free := d.free + 1, front := e.front, sessions := e.sessions, bonnet := { d.bonnet with
        drbgCalls := e.bonnet.drbgCalls, drbgWords := e.bonnet.drbgWords, drbgReseed := e.bonnet.drbgReseed } }) ∧
  (∀ (n : Nat) (t : Time) (path : Path) (p : Packet) (s : State) (d : Dev), packetComes 0x0105 n t path p s d →
    awaiting d n = 0 →
    ∃ u, exec (.sessionClose t path p) s = .next u ∧
      answeredAs n path p d (.ok 0, modSess n (fun x => { x with closing := true }) d) s u ∧
      (kwf {} d.sessions = true → kfind? u.dev.sessions n = none) ∧
      (∀ cq rq, (sessOf d n).rings = some (cq, rq) → kwf {} d.queues.table = true →
        kfind? u.dev.queues.table cq = none ∧ kfind? u.dev.queues.table rq = none))

/-- R356, R358, R370, R324, R325: KEY_ENROL and ATTEST are accepted with their buffer; KEY_REVOKE revokes an authority slot or
moves a key to the revoked identifiers at the next generation, unless the key is in use, FUSE_EN is not asserted for a slot, or
128 generations are spent; ATTN_READ answers the newest serial, the pending classes and the raises; ATTN_ACK clears the named
classes up to the acknowledged serial.
The model's readings that this rests on: log 8. -/
def Obligations.KeyAndAttentionCommands : Prop :=
  (∀ (n : Nat) (t : Time) (path : Path) (p : Packet) (s : State) (d : Dev), packetComes 0x0106 n t path p s d →
    badBuffer p 0 = none → bufLen p 0 = 192 →
    ∃ u, exec (.keyEnrol t path p) s = .next u ∧
      answeredAs n path p d (.accept 0 { session := n, packet := p, path := path, loaded := false }, d) s u) ∧
  (∀ (n : Nat) (t : Time) (path : Path) (p : Packet) (s : State) (d : Dev) (id : W128) (inUse : Bool) (root key : Option (Nat × KeyEntry)),
    packetComes 0x0107 n t path p s d → id = BitVec.ofNat 128 (beNat (bytesAt p.inl 0 16)) →
    root = (d.bonnet.authority.find? fun e => e.2.keyId == id && !e.2.revoked) →
    key = (d.bonnet.keys.find? fun e => e.2.keyId == id) →
    inUse = (d.plans.loaded.any (fun l => l.plan.signer == id) ||
      d.sessions.any (fun e => e.1 != 0 && e.2.isOpen && e.2.keyId == id) ||
      (root.isSome && (d.bonnet.authority.filter fun e => !e.2.revoked).length == 1)) →
    ∃ u, exec (.keyRevoke t path p) s = .next u ∧
      (root = none → key = none → answeredAs n path p d (refuseAt cObject 0x20, d) s u) ∧
      (root.isSome ∨ key.isSome → inUse = true → answeredAs n path p d (refuseF cState 9 0x20, d) s u) ∧
      (root.isSome → inUse = false → d.bonnet.fuseEn = false → answeredAs n path p d (refuseF cState 15 0x20, d) s u) ∧
      (root.isSome ∨ key.isSome → inUse = false → root = none ∨ d.bonnet.fuseEn = true → 128 ≤ d.bonnet.generation →
        answeredAs n path p d (refuseF cState 8 0x20, d) s u) ∧
      (∀ i e, root = some (i, e) → inUse = false → d.bonnet.fuseEn = true → d.bonnet.generation < 128 →
        answeredAs n path p d (.ok 0, { d with bonnet := { d.bonnet with
          generation := d.bonnet.generation + 1
          authority := kput d.bonnet.authority i { e with revoked := true } } }) s u) ∧
      (∀ i e, root = none → key = some (i, e) → inUse = false → d.bonnet.generation < 128 →
        answeredAs n path p d (.ok 0, { d with bonnet := { d.bonnet with
          generation := d.bonnet.generation + 1
          keys := kdel d.bonnet.keys i
          revokedIds := d.bonnet.revokedIds ++ [id] } }) s u)) ∧
  (∀ (n : Nat) (t : Time) (path : Path) (p : Packet) (s : State) (d : Dev), packetComes 0x0108 n t path p s d →
    badBuffer p 0 = none →
    ∃ u, exec (.attest t path p) s = .next u ∧
      answeredAs n path p d (.accept 0 { session := n, packet := p, path := path }, d) s u) ∧
  (∀ (n : Nat) (t : Time) (path : Path) (p : Packet) (s : State) (d : Dev), packetComes 0x0109 n t path p s d →
    ∃ u, exec (.attnRead t path p) s = .next u ∧ answeredAs n path p d (.ok (BitVec.ofNat 64 (
      d.attn.serial.toNat * 2 ^ 32 + attnMask d * 65536 + d.attn.raises)), d) s u) ∧
  (∀ (n : Nat) (t : Time) (path : Path) (p : Packet) (s : State) (d e : Dev), packetComes 0x010A n t path p s d →
    inl p 4 1 % 2 = 0 →
    e = { d with attn := { d.attn with
      pending := d.attn.pending.filter (fun c =>
        !((inl p 4 1).testBit c.1 && decide (c.2.toNat ≤ inl p 0 4) && !(c.1 == 7 && inSafe d)))
      raises := 0 } } →
    ∃ u, exec (.attnAck t path p) s = .next u ∧ answeredAs n path p d (.ok (BitVec.ofNat 64 (attnMask e)), e) s u)

/-! ### Plans, admission and two-phase changes (13 Table 13.6, 09, 10) -/

/-- R337, R338, R243, R241, R235, R236: PLAN_LOAD and WEIGHT_LOAD are accepted with their buffer for a defined partition and a
loaded plan that has the blob; PLAN_UNLOAD drops a version that nothing uses, its bindings of blobs and its golden operations, and
releases its memory and that of the blobs that leave with it: segments so released are not valid and no partition reads them;
PARTITION_SET, CORE_MODE_SET and PLAN_SWAP, where rows 1 to 4 of R235 hold and admission passes, begin a change: PREPARE is
open to the units named until now + the prepare time, and the commit instant is the packet's.
The model's readings that this rests on: logs 8 and 35. -/
def Obligations.PlanCommands : Prop :=
  (∀ (n : Nat) (t : Time) (path : Path) (p : Packet) (s : State) (d : Dev), packetComes 0x0201 n t path p s d →
    badBuffer p 0 = none → p.partition ≠ 0xFF → (partOf? d p.partition.toNat).isSome = true →
    ∃ u, exec (.planLoad t path p) s = .next u ∧
      answeredAs n path p d (.accept 0 { session := n, packet := p, path := path, loaded := false }, d) s u) ∧
  (∀ (n : Nat) (t : Time) (path : Path) (p : Packet) (s : State) (d : Dev) (id v : W64) (l : LoadedPlan),
    packetComes 0x0202 n t path p s d → id = BitVec.ofNat 64 (inl p 0 8) → v = BitVec.ofNat 64 (inl p 8 8) →
    planOf? d id v = some l → badPart p l.partition = none → planInUse d id v = false → l.active = true →
    awaits d [0x0203] (fun q => inl q 0 8 == id.toNat) = false →
    awaits d [0x0206] (fun q => pay q 0 8 == id.toNat || pay q 8 8 == id.toNat) = false →
    ∃ u e, exec (.planUnload t path p) s = .next u ∧ answeredAs n path p d (.ok 0, e) s u ∧ e = { d with
      plans := { d.plans with
        loaded := d.plans.loaded.filter fun x => !(x.plan.identifier == id && x.plan.version == v)
        blobs := (d.plans.blobs.map fun b => { b with bound := b.bound.filter (· != (id, v)) }).filter fun b => !b.bound.isEmpty }
      sched := { d.sched with
        queue := d.sched.queue.filter fun o => !ofPlan id v o
        golden := d.sched.golden.filter fun g => !ofPlan id v g.2 }
      memctl := { d.memctl with allocs := e.memctl.allocs, toWrite := e.memctl.toWrite, segs := e.memctl.segs } } ∧
      allocOf? e (.plan id v) = none ∧ allocOf? e (.tensors id v) = none ∧
      ∀ b ∈ d.plans.blobs, (∀ k ∈ b.bound, k = (id, v)) → allocOf? e (.blob b.id b.partition) = none) ∧
  (∀ (w : AllocFor) (d : Dev) (a : Alloc), allocOf? d w = some a → allocOf? (release w d) w = none ∧
    ∀ g ∈ allocSegs d a, (segOf (release w d) g).valid = false ∧ (segOf (release w d) g).readMask = 0) ∧
  (∀ (n : Nat) (t : Time) (path : Path) (p : Packet) (s : State) (d : Dev) (l : LoadedPlan) (r : List LoadedPlan),
    packetComes 0x0203 n t path p s d → badBuffer p 0 = none → versionsOf d (BitVec.ofNat 64 (inl p 0 8)) = l :: r →
    badPart p l.partition = none →
    (∃ x ∈ l :: r, x.active = true ∧ ∃ w ∈ x.plan.weightDigests, w.blob = BitVec.ofNat 32 (inl p 8 4) ∧ w.length = bufLen p 0) →
    ∃ u, exec (.weightLoad t path p) s = .next u ∧
      answeredAs n path p d (.accept 0 { session := n, packet := p, path := path, loaded := false }, d) s u) ∧
  (∀ (n : Nat) (t : Time) (path : Path) (p : Packet) (s : State) (d : Dev) (parts : KMap Partition) (c : AdmitConfig),
    packetComes 0x0204 n t path p s d → (∀ i, i < (partEntries p).length → badEntry p i = none) →
    (∀ i e, (partEntries p)[i]? = some e → entryRefused i e d = none) → parts = withParts p d.sched.parts →
    p.partition = 0xFF ∨ (partEntries p).any (fun e => e.1 == p.partition.toNat) = true → clashEntry p parts = none →
    badTwoPhase p ((partEntries p).filterMap (fun e => partOf? d e.1) ++ (partEntries p).filterMap (·.2)) d = none →
    runAdmission { d with sched := { d.sched with parts := parts } } = .ok c →
    ∃ u x e, exec (.partitionSet t path p) s = .next u ∧
      answeredAs n path p d (.accept 0 { session := n, packet := p, path := path, loaded := false }, e) s u ∧
      x = { id := d.cores.nextChange % 65536, opcode := p.opcode, session := n, counter := p.counter,
            commitAt := commitInstant p, prepareBy := d.geyser.now + us (prepareUs p), named := x.named, cores := false,
            packet := p, config := c } ∧ x.named.getLsbD 48 = true ∧
      e = { d with cores := { d.cores with changes := d.cores.changes ++ [x], record := changeRecord 0 x
                                           nextChange := e.cores.nextChange } }) ∧
  (∀ (n : Nat) (t : Time) (path : Path) (p : Packet) (s : State) (d : Dev) (m : W64) (c : AdmitConfig),
    packetComes 0x0205 n t path p s d → m = modeCores p → m ≠ 0 → modeSplit p &&& ~~~m = 0 →
    (∀ i, i < 64 → m.getLsbD i = true → isFenced d i = false) →
    badTwoPhase p ((d.sched.parts.filter fun e => e.2.mask &&& m != 0).map (·.2)) d = none →
    (∀ e ∈ partOrder d, e.2.criticality ≤ 1 → e.2.mask &&& modeSplit p = 0) →
    runAdmission (withModes p d) = .ok c →
    ∃ u x e, exec (.coreModeSet t path p) s = .next u ∧
      answeredAs n path p d (.accept 0 { session := n, packet := p, path := path, loaded := false }, e) s u ∧
      x = { id := d.cores.nextChange % 65536, opcode := p.opcode, session := n, counter := p.counter,
            commitAt := commitInstant p, prepareBy := d.geyser.now + us (prepareUs p), named := m, cores := true,
            packet := p, config := c } ∧
      e = { d with cores := { d.cores with changes := d.cores.changes ++ [x], record := changeRecord 0 x
                                           nextChange := e.cores.nextChange } }) ∧
  (∀ (n : Nat) (t : Time) (path : Path) (p : Packet) (s : State) (d : Dev) (l : LoadedPlan) (c : AdmitConfig) (ps : List Nat),
    packetComes 0x0206 n t path p s d → 1 ≤ pay p 16 2 → pay p 16 2 ≤ 256 →
    versionsOf d (BitVec.ofNat 64 (pay p 0 8)) ≠ [] → newestPlan? d (BitVec.ofNat 64 (pay p 8 8)) = some l →
    versionsOf d (BitVec.ofNat 64 (pay p 8 8)) ≠ [] → badSwap p l d = none →
    (∀ e ∈ swapContexts p, awaits d [0x0306, 0x0307, 0x0308] (fun q => q.context == e.1) = false) →
    ps = ((swapContexts p).map fun e => (ctxOf d e.1).partition).eraseDups →
    badTwoPhase p (ps.filterMap (partOf? d)) d = none →
    runAdmission (swapBindings (l.plan.identifier, l.plan.version) p d) = .ok c →
    ∃ u x e, exec (.planSwap t path p) s = .next u ∧
      answeredAs n path p d (.accept 0 { session := n, packet := p, path := path, loaded := false }, e) s u ∧
      x = { id := d.cores.nextChange % 65536, opcode := p.opcode, session := n, counter := p.counter,
            commitAt := commitInstant p, prepareBy := d.geyser.now + us (prepareUs p), named := x.named, cores := false,
            packet := p, plan := (l.plan.identifier, l.plan.version), config := c } ∧ x.named.getLsbD 48 = true ∧
      e = { d with cores := { d.cores with changes := d.cores.changes ++ [x], record := changeRecord 0 x
                                           nextChange := e.cores.nextChange } })

/-! ### Subjects, ports, streams and contexts (13 Table 13.7, 01, 02, 04) -/

/-- R14, R15, R103, R111, R243, R339, Table 4.1: SUBJECT_REGISTER binds an unbound slot to a requester and SUBJECT_RELEASE frees one
that no context uses; PORT_ROLE_SET gives a port its role and speed, once; TAP_STREAM_OPEN makes the stream of its payload, schedules
the commits its admission brings and takes memory for its frame ring; TAP_STREAM_CLOSE removes a stream that no context uses and
releases that memory; with each the port reports the multicast groups that its streams use.
The model's readings that this rests on: log 8. -/
def Obligations.SubjectPortStreamCommands : Prop :=
  (∀ (n : Nat) (t : Time) (path : Path) (p : Packet) (s : State) (d : Dev) (i : Nat), packetComes 0x0301 n t path p s d →
    i = inl p 0 1 → i ≤ 1 →
    ∃ u, exec (.subjectRegister t path p) s = .next u ∧
      ((slotOf d i).requester.isSome → answeredAs n path p d (refuseF cState 9 0x20, d) s u) ∧
      ((slotOf d i).requester = none → answeredAs n path p d (.ok 0, { d with
        slots := kput d.slots i { slotOf d i with requester := some (BitVec.ofNat 16 (inl p 2 2)) } }) s u)) ∧
  (∀ (n : Nat) (t : Time) (path : Path) (p : Packet) (s : State) (d : Dev) (i : Nat), packetComes 0x0302 n t path p s d →
    i = inl p 0 1 → i ≤ 1 → (slotOf d i).requester.isSome →
    ∃ u, exec (.subjectRelease t path p) s = .next u ∧
      ((∃ e ∈ d.contexts, e.2.state ≠ .closed ∧ e.2.slot = i) → answeredAs n path p d (refuseF cState 9 0x20, d) s u) ∧
      ((∀ e ∈ d.contexts, e.2.state ≠ .closed → e.2.slot ≠ i) → answeredAs n path p d (.ok 0, { d with
        slots := kput d.slots i { slotOf d i with requester := none } }) s u)) ∧
  (∀ (n : Nat) (t : Time) (path : Path) (p : Packet) (s : State) (d e : Dev) (i r v : Nat), packetComes 0x0303 n t path p s d →
    i = inl p 0 1 → r = inl p 1 1 → v = inl p 2 1 → i ≤ 3 → 1 ≤ r → r ≤ 3 → 1 ≤ v → v ≤ 2 → (portOf d i).role = .none_ →
    r ≠ 2 ∨ inFabric d = true ∨ (∀ j, j < 4 → (portOf d j).role ≠ .fabric) →
    e = { d with
      ports := kput d.ports i { portOf d i with
        role := if r = 1 then .tap else if r = 2 then .fabric else .out, speed := v }
      geyser := { d.geyser with ports := kput d.geyser.ports i { ptpOf d i with announceAt := d.geyser.now } } } →
    ∃ u, exec (.portRoleSet t path p) s = .next u ∧ answeredAs n path p d (.ok 0, runBmca e) s u) ∧
  (∀ (n : Nat) (t : Time) (path : Path) (p : Packet) (s : State) (d e : Dev) (x : Stream) (i : Nat) (c : AdmitConfig),
    packetComes 0x0304 n t path p s d → x = streamOfPacket p d.geyser.now → i = pay p 0 2 → x.grades < 4 → badStream p = none →
    (partOf? d x.partition).isSome = true → badPart p x.partition = none → (portOf d x.port).role = .tap → streamOf? d i = none →
    (d.streams.filter fun y => y.2.port == x.port).length < 8 →
    (∀ y ∈ d.streams, y.2.port = x.port → y.2.dst ≠ x.dst ∨ y.2.udpPort ≠ x.udpPort ∨ y.2.ssrc ≠ x.ssrc) →
    e = { d with streams := kput d.streams i x } → runAdmission e = .ok c →
    ∃ u cs, exec (.tapStreamOpen t path p) s = .next u ∧ cs = commitsFor e d.geyser.now c (concerned e c []) ∧
      answeredAs n path p d (.accept 0 { session := n, packet := p, path := path, due := boundaryOf cs },
        allocate (.ring i) x.partition .durable false (x.slots * canonLen (layer0Of x)) (queueCommits cs (reportGroups x.port e))) s u) ∧
  (∀ (n : Nat) (t : Time) (path : Path) (p : Packet) (s : State) (d : Dev) (x : Stream) (i : Nat), packetComes 0x0305 n t path p s d →
    i = inl p 0 2 → streamOf? d i = some x → badPart p x.partition = none →
    (∀ e ∈ d.contexts, e.2.state ≠ .closed → i ∉ e.2.streams) → x.opened = true →
    ∃ u, exec (.tapStreamClose t path p) s = .next u ∧
      answeredAs n path p d (.ok 0, release (.ring i) (reportGroups x.port { d with streams := kdel d.streams i })) s u) ∧
  (∀ (k : Nat) (d : Dev), reportGroups k d = { d with ports := kput d.ports k { portOf d k with
      groups := (portOf (reportGroups k d) k).groups } } ∧
    ∀ a, a ∈ (portOf (reportGroups k d) k).groups ↔
      a.toNat / 2 ^ 28 = 14 ∧ ∃ y ∈ d.streams, y.2.port = k ∧ y.2.dst = a)

/-- R29, R32, R36, R37, R245, R340, R341, Table 2.1: CONTEXT_OPEN makes an ADMITTED context of its template, streams, slot and port,
with an evidence, a challenge and a verdict queue whose counts begin at the first sequence number, memory for its rings, and the read
masks that follow; CONTEXT_CLOSE closes an ADMITTED context and lets another open one drain; CONTEXT_RESUME gives a suspended one an activation instant; CONTEXT_STATUS answers state and accepted sequence number.
The model's readings that this rests on: logs 5 and 8. -/
def Obligations.ContextCommands : Prop :=
  (∀ (n : Nat) (t : Time) (path : Path) (p : Packet) (s : State) (d e : Dev) (o : OpenNames) (ev ch : Nat) (c : AdmitConfig)
      (cs : List PendingCommit), packetComes 0x0306 n t path p s d →
    (pay p 0x32 2 < 2 ∧ pay p 0x52 2 < 2 ∧ pay p 0x72 2 < 2) → openNames p d = .ok o → (ctxOf d p.context).state = .closed →
    awaits d [0x0307] (fun q => q.context == p.context) = false → d.contexts.length < 65536 → openRange p o d = none → openState p o d = none → newContext p o d = (some (ev, ch), e) →
    ringShort o e = none → runAdmission e = .ok c → cs = commitsFor e d.geyser.now c (concerned e c [o.template.partition]) →
    boundaryOf cs ≤ o.activation →
    ∃ u x, exec (.contextOpen t path p) s = .next u ∧
      answeredAs n path p d (.accept (placesWord ev ch)
        { session := n, packet := p, path := path, due := o.activation, loaded := false },
        setMasks (allocate (.queues p.context) o.template.partition .durable false (2 ^ pay p 0x31 1 + 64 * 2 ^ pay p 0x51 1)
          (journalCtx p.context (queueCommits cs e)))) s u ∧
      ctxOf e p.context = x ∧ x.state = .admitted ∧ x.planId = o.plan.plan.identifier ∧ x.planVersion = o.plan.plan.version ∧
      x.template = o.index ∧ x.partition = o.template.partition ∧ x.slot = o.slot ∧ x.streams = o.streams ∧
      x.outPort = pay p 0xA 1 ∧ x.unclaimedLimit = (if pay p 0xB 1 = 0 then 3 else pay p 0xB 1) ∧
      x.activation = o.activation ∧ x.results = [] ∧ x.accepted + 1 = pay p 0x10 8 ∧ x.recorded = x.accepted ∧
      (queueOf e x.vQueue).producer = x.accepted ∧ (queueOf e x.vQueue).consumer = x.accepted ∧
      (queueOf e x.vQueue).kind = 5 ∧
      (∀ k, k ≠ p.context → ctxOf e k = ctxOf d k)) ∧
  (∀ (n : Nat) (t : Time) (path : Path) (p : Packet) (s : State) (d e : Dev) (x : Context), packetComes 0x0307 n t path p s d →
    x = ctxOf d p.context → x.state ≠ .closed → x.state ≠ .draining → badPart p x.partition = none →
    ctxPending d p.context = false → e = journalCtx p.context (modCtx p.context (fun x => { x with state := .draining }) d) →
    ∃ u, exec (.contextClose t path p) s = .next u ∧
      (x.results = [] ∧ x.heldRecords = [] → answeredAs n path p d (.accept 0 {
        session := n, packet := p, path := path, done := BitVec.ofNat 64 x.recorded },
          if x.state = .admitted then closeContext p.context d else closeIfDrained p.context e) s u) ∧
      (¬ (x.results = [] ∧ x.heldRecords = []) →
        answeredAs n path p d (.accept 0 { session := n, packet := p, path := path, loaded := false }, e) s u)) ∧
  (∀ (n : Nat) (t : Time) (path : Path) (p : Packet) (s : State) (d : Dev) (x : Context) (q : Partition) (act : Time)
      (c : AdmitConfig) (cs : List PendingCommit), packetComes 0x0308 n t path p s d → x = ctxOf d p.context →
    x.state = .suspended → badPart p x.partition = none → ctxPending d p.context = false → inl p 0 4 < 1000000000 →
    act = ofSecNs (inl p 4 6) (inl p 0 4) → partOf? d x.partition = some q → isBoundary q act = true → d.geyser.now < act →
    runAdmission (modCtx p.context (fun x => { x with state := .active }) d) = .ok c →
    cs = commitsFor d d.geyser.now c (concerned (modCtx p.context (fun x => { x with state := .active }) d) c [x.partition]) →
    boundaryOf cs ≤ act →
    ∃ u, exec (.contextResume t path p) s = .next u ∧
      answeredAs n path p d (.accept 0 { session := n, packet := p, path := path, due := act, loaded := false },
        modCtx p.context (fun x => { x with activation := act }) (queueCommits cs d)) s u) ∧
  (∀ (n : Nat) (t : Time) (path : Path) (p : Packet) (s : State) (d : Dev) (x : Context), packetComes 0x0309 n t path p s d →
    x = ctxOf d p.context → x.state = .closed ∨ badPart p x.partition = none →
    ∃ u, exec (.contextStatus t path p) s = .next u ∧ answeredAs n path p d (.ok (if x.state = .closed then 0 else
      BitVec.ofNat 64 (ctxCode x.state * 2 ^ 60 + x.accepted % 2 ^ 56)), d) s u)

/-! ### Time, faults, watchdogs, maintenance and fabric (13 Tables 13.9 to 13.12) -/

/-- R342, R383, R391, R396: TIME_READ answers seconds and nanoseconds; TIME_STATUS the clock state, master and offset;
TIME_SET steps an UNLOCKED clock to the named time while no context is open and no change is pending; PTP_CONFIG takes a record
in range, with REFERENCE_LOST back to UNLOCKED; PULSE_SET runs an output, with the occurrences of a periodic pulse that lie
past skipped and told; PULSE_STOP drives it low.
The model's readings that this rests on: log 31. -/
def Obligations.TimeCommands : Prop :=
  (∀ (n : Nat) (t : Time) (path : Path) (p : Packet) (s : State) (d : Dev), packetComes 0x0401 n t path p s d →
    ∃ u, exec (.timeRead t path p) s = .next u ∧ answeredAs n path p d (.ok (BitVec.ofNat 64 (
      d.geyser.now / ns 1 / 1000000000 % 2 ^ 32 * 2 ^ 32 + d.geyser.now / ns 1 % 1000000000)), d) s u) ∧
  (∀ (n : Nat) (t : Time) (path : Path) (p : Packet) (s : State) (d : Dev), packetComes 0x0402 n t path p s d →
    ∃ u, exec (.timeStatus t path p) s = .next u ∧ answeredAs n path p d (.ok (BitVec.ofNat 64 (
      clockCode d.geyser.state * 2 ^ 56 + d.geyser.master % 256 * 2 ^ 48 +
        (BitVec.ofInt 32 (max (-2147483648) (min 2147483647 d.geyser.offset))).toNat)), d) s u) ∧
  (∀ (n : Nat) (t : Time) (path : Path) (p : Packet) (s : State) (d : Dev), packetComes 0x0403 n t path p s d →
    inl p 0 4 < 1000000000 →
    ∃ u, exec (.timeSet t path p) s = .next u ∧
      (d.geyser.state ≠ .unlocked → answeredAs n path p d (refuseF cState 11 0x20, d) s u) ∧
      (d.geyser.state = .unlocked → anyContext d = true ∨ changePending d = true →
        answeredAs n path p d (refuseF cState 9 0x20, d) s u) ∧
      (d.geyser.state = .unlocked → anyContext d = false → changePending d = false →
        answeredAs n path p d (.ok 0, applyStep ((ofSecNs (inl p 4 6) (inl p 0 4) : Int) - d.geyser.now) d) s u)) ∧
  (∀ (n : Nat) (t : Time) (path : Path) (p : Packet) (s : State) (d : Dev), packetComes 0x0404 n t path p s d →
    pay p 1 1 < 8 → badPtp p = none →
    (∀ i, i < 4 → pay p (8 + 4 * i) 1 ≠ 0 → (portOf d i).role = .tap ∨ (portOf d i).role = .fabric) →
    ((List.range 4).filter fun i => pay p (10 + 4 * i) 1 == 2).length ≤ 1 →
    ∃ u, exec (.ptpConfig t path p) s = .next u ∧
      ((pay p 1 1).testBit 1 = false → answeredAs n path p d (.ok 0, applyPtp (ptpConfigOf p) d) s u) ∧
      ((pay p 1 1).testBit 1 = true → anyContext d = false → changePending d = false →
        answeredAs n path p d (.ok 0, applyPtp (ptpConfigOf p) (clockTo .unlocked d.geyser.master d)) s u)) ∧
  (∀ (n : Nat) (t : Time) (path : Path) (p : Packet) (s : State) (d : Dev) (o mode : Nat) (start : Time) (skip : Nat) (x : Pulse),
    packetComes 0x0405 n t path p s d → o = inl p 0 1 → o ≤ 7 → mode = inl p 1 1 → mode = 1 ∨ mode = 2 →
    inl p 4 4 < 1000000000 → start = ofSecNs (inl p 8 6) (inl p 4 4) → (mode = 1 → pay p 0 8 = 0 ∧ d.geyser.now < start) →
    (mode = 2 → 100 ≤ pay p 0 8 ∧ pay p 8 4 < pay p 0 8) → 10 ≤ pay p 8 4 → pulseRuns (pulseOf d o) = false →
    skip = (if mode = 2 ∧ start ≤ d.geyser.now then (d.geyser.now - start) / ns (pay p 0 8) + 1 else 0) →
    x = { mode := mode, run := true, stopped := (pulseOf d o).stopped, start := start, period := ns (pay p 0 8),
          width := ns (pay p 8 4), n := skip } →
    ∃ u, exec (.pulseSet t path p) s = .next u ∧ answeredAs n path p d (.ok (BitVec.ofNat 64 (if mode = 2 then
      min skip 4294967295 * 2 ^ 32 + (start + skip * ns (pay p 0 8)) / ns 1 % 1000000000 else 0)),
      { d with geyser := { d.geyser with pulses := kput d.geyser.pulses o x } }) s u) ∧
  (∀ (n : Nat) (t : Time) (path : Path) (p : Packet) (s : State) (d : Dev) (o : Nat), packetComes 0x0406 n t path p s d →
    o = inl p 0 1 → o ≤ 7 →
    ∃ u, exec (.pulseStop t path p) s = .next u ∧ answeredAs n path p d (.ok 0, { d with geyser := { d.geyser with
      pulses := kput d.geyser.pulses o { pulseOf d o with mode := 0, run := false, level := false } } }) s u)

/-- R343, R344, R345, R409, R413 to R415: DIAG_READ writes the item's response into the buffer and answers its length;
FAULT_CONFIG sets class, mask, n and w of a source that is not fixed, and ERR_N follows; FAULT_TEST forces a source for its duration and answers
what the test saw; HOLD asserts ERR_N and RELEASE_HOLD lets it follow the sources again.
The model's readings that this rests on: log 36. -/
def Obligations.FaultCommands : Prop :=
  (∀ (n : Nat) (t : Time) (path : Path) (p : Packet) (s : State) (d : Dev) (item inst index : Nat) (x : DiagItem)
      (r : List Byte × Nat), packetComes 0x0501 n t path p s d → item = inl p 0 2 → inst = inl p 2 2 → index = inl p 4 4 →
    1 ≤ item → item ≤ 15 → diagItem? item inst index d = some x → badBuffer p 0 = none → 16 + diagLead item ≤ bufLen p 0 →
    r = diagResponse item inst index (bufLen p 0) x →
    ∃ u, exec (.diagRead t path p) s = .next u ∧ answeredAs n path p d (.ok (BitVec.ofNat 64 r.1.length),
      diagSeen item inst index r.2 { d with front := { d.front with hostDmaAddr := bufAddr p 0, hostDmaData := r.1 } }) s u) ∧
  (∀ (n : Nat) (t : Time) (path : Path) (p : Packet) (s : State) (d : Dev) (i : Nat), packetComes 0x0502 n t path p s d →
    i = inl p 0 2 → i ≤ 767 → 1 ≤ inl p 2 1 → inl p 3 1 ≤ 31 → ((inl p 3 1).testBit 2 = true → i < 512 ∨ 766 ≤ i) →
    1 ≤ inl p 4 4 → inl p 4 4 ≤ 60000000 → inl p 8 1 ≤ 1 →
    ∃ u, exec (.faultConfig t path p) s = .next u ∧
      ((srcOf d i).fixed = true → answeredAs n path p d (refuseF cState 11 0x20, d) s u) ∧
      ((srcOf d i).fixed = false → answeredAs n path p d (.ok 0, errUpdate { d with cal := { d.cal with
        src := kput d.cal.src i { srcOf d i with cls := inl p 8 1, mask := inl p 3 1, n := inl p 2 1, w := inl p 4 4 } } }) s u)) ∧
  (∀ (n : Nat) (t : Time) (path : Path) (p : Packet) (s : State) (d e : Dev) (i : Nat), packetComes 0x0503 n t path p s d →
    i = inl p 0 2 → i ≤ 767 → 1 ≤ inl p 4 4 → inl p 4 4 ≤ 50 → (∀ y ∈ d.cal.src, y.2.force = false) →
    e = pump (forceClear i (advance (d.geyser.now + us (inl p 4 4)) (forceSet i d))) →
    ∃ u, exec (.faultTest t path p) s = .next u ∧ answeredAs n path p d (.ok (BitVec.ofNat 64 (
      bit 56 (srcOf e i).testSticky + bit 57 (srcOf e i).testSevere + (srcOf e i).heldMask)), e) s u) ∧
  (∀ (n : Nat) (t : Time) (path : Path) (p x : Packet) (s : State) (d : Dev), x = { p with inl := 1 :: p.inl.drop 1 } →
    packetComes 0x0504 n t path x s d →
    ∃ u, exec (.hold t path p) s = .next u ∧ answeredAs n path x d (.ok 1, { d with cal := { d.cal with
      hold := true, errN := true, assertedAt := if d.cal.errN then d.cal.assertedAt else d.geyser.now } }) s u) ∧
  (∀ (n : Nat) (t : Time) (path : Path) (p x : Packet) (s : State) (d e : Dev), x = { p with inl := 2 :: p.inl.drop 1 } →
    packetComes 0x0504 n t path x s d → e = errUpdate { d with cal := { d.cal with hold := false } } →
    ∃ u, exec (.releaseHold t path p) s = .next u ∧
      answeredAs n path x d (.ok (BitVec.ofNat 64 (bit 0 e.cal.errN)), e) s u)

/-- R149, R150, R292, R369, R346, R375, R376, R429, R434, R435: WATCHDOG_SET enables the device watchdog, once, with its first
value 0x5AA5; MONITOR_SET makes a monitor, once; CHECKIN counts in a monitor of kind 1; SCRUB_PERIOD schedules what its
admission brings; PACE_CONFIG fixes the setpoint or tracks with a guard; FIRMWARE_STAGE and FIELD_LOCK are accepted;
WARM_RESET commands the reset.
The model's readings that this rests on: logs 8 and 24. -/
def Obligations.WatchAndMaintenanceCommands : Prop :=
  (∀ (n : Nat) (t : Time) (path : Path) (p : Packet) (s : State) (d : Dev), packetComes 0x0505 n t path p s d →
    1000 ≤ inl p 0 4 → inl p 0 4 ≤ 10000000 → 1 ≤ inl p 4 4 → inl p 4 4 + 500 ≤ inl p 0 4 →
    ∃ u, exec (.watchdogSet t path p) s = .next u ∧
      (d.watch.dwd.enabled = true → answeredAs n path p d (refuseF cState 11 0x20, d) s u) ∧
      (d.watch.dwd.enabled = false → answeredAs n path p d (.ok 0, { d with watch := { d.watch with dwd := { d.watch.dwd with
        enabled := true, state := .running, periodUs := inl p 0 4, openUs := inl p 4 4, last := d.geyser.now,
        next := 0x00005AA5 } } }) s u)) ∧
  (∀ (n : Nat) (t : Time) (path : Path) (p : Packet) (s : State) (d : Dev) (m : Nat), packetComes 0x0506 n t path p s d →
    m = pay p 0 2 → m ≤ 4095 → 1 ≤ pay p 2 1 → pay p 2 1 ≤ 2 → 1000 ≤ pay p 4 4 → pay p 4 4 ≤ 60000000 → 1 ≤ pay p 10 2 →
    pay p 8 2 ≤ pay p 10 2 →
    ∃ u, exec (.monitorSet t path p) s = .next u ∧
      ((kfind? d.watch.monitors m).isSome → answeredAs n path p d (refuseF cState 11 0x40, d) s u) ∧
      (kfind? d.watch.monitors m = none → answeredAs n path p d (.ok 0, { d with watch := { d.watch with
        monitors := kput d.watch.monitors m { kind := pay p 2 1, windowUs := pay p 4 4, minimum := pay p 8 2,
                                              maximum := pay p 10 2, start := d.geyser.now } } }) s u)) ∧
  (∀ (n : Nat) (t : Time) (path : Path) (p : Packet) (s : State) (d : Dev) (m : Nat) (x : Monitor),
    packetComes 0x0507 n t path p s d → m = inl p 0 2 → m ≤ 4095 → kfind? d.watch.monitors m = some x →
    ∃ u, exec (.checkin t path p) s = .next u ∧
      (x.kind = 2 → answeredAs n path p d (refuseF cState 10 0x20, d) s u) ∧
      (x.kind ≠ 2 → answeredAs n path p d (.ok 0, countCheckin m d) s u)) ∧
  (∀ (n : Nat) (t : Time) (path : Path) (p : Packet) (s : State) (d : Dev) (v : Nat) (c : AdmitConfig),
    packetComes 0x0601 n t path p s d → v = inl p 0 2 → 10 ≤ v → v ≤ 600 →
    runAdmission { d with memctl := { d.memctl with passSec := v } } = .ok c →
    ∃ u cs, exec (.scrubPeriod t path p) s = .next u ∧ cs = commitsFor d d.geyser.now c (concerned d c []) ∧
      answeredAs n path p d (.accept 0 { session := n, packet := p, path := path, due := boundaryOf cs }, queueCommits cs d) s u) ∧
  (∀ (n : Nat) (t : Time) (path : Path) (p : Packet) (s : State) (d : Dev) (mv : Nat), packetComes 0x0801 n t path p s d →
    mv = inl p 2 2 → inl p 0 1 = 1 → inl p 1 1 = 0 → 720 ≤ mv → mv ≤ 900 → mv % 5 = 0 →
    ∃ u, exec (.paceConfig t path p) s = .next u ∧ answeredAs n path p d (.ok 0, { d with pace := { d.pace with
      track := false, setpoint := mv, target := mv, stopped := false, failures := 0 } }) s u) ∧
  (∀ (n : Nat) (t : Time) (path : Path) (p : Packet) (s : State) (d : Dev), packetComes 0x0801 n t path p s d →
    inl p 0 1 = 2 → 2 ≤ inl p 1 1 → inl p 1 1 ≤ 20 → inl p 2 2 = 0 →
    ∃ u, exec (.paceConfig t path p) s = .next u ∧ answeredAs n path p d (.ok 0, { d with pace := { d.pace with
      track := true, guardPct := inl p 1 1, stopped := false, failures := 0 } }) s u) ∧
  (∀ (n : Nat) (t : Time) (path : Path) (p : Packet) (s : State) (d : Dev), packetComes 0x0802 n t path p s d →
    badBuffer p 0 = none →
    ∃ u, exec (.firmwareStage t path p) s = .next u ∧
      answeredAs n path p d (.accept 0 { session := n, packet := p, path := path, loaded := false }, d) s u) ∧
  (∀ (n : Nat) (t : Time) (path : Path) (p : Packet) (s : State) (d : Dev), packetComes 0x0803 n t path p s d →
    inl p 0 4 = 0x5741524D →
    ∃ u, exec (.warmReset t path p) s = .next u ∧
      answeredAs n path p d (.ok 0, { d with start := { d.start with commandedAt := some d.geyser.now } }) s u) ∧
  (∀ (n : Nat) (t : Time) (path : Path) (p : Packet) (s : State) (d : Dev), packetComes 0x0804 n t path p s d →
    inl p 0 8 = 0x4649454C444C4F43 →
    ∃ u, exec (.fieldLock t path p) s = .next u ∧
      (d.bonnet.fuseEn = false → answeredAs n path p d (refuseF cState 15 0x20, d) s u) ∧
      (d.bonnet.fuseEn = true → fieldLocked d = true → answeredAs n path p d (refuseF cState 11 0x20, d) s u) ∧
      (d.bonnet.fuseEn = true → fieldLocked d = false →
        answeredAs n path p d (.accept 0 { session := n, packet := p, path := path }, d) s u))

/-- R460 to R463, R485, R486: FABRIC_JOIN of a manager founds the fabric at once, of a worker or spare waits for the manager;
FABRIC_LEAVE is accepted where no context is mapped here; the manager's CONTEXT_REMAP moves a context to a sibling in
service that fits, its own at a boundary; FABRIC_STATUS answers role, numbers, mirror peer and members in service.
The model's readings that this rests on: log 26. -/
def Obligations.FabricCommands : Prop :=
  (∀ (n : Nat) (t : Time) (path : Path) (p : Packet) (s : State) (d : Dev) (a : Accepted), packetComes 0x0701 n t path p s d →
    joinPorts p < 16 → badJoin p = none → inFabric d = false → anyContext d = false → joining? d = none →
    (∃ i, i < 4 ∧ (joinPorts p).testBit i = true ∧ (portOf d i).role = .fabric) →
    a = { session := n, packet := p, path := path, due := d.geyser.now, loaded := decide (pay p 8 1 = 1)
          done := BitVec.ofNat 64 (pay p 9 1) } →
    ∃ u, exec (.fabricJoin t path p) s = .next u ∧
      (pay p 8 1 = 1 → answeredAs n path p d (.accept 0 a, setMaster (journalAdd 0 (.member (pay p 9 1) 1 true Config.serial)
        { d with fabric := joinState 1 p d.fabric })) s u) ∧
      (pay p 8 1 ≠ 1 → answeredAs n path p d (.accept 0 a, { d with fabric := joinState 0 p d.fabric }) s u)) ∧
  (∀ (r : Nat) (p : Packet) (f g : Fabric), g = joinState r p f → g.id = BitVec.ofNat 64 (pay p 0 8) ∧ g.role = r ∧
    g.device = pay p 9 1 ∧ g.hostDomain = pay p 0xA 1 ∧ g.ports = pay p 0xB 1 ∧ g.minFirmware = BitVec.ofNat 32 (pay p 0xC 4) ∧
    g.manager = pay p 9 1 ∧ g.journal = f.journal ∧ g.nextSeq = f.nextSeq ∧ g.map = []) ∧
  (∀ (n : Nat) (t : Time) (path : Path) (p : Packet) (s : State) (d : Dev), packetComes 0x0702 n t path p s d →
    inFabric d = true → mappedHere d = false → d.fabric.role ≠ 1 ∨ othersInService d = false →
    ∃ u, exec (.fabricLeave t path p) s = .next u ∧
      answeredAs n path p d (.accept 0 { session := n, packet := p, path := path, due := d.geyser.now }, d) s u) ∧
  (∀ (n : Nat) (t : Time) (path : Path) (p : Packet) (s : State) (d e : Dev) (target : Nat) (own moves : Bool),
    packetComes 0x0703 n t path p s d → target = inl p 0 1 → inFabric d = true → d.fabric.role = 1 → target ≤ 63 →
    own = ((ctxOf d p.context).state != .closed) → moves = (own && target != d.fabric.device) →
    own = true ∨ (kfind? d.fabric.map p.context.toNat).isSome ∨ p.context ∈ d.fabric.unplaced →
    (own = true → badPart p (ctxOf d p.context).partition = none ∧ ctxPending d p.context = false ∧
      (ctxOf d p.context).state ≠ .draining ∧ awaits d [0x0703] (fun q => q.context == p.context) = false) →
    (∃ m, kfind? d.fabric.members target = some m ∧ m.inService = true) → (siblingFits d).1 = true →
    e = { d with free := d.free + 1, fabric := { d.fabric with unplaced := d.fabric.unplaced.filter (· != p.context) } } →
    ∃ u, exec (.contextRemap t path p) s = .next u ∧ answeredAs n path p d (.accept 0 {
        session := n, packet := p, path := path, due := d.geyser.now, loaded := !moves, done := BitVec.ofNat 64 target },
      if moves then scheduleRemap p.context target e else e) s u) ∧
  (∀ (n : Nat) (t : Time) (path : Path) (p : Packet) (s : State) (d : Dev), packetComes 0x0704 n t path p s d →
    ∃ u, exec (.fabricStatus t path p) s = .next u ∧
      (inFabric d = false → answeredAs n path p d (.refuse cNotMember (refusalWord 0 noField), d) s u) ∧
      (inFabric d = true → answeredAs n path p d (.ok (BitVec.ofNat 64 (d.fabric.role * 2 ^ 56 + d.fabric.device * 2 ^ 48 +
        d.fabric.manager * 2 ^ 40 + ((mirrorPeer? d.fabric).getD d.fabric.device) * 2 ^ 32 +
        (d.fabric.members.filter fun e => e.2.inService).length)), d) s u))

/-! ### The work behind a command (12 R317, 13 R329 to R338, 09 R235 to R239, 10 R249, R267 to R269) -/

/-- R317, R329: from its earliest instant on, a command whose work is done has its final reply: the decided outcome, or DONE
with its word and with what DONE brings: a plan becomes active, a blob usable, a stream opened, the scrub period new, the
fabric left, FIELD_LOCK blown, an attestation signed. The reply replaces ACCEPTED in the replay store and goes to the
session's reply ring, or waits for the next one.
The model's readings that this rests on: logs 9 and 24. -/
def Obligations.FinalReplies : Prop :=
  (∀ (t : Time) (n : Nat) (c : W64) (s : State) (d : Dev) (a : Accepted) (o : W16 × W64), d = advance t s.dev →
    acceptedOf? d n c = some a → o = a.outcome.getD (cDone, a.done) → a.loaded = true → a.mirror = none → a.due ≤ d.geyser.now → stewardUp d = true →
    ∃ u r e, exec (.commandFinalReply t n c) s = .next u ∧ doneAs (serveRings (finalReply a r.1 r.2 e)) s u ∧
      (o.1 ≠ cDone → r = o ∧ e = d) ∧
      (o.1 = cDone → a.packet.opcode ≠ 0x0108 → r = o) ∧
      (o.1 = cDone → a.packet.opcode.toNat ∉ [0x0108, 0x0201, 0x0203, 0x0304, 0x0601, 0x0702, 0x0804] → e = d) ∧
      (o.1 = cDone → a.packet.opcode = 0x0201 → ∀ i v, a.plan = some (i, v) → e = { d with plans := { d.plans with
        loaded := d.plans.loaded.map fun l =>
          if l.plan.identifier == i && l.plan.version == v then { l with active := true } else l } }) ∧
      (o.1 = cDone → a.packet.opcode = 0x0203 → e = { d with plans := { d.plans with
        blobs := d.plans.blobs.map fun b => if b.id == BitVec.ofNat 32 (inl a.packet 8 4) && b.bound.any (fun x => x.1 == BitVec.ofNat 64 (inl a.packet 0 8))
        then { b with usable := true } else b } }) ∧
      (o.1 = cDone → a.packet.opcode = 0x0304 → e = modStream (pay a.packet 0 2) (fun x => { x with opened := true }) d) ∧
      (o.1 = cDone → a.packet.opcode = 0x0601 → e = { d with memctl := { d.memctl with passSec := inl a.packet 0 2 } }) ∧
      (o.1 = cDone → a.packet.opcode = 0x0702 → e = leaveFabric d) ∧
      (o.1 = cDone → a.packet.opcode = 0x0804 → fieldLocked e = true ∧ e.bonnet = { d.bonnet with fieldLock := 7 }) ∧
      (o.1 = cDone → a.packet.opcode = 0x0108 → ∀ b, b = attestBody (bytesAt a.packet.inl 0 16) d →
        b.length + 64 ≤ bufLen a.packet 0 → r = (cDone, BitVec.ofNat 64 (b.length + 64)) ∧
          e.front.hostDmaAddr = bufAddr a.packet 0 ∧
          e.front.hostDmaData = b ++ beBytes 64 (Config.sm2Sign b d.free).toNat)) ∧
  (∀ (t : Time) (n : Nat) (c : W64) (s : State) (d : Dev) (a : Accepted), d = advance t s.dev → acceptedOf? d n c = some a →
    a.loaded = false ∨ a.mirror.isSome ∨ d.geyser.now < a.due ∨ stewardUp d = false →
    ∃ u, exec (.commandFinalReply t n c) s = .next u ∧ doneAs d s u) ∧
  (∀ (a : Accepted) (code : W16) (w : W64) (d u : Dev) (q rq : Nat), (sessOf d a.session).rings = some (q, rq) →
    (sessOf d a.session).closing = false → u = finalReply a code w d →
    (∃ r, kfind? u.queues.replySlots (rq * 65536 + ((queueOf d rq).producer + 1) % 2 ^ (queueOf d rq).exp) =
        some (replyImage ((queueOf d rq).producer + 1) r) ∧ r.status = statusWord d code ∧ r.result = w ∧ r.flags = 2 ∧
        r.counter = a.packet.counter ∧ r.tag = a.packet.tag ∧ r.opcode = a.packet.opcode ∧
        ∀ e ∈ (sessOf u a.session).store, e.counter = a.packet.counter → e.reply = r ∧ e.waiting = false) ∧
      acceptedOf? u a.session a.packet.counter = none) ∧
  (∀ (a : Accepted) (code : W16) (w : W64) (d u : Dev), (sessOf d a.session).rings = none → u = finalReply a code w d →
    ∃ r, (sessOf u a.session).held = (sessOf d a.session).held ++ [r] ∧ r.status = statusWord d code ∧ r.result = w ∧
      u.queues = d.queues)

/-- R332, R337, R338, R243, R356, R367, R369, R494: a transfer that failed its check three times ends its command with 0x061 and
attention class 6; otherwise what the buffer held is checked: an enrolment record, a plan of the named length, the blob that a plan
names, a firmware image for the other slot. A plan and a blob take memory of their partition and are written there.
The model's readings that this rests on: logs 24 and 33. -/
def Obligations.BulkTransfers : Prop :=
  (∀ (t : Time) (n : Nat) (c : W64) (b : List Byte) (k : Nat) (s : State) (d : Dev) (a : Accepted), d = advance t s.dev →
    acceptedOf? d n c = some a → a.packet.opcode.toNat ∈ [0x0106, 0x0201, 0x0203, 0x0802] → a.loaded = false → a.outcome = none →
    a.mirror = none → stewardUp d = true → d.board.linkUp = true → (hostChannel? d).isSome = true →
    ∃ u e, exec (.bulkTransferComplete t n c b k) s = .next u ∧ u = landed { s with dev := e } ∧ u.pending = s.pending ∧
      (3 ≤ k → e.attn.serial = d.attn.serial + 1 ∧
        e = { d with
        attn := e.attn
        accepted := d.accepted.map fun x => if x.session == a.session && x.packet.counter == a.packet.counter
          then { x with loaded := true, outcome := some (cPoisoned, 0), due := d.geyser.now } else x }) ∧
      (k < 3 → a.packet.opcode = 0x0106 → ∀ r, enrolCheck (sessOf d n).provisioning b d = some r →
        e = decide_ a r.1 r.2 d.geyser.now d) ∧
      (k < 3 → a.packet.opcode = 0x0106 → enrolCheck (sessOf d n).provisioning b d = none →
        (sessOf d n).provisioning = false → e = decide_ a cDone
          (BitVec.ofNat 64 (enrolKey false b d).1) d.geyser.now (enrolKey false b d).2) ∧
      (k < 3 → a.packet.opcode = 0x0201 → ∀ p, p = readPlan b →
        (b.length ≠ bufLen a.packet 0 ∨ bufLen a.packet 0 ≠ p.totalLength + 128 →
          e = decide_ a cLayout (refusalWord 6 0x48) d.geyser.now d) ∧
        (b.length = bufLen a.packet 0 → bufLen a.packet 0 = p.totalLength + 128 →
          (∀ r, planBroken p d = some r → e = decide_ a r.1 r.2 d.geyser.now d) ∧
          (planBroken p d = none → planOf? d p.identifier p.version = none → e = newPlan a p d) ∧
          (∀ l, planBroken p d = none → planOf? d p.identifier p.version = some l → e = repairPlan a p l d))) ∧
      (k < 3 → a.packet.opcode = 0x0203 → e = weightsLoaded a b d) ∧
      (k < 3 → a.packet.opcode = 0x0802 → bufLen a.packet 0 = b.length → imageBroken b d = none →
        e = decide_ a cDone (BitVec.ofNat 64 (fieldAt b 8 4)) d.geyser.now { d with bonnet := { d.bonnet with
          staged := some (BitVec.ofNat 32 (fieldAt b 8 4), fieldAt b 6 2) } })) ∧
  (∀ (a : Accepted) (p : Plan) (d : Dev) (c : AdmitConfig) (part : Nat) (e g : Dev), part = a.packet.partition.toNat →
    e = { d with plans := { d.plans with
      loaded := d.plans.loaded ++ [{ plan := p, partition := part, order := d.plans.nextOrder
                                     digest := planDigest p, since := d.geyser.now + ms 1 }]
      nextOrder := d.plans.nextOrder + 1 } } → runAdmission e = .ok c →
    g = allocate (.tensors p.identifier p.version) part .ephemeral false (scratchBytes p)
      (land (.plan p.identifier p.version) part (p.totalLength + 128) e) →
    ∃ cs, cs = commitsFor e d.geyser.now c (concerned e c (p.golden.map (·.partition))) ∧
      newPlan a p d = modAccepted a.session a.packet.counter (fun x => { x with plan := some (p.identifier, p.version) })
        (decide_ a cDone (BitVec.ofNat 64 (bufLen a.packet 0)) (boundaryOf cs) (queueCommits cs
          (setMasks (storeBytes (allocBase g (.plan p.identifier p.version)) part p.raw g))))) ∧
  (∀ (a : Accepted) (p : Plan) (d : Dev) (f : Shortfall), runAdmission { d with plans := { d.plans with
      loaded := d.plans.loaded ++ [{ plan := p, partition := a.packet.partition.toNat, order := d.plans.nextOrder
                                     digest := planDigest p, since := d.geyser.now + ms 1 }]
      nextOrder := d.plans.nextOrder + 1 } } = .error f →
    newPlan a p d = decide_ a f.code (shortfallWord f) d.geyser.now d) ∧
  (∀ (a : Accepted) (p : Plan) (l : LoadedPlan) (d : Dev),
    (l.active = false → repairPlan a p l d = decide_ a cState (refusalWord 13 noField) d.geyser.now d) ∧
    (l.active = true → planDigest p ≠ l.digest → repairPlan a p l d = decide_ a cLayout (refusalWord 1 noField) d.geyser.now d)) ∧
  (∀ (a : Accepted) (b : List Byte) (d : Dev) (id : W64) (blob : W32) (part : Nat) (l : LoadedPlan) (r : List LoadedPlan),
    id = BitVec.ofNat 64 (inl a.packet 0 8) → blob = BitVec.ofNat 32 (inl a.packet 8 4) → versionsOf d id = l :: r →
    part = l.partition →
    (bufLen a.packet 0 ≠ b.length → weightsLoaded a b d = decide_ a cLayout (refusalWord 6 0x48) d.geyser.now d) ∧
    (bufLen a.packet 0 = b.length → (∀ x ∈ d.plans.blobs, x.id ≠ blob) →
      (matching d id blob b.length (Config.sm3 b) = [] →
        weightsLoaded a b d = decide_ a cLayout (refusalWord 2 noField) d.geyser.now d) ∧
      (matching d id blob b.length (Config.sm3 b) ≠ [] → ∃ g, g = land (.blob blob part) part b.length d ∧
        weightsLoaded a b d = decide_ a cDone (BitVec.ofNat 64 (lineCount b.length)) d.geyser.now (modPlans (fun p => { p with
          blobs := p.blobs ++ [{ id := blob, digest := Config.sm3 b, bytes := b, partition := part,
                                 bound := matching d id blob b.length (Config.sm3 b) }] })
          (storeBytes (allocBase g (.blob blob part)) part b g))))) ∧
  (∀ (a : Accepted) (code : W16) (w : W64) (due : Time) (d : Dev), decide_ a code w due d = { d with
    accepted := d.accepted.map fun x => if x.session == a.session && x.packet.counter == a.packet.counter
      then { x with loaded := true, outcome := some (code, w), due := due } else x })

/-! ### Evidence (03) -/

/-- R15, R16, R74 to R77, R541, R435, R436, R438, R265: writes of the subject. A write from a requester that the slot is not bound to
is discarded, counted and reported in class 5. Every other write below the check-in page takes a token for each byte, and one that
finds too few is discarded and counted. A producer offset in one 8-byte write without Relaxed Ordering that is a record boundary and a
multiple of 64, ahead of the last and within the ring ends a batch; a consumer count between the last and the producer frees its
entries; anything else there counts as malformed. A write to published bytes, or to none of a context's, is counted with no other
effect. A check-in counts on its monitor, after the windows that have closed by then, when its word carries the number and its
complement; the first above the maximum is CHECKIN_TOO_MANY.
The model's readings that this rests on: logs 11, 14, 37 and 47. -/
def Obligations.SubjectWrites : Prop :=
  (∀ (t : Time) (who : W16) (c : W32) (v : W64) (size : Nat) (b relaxed : Bool) (s : State) (d e : Dev) (x : Context) (q : Queue),
    d = advance t s.dev → x = ctxOf s.dev c → q = queueOf s.dev x.evQueue → x.state ≠ .closed →
    e = modSlot x.slot (fun k => { k with ingressLevel := ingressAt (slotOf d x.slot) d.geyser.now - size * sec 1,
                                          ingressAt := d.geyser.now }) d →
    (boundTo s.dev x.slot who = false → exec (.evidenceProducerUpdate t who c v size ⟨b, relaxed⟩) s =
      .next { s with dev := securityAttn 3 x.slot who.toNat 0 (modSlot x.slot (fun s => { s with foreign := s.foreign.add 1 }) d) }) ∧
    (boundTo s.dev x.slot who = true → ingressAt (slotOf d x.slot) d.geyser.now < size * sec 1 →
      ∃ u, exec (.evidenceProducerUpdate t who c v size ⟨b, relaxed⟩) s = .next u ∧
        u = { s with dev := { d with slots := u.dev.slots, attn := u.dev.attn } } ∧
        (slotOf u.dev x.slot).discards.n = ((slotOf d x.slot).discards.add 1).n ∧
        (slotOf u.dev x.slot).ingressLevel = (slotOf d x.slot).ingressLevel) ∧
    (boundTo s.dev x.slot who = true → size * sec 1 ≤ ingressAt (slotOf d x.slot) d.geyser.now →
      (size = 8 → b = true → relaxed = false → v.toNat % 64 = 0 → q.producer < v.toNat → v.toNat ≤ q.consumer + 2 ^ q.exp →
        ∃ u, exec (.evidenceProducerUpdate t who c v size ⟨b, relaxed⟩) s = .next u ∧
          u = { s with dev := { e with contexts := u.dev.contexts, queues := u.dev.queues } } ∧
          queueOf u.dev x.evQueue = { q with producer := v.toNat } ∧
          ctxOf u.dev c = { x with batches := x.batches ++ [(v.toNat, d.geyser.now)] }) ∧
      (size ≠ 8 ∨ b = false ∨ relaxed = true ∨ v.toNat % 64 ≠ 0 ∨ v.toNat ≤ q.producer ∨ q.consumer + 2 ^ q.exp < v.toNat →
        exec (.evidenceProducerUpdate t who c v size ⟨b, relaxed⟩) s = .next { s with dev := evMalformed c e }))) ∧
  (∀ (t : Time) (who : W16) (c : W32) (v : W64) (s : State) (d e : Dev) (x : Context) (q : Queue),
    d = advance t s.dev → x = ctxOf s.dev c → q = queueOf s.dev x.chQueue → x.state ≠ .closed → boundTo s.dev x.slot who = true →
    8 * sec 1 ≤ ingressAt (slotOf d x.slot) d.geyser.now →
    e = modSlot x.slot (fun k => { k with ingressLevel := ingressAt (slotOf d x.slot) d.geyser.now - 8 * sec 1,
                                          ingressAt := d.geyser.now }) d →
    (q.consumer ≤ v.toNat → v.toNat ≤ q.producer → ∃ u, exec (.challengeConsumerWrite t who c v) s = .next u ∧
      u = { s with dev := u.dev } ∧
      u.dev = drainEntries c x.heldEntries.length (modQueue x.chQueue (fun q => { q with consumer := v.toNat }) e) ∧
      (x.heldEntries = [] → queueOf u.dev x.chQueue = { q with consumer := v.toNat })) ∧
    (v.toNat < q.consumer ∨ q.producer < v.toNat →
      exec (.challengeConsumerWrite t who c v) s = .next { s with dev := evMalformed c e })) ∧
  (∀ (t : Time) (who : W16) (k : Fin 2) (off : Nat) (v : W32) (s : State) (d : Dev) (m : Nat), d = advance t s.dev →
    m = v.toNat % 65536 →
    (boundTo s.dev k.val who = false → exec (.subjectCheckin t who k off v) s = .next { s with dev := foreignWrite k.val who d }) ∧
    (boundTo s.dev k.val who = true → (∀ x, kfind? s.dev.watch.monitors m = some x →
        off ≠ 0 ∨ v.toNat / 65536 ≠ 65535 - m ∨ x.kind ≠ 2 ∨ m / 2048 ≠ k.val) →
      ∃ e, e = modSlot k.val (fun s => { s with checkinRefused := s.checkinRefused.add 1 }) d ∧
        exec (.subjectCheckin t who k off v) s = .next { s with dev := securityAttn 4 k.val who.toNat 0 e }) ∧
    (∀ x, kfind? s.dev.watch.monitors m = some x → boundTo s.dev k.val who = true → off = 0 → v.toNat / 65536 = 65535 - m →
      x.kind = 2 → m / 2048 = k.val → exec (.subjectCheckin t who k off v) s = .next { s with dev := countCheckin m d })) ∧
  (∀ (m : Nat) (d : Dev) (x : Monitor), kfind? d.watch.monitors m = some x →
    (x.suspended = true → countCheckin m d = d) ∧
    (x.suspended = false → d.geyser.now < x.start + (x.index + 1) * us x.windowUs →
      ∃ e, e = { d with watch := { d.watch with monitors := kput d.watch.monitors m { x with count := x.count + 1 } } } ∧
        countCheckin m d = if x.count = x.maximum then monitorAttn m 2 { x with count := x.count + 1 } (signal 743 e) else e) ∧
    (x.suspended = false → 0 < x.windowUs → x.start + (x.index + 1) * us x.windowUs ≤ d.geyser.now →
      countCheckin m d = countCheckin m (monitorClose m d))) ∧
  (∀ (t : Time) (who : W16) (off size : Nat) (v : W64) (b relaxed : Bool) (s : State) (d e : Dev) (k : Nat), d = advance t s.dev →
    k = off / 0x80000000 → off < 0x100000000 →
    e = modSlot k (fun x => { x with ingressLevel := ingressAt (slotOf d k) d.geyser.now - size * sec 1, ingressAt := d.geyser.now }) d →
    (boundTo s.dev k who = false →
      exec (.bar2Write t who off ⟨v, size⟩ ⟨b, relaxed⟩) s = .next { s with dev := foreignWrite k who d }) ∧
    (boundTo s.dev k who = true → 0x7FFFF000 ≤ off % 0x80000000 → exec (.bar2Write t who off ⟨v, size⟩ ⟨b, relaxed⟩) s =
      .next { s with dev := checkinWrite who k (off % 0x80000000 - 0x7FFFF000) (v.setWidth 32) size d }) ∧
    (boundTo s.dev k who = true → off % 0x80000000 < 0x7FFFF000 → ingressAt (slotOf d k) d.geyser.now < size * sec 1 →
      ∃ u, exec (.bar2Write t who off ⟨v, size⟩ ⟨b, relaxed⟩) s = .next u ∧
        u = { s with dev := { d with slots := u.dev.slots, attn := u.dev.attn } } ∧
        (slotOf u.dev k).discards.n = ((slotOf d k).discards.add 1).n ∧
        (slotOf u.dev k).ingressLevel = (slotOf d k).ingressLevel) ∧
    (boundTo s.dev k who = true → off % 0x80000000 < 0x7FFFF000 → size * sec 1 ≤ ingressAt (slotOf d k) d.geyser.now →
      ∃ u, exec (.bar2Write t who off ⟨v, size⟩ ⟨b, relaxed⟩) s = .next u ∧ u = { s with dev := u.dev } ∧
        (controlAt? s.dev off = none → ringAt? s.dev off = none → u.dev = strayWrite k e) ∧
        (∀ c x q at_, controlAt? s.dev off = none → ringAt? s.dev off = some (c, x) → q = queueOf s.dev x.evQueue →
          at_ = (off - q.base.toNat + 2 ^ q.exp - q.consumer % 2 ^ q.exp) % 2 ^ q.exp →
          (q.consumer < q.producer → at_ < q.producer - q.consumer → u.dev = strayWrite k e) ∧
          (q.producer - q.consumer ≤ at_ → at_ + size ≤ 2 ^ q.exp → u.dev = e)) ∧
        (∀ c x, controlAt? s.dev off = some (c, x, true, 0) → u.dev = producerUpdate who c v.toNat size b relaxed e) ∧
        (∀ c x, controlAt? s.dev off = some (c, x, false, 8) → size = 8 → u.dev = challengeConsumer who c v.toNat e) ∧
        (∀ c x ev o, controlAt? s.dev off = some (c, x, ev, o) → (ev = true → o ≠ 0) → (ev = false → o ≠ 8 ∨ size ≠ 8) →
          u.dev = evMalformed c e)))

/-- R77 to R79, R98 to R100, R35, R36: a record is taken in the order of its queue. A record whose trailer is not its CRC-32C
takes the whole batch with it and counts; a whole one is consumed alone. Deadlines and windows that have come by then come first
(R533). Of another context, a PAD that is not one, of a skipped sequence: malformed; of a concluded result: late. No record is taken in
safe state or during a restart.
The model's readings that this rests on: logs 11 and 14. -/
def Obligations.RecordsAreTaken : Prop :=
  (∀ (t : Time) (c : W32) (type : Byte) (r : Record) (i : Instr) (s : State) (d : Dev) (framed : Bool), d = advance t s.dev →
    (i, type) ∈ [(.commit t c r, 0x01), (.crcList t c r, 0x02), (.opening t c r, 0x03), (.depTile t c r, 0x04),
      (.tensor t c r, 0x05), (.abandon t c r, 0x06), (.evidencePad t c 0x0F r, (0x0F : Byte))] →
    framed = framingOk type r (queueOf d (ctxOf d c).evQueue).consumer (2 ^ (queueOf d (ctxOf d c).evQueue).exp) →
    (serving d = false ∨ d.fabric.isolated = true ∨ (ctxOf d c).state = .closed → ∃ u, exec i s = .next u ∧
      onlyLaunches d u.dev ∧ onlyZeroed s.mem u.mem ∧ u.pending = s.pending) ∧
    (∀ end_ arr rest, recordComes c end_ arr rest d → crc32c (recordBody type r) ≠ r.trailer → ∃ u e, exec i s = .next u ∧
      onlyLaunches (evCrcFail c e) u.dev ∧ ctxOf e c = { ctxOf d c with batches := rest } ∧
      queueOf e (ctxOf d c).evQueue = { queueOf d (ctxOf d c).evQueue with consumer := end_ } ∧
      e = { d with contexts := e.contexts, queues := e.queues } ∧ onlyZeroed s.mem u.mem ∧ u.pending = s.pending) ∧
    (∀ end_ arr rest, recordComes c end_ arr rest d → crc32c (recordBody type r) = r.trailer → mustMirror c type r framed d = false →
      ∃ u, exec i s = .next u ∧ onlyLaunches (handleRecord c type r arr framed (recordConsumed c r end_ rest d)) u.dev ∧
      onlyZeroed s.mem u.mem ∧ u.pending = s.pending)) ∧
  (∀ (c : W32) (type : Byte) (r : Record) (arr : Time) (framed : Bool) (d0 d : Dev), d = expireDue c d0 →
    ((∀ x ∈ (ctxOf d0 c).results, isDue d0 x = false ∧ dueWindows d0 x = x) → d = d0) ∧
    (r.context ≠ c → handleRecord c type r arr framed d0 = evMalformed c d) ∧
    (r.context = c → type = 0x0F → handleRecord c type r arr framed d0 = if framed then d else evMalformed c d) ∧
    (r.context = c → type ≠ 0x0F → resultOf? (ctxOf d c) r.seq.toNat = none → r.seq.toNat ≤ (ctxOf d c).accepted →
      handleRecord c type r arr framed d0 = if r.seq.toNat ∈ (ctxOf d c).skipped ∨ r.seq.toNat < (ctxOf d c).firstSeq
        then evMalformed c d else evLate c d) ∧
    (r.context = c → type ≠ 0x0F → resultOf? (ctxOf d c) r.seq.toNat = none → (ctxOf d c).accepted + 64 < r.seq.toNat →
      handleRecord c type r arr framed d0 = evMalformed c d) ∧
    (∀ res, r.context = c → type ≠ 0x0F → resultOf? (ctxOf d c) r.seq.toNat = some res →
      (res.withheld = true → handleRecord c type r arr framed d0 = evLate c d) ∧
      (res.withheld = false → framed = false → handleRecord c type r arr framed d0 = malformedOn c res.seq (recKey type r) d) ∧
      (res.withheld = false → framed = true → type = 0x06 → handleRecord c type r arr framed d0 =
        concludeResult c res.seq (modResult c res.seq (addReason rEvidenceMissing) d))))

/-- R33 to R37, R92, R96, R97, R263, R264: the first record of a new result opens it under the plan in force, with the capture time
and the deadline that it gives; every sequence before it that no record came for has its record NO_EVIDENCE first. An ABANDON, a
result above the context's rate, of a SUSPENDED context, or past its deadline has its verdict at once, with the reason that says so.
A record that would need more tokens than the slot's bucket holds counts as malformed and opens nothing.
The model's readings that this rests on: log 14. -/
def Obligations.ResultsOpen : Prop :=
  (∀ (c : W32) (type : Byte) (r : Record) (arr : Time) (d0 d : Dev) (x : Context) (l : LoadedPlan) (t : Template),
    d = expireDue c d0 → x = ctxOf d c →
    r.context = c → type ≠ 0x0F → x.accepted < r.seq.toNat → resultOf? x r.seq.toNat = none →
    planOf? d x.planId x.planVersion = some l → templateOf? d x.planId x.planVersion x.template = some t →
    (mayAccept x type r true l.plan t = false → handleRecord c type r arr true d0 = evMalformed c d) ∧
    (mayAccept x type r true l.plan t = true → handleRecord c type r arr true d0 = acceptRecord c type r arr t d)) ∧
  (∀ (c : W32) (type : Byte) (r : Record) (arr : Time) (d e f : Dev) (x : Context) (t : Template) (res : Result), x = ctxOf d c →
    x.heldRecords.length < 256 → r.seq.toNat = x.accepted + 1 → 1000 * sec 1 ≤ rateLevelAt x t arr → x.state = .active →
    type = tCommit → d.geyser.now < captureOf type r + us t.deadlineUs →
    res = { newResult x t.grade r.seq.toNat (captureOf type r) (captureOf type r + us t.deadlineUs) d.geyser.now t.checkCount with
      reasons := 0, overRate := false } →
    (∀ q ∈ x.results, q.seq ≠ r.seq.toNat) →
    e = modCtx c (fun x => { x with
      rateLevel := rateLevelAt x t arr - 1000 * sec 1
      rateAt := arr
      results := x.results ++ [res]
      accepted := r.seq.toNat }) d →
    acceptRecord c type r arr t d = knownRecord c type r arr true res e) ∧
  (∀ (c : W32) (type : Byte) (r : Record) (arr : Time) (d e : Dev) (x : Context) (t : Template) (dead : Time) (why : W32), x = ctxOf d c →
    x.heldRecords.length < 256 → x.accepted < r.seq.toNat →
    (uncheckedAt (slotOf d x.slot) d.geyser.now <
        (r.seq.toNat - x.accepted - 1 + if rateLevelAt x t arr < 1000 * sec 1 then 1 else 0) * sec 1 →
      acceptRecord c type r arr t d =
        evMalformed c (modSlot x.slot (fun s => { s with unchecked := s.unchecked.add 1 }) d)) ∧
    (r.seq.toNat = x.accepted + 1 → 1000 * sec 1 ≤ rateLevelAt x t arr →
      dead = (if type = tAbandon then 0 else captureOf type r + us t.deadlineUs) →
      why = firstReasons x type false dead d.geyser.now → why ≠ 0 →
      e = modCtx c (fun x => { x with
        rateLevel := rateLevelAt x t arr - 1000 * sec 1
        rateAt := arr
        results := x.results ++ [{ newResult x t.grade r.seq.toNat (captureOf type r) dead d.geyser.now t.checkCount with reasons := why }]
        accepted := r.seq.toNat }) d →
      acceptRecord c type r arr t d = concludeResult c r.seq.toNat e) ∧
    (r.seq.toNat = x.accepted + 1 → rateLevelAt x t arr < 1000 * sec 1 → sec 1 ≤ uncheckedAt (slotOf d x.slot) d.geyser.now →
      dead = (if type = tAbandon then 0 else captureOf type r + us t.deadlineUs) →
      why = firstReasons x type true dead d.geyser.now →
      e = modCtx c (fun x => { x with
        rateLevel := rateLevelAt x t arr
        rateAt := arr
        results := x.results ++ [{ newResult x t.grade r.seq.toNat (captureOf type r) dead d.geyser.now t.checkCount with
          reasons := why, overRate := true }]
        accepted := r.seq.toNat }) (modSlot x.slot (fun s => { s with
          uncheckedLevel := uncheckedAt (slotOf d x.slot) d.geyser.now - sec 1, uncheckedAt := d.geyser.now }) d) →
      acceptRecord c type r arr t d = concludeResult c r.seq.toNat e)) ∧
  (∀ (x : Context) (type : Byte) (fast : Bool) (dead now : Time), firstReasons x type fast dead now =
    (if fast then rOverRate else 0) ||| (if x.state = .suspended then rSuspended else 0) |||
      (if type = tAbandon then rEvidenceMissing else if dead ≤ now ∧ x.state ≠ .suspended then rDeadline else 0)) ∧
  (∀ (c : W32) (g : Nat) (d : Dev) (x : Context), x = ctxOf d c → recordSkipped c g (x.accepted + 2) d =
    concludeResult c (x.accepted + 1) (modCtx c (fun x => { x with
      results := x.results ++ [addReason rNoEvidence (newResult x g (x.accepted + 1) 0 0 d.geyser.now 0)]
      accepted := x.accepted + 1
      skipped := (x.accepted + 1) :: x.skipped }) d))

/-- R66, R71, R72, R89 to R95: what a record of an open result does. Malformed contents are remembered with their key until a
valid record of that key comes. The same again is a duplicate, a different commitment, list or tensor is COMMIT_INCONSISTENT.
An opening or a dependency tile after its window is late; a tile that disagrees with its commitment is OPENING_INVALID.
The model's readings that this rests on: logs 12 and 14. -/
def Obligations.RecordsOfResults : Prop :=
  (∀ (c : W32) (type : Byte) (r : Record) (arr : Time) (res : Result) (p : Plan) (t : Template) (d e : Dev) (k : Taken),
    recordFits type r res p t d → type ≠ tAbandon →
    (k, e) = (if type = tCommit then takeCommit c res.seq r arr p t d
      else if type = tCrcList then takeCrcList c res.seq r arr p t d
      else if type = tOpening then takeOpening c res.seq r arr p t d
      else if type = tDepTile then takeDepTile c res.seq r arr p t d
      else takeTensor c res.seq r arr p t d) →
    knownRecord c type r arr true res d = match k with
      | .valid => validOn c res.seq (recKey type r) e
      | .malformed => malformedOn c res.seq (recKey type r) e
      | .late => evLate c e
      | .duplicate => evDup c (keyTaken c res.seq (recKey type r) e)) ∧
  (∀ (c : W32) (seq : Nat) (r : Record) (arr : Time) (p : Plan) (t : Template) (d : Dev) (res : Result),
    resultOf? (ctxOf d c) seq = some res → r.layer ≠ 0 → commitOk p t r = true →
    (∀ m, resCommit? res r.layer.toNat 0 = some m → m.capture = 0 →
      takeCommit c seq r arr p t d = if m.value = BitVec.ofNat 256 (beNat (rpayBytes r 0x20 32)) then (.duplicate, d)
        else (.valid, modResult c seq (inconsistent p t r.layer.toNat) d)) ∧
    (resCommit? res r.layer.toNat 0 = none → t.grade = 1 →
      takeCommit c seq r arr p t d = (.valid, acceptCommit c seq r.layer.toNat arr p t
        (modResult c seq (fun x => { x with commits := x.commits ++ [{
          layer := r.layer.toNat, stream := 0, tensor := rpay r 4 4, tiles := rpay r 8 4
          value := BitVec.ofNat 256 (beNat (rpayBytes r 0x20 32)), arrival := arr, capture := 0 }] }) d))) ∧
    (resCommit? res r.layer.toNat 0 = none → t.grade = 2 →
      takeCommit c seq r arr p t d = (.valid, tryList c seq r.layer.toNat p t (modResult c seq (compareTensor 2 p t r.layer.toNat)
        (modResult c seq (fun x => { x with commits := x.commits ++ [{
          layer := r.layer.toNat, stream := 0, tensor := rpay r 4 4, tiles := rpay r 8 4
          value := BitVec.ofNat 256 (beNat (rpayBytes r 0x20 32)), arrival := arr, capture := 0 }] }) d))))) ∧
  (∀ (c : W32) (seq : Nat) (r : Record) (arr : Time) (p : Plan) (t : Template) (d : Dev) (res : Result) (h : Challenge)
      (w : Nat × Time), resultOf? (ctxOf d c) seq = some res →
    res.challenges.find? (fun h => h.layer == r.layer.toNat && h.tile == r.tile.toNat && h.entry == BitVec.ofNat 32 (rpay r 4 4)) = some h →
    res.windows.find? (·.1 == r.layer.toNat) = some w →
    (arr < w.2 ∨ w.2 + us t.retentionUs ≤ arr → takeOpening c seq r arr p t d = (.late, d)) ∧
    (w.2 ≤ arr → arr < w.2 + us t.retentionUs → h.opened.isSome = true → takeOpening c seq r arr p t d = (.duplicate, d)) ∧
    (w.2 ≤ arr → arr < w.2 + us t.retentionUs → h.opened = none →
      takeOpening c seq r arr p t d = (.valid, modResult c seq (fun q =>
        (if tileAgrees? t.grade res r.layer.toNat h.tile (tilesOfLayer p r.layer.toNat) (rpayBytes r 0x20 4096) (pathEntries r) = some true
          then id else failCheck h.check rOpeningInvalid r.layer.toNat h.tile)
        { q with challenges := q.challenges.map fun g =>
          if g.entry == h.entry && g.layer == r.layer.toNat && g.tile == h.tile
          then { g with opened := some (rpayBytes r 0x20 4096), arrival := arr } else g }) d))) ∧
  (∀ (c : W32) (seq : Nat) (r : Record) (arr : Time) (p : Plan) (t : Template) (d : Dev) (res : Result),
    resultOf? (ctxOf d c) seq = some res →
    (res.deps.find? (fun x => x.layer == r.layer.toNat && x.tile == r.tile.toNat && x.entry == BitVec.ofNat 32 (rpay r 4 4)) = none →
      takeDepTile c seq r arr p t d = (.malformed, d)) ∧
    (t.grade = 1 → takeCrcList c seq r arr p t d = (.malformed, d)) ∧
    (r.layer = 0 → takeTensor c seq r arr p t d = (.malformed, d)))

/-- R52 to R57, R34, R60, R62, R64, R89, R91: an opening window that closes over an unanswered challenge sets OPENING_MISSING on
its check; at the deadline a result with no verdict has DEADLINE, and EVIDENCE_MISSING where evidence is not there; a failed check,
or the last of the checks, concludes the result before. Its verdict follows, after those of all earlier results, which are
OVERTAKEN; each verdict leaves one record that the verdict ring or, while it is full, the journal takes. A device that has lost its
lease issues none, and in safe state no message goes out.
The model's readings that this rests on: log 13. -/
def Obligations.Verdicts : Prop :=
  (∀ (c : W32) (seq : W64) (s : State) (r : Result) (d e : Dev), resultOf? (ctxOf s.dev c) seq.toNat = some r → r.withheld = false →
    inSafe s.dev = false → d = advance r.deadline s.dev → e = modResult c seq.toNat (fun _ => dueWindows d r) d →
    exec (.deadlineExpiry c seq) s = .next (cleared s (concludeResult c seq.toNat (modResult c seq.toNat (lateReasons e) e))) ∧
      onlyVerdicts d (concludeResult c seq.toNat (modResult c seq.toNat (lateReasons e) e))) ∧
  (∀ (d : Dev) (r : Result) (p : Plan) (t : Template), resultPlan? d r = some p → resultTemplate? d r = some t →
    lateReasons d r = addReason rDeadline (if evidenceLacks p t r then addReason rEvidenceMissing r else r) ∧
    (∀ w, r.windows = [w] → dueWindows d r =
      if w.2 + us t.retentionUs ≤ min d.geyser.now r.deadline then windowLacks p t w.1 r else r) ∧
    (∀ layer, (∀ e ∈ indexed (checksOf p t), e.2.kind ≠ 2 ∨ e.2.firstLayer ≠ layer) → windowLacks p t layer r = r) ∧
    (∀ layer n e, (indexed (checksOf p t)).filter (fun e => e.2.kind == 2 && e.2.firstLayer == layer) = [(n, e)] →
      (∃ h ∈ r.challenges, h.check = n ∧ h.opened = none) → windowLacks p t layer r = missCheck n rOpeningMissing r)) ∧
  (∀ (c : W32) (seq : W64) (layer : W16) (s : State) (r : Result) (t : Template) (w : Nat × Time) (d : Dev),
    resultOf? (ctxOf s.dev c) seq.toNat = some r → resultTemplate? s.dev r = some t →
    r.windows.find? (·.1 == layer.toNat) = some w → d = advance (w.2 + us t.retentionUs) s.dev →
    (inSafe s.dev = true → exec (.openingWindowClose c seq layer) s = .next (cleared s d)) ∧
    (inSafe s.dev = false → exec (.openingWindowClose c seq layer) s = .next (cleared s (progress c seq.toNat d)))) ∧
  (∀ (c : W32) (seq : Nat) (d e : Dev) (r q : Result), resultOf? (ctxOf d c) seq = some r → q = dueWindows d r →
    e = modResult c seq (fun _ => q) d →
    (r.withheld = true → settle c seq d = d) ∧
    (r.withheld = false → isDue e q = false →
      (q.reasons &&& refutedMask ≠ 0 → settle c seq d = concludeResult c seq e) ∧
      (q.reasons &&& refutedMask = 0 → (q.checks = [] ∨ .open_ ∈ q.checks) → settle c seq d = e) ∧
      (∀ p t, q.reasons &&& refutedMask = 0 → q.checks ≠ [] → .open_ ∉ q.checks → resultPlan? e q = some p →
        resultTemplate? e q = some t → settle c seq d = concludeResult c seq
          (if q.reasons = 0 ∧ evidenceLacks p t q = true then modResult c seq (addReason rEvidenceMissing) e else e)))) ∧
  (∀ (c : W32) (seq : Nat) (d : Dev), (∀ q ∈ (ctxOf d c).results, seq ≤ q.seq) → concludeResult c seq d = issueVerdict c seq d) ∧
  (∀ (c : W32) (seq : Nat) (d : Dev) (r : Result), resultOf? (ctxOf d c) seq = some r → d.fabric.isolated = true →
    issueVerdict c seq d = d) ∧
  (∀ (c : W32) (seq : Nat) (d : Dev) (r : Result) (x : Context), x = ctxOf d c → resultOf? x seq = some r →
    d.fabric.isolated = false → r.attributed = [] → r.challenges = [] → r.deps = [] → x.state = .active →
    ringRoom d x r.seq = true → x.heldRecords = [] → inSafe d = true → r.seq = seq →
    ∃ u, u = issueVerdict c seq d ∧ (ctxOf u c).results = x.results.filter (fun q => q.seq != seq) ∧ (ctxOf u c).recorded = seq ∧
      u.queues = (writeRecord x.vQueue (resultRecord c r d) d).queues ∧ u.ports = d.ports ∧
      (resultRecord c r d).verdict = verdictOf r.reasons ∧ (resultRecord c r d).seq = seq) ∧
  (∀ (c : W32) (seq : Nat) (d : Dev) (r : Result) (x : Context), x = ctxOf d c → resultOf? x seq = some r →
    d.fabric.isolated = false → r.attributed = [] → r.challenges = [] → r.deps = [] → x.state = .active →
    ringRoom d x r.seq = false ∨ x.heldRecords ≠ [] → inSafe d = true → r.seq = seq →
    ∃ u, u = issueVerdict c seq d ∧ (ctxOf u c).heldRecords = x.heldRecords ++ [resultRecord c r d] ∧ (ctxOf u c).recorded = seq ∧
      u.queues = d.queues ∧ ∃ l, u.fabric.journal = d.fabric.journal ++ [l] ∧ l.body = .held (resultRecord c r d)) ∧
  (∀ b : W32, verdictOf b = if b &&& 0x10000000 ≠ 0 then 6 else if b &&& 0x1F ≠ 0 then 3 else if b &&& 0x1000 ≠ 0 then 4
    else if b &&& 0x01FF0000 ≠ 0 then 5 else if b &&& 0x100 ≠ 0 then 2 else 1)

/-! ### Cores, engines and pairs (05, 07, 08, 09, 10) -/

/-- R252, R117, R427, R207, R204, R205, R219, R118, R120, R254: a window of the frame table in force opens at its instant of its major
frame on each unfenced core it names, which zeroes its state, leaves no bundle and works for the window's partition from 1,024 steps
on; it closes at its close instant, when a run that is not complete has overrun. A kernel completes when its bundles have ended, its
engines, transfers and posts are done and its signatures have compared; before its time ends that frees its cores and its outputs
conclude its check, or are compared with the golden entry's root and digest. A stopped kernel is run once more.
The model's readings that this rests on: logs 18 and 23. -/
def Obligations.WindowsAndRuns : Prop :=
  (∀ (k : Fin 16) (i : Nat) (frame : Int) (s : State) (w : Window) (q : Partition) (opens : Time) (here : List Nat),
    (kget [] s.dev.sched.tables k.val)[i]? = some w → framePart? s.dev k.val w = some q →
    opens = ((q.epoch : Int) + frame * us q.majorUs + ns w.start).toNat →
    here = ((List.range 4).filter fun i => w.mask.testBit i).map (4 * k.val + ·) →
    (serving s.dev = false ∨ (q.epoch : Int) + frame * us q.majorUs + ns (w.start + w.length) ≤ s.dev.geyser.now →
      exec (.frameTableWindowStart k i frame) s = .next (cleared s s.dev)) ∧
    (serving s.dev = true → (s.dev.geyser.now : Int) < q.epoch + frame * us q.majorUs + ns (w.start + w.length) →
      (∀ c ∈ here, (coreOf s.dev c).window = none) →
      ∃ u e, exec (.frameTableWindowStart k i frame) s = .next u ∧
        u = cleared s (pump (if w.kind = .golden then dueAll w.partition q frame here (starvedAll e) else e)) ∧
        e.geyser.now = max s.dev.geyser.now opens ∧ e.attn = s.dev.attn ∧ e.cal = s.dev.cal ∧ e.sched = s.dev.sched ∧
        (∀ c ∈ here, isFenced s.dev c = false → coreOf e c = { coreOf s.dev c with
          bundles := [], store := [], forwards := [], posts := [], loadConst := [], engines := [], mustZero := true,
          window := some { partition := w.partition, kind := w.kind, opens := opens, closes := opens + ns w.length, ready := afterSteps s.dev opens 1024, donate := w.donate } }) ∧
        (∀ c, c ∉ here ∨ isFenced s.dev c = true → coreOf e c = coreOf s.dev c) ∧
        (∀ c ∈ here, isFenced s.dev c = false → (uwdOf s.dev c).state = .held →
          uwdOf e c = { uwdOf s.dev c with state := .running, last := e.geyser.now }))) ∧
  (∀ (k : Fin 16) (c : Fin 4) (s : State) (n : Nat) (w : CoreWindow), n = 4 * k.val + c.val → (coreOf s.dev n).window = some w →
    (runOn? s.dev n = none → exec (.windowClose k c) s = .next (cleared s
      (modCore n (fun c => { c with window := none }) (missWaiting n (advance w.closes s.dev))))) ∧
    (∀ r, runOn? s.dev n = some r → exec (.windowClose k c) s = .next (cleared s
      (modCore n (fun c => { c with window := none }) (missWaiting n (overrun r (advance w.closes s.dev))))))) ∧
  (∀ (t : Time) (n : Fin 64) (x : RunUpset) (s : State) (d : Dev) (r : Run_) (k : Kernel), d = advance t s.dev →
    runOn? s.dev n.val = some r → opKernel? s.dev r.op = some k →
    (r.stopped = true ∨ runComplete d r k = false → exec (.kernelComplete t n x) s = .next (cleared s d)) ∧
    (r.stopped = false → runComplete d r k = true →
      (∀ w, (coreOf s.dev n.val).window = some w →
        (if r.donated then afterSteps d d.geyser.now 1024 else d.geyser.now) < w.closes) →
      exec (.kernelComplete t n x) s = .next (cleared s (pump (finishRun r x d)))) ∧
    (∀ w, r.stopped = false → runComplete d r k = true → (coreOf s.dev n.val).window = some w →
      w.closes ≤ (if r.donated then afterSteps d d.geyser.now 1024 else d.geyser.now) →
      exec (.kernelComplete t n x) s = .next (cleared s (overrun r d)))) ∧
  (∀ (d : Dev) (r : Run_) (k : Kernel), runComplete d r k = true ↔ gridGroups k ≤ r.nextGroup ∧
    (∀ n ∈ r.cores, (coreOf d n).bundles = [] ∧ (coreOf d n).store = [] ∧ (coreOf d n).posts = [] ∧
      ∀ e ∈ (coreOf d n).engines, e.2.op = none) ∧
    ∀ e ∈ d.cores.dma, e.2.busy = true → e.2.core ∉ r.cores) ∧
  (∀ (r : Run_) (x : RunUpset) (d : Dev), (∀ c q i, r.op.work = .check c q i → finishRun r x d = useOutput c q i x (endRun r d)) ∧
    (∀ i v g port, r.op.work = .golden i v g port → finishRun r x d = goldenResult i v g r.rerun x (endRun r d))) ∧
  (∀ (i v : W64) (ix : Nat) (again : Bool) (p : Plan) (g : GoldenEntry) (x : RunUpset) (d e : Dev) (stored : List Byte) (root : W256),
    goldenEntry? d i v ix = some (p, g) → e = clearMiss i v ix d →
    stored = ((blobOf? d p.identifier p.version g.inputBlob.toNat).map (·.bytes)).getD [] → i = p.identifier → v = p.version →
    root = x.root.getD (secureRoot (tilesOf (stored.length / 4096 + 1) stored)) →
    (again = true ∨ root = g.inputRoot → goldenDigest e p g x = g.outputDigest → goldenResult i v ix again x d = e) ∧
    (again = true ∨ root = g.inputRoot → goldenDigest e p g x ≠ g.outputDigest → goldenResult i v ix again x d = signal 753 e) ∧
    (again = false → root ≠ g.inputRoot → goldenDigest (signal 752 e) p g x = g.outputDigest →
      goldenResult i v ix again x d = signal 752 e)) ∧
  (∀ (t : Time) (n : Fin 64) (s : State) (d : Dev) (r : Run_) (k : Kernel), d = advance t s.dev → runOn? s.dev n.val = some r →
    opKernel? s.dev r.op = some k → r.stopped = true → r.rerun = false → serving s.dev = true →
    exec (.kernelRerun t n) s = .next (cleared s
      (startRun k { r with stopped := false, rerun := true, outcome := none, nextGroup := 0 }
        (r.cores.foldl (fun d m => modCore m (fun c => { c with
            window := c.window.map fun w => { w with rerunUsed := true } }) d) (endRun { r with donated := false } d)))))

/-- R187 to R195, R203, R205 to R210, R215, R221 to R224: of each pair of classes the oldest bundle that can issue does, in slot
order; one that waits for anything does not. On a SPLIT core an instruction that writes a register changes that register in the
active lanes and nothing else; on a PAIRED core it also folds its items into the bundle's signature, and the 4,096th closes the
window, whose signature enters the store. A branch leaves the taken lanes active, its post-dominator first the others, then all.
Loads take what every active lane reads, in lane order, once the memory requests have their tokens; stores and atomics
likewise. A condition of Table 8.6 captures the trap and stops the kernel, and at its second time fences the core; a further one adds
to COUNT and sets MORE.
The model's readings that this rests on: logs 22 and 49. -/
def Obligations.BundlesIssue : Prop :=
  (∀ (t : Time) (n slot : Fin 64) (i : Issued) (others next : List Candidate) (s a : State), a = atMem t s →
    next = { toIssued := i, slot := slot } :: others →
    ((∀ c ∈ next, mayIssue n a.dev c = false) → exec (.coreIssue t n slot i others) s = .next (zeroCores a)) ∧
    (∀ p, next = [p] → mayIssue n a.dev p = true → exec (.coreIssue t n slot i others) s = .next (zeroCores (issueOne n p a))) ∧
    (∀ p q, next = [p, q] → p.slot < q.slot → mayIssue n a.dev p = true → mayIssue n a.dev q = true →
      (vectorClass p.instr ≠ vectorClass q.instr →
        exec (.coreIssue t n slot i others) s = .next (zeroCores (issueOne n q (issueOne n p a)))) ∧
      (∀ b c, vectorClass p.instr = vectorClass q.instr → bundleOf? a.dev n.val p.slot.val = some b →
        bundleOf? a.dev n.val q.slot.val = some c →
        exec (.coreIssue t n slot i others) s = .next (zeroCores (issueOne n (if c.order < b.order then q else p) a))))) ∧
  (∀ (t : Time) (n slot : Fin 64) (i : BundleInstr) (dst : Fin 64) (v : Nat → W32) (b2 : Bundle) (s a : State) (d : Dev) (x : Site),
    a = atMem t s → readySite? n slot.val a.dev = some x →
    d = modCore n.val (fun c => { c with retired := c.retired + 1 }) a.dev →
    parityLane? x.bundle (regsRead i) = none →
    ((∃ op p q r, i = .vec op dst p q r ∧ ∀ l, v l = vecEval op (regAt x.bundle l p) (regAt x.bundle l q) (regAt x.bundle l r)) ∨
      (∃ fn p q, i = .special fn dst p q ∧ ∀ l, v l = specialEval fn (regAt x.bundle l p) (regAt x.bundle l q)) ∨
      (i = .imm dst (v 0) ∧ ∀ l, v l = v 0) ∨
      (∃ k high, i = .argument dst k high ∧
        ∀ l, v l = (if high then (x.run.args.getD k.val 0) >>> 32 else x.run.args.getD k.val 0).setWidth 32) ∨
      (∃ p float, i = .laneReduceAdd dst p float ∧ ∀ l, v l = treeAdd float 6 ((List.range 64).map fun l =>
        if (activeMask x.bundle).getLsbD l then regAt x.bundle l p else Config.idleLane (activeMask x.bundle) l)) ∨
      (∃ p q, i = .lanePermute dst p q ∧ ∀ l, v l = regAt x.bundle ((regAt x.bundle l q).toNat % 64) p)) →
    b2 = putReg dst v x.bundle →
    (∀ l r, l < 64 → regAt b2 l r = if r = dst ∧ (activeMask x.bundle).getLsbD l = true then v l else regAt x.bundle l r) ∧
    (x.split = true → exec (.coreIssue t n slot { instr := i } []) s = .next (cleared a (setBundle n.val slot.val b2 d))) ∧
    (∀ w, x.split = false → w = (items (headerItem 0x01 (field104 dst.val) (activeMask x.bundle))
        ((activeLanes x.bundle).flatMap fun l => leBytes 4 (regAt b2 l dst).toNat)).foldl foldItem x.bundle.sig.sig →
      (x.bundle.sig.retired + 1 < 4096 → exec (.coreIssue t n slot { instr := i } []) s = .next (cleared a
        (setBundle n.val slot.val { b2 with sig := { x.bundle.sig with retired := x.bundle.sig.retired + 1, sig := w } } d))) ∧
      (x.bundle.sig.retired + 1 = 4096 → storeRoom (coreOf a.dev n.val) x.bundle = true →
        exec (.coreIssue t n slot { instr := i } []) s = .next (cleared a
          (modCore n.val (fun c => { c with store := c.store ++ [{
              group := x.bundle.group, index := x.bundle.index, window := x.bundle.sig.window, passB := x.bundle.passB
              sig := (items (headerItem 0x0F 0 (activeMask x.bundle))
                (leBytes 4 x.bundle.sig.window ++ leBytes 2 4096)).foldl foldItem w
              act := none }] })
            (setBundle n.val slot.val { b2 with sig := { window := x.bundle.sig.window + 1 } } d)))) ∧
      (x.bundle.sig.retired + 1 = 4096 → storeRoom (coreOf a.dev n.val) x.bundle = false →
        exec (.coreIssue t n slot { instr := i } []) s = .next (zeroCores a)))) ∧
  (∀ (t : Time) (n slot : Fin 64) (s a : State) (d : Dev) (x : Site), a = atMem t s → readySite? n slot.val a.dev = some x →
    d = modCore n.val (fun c => { c with retired := c.retired + 1 }) a.dev → x.split = true →
    (∀ p, parityLane? x.bundle [p] = none → exec (.coreIssue t n slot { instr := .branch p } []) s =
      .next (cleared a (setBundle n.val slot.val (branchOn p x.bundle) d))) ∧
    exec (.coreIssue t n slot { instr := .rejoin } []) s = .next (cleared a (setBundle n.val slot.val (rejoin x.bundle) d)) ∧
    (∀ m, exec (.coreIssue t n slot { instr := .setMask m } []) s =
      .next (cleared a (setBundle n.val slot.val { x.bundle with mask := m &&& x.bundle.lanes } d))) ∧
    exec (.coreIssue t n slot { instr := .barrier } []) s = .next (cleared a
      (openBarriers n.val (setBundle n.val slot.val { x.bundle with barrier := true } d))) ∧
    (∀ engine op, x.bundle.passB = false → (engineOf (coreOf a.dev n.val) engine.val).op = none →
      (∃ p, pairInfo? op.pair = some p ∧ opOk p op = true) → (∀ e ∈ opReads op ++ opWrites op, inView x.kernel e.1 e.2 = true) →
      exec (.coreIssue t n slot { instr := .tensorStart engine op } []) s =
        .next (cleared a (setBundle n.val slot.val (bump x.bundle)
          (modCore n.val (fun c => { c with retired := c.retired + 1 }) (setEngine n.val engine.val
            { engineOf (coreOf a.dev n.val) engine.val with
              op := some op, slot := slot.val, base := x.bundle.base
              owner := some (x.bundle.group, x.bundle.index, x.bundle.ordinal) } a.dev))))) ∧
    (∀ engine, (engineOf (coreOf a.dev n.val) engine.val).op = none →
      exec (.coreIssue t n slot { instr := .engineWait engine } []) s = .next (cleared a (setBundle n.val slot.val x.bundle d))) ∧
    (∀ ch c src dst lines post, ch < x.kernel.dmaChannels → channelOf? a.dev n.val ch = some c →
      (dmaOf a.dev c).busy = false → (dmaOf a.dev c).halted = false → (dmaOf a.dev c).out = false →
      dmaReach x lines false src = true → dmaReach x lines true dst = true → (∀ e, post = some e → e.1 < x.kernel.signals) →
      exec (.coreIssue t n slot { instr := .dmaStart ch src dst lines post } []) s =
        .next (cleared a (modDma c (fun c => { c with
          busy := true, served := none, src := dmaAddr x src, dst := dmaAddr x dst, lines := lines, linesDone := 0, core := n.val
          owner := (x.bundle.group, x.bundle.index), partition := x.run.op.partition
          post := post.map fun e => (objectOf x e.1, e.2) }) (setBundle n.val slot.val x.bundle d)))) ∧
    (∀ ch c, channelOf? a.dev n.val ch = some c → (dmaOf a.dev c).busy = false →
      exec (.coreIssue t n slot { instr := .dmaWait ch } []) s = .next (cleared a (setBundle n.val slot.val x.bundle d))) ∧
    exec (.coreIssue t n slot { instr := .finish } []) s = .next (cleared a (afterEnd x (setBundle n.val slot.val x.bundle d))) ∧
    (∀ obj op, operandsReady x (.signal obj op) a.dev = true →
      exec (.coreIssue t n slot { instr := .signal obj op } []) s = .next (cleared a (issueSignal x obj op a.dev)))) ∧
  (∀ (p : Fin 64) (b : Bundle), (∃ l, l < 64 ∧ (activeMask b).getLsbD l = true ∧ regAt b l p ≠ 0) →
    (∃ l, l < 64 ∧ (activeMask b).getLsbD l = true ∧ regAt b l p = 0) →
    (∀ l, l < 64 → (branchOn p b).mask.getLsbD l = ((activeMask b).getLsbD l && decide (regAt b l p ≠ 0)) ∧
      (rejoin (branchOn p b)).mask.getLsbD l = ((activeMask b).getLsbD l && decide (regAt b l p = 0))) ∧
    rejoin (rejoin (branchOn p b)) = b) ∧
  (∀ (t : Time) (n slot : Fin 64) (s a g e : State) (x y : Site) (w : Nat) (vs : List (Nat × List Byte)) (write : Bool)
      (lines : List (Nat × Nat)), a = atMem t s → readySite? n slot.val a.dev = some x → x.split = true → x.bundle.passB = false →
    y = { x with bundle := { x.bundle with served := none } } → 1 ≤ w →
    (∀ dst addr const, dst.val + (w + 3) / 4 ≤ 64 → parityLane? x.bundle [addr] = none →
      lanesDo (activeLanes x.bundle) (localRead x const addr w) a = (some vs, e) →
      ∃ b2, exec (.coreIssue t n slot { instr := .loadLocal dst addr const w } []) s = .next (zeroCores (finishLoad x dst w (some vs) [] e)) ∧
        finishLoad x dst w (some vs) [] e = onDev (fun d => setBundle n.val slot.val b2
          (modCore n.val (fun c => { c with retired := c.retired + 1 }) d)) e ∧
        b2 = { x.bundle with regs := b2.regs, badParity := b2.badParity } ∧
        ∀ l r, l < 64 → regAt b2 l r = if dst.val ≤ r.val ∧ r.val < dst.val + (w + 3) / 4 ∧ (activeMask x.bundle).getLsbD l = true
          then wordOf (bytesOf vs l) (r.val - dst.val) else regAt x.bundle l r) ∧
    (∀ src addr const, src.val + (w + 3) / 4 ≤ 64 →
      parityLane? x.bundle (regsRead (.storeLocal src addr const w)) = none →
      lanesDo (activeLanes x.bundle) (fun l s => localWrite x const addr l (regBytes x.bundle l src w) s) a = (some vs, e) →
      exec (.coreIssue t n slot { instr := .storeLocal src addr const w } []) s = .next (cleared e (setBundle n.val slot.val x.bundle
        (modCore n.val (fun c => { c with retired := c.retired + 1 }) e.dev)))) ∧
    (∀ op dst addr operand, parityLane? x.bundle [addr, operand] = none →
      lanesDo (activeLanes x.bundle) (fun l s =>
        match localRead x false addr 4 l s with
        | (some old, s) => match localWrite x false addr l (leBytes 4 (atomicNew op (wordOf old 0) (regAt x.bundle l operand)).toNat) s with
          | (some _, s) => (some old, s)
          | (none, s) => (none, s)
        | (none, s) => (none, s)) a = (some vs, e) →
      exec (.coreIssue t n slot { instr := .atomicLocal op dst addr operand } []) s = .next (cleared e (setBundle n.val slot.val
        (putReg dst (fun l => wordOf (bytesOf vs l) 0) x.bundle)
        (modCore n.val (fun c => { c with retired := c.retired + 1 }) e.dev)))) ∧
    ((x.bundle.served.isSome = true ∧ g = a ∨ x.bundle.served = none ∧ ∃ u, g = { a with dev := g.dev } ∧ u ≤ g.dev.geyser.now ∧
      claimAll (.core n) (coreKey a.dev n.val) (lines.takeWhile fun e => gate (.core n) (coreKey a.dev n.val) e.1 write a.dev == .go)
        a.dev = (some u, g.dev)) →
    (∀ dst base addr, dst.val + (w + 3) / 4 ≤ 64 → parityLane? x.bundle [addr] = none → write = false →
      lines = deviceLines x base addr w false a.dev →
      lanesDo (activeLanes x.bundle) (deviceRead y base addr w) g = (some vs, e) →
      exec (.coreIssue t n slot { instr := .loadDevice dst base addr w } []) s = .next (zeroCores (finishLoad y dst w (some vs) [] e))) ∧
    (∀ src base addr, src.val + (w + 3) / 4 ≤ 64 →
      parityLane? x.bundle (regsRead (.storeDevice src base addr w)) = none → write = true →
      lines = deviceLines x base addr w true a.dev →
      lanesDo (activeLanes x.bundle) (fun l s => deviceWrite y base addr l (regBytes x.bundle l src w) s) g = (some vs, e) →
      exec (.coreIssue t n slot { instr := .storeDevice src base addr w } []) s = .next (cleared e (setBundle n.val slot.val y.bundle
        (modCore n.val (fun c => { c with retired := c.retired + 1 }) e.dev)))) ∧
    (∀ op dst base addr operand, parityLane? x.bundle [addr, operand] = none → write = true →
      lines = deviceLines x base addr 4 true a.dev →
      lanesDo (activeLanes x.bundle) (fun l s =>
        match deviceRead y base addr 4 l s with
        | (some old, s) => match deviceWrite y base addr l (leBytes 4 (atomicNew op (wordOf old 0) (regAt x.bundle l operand)).toNat) s with
          | (some _, s) => (some old, s)
          | (none, s) => (none, s)
        | (none, s) => (none, s)) g = (some vs, e) →
      exec (.coreIssue t n slot { instr := .atomicDevice op dst base addr operand } []) s = .next (cleared e (setBundle n.val slot.val
        (putReg dst (fun l => wordOf (bytesOf vs l) 0) (bump y.bundle))
        (modCore n.val (fun c => { c with retired := c.retired + 1 }) e.dev)))))) ∧
  (∀ (t : Time) (n slot : Fin 64) (i : BundleInstr) (s a : State) (x : Site), a = atMem t s → readySite? n slot.val a.dev = some x →
    (∀ off, exec (.coreIssue t n slot { instr := i, fault := some (.illegal off) } []) s =
      .next (cleared a (trapOn n.val { kind := 1, slot := slot.val, addr := off } a.dev))) ∧
    (∀ off, exec (.coreIssue t n slot { instr := i, fault := some (.fetchUncorrectable off) } []) s =
      .next (cleared a (trapOn n.val { kind := 2, slot := slot.val, addr := off } a.dev))) ∧
    (∀ l, parityLane? x.bundle (regsRead i) = some l → exec (.coreIssue t n slot { instr := i } []) s =
      .next (cleared a (trapOn n.val { kind := 6, slot := slot.val, lane := l } a.dev)))) ∧
  (∀ (n : Nat) (i : TrapInfo) (r : Run_) (d e : Dev), runOn? d n = some r →
    (r.stopped = true → coreOf (trapOn n i d) n = { coreOf d n with
        trapStatus := (if (coreOf d n).trapStatus &&& 0xFF = 0xFF then (coreOf d n).trapStatus else (coreOf d n).trapStatus + 1) |||
          0x40000000 } ∧
      (trapOn n i d).sched = d.sched ∧ (trapOn n i d).cal = d.cal) ∧
    (r.stopped = false → i.kind ∈ [1, 3, 5, 6, 8, 9] →
      e = trapInput r i.kind (signal (8 * n + 3) (modRun n (fun r => { r with
        stopped := true, stoppedAt := d.geyser.now, outcome := some i.kind }) (stopIssue r (captureTrap n i r.rerun r.op.kernel d)))) →
      (coreOf (captureTrap n i r.rerun r.op.kernel d) n).trapStatus = captureWord (coreOf d n).trapStatus (BitVec.ofNat 32
        (i.kind * 2 ^ 24 + i.slot * 2 ^ 18 + i.lane * 2 ^ 12 + i.engine * 2 ^ 10 + if r.rerun then 512 else 0)) ∧
      (coreOf (captureTrap n i r.rerun r.op.kernel d) n).trapAddr = (if (coreOf d n).trapStatus &&& 0x80000000 = 0 then
        BitVec.ofNat 64 (r.op.kernel * 2 ^ 48 + if i.kind ≤ 5 then i.addr % 2 ^ 48 else 0) else (coreOf d n).trapAddr) ∧
      (r.rerun = false → trapOn n i d = e) ∧
      (r.rerun = true → trapOn n i d = pump (fenceCore n e))))

/-- R196 to R199, R197, R215, R218, R291: signal objects of a kernel. A post of 1 to 65,536 adds to the count and serves the
waiters from the head while the count suffices; on a PAIRED core it waits in the signature store for its comparison, and after
transfers of its bundle for their end. A wait of a bundle takes its amount at once or joins the tail; a test reads the count. An
object outside the kernel's allocation, or a count above 0xFFFFFFFF, traps with SIGNAL_RANGE, an amount of zero or above 65,536 with
ILLEGAL. A DMA channel moves its lines in increasing address once their tokens have come, and posts once; what waited for its
transfer goes on; a restart clears a halted channel.
The model's readings that this rests on: logs 22 and 49. -/
def Obligations.SignalsAndDma : Prop :=
  (∀ (t : Time) (n slot : Fin 64) (obj k : Nat) (s : State) (d : Dev), d = advance t s.dev → readySite? n slot.val d = none →
    exec (.signalPost t n slot obj k) s = .next (cleared s d) ∧ exec (.signalWait t n slot obj k) s = .next (cleared s d) ∧
    ∀ dst, exec (.signalTest t n slot obj dst) s = .next (cleared s d)) ∧
  (∀ (t : Time) (n slot : Fin 64) (obj k : Nat) (s : State) (d e : Dev) (x : Site) (o : Nat), d = advance t s.dev →
    readySite? n slot.val d = some x → o = objectOf x obj →
    e = setBundle n.val slot.val x.bundle (modCore n.val (fun c => { c with retired := c.retired + 1 }) d) →
    (x.kernel.signals ≤ obj → exec (.signalPost t n slot obj k) s = .next (cleared s (trapAt x 9 d)) ∧
      exec (.signalWait t n slot obj k) s = .next (cleared s (trapAt x 9 d)) ∧
      ∀ dst, exec (.signalTest t n slot obj dst) s = .next (cleared s (trapAt x 9 d))) ∧
    (obj < x.kernel.signals → k = 0 ∨ 65536 < k → exec (.signalPost t n slot obj k) s = .next (cleared s (trapAt x 1 d)) ∧
      exec (.signalWait t n slot obj k) s = .next (cleared s (trapAt x 1 d))) ∧
    (obj < x.kernel.signals → 1 ≤ k → k ≤ 65536 → x.split = true → transferring d n.val x.bundle.group x.bundle.index = false →
      ((signalOf d o).count + k ≤ 4294967295 → exec (.signalPost t n slot obj k) s = .next (cleared s
        (serveSignal o (signalOf d o).waiters.length (setSignal o { signalOf d o with count := (signalOf d o).count + k } e)))) ∧
      (4294967295 < (signalOf d o).count + k → exec (.signalPost t n slot obj k) s = .next (cleared s (trapAt x 9 e)))) ∧
    (obj < x.kernel.signals → 1 ≤ k → k ≤ 65536 → x.split = true → transferring d n.val x.bundle.group x.bundle.index = true →
      exec (.signalPost t n slot obj k) s = .next (cleared s (modCore n.val (fun c => { c with
        posts := c.posts ++ [{ obj := o, n := k, group := x.bundle.group, index := x.bundle.index, slot := slot.val }] }) e))) ∧
    (obj < x.kernel.signals → 1 ≤ k → k ≤ 65536 → x.split = false → storeRoom (coreOf d n.val) x.bundle = true →
      exec (.signalPost t n slot obj k) s = .next (cleared s (closeSig n.val slot.val
        (if x.bundle.passB then none else some (.post o k))
        { x.bundle with sig := { x.bundle.sig with
            retired := x.bundle.sig.retired + 1, sig := (signalItems x.bundle 1 obj k 0).foldl foldItem x.bundle.sig.sig } }
        (modCore n.val (fun c => { c with retired := c.retired + 1 }) d))))) ∧
  (∀ (obj fuel n slot k : Nat) (rest : List (Nat × Nat × Nat)) (d : Dev), (signalOf d obj).waiters = (n, slot, k) :: rest →
    (k ≤ (signalOf d obj).count → serveSignal obj (fuel + 1) d =
      serveSignal obj fuel (releaseWaiter n slot obj k (setSignal obj { count := (signalOf d obj).count - k, waiters := rest } d))) ∧
    ((signalOf d obj).count < k → serveSignal obj (fuel + 1) d = d)) ∧
  (∀ (n slot obj k : Nat) (b : Bundle) (d : Dev), bundleOf? d n slot = some b → (coreOf d n).split = true →
    releaseWaiter n slot obj k d = setBundle n slot { b with waiting := false, ordinal := b.ordinal + 1 }
      (modCore n (fun c => { c with retired := c.retired + 1 }) d)) ∧
  (∀ (t : Time) (n slot : Fin 64) (obj k : Nat) (s : State) (d : Dev) (x : Site) (o : Nat), d = advance t s.dev →
    readySite? n slot.val d = some x → x.bundle.passB = false → obj < x.kernel.signals → 1 ≤ k → k ≤ 65536 → o = objectOf x obj →
    (x.split = true ∨ x.bundle.sig.retired + 1 < 4096 → (signalOf d o).waiters ≠ [] ∨ (signalOf d o).count < k →
      exec (.signalWait t n slot obj k) s = .next (cleared s (setBundle n.val slot.val { x.bundle with waiting := true }
        (setSignal o { signalOf d o with waiters := (signalOf d o).waiters ++ [(n.val, slot.val, k)] } d)))) ∧
    (x.split = true → (signalOf d o).waiters = [] → k ≤ (signalOf d o).count →
      exec (.signalWait t n slot obj k) s = .next (cleared s (setBundle n.val slot.val (bump x.bundle)
        (modCore n.val (fun c => { c with retired := c.retired + 1 })
          (setSignal o { signalOf d o with count := (signalOf d o).count - k } d)))))) ∧
  (∀ (t : Time) (n slot : Fin 64) (obj : Nat) (dst : Fin 64) (s : State) (d : Dev) (x : Site) (v : W32) (b : Bundle),
    d = advance t s.dev → readySite? n slot.val d = some x → obj < x.kernel.signals → b = putReg dst (fun _ => v) (bump x.bundle) →
    (x.split = true → x.bundle.passB = false → v = BitVec.ofNat 32 (signalOf d (objectOf x obj)).count →
      exec (.signalTest t n slot obj dst) s =
        .next (cleared s (setBundle n.val slot.val b (modCore n.val (fun c => { c with retired := c.retired + 1 }) d)))) ∧
    (∀ w e, x.split = false → x.bundle.sig.retired + 1 < 4096 →
      (x.bundle.passB = false ∧ v = BitVec.ofNat 32 (signalOf d (objectOf x obj)).count ∧
          e = modCore n.val (fun c => { c with
            forwards := c.forwards ++ [(x.bundle.group, x.bundle.index, x.bundle.ordinal, [v])] }) d ∨
        x.bundle.passB = true ∧ ∃ l, takeForward? x d = some (l, e) ∧ v = l.headD 0) →
      w = (signalItems x.bundle 3 obj 0 v.toNat ++ regItems b dst).foldl foldItem x.bundle.sig.sig →
      exec (.signalTest t n slot obj dst) s = .next (cleared s (setBundle n.val slot.val
        { b with sig := { x.bundle.sig with retired := x.bundle.sig.retired + 1, sig := w } }
        (modCore n.val (fun c => { c with retired := c.retired + 1 }) e))))) ∧
  (∀ (t : Time) (ch : Fin 288) (s a : State) (c : DmaChannel), a = atMem t s → c = dmaOf a.dev ch.val →
    (c.busy = false ∨ c.halted = true → exec (.dmaComplete t ch) s = .next (zeroCores a)) ∧
    (∀ u g, c.busy = true → c.halted = false → dmaTokens ch.val (keyOf a.dev (.dma ch.val)) a.dev = (u, g) →
      ((u = none ∨ ∃ w, u = some w ∧ g.geyser.now < w) → exec (.dmaComplete t ch) s = .next (cleared a g)) ∧
      (∀ w ok e f, u = some w → w ≤ g.geyser.now →
        dmaLines ch.val (keyOf a.dev (.dma ch.val)) c.lines c.src c.dst { a with dev := g } = (ok, e) →
        f = modDma ch.val (fun c => { c with busy := false, post := none, served := none }) e.dev →
        (ok = false → exec (.dmaComplete t ch) s = .next (zeroCores e)) ∧
        (ok = true → c.post = none → exec (.dmaComplete t ch) s =
          .next (cleared e (if c.core < 64 then openBarriers c.core (flushPosts c.core f) else f))) ∧
        (∀ o k h, ok = true → c.post = some (o, k) →
          h = (if (signalOf f o).count + k ≤ 4294967295 then
              serveSignal o (signalOf f o).waiters.length (setSignal o { signalOf f o with count := (signalOf f o).count + k } f)
            else trapOn c.core { kind := 9 } f) →
          exec (.dmaComplete t ch) s = .next (cleared e (if c.core < 64 then openBarriers c.core (flushPosts c.core h) else h)))))) ∧
  (∀ (ch fuel src dst : Nat) (key : Key) (s e : State) (ok : Bool), dmaLine ch src dst key s = (ok, e) →
    dmaLines ch key (fuel + 1) src dst s = if ok then
      dmaLines ch key fuel (src + 64) (dst + 64) (onDev (modDma ch fun c => { c with linesDone := c.linesDone + 1 }) e) else (false, e)) ∧
  (∀ (t : Time) (ch : Fin 288) (s : State) (c : DmaChannel), c = dmaOf s.dev ch.val →
    ∃ u, exec (.dmaHaltRestart t ch) s = .next u ∧
      dmaOf u.dev ch.val = (if c.halted then { c with halted := false, reason := 0, partition := 0, linesDone := 0, haltAddr := 0 } else c) ∧
      (∀ k, k ≠ ch.val → dmaOf u.dev k = dmaOf s.dev k) ∧
      u = { s with dev := { advance t s.dev with cores := { s.dev.cores with dma := u.dev.cores.dma } } })

/-- R156 to R182, Table 7.9, Table 7.10: an operation ends with its sums in the cells; a reduction above the pair's limit
traps ENGINE_LIMIT. At a drain every check is made: when all pass, the results and with MAG the magnitudes are written to local
memory; one that fails captures ENG_ERR, traps ENGINE_FAULT, signals its source and writes nothing. The drain that carries an armed
injection is marked applied, and detected when its checker sees the error. R224 to R231, R134: two partner windows that differ are
a PAIR_MISMATCH; equal ones free their entry and release what the window holds back. R226, R227: a comparator's injection, whose
failure fences the core or ends a Steward's start in CHIP_FAILED.
The model's readings that this rests on: logs 21, 34 and 49. -/
def Obligations.EnginesAndPairs : Prop :=
  (∀ (t : Time) (n : Fin 64) (engine : Fin 4) (ms ds us : List EngineUpset) (s : State) (d f : Dev) (e : Engine), us = ms ++ ds →
    d = advance t s.dev →
    e = engineOf (coreOf d n.val) engine.val → f = setEngine n.val engine.val { e with op := none } d →
    (e.op = none ∨ isFenced d n.val = true → exec (.engineOperationEnd t n engine ms ds) s = .next (cleared s d)) ∧
    (∀ op p, e.op = some op → pairInfo? op.pair = some p → isFenced d n.val = false →
      (p.limit < (if op.start then 0 else e.k) + op.k → exec (.engineOperationEnd t n engine ms ds) s =
        .next (cleared s (trapOn n.val { kind := 8, slot := e.slot, engine := engine.val } f))) ∧
      (∀ g, (if op.start then 0 else e.k) + op.k ≤ p.limit →
        readOperands n engine.val e.slot e.base op { s with dev := f } = (none, g) →
        exec (.engineOperationEnd t n engine ms ds) s = .next (zeroCores g)) ∧
      (∀ x g h, (if op.start then 0 else e.k) + op.k ≤ p.limit →
        readOperands n engine.val e.slot e.base op { s with dev := f } = (some x, g) →
        h = upsetEngine p us (accumulate p op.start x { e with op := none }) →
        (op.drain = none → exec (.engineOperationEnd t n engine ms ds) s = .next (cleared g (setEngine n.val engine.val h g.dev))) ∧
        (∀ o, op.drain = some o → exec (.engineOperationEnd t n engine ms ds) s = .next (zeroCores
          (drain n engine.val p op o us h (((runOn? f n.val).map (·.stopped)).getD true)
            { g with dev := setEngine n.val engine.val h g.dev })))))) ∧
  (∀ (p : PairInfo) (start : Bool) (x : Operands) (e f : Engine), f = accumulate p start x e →
    f.k = (if start then 0 else e.k) + x.k ∧
    ∀ i j, i < 33 → j < 33 → cellAt f i j = (List.range x.k).foldl (fun c k =>
      { sum := addProduct p c.sum (rowOperand p.exact x i k) (colOperand p.exact x j k)
        mag := addMagnitude p c.mag (rowMag p.exact x i k) (colMag p.exact x j k) }) (if start then {} else cellAt e i j)) ∧
  (∀ (n : Fin 64) (engine : Nat) (p : PairInfo) (op : EngineOp) (o : Byte) (us : List EngineUpset) (e : Engine) (stopped : Bool)
      (s g : State) (j : Injection), j = injection (coreOf s.dev n.val).engInject →
    g = onDev (modCore n.val fun c => { c with exempt := min (c.exempt + exemptCount p o op.saturate op.mag e) 4294967295 }) s →
    (injectWaits (coreOf s.dev n.val) engine = false →
      (failures p op o us e = [] → drain n engine p op o us e stopped s = if stopped then g else writeDrain n p op o e g) ∧
      (∀ u l, failures p op o us e = u :: l →
        drain n engine p op o us e stopped s = onDev (engineFail n.val engine e.slot op.pair u) g)) ∧
    (injectWaits (coreOf s.dev n.val) engine = true → (∀ u ∈ failures p op o us e, injectMeets j u = true) →
      drain n engine p op o us e stopped s = onDev (modCore n.val fun c => { c with
        engInject := (c.engInject &&& 0x7FFFFFF0) ||| 8 |||
          (if failures p op o us e ≠ [] ∨ injectSeen p op o e j = true then 4 else 0) }) g)) ∧
  (∀ (n engine slot pair : Nat) (u : EngineFail) (d : Dev), engCaptured n d = false →
    (coreOf (captureEng n (engErrBody engine pair u) d) n).engErr = captureWord (coreOf d n).engErr (BitVec.ofNat 32
      (u.kind % 8 * 2 ^ 27 + engine * 2 ^ 25 + u.row * 2 ^ 19 + u.col * 2 ^ 13 + pair % 32 * 2 ^ 8)) ∧
    engineFail n engine slot pair u d = signal (8 * n + if u.kind ≤ 1 then 0 else if u.kind ≤ 4 then 1 else 2)
      (trapOn n { kind := 7, slot := slot, engine := engine } (captureEng n (engErrBody engine pair u) d))) ∧
  (∀ (t : Time) (n : Fin 64) (v : W32) (s : State), ∃ u, exec (.engInjectArm t n v) s = .next u ∧
    coreOf u.dev n.val = { coreOf s.dev n.val with
      engInject := if v.getLsbD 31 = true ∧ highKernel n.val s.dev = false then v &&& 0xFFFFFFF0
        else (v &&& 0x7FFFFFF0) ||| ((coreOf s.dev n.val).engInject &&& 0x8000000C) } ∧
    (∀ k, k ≠ n.val → coreOf u.dev k = coreOf s.dev k) ∧
    u = { s with dev := { advance t s.dev with cores := { s.dev.cores with core := u.dev.cores.core } } }) ∧
  (∀ (t : Time) (k : Fin 66) (group bundle window : Nat) (up rail : Bool) (s : State) (d : Dev), d = advance t s.dev →
    (k.val < 64 → rail = true → exec (.signatureCompare t k group bundle window up rail) s = .next (cleared s (signal (8 * k.val + 6) d))) ∧
    (64 ≤ k.val → rail = true → exec (.signatureCompare t k group bundle window up rail) s = .next (cleared s (signal (672 + k.val) d))) ∧
    (64 ≤ k.val → rail = false → exec (.signatureCompare t k group bundle window up rail) s =
      .next (cleared s (if up then stewardMismatch (k.val - 64) bundle window d else d))) ∧
    (k.val < 64 → rail = false → isFenced d k.val = true →
      exec (.signatureCompare t k group bundle window up rail) s = .next (cleared s d)) ∧
    (∀ a b e slot, k.val < 64 → rail = false → isFenced d k.val = false →
      (coreOf d k.val).store.find? (fun x => x.group == group && x.index == bundle && x.window == window && !x.passB) = a →
      (coreOf d k.val).store.find? (fun x => x.group == group && x.index == bundle && x.window == window && x.passB) = b →
      e = modCore k.val (fun c => { c with store := c.store.filter fun x =>
        !(x.group == group && x.index == bundle && x.window == window) }) d →
      slot = (((coreOf d k.val).bundles.find? fun x => x.2.group == group && x.2.index == bundle && !x.2.passB).map (·.1)).getD 0 →
      (a = none ∨ b = none → exec (.signatureCompare t k group bundle window up rail) s = .next (cleared s d)) ∧
      (∀ x y, a = some x → b = some y → x.sig = y.sig → up = false → x.act = none →
        exec (.signatureCompare t k group bundle window up rail) s = .next (cleared s e)) ∧
      (∀ x y act r kern, a = some x → b = some y → x.sig = y.sig → up = false → x.act = some act → runOn? d k.val = some r →
        opKernel? d r.op = some kern →
        exec (.signatureCompare t k group bundle window up rail) s = .next (cleared s (doAct
          { core := Fin.ofNat 64 k.val, slot := slot, run := r, kernel := kern, bundle := { group := group, index := bundle }
            split := false } act e))) ∧
      (∀ x y, a = some x → b = some y → x.sig ≠ y.sig ∨ up = true →
        exec (.signatureCompare t k group bundle window up rail) s = .next (cleared s (signal (8 * k.val + 5)
          (trapOn k.val { kind := 10, slot := slot } (capturePair k.val 0 group bundle window e))))))) ∧
  (∀ (n kind group bundle window : Nat) (r : Run_) (d e : Dev), runOn? d n = some r → e = capturePair n kind group bundle window d →
    (coreOf e n).pairErr = captureWord (coreOf d n).pairErr (BitVec.ofNat 32
      ((if r.rerun then 2 ^ 29 else 0) + kind * 2 ^ 27 + bundle % 64 * 2 ^ 21 + min window 8191 * 2 ^ 8)) ∧
    (coreOf e n).pairLoc = (if (coreOf d n).pairErr &&& 0x80000000 = 0
      then BitVec.ofNat 64 (r.op.kernel % 65536 * 2 ^ 48 + group % 2 ^ 32) else (coreOf d n).pairLoc)) ∧
  (∀ (p bundle window : Nat) (d : Dev), (procOf (stewardMismatch p bundle window d) p).pairErr =
    captureWord (procOf d p).pairErr (BitVec.ofNat 32 (bundle % 64 * 2 ^ 21 + min window 8191 * 2 ^ 8))) ∧
  (∀ (t : Time) (k : Fin 66) (v : W32) (works rail : Bool) (s : State) (d : Dev), d = advance t s.dev →
    (v.getLsbD 31 = false ∨ k.val < 64 ∧ resident k.val d = true →
      exec (.pairInjectArm t k v ⟨works, rail⟩) s = .next (cleared s (modInject k.val (fun w => (v &&& 0x607F0000) ||| (w &&& 7)) d))) ∧
    (v.getLsbD 31 = true → (k.val < 64 → resident k.val d = false) →
      (works = true → rail = false → exec (.pairInjectArm t k v ⟨works, rail⟩) s = .next (cleared s
        (modInject k.val (fun _ => (v &&& 0x607F0000) ||| 4 ||| (if v.getLsbD 29 then 1 else 2)) d))) ∧
      (rail = true → exec (.pairInjectArm t k v ⟨works, rail⟩) s = .next (cleared s
        (pump (signal (if k.val < 64 then 8 * k.val + 6 else 672 + k.val) (modInject k.val (fun _ => v &&& 0x607F0000) d))))) ∧
      (works = false → rail = false → k.val < 64 → exec (.pairInjectArm t k v ⟨works, rail⟩) s = .next (cleared s
        (pump (fenceCore k.val (modInject k.val (fun _ => (v &&& 0x607F0000) ||| 4 ||| (if v.getLsbD 29 then 2 else 1)) d))))) ∧
      (works = false → rail = false → 64 ≤ k.val → exec (.pairInjectArm t k v ⟨works, rail⟩) s = .next (cleared s
        (chipFailed (modInject k.val (fun _ => (v &&& 0x607F0000) ||| 4 ||| (if v.getLsbD 29 then 2 else 1)) d)))))) ∧
  (∀ (n : Nat) (d : Dev), d.start.wireTest = false → isFenced (pump (fenceCore n d)) n = true ∧ (chipFailed d).front.state = .chipFailed)

/-! ### Changes on several units at once, and commits of admissions (09 R235 to R239, 10 R249, R267 to R269, 02 R32) -/

/-- R226, R227, R235 to R238: a unit acknowledges the oldest pending change that names it, before the prepare timeout; a core
keeps the mode it was told until the commit, makes the 257 comparisons of its comparator test before it enters PAIRED, and is
fenced when they fail; with resident bundles it waits. At the timeout a change that lacks an acknowledgement aborts: its units
drop what they were told. At the COMMIT instant the acknowledged units apply: a core takes its mode with an empty store, its
cleared slots and no forwarded values; any other core keeps its mode.
The model's readings that this rests on: logs 35 and 49. -/
def Obligations.TwoPhaseChanges : Prop :=
  (∀ (t : Time) (k : UnitBit) (ok : Bool) (s : State) (d : Dev), d = advance t s.dev →
    (d.cores.changes.find? (fun c => pendingChange c && c.named.getLsbD k.val && !c.acked.getLsbD k.val) = none →
      exec (.unitPrepareAck t k ok) s = .next (cleared s d)) ∧
    ∀ c, d.cores.changes.find? (fun c => pendingChange c && c.named.getLsbD k.val && !c.acked.getLsbD k.val) = some c →
      (c.prepareBy ≤ d.geyser.now → exec (.unitPrepareAck t k ok) s = .next (cleared s d)) ∧
      (d.geyser.now < c.prepareBy → c.cores = false → exec (.unitPrepareAck t k ok) s =
        .next (cleared s (setChange { c with acked := c.acked ||| BitVec.twoPow 64 k.val } 0 d))) ∧
      (d.geyser.now < c.prepareBy → c.cores = true →
        isFenced d k.val = true ∨ (modeSplit c.packet).getLsbD k.val = false ∧ resident k.val d = true →
        exec (.unitPrepareAck t k ok) s = .next (cleared s d)) ∧
      (d.geyser.now < c.prepareBy → c.cores = true → isFenced d k.val = false → (modeSplit c.packet).getLsbD k.val = true →
        exec (.unitPrepareAck t k ok) s = .next (cleared s (setChange { c with acked := c.acked ||| BitVec.twoPow 64 k.val } 0
          (modCore k.val (fun x => { x with prepared := true, pendingSplit := true }) d)))) ∧
      (d.geyser.now < c.prepareBy → c.cores = true → isFenced d k.val = false → (modeSplit c.packet).getLsbD k.val = false →
        resident k.val d = false →
        exec (.unitPrepareAck t k ok) s = .next (cleared s (if ok then
          setChange { c with acked := c.acked ||| BitVec.twoPow 64 k.val } 0
            (modCore k.val (fun x => { x with prepared := true, pendingSplit := false }) (modInject k.val (afterTest true) d))
          else pump (fenceCore k.val (modInject k.val (afterTest false) d)))))) ∧
  (testWrites.length = 257 ∧ testPasses true = true ∧ testPasses false = false ∧
    ∀ w, afterTest true w = 0x20000005 ∧ afterTest false w = 0x20000006) ∧
  (∀ (s : State), (∀ c, c ∈ s.dev.cores.changes → pendingChange c = true → c.acked = c.named) →
    exec .prepareTimeout s = .next s) ∧
  (∀ (s : State) (c : Change), earliest (·.prepareBy)
      (s.dev.cores.changes.filter fun c => pendingChange c && c.acked != c.named) = some c →
    ∃ u, exec .prepareTimeout s = .next u ∧ u.dev.cores.record = changeRecord 2 { c with aborted := true } ∧
      (∀ x ∈ u.dev.cores.changes, x.id = c.id → x = { c with aborted := true }) ∧
      (∀ x ∈ s.dev.cores.changes, x.id ≠ c.id → x ∈ u.dev.cores.changes) ∧
      (c.cores = true → ∀ n, c.named.getLsbD n = true →
        coreOf u.dev n = { coreOf s.dev n with prepared := false }) ∧
      (∀ n, c.cores = false ∨ c.named.getLsbD n = false → coreOf u.dev n = coreOf s.dev n) ∧
      u = { s with dev := { advance c.prepareBy s.dev with cores := { s.dev.cores with
        changes := u.dev.cores.changes, record := u.dev.cores.record, core := u.dev.cores.core } } }) ∧
  (∀ (applied : W64) (s : State), (∀ c ∈ s.dev.cores.changes, pendingChange c = false) →
    ∃ u, exec (.changeCommit applied) s = .next u ∧ doneAs s.dev s u) ∧
  (∀ (applied : W64) (s : State) (c : Change), earliest (·.commitAt) (s.dev.cores.changes.filter pendingChange) = some c →
    (c.acked ≠ c.named → ∃ u, exec (.changeCommit applied) s = .next u ∧ doneAs (abortOne 2 c (advance c.commitAt s.dev)) s u) ∧
    (c.acked = c.named → ∃ u, exec (.changeCommit applied) s = .next u ∧
      doneAs (setChange { c with committed := true, applied := c.acked &&& applied } 1
        (applyChange c (c.acked &&& applied) (advance c.commitAt s.dev))) s u ∧
      u.dev.cores.record = changeRecord 1 { c with committed := true, applied := c.acked &&& applied } ∧
      (c.cores = true → ∀ n < 64, (c.acked &&& applied).getLsbD n = true →
        (coreOf u.dev n).split = (coreOf s.dev n).pendingSplit ∧ (coreOf u.dev n).prepared = false ∧
        (coreOf u.dev n).changeId = c.id) ∧
      (∀ n < 64, c.cores = false ∨ (c.acked &&& applied).getLsbD n = false → (coreOf u.dev n).split = (coreOf s.dev n).split) ∧
      (c.cores = false → (c.acked &&& applied).getLsbD 48 = true → c.opcode = 0x0204 →
        u.dev.sched.parts = withParts c.packet s.dev.sched.parts))) ∧
  (∀ (n : Nat) (c : Change) (d : Dev), n < 64 → (coreOf (applyMode n c d) n).store = [] ∧
    (coreOf (applyMode n c d) n).bundles = [] ∧ (coreOf (applyMode n c d) n).forwards = [] ∧
    (coreOf (applyMode n c d) n).engines = [] ∧ (coreOf (applyMode n c d) n).mustZero = true)

/-- R238, R329: 20 µs after the COMMIT instant the acknowledged units that did not apply are fenced when they are cores, and
bring chip safe state when they are not; the final reply of the oldest concluded change is DONE with the units that applied.
The model's readings that this rests on: log 35. -/
def Obligations.ChangesConclude : Prop :=
  (∀ (s : State), exec .changeApplyDeadline s =
    .next (cleared s (s.dev.cores.changes.foldl (fun d c => failApply c d) s.dev))) ∧
  (∀ (d : Dev) (c : Change) (failed : W64) (e : Dev), failed = c.acked &&& ~~~c.applied →
    e = setChange { c with failed := failed } 1 (advance (c.commitAt + us 20) d) →
    (c.committed = false ∨ failed = 0 ∨ c.failed ≠ 0 → failApply c d = d) ∧
    (c.committed = true → failed ≠ 0 → c.failed = 0 → c.cores = true →
      failApply c d = pump (((List.range 64).filter fun n => failed.getLsbD n).foldl (fun d n => fenceCore n d) e) ∧
      (d.start.wireTest = false → ∀ n < 64, failed.getLsbD n = true → isFenced (failApply c d) n = true)) ∧
    (c.committed = true → failed ≠ 0 → c.failed = 0 → c.cores = false → failApply c d = enterSafe true 0xFFFF e ∧
      (failApply c d).cal.chipSafe = true ∧ (failApply c d).gnt.forced = true)) ∧
  (∀ (s : State) (c : Change), s.dev.cores.changes.find? (fun c => c.committed || c.aborted) = some c →
    ∃ u d e, exec .changeDone s = .next u ∧ d = failApply c s.dev ∧
      e = { d with cores := { d.cores with changes := d.cores.changes.filter fun x => x.id != c.id } } ∧
      (acceptedOf? e c.session c.counter = none → doneAs (serveRings e) s u) ∧
      (∀ a, acceptedOf? e c.session c.counter = some a → doneAs (serveRings (finalReply a cDone c.applied e)) s u)) ∧
  (∀ (s : State), (∀ c ∈ s.dev.cores.changes, c.committed = false ∧ c.aborted = false) → ∃ u, exec .changeDone s = .next u ∧
    doneAs (serveRings s.dev) s u)

/-- R249, R265, R329, R267: a commit takes effect at its due instant. The part of a partition brings its own windows, and no
other partition's, into the frame tables, and its withdrawal ends; the device's part sets the device and ingress buckets and
writes the change record. A bucket keeps its refilled level, gains what its depth gains, and never holds more than its depth.
The model's readings that this rests on: log 29. -/
def Obligations.AdmissionCommits : Prop :=
  (∀ (q : Option (Fin 16)) (s : State), s.dev.sched.commits.find? (fun c => c.partition == q.map (·.val)) = none →
    s.dev.fabric.role ≠ 1 → ∃ u, exec (.admissionCommit q) s = .next u ∧ doneAs s.dev s u) ∧
  (∀ (p : Fin 16) (s : State) (c : PendingCommit), s.dev.sched.commits.find? (fun c => c.partition == some p.val) = some c →
    ∃ m, exec (.admissionCommit (some p)) s = .next (zeroSegs (cleared s (if s.dev.fabric.role = 1 then retryUnplaced m else m))) ∧
      m.geyser.now = max s.dev.geyser.now c.due ∧
      onlyLaunches (activateGolden p.val (installScratch c.config (· == p.val) (installPart p.val c.config
        (modSched (fun x => { x with commits := x.commits.erase c }) (advance c.due s.dev))))) m ∧
      m.sched.commits = s.dev.sched.commits.erase c ∧ p.val ∉ m.sched.withdrawn ∧
      (∀ k < 16, ∀ w, w.partition ≠ 0xFF → (w ∈ kget [] m.sched.tables k ↔
        (w ∈ kget [] s.dev.sched.tables k ∧ w.partition ≠ p.val) ∨ (w ∈ kget [] c.config.windows k ∧ w.partition = p.val)))) ∧
  (∀ (s : State) (c : PendingCommit), s.dev.sched.commits.find? (fun c => c.partition == none) = some c →
    ∃ m, exec (.admissionCommit none) s = .next (zeroSegs (cleared s (if s.dev.fabric.role = 1 then retryUnplaced m else m))) ∧
      m.sched.tables = s.dev.sched.tables ∧
      onlyLaunches (admissionRecord c (installDevice c.config
        (modSched (fun x => { x with commits := x.commits.erase c }) (advance c.due s.dev)))) m ∧
      m.cores.record.outcome = 1 ∧ m.cores.record.commitAt = c.due ∧ m.cores.nextChange = s.dev.cores.nextChange + 1 ∧
      ∀ i r, c.config.ingress[i]? = some r → i < 2 → (slotOf m i).ingressRate = r.1 ∧ (slotOf m i).ingressDepth = r.2) ∧
  (∀ (t : Time) (rate depth level : Nat) (b : Bucket),
    (setBucket t rate depth b).rate = rate ∧ (setBucket t rate depth b).depth = depth ∧
    (b.made = false → (setBucket t rate depth b).level = 4294967296 * depth) ∧
    (level = min (4294967296 * b.depth) (b.level + b.rate * (t - b.at_) / 1000) → b.made = true →
      (b.depth ≤ depth → (setBucket t rate depth b).level = level + 4294967296 * (depth - b.depth)) ∧
      (depth < b.depth → (setBucket t rate depth b).level = min level (4294967296 * depth)) ∧
      (setBucket t rate depth b).level ≤ 4294967296 * depth))

/-- R267 to R269, R528: a re-admission runs the checks on the set without the fenced cores and without contexts that drain. Where
the set passes, nothing is shed; otherwise contexts are shed from the highest criticality number and the latest opened on, each
tried again, and one that does not go to a sibling is SUSPENDED with attention class 1. It queues the commits of what remains.
The model's readings that this rests on: logs 25 and 49. -/
def Obligations.Readmissions : Prop :=
  (∀ (t : Time) (s : State), (s.dev.sched.readmit = none ∨ s.dev.front.state = .chipFailed ∨ stewardUp s.dev = false) →
    ∃ u, exec (.readmission t) s = .next u ∧
    onlyLaunches (advance t s.dev) u.dev ∧ onlyZeroed s.mem u.mem ∧ u.pending = s.pending) ∧
  (∀ (t : Time) (s : State) (e g : Dev) (cause unit : Nat) (clear : W64), s.dev.sched.readmit = some (cause, unit) →
    s.dev.front.state ≠ .chipFailed → stewardUp s.dev = true →
    clear = (List.range 64).foldl (fun (m : W64) n => if isFenced s.dev n then m &&& ~~~((1 : W64) <<< n) else m) (~~~(0 : W64)) →
    g = modSched (fun x => { x with
      readmit := none
      parts := kmapv (fun _ q => { q with mask := q.mask &&& clear }) x.parts }) (advance t s.dev) →
    e = { g with contexts := kmapv (fun _ x => if x.state = .draining then { x with uncounted := true } else x) g.contexts } →
    (∀ cfg, runAdmission e = .ok cfg → ∃ u f, exec (.readmission t) s = .next u ∧
      f = (if cause = 4 then e else raiseAttn 1 14 [] e) ∧
      onlyLaunches (queueCommits (commitsFor f f.geyser.now cfg (concerned f cfg s.dev.sched.withdrawn)) f) u.dev ∧
      onlyZeroed s.mem u.mem ∧ u.pending = s.pending) ∧
    (∀ why out f, runAdmission e = .error why → out = keepFitting e (shedUntil e ((shedOrder e).map (·.1)) []) →
      f = (if cause = 4 then id else raiseAttn 1 14 []) (out.foldl (fun d c => shedCtx cause unit why (BitVec.ofNat 32 c) d) e) →
      ∃ u, exec (.readmission t) s = .next u ∧ onlyZeroed s.mem u.mem ∧ u.pending = s.pending ∧
        (∀ bad, runAdmission (without_ out e) = .error bad → onlyLaunches f u.dev) ∧
        (∀ cfg, runAdmission (without_ out e) = .ok cfg → onlyLaunches (queueCommits (commitsFor f f.geyser.now cfg
          (concerned f cfg (s.dev.sched.withdrawn ++ out.map fun c => (ctxOf e (BitVec.ofNat 32 c)).partition))) f) u.dev))) ∧
  (∀ (d : Dev) (out : List Nat), (∃ c, runAdmission (without_ out d) = .ok c) →
    ∃ c, runAdmission (without_ (keepFitting d out) d) = .ok c) ∧
  (∀ (d : Dev) (l : List Nat), (∃ c, runAdmission (without_ (shedUntil d l []) d) = .ok c) ∨ shedUntil d l [] = l) ∧
  (∀ (d : Dev) (l : List Nat) (c : AdmitConfig), runAdmission d = .ok c → shedUntil d l [] = []) ∧
  (∀ (d : Dev), (shedOrder d).Pairwise fun a b => criticalityOf d b.2 < criticalityOf d a.2 ∨
    criticalityOf d b.2 = criticalityOf d a.2 ∧ b.2.order ≤ a.2.order) ∧
  (∀ (cause unit : Nat) (why : Shortfall) (c : W32) (d : Dev), inFabric d = false ∨ siblings d = [] →
    shedCtx cause unit why c d = suspendCtx cause unit why c d ∧
    (kfind? (shedCtx cause unit why c d).attn.pending 1).isSome)

/-- R32, R36, R263, R329, R478: at its activation instant an ADMITTED context becomes ACTIVE with a full rate bucket and its
CONTEXT_OPEN has the final reply DONE with its three queue numbers; a SUSPENDED one whose CONTEXT_RESUME is due becomes ACTIVE
with DONE and the word 0. One that was shed before its activation stays SUSPENDED, and one that was taken over becomes ACTIVE without
a reply of its own. In safe state nothing happens.
The model's readings that this rests on: log 25. -/
def Obligations.ContextActivation : Prop :=
  (∀ (c : W32) (s : State) (x : Context) (a : Accepted) (e : Dev), x = ctxOf s.dev c → inSafe s.dev = false →
    s.dev.accepted.find? (fun a => (a.packet.opcode == 0x0306 || a.packet.opcode == 0x0308) && a.packet.context == c) = some a →
    a.mirror = none → a.outcome = none → e = becomeActive c s.dev →
    (x.state = (if a.packet.opcode = 0x0308 then CtxState.suspended else .admitted) →
      ∃ u, exec (.contextActivation c) s = .next u ∧
        doneAs (serveRings (finalReply a cDone (if a.packet.opcode = 0x0306
          then BitVec.ofNat 64 (x.vQueue * 2 ^ 40 + x.chQueue * 2 ^ 20 + x.evQueue) else 0) e)) s u) ∧
    (x.state = .suspended → a.packet.opcode = 0x0306 → ∃ u, exec (.contextActivation c) s = .next u ∧
      doneAs (serveRings (finalReply a cDone (BitVec.ofNat 64 (x.vQueue * 2 ^ 40 + x.chQueue * 2 ^ 20 + x.evQueue))
        (advance x.activation s.dev))) s u)) ∧
  (∀ (c : W32) (d : Dev) (x : Context) (e : Dev), x = ctxOf d c → e = becomeActive c d →
    ctxOf e c = { x with state := .active, activated := true, rateLevel := 2 * (1000 * sec 1), rateAt := x.activation } ∧
    e.geyser.now = max d.geyser.now x.activation) ∧
  (∀ (c : W32) (s : State), inSafe s.dev = false → (ctxOf s.dev c).state = .admitted →
    s.dev.accepted.find? (fun a => (a.packet.opcode == 0x0306 || a.packet.opcode == 0x0308) && a.packet.context == c) = none →
    ∃ u, exec (.contextActivation c) s = .next u ∧
      doneAs (serveRings (concludeOld c (queueWord (ctxOf s.dev c)) (becomeActive c s.dev))) s u) ∧
  (∀ (c : W32) (s : State), inSafe s.dev = true → ∃ u, exec (.contextActivation c) s = .next u ∧ doneAs (serveRings s.dev) s u)

/-! ### Memory (05, 10 R243 to R248, 11) -/

/-- R123 to R126, R242, R244, R247, R248, R272 to R275, R278, R282, R284, R287, R288, R300, Table 10.4: an access checks the map, the
two copies of the tags and the key, and waits for its tokens. A read of an EPHEMERAL word gives the word: as stored where its code is
clean, corrected where one bit of it differs, with the count of corrected errors of its stop, and nothing where more do; one of a
DURABLE word gives what the page decode restores, one of a CHECK word the word where its line's CRC holds. A write puts its bytes into
their line, in place of what was there, leaves every byte outside alone and makes the line's words clean; a partition's key
opens its own segments, and others' for reading where READ_MASK allows. A request with the device key to an address that does not
exist stops, and a core's or a channel's refused request traps or halts. Of requests whose tokens have come the device's are served first,
then those of the lowest criticality number.
The model's readings that this rests on: logs 19, 46 and 49. -/
def Obligations.MemoryAccess : Prop :=
  (∀ (t : Time) (who : Accessor) (addr : Nat) (s : State), who = .device ∨ who = .fumarole → mapped (atMem t s).dev who addr = false →
    exec (.memoryRead t who (addr / 64) (addr % 64)) s = .fault (.unmapped addr) ∧
    ∀ b, exec (.memoryWrite t who (addr / 64) (addr % 64) b) s = .fault (.unmapped addr)) ∧
  (∀ (d : Dev) (who : Accessor) (key : Key) (addr : Nat) (write : Bool),
    (mapped d who (reach d key addr) = false → gate who key addr write d = .refused) ∧
    (mapped d who (reach d key addr) = true → (∀ st, stopAt? (reach d key addr) = some st → (stopOf d st).tagsDisagree = false) →
      gate who key addr write d = if keyOpens d key (reach d key addr) write then .go else .refused) ∧
    (∀ st, mapped d who (reach d key addr) = true → stopAt? (reach d key addr) = some st → (stopOf d st).tagsDisagree = true →
      gate who key addr write d = .tags st) ∧
    (∀ n, localCore? addr = some n → (mapped d who addr = true ↔ isFenced d n = false ∧
      ((∃ c : Fin 64, who = .core c ∧ c.val = n) ∨ ∃ ch, who = .dma ch ∧ ch < 256 ∧ n / 4 = ch / 16)))) ∧
  (∀ (d : Dev) (p : Fin 16) (addr : Nat) (write : Bool) (g : Nat), segmentAt? addr = some g →
    (keyOpens d (.partition p) addr write = true ↔ (segOf d g).valid = true ∧ (segOf d g).device = false ∧
      ((segOf d g).owner = p.val ∨ write = false ∧ (segOf d g).readMask.getLsbD p.val = true)) ∧ keyOpens d .device addr write = true) ∧
  (∀ (t : Time) (n : Fin 64) (addr : Nat) (s a b : State) (v : List Byte), b = atMem t s → addr % 64 + v.length ≤ 64 → v ≠ [] →
    a = onDev (modCtl fun m => { m with lastRead := none }) b →
    (gate (.core n) (coreKey a.dev n.val) addr false a.dev = .refused →
      exec (.memoryRead t (.core n) (addr / 64) (addr % 64)) s = .next (cleared a (trapOn n.val { kind := 5, addr := addr } a.dev))) ∧
    (gate (.core n) (coreKey b.dev n.val) addr true b.dev = .refused →
      exec (.memoryWrite t (.core n) (addr / 64) (addr % 64) v) s = .next (cleared b (trapOn n.val { kind := 5, addr := addr } b.dev))) ∧
    (∀ ch, gate (.dma ch) (keyOf a.dev (.dma ch)) addr false a.dev = .refused →
      exec (.memoryRead t (.dma ch) (addr / 64) (addr % 64)) s = .next (cleared a (haltChannel ch 1 addr a.dev))) ∧
    (∀ ch, gate (.dma ch) (keyOf b.dev (.dma ch)) addr true b.dev = .refused →
      exec (.memoryWrite t (.dma ch) (addr / 64) (addr % 64) v) s = .next (cleared b (haltChannel ch 1 addr b.dev))) ∧
    (∀ who st, gate who (keyOf a.dev who) addr false a.dev = .tags st →
      exec (.memoryRead t who (addr / 64) (addr % 64)) s = .next (cleared a (signal (sSegTag st) a.dev))) ∧
    (∀ who st, gate who (keyOf b.dev who) addr true b.dev = .tags st →
      exec (.memoryWrite t who (addr / 64) (addr % 64) v) s = .next (cleared b (signal (sSegTag st) b.dev)))) ∧
  (∀ (ch reason addr : Nat) (d : Dev), ((dmaOf d ch).halted = true → haltChannel ch reason addr d = d) ∧
    ((dmaOf d ch).halted = false → ∀ e, e = modDma ch (fun c => { c with
        halted := true, reason := reason, haltAddr := addr, busy := false }) d →
      haltChannel ch reason addr d = if (dmaOf d ch).busy = true ∧ ch < 256
        then trapOn (dmaOf d ch).core { kind := if reason = 1 then 5 else 4, addr := addr } e else e)) ∧
  (∀ (t : Time) (who : Accessor) (addr k : Nat) (key : Key) (s a : State) (u : Option Time) (e : Dev),
    a = onDev (modCtl fun m => { m with lastRead := none }) (atMem t s) → key = keyOf a.dev who → k = reach a.dev key addr / 8 →
    mapped a.dev who addr = true → gate who key addr false a.dev = .go → takeTokens who key addr 1 a.dev = (u, e) →
    (u = none → exec (.memoryRead t who (addr / 64) (addr % 64)) s = .next (cleared a e)) ∧
    (∀ v, u = some v → e.geyser.now < v → exec (.memoryRead t who (addr / 64) (addr % 64)) s = .next (cleared a (modSched (fun x => { x with
      requests := x.requests ++ [{ who := who, addr := addr, bucket := bucketNo key, due := v }] }) e))) ∧
    (∀ v, u = some v → v ≤ e.geyser.now →
      ((modeAt a.dev k ≠ .check ∧ syndAt a.mem k = 0 ∨ modeAt a.dev k = .check ∧ lineClean a.mem (k / 8) = true) →
        exec (.memoryRead t who (addr / 64) (addr % 64)) s = .next (cleared a (modCtl (fun m => { m with lastRead := some (wordAt a.mem k) }) e))) ∧
      (∀ w, modeAt a.dev k ≠ .check → wordValue? a.mem k = some w → syndAt a.mem k ≠ 0 →
        exec (.memoryRead t who (addr / 64) (addr % 64)) s = .next (cleared a (modCtl (fun m => { m with lastRead := some w })
          (if onlyInjected k a then foundInjection k true e else correctedWord k e)))) ∧
      (∀ w g, modeAt a.dev k = .durable → wordValue? a.mem k = none →
        g = decodePage (readerOf who) k (onlyInjected k a) { a with dev := e } → wordValue? g.mem k = some w →
        exec (.memoryRead t who (addr / 64) (addr % 64)) s = .next (cleared g (modCtl (fun m => { m with lastRead := some w }) g.dev))) ∧
      (∀ r, modeAt a.dev k = .ephemeral → wordValue? a.mem k = none → onlyInjected k a = false →
        r = (if linePoisoned a.mem (k / 8) then 3 else 2) →
        exec (.memoryRead t who (addr / 64) (addr % 64)) s = .next (cleared a (modCtl (fun m => { m with lastRead := none })
          (meetUnusable who (reach a.dev key addr) r (meetBad r (readerOf who) k (syndAt a.mem k) false e))))))) ∧
  (∀ (m : Mem) (k : Nat), (syndAt m k = 0 → wordValue? m k = some (wordAt m k)) ∧
    (∀ w, wordValue? m k = some w → w = wordAt m k ∨ ∃ i < 64, w = wordAt m k ^^^ BitVec.twoPow 64 i)) ∧
  (∀ (t : Time) (who : Accessor) (addr o l : Nat) (b : List Byte) (key : Key) (s a : State) (u : Option Time) (e : Dev), a = atMem t s →
    key = keyOf a.dev who → l = reach a.dev key addr / 64 → o = addr % 64 → mapped a.dev who addr = true → b ≠ [] → o + b.length ≤ 64 →
    gate who key addr true a.dev = .go → takeTokens who key addr (writeCost a.dev addr b.length) a.dev = (u, e) →
    (u = none → exec (.memoryWrite t who (addr / 64) (addr % 64) b) s = .next (cleared a e)) ∧
    (∀ v, u = some v → e.geyser.now < v → exec (.memoryWrite t who (addr / 64) (addr % 64) b) s = .next (cleared a (modSched (fun x => { x with
      requests := x.requests ++ [{ who := who, addr := addr, bucket := bucketNo key, due := v, data := some b }] }) e))) ∧
    (∀ v, u = some v → v ≤ e.geyser.now → modeAt a.dev (8 * l) ≠ .durable → (∀ k ∈ lineWords l, syndAt a.mem k = 0) → a.mem.wf = true →
      ∃ m, exec (.memoryWrite t who (addr / 64) (addr % 64) b) s = .next (cleared { a with mem := m } (endInjection l (clearMark l e))) ∧
        (∀ k, k ∉ lineWords l → wordAt m k = wordAt a.mem k ∧ syndAt m k = syndAt a.mem k) ∧
        (∀ k ∈ lineWords l, syndAt m k = 0) ∧ m.parity = a.mem.parity ∧ m.psynd = a.mem.psynd ∧
        (∀ i < 8, ∀ j < 8, byteOf (wordAt m (8 * l + i)) j =
          if o ≤ 8 * i + j ∧ 8 * i + j < o + b.length then b.getD (8 * i + j - o) 0 else byteOf (wordAt a.mem (8 * l + i)) j))) ∧
  (∀ (t cost : Nat) (b x : Bucket), b.at_ ≤ t → x = refill t b →
    (4294967296 * cost ≤ x.level → chargeBucket t cost b = ({ x with level := x.level - 4294967296 * cost }, some t)) ∧
    (x.level < 4294967296 * cost → b.rate = 0 ∨ b.depth < cost → chargeBucket t cost b = ({ x with waited := true }, none)) ∧
    (∀ due, x.level < 4294967296 * cost → b.rate ≠ 0 → cost ≤ b.depth →
      due = t + ceilDiv ((4294967296 * cost - x.level) * 1000) b.rate →
      chargeBucket t cost b = ({ x with level := 0, at_ := due, waited := true }, some due))) ∧
  (∀ (d : Dev) (r : Request), nextRequest? d = some r → r ∈ d.sched.requests ∧ r.due ≤ d.geyser.now ∧
    ∀ q ∈ d.sched.requests, q.due ≤ d.geyser.now → r.due ≤ q.due ∧
      (r.due = q.due → (q.bucket = 16 → r.bucket = 16) ∧
        ∀ x y, r.bucket ≠ 16 → q.bucket ≠ 16 → partOf? d r.bucket = some x → partOf? d q.bucket = some y → x.criticality ≤ y.criticality))

/-- R127, R131, R292 to R301, R290, R271, Tables 11.6, 11.9, 11.10: scrubbing rewrites the corrected words of an EPHEMERAL page and
poisons its lines that cannot be corrected, each with its mark, its entry and its event; the verify read of a rewritten word finds
a sticky cell or drops the word from the log. A relocation copies what a segment holds, with its tag, and retires it. A mode change
converts the segment. An armed injection strikes the line of MEM_INJECT_ADDR at once. Of the packets that a link holds a safety one
crosses before a response and a response before a request, to the stop whose buffer it then enters; one that fails its check is
counted and sent again; a second failure is CHIP_FAILED.
The model's readings that this rests on: logs 46, 48 and 49. -/
def Obligations.MemoryCare : Prop :=
  (∀ (t : Time) (p : Nat) (s a : State), a = atMem t s →
    stopAt? (4096 * p) = none ∨ inHbm (4096 * p) = true ∧ a.dev.memctl.moving.isSome = true → exec (.scrubPage t p) s = .next (zeroCores a)) ∧
  (∀ (t : Time) (p stop : Nat) (s a : State) (d e : Dev), a = atMem t s → stopAt? (4096 * p) = some stop →
    (inHbm (4096 * p) = true → a.dev.memctl.moving = none) →
    d = modStop stop (fun x => { x with
      passPage := p, passStart := if p < x.passPage then a.dev.geyser.now else x.passStart }) a.dev →
    e = (if inHbm (4096 * p) then (chargeHbm stop 16 a.dev.geyser.now 65 d).2 else d) → modeAt a.dev (512 * p) = .ephemeral →
    ((∀ k ∈ pageWords p, syndAt a.mem k = 0) → exec (.scrubPage t p) s = .next (cleared a e)) ∧
    ((∀ k ∈ pageWords p, isBad a.mem k = false) → a.mem.wf = true →
      ∃ u m, exec (.scrubPage t p) s = .next u ∧ onlyZeroed m u.mem ∧ u.pending = s.pending ∧
        (∀ k ∈ pageWords p, syndAt m k = 0 ∧ some (wordAt m k) = wordValue? a.mem k) ∧
        (∀ k, k ∉ pageWords p → wordAt m k = wordAt a.mem k ∧ syndAt m k = syndAt a.mem k))) ∧
  (∀ (p stop : Nat) (lines : List Nat) (cause kind : Nat) (s : State), stopAt? (4096 * p) = some stop →
    (∀ l ∈ lines, linePoisoned (scrubPoison p lines cause kind s).mem l = true) ∧
    (∀ k, (∀ l ∈ lines, k ∉ lineWords l) → syndAt (scrubPoison p lines cause kind s).mem k = syndAt s.mem k) ∧
    (scrubPoison p lines cause kind s).mem.words = s.mem.words) ∧
  (∀ (k stop : Nat) (s a : State) (e : Nat × Time) (d : Dev), a = flushWrites s → stopAt? (8 * k) = some stop →
    (stopOf a.dev stop).wbLog.find? (·.1 == k) = some e → d = advance e.2 a.dev →
    (syndAt a.mem k = 0 ∨ isBad a.mem k = true → exec (.scrubVerifyRead k) s =
      .next (cleared a (modStop stop (fun x => { x with wbLog := x.wbLog.filter (·.1 != k) }) d))) ∧
    (syndAt a.mem k ≠ 0 → isBad a.mem k = false → exec (.scrubVerifyRead k) s =
      .next (cleared { a with mem := fixWord k a.mem } (logWord k (stickyEvent stop k (countWord k d)))))) ∧
  (∀ (t : Time) (g b : Nat) (at_ : Time) (s a : State), a = atMem t s → a.dev.memctl.moving = some (g, b, at_) → g ≠ b → a.mem.wf = true →
    ∃ u, exec (.relocationComplete t g) s = .next u ∧ u.pending = s.pending ∧
      segOf u.dev b = segOf a.dev g ∧ segOf u.dev g = { segOf a.dev g with retired := true, valid := false } ∧
      (∀ h, h ≠ g → h ≠ b → segOf u.dev h = segOf a.dev h) ∧
      (∀ k, kfind? a.dev.memctl.moved k = some g → kfind? u.dev.memctl.moved k = some b) ∧
      ((∀ x ∈ a.dev.memctl.moved, x.2 ≠ g) → kfind? u.dev.memctl.moved g = some b) ∧
      (∀ k < 262144, wordAt u.mem (262144 * b + k) = wordAt a.mem (262144 * g + k) ∧
        syndAt u.mem (262144 * b + k) = syndAt a.mem (262144 * g + k)) ∧
      (∀ k, k / 262144 ≠ b → wordAt u.mem k = wordAt a.mem k ∧ syndAt u.mem k = syndAt a.mem k)) ∧
  (∀ (t : Time) (g : Nat) (s a : State), a = atMem t s → (∀ b at_, a.dev.memctl.moving ≠ some (g, b, at_)) →
    exec (.relocationComplete t g) s = .next a) ∧
  (∀ (t : Time) (g : Nat) (mode : BitVec 2) (m : SegMode) (s : State), segModeOf mode = some m →
    ∃ u, exec (.segModeWrite t g mode) s = .next u ∧ u.mem = s.mem ∧ u.pending = s.pending ∧
      ((segOf s.dev g).mode = m → u.dev = advance t s.dev) ∧
      ((segOf s.dev g).mode ≠ m → u.dev = modSeg g (fun x => { x with converting := true, convertTo := m }) (advance t s.dev))) ∧
  (∀ (t : Time) (g : Nat) (s : State), ∃ u, exec (.segModeWrite t g 3) s = .next u ∧ u = { s with dev := advance t s.dev }) ∧
  (∀ (t : Time) (g : Nat) (s a : State), a = atMem t s →
    ((segOf a.dev g).converting = false → exec (.segmentConversionComplete t g) s = .next (zeroCores a)) ∧
    ((segOf a.dev g).converting = true → markedLines g a.mem = [] → exec (.segmentConversionComplete t g) s =
      .next (cleared { a with mem := convertParity g (segOf a.dev g).convertTo a.mem }
        (modSeg g (fun x => { x with converting := false, mode := x.convertTo }) a.dev))) ∧
    ((segOf a.dev g).converting = true → (segOf a.dev g).mode = .ephemeral → a.mem.wf = true →
      ∃ u m, exec (.segmentConversionComplete t g) s = .next u ∧ onlyZeroed m u.mem ∧ u.pending = s.pending ∧
        (∀ l ∈ markedLines g a.mem, (lineBad a.mem l = true → linePoisoned m l = true) ∧
          (lineBad a.mem l = false → ∀ k ∈ lineWords l, syndAt m k = 0 ∧ some (wordAt m k) = wordValue? a.mem k)) ∧
        (∀ k, k / 8 ∉ markedLines g a.mem → wordAt m k = wordAt a.mem k ∧ syndAt m k = syndAt a.mem k))) ∧
  (∀ (g : Nat) (mode : SegMode) (m : Mem), (convertParity g mode m).words = m.words ∧ (convertParity g mode m).synd = m.synd) ∧
  (∀ (t : Time) (k : Fin 21) (v : W32) (s a : State) (x : MemStop), a = atMem t s → x = stopOf a.dev k.val →
    (v.getLsbD 31 = false → ∃ u, exec (.memInjectArm t k v) s = .next u ∧
      u = { a with dev := modStop k.val (fun y => { y with inject := (v &&& 0x7FFFFFF8) ||| (y.inject &&& 7) }) a.dev }) ∧
    (v.getLsbD 31 = true → stopAt? (64 * (x.injectAddr / 64)) ≠ some k.val → ∃ u, exec (.memInjectArm t k v) s = .next u ∧
      u = { a with dev := modStop k.val (fun y => { y with inject := v &&& 0x7FFFFFF8 }) a.dev }) ∧
    (v.getLsbD 31 = true → stopAt? (64 * (x.injectAddr / 64)) = some k.val → ∃ u, exec (.memInjectArm t k v) s = .next u ∧
      u.mem = injectLine v.toNat (decide (modeAt a.dev (8 * (x.injectAddr / 64)) = .check)) (x.injectAddr / 64) a.mem ∧
      u = { a with
        mem := u.mem
        dev := modStop k.val (fun y => { y with
          inject := (v &&& 0x7FFFFFF8) ||| 4, expect := (lineWords (x.injectAddr / 64)).map (syndAt u.mem) }) a.dev })) ∧
  (∀ (v l k : Nat) (check : Bool) (m : Mem), v / 2 ^ 28 % 8 < 5 → m.wf = true → k ∉ lineWords l →
    wordAt (injectLine v check l m) k = wordAt m k ∧ syndAt (injectLine v check l m) k = syndAt m k) ∧
  (∀ (k : Fin 20) (s : State) (e : Time), e = (stopOf s.dev k.val).passStart + ms (1250 * s.dev.memctl.passSec) →
    ∃ u, exec (.fumaroleLate k) s = .next u ∧
      u = cleared s (signal 751 (modStop k.val (fun x => { x with passStart := e }) (advance e s.dev)))) ∧
  (∀ (t : Time) (k : Fin 38) (back : Bool) (sent : List MeshPacket) (s : State) (d : Dev) (x y : Nat), d = advance t s.dev →
    (x, y) = (if back then ((linkEnds k.val).2, (linkEnds k.val).1) else linkEnds k.val) →
    (∀ ok r, meshTake x y (meshSend x y sent d.mesh) = none → ∃ u, exec (.meshPacketReceive t ⟨k, back⟩ sent ⟨ok, r⟩) s = .next u ∧
      onlyLaunches d u.dev ∧ onlyZeroed s.mem u.mem ∧ u.pending = s.pending) ∧
    (∀ p m, meshTake x y (meshSend x y sent d.mesh) = some (p, m) →
      (∀ r, ∃ u, exec (.meshPacketReceive t ⟨k, back⟩ sent ⟨true, r⟩) s = .next u ∧ onlyLaunches { d with mesh := meshPut y p m } u.dev ∧
        onlyZeroed s.mem u.mem ∧ u.pending = s.pending) ∧
      (∃ u, exec (.meshPacketReceive t ⟨k, back⟩ sent ⟨false, true⟩) s = .next u ∧
        onlyLaunches (signal (696 + k.val) { d with mesh := meshPut y p m }) u.dev ∧ onlyZeroed s.mem u.mem ∧ u.pending = s.pending) ∧
      (∃ u, exec (.meshPacketReceive t ⟨k, back⟩ sent ⟨false, false⟩) s = .next u ∧ u.dev.front.state = .chipFailed ∧
        onlyLaunches (chipFailed (signal (696 + k.val) (signal (696 + k.val) { d with mesh := m }))) u.dev ∧
        onlyZeroed s.mem u.mem ∧ u.pending = s.pending))) ∧
  (∀ (a b : Nat) (m n : Mesh) (p : MeshPacket), meshTake a b m = some (p, n) →
    (kget [] m.buffers (bufferKey a b .safety) ≠ [] → (kget [] m.buffers (bufferKey a b .safety)).head? = some p) ∧
    (kget [] m.buffers (bufferKey a b .safety) = [] → kget [] m.buffers (bufferKey a b .response) ≠ [] →
      (kget [] m.buffers (bufferKey a b .response)).head? = some p) ∧
    (kget [] m.buffers (bufferKey a b .safety) = [] → kget [] m.buffers (bufferKey a b .response) = [] →
      (kget [] m.buffers (bufferKey a b .request)).head? = some p))

/-! ### The sensor tap, the Ethernet ports and the board (04, 18, 22) -/

/-- R102 to R114, R538, Tables 4.1, 4.3 to 4.5: a camera packet at a linked TAP port goes to the open stream of its address, port
and SSRC. A valid packet writes its groups into the frame of its RTP timestamp; a frame is COMPLETE when the marker has come and
every group has, and its bytes then go to its slot of the stream's ring. Its digests and its FRAME_NOTICE follow; at its assembly limit an
incomplete frame fails, at its hold time a complete one leaves its slot. Silence of a stream and an unclaimed frame are counted.
The model's readings that this rests on: logs 20, 47 and 49. -/
def Obligations.TapFrames : Prop :=
  (∀ (t : Time) (k : Fin 4) (p : TapPacket) (s : State) (d : Dev) (x : Port), d = advance t s.dev → x = portOf s.dev k.val →
    (x.link = false → ∃ u, exec (.tapPacket t k p) s = .next u ∧ u = cleared s d) ∧
    (x.link = true → x.role = .out → ∃ u, exec (.tapPacket t k p) s = .next u ∧
      u = cleared s (modPort k.val (fun p => { p with outReceived := p.outReceived.add 1 }) d)) ∧
    (x.link = true → x.role = .none_ ∨ x.role = .fabric → ∃ u, exec (.tapPacket t k p) s = .next u ∧
      u = cleared s (modPort k.val (fun p => { p with unsupported := p.unsupported.add 1 }) d)) ∧
    (x.link = true → x.role = .tap → s.dev.start.resumed = false → ∃ u, exec (.tapPacket t k p) s = .next u ∧ u = cleared s d) ∧
    (∀ held e, x.link = true → x.role = .tap → s.dev.start.resumed = true → held = x.rxBytes - p.drained →
      e = modPort k.val (fun y => { y with rxBytes := held + p.size }) d →
      (262144 < held + p.size → ∃ u, exec (.tapPacket t k p) s = .next u ∧
        u = cleared s (modPort k.val (fun y => { y with rxBytes := held, overruns := y.overruns.add 1 }) d)) ∧
      (held + p.size ≤ 262144 → p.fcsOk = false ∨ p.ipOk = false → ∃ u, exec (.tapPacket t k p) s = .next u ∧
        u = cleared s (modPort k.val (fun p => { p with headerFail := p.headerFail.add 1 }) e)) ∧
      (held + p.size ≤ 262144 → p.fcsOk = true → p.ipOk = true → exactStream? s.dev k.val p = none →
        (nearStream? s.dev k.val p = none ∨ p.udpOk = false → ∃ u, exec (.tapPacket t k p) s = .next u ∧
          u = cleared s (modPort k.val (fun p => { p with unsupported := p.unsupported.add 1 }) e)) ∧
        (∀ n y, nearStream? s.dev k.val p = some (n, y) → p.udpOk = true → ∃ u, exec (.tapPacket t k p) s = .next u ∧
          u = cleared s (modStream n (fun s => { s with unmatched := s.unmatched.add 1 }) e))) ∧
      (∀ n y, held + p.size ≤ 262144 → p.fcsOk = true → p.ipOk = true → exactStream? s.dev k.val p = some (n, y) →
        (p.udpOk = false → ∃ u, exec (.tapPacket t k p) s = .next u ∧
          u = cleared s (modStream n (fun s => { s with checksum := s.checksum.add 1 }) e)) ∧
        (p.udpOk = true → formOk y p = false → ∃ u, exec (.tapPacket t k p) s = .next u ∧
          u = cleared s (modStream n (fun s => { s with unmatched := s.unmatched.add 1 }) e)) ∧
        (p.udpOk = true → formOk y p = true → ∃ u, exec (.tapPacket t k p) s = .next u ∧ u = cleared s (validPacket n p e))))) ∧
  (∀ (n : Nat) (p : TapPacket) (d e : Dev) (y : Stream),
    e = modStream n (fun s => { noteSeq p.seq s with lastValid := (expireFrames n d).geyser.now, silent := false }) (expireFrames n d) →
    streamOf? e n = some y →
    (∀ f, y.frames.find? (fun f => f.rtp == p.rtp && f.status == .assembling) = some f → validPacket n p d = framePacket n y f p e) ∧
    (y.frames.find? (fun f => f.rtp == p.rtp && f.status == .assembling) = none →
      (∀ k, y.newest = some k → newer p.rtp k = false →
        validPacket n p d = modStream n (fun s => { s with latePackets := s.latePackets.add 1 }) e) ∧
      (y.newest = none ∨ (∃ k, y.newest = some k ∧ newer p.rtp k = true) →
        (y.frames.filter (·.status == .assembling)).length ≤ 1 →
        (y.frames.length < y.slots → validPacket n p d = framePacket n { y with newest := some p.rtp }
          { rtp := p.rtp, capture := ns (nsOf e.geyser.now), slot := freeSlot y } p
          (setStream n { y with
            newest := some p.rtp
            frames := y.frames ++ [{ rtp := p.rtp, capture := ns (nsOf e.geyser.now), slot := freeSlot y }] } e)) ∧
        (y.slots ≤ y.frames.length → validPacket n p d = progressStream n (noticeFrame n 1 p.rtp (ns (nsOf e.geyser.now))
          (setStream n { y with newest := some p.rtp, ringFull := y.ringFull.add 1 } e)))))) ∧
  (∀ (n : Nat) (s : Stream) (f : Frame) (p : TapPacket) (d : Dev),
    ((f.written.any fun e => e.2 == p.seq) = true → framePacket n s f p d = modStream n (fun s => { s with dupPackets := s.dupPackets.add 1 }) d) ∧
    ((f.written.any fun e => e.2 == p.seq) = false → (p.segments.all (segmentOk s)) = false →
      framePacket n s f p d = failFrame n f.rtp f.capture .geometry d) ∧
    ((f.written.any fun e => e.2 == p.seq) = false → (p.segments.all (segmentOk s)) = true →
      ((packetGroups s p).any fun g => (kfind? f.written g.1).isSome) = true → framePacket n s f p d = failFrame n f.rtp f.capture .overlap d) ∧
    (∀ g, (f.written.any fun e => e.2 == p.seq) = false → (p.segments.all (segmentOk s)) = true →
      ((packetGroups s p).any fun g => (kfind? f.written g.1).isSome) = false → g = writeGroups s p f →
      (g.marker = true → g.written.length = groupCount s → framePacket n s f p d =
        frameStore n s { g with status := .complete, doneAt := d.geyser.now } (modStream n (fun s => { s with
          frames := s.frames.map fun x => if x.rtp == f.rtp && x.status == .assembling
            then { g with status := .complete, doneAt := d.geyser.now } else x
          complete := s.complete.add 1 }) d)) ∧
      (g.marker = false ∨ g.written.length ≠ groupCount s → framePacket n s f p d = modStream n (fun s => { s with
        frames := s.frames.map fun x => if x.rtp == f.rtp && x.status == .assembling then g else x }) d))) ∧
  (∀ (t : Time) (k : Fin 16) (rtp : W32) (s : State) (y : Stream) (f : Frame) (d : Dev), d = advance t s.dev →
    streamOf? s.dev k.val = some y → y.frames.find? (fun f => f.rtp == rtp && f.status == .complete && f.secure.isNone && f.fault.isNone) = some f →
    ∃ u, exec (.frameDigestComplete t k rtp) s = .next u ∧ u = cleared s (progressStream k.val (noticeFrame k.val 0 rtp f.capture
      (setStream k.val { y with frames := y.frames.map fun g => if g.rtp == rtp && g.status == .complete
        then { g with
          secure := if y.grades % 2 = 1 then some (secureRoot (frameTiles f)) else none
          fault := if y.grades / 2 % 2 = 1 then some (listDigest ((frameTiles f).map crc64)) else none } else g } d)))) ∧
  (∀ (k : Fin 16) (rtp : W32) (s : State) (y : Stream) (f : Frame) (d : Dev), streamOf? s.dev k.val = some y →
    y.frames.find? (fun f => f.rtp == rtp && f.status == .assembling) = some f → d = advance (f.capture + us y.limitUs) s.dev →
    ∃ u, exec (.assemblyTimeout k rtp) s = .next u ∧ u = cleared s (progressStream k.val (noticeFrame k.val 1 rtp f.capture
      (setStream k.val { y with
        timeout := y.timeout.add 1
        frames := y.frames.filter fun g => !(g.rtp == rtp && g.status == .assembling) } d)))) ∧
  (∀ (k : Fin 16) (rtp : W32) (s : State) (y : Stream) (f : Frame), streamOf? s.dev k.val = some y →
    y.frames.find? (fun f => f.rtp == rtp && f.status == .complete) = some f →
    ∃ u, exec (.slotRelease k rtp) s = .next u ∧ u = { s with dev := u.dev } ∧ u.dev = setStream k.val { y with
      frames := y.frames.filter fun g => !(g.rtp == rtp && g.status == .complete) }
        (advance (f.capture + us (holdUs s.dev k.val y)) s.dev)) ∧
  (∀ (k : Fin 16) (s : State) (y : Stream), streamOf? s.dev k.val = some y →
    (y.silenceUs = 0 ∨ y.silent = true ∨ serving s.dev = false → ∃ u, exec (.streamSilence k) s = .next u ∧ u = s) ∧
    (y.silenceUs ≠ 0 → y.silent = false → serving s.dev = true → ∃ u, exec (.streamSilence k) s = .next u ∧
      streamOf? u.dev k.val = some { y with silent := true, silences := y.silences.add 1 } ∧
      u.dev.geyser.now = max s.dev.geyser.now (y.lastValid + us y.silenceUs) ∧ u.dev.attn.serial = s.dev.attn.serial + 1 ∧
      (kfind? u.dev.attn.pending 1).isSome ∧
      u = { s with dev := { advance (y.lastValid + us y.silenceUs) s.dev with streams := u.dev.streams, attn := u.dev.attn } })) ∧
  (∀ (c : W32) (cap : Time) (s : State) (x : Context) (t : Template) (y : Stream) (f : Frame) (run : Nat), x = ctxOf s.dev c →
    templateOf? s.dev x.planId x.planVersion x.template = some t → streamOf? s.dev (streamNo x 0) = some y →
    y.frames.find? (fun f => f.capture == cap && f.status == .complete) = some f → c ∉ f.judged → run = (if (x.claims.any fun q => decide (q < cap)) then 1 else x.unclaimedRun + 1) →
    (c ∈ f.claimedBy ∨ serving s.dev = false ∨ x.state = .draining → ∃ u, exec (.unclaimedFrame c cap) s = .next u ∧ u = s) ∧
    (c ∉ f.claimedBy → serving s.dev = true → x.state = .active ∨ x.state = .suspended → ∃ u, exec (.unclaimedFrame c cap) s = .next u ∧ (ctxOf u.dev c).unclaimedRun = run ∧
      (streamOf? u.dev (streamNo x 0)).map (·.unclaimed) = some (y.unclaimed.add 1) ∧
      u.dev.geyser.now = max s.dev.geyser.now (cap + us t.deadlineUs) ∧
      (run = x.unclaimedLimit → u.dev.attn.serial = s.dev.attn.serial + 1) ∧ (run ≠ x.unclaimedLimit → u.dev.attn = s.dev.attn) ∧
      u = { s with dev := { advance (cap + us t.deadlineUs) s.dev with
        streams := u.dev.streams, contexts := u.dev.contexts, attn := u.dev.attn } }))

/-- R14, R138, R450 to R455, R457, R523, R527 to R529: frames and links of the Ethernet ports, the PCIe link and the SMBus. A
frame at a port without a link is lost; a link that goes down discards what an OUT port holds; one segment of the oldest message
leaves an OUT port at a time, none while the pairs are forced. While the PCIe link is down records wait; a new rate or
width asks for a re-admission.
The model's readings that this rests on: logs 28 and 38. -/
def Obligations.PortsAndLinks : Prop :=
  (∀ (t : Time) (k : Fin 4) (size drained : Nat) (ok : Bool) (s : State) (x : Port), x = portOf s.dev k.val →
    ∃ u, exec (.ethFrameReceive t k size ok drained) s = .next u ∧
      u = { s with dev := { advance t s.dev with ports := u.dev.ports } } ∧
      portOf u.dev k.val = (if x.link = false then x
        else if x.role = .out then { x with outReceived := x.outReceived.add 1 }
        else if x.role ≠ .tap ∧ x.role ≠ .fabric then { x with unsupported := x.unsupported.add 1 }
        else if 262144 < x.rxBytes - drained + size then { x with rxBytes := x.rxBytes - drained, overruns := x.overruns.add 1 }
        else if ok = false then { x with rxBytes := x.rxBytes - drained + size, headerFail := x.headerFail.add 1 }
        else { x with rxBytes := x.rxBytes - drained + size, unsupported := x.unsupported.add 1 }) ∧
      ∀ j, j ≠ k.val → portOf u.dev j = portOf s.dev j) ∧
  (∀ (t : Time) (k : Fin 4) (s : State) (x : Port) (e : Dev), x = portOf s.dev k.val →
    e = modPort k.val (fun p => { p with
      link := false, rxBytes := 0, linkLosses := p.linkLosses.add 1, out := [], outWait := [] }) (raiseAttn 1 14 [] (advance t s.dev)) →
    (x.link = false → exec (.ethLinkDown t k) s = .next { s with dev := advance t s.dev }) ∧
    (x.link = true → exec (.ethLinkDown t k) s = .next { s with dev :=
      if x.role = .out ∧ x.out.length + x.outWait.length > 0 then refuseOut k.val (x.out.length + x.outWait.length) e else e }) ∧
    (kfind? e.attn.pending 1).isSome) ∧
  (∀ (t : Time) (k : Fin 4) (s : State), ∃ u, exec (.ethLinkUp t k) s = .next u ∧
    u = { s with dev := modPort k.val (fun p => { p with link := true }) (advance t s.dev) }) ∧
  (∀ (t : Time) (k : Fin 4) (s : State) (x : Port), x = portOf s.dev k.val →
    (x.out = [] ∨ s.dev.gnt.forced = true ∨ x.link = false ∨ x.role ≠ .out → ∃ u, exec (.segmentTransmit t k) s = .next u ∧
      u = { s with dev := advance t s.dev }) ∧
    (∀ m rest, x.out = m :: rest → s.dev.gnt.forced = false → x.link = true → x.role = .out →
      ∃ u, exec (.segmentTransmit t k) s = .next u ∧ u = { s with dev := { advance t s.dev with ports := u.dev.ports } } ∧
        portOf u.dev k.val = { x with
          lastSegment := segmentFrame k.val m m.nextSeg
          out := if segCount m.payload.length ≤ m.nextSeg + 1 then rest else { m with nextSeg := m.nextSeg + 1 } :: rest } ∧
        ∀ j, j ≠ k.val → portOf u.dev j = portOf s.dev j)) ∧
  (∀ (m : OutMsg) (i : Nat), ((segmentBytes m i).take 4 = [0x46, 0x57, 0x52, 0x54]) ∧
    (segmentBytes m i).length = 64 + min 8192 (m.payload.length - 8192 * i)) ∧
  (∀ (t : Time) (s : State), ∃ u, exec (.pcieLinkDown t) s = .next u ∧
    u = { s with dev := { advance t s.dev with board := { s.dev.board with linkUp := false } } }) ∧
  (∀ (t : Time) (s : State), ∃ u, exec (.pcieLinkUp t) s = .next u ∧ u.dev.board = { s.dev.board with linkUp := true } ∧
    u.dev = drainAllRecords { advance t s.dev with board := { s.dev.board with linkUp := true } } ∧ u.mem = s.mem ∧ u.pending = s.pending) ∧
  (∀ (t : Time) (gen width : Nat) (s : State), ∃ u, exec (.pcieLinkRetrain t gen width) s = .next u ∧
    u.dev.board = { s.dev.board with gen := gen, width := width } ∧ u.mem = s.mem ∧ u.pending = s.pending ∧
    (s.dev.board.linkUp = false ∨ gen = s.dev.board.gen ∧ width = s.dev.board.width → u.dev = { advance t s.dev with board := u.dev.board }) ∧
    (s.dev.board.linkUp = true → gen ≠ s.dev.board.gen ∨ width ≠ s.dev.board.width →
      u.dev.sched.readmit = s.dev.sched.readmit.or (some (4, 0xFF)) ∧ (kfind? u.dev.attn.pending 1).isSome ∧
      (∀ p, p ∈ u.dev.sched.withdrawn ↔ p ∈ s.dev.sched.withdrawn ∨ ∃ e ∈ s.dev.contexts, e.2.partition = p))) ∧
  (∀ (t : Time) (b : Byte) (s : State), ∃ u, exec (.smbusTransaction t b) s = .next u ∧
    u = { s with dev := { advance t s.dev with board := { s.dev.board with smbusPointer := b } } })

/-! ### Geyser (15) -/

/-- R382, R389: a written increment is clamped to the two limits and CLAMPED sets when that changes it; a second after the
increment reached a limit and stayed there, class 3 is raised once. -/
def Obligations.IncrementIsClamped : Prop :=
  (∀ (t : Time) (v : BitVec 40) (s : State), ∃ u, exec (.geyIncrWrite t v) s = .next u ∧
    u = { s with dev := { s.dev with geyser := u.dev.geyser, hwSets := u.dev.hwSets, hwAt := u.dev.hwAt } } ∧
    u.dev.geyser.now = arrival t s ∧
    u.dev.geyser.limitSince = (if u.dev.geyser.incr.toNat = 0x06663C74FC ∨ u.dev.geyser.incr.toNat = 0x06669057D1
      then some (s.dev.geyser.limitSince.getD (arrival t s)) else none) ∧
    u.dev.geyser.incr.toNat = max 0x06663C74FC (min 0x06669057D1 v.toNat) ∧
    u.dev.geyser.clamped = (s.dev.geyser.clamped || decide (v.toNat < 0x06663C74FC ∨ 0x06669057D1 < v.toNat)) ∧
    u.dev.geyser.state = s.dev.geyser.state ∧ u.dev.geyser.pulses = s.dev.geyser.pulses ∧
    u.dev.geyser.ports = s.dev.geyser.ports ∧ u.dev.geyser.cfg = s.dev.geyser.cfg) ∧
  (∀ (t : Time) (s : State) (k : Time), s.dev.geyser.limitSince = some k → k + sec 1 ≤ arrival t s →
    s.dev.geyser.limitTold = false →
    ∃ u, exec (.servoLimitHold t) s = .next u ∧
      u = { s with dev := { s.dev with geyser := u.dev.geyser, attn := u.dev.attn } } ∧
      u.dev.geyser = { s.dev.geyser with now := arrival t s, limitTold := true } ∧
      u.dev.attn.serial = s.dev.attn.serial + 1 ∧ kfind? u.dev.attn.pending 3 = some (s.dev.attn.serial + 1)) ∧
  (∀ (t : Time) (s : State), s.dev.geyser.limitTold = true ∨ s.dev.geyser.limitSince = none ∨
      (∃ k, s.dev.geyser.limitSince = some k ∧ arrival t s < k + sec 1) →
    ∃ u, exec (.servoLimitHold t) s = .next u ∧ u = { s with dev := { s.dev with geyser := u.dev.geyser } } ∧
      u.dev.geyser = { s.dev.geyser with now := arrival t s })

/-- R383, R385, R386: a write of GEY_STEP. While the clock is not UNLOCKED it only sets STEP_REFUSED. In UNLOCKED it moves time at the next
tick, stops the pulse outputs and raises class 3, and PPS_OUT goes on. It moves the start of every interval in progress by the same
amount, so that its elapsed part stays as it is: unit watchdogs, the device watchdog, check-in windows, Caldera's counting windows, bucket
refill. (That time before 0 reads 0 is the model's choice, log 1.) -/
def Obligations.StepOnlyInUnlocked : Prop :=
  (∀ (t : Time) (n : BitVec 48) (f : W16) (s : State), s.dev.geyser.state ≠ .unlocked →
    ∃ u, exec (.geyStepWrite t n f) s = .next u ∧
      u = { s with dev := { s.dev with
        hwSets := u.dev.hwSets
        hwAt := u.dev.hwAt
        geyser := { s.dev.geyser with now := arrival t s, stepNs := n, stepFrac := f, stepRefused := true } } }) ∧
  (∀ (t : Time) (n : BitVec 48) (f : W16) (s : State), s.dev.geyser.state = .unlocked →
    ∃ u, exec (.geyStepWrite t n f) s = .next u ∧
      (u.dev.geyser.now : Int) = max 0 ((arrival t s : Int) + s.dev.geyser.incr.toNat + n.toInt * 4294967296 + f.toNat * 65536) ∧
      u.dev.geyser.stepped = true ∧ u.dev.geyser.state = .unlocked ∧ u.dev.geyser.incr = s.dev.geyser.incr ∧
      u.dev.geyser.ppsOut = s.dev.geyser.ppsOut ∧
      (∀ o, o < 8 → (pulseOf s.dev o).mode ≠ 0 →
        (pulseOf u.dev o).mode = 0 ∧ (pulseOf u.dev o).run = false ∧ (pulseOf u.dev o).level = false) ∧
      u.dev.attn.serial = s.dev.attn.serial + 1 ∧ (kfind? u.dev.attn.pending 3).isSome ∧
      u.mem = s.mem ∧ u.pending = s.pending ∧ u.dev.sched = { s.dev.sched with
        hbm := u.dev.sched.hbm, mesh := u.dev.sched.mesh, requests := u.dev.sched.requests } ∧
      u.dev.cores = { s.dev.cores with core := u.dev.cores.core, dma := u.dev.cores.dma } ∧
      (∀ k x, kfind? s.dev.contexts k = some x → ∃ y, kfind? u.dev.contexts k = some y ∧
        y = { x with rateAt := y.rateAt, results := y.results }) ∧
      u.dev.ports = s.dev.ports ∧ u.dev.queues = s.dev.queues ∧ u.dev.plans = s.dev.plans ∧
      u.dev.front = s.dev.front ∧ u.dev.pace = s.dev.pace) ∧
  (∀ (t : Time) (n : BitVec 48) (f : W16) (s u : State) (step : Int), s.dev.geyser.state = .unlocked →
    exec (.geyStepWrite t n f) s = .next u →
    step = u.dev.geyser.now - ((arrival t s : Int) + s.dev.geyser.incr.toNat) →
    (∀ k w, kfind? s.dev.watch.uwd k = some w → 0 ≤ w.last + step →
      ∃ w', kfind? u.dev.watch.uwd k = some w' ∧ (w'.last : Int) = w.last + step) ∧
    (0 ≤ s.dev.watch.dwd.last + step → (u.dev.watch.dwd.last : Int) = s.dev.watch.dwd.last + step) ∧
    (∀ k m, kfind? s.dev.watch.monitors k = some m → 0 ≤ m.start + step →
      ∃ m', kfind? u.dev.watch.monitors k = some m' ∧ (m'.start : Int) = m.start + step) ∧
    (∀ k x, kfind? s.dev.cal.src k = some x → 0 ≤ x.opens + step →
      ∃ x', kfind? u.dev.cal.src k = some x' ∧ (x'.opens : Int) = x.opens + step) ∧
    (∀ k b, kfind? s.dev.sched.hbm k = some b → 0 ≤ b.at_ + step →
      ∃ b', kfind? u.dev.sched.hbm k = some b' ∧ (b'.at_ : Int) = b.at_ + step))

/-- R394: the transmit time-stamp queue of a port. -/
def Obligations.TransmitStampQueue : Prop :=
  (∀ (t : Time) (port : Fin 4) (ty : BitVec 4) (q : W16) (s : State), queuedType s.dev port.val ty.toNat = true →
    (portOf s.dev port.val).txq.length < 16 →
    ∃ u, exec (.txTimestamp t port ty q) s = .next u ∧
      u = { s with dev := { s.dev with geyser := { s.dev.geyser with now := arrival t s }, ports := u.dev.ports } } ∧
      portOf u.dev port.val = { portOf s.dev port.val with
        txq := (portOf s.dev port.val).txq ++ [{ messageType := ty.toNat, ident := q, stamp := arrival t s }] } ∧
      ∀ k, k ≠ port.val → portOf u.dev k = portOf s.dev k) ∧
  (∀ (t : Time) (port : Fin 4) (ty : BitVec 4) (q : W16) (s : State), queuedType s.dev port.val ty.toNat = true →
    16 ≤ (portOf s.dev port.val).txq.length →
    ∃ u, exec (.txTimestamp t port ty q) s = .next u ∧
      u = { s with dev := { s.dev with
        geyser := { s.dev.geyser with now := arrival t s }, ports := u.dev.ports, attn := u.dev.attn
        hwSets := u.dev.hwSets, hwAt := u.dev.hwAt } } ∧
      (portOf u.dev port.val).txq = (portOf s.dev port.val).txq ∧ (portOf u.dev port.val).txqOverflow = true ∧
      (u.dev.attn.serial = if (portOf s.dev port.val).txqOverflow then s.dev.attn.serial else s.dev.attn.serial + 1)) ∧
  (∀ (t : Time) (port : Fin 4) (e : TxStamp) (r : List TxStamp) (s : State), (portOf s.dev port.val).txq = e :: r →
    ∃ u, exec (.txqEntryRead t port) s = .next u ∧
      u = { s with dev := { s.dev with
        ports := u.dev.ports
        geyser := { s.dev.geyser with now := arrival t s, ports := u.dev.geyser.ports } } } ∧
      portOf u.dev port.val = { portOf s.dev port.val with txq := r })

/-- R396, R398: a pulse output rises at its occurrence and falls at the occurrence plus its width; a one-shot ends with its
fall; PPS_OUT rises at a whole second and falls after its width. -/
def Obligations.PulseOutputs : Prop :=
  (∀ (o : Fin 8) (s : State), (pulseOf s.dev o.val).run = true →
    ∃ u, exec (.pulseOccurrence o) s = .next u ∧
      u = { s with dev := { s.dev with geyser := { s.dev.geyser with now := u.dev.geyser.now, pulses := u.dev.geyser.pulses } } } ∧
      u.dev.geyser.now = max s.dev.geyser.now
        ((pulseOf s.dev o.val).start + (pulseOf s.dev o.val).n * (pulseOf s.dev o.val).period) ∧
      pulseOf u.dev o.val = { pulseOf s.dev o.val with
        level := true, n := (pulseOf s.dev o.val).n + 1, run := (pulseOf s.dev o.val).mode == 2 } ∧
      ∀ k, k ≠ o.val → pulseOf u.dev k = pulseOf s.dev k) ∧
  (∀ (o : Fin 8) (s : State), (pulseOf s.dev o.val).level = true → 1 ≤ (pulseOf s.dev o.val).n →
    ∃ u, exec (.pulseFall o) s = .next u ∧
      u = { s with dev := { s.dev with geyser := { s.dev.geyser with now := u.dev.geyser.now, pulses := u.dev.geyser.pulses } } } ∧
      u.dev.geyser.now = max s.dev.geyser.now ((pulseOf s.dev o.val).start +
        ((pulseOf s.dev o.val).n - 1) * (pulseOf s.dev o.val).period + (pulseOf s.dev o.val).width) ∧
      (pulseOf u.dev o.val).level = false ∧
      (pulseOf u.dev o.val).mode = (if (pulseOf s.dev o.val).mode = 1 then 0 else (pulseOf s.dev o.val).mode) ∧
      ∀ k, k ≠ o.val → pulseOf u.dev k = pulseOf s.dev k) ∧
  (∀ (s : State), s.dev.geyser.ppsOut = false →
    ∃ u, exec (.ppsOut true) s = .next u ∧
      u = { s with dev := { s.dev with geyser := { s.dev.geyser with now := u.dev.geyser.now, ppsOut := true } } } ∧
      u.dev.geyser.now % sec 1 = 0 ∧ s.dev.geyser.now ≤ u.dev.geyser.now ∧ u.dev.geyser.now < s.dev.geyser.now + sec 1) ∧
  (∀ (s : State), s.dev.geyser.ppsOut = true →
    ∃ u, exec (.ppsOut false) s = .next u ∧
      u = { s with dev := { s.dev with geyser := { s.dev.geyser with now := u.dev.geyser.now, ppsOut := false } } } ∧
      u.dev.geyser.now = max s.dev.geyser.now (s.dev.geyser.now / sec 1 * sec 1 + us s.dev.geyser.cfg.ppsWidthUs))

/-- R399: a rising edge of PPS_IN is stamped; as the reference it gives the servo its distance from the nearest whole second;
a second edge missing in a row makes a LOCKED clock FREE_RUN. -/
def Obligations.PpsInput : Prop :=
  (∀ (t : Time) (s : State), ppsReference s.dev = true → ¬ (s.dev.geyser.state ≠ .unlocked ∧ (ppsOffset (arrival t s)).natAbs > ms 100) →
    ∃ u, exec (.ppsIn t) s = .next u ∧ u.dev.geyser.ppsStamp = arrival t s ∧ u.dev.geyser.ppsMissing = 0 ∧
      u.dev.geyser.offset = (ppsOffset (arrival t s)).tdiv 4294967296 ∧ u.mem = s.mem ∧ u.pending = s.pending ∧
      u.dev.ports = s.dev.ports ∧
      (mayStep s.dev = false → u = { s with dev := { s.dev with
        geyser := u.dev.geyser, attn := u.dev.attn, free := u.dev.free, hwSets := u.dev.hwSets, hwAt := u.dev.hwAt } })) ∧
  (∀ (t : Time) (s : State), s.dev.geyser.cfg.ppsIn = 0 → exec (.ppsIn t) s = .next { s with dev := advance t s.dev }) ∧
  (∀ (t : Time) (s : State), s.dev.geyser.cfg.ppsIn = 1 →
    ∃ u, exec (.ppsIn t) s = .next u ∧
      u = { s with dev := { s.dev with geyser := { s.dev.geyser with now := arrival t s, ppsStamp := arrival t s } } }) ∧
  (∀ (t : Time) (s : State), ppsReference s.dev = true → s.dev.geyser.state = .locked → 1 ≤ s.dev.geyser.ppsMissing →
    ∃ u, exec (.ppsInMissing t) s = .next u ∧ u.dev.geyser.state = .freeRun ∧
      u.dev.geyser.ppsMissing = s.dev.geyser.ppsMissing + 1 ∧
      u = { s with dev := { s.dev with
        geyser := u.dev.geyser, attn := u.dev.attn, hwSets := u.dev.hwSets, hwAt := u.dev.hwAt } }) ∧
  (∀ (t : Time) (s : State), ppsReference s.dev = true → s.dev.geyser.ppsMissing = 0 →
    ∃ u, exec (.ppsInMissing t) s = .next u ∧
      u = { s with dev := { s.dev with geyser := { s.dev.geyser with now := arrival t s, ppsMissing := 1 } } })

/-- R387, R388, R390, R393: PTP messages heard and sent on a port. A one-step Sync of the master that the port follows gives an
offset measurement, a two-step Sync with its Follow_Up; a MASTER port answers a Delay_Req with its receipt stamp, and a two-step
peer-delay port a Pdelay_Req; a Delay_Resp and a Pdelay_Resp give the mean path delay, the latter with its Follow_Up when it is
two-step; management messages are counted; a port without a PTP role counts what it hears as its role says; a message sent takes the next sequenceId, and only a one-step Sync carries its stamp. A
port keeps the first foreign master it hears, and forgets it at the announce receipt timeout, which makes a LOCKED clock that
followed it FREE_RUN. The formulas of offset and delay are those of IEEE 1588, which the rules name and do not repeat (log 32). -/
def Obligations.PtpMessages : Prop :=
  (∀ (t : Time) (port : Fin 4) (m : PtpMessage) (s : State), ptpHears s.dev port.val m = true →
    fromMaster s.dev port.val m = true → m.twoStep = false →
    ∃ u, exec (.ptpSync t port m) s = .next u ∧
      u.dev.geyser.offset = ((arrival t s : Int) - (m.stamp + m.correction * 65536 + asymOf s.dev port.val) -
        (ptpOf s.dev port.val).meanDelay).tdiv 4294967296 ∧
      u.mem = s.mem ∧ u.pending = s.pending ∧ u.dev.ports = s.dev.ports ∧
      (mayStep s.dev = false → u = { s with dev := { s.dev with
        geyser := u.dev.geyser, attn := u.dev.attn, free := u.dev.free, hwSets := u.dev.hwSets, hwAt := u.dev.hwAt } })) ∧
  (∀ (t : Time) (port : Fin 4) (m : PtpMessage) (s : State) (t2 : Time) (c : Int), ptpHears s.dev port.val m = true →
    fromMaster s.dev port.val m = true → (ptpOf s.dev port.val).syncRx = some (m.sequenceId, t2, c) →
    ∃ u, exec (.ptpFollowUp t port m) s = .next u ∧
      u.dev.geyser.offset = ((t2 : Int) - (m.stamp + (c + m.correction * 65536) + asymOf s.dev port.val) -
        (ptpOf s.dev port.val).meanDelay).tdiv 4294967296 ∧
      u.mem = s.mem ∧ u.pending = s.pending ∧ u.dev.ports = s.dev.ports ∧
      (mayStep s.dev = false → u = { s with dev := { s.dev with
        geyser := u.dev.geyser, attn := u.dev.attn, free := u.dev.free, hwSets := u.dev.hwSets, hwAt := u.dev.hwAt } })) ∧
  (∀ (t : Time) (port : Fin 4) (m : PtpMessage) (s : State), ptpHears s.dev port.val m = true →
    mechOf s.dev port.val = 1 → (ptpOf s.dev port.val).state = .master →
    ∃ u, exec (.ptpDelayReq t port m) s = .next u ∧
      u = { s with dev := { s.dev with geyser := { s.dev.geyser with now := arrival t s, ports := u.dev.geyser.ports } } } ∧
      ptpOf u.dev port.val = { ptpOf s.dev port.val with
        sent := some (9, m.sequenceId, arrival t s, m.correction * 65536) }) ∧
  (∀ (t : Time) (port : Fin 4) (m : PtpMessage) (s : State) (t1 t2 t3 : Time), ptpHears s.dev port.val m = true →
    fromMaster s.dev port.val m = true → mechOf s.dev port.val = 1 →
    (ptpOf s.dev port.val).delayTx = some (m.sequenceId, t3) → (ptpOf s.dev port.val).syncPair = some (t1, t2) →
    ∃ u, exec (.ptpDelayResp t port m) s = .next u ∧
      u = { s with dev := { s.dev with geyser := { s.dev.geyser with now := arrival t s, ports := u.dev.geyser.ports } } } ∧
      ptpOf u.dev port.val = { ptpOf s.dev port.val with
        meanDelay := (((t2 : Int) - t1) + ((m.stamp : Int) - m.correction * 65536 - t3)) / 2, delayTx := none }) ∧
  (∀ (t : Time) (port : Fin 4) (m : PtpMessage) (s : State), ptpHears s.dev port.val m = true →
    mechOf s.dev port.val = 2 →
    ∃ u, exec (.ptpPdelayReq t port m) s = .next u ∧
      u = { s with dev := { s.dev with
        free := u.dev.free, geyser := { s.dev.geyser with now := arrival t s, ports := u.dev.geyser.ports } } } ∧
      (twoStepOf s.dev port.val = true → ptpOf u.dev port.val = { ptpOf s.dev port.val with
        sent := some (3, m.sequenceId, arrival t s, m.correction * 65536) }) ∧
      (twoStepOf s.dev port.val = false → ∃ turnaround : W64, ptpOf u.dev port.val = { ptpOf s.dev port.val with
        sent := some (3, m.sequenceId, 0, m.correction * 65536 + turnaround.toNat) })) ∧
  (∀ (t : Time) (port : Fin 4) (m : PtpMessage) (s : State) (t1 : Time), ptpHears s.dev port.val m = true →
    mechOf s.dev port.val = 2 → (ptpOf s.dev port.val).pdelayTx = some (m.sequenceId, t1) → m.twoStep = false →
    ∃ u, exec (.ptpPdelayResp t port m) s = .next u ∧
      u = { s with dev := { s.dev with geyser := { s.dev.geyser with now := arrival t s, ports := u.dev.geyser.ports } } } ∧
      ptpOf u.dev port.val = { ptpOf s.dev port.val with
        meanDelay := ((arrival t s : Int) - t1 - (m.correction * 65536 + asymOf s.dev port.val)) / 2, pdelayTx := none }) ∧
  (∀ (t : Time) (port : Fin 4) (m : PtpMessage) (s : State) (t1 : Time), ptpHears s.dev port.val m = true →
    mechOf s.dev port.val = 2 → (ptpOf s.dev port.val).pdelayTx = some (m.sequenceId, t1) → m.twoStep = true →
    exec (.ptpPdelayResp t port m) s = .next { s with dev := modPtp port.val (fun p => { p with
      pdelayResp := some (m.sequenceId, arrival t s, m.stamp, m.correction * 65536 + asymOf s.dev port.val) }) (advance t s.dev) }) ∧
  (∀ (t : Time) (port : Fin 4) (m : PtpMessage) (s : State), ptpHears s.dev port.val m = true → fromMaster s.dev port.val m = true →
    m.twoStep = true → exec (.ptpSync t port m) s = .next { s with dev := modPtp port.val (fun p => { p with
      syncRx := some (m.sequenceId, arrival t s, m.correction * 65536) }) (advance t s.dev) }) ∧
  (∀ (t : Time) (port : Fin 4) (m : PtpMessage) (a : AnnounceData) (s u : State), (portOf s.dev port.val).link = true →
    ((portOf s.dev port.val).role = .none_ ∧
        u = { s with dev := modPort port.val (fun p => { p with unsupported := p.unsupported.add 1 }) (advance t s.dev) } ∨
      (portOf s.dev port.val).role = .out ∧
        u = { s with dev := modPort port.val (fun p => { p with outReceived := p.outReceived.add 1 }) (advance t s.dev) }) →
    exec (.ptpSync t port m) s = .next u ∧ exec (.ptpFollowUp t port m) s = .next u ∧ exec (.ptpDelayReq t port m) s = .next u ∧
    exec (.ptpDelayResp t port m) s = .next u ∧ exec (.ptpPdelayReq t port m) s = .next u ∧
    exec (.ptpPdelayResp t port m) s = .next u ∧ exec (.ptpPdelayRespFollowUp t port m) s = .next u ∧
    exec (.ptpAnnounce t port m a) s = .next u ∧ exec (.ptpManagement t port) s = .next u) ∧
  (∀ (t : Time) (port : Fin 4) (m : PtpMessage) (s : State) (t1 t2 t4 : Time) (c : Int), ptpHears s.dev port.val m = true →
    mechOf s.dev port.val = 2 → (ptpOf s.dev port.val).pdelayTx = some (m.sequenceId, t1) →
    (ptpOf s.dev port.val).pdelayResp = some (m.sequenceId, t4, t2, c) →
    ∃ u, exec (.ptpPdelayRespFollowUp t port m) s = .next u ∧
      u = { s with dev := { s.dev with geyser := { s.dev.geyser with now := arrival t s, ports := u.dev.geyser.ports } } } ∧
      ptpOf u.dev port.val = { ptpOf s.dev port.val with
        meanDelay := (((t4 : Int) - t1) - ((m.stamp : Int) - t2) - c - m.correction * 65536) / 2
        pdelayTx := none, pdelayResp := none }) ∧
  (∀ (t : Time) (port : Fin 4) (s : State), (portOf s.dev port.val).link = true →
    (portOf s.dev port.val).role ∈ [PortRole.tap, .fabric] → (portOf s.dev port.val).management.n < 4294967295 →
    ∃ u, exec (.ptpManagement t port) s = .next u ∧
      u = { s with dev := { s.dev with geyser := { s.dev.geyser with now := arrival t s }, ports := u.dev.ports } } ∧
      (portOf u.dev port.val).management.n = (portOf s.dev port.val).management.n + 1) ∧
  (∀ (t : Time) (port : Fin 4) (ty : BitVec 4) (s : State), maySend s.dev port.val ty.toNat = true →
    ∃ u, exec (.ptpMessageSend t port ty) s = .next u ∧
      u = { s with dev := { s.dev with geyser := { s.dev.geyser with now := arrival t s, ports := u.dev.geyser.ports } } } ∧
      (ptpOf u.dev port.val).seqId = (ptpOf s.dev port.val).seqId + 1 ∧
      (ptpOf u.dev port.val).sent = some (ty.toNat, (ptpOf s.dev port.val).seqId + 1,
        if ty.toNat = 0 ∧ twoStepOf s.dev port.val = false then arrival t s else 0, 0)) ∧
  (∀ (t : Time) (port : Fin 4) (m : PtpMessage) (a : AnnounceData) (s : State), ptpHears s.dev port.val m = true →
    s.dev.geyser.cfg.external = false → (ptpOf s.dev port.val).foreign = none →
    ∃ u, exec (.ptpAnnounce t port m a) s = .next u ∧ (ptpOf u.dev port.val).foreign = some a ∧
      (ptpOf u.dev port.val).announceAt = arrival t s ∧
      u = { s with dev := { s.dev with
        geyser := u.dev.geyser, attn := u.dev.attn, hwSets := u.dev.hwSets, hwAt := u.dev.hwAt } }) ∧
  (∀ (port : Fin 4) (s : State), ptpUp s.dev port.val = true → s.dev.geyser.cfg.external = false →
    s.dev.geyser.master = port.val → s.dev.geyser.state = .locked →
    ∃ u, exec (.announceReceiptTimeout port) s = .next u ∧ (ptpOf u.dev port.val).foreign = none ∧
      u.dev.geyser.state = .freeRun ∧
      u = { s with dev := { s.dev with
        geyser := u.dev.geyser, attn := u.dev.attn, hwSets := u.dev.hwSets, hwAt := u.dev.hwAt } })

/-! ### Caldera (16) -/

/-- R406: one event on a source that is not under test and whose rails agree is counted in the window that opens at the first event it
counts; a class-1 source is severe at every event, a class-0 source at the N-th within W; COUNT reads zero once the window has passed.
R407, R410: at a severe instant SEVERE sets and the mask acts: ERR_N, the safe reactions, attention class 1. Other sources keep
their registers; beside the event the device changes by its reactions and by launching kernels only. Pending events arrive one by one, at
most 15, and more set OVERRUN (R402); a lasting condition is remembered (R403); source 747 also stops its DRBG (R373) and sources
660 to 679 leave the two copies of a stop's tags in disagreement (R246). While the rails of a wire disagree its events wait at
their origin, up to 15 of them (R401, R402).
The model's readings that this rests on: logs 36 and 49. -/
def Obligations.EventIsCounted : Prop :=
  (∀ (t : Time) (n : Fin 768) (ch : Fin 288) (s : State) (x : Source) (e : Time) (opens severe : Bool) (c : Nat),
    n.val ≠ 747 → n.val < 660 ∨ 679 < n.val → x = srcOf s.dev n.val → x.force = false → x.mute = false → e = arrival t s →
    opens = decide (x.count = 0 ∨ x.opens + us x.w ≤ e) → c = min ((if opens then 0 else x.count) + 1) 255 →
    severe = decide (x.cls = 1 ∨ x.n ≤ c) →
    ∃ u y, exec (.sourceEvent t n ch false 1) s = .next u ∧ y = srcOf u.dev n.val ∧
      y = { x with
        sticky := true
        severe := x.severe || severe
        count := if x.cls ≠ 1 ∧ x.n ≤ c then 0 else c
        opens := if opens then e else x.opens
        asserted := none
        lastEvent := none } ∧
      (∀ k, k ≠ n.val → srcOf u.dev k = srcOf s.dev k) ∧
      (severe = false → onlyLaunches { advance t s.dev with
        cal := { s.dev.cal with src := u.dev.cal.src }, hwSets := u.dev.hwSets, hwAt := e } u.dev) ∧
      (severe = true → x.mask % 2 = 1 → u.dev.cal.errN = true ∧ u.dev.cal.assertedAt = e) ∧
      (severe = true → x.mask % 2 = 0 → u.dev.cal.errN = s.dev.cal.errN) ∧
      (severe = true → x.mask / 2 % 2 = 1 → x.mask / 8 % 2 = 0 → u.dev.cal.safeOut = true) ∧
      (severe = true → x.mask / 8 % 2 = 1 → u.dev.cal.chipSafe = true) ∧
      (severe = true → x.mask / 2 % 2 = 1 ∨ x.mask / 8 % 2 = 1 → u.dev.gnt.forced = true ∧
        (s.dev.start.wireTest = false → u.dev.front.state = .safeState ∨ u.dev.front.state = .chipFailed)) ∧
      (severe = true → x.mask / 16 % 2 = 1 → x.mask / 8 % 2 = 0 → procUp 1 s.dev = true →
        (kfind? u.dev.attn.pending 1).isSome) ∧
      (∃ d, onlyReactions { advance t s.dev with
          cal := { s.dev.cal with src := u.dev.cal.src }, hwSets := u.dev.hwSets, hwAt := e } d ∧ onlyLaunches d u.dev) ∧
      onlyZeroed s.mem u.mem ∧ u.pending = s.pending) ∧
  (∀ (t : Time) (n : Fin 768) (ch : Fin 288) (lasting : Bool) (k : Nat) (s : State) (d : Dev),
    d = (if n.val = 747 then modBonnet (fun b => { b with drbgStopped := true }) (advance t s.dev)
      else if 660 ≤ n.val ∧ n.val ≤ 679 then modStop (n.val - 660) (fun m => { m with tagsDisagree := true }) (advance t s.dev)
      else advance t s.dev) →
    ∃ u, exec (.sourceEvent t n ch lasting k) s = .next u ∧
      onlyLaunches (signalMany n.val ch.val (max 1 k) (modSrc n.val (fun x => { x with
        asserted := if lasting then some (arrival t s) else none
        lastEvent := if lasting then some (arrival t s) else none }) d)) u.dev ∧
      onlyZeroed s.mem u.mem ∧ u.pending = s.pending) ∧
  (∀ (t : Time) (n : Fin 768) (ch : Fin 288) (s : State) (x : Source), n.val ≠ 747 → n.val < 660 ∨ 679 < n.val →
    x = srcOf s.dev n.val → x.mute = true →
    ∃ u, exec (.sourceEvent t n ch false 1) s = .next u ∧
      srcOf u.dev n.val = { x with
        asserted := none
        lastEvent := none
        waiting := if x.waiting.length < 15 then x.waiting ++ [ch.val] else x.waiting
        overrun := x.overrun || decide (15 ≤ x.waiting.length) } ∧
      (∀ k, k ≠ n.val → srcOf u.dev k = srcOf s.dev k) ∧
      onlyLaunches { advance t s.dev with
        cal := { s.dev.cal with src := u.dev.cal.src }, hwSets := u.dev.hwSets, hwAt := u.dev.hwAt } u.dev ∧
      onlyZeroed s.mem u.mem ∧ u.pending = s.pending) ∧
  (∀ (n ch k : Nat) (d : Dev), 15 < k → signalMany n ch k d =
    signalMany n ch 15 (hwSet (srcReg n) (2 ^ 25) (modSrc n (fun x => { x with overrun := true }) d))) ∧
  (∀ (t : Time) (x : Source), x.opens + us x.w ≤ t → (readCount t x).count = 0)

/-- R404: a write to CAL_RAISE is one event on the source it names when that is 752, 753 or 754; any other write is ignored. -/
def Obligations.RaiseNamesThreeSources : Prop :=
  ∀ (t : Time) (v : W32) (s : State), ∃ u, exec (.calRaise t v) s = .next u ∧
    onlyLaunches (if v.toNat % 1024 = 752 ∨ v.toNat % 1024 = 753 ∨ v.toNat % 1024 = 754
      then signal (v.toNat % 1024) (advance t s.dev) else advance t s.dev) u.dev ∧
    onlyZeroed s.mem u.mem ∧ u.pending = s.pending

/-- R401, R403, R143, R400: a rail disagreement is severe at its first event, whatever the source's class, with the reactions
its number gives, and nothing is delivered on the wire until it ends; then what the origin kept is delivered, one event each (R402).
A lasting condition signals one more event 10 µs after its last; a VCORE comparator and REFCLK_FAULT signal one event on their
source.
The model's readings that this rests on: logs 30 and 49. -/
def Obligations.SignalledEvents : Prop :=
  (∀ (t : Time) (n : Fin 768) (s : State), ∃ u, exec (.railDisagreement t ⟨n, false⟩) s = .next u ∧
    onlyLaunches (applyMask (if n.val < 512 then 0b10101 else 0b11001) n.val 0 (hwSet (srcReg n.val) (2 ^ 30)
      (modSrc n.val (fun x => { x with wire := true, mute := true }) (advance t s.dev)))) u.dev ∧
    srcOf u.dev n.val = { srcOf s.dev n.val with wire := true, mute := true } ∧
    (∀ k, k ≠ n.val → srcOf u.dev k = srcOf s.dev k) ∧
    u.dev.cal.errN = true ∧ (512 ≤ n.val → u.dev.cal.chipSafe = true ∧ u.dev.gnt.forced = true) ∧
    (n.val < 512 → u.dev.cal.chipSafe = s.dev.cal.chipSafe ∧
      (procUp 1 s.dev = true → (kfind? u.dev.attn.pending 1).isSome)) ∧
    onlyZeroed s.mem u.mem ∧ u.pending = s.pending) ∧
  (∀ (t : Time) (n : Fin 768) (s : State), ∃ u, exec (.railDisagreement t ⟨n, true⟩) s = .next u ∧
    onlyLaunches ((srcOf s.dev n.val).waiting.foldl (fun d ch => signalCh n.val ch d)
      (modSrc n.val (fun x => { x with mute := false, waiting := [] }) (advance t s.dev))) u.dev ∧
    (srcOf u.dev n.val).mute = false ∧ (srcOf u.dev n.val).waiting = [] ∧
    (∀ k, k ≠ n.val → srcOf u.dev k = srcOf s.dev k) ∧
    onlyZeroed s.mem u.mem ∧ u.pending = s.pending) ∧
  (∀ (n : Fin 768) (s : State) (a e : Time), (srcOf s.dev n.val).asserted = some a → (srcOf s.dev n.val).lastEvent = some e →
    ∃ u, exec (.lastingConditionRepeat n) s = .next u ∧
      onlyLaunches (signal n.val (modSrc n.val (fun x => { x with lastEvent := some (e + us 10) })
        (advance (e + us 10) s.dev))) u.dev ∧
      u.dev.geyser.now = max s.dev.geyser.now (e + us 10) ∧ (srcOf u.dev n.val).lastEvent = some (e + us 10) ∧
      onlyZeroed s.mem u.mem ∧ u.pending = s.pending) ∧
  (∀ (t : Time) (c : Fin 16) (high : Bool) (s : State), ∃ u, exec (.vcoreComparator t c high) s = .next u ∧
    onlyLaunches (signal (512 + 4 * c.val + (if high then 3 else 2)) (advance t s.dev)) u.dev ∧
    onlyZeroed s.mem u.mem ∧ u.pending = s.pending) ∧
  (∀ (t : Time) (s : State), ∃ u, exec (.refclkFault t) s = .next u ∧
    onlyLaunches (signal 745 (advance t s.dev)) u.dev ∧ onlyZeroed s.mem u.mem ∧ u.pending = s.pending)

/-- R414, R415: FORCE of one source at a time; the forced event sets the test bits, leaves COUNT, the window and the
latches, and holds back every reaction; a real event during the test is held, up to 15 of them, with its channel; at the clear, by a
write or 50 µs after FORCE was set, the held events are applied, and the event of a wire that is asserted then.
The model's readings that this rests on: log 30. -/
def Obligations.ForceTest : Prop :=
  (∀ (t : Time) (n : Fin 768) (s : State), (s.dev.cal.src.any fun e => e.2.force) = true →
    exec (.calForceSet t n) s = .next { s with dev := advance t s.dev }) ∧
  (∀ (t : Time) (n : Fin 768) (s : State), (s.dev.cal.src.any fun e => e.2.force) = false →
    ∃ u, exec (.calForceSet t n) s = .next u ∧
      u = { s with dev := { advance t s.dev with cal := { s.dev.cal with src := u.dev.cal.src } } } ∧
      srcOf u.dev n.val = { srcOf s.dev n.val with
        force := true, rawSeen := false, testSticky := true, testSevere := true, replayed := false
        heldMask := (srcOf s.dev n.val).mask, held := [], forcedAt := arrival t s } ∧
      ∀ k, k ≠ n.val → srcOf u.dev k = srcOf s.dev k) ∧
  (∀ (t : Time) (n : Fin 768) (ch : Fin 288) (s : State), n.val ≠ 747 → n.val < 660 ∨ 679 < n.val →
    (srcOf s.dev n.val).force = true → (srcOf s.dev n.val).mute = false →
    ∃ u, exec (.sourceEvent t n ch false 1) s = .next u ∧
      onlyLaunches { advance t s.dev with cal := { s.dev.cal with src := u.dev.cal.src } } u.dev ∧
      srcOf u.dev n.val = { srcOf s.dev n.val with
        rawSeen := true, held := ((srcOf s.dev n.val).held ++ [ch.val]).take 15, asserted := none, lastEvent := none } ∧
      (∀ k, k ≠ n.val → srcOf u.dev k = srcOf s.dev k) ∧ onlyZeroed s.mem u.mem ∧ u.pending = s.pending) ∧
  (∀ (t : Time) (n : Fin 768) (s : State), (srcOf s.dev n.val).force = false →
    ∃ u, exec (.calForceClear t n) s = .next u ∧ onlyLaunches (advance t s.dev) u.dev ∧
      onlyZeroed s.mem u.mem ∧ u.pending = s.pending) ∧
  (∀ (t : Time) (n : Fin 768) (s : State) (x : Source) (l : List Nat), x = srcOf s.dev n.val → x.force = true →
    l = (if x.held = [] ∧ x.asserted ≠ none then [0] else x.held) →
    ∃ u, exec (.calForceClear t n) s = .next u ∧
      onlyLaunches (l.foldl (fun d ch => signalCh n.val ch d)
        (setSrc n.val { x with force := false, held := [], replayed := decide (l ≠ []) } (advance t s.dev))) u.dev ∧
      (srcOf u.dev n.val).force = false ∧ (srcOf u.dev n.val).held = [] ∧
      (srcOf u.dev n.val).replayed = decide (l ≠ []) ∧
      (l = [] → srcOf u.dev n.val = { x with force := false, replayed := false }) ∧
      (l ≠ [] → x.mute = false → (srcOf u.dev n.val).sticky = true) ∧
      (∀ k, k ≠ n.val → srcOf u.dev k = srcOf s.dev k) ∧ onlyZeroed s.mem u.mem ∧ u.pending = s.pending) ∧
  (∀ (s : State) (n : Nat) (x : Source) (l : List Nat), (s.dev.cal.src.find? fun e => e.2.force) = some (n, x) →
    srcOf s.dev n = x → l = (if x.held = [] ∧ x.asserted ≠ none then [0] else x.held) →
    ∃ u, exec .forceExpiry s = .next u ∧ u.dev.geyser.now = max s.dev.geyser.now (x.forcedAt + us 50) ∧
      onlyLaunches (l.foldl (fun d ch => signalCh n ch d)
        (setSrc n { x with force := false, held := [], replayed := decide (l ≠ []) }
          (advance (x.forcedAt + us 50) s.dev))) u.dev ∧
      (srcOf u.dev n).force = false ∧ (∀ k, k ≠ n → srcOf u.dev k = srcOf s.dev k) ∧
      onlyZeroed s.mem u.mem ∧ u.pending = s.pending)

/-- R413, R417: ERR_N deasserts only when 25 µs have passed since it last asserted, RELEASE has been written since, HOLD is 0
and no sticky bit is set for a source whose mask holds ERR_N; a RELEASE within the 25 µs stays pending until their end. Processor 1
writes RELEASE (R134): stopped or held, it writes none. A copy
disagreement in the collector sets SELF_FAULT, asserts ERR_N and causes chip safe state; SELF_TEST only sets SELF_DETECTED.
The model's readings that this rests on: log 36. -/
def Obligations.ErrNRelease : Prop :=
  (∀ (t : Time) (s : State), procUp 1 s.dev = false → exec (.calRelease t) s = .next { s with dev := advance t s.dev }) ∧
  (∀ (t : Time) (s : State), procUp 1 s.dev = true → ∃ u, exec (.calRelease t) s = .next u ∧
    u = { s with dev := { advance t s.dev with cal := { s.dev.cal with
      released := true, errN := u.dev.cal.errN, releasePending := u.dev.cal.releasePending } } } ∧
    (u.dev.cal.errN = true ↔ s.dev.cal.errN = true ∧
      ¬ (s.dev.cal.assertedAt + us 25 ≤ arrival t s ∧ s.dev.cal.hold = false ∧
         (s.dev.cal.src.any fun e => e.2.sticky && e.2.mask % 2 == 1) = false)) ∧
    (u.dev.cal.releasePending = true ↔ s.dev.cal.errN = true ∧ arrival t s < s.dev.cal.assertedAt + us 25)) ∧
  (∀ (s : State), s.dev.cal.errN = false → exec .errNMinimumEnd s = .next s) ∧
  (∀ (s : State), s.dev.cal.errN = true →
    ∃ u, exec .errNMinimumEnd s = .next u ∧
      u = { s with dev := { advance (s.dev.cal.assertedAt + us 25) s.dev with cal := { s.dev.cal with
        errN := u.dev.cal.errN, releasePending := false } } } ∧
      (u.dev.cal.errN = true ↔ ¬ (s.dev.cal.released = true ∧ s.dev.cal.hold = false ∧
         (s.dev.cal.src.any fun e => e.2.sticky && e.2.mask % 2 == 1) = false))) ∧
  (∀ (t : Time) (s : State), ∃ u, exec (.calSelfTest t true) s = .next u ∧ u.dev.cal.selfFault = true ∧
    u.dev.cal.errN = true ∧ u.dev.cal.assertedAt = arrival t s ∧ u.dev.cal.chipSafe = true ∧ u.dev.gnt.forced = true ∧
    (∀ k, srcOf u.dev k = srcOf s.dev k) ∧
    (∃ d, onlyReactions { advance t s.dev with cal := { s.dev.cal with selfFault := true } } d ∧ onlyLaunches d u.dev) ∧
    onlyZeroed s.mem u.mem ∧ u.pending = s.pending) ∧
  (∀ (t : Time) (s : State), ∃ u, exec (.calSelfTest t false) s = .next u ∧
    onlyLaunches { advance t s.dev with cal := { s.dev.cal with selfDetected := true } } u.dev ∧
    onlyZeroed s.mem u.mem ∧ u.pending = s.pending)

/-! ### Pace (06) -/

/-- R146, R147, R535: at the end of every gauge window with min(COUNT_A, COUNT_B) < 10 · F the cluster signals one event on PACE_LOW,
whose threshold 1 and severe class are fixed; with counts that differ by more than 3 % of the larger, one on PACE_GAUGE, severe
by default; with both, both. GAUGE_CTRL.TEST_ARM makes one window of its cluster compare against 0xFFFF (Table 6.6). A window that ends
off a multiple of 10 µs, or began before the Steward's release, is not compared.
The model's reading that this rests on: log 47 (windows before the release after a cold start). -/
def Obligations.GaugeWindowSignals : Prop :=
  (∀ (t : Time) (c : Fin 16) (a b : W16) (s : State) (low : Nat) (armed below differ : Bool), arrival t s % us 10 = 0 →
    s.dev.start.released = true → s.dev.start.releasedAt + us 10 ≤ arrival t s →
    armed = (s.dev.pace.testArmed && s.dev.pace.testCluster == c.val) →
    low = min a.toNat b.toNat → below = decide (low < if armed then 0xFFFF else 10 * s.dev.pace.f) →
    differ = decide (3 * max a.toNat b.toNat < 100 * (max a.toNat b.toNat - low)) →
    ∃ u d, exec (.gaugeWindowEnd t c a b) s = .next u ∧
      d = hwSet (.gaugeStatus (Fin.ofNat 16 c.val)) (bit 30 below + bit 29 differ) { advance t s.dev with
        pace := { s.dev.pace with gauges := d.pace.gauges, testArmed := s.dev.pace.testArmed && !armed } } ∧
      gaugeOf d c.val = { gaugeOf s.dev c.val with
        countA := a, countB := b, valid := true, below := (gaugeOf s.dev c.val).below || below
        disagree := (gaugeOf s.dev c.val).disagree || differ
        min := BitVec.ofNat 16 (min low (gaugeOf s.dev c.val).min.toNat) } ∧
      (∀ k, k ≠ c.val → gaugeOf d k = gaugeOf s.dev k) ∧
      onlyLaunches (if differ then signal (512 + 4 * c.val + 1) (if below then signal (512 + 4 * c.val) d else d)
        else if below then signal (512 + 4 * c.val) d else d) u.dev ∧
      onlyZeroed s.mem u.mem ∧ u.pending = s.pending) ∧
  (∀ (t : Time) (c : Fin 16) (a b : W16) (s : State), arrival t s % us 10 ≠ 0 ∨ s.dev.start.released = false ∨
      arrival t s < s.dev.start.releasedAt + us 10 →
    exec (.gaugeWindowEnd t c a b) s = .next (cleared s (advance t s.dev))) ∧
  (∀ c : Fin 16, (srcDefault (512 + 4 * c.val)).cls = 1 ∧ (srcDefault (512 + 4 * c.val)).n = 1 ∧
    (srcDefault (512 + 4 * c.val)).fixed = true ∧ (srcDefault (512 + 4 * c.val + 1)).cls = 1)

/-- R149, R150, R151 and GAUGE_CTRL (Table 6.6): TRACK moves the target by 5 mV against the lowest MIN, within 720 to 900 mV,
and re-arms MIN; lost margin at 900 mV raises attention class 1 once until a MIN above the guard; FIXED writes its setpoint; three
AVSBus failures in a row stop the writes. The Steward makes each adjustment at a 1 ms boundary: stopped, or before its release, it
makes none.
The model's reading that this rests on: log 49 (the instant of FIXED's write). -/
def Obligations.PaceControl : Prop :=
  (∀ (t : Time) (s : State), ∃ u, exec (.minRearm t) s = .next u ∧
    u = { s with dev := { advance t s.dev with pace := { s.dev.pace with gauges := u.dev.pace.gauges } } } ∧
    ∀ k, gaugeOf u.dev k = { gaugeOf s.dev k with min := 0xFFFF }) ∧
  (∀ (t : Time) (c : Fin 16) (s : State), ∃ u, exec (.testArm t c) s = .next u ∧
    u = { s with dev := { advance t s.dev with pace := { s.dev.pace with testArmed := true, testCluster := c.val } } }) ∧
  (∀ (s : State) (m : Nat) (next : Time) (g : Nat) (lost : Bool), s.dev.pace.track = true → s.dev.start.released = true →
    stewardUp s.dev = true →
    (∀ c, c < 16 → m ≤ (gaugeOf s.dev c).min.toNat) → (∃ c, c < 16 ∧ (gaugeOf s.dev c).min.toNat = m) →
    next = (if s.dev.geyser.now % ms 1 = 0 ∧ s.dev.pace.trackAt ≠ some s.dev.geyser.now then s.dev.geyser.now
      else (s.dev.geyser.now / ms 1 + 1) * ms 1) → g = 10 * s.dev.pace.f * (100 + s.dev.pace.guardPct) →
    lost = decide (100 * m < g ∧ 900 ≤ s.dev.pace.target) →
    ∃ u, exec .trackAdjust s = .next u ∧
      u = { s with dev := { s.dev with geyser := { s.dev.geyser with now := next }, attn := u.dev.attn, pace := { s.dev.pace with
        trackAt := some next, target := u.dev.pace.target, gauges := u.dev.pace.gauges
        marginTold := lost || (s.dev.pace.marginTold && decide (100 * m ≤ g)) } } } ∧
      u.dev.pace.target = (if s.dev.pace.stopped then s.dev.pace.target else if 100 * m < g then min 900 (s.dev.pace.target + 5)
         else if 104 * g < 10000 * m then max 720 (s.dev.pace.target - 5) else s.dev.pace.target) ∧
      (∀ k, gaugeOf u.dev k = { gaugeOf s.dev k with min := 0xFFFF }) ∧
      (u.dev.attn.serial = if lost = true ∧ s.dev.pace.marginTold = false then s.dev.attn.serial + 1 else s.dev.attn.serial)) ∧
  (∀ (s : State) (next : Time), s.dev.pace.track = false ∨ s.dev.start.released = false ∨ stewardUp s.dev = false →
    next = (if s.dev.geyser.now % ms 1 = 0 ∧ s.dev.pace.trackAt ≠ some s.dev.geyser.now then s.dev.geyser.now
      else (s.dev.geyser.now / ms 1 + 1) * ms 1) →
    exec .trackAdjust s = .next { s with dev := { s.dev with
      geyser := { s.dev.geyser with now := next }
      pace := { s.dev.pace with
        trackAt := some next
        target := if s.dev.start.released = true ∧ stewardUp s.dev = true ∧ s.dev.pace.stopped = false then s.dev.pace.setpoint
          else s.dev.pace.target } } }) ∧
  (∀ (t : Time) (e : Bool) (r : Nat) (st : W16) (f : Bool) (s : State) (bad : Bool), s.dev.pace.stopped = false →
    s.dev.start.released = true →
    bad = (e || f || decide (s.dev.pace.target + 10 < r) || decide (r + 10 < s.dev.pace.target)) →
    ∃ u, exec (.avsbusTransactionEnd t e r st f) s = .next u ∧
      u = { s with dev := { advance t s.dev with attn := u.dev.attn, pace := { s.dev.pace with
        readback := if e then s.dev.pace.readback else r
        status := if e then s.dev.pace.status else st
        failures := if bad then s.dev.pace.failures + 1 else 0
        stopped := bad && decide (2 ≤ s.dev.pace.failures) } } } ∧
      (u.dev.attn.serial = if bad = true ∧ 2 ≤ s.dev.pace.failures then s.dev.attn.serial + 1 else s.dev.attn.serial))

/-! ### Gauntlet (18) -/

/-- R444, R449, Tables 18.1 and 18.6: ARM works only after a passed FORCE_TEST that nothing has forced since; FORCE_TEST is
ignored while armed, and one that fails at a start reports CHIP_FAILED; no pin of a SAFE pair is driven while FORCED, and an
active pair is driven to (1, 0).
The model's readings that this rests on: logs 28 and 38. -/
def Obligations.SafePairsArm : Prop :=
  (∀ (t : Time) (pins : Byte) (s : State), s.dev.gnt.armed = true →
    ∃ u, exec (.forceTest t pins) s = .next u ∧ u = { s with dev := advance t s.dev }) ∧
  (∀ (t : Time) (pins : Byte) (s : State), s.dev.gnt.armed = false → pins = 0 ∨ s.dev.start.resumed = true →
    ∃ u, exec (.forceTest t pins) s = .next u ∧
      u = { s with dev := { advance t s.dev with gnt := { s.dev.gnt with testPassed := pins == 0, readDiff := pins } } }) ∧
  (∀ (t : Time) (pins : Byte) (s : State), s.dev.gnt.armed = false → pins ≠ 0 → s.dev.start.resumed = false →
    ∃ u, exec (.forceTest t pins) s = .next u ∧ u.dev.front.state = .chipFailed ∧ u.mem = s.mem ∧ u.pending = s.pending ∧
      onlyReactions { advance t s.dev with gnt := { s.dev.gnt with testPassed := false, readDiff := pins } } u.dev) ∧
  (∀ (t : Time) (s : State), ∃ u, exec (.gntArm t) s = .next u ∧
    u = { s with dev := { advance t s.dev with gnt :=
      if s.dev.gnt.testPassed = true ∧ s.dev.gnt.forced = false ∧ s.dev.front.state ≠ .chipFailed ∧
          s.dev.watch.dwd.failover = false
      then { s.dev.gnt with armed := true, testPassed := false, readDiff := 0 } else s.dev.gnt } }) ∧
  (∀ (t : Time) (w : Bool) (s : State), w = true ∨ s.dev.start.resumed = true →
    ∃ u, exec (.cvuInject t w) s = .next u ∧
      u = { s with dev := { advance t s.dev with gnt := { s.dev.gnt with cvuDetected := w } } }) ∧
  (∀ d : Dev, d.gnt.forced = true ∨ d.gnt.armed = false → pinsLow d) ∧
  (∀ (d : Dev) (i : Fin 4), d.gnt.armed = true → d.gnt.forced = false → (portOf d i.val).role = .out → d.gnt.pulses = [] →
    (gntDrive d).getLsbD (2 * i.val) = true ∧ (gntDrive d).getLsbD (2 * i.val + 1) = false)

/-- R445, R446: a test pulse begins in its pin's own slot of each 20 ms and inverts the pin for 100 µs; a readback unlike the
drive sets READBACK_ERR of its pair and signals SAFE_READBACK, source 760.
The model's readings that this rests on: log 38. -/
def Obligations.SafePinReadback : Prop :=
  (∀ (t : Time) (p : Fin 4) (pin : SafePin) (s : State), pairActive s.dev p.val = true →
    arrival t s % ms 20 = pulseOffset p.val pin →
    ∃ u, exec (.safeTestPulse t p pin true) s = .next u ∧
      onlyLaunches { advance t s.dev with gnt := { s.dev.gnt with pulses := u.dev.gnt.pulses } } u.dev ∧
      kfind? u.dev.gnt.pulses (pinBit p.val pin) = some (arrival t s) ∧
      pulsing u.dev (pinBit p.val pin) = true ∧
      (∀ k, k ≠ pinBit p.val pin → kfind? u.dev.gnt.pulses k = kfind? s.dev.gnt.pulses k) ∧
      onlyZeroed s.mem u.mem ∧ u.pending = s.pending) ∧
  (∀ (t : Time) (p : Fin 4) (pin : SafePin) (level : Bool) (s : State) (b : Nat),
    b = pinBit p.val pin → (gntDrive (advance t s.dev)).getLsbD b = level →
    ∃ u, exec (.safeReadbackCheck t p pin level) s = .next u ∧
      onlyLaunches { advance t s.dev with gnt := { s.dev.gnt with
        readDiff := s.dev.gnt.readDiff &&& ~~~BitVec.twoPow 8 b } } u.dev ∧
      onlyZeroed s.mem u.mem ∧ u.pending = s.pending) ∧
  (∀ (t : Time) (p : Fin 4) (pin : SafePin) (level : Bool) (s : State) (b : Nat),
    b = pinBit p.val pin → (gntDrive (advance t s.dev)).getLsbD b ≠ level →
    ∃ u, exec (.safeReadbackCheck t p pin level) s = .next u ∧
      onlyLaunches (signal 760 { hwSet .gntStatus (2 ^ p.val) (advance t s.dev) with gnt := { s.dev.gnt with
        readbackErr := s.dev.gnt.readbackErr ||| BitVec.twoPow 4 p.val
        readDiff := s.dev.gnt.readDiff ||| BitVec.twoPow 8 b } }) u.dev ∧
      onlyZeroed s.mem u.mem ∧ u.pending = s.pending) ∧
  (∀ p : Fin 4, pinBit p.val .a = 2 * p.val ∧ pinBit p.val .b = 2 * p.val + 1 ∧ pulseOffset p.val .a = us (2500 * p.val) ∧
    pulseOffset p.val .b = us (2500 * p.val) + ms 10)

/-! ### Watchdogs and monitors (17) -/

/-- R420 to R424, R428: a unit watchdog's first configuration enables and locks it, and one out of range sets CFG_ERR; a service in
[s + O, s + P) is valid and becomes s; one before s + O is an expiry, as is the end of the period; the spare's expiries in its test
set only its bits. A processor services its own instance and processor 1 the spare: stopped or held, none. A sequencer services its
core's at a 1 ms boundary when the scheduler has answered the probe.
The model's readings that this rests on: log 37. -/
def Obligations.UnitWatchdogWindow : Prop :=
  (∀ (t : Time) (n : Fin 67) (v : W64) (s : State), ∃ u, exec (.uwdCfgWrite t n v) s = .next u ∧
    u = { s with dev := { advance t s.dev with
      watch := { s.dev.watch with uwd := u.dev.watch.uwd }, hwSets := u.dev.hwSets, hwAt := u.dev.hwAt } } ∧
    (∀ k, k ≠ n.val → uwdOf u.dev k = uwdOf s.dev k) ∧
    ((uwdOf s.dev n.val).enabled = true → uwdOf u.dev n.val = uwdOf s.dev n.val) ∧
    ((uwdOf s.dev n.val).enabled = false → 5 ≤ v.toNat / 2 ^ 48 % 32768 → v.toNat / 2 ^ 48 % 32768 ≤ 10000 →
      100 ≤ v.toNat / 2 ^ 24 % 16777216 → v.toNat / 2 ^ 24 % 16777216 ≤ 10000000 → 1 ≤ v.toNat % 16777216 →
      v.toNat % 16777216 + 10 ≤ v.toNat / 2 ^ 24 % 16777216 →
      uwdOf u.dev n.val = { uwdOf s.dev n.val with
        enabled := true, state := .running, graceUs := v.toNat / 2 ^ 48 % 32768, periodUs := v.toNat / 2 ^ 24 % 16777216
        openUs := v.toNat % 16777216, last := arrival t s, test := n.val == 66, testDone := false }) ∧
    ((uwdOf s.dev n.val).enabled = false → ¬ (5 ≤ v.toNat / 2 ^ 48 % 32768 ∧ v.toNat / 2 ^ 48 % 32768 ≤ 10000 ∧
      100 ≤ v.toNat / 2 ^ 24 % 16777216 ∧ v.toNat / 2 ^ 24 % 16777216 ≤ 10000000 ∧ 1 ≤ v.toNat % 16777216 ∧
      v.toNat % 16777216 + 10 ≤ v.toNat / 2 ^ 24 % 16777216) →
      uwdOf u.dev n.val = { uwdOf s.dev n.val with cfgErr := true })) ∧
  (∀ (t : Time) (i : Fin 3) (s : State) (w : UnitWd), w = uwdOf s.dev (64 + i.val) → w.state = .running ∨ w.state = .grace →
    procUp (if i.val = 0 then 0 else 1) s.dev = true →
    w.last + us w.openUs ≤ arrival t s → arrival t s < w.last + us w.periodUs →
    exec (.uwdService t i) s = .next (cleared s (modUwd (64 + i.val) (fun w => { w with last := arrival t s })
      (advance t s.dev)))) ∧
  (∀ (t : Time) (i : Fin 3) (s : State), procUp (if i.val = 0 then 0 else 1) s.dev = false ∨
      ((uwdOf s.dev (64 + i.val)).state ≠ .running ∧ (uwdOf s.dev (64 + i.val)).state ≠ .grace) →
    exec (.uwdService t i) s = .next (cleared s (advance t s.dev))) ∧
  (∀ (t : Time) (i : Fin 3) (s : State) (w : UnitWd), w = uwdOf s.dev (64 + i.val) → w.state = .running ∨ w.state = .grace →
    procUp (if i.val = 0 then 0 else 1) s.dev = true →
    arrival t s < w.last + us w.openUs → arrival t s < w.last + us w.periodUs → ¬ (i.val = 2 ∧ w.test = true) →
    ∃ u, exec (.uwdService t i) s = .next u ∧
      onlyLaunches (signal (if i.val < 2 then 738 + i.val else 741) (hwSet (.uwdStatus (Fin.ofNat 67 (64 + i.val))) (2 ^ 28)
        (modUwd (64 + i.val) (fun w => { w with
          last := arrival t s, expiries := min (w.expiries + 1) 65535, early := true
          state := if i.val = 2 then w.state else .grace, graceFrom := arrival t s }) (advance t s.dev)))) u.dev ∧
      onlyZeroed s.mem u.mem ∧ u.pending = s.pending) ∧
  (∀ (n : Fin 67) (s : State) (w : UnitWd) (x : Time), w = uwdOf s.dev n.val → w.state = .running ∨ w.state = .grace →
    x = w.last + us w.periodUs → ¬ (n.val = 66 ∧ w.test = true) →
    ∃ u, exec (.uwdExpiry n) s = .next u ∧
      onlyLaunches (signal (if n.val < 64 then 8 * n.val + 3 else if n.val < 66 then 738 + (n.val - 64) else 741)
        (hwSet (.uwdStatus (Fin.ofNat 67 n.val)) (2 ^ 29) (modUwd n.val (fun w => { w with
          last := x, expiries := min (w.expiries + 1) 65535, expired := true
          state := if n.val = 66 then w.state else .grace, graceFrom := x }) (advance x s.dev)))) u.dev ∧
      onlyZeroed s.mem u.mem ∧ u.pending = s.pending) ∧
  (∀ (s : State) (w : UnitWd), w = uwdOf s.dev 66 → w.state = .running → w.test = true →
    ∃ u, exec (.uwdExpiry 66) s = .next u ∧ uwdOf u.dev 66 = { w with
        last := w.last + us w.periodUs, expiries := min (w.expiries + 1) 65535, expired := true
        graceFrom := w.last + us w.periodUs } ∧ (∀ k, k ≠ 66 → uwdOf u.dev k = uwdOf s.dev k) ∧
      onlyLaunches { advance (w.last + us w.periodUs) s.dev with
        watch := { s.dev.watch with uwd := u.dev.watch.uwd }, hwSets := u.dev.hwSets, hwAt := u.dev.hwAt } u.dev ∧
      onlyZeroed s.mem u.mem ∧ u.pending = s.pending) ∧
  (∀ (t : Time) (c : Fin 64) (s : State) (w : UnitWd), w = uwdOf s.dev c.val → w.state = .running ∨ w.state = .grace →
    arrival t s % ms 1 = 0 → w.last + us w.openUs ≤ arrival t s → arrival t s < w.last + us w.periodUs →
    exec (.sequencerService t c true) s = .next (cleared s (modUwd c.val (fun w => { w with last := arrival t s })
      (advance t s.dev)))) ∧
  (∀ (t : Time) (c : Fin 64) (answered : Bool) (s : State) (w : UnitWd), w = uwdOf s.dev c.val →
    answered = false ∨ arrival t s % ms 1 ≠ 0 ∨ (w.state ≠ .running ∧ w.state ≠ .grace) ∨
      arrival t s < w.last + us w.openUs →
    exec (.sequencerService t c answered) s = .next (cleared s (advance t s.dev))) ∧
  (∀ (t : Time) (s : State), (uwdOf s.dev 66).test = true →
    ∃ u, exec (.uwdTestDone t) s = .next u ∧
      u = { s with dev := { advance t s.dev with watch := { s.dev.watch with uwd := u.dev.watch.uwd } } } ∧
      uwdOf u.dev 66 = { uwdOf s.dev 66 with test := false, testDone := true } ∧ ∀ k, k ≠ 66 → uwdOf u.dev k = uwdOf s.dev k)

/-- R425, R427, R210: a Steward processor that acknowledges returns its watchdog to RUNNING with a crash record; one that has not by
the end of the grace time is reset alone, HARD sets and its watchdog stays HELD; a core so reset is fenced. A core's
acknowledgement is its trap with kind WATCHDOG, 0x0C, taken when VALID is 0, with the lane field 63 that Table
8.8 gives a condition of a whole bundle.
The model's readings that this rests on: log 37. -/
def Obligations.WatchdogGrace : Prop :=
  (∀ (t : Time) (i : Fin 2) (s : State), (uwdOf s.dev (64 + i.val)).state = .grace →
    ∃ u, exec (.unitAcknowledge t ⟨64 + i.val, by omega⟩) s = .next u ∧
      uwdOf u.dev (64 + i.val) = { uwdOf s.dev (64 + i.val) with state := .running, graceFrom := 0 } ∧
      u.dev.watch.crash = s.dev.watch.crash ++ [i.val] ∧
      onlyLaunches { advance t s.dev with watch := { s.dev.watch with
        uwd := u.dev.watch.uwd, crash := s.dev.watch.crash ++ [i.val] } } u.dev ∧
      onlyZeroed s.mem u.mem ∧ u.pending = s.pending) ∧
  (∀ (t : Time) (c : Fin 64) (s : State), (uwdOf s.dev c.val).state = .grace → runOn? s.dev c.val = none →
    ∃ u, exec (.unitAcknowledge t ⟨c.val, by omega⟩) s = .next u ∧ (uwdOf u.dev c.val).state = .running ∧
      ((coreOf s.dev c.val).trapStatus &&& 0x80000000 = 0 →
        (coreOf u.dev c.val).trapStatus &&& 0x3F000000 = 0x0C000000 ∧ (coreOf u.dev c.val).trapStatus.getLsbD 31 = true) ∧
      onlyLaunches (modCore c.val (fun k => { k with
        trapStatus := captureWord k.trapStatus 0x0C03F000
        trapAddr := if k.trapStatus &&& 0x80000000 = 0 then 0 else k.trapAddr })
        (noteCapture (.trapStatus (Fin.ofNat 64 c.val)) (coreOf s.dev c.val).trapStatus 0x0C03F000 0
          (modUwd c.val (fun w => { w with state := .running }) (advance t s.dev)))) u.dev ∧
      onlyZeroed s.mem u.mem ∧ u.pending = s.pending) ∧
  (∀ (i : Fin 2) (s : State) (w : UnitWd), w = uwdOf s.dev (64 + i.val) → w.state = .grace →
    ∃ u, exec (.graceExpiry ⟨64 + i.val, by omega⟩) s = .next u ∧
      uwdOf u.dev (64 + i.val) = { w with state := .held, hard := true } ∧ (procOf u.dev i.val).held = true ∧
      u.dev.geyser.now = max s.dev.geyser.now (w.graceFrom + us w.graceUs) ∧
      onlyLaunches { advance (w.graceFrom + us w.graceUs) s.dev with
        watch := { s.dev.watch with uwd := u.dev.watch.uwd }
        hwSets := u.dev.hwSets
        hwAt := u.dev.hwAt
        cores := { s.dev.cores with proc := u.dev.cores.proc } } u.dev ∧
      onlyZeroed s.mem u.mem ∧ u.pending = s.pending) ∧
  (∀ (c : Fin 64) (s : State) (w : UnitWd), w = uwdOf s.dev c.val → w.state = .grace → s.dev.start.wireTest = false →
    ∃ u, exec (.graceExpiry ⟨c.val, by omega⟩) s = .next u ∧
      onlyLaunches (fenceCore c.val (hwSet (.uwdStatus (Fin.ofNat 67 c.val)) (2 ^ 27)
        (modUwd c.val (fun w => { w with state := .held, hard := true })
          (advance (w.graceFrom + us w.graceUs) s.dev)))) u.dev ∧
      onlyZeroed s.mem u.mem ∧ u.pending = s.pending)

/-- R431, R432, R433: a service of the device watchdog is wrong, late, early or valid; each but the last is its one expiry,
which drives FAILOVER_N and PWR_CUT_N low, forces the SAFE pairs and signals source 740; the next value is the complement.
PWR_CUT_N returns high 20 ms after the expiry. Processor 1 services it (R134): stopped or held, it sends none.
The model's readings that this rests on: log 37. -/
def Obligations.DeviceWatchdog : Prop :=
  (∀ (t : Time) (v : W32) (s : State) (w : DeviceWd), w = s.dev.watch.dwd → procUp 1 s.dev = true → v = w.next →
    w.state = .running ∧ arrival t s < w.last + us w.periodUs ∧ w.last + us w.openUs ≤ arrival t s ∨
      w.state = .restart ∧ arrival t s < w.last + ms 500 →
    exec (.dwdService t v) s = .next (cleared s { advance t s.dev with
      watch := { s.dev.watch with dwd := { w with state := .running, last := arrival t s, next := ~~~v } } })) ∧
  (∀ (t : Time) (v : W32) (s : State) (w : DeviceWd) (late early bad : Bool) (end_ : Time), w = s.dev.watch.dwd →
    procUp 1 s.dev = true → w.state = .running ∨ w.state = .restart →
    end_ = w.last + (if w.state = .restart then ms 500 else us w.periodUs) → late = decide (end_ ≤ arrival t s) →
    bad = (!late && decide (v ≠ w.next)) →
    early = (!late && !bad && decide (w.state = .running ∧ arrival t s < w.last + us w.openUs)) →
    late = true ∨ bad = true ∨ early = true →
    ∃ u d, exec (.dwdService t v) s = .next u ∧
      d = { advance t s.dev with
        watch := { s.dev.watch with dwd := { w with
          state := .expired, late := late, early := early, badValue := bad, failover := true, pwrCut := true
          expiredAt := if late then end_ else arrival t s } }
        board := { s.dev.board with failoverN := false, pwrCutN := false } } ∧
      u = cleared s (signal 740 (forceSafe d)) ∧ u.dev.gnt.forced = true ∧ u.dev.watch.dwd = d.watch.dwd ∧
      u.dev.board = d.board ∧
      (srcOf u.dev 740).sticky = ((!(srcOf s.dev 740).force && !(srcOf s.dev 740).mute) || (srcOf s.dev 740).sticky)) ∧
  (∀ (s : State) (w : DeviceWd) (x : Time), w = s.dev.watch.dwd → w.state = .running ∨ w.state = .restart →
    x = w.last + (if w.state = .restart then ms 500 else us w.periodUs) →
    ∃ u d, exec .dwdExpiry s = .next u ∧
      d = { advance x s.dev with
        watch := { s.dev.watch with dwd := { w with
          state := .expired, late := true, early := false, badValue := false, failover := true, pwrCut := true, expiredAt := x } }
        board := { s.dev.board with failoverN := false, pwrCutN := false } } ∧
      u = cleared s (signal 740 (forceSafe d)) ∧ u.dev.gnt.forced = true ∧ u.dev.watch.dwd = d.watch.dwd ∧
      u.dev.board = d.board ∧ u.dev.geyser.now = max s.dev.geyser.now x) ∧
  (∀ (t : Time) (v : W32) (s : State),
    s.dev.watch.dwd.state = .expired ∨ s.dev.watch.dwd.state = .off ∨ procUp 1 s.dev = false →
    exec (.dwdService t v) s = .next (cleared s (advance t s.dev))) ∧
  (∀ (s : State), s.dev.watch.dwd.pwrCut = true →
    exec .pwrCutRelease s = .next { s with dev := { advance (s.dev.watch.dwd.expiredAt + ms 20) s.dev with
      watch := { s.dev.watch with dwd := { s.dev.watch.dwd with pwrCut := false } }
      board := { s.dev.board with pwrCutN := true } } })

/-- R435, R436: at the close of a monitor's window a count below the minimum signals CHECKIN_TOO_FEW and is entered in the
attention log; the next window begins; a suspended monitor closes none. R501 to R503: a MEMORY slice completes its sweep; a SOURCE
slice tests the next 8 sources, which leaves their test bits, and one of the 96 of its sweep is done; an ENGINE or PAIR slice that its
core has no room for is deferred and counted; a slice that fails off the cores reports CHIP_FAILED as Table 20.4 gives; an interval
that ends with its sweep incomplete signals SELFTEST_STARVED.
The model's readings that this rests on: logs 36, 37 and 49. -/
def Obligations.MonitorsAndSweeps : Prop :=
  (∀ (m : Fin 4096) (s : State) (x : Monitor), kfind? s.dev.watch.monitors m.val = some x → x.suspended = false →
    x.minimum ≤ x.count →
    ∃ u, exec (.monitorWindowClose m) s = .next u ∧
      u = { s with dev := { advance (x.start + (x.index + 1) * us x.windowUs) s.dev with
        watch := { s.dev.watch with monitors := u.dev.watch.monitors } } } ∧
      kfind? u.dev.watch.monitors m.val = some { x with index := x.index + 1, count := 0 } ∧
      ∀ k, k ≠ m.val → kfind? u.dev.watch.monitors k = kfind? s.dev.watch.monitors k) ∧
  (∀ (m : Fin 4096) (s : State), (∀ x, kfind? s.dev.watch.monitors m.val = some x → x.suspended = true) →
    exec (.monitorWindowClose m) s = .next s) ∧
  (∀ (m : Fin 4096) (s : State) (x : Monitor) (e : Time), kfind? s.dev.watch.monitors m.val = some x → x.suspended = false →
    x.count < x.minimum → e = x.start + (x.index + 1) * us x.windowUs →
    ∃ u d, exec (.monitorWindowClose m) s = .next u ∧ d = signal 742 (advance e s.dev) ∧ u.mem = s.mem ∧
      u.dev = { d with attn := u.dev.attn, watch := { d.watch with monitors := u.dev.watch.monitors } } ∧
      u.dev.attn.serial = d.attn.serial + 1 ∧
      kfind? u.dev.watch.monitors m.val = some { x with index := x.index + 1, count := 0 } ∧
      ∀ k, k ≠ m.val → kfind? u.dev.watch.monitors k = kfind? s.dev.watch.monitors k) ∧
  (∀ (t : Time) (unit : Nat) (s : State) (key : Nat), key = 320 + unit % 21 →
    ∃ u, exec (.selftestSlice t 2 unit true) s = .next u ∧ u.dev.start.sweepDone = kset 0 s.dev.start.sweepDone key 0 ∧
      kfind? u.dev.start.sweepStart key = some (arrival t s) ∧
      onlyLaunches { advance t s.dev with start := { s.dev.start with
        sweepDone := u.dev.start.sweepDone, sweepStart := u.dev.start.sweepStart } } u.dev ∧
      onlyZeroed s.mem u.mem ∧ u.pending = s.pending) ∧
  (∀ (t : Time) (unit : Nat) (s : State) (done : Nat), done = kget 0 s.dev.start.sweepDone 341 → done + 1 < 96 →
    (s.dev.cal.src.any fun e => e.2.force) = false → (∀ i, i < 8 → (srcOf s.dev (8 * done + i)).asserted = none) →
    ∃ u, exec (.selftestSlice t 3 unit true) s = .next u ∧
      onlyLaunches { advance t s.dev with
        cal := { s.dev.cal with src := u.dev.cal.src }
        start := { s.dev.start with sweepDone := kset 0 s.dev.start.sweepDone 341 (done + 1) } } u.dev ∧
      (∀ k, 8 * done ≤ k ∧ k < 8 * done + 8 → srcOf u.dev k = { srcOf s.dev k with
        force := false, rawSeen := false, testSticky := true, testSevere := true, replayed := false
        heldMask := (srcOf s.dev k).mask, held := [], forcedAt := arrival t s }) ∧
      (∀ k, ¬ (8 * done ≤ k ∧ k < 8 * done + 8) → srcOf u.dev k = srcOf s.dev k) ∧
      onlyZeroed s.mem u.mem ∧ u.pending = s.pending) ∧
  (∀ (t : Time) (slice unit : Nat) (s : State), 2 ≤ slice → ∃ u, exec (.selftestSlice t slice unit false) s = .next u ∧
    u.dev.front.state = .chipFailed ∧ u.pending = s.pending) ∧
  (∀ (t : Time) (slice : Fin 2) (unit core key : Nat) (passed : Bool) (s : State),
    core = (if slice.val = 0 then unit % 256 / 4 else unit % 64) → key = (if slice.val = 0 then unit % 256 else 256 + unit % 64) →
    sliceFits core (if slice.val = 0 then 200 else 60) (advance t s.dev) = false →
    exec (.selftestSlice t slice.val unit passed) s = .next (cleared s { advance t s.dev with sched := { s.dev.sched with
      deferred := kput s.dev.sched.deferred key (kget 0 s.dev.sched.deferred key + 1) } })) ∧
  (∀ (key : Nat) (s : State) (e : Time),
    e = kget s.dev.start.serviceAt s.dev.start.sweepStart key + ms (if key < 256 then 10000 else if key = 341 then 60000 else 1000) →
    ∃ u d, exec (.sweepIntervalExpiry key) s = .next u ∧
      d = { advance e s.dev with start := { s.dev.start with
        sweepDone := kset 0 s.dev.start.sweepDone key 0, sweepStart := kput s.dev.start.sweepStart key e } } ∧
      onlyLaunches (signal 754 d) u.dev ∧ onlyZeroed s.mem u.mem ∧ u.pending = s.pending)

/-! ### The watch fabric (19) -/

/-- R14, R464 to R468, R470 to R474, R477, R478, R486: frames of the fabric, taken at ports of the role FABRIC. A second copy is discarded and counted; one of another fabric,
of an unknown source or with a bad check is discarded, counted, and raises attention once. A heartbeat brings instants and an ECHO, the deputy's also the send instants of workers;
an ECHO of the manager, of the deputy, or on the manager of any member, extends the lease to 10 ms after the heartbeat it answers. A journal record that follows without gap is held and
confirmed; a confirmation moves the confirmed sequence and releases messages. The manager's MAP frames bring members and
the map; TAKEOVER, SLICE and HANDED gather a takeover. A pair key needs a verified certificate, the named key and firmware that is new enough.
The model's readings that this rests on: log 26. -/
def Obligations.FabricFrames : Prop :=
  (∀ (t at_ : Time) (h : FabricHeader) (q : Nat) (s : State) (d : Dev) (p : Port), d = advance t s.dev → p = portOf d h.port.val →
    (p.link = false ∨ p.role = .fabric ∧ (d.fabric.id = 0 ∨ fabricUp d = false ∨ h.dest ≠ d.fabric.device ∧ h.dest ≠ 0xFF) →
      exec (.echo t h q at_) s = .next { s with dev := d }) ∧
    (p.link = true → p.role = .out → exec (.echo t h q at_) s =
      .next { s with dev := modPort h.port.val (fun p => { p with outReceived := p.outReceived.add 1 }) d }) ∧
    (p.link = true → p.role ≠ .out → p.role ≠ .fabric → exec (.echo t h q at_) s =
      .next { s with dev := modPort h.port.val (fun p => { p with unsupported := p.unsupported.add 1 }) d })) ∧
  (∀ (t at_ : Time) (h : FabricHeader) (q : Nat) (m : Member) (s : State) (d : Dev), d = advance t s.dev → frameForUs h d →
    (h.fabric = d.fabric.id → h.checkOk = true → kfind? d.fabric.members h.source = some m → m.pairKey.isSome = true →
      h.frameSeq ∈ m.seen → ∃ u, exec (.echo t h q at_) s = .next u ∧
      u = { s with dev := modPort (h.port.val) (fun p => { p with fabricDup := p.fabricDup.add 1 }) d }) ∧
    (h.fabric ≠ d.fabric.id ∨ kfind? d.fabric.members h.source = none ∨
        kfind? d.fabric.members h.source = some m ∧ (m.pairKey = none ∨ h.checkOk = false) →
      ∃ u, exec (.echo t h q at_) s = .next u ∧
        (portOf u.dev (h.port.val)).fabricCheck = ((portOf d (h.port.val)).fabricCheck.add 1).tell ∧
        u.dev.fabric = d.fabric ∧ u.dev.accepted = d.accepted ∧ u.mem = s.mem ∧ u.pending = s.pending ∧
        ((portOf d (h.port.val)).fabricCheck.told = false → (kfind? u.dev.attn.pending 5).isSome))) ∧
  (∀ (t mi : Time) (h : FabricHeader) (m : Member) (role : Nat) (iso fail : Bool) (fwd : List (Nat × Time)) (s : State) (d : Dev),
    d = advance t s.dev → frameComes h m d →
    (iso = false → fail = false → d.fabric.role ≠ 1 ∨ deputyOf d.fabric ≠ some h.source ∨ fwd = [] →
      ∃ u m', exec (.heartbeat t h role mi ⟨iso, fail⟩ fwd) s = .next u ∧
      u = { s with dev := { d with fabric := u.dev.fabric } } ∧ kfind? u.dev.fabric.members h.source = some m' ∧
      m' = { m with seen := m.seen ++ [h.frameSeq], lastSend := max m.lastSend h.sendTime } ∧
      (∀ n, n ≠ h.source → kfind? u.dev.fabric.members n = kfind? d.fabric.members n) ∧
      u.dev.fabric.managerInstant =
        max (if h.source = d.fabric.manager then max d.fabric.managerInstant h.sendTime else d.fabric.managerInstant) mi ∧
      (d.fabric.role = 1 ∨ d.fabric.role = 2 ∨ d.fabric.role = 3 ∧ h.source = d.fabric.manager →
        u.dev.fabric.frameSeq = d.fabric.frameSeq + 1 ∧ u.dev.fabric.outFrames.getLast? = some (2, h.source,
          frameImage d.geyser.now d.fabric (d.fabric.frameSeq + 1) 2 h.source (leBytes 8 h.frameSeq ++ timeBytes h.sendTime))) ∧
      (d.fabric.role = 3 → h.source ≠ d.fabric.manager → u.dev.fabric.outFrames = d.fabric.outFrames) ∧
      u.dev.fabric.lease = d.fabric.lease ∧ u.dev.fabric.journal = d.fabric.journal ∧ u.dev.fabric.map = d.fabric.map) ∧
    (∀ n i k, iso = false → fail = false → d.fabric.role = 1 → deputyOf d.fabric = some h.source → n ≠ h.source →
      fwd = [(n, i)] → kfind? d.fabric.members n = some k →
      ∃ u, exec (.heartbeat t h role mi ⟨iso, fail⟩ fwd) s = .next u ∧
        u = { s with dev := { d with fabric := u.dev.fabric } } ∧
        kfind? u.dev.fabric.members n = some { k with lastSend := max k.lastSend i }) ∧
    (iso = true ∨ fail = true → d.fabric.role = 1 → m.inService = true → h.source ≠ d.fabric.device →
      ∃ u m', exec (.heartbeat t h role mi ⟨iso, fail⟩ fwd) s = .next u ∧ kfind? u.dev.fabric.members h.source = some m' ∧
        m'.inService = false ∧ u.mem = s.mem ∧ u.pending = s.pending)) ∧
  (∀ (t sent : Time) (h : FabricHeader) (m : Member) (q : Nat) (s : State) (d : Dev), d = advance t s.dev → frameComes h m d →
    (d.fabric.role = 1 ∨ h.source = d.fabric.manager ∨ deputyOf d.fabric = some h.source → (q, sent) ∈ d.fabric.sent →
      d.fabric.isolated = false → exec (.echo t h q sent) s =
        .next { s with dev := modFab (fun f => { f with lease := max f.lease (sent + ms 10) }) (frameTaken h d) }) ∧
    (d.fabric.role ≠ 1 ∧ h.source ≠ d.fabric.manager ∧ deputyOf d.fabric ≠ some h.source ∨ (q, sent) ∉ d.fabric.sent ∨
        d.fabric.isolated = true →
      exec (.echo t h q sent) s = .next { s with dev := frameTaken h d })) ∧
  (∀ (t : Time) (h : FabricHeader) (m : Member) (r : JournalRecord) (s : State) (d : Dev), d = advance t s.dev → frameComes h m d →
    (nextIn h.source (ringOrder (frameTaken h d).fabric) = some d.fabric.device → r.origin = h.source →
      (∀ o, r.body ≠ .checkpoint o) → (∀ a b c o, r.body ≠ .context a b c o) → ∃ u, exec (.journal t h [r]) s = .next u ∧
        u = { s with dev := { frameTaken h d with fabric := u.dev.fabric } } ∧
        u.dev.fabric.outFrames.getLast? = some (4, h.source, frameImage d.geyser.now d.fabric (d.fabric.frameSeq + 1) 4 h.source
          (leBytes 8 u.dev.fabric.mirroredSeq)) ∧
        ((∀ x ∈ d.fabric.mirrored, x.origin ≠ h.source) → u.dev.fabric.mirrored = [r] ∧ u.dev.fabric.mirroredSeq = r.seq) ∧
        ((∃ x ∈ d.fabric.mirrored, x.origin = h.source) → r.seq = d.fabric.mirroredSeq + 1 →
          u.dev.fabric.mirrored = d.fabric.mirrored ++ [r] ∧ u.dev.fabric.mirroredSeq = r.seq) ∧
        ((∃ x ∈ d.fabric.mirrored, x.origin = h.source) → r.seq ≠ d.fabric.mirroredSeq + 1 →
          u.dev.fabric.mirrored = d.fabric.mirrored ∧ u.dev.fabric.mirroredSeq = d.fabric.mirroredSeq) ∧
        u.dev.fabric.journal = d.fabric.journal) ∧
    (nextIn h.source (ringOrder (frameTaken h d).fabric) ≠ some d.fabric.device →
      ∃ u, exec (.journal t h [r]) s = .next u ∧ u = { s with dev := frameTaken h d })) ∧
  (∀ (t : Time) (h : FabricHeader) (m : Member) (q : Nat) (s : State) (d e : Dev), d = advance t s.dev → frameComes h m d →
    e = frameTaken h d →
    (mirrorPeer? e.fabric = some h.source → ∃ u, exec (.confirm t h q) s = .next u ∧
      u = settled s (pump (afterConfirm (modFab (fun f => { f with
        confirmed := max f.confirmed (min q (f.nextSeq - 1))
        confirmedAt := arrival t s
        unmirrored := if f.copied then false else f.unmirrored }) e)))) ∧
    (mirrorPeer? e.fabric ≠ some h.source → ∃ u, exec (.confirm t h q) s = .next u ∧ u = settled s (pump e))) ∧
  (∀ (p : Nat) (d : Dev), joining? d = none → (∀ a ∈ d.accepted, a.mirror = none) → d.contexts = [] →
    (∀ e ∈ d.sessions, e.2.waiting = []) →
    (portOf (afterConfirm d) p).out =
      (portOf d p).out ++ ((portOf d p).outWait.filter fun e => decide (e.1 ≤ d.fabric.confirmed)).map (·.2) ∧
    (portOf (afterConfirm d) p).outWait = (portOf d p).outWait.filter (fun e => !decide (e.1 ≤ d.fabric.confirmed)) ∧
    (afterConfirm d).fabric = d.fabric) ∧
  (∀ (t : Time) (h : FabricHeader) (m : Member) (o q n role dom : Nat) (i : Time) (c : W32) (svc : Bool) (serial : W128) (s : State)
      (d e : Dev), d = advance t s.dev → frameComes h m d → e = frameTaken h d →
    (h.source ≠ d.fabric.manager → ∃ u, exec (.map t h [⟨o, c, q, i, .map n dom⟩]) s = .next u ∧ u = settled s (pump e)) ∧
    (h.source = d.fabric.manager →
      (∃ u, exec (.map t h [⟨o, c, q, i, .map n dom⟩]) s = .next u ∧ u = settled s (pump (afterConfirm (takeMap c n dom e)))) ∧
      (∃ u, exec (.map t h [⟨o, c, q, i, .member n role svc serial⟩]) s = .next u ∧
        u = settled s (pump (afterConfirm (takeMember n role svc serial e)))))) ∧
  (∀ (c : W32) (n dom role : Nat) (svc : Bool) (serial : W128) (d : Dev),
    kfind? (takeMap c n dom d).fabric.map c.toNat = some n ∧ (takeMap c n dom d).contexts = d.contexts ∧
    (∀ k, k ≠ c.toNat → kfind? (takeMap c n dom d).fabric.map k = kfind? d.fabric.map k) ∧
    (n ≠ d.fabric.device → (ctxOf d c).state ∉ [.closed, .draining] →
      (∀ k, partOf? d (ctxOf d c).partition = some k → 0 < k.majorUs) →
      ∃ at_, (c, n, at_) ∈ (takeMap c n dom d).fabric.remaps ∧ d.geyser.now + ms 1 ≤ at_) ∧
    (d.fabric.role ≠ 0 → ∃ m, kfind? (takeMember n role svc serial d).fabric.members n = some m ∧ m.role = role ∧
      m.inService = svc ∧ m.serial = serial ∧ (svc = true → role = 1 → (takeMember n role svc serial d).fabric.manager = n))) ∧
  (∀ (t : Time) (h : FabricHeader) (m : Member) (k : TakeoverData) (c : W32) (rs : List JournalRecord) (last : Nat) (alive : W16)
      (s : State) (d : Dev), d = advance t s.dev → frameComes h m d →
    (h.source = d.fabric.manager → h.source ≠ d.fabric.device → inFabric d = true → (ctxOf d k.context).state = .closed →
      ∃ u, exec (.takeover t h k) s = .next u ∧ takeoverOf? u.dev k.context = some
          { data := k, records := d.fabric.mirrored.filter (fun r => r.origin == k.failed && r.context == k.context)
            sliced := !(d.fabric.mirrored.filter fun r => r.origin == k.failed && r.context == k.context).isEmpty } ∧
        u = { s with dev := { frameTaken h d with fabric := u.dev.fabric } }) ∧
    (h.source ≠ d.fabric.manager → h.source ≠ d.fabric.device → ∃ u, exec (.takeover t h k) s = .next u ∧
      u = { s with dev := frameTaken h d }) ∧
    (takeoverOf? d c = none → (∃ u, exec (.slice t h c rs) s = .next u ∧ u = { s with dev := frameTaken h d }) ∧
      (∃ u, exec (.handed t h c last alive) s = .next u ∧ u = { s with dev := frameTaken h d })) ∧
    (∀ x, takeoverOf? d c = some x →
      (∃ u, exec (.slice t h c rs) s = .next u ∧ takeoverOf? u.dev c =
        some { x with records := x.records ++ rs.filter (fun r => r.context == c), sliced := true }) ∧
      (∃ u, exec (.handed t h c last alive) s = .next u ∧ takeoverOf? u.dev c =
        some { x with handed := some (last, alive.toNat) }))) ∧
  (∀ (t : Time) (p : Fin 64) (cert named : Bool) (fw : W32) (s : State) (d : Dev), d = advance t s.dev → d.fabric.id ≠ 0 →
    fabricUp d = true → p.val ≠ d.fabric.device →
    (cert = false ∨ named = false ∨ fw.toNat < d.fabric.minFirmware.toNat → d.fabric.role ≠ 0 →
      ∃ u, exec (.pairKeyAgreement t p cert named fw) s = .next u ∧
        u = settled s (pump (serveRings (modMember p.val (fun m => { m with pairKey := none }) d)))) ∧
    (cert = true → named = true → d.fabric.minFirmware.toNat ≤ fw.toNat → d.fabric.role = 2 ∨ d.fabric.role = 3 →
      ∃ u, exec (.pairKeyAgreement t p cert named fw) s = .next u ∧
        u = settled s (pump (serveRings (modMember p.val (fun m => { m with pairKey := some d.free, seen := [] }) { d with free := d.free + 1 })))))

/-- R466 to R468, R471, R473, R476, R477, R480, R482 to R486: what the fabric does in time. Heartbeats leave at each 1 ms boundary; a
worker or deputy whose lease ends is isolated, and its SAFE pairs are forced; the manager declares a member failed no
earlier than 20 ms after its newest send instant; the deputy becomes manager 20 ms after the newest instant of the manager. A journal frame is sent again after 20 µs, and the device
is unmirrored after 500 µs; a command whose record is not confirmed in 500 µs is refused with MIRROR_FAILED. Checkpoints fall on 100 ms
boundaries; at the boundary of a move the context drains; a takeover resumes where the ring of verdicts ends, and writes each sequence after it
as the HELD record has it, or WITHHELD.
The model's readings that this rests on: log 26. -/
def Obligations.FabricEvents : Prop :=
  (∀ (s : State) (b : Time) (d : Dev), b = nextBeat (ms 1) s.dev.fabric.beatAt s.dev.geyser.now →
    d = modFab (fun f => { f with beatAt := some b }) (advance b s.dev) →
    b % ms 1 = 0 ∧ s.dev.geyser.now ≤ b ∧ b ≤ s.dev.geyser.now + ms 1 ∧
    (d.fabric.role = 0 ∨ fabricUp d = false → exec .heartbeatSend s = .next { s with dev := d }) ∧
    (∀ peers : List Nat, d.fabric.role ≠ 0 → fabricUp d = true →
      peers = (if d.fabric.role = 1 then [0xFF] else
        (d.fabric.manager :: (deputyOf d.fabric).toList).filter (· != d.fabric.device)) →
      ∃ u, exec .heartbeatSend s = .next u ∧ u = { s with dev := { d with fabric := u.dev.fabric } } ∧
        u.dev.fabric.frameSeq = d.fabric.frameSeq + peers.length ∧
        (∀ l p, peers = l ++ [p] →
          u.dev.fabric.outFrames.getLast? = some (1, p, frameImage d.geyser.now d.fabric (d.fabric.frameSeq + peers.length) 1 p
            (heartbeatPayload d)) ∧
          u.dev.fabric.sent.getLast? = some (d.fabric.frameSeq + peers.length, d.geyser.now)) ∧
        u.dev.fabric.lease = d.fabric.lease)) ∧
  (∀ (s : State) (d : Dev), d = advance s.dev.fabric.lease s.dev →
    (s.dev.fabric.role = 2 ∨ s.dev.fabric.role = 3 → s.dev.fabric.isolated = false → ∃ u, exec .leaseExpiry s = .next u ∧
      u.dev.fabric = { s.dev.fabric with isolated := true, isolatedAt := s.dev.fabric.lease } ∧ u.dev.gnt.forced = true ∧
      u.dev.gnt.pulses = [] ∧ pinsLow u.dev ∧ (∀ p, (portOf u.dev p).out = [] ∧ (portOf u.dev p).outWait = []) ∧
      u = { s with dev := { d with fabric := u.dev.fabric, gnt := u.dev.gnt, ports := u.dev.ports } }) ∧
    (s.dev.fabric.role < 2 ∨ s.dev.fabric.isolated = true → ∃ u, exec .leaseExpiry s = .next u ∧ u = s) ∧
    (s.dev.fabric.role = 1 → othersInService s.dev = true → s.dev.fabric.isolated = false →
      ∃ u, exec .managerIsolation s = .next u ∧ u.dev.fabric.isolated = true ∧ pinsLow u.dev) ∧
    (s.dev.fabric.role ≠ 1 ∨ othersInService s.dev = false → ∃ u, exec .managerIsolation s = .next u ∧ u = s)) ∧
  (∀ (t : Time) (n : Fin 64) (m : Member) (s : State) (d : Dev), d = advance t s.dev → kfind? d.fabric.members n.val = some m →
    (d.geyser.now < m.lastSend + ms 20 ∨ fabricUp d = false ∨ d.fabric.role ≠ 1 ∨ n.val = d.fabric.device ∨ m.inService = false →
      ∃ u, exec (.failureDeclaration t n) s = .next u ∧ u = { s with dev := d }) ∧
    (m.lastSend + ms 20 ≤ d.geyser.now → fabricUp d = true → d.fabric.role = 1 → n.val ≠ d.fabric.device → m.inService = true →
      ∃ u m', exec (.failureDeclaration t n) s = .next u ∧ kfind? u.dev.fabric.members n.val = some m' ∧ m'.inService = false ∧
        u.mem = s.mem ∧ u.pending = s.pending)) ∧
  (∀ (s : State), (s.dev.fabric.role ≠ 2 ∨ fabricUp s.dev = false → ∃ u, exec .managerPromotion s = .next u ∧ u = s) ∧
    (s.dev.fabric.role = 2 → fabricUp s.dev = true → ∃ u, exec .managerPromotion s = .next u ∧ u.dev.fabric.role = 1 ∧
      u.dev.fabric.manager = s.dev.fabric.device ∧
      u.dev.geyser.now = max s.dev.geyser.now (s.dev.fabric.managerInstant + ms 20) ∧ u.mem = s.mem ∧ u.pending = s.pending)) ∧
  (∀ (s : State), (unconfirmed? s.dev = none → (∃ u, exec .journalResend s = .next u ∧ u = s) ∧
      (∃ u, exec .mirrorTimeout s = .next u ∧ u = s)) ∧
    (∀ r m, unconfirmed? s.dev = some r → mirrorPeer? s.dev.fabric = some m →
      (∃ u, exec .journalResend s = .next u ∧ u.dev.fabric.outFrames.getLast? = some (3, m, frameImage u.dev.geyser.now s.dev.fabric
          (s.dev.fabric.frameSeq + 1) 3 m (journalImage r)) ∧
        u.dev.fabric.resent = s.dev.fabric.resent + 1 ∧ u.dev.geyser.now = max s.dev.geyser.now (s.dev.fabric.sentAt + us 20) ∧
        u = { s with dev := { advance (s.dev.fabric.sentAt + us 20) s.dev with fabric := u.dev.fabric } }) ∧
      (∃ u, exec .mirrorTimeout s = .next u ∧ u = { s with dev := (modFab (fun f => { f with unmirrored := true }) (advance (max s.dev.fabric.confirmedAt r.instant + us 500) s.dev)) }))) ∧
  (∀ (t : Time) (s : State) (d : Dev), d = advance t s.dev →
    (mirrorPeer? d.fabric = none ∨ d.fabric.copied = true → ∃ u, exec (.mirrorCopyComplete t) s = .next u ∧ u = settled s (pump d)) ∧
    ((mirrorPeer? d.fabric).isSome = true → d.fabric.copied = false → ∃ u, exec (.mirrorCopyComplete t) s = .next u ∧
      u = settled s (pump (afterConfirm (modFab (fun f => { f with
        copied := true, unmirrored := false, confirmed := f.nextSeq - 1, confirmedAt := d.geyser.now }) d))))) ∧
  (∀ (n : Nat) (k : W64) (s : State) (a : Accepted), acceptedOf? s.dev n k = some a →
    (∀ q, a.mirror = some q → q ≤ s.dev.fabric.confirmed → ∃ u, exec (.commandMirrorTimeout n k) s = .next u ∧ u = settled s (pump s.dev)) ∧
    (∀ q, a.mirror = some q → s.dev.fabric.confirmed < q → ∃ u, exec (.commandMirrorTimeout n k) s = .next u ∧
      u = settled s (pump (serveRings (firstReply a.session a.path a.packet (.refuse cMirrorFailed (refusalWord 0 noField),
        advance (a.due + us 500) { s.dev with accepted := s.dev.accepted.filter (· != a) }))))) ∧
    (∀ q, a.mirror = some q → a.map = false → ∃ u, exec (.peerAnswerTimeout n k) s = .next u ∧
      u = settled s (pump (serveRings (firstReply a.session a.path a.packet (.refuse cUnreachable (refusalWord 0 noField),
        advance (a.due + us 500) { s.dev with accepted := s.dev.accepted.filter (· != a) }))))) ∧
    (∀ q, a.mirror = some q → a.map = true → ∃ u, exec (.peerAnswerTimeout n k) s = .next u ∧ u = settled s (pump s.dev))) ∧
  (∀ (s : State) (b : Time) (d : Dev), b = nextBeat (ms 100) s.dev.fabric.checkpointAt s.dev.geyser.now →
    d = modFab (fun f => { f with checkpointAt := some b }) (advance b s.dev) →
    (fabricUp d = false → ∃ u, exec .checkpoint s = .next u ∧ u = { s with dev := d }) ∧
    (fabricUp d = true → ∃ u r o, exec .checkpoint s = .next u ∧ u.dev.fabric.journal.getLast? = some r ∧ r.body = .checkpoint o ∧
      r.instant = d.geyser.now ∧ r.seq + 1 = u.dev.fabric.nextSeq ∧ u.dev.fabric.checkpointFrom = r.seq ∧
      u = { s with dev := { d with fabric := u.dev.fabric } } ∧
      (d.contexts = [] → d.accepted = [] → ∀ x ∈ u.dev.fabric.journal, x.seq ≥ d.fabric.checkpointFrom ∨ x = r))) ∧
  (∀ (c : W32) (s : State), (s.dev.fabric.remaps.find? (fun e => e.1 == c) = none →
      ∃ u, exec (.remapBoundary c) s = .next u ∧ u = settled s (pump s.dev)) ∧
    (∀ e d, s.dev.fabric.remaps.find? (fun e => e.1 == c) = some e → d = advance e.2.2 s.dev → (ctxOf d c).state ≠ .closed →
      ∃ u, exec (.remapBoundary c) s = .next u ∧
        u = settled s (pump (closeIfDrained c (journalCtx c (modCtx c (fun x => { x with state := .draining }) d)))))) ∧
  (∀ (t : Time) (c : W32) (bell : Nat) (slots : List RingSlot) (s : State) (d : Dev), d = advance t s.dev →
    (takeoverOf? d c = none ∨ muted d = true ∨ fabricUp d = false ∨ (ctxOf d c).state ≠ .closed →
      ∃ u, exec (.takeoverReadback t c bell slots) s = .next u ∧ u = settled s (pump d)) ∧
    (∀ k, takeoverOf? d c = some k → muted d = false → fabricUp d = true → (ctxOf d c).state = .closed →
      k.sliced = true ∨ k.handed.isSome = true → ∃ u, exec (.takeoverReadback t c bell slots) s = .next u ∧
        u = settled s (pump (takeOver k bell slots d)))) ∧
  (∀ (slots : List RingSlot) (l : Nat) (fuel q w : Nat),
    ((∃ x ∈ slots, x.index = q % l ∧ slotOk x = true ∧ slotSeq x = q) →
      lastWritten slots l (fuel + 1) q w = lastWritten slots l fuel (q + 1) q) ∧
    ((∀ x ∈ slots, ¬ (x.index = q % l ∧ slotOk x = true ∧ slotSeq x = q)) → lastWritten slots l (fuel + 1) q w = w)) ∧
  (∀ (c : W32) (grade : Nat) (l : List JournalRecord) (q : Nat) (d : Dev),
    ((∀ r ∈ l, ∀ v, r.body = .held v → v.seq ≠ q) →
      (takeoverRecord c grade l q d).context = c ∧ (takeoverRecord c grade l q d).verdict = 6 ∧
      (takeoverRecord c grade l q d).grade = grade ∧ (takeoverRecord c grade l q d).reasons = rSafeState ∧
      (takeoverRecord c grade l q d).seq = q ∧ (takeoverRecord c grade l q d).device = d.fabric.device) ∧
    ((∃ r ∈ l, ∃ v, r.body = .held v ∧ v.seq = q) →
      ∃ r ∈ l, r.body = .held (takeoverRecord c grade l q d) ∧ (takeoverRecord c grade l q d).seq = q))

/-! ### Resets and starts (20, with 11 R302, 14, 16, 17, 18) -/

/-- R490, R367, R368, R496 to R498, R145, R381: power-on reset leaves fuses, flash and the mode of the pace, and nothing else. At
its end the slot with the highest valid version boots, slot A where they are equal; with none valid the device stays in BOOT.
The Steward is released once; its tests pulse every wire, and a source whose wire does not reach the collector is marked. The test
reset clears every latched reaction and keeps Geyser. At the end of the tests the cores that failed, or whose comparator failed, are
fenced and the device is READY; a failed test of the Steward's comparators, any other that says so, or a second event brings
CHIP_FAILED. Every start writes 1 mV/µs and 0.80 V (R148).
The model's readings that this rests on: logs 28 and 30. -/
def Obligations.ColdStart : Prop :=
  (∀ (t : Time) (s : State), ∃ u, exec (.porstNAssert t) s = .next u ∧ u.mem = {} ∧ u.pending = s.pending ∧
    u.dev.pace.floor = s.dev.pace.floor ∧ u.dev.bonnet.keys = s.dev.bonnet.keys ∧ u.dev.bonnet.firmware = s.dev.bonnet.firmware ∧
    u.dev.bonnet.fieldLock = s.dev.bonnet.fieldLock ∧ u.dev.bonnet.securityFuse = s.dev.bonnet.securityFuse ∧
    u.dev.front = {} ∧ u.dev.queues = {} ∧ u.dev.sessions = ({} : Dev).sessions ∧ u.dev.contexts = [] ∧ u.dev.plans = {} ∧
    u.dev.sched = {} ∧ u.dev.cores = {} ∧ u.dev.cal = {} ∧ u.dev.gnt = {} ∧ u.dev.geyser = {} ∧ u.dev.fabric = {} ∧
    u.dev.watch = ({} : Dev).watch ∧ u.dev.attn = {} ∧ u.dev.front.state = .reset) ∧
  (∀ (t : Time) (valid : BitVec 2) (a b : W32) (s : State), s.dev.front.state = .reset → s.dev.start.cold = true →
    s.dev.start.booting = false → ∃ u, exec (.porstNRelease t valid a b) s = .next u ∧ u.mem = s.mem ∧ u.pending = s.pending ∧
      (valid = 0 → u.dev.front.state = .boot ∧ u.dev.start = { s.dev.start with bootOk := false } ∧ u.dev.bonnet = s.dev.bonnet) ∧
      (valid ≠ 0 → u.dev.front.state = .reset ∧ u.dev.start = { s.dev.start with booting := true } ∧
        (u.dev.bonnet.bootSlot, u.dev.bonnet.firmware) =
          if valid = 2 ∨ valid = 3 ∧ a.toNat < b.toNat then (1, b) else (0, a))) ∧
  (∀ (t : Time) (img st ks : Bool) (s : State), s.dev.start.booting = true → s.dev.start.bootOk = true → s.dev.start.released = false →
    (s.dev.watch.dwd.failover = true → ∃ u, exec (.stewardRelease t img st ks) s = .next u ∧ u.dev.front.state = .safeState ∧
      onlyLaunches (modFront (fun f => { f with state := .safeState }) (advance t s.dev)) u.dev) ∧
    (s.dev.watch.dwd.failover = false → img = false ∨ st = false → ∃ u, exec (.stewardRelease t img st ks) s = .next u ∧
      u.dev.front.state = .boot ∧ u.dev.start.bootOk = false ∧ u.dev.start.released = false ∧ onlyZeroed s.mem u.mem) ∧
    (s.dev.watch.dwd.failover = false → img = true → st = true →
      s.dev.start.cold = false ∨ s.dev.start.wiresDone = false ∨ s.dev.start.wireFail = [] → ∃ u, exec (.stewardRelease t img st ks) s = .next u ∧
      u.dev.start.released = true ∧ u.dev.start.releasedAt = arrival t s ∧ u.dev.front.state = .boot ∧
      procUp 0 u.dev = true ∧ procUp 1 u.dev = true ∧ u.dev.pace.target = 800 ∧ u.dev.pace.slew = 1 ∧
      (ks = true → u.dev.bonnet = s.dev.bonnet) ∧ (ks = false → u.dev.bonnet.keys = [] ∧ u.dev.bonnet.revokedIds = []) ∧
      (s.dev.pace.floorInv = ~~~s.dev.pace.floor → 780 ≤ s.dev.pace.floor.toNat → s.dev.pace.floor.toNat ≤ 1350 →
        s.dev.pace.floor.toNat % 10 = 0 → u.dev.pace.f = s.dev.pace.floor.toNat ∧ u.dev.pace.fuseOk = true) ∧
      (s.dev.pace.floorInv ≠ ~~~s.dev.pace.floor → u.dev.pace.f = 780 ∧ u.dev.pace.fuseOk = false ∧
        (kfind? u.dev.attn.pending 6).isSome) ∧ onlyZeroed s.mem u.mem)) ∧
  (∀ (t : Time) (n : Fin 768) (moved : Bool) (s : State), s.dev.start.cold = true → s.dev.start.released = true → s.dev.start.wiresDone = false →
    s.dev.front.state = .boot → (∀ e ∈ s.dev.cal.src, e.2.force = false) → ∃ u, exec (.wireDriverPulse t n moved) s = .next u ∧
      u.dev.start.wireTest = true ∧ (moved = true → u.dev.start.wireFail = s.dev.start.wireFail) ∧
      (moved = false → u.dev.start.wireFail = s.dev.start.wireFail ++ [n.val]) ∧ (srcOf u.dev n.val).force = false) ∧
  (∀ (t : Time) (s : State) (d : Dev), d = advance t s.dev →
    (s.dev.start.cold = true → s.dev.start.released = true → s.dev.start.wireTest = true → s.dev.front.state = .boot →
      ∃ u, exec (.testReset t) s = .next u ∧ u.mem = {} ∧ u.pending = s.pending ∧ u.dev.geyser = d.geyser ∧ u.dev.cal = {} ∧
        u.dev.gnt = {} ∧ u.dev.cores = {} ∧ u.dev.start = { wiresDone := true, wireFail := s.dev.start.wireFail, booting := true, resetAt := d.geyser.now } ∧
        u.dev.bonnet.keys = s.dev.bonnet.keys ∧ u.dev.pace.floor = s.dev.pace.floor) ∧
    (s.dev.start.cold = false ∨ s.dev.start.wireTest = false → ∃ u, exec (.testReset t) s = .next u ∧ u = { s with dev := d })) ∧
  (∀ (t : Time) (failed : W64) (comps : List (Fin 66)) (bad : Bool) (s : State) (d : Dev), d = advance t s.dev →
    s.dev.start.released = true → s.dev.front.state = .boot → s.dev.start.testsDone = false →
    s.dev.start.cold = false ∨ s.dev.start.wiresDone = true → s.dev.start.wireTest = false →
    (bad = true ∨ (∃ n ∈ comps, 64 ≤ n.val) ∨ (∃ n ∈ secondEvent, 2 ≤ (readCount d.geyser.now (srcOf d n)).count) →
      ∃ u, exec (.startUpTestsComplete t ⟨failed, comps⟩ bad) s = .next u ∧ u.dev.front.state = .chipFailed ∧
        u.dev.start.testsDone = true ∧ onlyZeroed s.mem u.mem ∧ u.pending = s.pending) ∧
    (bad = false → failed = 0 → comps = [] → (∀ n ∈ secondEvent, (readCount d.geyser.now (srcOf d n)).count < 2) →
      ∃ u, exec (.startUpTestsComplete t ⟨failed, comps⟩ bad) s = .next u ∧ u.dev.front = { s.dev.front with state := .ready } ∧
        u.dev.start.testsDone = true ∧ u.dev.start.resumed = s.dev.start.cold ∧
        u.dev.bonnet.securityFuse = max s.dev.bonnet.securityFuse s.dev.bonnet.runningSecurity ∧
        u.dev.contexts = s.dev.contexts ∧ u.dev.cal = s.dev.cal ∧ onlyZeroed s.mem u.mem ∧ u.pending = s.pending) ∧
    (∀ n < 64, failed.getLsbD n = true ∨ (∃ k ∈ comps, k.val = n) →
      ∃ u, exec (.startUpTestsComplete t ⟨failed, comps⟩ bad) s = .next u ∧ isFenced u.dev n = true))

/-- R302, R326, R408, R410, R412, R424 to R433, R448, R457, R490 to R493, R499, R520, R535, R538, R381, Table 20.2: a warm
reset keeps configuration, partitions, tables, plans, keys, time and HBM; it loses local memory and cluster SRAM, kernels, latches,
messages and unconfirmed sessions, and DEVICE_STATE reads RESET. It follows WARM_N, the command, chip safe state at
100 µs, a safe state at 10 ms unless two restarts came within 60 s, and the end of a lease at 30 ms. None comes after CHIP_FAILED;
an expiry of the device watchdog at the same instant comes first (R432). The device resumes once its tests have passed.
The model's readings that this rests on: logs 27 and 28. -/
def Obligations.WarmResets : Prop :=
  (∀ (cause source : Nat) (s u : State), s.dev.front.state ≠ .chipFailed → s.dev.front.state ≠ .reset → s.dev.start.bootOk = true →
    (∀ e ∈ s.dev.cal.src, e.2.force = false) →
    (s.dev.watch.dwd.state = .running ∨ s.dev.watch.dwd.state = .restart → s.dev.geyser.now < dwdEnd s.dev.watch.dwd) →
    u = warmReset cause source s →
    u.dev.front.state = .reset ∧ u.dev.front.warmCount = min (s.dev.front.warmCount + 1) 65535 ∧ u.dev.start.cause = cause ∧
    u.dev.start.causeSource = source ∧ u.dev.start.cold = false ∧ u.dev.start.released = false ∧ u.dev.start.resumed = false ∧
    u.dev.start.testsDone = false ∧ u.dev.cal.chipSafe = false ∧ u.dev.cal.safeOut = false ∧ u.dev.cal.errN = true ∧
    u.dev.gnt.armed = false ∧ u.dev.gnt.forced = false ∧ u.dev.gnt.pulses = [] ∧
    u.dev.sched.parts = s.dev.sched.parts ∧ u.dev.sched.tables = s.dev.sched.tables ∧ u.dev.sched.queue = [] ∧ u.dev.sched.runs = [] ∧
    u.dev.sched.golden = [] ∧ u.dev.plans.loaded = s.dev.plans.loaded ∧ u.dev.plans.blobs = s.dev.plans.blobs ∧
    u.dev.bonnet.keys = s.dev.bonnet.keys ∧ u.dev.geyser.now = s.dev.geyser.now ∧ u.dev.geyser.incr = s.dev.geyser.incr ∧
    (s.dev.geyser.state = .locked → u.dev.geyser.state = .freeRun) ∧ (∀ p, portOf u.dev p = {
      role := (portOf s.dev p).role, speed := (portOf s.dev p).speed, link := (portOf s.dev p).link
      groups := (portOf s.dev p).groups }) ∧ u.dev.mesh = {} ∧
    (∀ n, (coreOf u.dev n).fenced = (coreOf s.dev n).fenced) ∧
    (∀ n, (coreOf u.dev n).split = (coreOf s.dev n).split ∧ (coreOf u.dev n).bundles = [] ∧ (coreOf u.dev n).window = none) ∧
    (∀ e ∈ u.dev.sessions, e.1 = 0 ∨ e.2.isOpen = false ∨ e.2.confirmed = true) ∧
    u.pending = s.pending ∧ (∀ k, k < 0xBE800000 → wordAt u.mem k = wordAt s.mem k ∧ syndAt u.mem k = syndAt s.mem k) ∧
    (∀ k, 0xBE800000 ≤ k → wordAt u.mem k = 0 ∧ syndAt u.mem k = 0)) ∧
  (∀ (cause source : Nat) (s : State), s.dev.front.state = .chipFailed → warmReset cause source s = s) ∧
  (∀ (cause source : Nat) (s : State) (w : DeviceWd), w = s.dev.watch.dwd → s.dev.front.state ≠ .chipFailed →
    s.dev.front.state ≠ .reset → w.state = .running ∨ w.state = .restart → dwdEnd w ≤ s.dev.geyser.now →
    warmReset cause source s = warmReset cause source { s with dev := dwdExpire .late (dwdEnd w) s.dev }) ∧
  (∀ (t : Time) (s : State), ∃ u, exec (.warmN t) s = .next u ∧ u = warmReset 1 0xFFFF { s with dev := advance t s.dev }) ∧
  (∀ (t : Time) (s : State),
    (s.dev.start.commandedAt = none → ∃ u, exec (.commandedWarmReset t) s = .next u ∧ u = { s with dev := advance t s.dev }) ∧
    (s.dev.start.commandedAt.isSome = true → ∃ u, exec (.commandedWarmReset t) s = .next u ∧
      u = warmReset 2 0xFFFF { s with dev := advance t s.dev })) ∧
  (∀ (s : State),
    (s.dev.cal.chipSafe = true → s.dev.start.wireTest = false → ∃ u, exec .chipSafeWarmReset s = .next u ∧
      u = warmReset 3 s.dev.cal.safeSource { s with dev := advance (s.dev.cal.safeAt + us 100) s.dev }) ∧
    (s.dev.cal.chipSafe = false ∨ s.dev.start.wireTest = true → ∃ u, exec .chipSafeWarmReset s = .next u ∧ u = s)) ∧
  (∀ (s : State) (d : Dev), d = advance (s.dev.cal.safeAt + ms 10) s.dev →
    (s.dev.cal.safeOut = true → s.dev.cal.chipSafe = false → s.dev.start.wireTest = false →
      (recentRestarts d < 2 → ∃ u, exec .safeStateWarmReset s = .next u ∧ u = warmReset 4 s.dev.cal.safeSource { s with dev := d }) ∧
      (2 ≤ recentRestarts d → ∃ u, exec .safeStateWarmReset s = .next u ∧ u.dev.front.state = .chipFailed ∧
        u = { s with dev := chipFailed d })) ∧
    (s.dev.cal.safeOut = false ∨ s.dev.cal.chipSafe = true ∨ s.dev.start.wireTest = true →
      ∃ u, exec .safeStateWarmReset s = .next u ∧ u = s)) ∧
  (∀ (s : State), (s.dev.fabric.isolated = false → ∃ u, exec .isolationWarmReset s = .next u ∧ u = s) ∧
    (s.dev.fabric.isolated = true → ∃ u, exec .isolationWarmReset s = .next u ∧
      u = warmReset 5 0xFFFF { s with dev := advance (s.dev.fabric.isolatedAt + ms 30) s.dev })) ∧
  (∀ (t : Time) (s : State),
    (s.dev.start.testsDone = false ∨ s.dev.start.resumed = true ∨ s.dev.front.state = .reset →
      ∃ u, exec (.restartResume t) s = .next u ∧ u = settled s (advance t s.dev)) ∧
    (s.dev.start.testsDone = true → s.dev.start.resumed = false → s.dev.front.state = .ready → inFabric s.dev = false →
      ∃ u e, exec (.restartResume t) s = .next u ∧ doneAs (serveRings e) s u ∧ e.start.resumed = true ∧
        e.start.serviceAt = arrival t s ∧ (kfind? e.attn.pending 7).isSome ∧ (∀ n m, kfind? s.dev.watch.monitors n = some m →
          kfind? e.watch.monitors n = some { m with start := arrival t s, index := 0, count := 0, suspended := false })))

/-- R5, R6, R371, R373, R360, R233, R234, R375, Table 0.1 and the register tables: a write of an RO register changes nothing,
a W1C bit clears with a 1 and stays with a 0, but one that the hardware sets in the instant of the write stays set; the fields of a
fixed source are RO. An instance of the DRBG reseeds after 100 ms unless
its entropy has failed. A session that no packet has confirmed closes 10 s after it opened. Debug attached to a core fences it, to
a Steward processor brings chip safe state; a blown FIELD_LOCK refuses both.
The model's readings that this rests on: log 28. -/
def Obligations.RegistersAndTimers : Prop :=
  (∀ (t : Time) (r : Reg) (v : W64) (s : State) (c : Fin 64), r ∈ [.floorFuse, .trapAddr c, .coreMode c, .dwdStatus, .startStatus] →
    ∃ u, exec (.registerWrite t r v) s = .next u ∧ u = cleared s (advance t s.dev)) ∧
  (∀ (t : Time) (n : Fin 768) (v : W64) (s : State) (x : Source), x = srcOf s.dev n.val → ∃ u, exec (.registerWrite t (.calCfg n) v) s = .next u ∧
    srcOf u.dev n.val = { x with
      cls := if x.fixed then x.cls else v.toNat / 2 ^ 45 % 2
      mask := if x.fixed then x.mask else v.toNat / 2 ^ 40 % 32
      n := if x.fixed then x.n else v.toNat / 2 ^ 32 % 256
      w := if x.fixed then x.w else v.toNat % 2 ^ 26 } ∧ (∀ k, k ≠ n.val → srcOf u.dev k = srcOf s.dev k) ∧
    u = cleared s { advance t s.dev with cal := u.dev.cal }) ∧
  (∀ (t : Time) (c : Fin 64) (v : W64) (s : State) (d : Dev), d = advance t s.dev →
    (setsNow d = [] → exec (.registerWrite t (.trapStatus c) v) s = .next (cleared s
      (modCore c.val (fun k => { k with trapStatus := w1cValidMore k.trapStatus (v.setWidth 32) }) d))) ∧
    (setsNow d = [{ reg := .trapStatus c, bits := 0x80000000 }] →
      ∃ u, exec (.registerWrite t (.trapStatus c) v) s = .next u ∧
        (coreOf u.dev c.val).trapStatus.getLsbD 31 = (coreOf s.dev c.val).trapStatus.getLsbD 31)) ∧
  (∀ (old v : W32), (v.getLsbD 31 = true → (w1cValidMore old v).getLsbD 31 = false) ∧
    (v.getLsbD 31 = false → (w1cValidMore old v).getLsbD 31 = old.getLsbD 31) ∧
    (v.getLsbD 30 = true → (w1cValidMore old v).getLsbD 30 = false) ∧
    (v.getLsbD 30 = false → (w1cValidMore old v).getLsbD 30 = old.getLsbD 30) ∧
    ∀ i, i < 30 → (w1cValidMore old v).getLsbD i = old.getLsbD i) ∧
  (∀ (t : Time) (w : Fin 2) (s : State) (d : Dev), d = advance t s.dev →
    (s.dev.bonnet.drbgStopped = true ∨ d.geyser.now < (s.dev.bonnet.drbgReseed[w.val]?).getD 0 + ms 100 →
      ∃ u, exec (.drbgReseed t w) s = .next u ∧ u = { s with dev := d }) ∧
    (s.dev.bonnet.drbgStopped = false → (s.dev.bonnet.drbgReseed[w.val]?).getD 0 + ms 100 ≤ d.geyser.now →
      ∃ u, exec (.drbgReseed t w) s = .next u ∧ u = { s with dev := { d with bonnet := { s.dev.bonnet with
        drbgCalls := s.dev.bonnet.drbgCalls.set w.val 0
        drbgReseed := s.dev.bonnet.drbgReseed.set w.val d.geyser.now } } })) ∧
  (∀ (n : Nat) (s : State) (x : Session), x = sessOf s.dev n →
    (n = 0 ∨ x.isOpen = false ∨ x.confirmed = true → ∃ u, exec (.sessionConfirmTimeout n) s = .next u ∧ u = s) ∧
    (n ≠ 0 → x.isOpen = true → x.confirmed = false → x.rings = none → ∃ u, exec (.sessionConfirmTimeout n) s = .next u ∧
      (sessOf u.dev n).isOpen = false ∧ u.dev.geyser.now = max s.dev.geyser.now (x.openedAt + sec 10) ∧
      (∀ k, k ≠ n → sessOf u.dev k = sessOf s.dev k) ∧ u.mem = s.mem ∧ u.pending = s.pending)) ∧
  (∀ (t : Time) (c : Fin 64) (s : State), (s.dev.bonnet.fieldLock ≠ 0 → ∃ u, exec (.debugAttachCore t c) s = .next u ∧
      u = cleared s (advance t s.dev)) ∧
    (s.dev.bonnet.fieldLock = 0 → s.dev.start.wireTest = false → ∃ u, exec (.debugAttachCore t c) s = .next u ∧
      isFenced u.dev c.val = true ∧ (coreOf u.dev c.val).debug = true ∧ onlyZeroed s.mem u.mem ∧ u.pending = s.pending)) ∧
  (∀ (t : Time) (p : Fin 2) (s : State), (s.dev.bonnet.fieldLock ≠ 0 → ∃ u, exec (.debugAttachSteward t p) s = .next u ∧
      u = cleared s (advance t s.dev)) ∧
    (s.dev.bonnet.fieldLock = 0 → ∃ u, exec (.debugAttachSteward t p) s = .next u ∧ u.dev.cal.chipSafe = true ∧
      u.dev.gnt.forced = true ∧ u = cleared s (enterSafe true 0xFFFF (advance t s.dev))))
end

