-- ==== Sys2Proof/Laws/State.lean ====
section
/-! SUPPORT. The fields of a state after each update: one lemma per field, true by definition, so that no proof unfolds a
record update. -/

namespace Sys2Proof.Machine

open Sys2Proof

set_option Elab.async false

/-! ### Updates of the state -/

@[simp] theorem onDev_pending (f : Dev → Dev) (s : State) : (onDev f s).pending = s.pending := rfl
@[simp] theorem onDev_mem (f : Dev → Dev) (s : State) : (onDev f s).mem = s.mem := rfl
@[simp] theorem onDev_dev (f : Dev → Dev) (s : State) : (onDev f s).dev = f s.dev := rfl
@[simp] theorem modMem_pending (f : Mem → Mem) (s : State) : (modMem f s).pending = s.pending := rfl
@[simp] theorem modMem_mem (f : Mem → Mem) (s : State) : (modMem f s).mem = f s.mem := rfl
@[simp] theorem modMem_dev (f : Mem → Mem) (s : State) : (modMem f s).dev = s.dev := rfl
@[simp] theorem tick_pending (s : State) : (tick s).pending = s.pending := rfl
@[simp] theorem tick_mem (s : State) : (tick s).mem = s.mem := rfl
@[simp] theorem tick_now (s : State) : (tick s).dev.geyser.now = s.dev.geyser.now + s.dev.geyser.incr.toNat := rfl

/-! ### Updates of the device -/

variable (d : Dev)

@[simp] theorem advance_front (t : Time) : (advance t d).front = d.front := rfl
@[simp] theorem advance_queues (t : Time) : (advance t d).queues = d.queues := rfl
@[simp] theorem advance_sessions (t : Time) : (advance t d).sessions = d.sessions := rfl
@[simp] theorem advance_accepted (t : Time) : (advance t d).accepted = d.accepted := rfl
@[simp] theorem advance_attn (t : Time) : (advance t d).attn = d.attn := rfl
@[simp] theorem advance_bonnet (t : Time) : (advance t d).bonnet = d.bonnet := rfl
@[simp] theorem advance_plans (t : Time) : (advance t d).plans = d.plans := rfl
@[simp] theorem advance_contexts (t : Time) : (advance t d).contexts = d.contexts := rfl
@[simp] theorem advance_ctxOrder (t : Time) : (advance t d).ctxOrder = d.ctxOrder := rfl
@[simp] theorem advance_slots (t : Time) : (advance t d).slots = d.slots := rfl
@[simp] theorem advance_streams (t : Time) : (advance t d).streams = d.streams := rfl
@[simp] theorem advance_ports (t : Time) : (advance t d).ports = d.ports := rfl
@[simp] theorem advance_sched (t : Time) : (advance t d).sched = d.sched := rfl
@[simp] theorem advance_cores (t : Time) : (advance t d).cores = d.cores := rfl
@[simp] theorem advance_memctl (t : Time) : (advance t d).memctl = d.memctl := rfl
@[simp] theorem advance_cal (t : Time) : (advance t d).cal = d.cal := rfl
@[simp] theorem advance_watch (t : Time) : (advance t d).watch = d.watch := rfl
@[simp] theorem advance_gnt (t : Time) : (advance t d).gnt = d.gnt := rfl
@[simp] theorem advance_geyser (t : Time) : (advance t d).geyser = { d.geyser with now := max d.geyser.now t } := rfl
@[simp] theorem advance_pace (t : Time) : (advance t d).pace = d.pace := rfl
@[simp] theorem advance_fabric (t : Time) : (advance t d).fabric = d.fabric := rfl
@[simp] theorem advance_start (t : Time) : (advance t d).start = d.start := rfl
@[simp] theorem advance_board (t : Time) : (advance t d).board = d.board := rfl
@[simp] theorem advance_free (t : Time) : (advance t d).free = d.free := rfl
@[simp] theorem advance_mesh (t : Time) : (advance t d).mesh = d.mesh := rfl
@[simp] theorem advance_hwSets (t : Time) : (advance t d).hwSets = d.hwSets := rfl
@[simp] theorem advance_hwAt (t : Time) : (advance t d).hwAt = d.hwAt := rfl
@[simp] theorem noteSet_front (h : HwSet) : (noteSet h d).front = d.front := rfl
@[simp] theorem noteSet_queues (h : HwSet) : (noteSet h d).queues = d.queues := rfl
@[simp] theorem noteSet_sessions (h : HwSet) : (noteSet h d).sessions = d.sessions := rfl
@[simp] theorem noteSet_accepted (h : HwSet) : (noteSet h d).accepted = d.accepted := rfl
@[simp] theorem noteSet_attn (h : HwSet) : (noteSet h d).attn = d.attn := rfl
@[simp] theorem noteSet_bonnet (h : HwSet) : (noteSet h d).bonnet = d.bonnet := rfl
@[simp] theorem noteSet_plans (h : HwSet) : (noteSet h d).plans = d.plans := rfl
@[simp] theorem noteSet_contexts (h : HwSet) : (noteSet h d).contexts = d.contexts := rfl
@[simp] theorem noteSet_ctxOrder (h : HwSet) : (noteSet h d).ctxOrder = d.ctxOrder := rfl
@[simp] theorem noteSet_slots (h : HwSet) : (noteSet h d).slots = d.slots := rfl
@[simp] theorem noteSet_streams (h : HwSet) : (noteSet h d).streams = d.streams := rfl
@[simp] theorem noteSet_ports (h : HwSet) : (noteSet h d).ports = d.ports := rfl
@[simp] theorem noteSet_sched (h : HwSet) : (noteSet h d).sched = d.sched := rfl
@[simp] theorem noteSet_cores (h : HwSet) : (noteSet h d).cores = d.cores := rfl
@[simp] theorem noteSet_memctl (h : HwSet) : (noteSet h d).memctl = d.memctl := rfl
@[simp] theorem noteSet_cal (h : HwSet) : (noteSet h d).cal = d.cal := rfl
@[simp] theorem noteSet_watch (h : HwSet) : (noteSet h d).watch = d.watch := rfl
@[simp] theorem noteSet_gnt (h : HwSet) : (noteSet h d).gnt = d.gnt := rfl
@[simp] theorem noteSet_geyser (h : HwSet) : (noteSet h d).geyser = d.geyser := rfl
@[simp] theorem noteSet_pace (h : HwSet) : (noteSet h d).pace = d.pace := rfl
@[simp] theorem noteSet_fabric (h : HwSet) : (noteSet h d).fabric = d.fabric := rfl
@[simp] theorem noteSet_start (h : HwSet) : (noteSet h d).start = d.start := rfl
@[simp] theorem noteSet_board (h : HwSet) : (noteSet h d).board = d.board := rfl
@[simp] theorem noteSet_mesh (h : HwSet) : (noteSet h d).mesh = d.mesh := rfl
@[simp] theorem noteSet_free (h : HwSet) : (noteSet h d).free = d.free := rfl
@[simp] theorem hwSet_front (r : Reg) (b : Nat) : (hwSet r b d).front = d.front := rfl
@[simp] theorem hwSet_queues (r : Reg) (b : Nat) : (hwSet r b d).queues = d.queues := rfl
@[simp] theorem hwSet_sessions (r : Reg) (b : Nat) : (hwSet r b d).sessions = d.sessions := rfl
@[simp] theorem hwSet_accepted (r : Reg) (b : Nat) : (hwSet r b d).accepted = d.accepted := rfl
@[simp] theorem hwSet_attn (r : Reg) (b : Nat) : (hwSet r b d).attn = d.attn := rfl
@[simp] theorem hwSet_bonnet (r : Reg) (b : Nat) : (hwSet r b d).bonnet = d.bonnet := rfl
@[simp] theorem hwSet_plans (r : Reg) (b : Nat) : (hwSet r b d).plans = d.plans := rfl
@[simp] theorem hwSet_contexts (r : Reg) (b : Nat) : (hwSet r b d).contexts = d.contexts := rfl
@[simp] theorem hwSet_ctxOrder (r : Reg) (b : Nat) : (hwSet r b d).ctxOrder = d.ctxOrder := rfl
@[simp] theorem hwSet_slots (r : Reg) (b : Nat) : (hwSet r b d).slots = d.slots := rfl
@[simp] theorem hwSet_streams (r : Reg) (b : Nat) : (hwSet r b d).streams = d.streams := rfl
@[simp] theorem hwSet_ports (r : Reg) (b : Nat) : (hwSet r b d).ports = d.ports := rfl
@[simp] theorem hwSet_sched (r : Reg) (b : Nat) : (hwSet r b d).sched = d.sched := rfl
@[simp] theorem hwSet_cores (r : Reg) (b : Nat) : (hwSet r b d).cores = d.cores := rfl
@[simp] theorem hwSet_memctl (r : Reg) (b : Nat) : (hwSet r b d).memctl = d.memctl := rfl
@[simp] theorem hwSet_cal (r : Reg) (b : Nat) : (hwSet r b d).cal = d.cal := rfl
@[simp] theorem hwSet_watch (r : Reg) (b : Nat) : (hwSet r b d).watch = d.watch := rfl
@[simp] theorem hwSet_gnt (r : Reg) (b : Nat) : (hwSet r b d).gnt = d.gnt := rfl
@[simp] theorem hwSet_geyser (r : Reg) (b : Nat) : (hwSet r b d).geyser = d.geyser := rfl
@[simp] theorem hwSet_pace (r : Reg) (b : Nat) : (hwSet r b d).pace = d.pace := rfl
@[simp] theorem hwSet_fabric (r : Reg) (b : Nat) : (hwSet r b d).fabric = d.fabric := rfl
@[simp] theorem hwSet_start (r : Reg) (b : Nat) : (hwSet r b d).start = d.start := rfl
@[simp] theorem hwSet_board (r : Reg) (b : Nat) : (hwSet r b d).board = d.board := rfl
@[simp] theorem hwSet_mesh (r : Reg) (b : Nat) : (hwSet r b d).mesh = d.mesh := rfl
@[simp] theorem hwSet_free (r : Reg) (b : Nat) : (hwSet r b d).free = d.free := rfl
@[simp] theorem raiseAttn_front (a b : Nat) (l : List Byte) : (raiseAttn a b l d).front = d.front := rfl
@[simp] theorem raiseAttn_queues (a b : Nat) (l : List Byte) : (raiseAttn a b l d).queues = d.queues := rfl
@[simp] theorem raiseAttn_sessions (a b : Nat) (l : List Byte) : (raiseAttn a b l d).sessions = d.sessions := rfl
@[simp] theorem raiseAttn_accepted (a b : Nat) (l : List Byte) : (raiseAttn a b l d).accepted = d.accepted := rfl
@[simp] theorem raiseAttn_bonnet (a b : Nat) (l : List Byte) : (raiseAttn a b l d).bonnet = d.bonnet := rfl
@[simp] theorem raiseAttn_plans (a b : Nat) (l : List Byte) : (raiseAttn a b l d).plans = d.plans := rfl
@[simp] theorem raiseAttn_contexts (a b : Nat) (l : List Byte) : (raiseAttn a b l d).contexts = d.contexts := rfl
@[simp] theorem raiseAttn_ctxOrder (a b : Nat) (l : List Byte) : (raiseAttn a b l d).ctxOrder = d.ctxOrder := rfl
@[simp] theorem raiseAttn_slots (a b : Nat) (l : List Byte) : (raiseAttn a b l d).slots = d.slots := rfl
@[simp] theorem raiseAttn_streams (a b : Nat) (l : List Byte) : (raiseAttn a b l d).streams = d.streams := rfl
@[simp] theorem raiseAttn_ports (a b : Nat) (l : List Byte) : (raiseAttn a b l d).ports = d.ports := rfl
@[simp] theorem raiseAttn_sched (a b : Nat) (l : List Byte) : (raiseAttn a b l d).sched = d.sched := rfl
@[simp] theorem raiseAttn_cores (a b : Nat) (l : List Byte) : (raiseAttn a b l d).cores = d.cores := rfl
@[simp] theorem raiseAttn_memctl (a b : Nat) (l : List Byte) : (raiseAttn a b l d).memctl = d.memctl := rfl
@[simp] theorem raiseAttn_cal (a b : Nat) (l : List Byte) : (raiseAttn a b l d).cal = d.cal := rfl
@[simp] theorem raiseAttn_watch (a b : Nat) (l : List Byte) : (raiseAttn a b l d).watch = d.watch := rfl
@[simp] theorem raiseAttn_gnt (a b : Nat) (l : List Byte) : (raiseAttn a b l d).gnt = d.gnt := rfl
@[simp] theorem raiseAttn_geyser (a b : Nat) (l : List Byte) : (raiseAttn a b l d).geyser = d.geyser := rfl
@[simp] theorem raiseAttn_pace (a b : Nat) (l : List Byte) : (raiseAttn a b l d).pace = d.pace := rfl
@[simp] theorem raiseAttn_fabric (a b : Nat) (l : List Byte) : (raiseAttn a b l d).fabric = d.fabric := rfl
@[simp] theorem raiseAttn_start (a b : Nat) (l : List Byte) : (raiseAttn a b l d).start = d.start := rfl
@[simp] theorem raiseAttn_board (a b : Nat) (l : List Byte) : (raiseAttn a b l d).board = d.board := rfl
@[simp] theorem raiseAttn_free (a b : Nat) (l : List Byte) : (raiseAttn a b l d).free = d.free := rfl
@[simp] theorem raiseAttn_mesh (a b : Nat) (l : List Byte) : (raiseAttn a b l d).mesh = d.mesh := rfl
@[simp] theorem raiseAttn_hwSets (a b : Nat) (l : List Byte) : (raiseAttn a b l d).hwSets = d.hwSets := rfl
@[simp] theorem raiseAttn_hwAt (a b : Nat) (l : List Byte) : (raiseAttn a b l d).hwAt = d.hwAt := rfl
@[simp] theorem setCtx_front (c : W32) (x : Context) : (setCtx c x d).front = d.front := rfl
@[simp] theorem setCtx_queues (c : W32) (x : Context) : (setCtx c x d).queues = d.queues := rfl
@[simp] theorem setCtx_sessions (c : W32) (x : Context) : (setCtx c x d).sessions = d.sessions := rfl
@[simp] theorem setCtx_accepted (c : W32) (x : Context) : (setCtx c x d).accepted = d.accepted := rfl
@[simp] theorem setCtx_attn (c : W32) (x : Context) : (setCtx c x d).attn = d.attn := rfl
@[simp] theorem setCtx_bonnet (c : W32) (x : Context) : (setCtx c x d).bonnet = d.bonnet := rfl
@[simp] theorem setCtx_plans (c : W32) (x : Context) : (setCtx c x d).plans = d.plans := rfl
@[simp] theorem setCtx_contexts (c : W32) (x : Context) : (setCtx c x d).contexts = kput d.contexts c.toNat x := rfl
@[simp] theorem setCtx_ctxOrder (c : W32) (x : Context) : (setCtx c x d).ctxOrder = d.ctxOrder := rfl
@[simp] theorem setCtx_slots (c : W32) (x : Context) : (setCtx c x d).slots = d.slots := rfl
@[simp] theorem setCtx_streams (c : W32) (x : Context) : (setCtx c x d).streams = d.streams := rfl
@[simp] theorem setCtx_ports (c : W32) (x : Context) : (setCtx c x d).ports = d.ports := rfl
@[simp] theorem setCtx_sched (c : W32) (x : Context) : (setCtx c x d).sched = d.sched := rfl
@[simp] theorem setCtx_cores (c : W32) (x : Context) : (setCtx c x d).cores = d.cores := rfl
@[simp] theorem setCtx_memctl (c : W32) (x : Context) : (setCtx c x d).memctl = d.memctl := rfl
@[simp] theorem setCtx_cal (c : W32) (x : Context) : (setCtx c x d).cal = d.cal := rfl
@[simp] theorem setCtx_watch (c : W32) (x : Context) : (setCtx c x d).watch = d.watch := rfl
@[simp] theorem setCtx_gnt (c : W32) (x : Context) : (setCtx c x d).gnt = d.gnt := rfl
@[simp] theorem setCtx_geyser (c : W32) (x : Context) : (setCtx c x d).geyser = d.geyser := rfl
@[simp] theorem setCtx_pace (c : W32) (x : Context) : (setCtx c x d).pace = d.pace := rfl
@[simp] theorem setCtx_fabric (c : W32) (x : Context) : (setCtx c x d).fabric = d.fabric := rfl
@[simp] theorem setCtx_start (c : W32) (x : Context) : (setCtx c x d).start = d.start := rfl
@[simp] theorem setCtx_board (c : W32) (x : Context) : (setCtx c x d).board = d.board := rfl
@[simp] theorem setCtx_free (c : W32) (x : Context) : (setCtx c x d).free = d.free := rfl
@[simp] theorem setCtx_mesh (c : W32) (x : Context) : (setCtx c x d).mesh = d.mesh := rfl
@[simp] theorem setCtx_hwSets (c : W32) (x : Context) : (setCtx c x d).hwSets = d.hwSets := rfl
@[simp] theorem setCtx_hwAt (c : W32) (x : Context) : (setCtx c x d).hwAt = d.hwAt := rfl
@[simp] theorem modCtx_front (c : W32) (f : Context → Context) : (modCtx c f d).front = d.front := rfl
@[simp] theorem modCtx_queues (c : W32) (f : Context → Context) : (modCtx c f d).queues = d.queues := rfl
@[simp] theorem modCtx_sessions (c : W32) (f : Context → Context) : (modCtx c f d).sessions = d.sessions := rfl
@[simp] theorem modCtx_accepted (c : W32) (f : Context → Context) : (modCtx c f d).accepted = d.accepted := rfl
@[simp] theorem modCtx_attn (c : W32) (f : Context → Context) : (modCtx c f d).attn = d.attn := rfl
@[simp] theorem modCtx_bonnet (c : W32) (f : Context → Context) : (modCtx c f d).bonnet = d.bonnet := rfl
@[simp] theorem modCtx_plans (c : W32) (f : Context → Context) : (modCtx c f d).plans = d.plans := rfl
@[simp] theorem modCtx_contexts (c : W32) (f : Context → Context) : (modCtx c f d).contexts = kput d.contexts c.toNat (f (ctxOf d c)) := rfl
@[simp] theorem modCtx_ctxOrder (c : W32) (f : Context → Context) : (modCtx c f d).ctxOrder = d.ctxOrder := rfl
@[simp] theorem modCtx_slots (c : W32) (f : Context → Context) : (modCtx c f d).slots = d.slots := rfl
@[simp] theorem modCtx_streams (c : W32) (f : Context → Context) : (modCtx c f d).streams = d.streams := rfl
@[simp] theorem modCtx_ports (c : W32) (f : Context → Context) : (modCtx c f d).ports = d.ports := rfl
@[simp] theorem modCtx_sched (c : W32) (f : Context → Context) : (modCtx c f d).sched = d.sched := rfl
@[simp] theorem modCtx_cores (c : W32) (f : Context → Context) : (modCtx c f d).cores = d.cores := rfl
@[simp] theorem modCtx_memctl (c : W32) (f : Context → Context) : (modCtx c f d).memctl = d.memctl := rfl
@[simp] theorem modCtx_cal (c : W32) (f : Context → Context) : (modCtx c f d).cal = d.cal := rfl
@[simp] theorem modCtx_watch (c : W32) (f : Context → Context) : (modCtx c f d).watch = d.watch := rfl
@[simp] theorem modCtx_gnt (c : W32) (f : Context → Context) : (modCtx c f d).gnt = d.gnt := rfl
@[simp] theorem modCtx_geyser (c : W32) (f : Context → Context) : (modCtx c f d).geyser = d.geyser := rfl
@[simp] theorem modCtx_pace (c : W32) (f : Context → Context) : (modCtx c f d).pace = d.pace := rfl
@[simp] theorem modCtx_fabric (c : W32) (f : Context → Context) : (modCtx c f d).fabric = d.fabric := rfl
@[simp] theorem modCtx_start (c : W32) (f : Context → Context) : (modCtx c f d).start = d.start := rfl
@[simp] theorem modCtx_board (c : W32) (f : Context → Context) : (modCtx c f d).board = d.board := rfl
@[simp] theorem modCtx_free (c : W32) (f : Context → Context) : (modCtx c f d).free = d.free := rfl
@[simp] theorem modCtx_mesh (c : W32) (f : Context → Context) : (modCtx c f d).mesh = d.mesh := rfl
@[simp] theorem modCtx_hwSets (c : W32) (f : Context → Context) : (modCtx c f d).hwSets = d.hwSets := rfl
@[simp] theorem modCtx_hwAt (c : W32) (f : Context → Context) : (modCtx c f d).hwAt = d.hwAt := rfl
@[simp] theorem setQueue_front (q : Nat) (x : Queue) : (setQueue q x d).front = d.front := rfl
@[simp] theorem setQueue_queues (q : Nat) (x : Queue) : (setQueue q x d).queues = { d.queues with table := kput d.queues.table q x } := rfl
@[simp] theorem setQueue_sessions (q : Nat) (x : Queue) : (setQueue q x d).sessions = d.sessions := rfl
@[simp] theorem setQueue_accepted (q : Nat) (x : Queue) : (setQueue q x d).accepted = d.accepted := rfl
@[simp] theorem setQueue_attn (q : Nat) (x : Queue) : (setQueue q x d).attn = d.attn := rfl
@[simp] theorem setQueue_bonnet (q : Nat) (x : Queue) : (setQueue q x d).bonnet = d.bonnet := rfl
@[simp] theorem setQueue_plans (q : Nat) (x : Queue) : (setQueue q x d).plans = d.plans := rfl
@[simp] theorem setQueue_contexts (q : Nat) (x : Queue) : (setQueue q x d).contexts = d.contexts := rfl
@[simp] theorem setQueue_ctxOrder (q : Nat) (x : Queue) : (setQueue q x d).ctxOrder = d.ctxOrder := rfl
@[simp] theorem setQueue_slots (q : Nat) (x : Queue) : (setQueue q x d).slots = d.slots := rfl
@[simp] theorem setQueue_streams (q : Nat) (x : Queue) : (setQueue q x d).streams = d.streams := rfl
@[simp] theorem setQueue_ports (q : Nat) (x : Queue) : (setQueue q x d).ports = d.ports := rfl
@[simp] theorem setQueue_sched (q : Nat) (x : Queue) : (setQueue q x d).sched = d.sched := rfl
@[simp] theorem setQueue_cores (q : Nat) (x : Queue) : (setQueue q x d).cores = d.cores := rfl
@[simp] theorem setQueue_memctl (q : Nat) (x : Queue) : (setQueue q x d).memctl = d.memctl := rfl
@[simp] theorem setQueue_cal (q : Nat) (x : Queue) : (setQueue q x d).cal = d.cal := rfl
@[simp] theorem setQueue_watch (q : Nat) (x : Queue) : (setQueue q x d).watch = d.watch := rfl
@[simp] theorem setQueue_gnt (q : Nat) (x : Queue) : (setQueue q x d).gnt = d.gnt := rfl
@[simp] theorem setQueue_geyser (q : Nat) (x : Queue) : (setQueue q x d).geyser = d.geyser := rfl
@[simp] theorem setQueue_pace (q : Nat) (x : Queue) : (setQueue q x d).pace = d.pace := rfl
@[simp] theorem setQueue_fabric (q : Nat) (x : Queue) : (setQueue q x d).fabric = d.fabric := rfl
@[simp] theorem setQueue_start (q : Nat) (x : Queue) : (setQueue q x d).start = d.start := rfl
@[simp] theorem setQueue_board (q : Nat) (x : Queue) : (setQueue q x d).board = d.board := rfl
@[simp] theorem setQueue_free (q : Nat) (x : Queue) : (setQueue q x d).free = d.free := rfl
@[simp] theorem setQueue_mesh (q : Nat) (x : Queue) : (setQueue q x d).mesh = d.mesh := rfl
@[simp] theorem setQueue_hwSets (q : Nat) (x : Queue) : (setQueue q x d).hwSets = d.hwSets := rfl
@[simp] theorem setQueue_hwAt (q : Nat) (x : Queue) : (setQueue q x d).hwAt = d.hwAt := rfl
@[simp] theorem modQueue_front (q : Nat) (f : Queue → Queue) : (modQueue q f d).front = d.front := rfl
@[simp] theorem modQueue_queues (q : Nat) (f : Queue → Queue) : (modQueue q f d).queues = { d.queues with table := kput d.queues.table q (f (queueOf d q)) } := rfl
@[simp] theorem modQueue_sessions (q : Nat) (f : Queue → Queue) : (modQueue q f d).sessions = d.sessions := rfl
@[simp] theorem modQueue_accepted (q : Nat) (f : Queue → Queue) : (modQueue q f d).accepted = d.accepted := rfl
@[simp] theorem modQueue_attn (q : Nat) (f : Queue → Queue) : (modQueue q f d).attn = d.attn := rfl
@[simp] theorem modQueue_bonnet (q : Nat) (f : Queue → Queue) : (modQueue q f d).bonnet = d.bonnet := rfl
@[simp] theorem modQueue_plans (q : Nat) (f : Queue → Queue) : (modQueue q f d).plans = d.plans := rfl
@[simp] theorem modQueue_contexts (q : Nat) (f : Queue → Queue) : (modQueue q f d).contexts = d.contexts := rfl
@[simp] theorem modQueue_ctxOrder (q : Nat) (f : Queue → Queue) : (modQueue q f d).ctxOrder = d.ctxOrder := rfl
@[simp] theorem modQueue_slots (q : Nat) (f : Queue → Queue) : (modQueue q f d).slots = d.slots := rfl
@[simp] theorem modQueue_streams (q : Nat) (f : Queue → Queue) : (modQueue q f d).streams = d.streams := rfl
@[simp] theorem modQueue_ports (q : Nat) (f : Queue → Queue) : (modQueue q f d).ports = d.ports := rfl
@[simp] theorem modQueue_sched (q : Nat) (f : Queue → Queue) : (modQueue q f d).sched = d.sched := rfl
@[simp] theorem modQueue_cores (q : Nat) (f : Queue → Queue) : (modQueue q f d).cores = d.cores := rfl
@[simp] theorem modQueue_memctl (q : Nat) (f : Queue → Queue) : (modQueue q f d).memctl = d.memctl := rfl
@[simp] theorem modQueue_cal (q : Nat) (f : Queue → Queue) : (modQueue q f d).cal = d.cal := rfl
@[simp] theorem modQueue_watch (q : Nat) (f : Queue → Queue) : (modQueue q f d).watch = d.watch := rfl
@[simp] theorem modQueue_gnt (q : Nat) (f : Queue → Queue) : (modQueue q f d).gnt = d.gnt := rfl
@[simp] theorem modQueue_geyser (q : Nat) (f : Queue → Queue) : (modQueue q f d).geyser = d.geyser := rfl
@[simp] theorem modQueue_pace (q : Nat) (f : Queue → Queue) : (modQueue q f d).pace = d.pace := rfl
@[simp] theorem modQueue_fabric (q : Nat) (f : Queue → Queue) : (modQueue q f d).fabric = d.fabric := rfl
@[simp] theorem modQueue_start (q : Nat) (f : Queue → Queue) : (modQueue q f d).start = d.start := rfl
@[simp] theorem modQueue_board (q : Nat) (f : Queue → Queue) : (modQueue q f d).board = d.board := rfl
@[simp] theorem modQueue_free (q : Nat) (f : Queue → Queue) : (modQueue q f d).free = d.free := rfl
@[simp] theorem modQueue_mesh (q : Nat) (f : Queue → Queue) : (modQueue q f d).mesh = d.mesh := rfl
@[simp] theorem modQueue_hwSets (q : Nat) (f : Queue → Queue) : (modQueue q f d).hwSets = d.hwSets := rfl
@[simp] theorem modQueue_hwAt (q : Nat) (f : Queue → Queue) : (modQueue q f d).hwAt = d.hwAt := rfl
@[simp] theorem dropQueue_front (q : Nat) : (dropQueue q d).front = d.front := rfl
@[simp] theorem dropQueue_queues (q : Nat) : (dropQueue q d).queues = { d.queues with table := kdel d.queues.table q } := rfl
@[simp] theorem dropQueue_sessions (q : Nat) : (dropQueue q d).sessions = d.sessions := rfl
@[simp] theorem dropQueue_accepted (q : Nat) : (dropQueue q d).accepted = d.accepted := rfl
@[simp] theorem dropQueue_attn (q : Nat) : (dropQueue q d).attn = d.attn := rfl
@[simp] theorem dropQueue_bonnet (q : Nat) : (dropQueue q d).bonnet = d.bonnet := rfl
@[simp] theorem dropQueue_plans (q : Nat) : (dropQueue q d).plans = d.plans := rfl
@[simp] theorem dropQueue_contexts (q : Nat) : (dropQueue q d).contexts = d.contexts := rfl
@[simp] theorem dropQueue_ctxOrder (q : Nat) : (dropQueue q d).ctxOrder = d.ctxOrder := rfl
@[simp] theorem dropQueue_slots (q : Nat) : (dropQueue q d).slots = d.slots := rfl
@[simp] theorem dropQueue_streams (q : Nat) : (dropQueue q d).streams = d.streams := rfl
@[simp] theorem dropQueue_ports (q : Nat) : (dropQueue q d).ports = d.ports := rfl
@[simp] theorem dropQueue_sched (q : Nat) : (dropQueue q d).sched = d.sched := rfl
@[simp] theorem dropQueue_cores (q : Nat) : (dropQueue q d).cores = d.cores := rfl
@[simp] theorem dropQueue_memctl (q : Nat) : (dropQueue q d).memctl = d.memctl := rfl
@[simp] theorem dropQueue_cal (q : Nat) : (dropQueue q d).cal = d.cal := rfl
@[simp] theorem dropQueue_watch (q : Nat) : (dropQueue q d).watch = d.watch := rfl
@[simp] theorem dropQueue_gnt (q : Nat) : (dropQueue q d).gnt = d.gnt := rfl
@[simp] theorem dropQueue_geyser (q : Nat) : (dropQueue q d).geyser = d.geyser := rfl
@[simp] theorem dropQueue_pace (q : Nat) : (dropQueue q d).pace = d.pace := rfl
@[simp] theorem dropQueue_fabric (q : Nat) : (dropQueue q d).fabric = d.fabric := rfl
@[simp] theorem dropQueue_start (q : Nat) : (dropQueue q d).start = d.start := rfl
@[simp] theorem dropQueue_board (q : Nat) : (dropQueue q d).board = d.board := rfl
@[simp] theorem dropQueue_free (q : Nat) : (dropQueue q d).free = d.free := rfl
@[simp] theorem dropQueue_mesh (q : Nat) : (dropQueue q d).mesh = d.mesh := rfl
@[simp] theorem dropQueue_hwSets (q : Nat) : (dropQueue q d).hwSets = d.hwSets := rfl
@[simp] theorem dropQueue_hwAt (q : Nat) : (dropQueue q d).hwAt = d.hwAt := rfl
@[simp] theorem setSess_front (n : Nat) (x : Session) : (setSess n x d).front = d.front := rfl
@[simp] theorem setSess_queues (n : Nat) (x : Session) : (setSess n x d).queues = d.queues := rfl
@[simp] theorem setSess_sessions (n : Nat) (x : Session) : (setSess n x d).sessions = kput d.sessions n x := rfl
@[simp] theorem setSess_accepted (n : Nat) (x : Session) : (setSess n x d).accepted = d.accepted := rfl
@[simp] theorem setSess_attn (n : Nat) (x : Session) : (setSess n x d).attn = d.attn := rfl
@[simp] theorem setSess_bonnet (n : Nat) (x : Session) : (setSess n x d).bonnet = d.bonnet := rfl
@[simp] theorem setSess_plans (n : Nat) (x : Session) : (setSess n x d).plans = d.plans := rfl
@[simp] theorem setSess_contexts (n : Nat) (x : Session) : (setSess n x d).contexts = d.contexts := rfl
@[simp] theorem setSess_ctxOrder (n : Nat) (x : Session) : (setSess n x d).ctxOrder = d.ctxOrder := rfl
@[simp] theorem setSess_slots (n : Nat) (x : Session) : (setSess n x d).slots = d.slots := rfl
@[simp] theorem setSess_streams (n : Nat) (x : Session) : (setSess n x d).streams = d.streams := rfl
@[simp] theorem setSess_ports (n : Nat) (x : Session) : (setSess n x d).ports = d.ports := rfl
@[simp] theorem setSess_sched (n : Nat) (x : Session) : (setSess n x d).sched = d.sched := rfl
@[simp] theorem setSess_cores (n : Nat) (x : Session) : (setSess n x d).cores = d.cores := rfl
@[simp] theorem setSess_memctl (n : Nat) (x : Session) : (setSess n x d).memctl = d.memctl := rfl
@[simp] theorem setSess_cal (n : Nat) (x : Session) : (setSess n x d).cal = d.cal := rfl
@[simp] theorem setSess_watch (n : Nat) (x : Session) : (setSess n x d).watch = d.watch := rfl
@[simp] theorem setSess_gnt (n : Nat) (x : Session) : (setSess n x d).gnt = d.gnt := rfl
@[simp] theorem setSess_geyser (n : Nat) (x : Session) : (setSess n x d).geyser = d.geyser := rfl
@[simp] theorem setSess_pace (n : Nat) (x : Session) : (setSess n x d).pace = d.pace := rfl
@[simp] theorem setSess_fabric (n : Nat) (x : Session) : (setSess n x d).fabric = d.fabric := rfl
@[simp] theorem setSess_start (n : Nat) (x : Session) : (setSess n x d).start = d.start := rfl
@[simp] theorem setSess_board (n : Nat) (x : Session) : (setSess n x d).board = d.board := rfl
@[simp] theorem setSess_free (n : Nat) (x : Session) : (setSess n x d).free = d.free := rfl
@[simp] theorem setSess_mesh (n : Nat) (x : Session) : (setSess n x d).mesh = d.mesh := rfl
@[simp] theorem setSess_hwSets (n : Nat) (x : Session) : (setSess n x d).hwSets = d.hwSets := rfl
@[simp] theorem setSess_hwAt (n : Nat) (x : Session) : (setSess n x d).hwAt = d.hwAt := rfl
@[simp] theorem modSess_front (n : Nat) (f : Session → Session) : (modSess n f d).front = d.front := rfl
@[simp] theorem modSess_queues (n : Nat) (f : Session → Session) : (modSess n f d).queues = d.queues := rfl
@[simp] theorem modSess_sessions (n : Nat) (f : Session → Session) : (modSess n f d).sessions = kput d.sessions n (f (sessOf d n)) := rfl
@[simp] theorem modSess_accepted (n : Nat) (f : Session → Session) : (modSess n f d).accepted = d.accepted := rfl
@[simp] theorem modSess_attn (n : Nat) (f : Session → Session) : (modSess n f d).attn = d.attn := rfl
@[simp] theorem modSess_bonnet (n : Nat) (f : Session → Session) : (modSess n f d).bonnet = d.bonnet := rfl
@[simp] theorem modSess_plans (n : Nat) (f : Session → Session) : (modSess n f d).plans = d.plans := rfl
@[simp] theorem modSess_contexts (n : Nat) (f : Session → Session) : (modSess n f d).contexts = d.contexts := rfl
@[simp] theorem modSess_ctxOrder (n : Nat) (f : Session → Session) : (modSess n f d).ctxOrder = d.ctxOrder := rfl
@[simp] theorem modSess_slots (n : Nat) (f : Session → Session) : (modSess n f d).slots = d.slots := rfl
@[simp] theorem modSess_streams (n : Nat) (f : Session → Session) : (modSess n f d).streams = d.streams := rfl
@[simp] theorem modSess_ports (n : Nat) (f : Session → Session) : (modSess n f d).ports = d.ports := rfl
@[simp] theorem modSess_sched (n : Nat) (f : Session → Session) : (modSess n f d).sched = d.sched := rfl
@[simp] theorem modSess_cores (n : Nat) (f : Session → Session) : (modSess n f d).cores = d.cores := rfl
@[simp] theorem modSess_memctl (n : Nat) (f : Session → Session) : (modSess n f d).memctl = d.memctl := rfl
@[simp] theorem modSess_cal (n : Nat) (f : Session → Session) : (modSess n f d).cal = d.cal := rfl
@[simp] theorem modSess_watch (n : Nat) (f : Session → Session) : (modSess n f d).watch = d.watch := rfl
@[simp] theorem modSess_gnt (n : Nat) (f : Session → Session) : (modSess n f d).gnt = d.gnt := rfl
@[simp] theorem modSess_geyser (n : Nat) (f : Session → Session) : (modSess n f d).geyser = d.geyser := rfl
@[simp] theorem modSess_pace (n : Nat) (f : Session → Session) : (modSess n f d).pace = d.pace := rfl
@[simp] theorem modSess_fabric (n : Nat) (f : Session → Session) : (modSess n f d).fabric = d.fabric := rfl
@[simp] theorem modSess_start (n : Nat) (f : Session → Session) : (modSess n f d).start = d.start := rfl
@[simp] theorem modSess_board (n : Nat) (f : Session → Session) : (modSess n f d).board = d.board := rfl
@[simp] theorem modSess_free (n : Nat) (f : Session → Session) : (modSess n f d).free = d.free := rfl
@[simp] theorem modSess_mesh (n : Nat) (f : Session → Session) : (modSess n f d).mesh = d.mesh := rfl
@[simp] theorem modSess_hwSets (n : Nat) (f : Session → Session) : (modSess n f d).hwSets = d.hwSets := rfl
@[simp] theorem modSess_hwAt (n : Nat) (f : Session → Session) : (modSess n f d).hwAt = d.hwAt := rfl
@[simp] theorem modSlot_front (n : Nat) (f : Slot → Slot) : (modSlot n f d).front = d.front := rfl
@[simp] theorem modSlot_queues (n : Nat) (f : Slot → Slot) : (modSlot n f d).queues = d.queues := rfl
@[simp] theorem modSlot_sessions (n : Nat) (f : Slot → Slot) : (modSlot n f d).sessions = d.sessions := rfl
@[simp] theorem modSlot_accepted (n : Nat) (f : Slot → Slot) : (modSlot n f d).accepted = d.accepted := rfl
@[simp] theorem modSlot_attn (n : Nat) (f : Slot → Slot) : (modSlot n f d).attn = d.attn := rfl
@[simp] theorem modSlot_bonnet (n : Nat) (f : Slot → Slot) : (modSlot n f d).bonnet = d.bonnet := rfl
@[simp] theorem modSlot_plans (n : Nat) (f : Slot → Slot) : (modSlot n f d).plans = d.plans := rfl
@[simp] theorem modSlot_contexts (n : Nat) (f : Slot → Slot) : (modSlot n f d).contexts = d.contexts := rfl
@[simp] theorem modSlot_ctxOrder (n : Nat) (f : Slot → Slot) : (modSlot n f d).ctxOrder = d.ctxOrder := rfl
@[simp] theorem modSlot_slots (n : Nat) (f : Slot → Slot) : (modSlot n f d).slots = kput d.slots n (f (slotOf d n)) := rfl
@[simp] theorem modSlot_streams (n : Nat) (f : Slot → Slot) : (modSlot n f d).streams = d.streams := rfl
@[simp] theorem modSlot_ports (n : Nat) (f : Slot → Slot) : (modSlot n f d).ports = d.ports := rfl
@[simp] theorem modSlot_sched (n : Nat) (f : Slot → Slot) : (modSlot n f d).sched = d.sched := rfl
@[simp] theorem modSlot_cores (n : Nat) (f : Slot → Slot) : (modSlot n f d).cores = d.cores := rfl
@[simp] theorem modSlot_memctl (n : Nat) (f : Slot → Slot) : (modSlot n f d).memctl = d.memctl := rfl
@[simp] theorem modSlot_cal (n : Nat) (f : Slot → Slot) : (modSlot n f d).cal = d.cal := rfl
@[simp] theorem modSlot_watch (n : Nat) (f : Slot → Slot) : (modSlot n f d).watch = d.watch := rfl
@[simp] theorem modSlot_gnt (n : Nat) (f : Slot → Slot) : (modSlot n f d).gnt = d.gnt := rfl
@[simp] theorem modSlot_geyser (n : Nat) (f : Slot → Slot) : (modSlot n f d).geyser = d.geyser := rfl
@[simp] theorem modSlot_pace (n : Nat) (f : Slot → Slot) : (modSlot n f d).pace = d.pace := rfl
@[simp] theorem modSlot_fabric (n : Nat) (f : Slot → Slot) : (modSlot n f d).fabric = d.fabric := rfl
@[simp] theorem modSlot_start (n : Nat) (f : Slot → Slot) : (modSlot n f d).start = d.start := rfl
@[simp] theorem modSlot_board (n : Nat) (f : Slot → Slot) : (modSlot n f d).board = d.board := rfl
@[simp] theorem modSlot_free (n : Nat) (f : Slot → Slot) : (modSlot n f d).free = d.free := rfl
@[simp] theorem modSlot_mesh (n : Nat) (f : Slot → Slot) : (modSlot n f d).mesh = d.mesh := rfl
@[simp] theorem modSlot_hwSets (n : Nat) (f : Slot → Slot) : (modSlot n f d).hwSets = d.hwSets := rfl
@[simp] theorem modSlot_hwAt (n : Nat) (f : Slot → Slot) : (modSlot n f d).hwAt = d.hwAt := rfl
@[simp] theorem modPort_front (n : Nat) (f : Port → Port) : (modPort n f d).front = d.front := rfl
@[simp] theorem modPort_queues (n : Nat) (f : Port → Port) : (modPort n f d).queues = d.queues := rfl
@[simp] theorem modPort_sessions (n : Nat) (f : Port → Port) : (modPort n f d).sessions = d.sessions := rfl
@[simp] theorem modPort_accepted (n : Nat) (f : Port → Port) : (modPort n f d).accepted = d.accepted := rfl
@[simp] theorem modPort_attn (n : Nat) (f : Port → Port) : (modPort n f d).attn = d.attn := rfl
@[simp] theorem modPort_bonnet (n : Nat) (f : Port → Port) : (modPort n f d).bonnet = d.bonnet := rfl
@[simp] theorem modPort_plans (n : Nat) (f : Port → Port) : (modPort n f d).plans = d.plans := rfl
@[simp] theorem modPort_contexts (n : Nat) (f : Port → Port) : (modPort n f d).contexts = d.contexts := rfl
@[simp] theorem modPort_ctxOrder (n : Nat) (f : Port → Port) : (modPort n f d).ctxOrder = d.ctxOrder := rfl
@[simp] theorem modPort_slots (n : Nat) (f : Port → Port) : (modPort n f d).slots = d.slots := rfl
@[simp] theorem modPort_streams (n : Nat) (f : Port → Port) : (modPort n f d).streams = d.streams := rfl
@[simp] theorem modPort_ports (n : Nat) (f : Port → Port) : (modPort n f d).ports = kput d.ports n (f (portOf d n)) := rfl
@[simp] theorem modPort_sched (n : Nat) (f : Port → Port) : (modPort n f d).sched = d.sched := rfl
@[simp] theorem modPort_cores (n : Nat) (f : Port → Port) : (modPort n f d).cores = d.cores := rfl
@[simp] theorem modPort_memctl (n : Nat) (f : Port → Port) : (modPort n f d).memctl = d.memctl := rfl
@[simp] theorem modPort_cal (n : Nat) (f : Port → Port) : (modPort n f d).cal = d.cal := rfl
@[simp] theorem modPort_watch (n : Nat) (f : Port → Port) : (modPort n f d).watch = d.watch := rfl
@[simp] theorem modPort_gnt (n : Nat) (f : Port → Port) : (modPort n f d).gnt = d.gnt := rfl
@[simp] theorem modPort_geyser (n : Nat) (f : Port → Port) : (modPort n f d).geyser = d.geyser := rfl
@[simp] theorem modPort_pace (n : Nat) (f : Port → Port) : (modPort n f d).pace = d.pace := rfl
@[simp] theorem modPort_fabric (n : Nat) (f : Port → Port) : (modPort n f d).fabric = d.fabric := rfl
@[simp] theorem modPort_start (n : Nat) (f : Port → Port) : (modPort n f d).start = d.start := rfl
@[simp] theorem modPort_board (n : Nat) (f : Port → Port) : (modPort n f d).board = d.board := rfl
@[simp] theorem modPort_free (n : Nat) (f : Port → Port) : (modPort n f d).free = d.free := rfl
@[simp] theorem modPort_mesh (n : Nat) (f : Port → Port) : (modPort n f d).mesh = d.mesh := rfl
@[simp] theorem modPort_hwSets (n : Nat) (f : Port → Port) : (modPort n f d).hwSets = d.hwSets := rfl
@[simp] theorem modPort_hwAt (n : Nat) (f : Port → Port) : (modPort n f d).hwAt = d.hwAt := rfl
@[simp] theorem setStream_front (n : Nat) (x : Stream) : (setStream n x d).front = d.front := rfl
@[simp] theorem setStream_queues (n : Nat) (x : Stream) : (setStream n x d).queues = d.queues := rfl
@[simp] theorem setStream_sessions (n : Nat) (x : Stream) : (setStream n x d).sessions = d.sessions := rfl
@[simp] theorem setStream_accepted (n : Nat) (x : Stream) : (setStream n x d).accepted = d.accepted := rfl
@[simp] theorem setStream_attn (n : Nat) (x : Stream) : (setStream n x d).attn = d.attn := rfl
@[simp] theorem setStream_bonnet (n : Nat) (x : Stream) : (setStream n x d).bonnet = d.bonnet := rfl
@[simp] theorem setStream_plans (n : Nat) (x : Stream) : (setStream n x d).plans = d.plans := rfl
@[simp] theorem setStream_contexts (n : Nat) (x : Stream) : (setStream n x d).contexts = d.contexts := rfl
@[simp] theorem setStream_ctxOrder (n : Nat) (x : Stream) : (setStream n x d).ctxOrder = d.ctxOrder := rfl
@[simp] theorem setStream_slots (n : Nat) (x : Stream) : (setStream n x d).slots = d.slots := rfl
@[simp] theorem setStream_streams (n : Nat) (x : Stream) : (setStream n x d).streams = kput d.streams n x := rfl
@[simp] theorem setStream_ports (n : Nat) (x : Stream) : (setStream n x d).ports = d.ports := rfl
@[simp] theorem setStream_sched (n : Nat) (x : Stream) : (setStream n x d).sched = d.sched := rfl
@[simp] theorem setStream_cores (n : Nat) (x : Stream) : (setStream n x d).cores = d.cores := rfl
@[simp] theorem setStream_memctl (n : Nat) (x : Stream) : (setStream n x d).memctl = d.memctl := rfl
@[simp] theorem setStream_cal (n : Nat) (x : Stream) : (setStream n x d).cal = d.cal := rfl
@[simp] theorem setStream_watch (n : Nat) (x : Stream) : (setStream n x d).watch = d.watch := rfl
@[simp] theorem setStream_gnt (n : Nat) (x : Stream) : (setStream n x d).gnt = d.gnt := rfl
@[simp] theorem setStream_geyser (n : Nat) (x : Stream) : (setStream n x d).geyser = d.geyser := rfl
@[simp] theorem setStream_pace (n : Nat) (x : Stream) : (setStream n x d).pace = d.pace := rfl
@[simp] theorem setStream_fabric (n : Nat) (x : Stream) : (setStream n x d).fabric = d.fabric := rfl
@[simp] theorem setStream_start (n : Nat) (x : Stream) : (setStream n x d).start = d.start := rfl
@[simp] theorem setStream_board (n : Nat) (x : Stream) : (setStream n x d).board = d.board := rfl
@[simp] theorem setStream_free (n : Nat) (x : Stream) : (setStream n x d).free = d.free := rfl
@[simp] theorem setStream_mesh (n : Nat) (x : Stream) : (setStream n x d).mesh = d.mesh := rfl
@[simp] theorem setStream_hwSets (n : Nat) (x : Stream) : (setStream n x d).hwSets = d.hwSets := rfl
@[simp] theorem setStream_hwAt (n : Nat) (x : Stream) : (setStream n x d).hwAt = d.hwAt := rfl
@[simp] theorem setCore_front (n : Nat) (x : Core) : (setCore n x d).front = d.front := rfl
@[simp] theorem setCore_queues (n : Nat) (x : Core) : (setCore n x d).queues = d.queues := rfl
@[simp] theorem setCore_sessions (n : Nat) (x : Core) : (setCore n x d).sessions = d.sessions := rfl
@[simp] theorem setCore_accepted (n : Nat) (x : Core) : (setCore n x d).accepted = d.accepted := rfl
@[simp] theorem setCore_attn (n : Nat) (x : Core) : (setCore n x d).attn = d.attn := rfl
@[simp] theorem setCore_bonnet (n : Nat) (x : Core) : (setCore n x d).bonnet = d.bonnet := rfl
@[simp] theorem setCore_plans (n : Nat) (x : Core) : (setCore n x d).plans = d.plans := rfl
@[simp] theorem setCore_contexts (n : Nat) (x : Core) : (setCore n x d).contexts = d.contexts := rfl
@[simp] theorem setCore_ctxOrder (n : Nat) (x : Core) : (setCore n x d).ctxOrder = d.ctxOrder := rfl
@[simp] theorem setCore_slots (n : Nat) (x : Core) : (setCore n x d).slots = d.slots := rfl
@[simp] theorem setCore_streams (n : Nat) (x : Core) : (setCore n x d).streams = d.streams := rfl
@[simp] theorem setCore_ports (n : Nat) (x : Core) : (setCore n x d).ports = d.ports := rfl
@[simp] theorem setCore_sched (n : Nat) (x : Core) : (setCore n x d).sched = d.sched := rfl
@[simp] theorem setCore_cores (n : Nat) (x : Core) : (setCore n x d).cores = { d.cores with core := kput d.cores.core n x } := rfl
@[simp] theorem setCore_memctl (n : Nat) (x : Core) : (setCore n x d).memctl = d.memctl := rfl
@[simp] theorem setCore_cal (n : Nat) (x : Core) : (setCore n x d).cal = d.cal := rfl
@[simp] theorem setCore_watch (n : Nat) (x : Core) : (setCore n x d).watch = d.watch := rfl
@[simp] theorem setCore_gnt (n : Nat) (x : Core) : (setCore n x d).gnt = d.gnt := rfl
@[simp] theorem setCore_geyser (n : Nat) (x : Core) : (setCore n x d).geyser = d.geyser := rfl
@[simp] theorem setCore_pace (n : Nat) (x : Core) : (setCore n x d).pace = d.pace := rfl
@[simp] theorem setCore_fabric (n : Nat) (x : Core) : (setCore n x d).fabric = d.fabric := rfl
@[simp] theorem setCore_start (n : Nat) (x : Core) : (setCore n x d).start = d.start := rfl
@[simp] theorem setCore_board (n : Nat) (x : Core) : (setCore n x d).board = d.board := rfl
@[simp] theorem setCore_free (n : Nat) (x : Core) : (setCore n x d).free = d.free := rfl
@[simp] theorem setCore_mesh (n : Nat) (x : Core) : (setCore n x d).mesh = d.mesh := rfl
@[simp] theorem setCore_hwSets (n : Nat) (x : Core) : (setCore n x d).hwSets = d.hwSets := rfl
@[simp] theorem setCore_hwAt (n : Nat) (x : Core) : (setCore n x d).hwAt = d.hwAt := rfl
@[simp] theorem modCore_front (n : Nat) (f : Core → Core) : (modCore n f d).front = d.front := rfl
@[simp] theorem modCore_queues (n : Nat) (f : Core → Core) : (modCore n f d).queues = d.queues := rfl
@[simp] theorem modCore_sessions (n : Nat) (f : Core → Core) : (modCore n f d).sessions = d.sessions := rfl
@[simp] theorem modCore_accepted (n : Nat) (f : Core → Core) : (modCore n f d).accepted = d.accepted := rfl
@[simp] theorem modCore_attn (n : Nat) (f : Core → Core) : (modCore n f d).attn = d.attn := rfl
@[simp] theorem modCore_bonnet (n : Nat) (f : Core → Core) : (modCore n f d).bonnet = d.bonnet := rfl
@[simp] theorem modCore_plans (n : Nat) (f : Core → Core) : (modCore n f d).plans = d.plans := rfl
@[simp] theorem modCore_contexts (n : Nat) (f : Core → Core) : (modCore n f d).contexts = d.contexts := rfl
@[simp] theorem modCore_ctxOrder (n : Nat) (f : Core → Core) : (modCore n f d).ctxOrder = d.ctxOrder := rfl
@[simp] theorem modCore_slots (n : Nat) (f : Core → Core) : (modCore n f d).slots = d.slots := rfl
@[simp] theorem modCore_streams (n : Nat) (f : Core → Core) : (modCore n f d).streams = d.streams := rfl
@[simp] theorem modCore_ports (n : Nat) (f : Core → Core) : (modCore n f d).ports = d.ports := rfl
@[simp] theorem modCore_sched (n : Nat) (f : Core → Core) : (modCore n f d).sched = d.sched := rfl
@[simp] theorem modCore_cores (n : Nat) (f : Core → Core) : (modCore n f d).cores = { d.cores with core := kput d.cores.core n (f (coreOf d n)) } := rfl
@[simp] theorem modCore_memctl (n : Nat) (f : Core → Core) : (modCore n f d).memctl = d.memctl := rfl
@[simp] theorem modCore_cal (n : Nat) (f : Core → Core) : (modCore n f d).cal = d.cal := rfl
@[simp] theorem modCore_watch (n : Nat) (f : Core → Core) : (modCore n f d).watch = d.watch := rfl
@[simp] theorem modCore_gnt (n : Nat) (f : Core → Core) : (modCore n f d).gnt = d.gnt := rfl
@[simp] theorem modCore_geyser (n : Nat) (f : Core → Core) : (modCore n f d).geyser = d.geyser := rfl
@[simp] theorem modCore_pace (n : Nat) (f : Core → Core) : (modCore n f d).pace = d.pace := rfl
@[simp] theorem modCore_fabric (n : Nat) (f : Core → Core) : (modCore n f d).fabric = d.fabric := rfl
@[simp] theorem modCore_start (n : Nat) (f : Core → Core) : (modCore n f d).start = d.start := rfl
@[simp] theorem modCore_board (n : Nat) (f : Core → Core) : (modCore n f d).board = d.board := rfl
@[simp] theorem modCore_free (n : Nat) (f : Core → Core) : (modCore n f d).free = d.free := rfl
@[simp] theorem modCore_mesh (n : Nat) (f : Core → Core) : (modCore n f d).mesh = d.mesh := rfl
@[simp] theorem modCore_hwSets (n : Nat) (f : Core → Core) : (modCore n f d).hwSets = d.hwSets := rfl
@[simp] theorem modCore_hwAt (n : Nat) (f : Core → Core) : (modCore n f d).hwAt = d.hwAt := rfl
@[simp] theorem modProc_front (n : Nat) (f : Processor → Processor) : (modProc n f d).front = d.front := rfl
@[simp] theorem modProc_queues (n : Nat) (f : Processor → Processor) : (modProc n f d).queues = d.queues := rfl
@[simp] theorem modProc_sessions (n : Nat) (f : Processor → Processor) : (modProc n f d).sessions = d.sessions := rfl
@[simp] theorem modProc_accepted (n : Nat) (f : Processor → Processor) : (modProc n f d).accepted = d.accepted := rfl
@[simp] theorem modProc_attn (n : Nat) (f : Processor → Processor) : (modProc n f d).attn = d.attn := rfl
@[simp] theorem modProc_bonnet (n : Nat) (f : Processor → Processor) : (modProc n f d).bonnet = d.bonnet := rfl
@[simp] theorem modProc_plans (n : Nat) (f : Processor → Processor) : (modProc n f d).plans = d.plans := rfl
@[simp] theorem modProc_contexts (n : Nat) (f : Processor → Processor) : (modProc n f d).contexts = d.contexts := rfl
@[simp] theorem modProc_ctxOrder (n : Nat) (f : Processor → Processor) : (modProc n f d).ctxOrder = d.ctxOrder := rfl
@[simp] theorem modProc_slots (n : Nat) (f : Processor → Processor) : (modProc n f d).slots = d.slots := rfl
@[simp] theorem modProc_streams (n : Nat) (f : Processor → Processor) : (modProc n f d).streams = d.streams := rfl
@[simp] theorem modProc_ports (n : Nat) (f : Processor → Processor) : (modProc n f d).ports = d.ports := rfl
@[simp] theorem modProc_sched (n : Nat) (f : Processor → Processor) : (modProc n f d).sched = d.sched := rfl
@[simp] theorem modProc_cores (n : Nat) (f : Processor → Processor) : (modProc n f d).cores = { d.cores with proc := kput d.cores.proc n (f (procOf d n)) } := rfl
@[simp] theorem modProc_memctl (n : Nat) (f : Processor → Processor) : (modProc n f d).memctl = d.memctl := rfl
@[simp] theorem modProc_cal (n : Nat) (f : Processor → Processor) : (modProc n f d).cal = d.cal := rfl
@[simp] theorem modProc_watch (n : Nat) (f : Processor → Processor) : (modProc n f d).watch = d.watch := rfl
@[simp] theorem modProc_gnt (n : Nat) (f : Processor → Processor) : (modProc n f d).gnt = d.gnt := rfl
@[simp] theorem modProc_geyser (n : Nat) (f : Processor → Processor) : (modProc n f d).geyser = d.geyser := rfl
@[simp] theorem modProc_pace (n : Nat) (f : Processor → Processor) : (modProc n f d).pace = d.pace := rfl
@[simp] theorem modProc_fabric (n : Nat) (f : Processor → Processor) : (modProc n f d).fabric = d.fabric := rfl
@[simp] theorem modProc_start (n : Nat) (f : Processor → Processor) : (modProc n f d).start = d.start := rfl
@[simp] theorem modProc_board (n : Nat) (f : Processor → Processor) : (modProc n f d).board = d.board := rfl
@[simp] theorem modProc_free (n : Nat) (f : Processor → Processor) : (modProc n f d).free = d.free := rfl
@[simp] theorem modProc_mesh (n : Nat) (f : Processor → Processor) : (modProc n f d).mesh = d.mesh := rfl
@[simp] theorem modProc_hwSets (n : Nat) (f : Processor → Processor) : (modProc n f d).hwSets = d.hwSets := rfl
@[simp] theorem modProc_hwAt (n : Nat) (f : Processor → Processor) : (modProc n f d).hwAt = d.hwAt := rfl
@[simp] theorem setSignal_front (n : Nat) (x : Signal) : (setSignal n x d).front = d.front := rfl
@[simp] theorem setSignal_queues (n : Nat) (x : Signal) : (setSignal n x d).queues = d.queues := rfl
@[simp] theorem setSignal_sessions (n : Nat) (x : Signal) : (setSignal n x d).sessions = d.sessions := rfl
@[simp] theorem setSignal_accepted (n : Nat) (x : Signal) : (setSignal n x d).accepted = d.accepted := rfl
@[simp] theorem setSignal_attn (n : Nat) (x : Signal) : (setSignal n x d).attn = d.attn := rfl
@[simp] theorem setSignal_bonnet (n : Nat) (x : Signal) : (setSignal n x d).bonnet = d.bonnet := rfl
@[simp] theorem setSignal_plans (n : Nat) (x : Signal) : (setSignal n x d).plans = d.plans := rfl
@[simp] theorem setSignal_contexts (n : Nat) (x : Signal) : (setSignal n x d).contexts = d.contexts := rfl
@[simp] theorem setSignal_ctxOrder (n : Nat) (x : Signal) : (setSignal n x d).ctxOrder = d.ctxOrder := rfl
@[simp] theorem setSignal_slots (n : Nat) (x : Signal) : (setSignal n x d).slots = d.slots := rfl
@[simp] theorem setSignal_streams (n : Nat) (x : Signal) : (setSignal n x d).streams = d.streams := rfl
@[simp] theorem setSignal_ports (n : Nat) (x : Signal) : (setSignal n x d).ports = d.ports := rfl
@[simp] theorem setSignal_sched (n : Nat) (x : Signal) : (setSignal n x d).sched = d.sched := rfl
@[simp] theorem setSignal_cores (n : Nat) (x : Signal) : (setSignal n x d).cores = { d.cores with signals := kput d.cores.signals n x } := rfl
@[simp] theorem setSignal_memctl (n : Nat) (x : Signal) : (setSignal n x d).memctl = d.memctl := rfl
@[simp] theorem setSignal_cal (n : Nat) (x : Signal) : (setSignal n x d).cal = d.cal := rfl
@[simp] theorem setSignal_watch (n : Nat) (x : Signal) : (setSignal n x d).watch = d.watch := rfl
@[simp] theorem setSignal_gnt (n : Nat) (x : Signal) : (setSignal n x d).gnt = d.gnt := rfl
@[simp] theorem setSignal_geyser (n : Nat) (x : Signal) : (setSignal n x d).geyser = d.geyser := rfl
@[simp] theorem setSignal_pace (n : Nat) (x : Signal) : (setSignal n x d).pace = d.pace := rfl
@[simp] theorem setSignal_fabric (n : Nat) (x : Signal) : (setSignal n x d).fabric = d.fabric := rfl
@[simp] theorem setSignal_start (n : Nat) (x : Signal) : (setSignal n x d).start = d.start := rfl
@[simp] theorem setSignal_board (n : Nat) (x : Signal) : (setSignal n x d).board = d.board := rfl
@[simp] theorem setSignal_free (n : Nat) (x : Signal) : (setSignal n x d).free = d.free := rfl
@[simp] theorem setSignal_mesh (n : Nat) (x : Signal) : (setSignal n x d).mesh = d.mesh := rfl
@[simp] theorem setSignal_hwSets (n : Nat) (x : Signal) : (setSignal n x d).hwSets = d.hwSets := rfl
@[simp] theorem setSignal_hwAt (n : Nat) (x : Signal) : (setSignal n x d).hwAt = d.hwAt := rfl
@[simp] theorem modDma_front (n : Nat) (f : DmaChannel → DmaChannel) : (modDma n f d).front = d.front := rfl
@[simp] theorem modDma_queues (n : Nat) (f : DmaChannel → DmaChannel) : (modDma n f d).queues = d.queues := rfl
@[simp] theorem modDma_sessions (n : Nat) (f : DmaChannel → DmaChannel) : (modDma n f d).sessions = d.sessions := rfl
@[simp] theorem modDma_accepted (n : Nat) (f : DmaChannel → DmaChannel) : (modDma n f d).accepted = d.accepted := rfl
@[simp] theorem modDma_attn (n : Nat) (f : DmaChannel → DmaChannel) : (modDma n f d).attn = d.attn := rfl
@[simp] theorem modDma_bonnet (n : Nat) (f : DmaChannel → DmaChannel) : (modDma n f d).bonnet = d.bonnet := rfl
@[simp] theorem modDma_plans (n : Nat) (f : DmaChannel → DmaChannel) : (modDma n f d).plans = d.plans := rfl
@[simp] theorem modDma_contexts (n : Nat) (f : DmaChannel → DmaChannel) : (modDma n f d).contexts = d.contexts := rfl
@[simp] theorem modDma_ctxOrder (n : Nat) (f : DmaChannel → DmaChannel) : (modDma n f d).ctxOrder = d.ctxOrder := rfl
@[simp] theorem modDma_slots (n : Nat) (f : DmaChannel → DmaChannel) : (modDma n f d).slots = d.slots := rfl
@[simp] theorem modDma_streams (n : Nat) (f : DmaChannel → DmaChannel) : (modDma n f d).streams = d.streams := rfl
@[simp] theorem modDma_ports (n : Nat) (f : DmaChannel → DmaChannel) : (modDma n f d).ports = d.ports := rfl
@[simp] theorem modDma_sched (n : Nat) (f : DmaChannel → DmaChannel) : (modDma n f d).sched = d.sched := rfl
@[simp] theorem modDma_cores (n : Nat) (f : DmaChannel → DmaChannel) : (modDma n f d).cores = { d.cores with dma := kput d.cores.dma n (f (dmaOf d n)) } := rfl
@[simp] theorem modDma_memctl (n : Nat) (f : DmaChannel → DmaChannel) : (modDma n f d).memctl = d.memctl := rfl
@[simp] theorem modDma_cal (n : Nat) (f : DmaChannel → DmaChannel) : (modDma n f d).cal = d.cal := rfl
@[simp] theorem modDma_watch (n : Nat) (f : DmaChannel → DmaChannel) : (modDma n f d).watch = d.watch := rfl
@[simp] theorem modDma_gnt (n : Nat) (f : DmaChannel → DmaChannel) : (modDma n f d).gnt = d.gnt := rfl
@[simp] theorem modDma_geyser (n : Nat) (f : DmaChannel → DmaChannel) : (modDma n f d).geyser = d.geyser := rfl
@[simp] theorem modDma_pace (n : Nat) (f : DmaChannel → DmaChannel) : (modDma n f d).pace = d.pace := rfl
@[simp] theorem modDma_fabric (n : Nat) (f : DmaChannel → DmaChannel) : (modDma n f d).fabric = d.fabric := rfl
@[simp] theorem modDma_start (n : Nat) (f : DmaChannel → DmaChannel) : (modDma n f d).start = d.start := rfl
@[simp] theorem modDma_board (n : Nat) (f : DmaChannel → DmaChannel) : (modDma n f d).board = d.board := rfl
@[simp] theorem modDma_free (n : Nat) (f : DmaChannel → DmaChannel) : (modDma n f d).free = d.free := rfl
@[simp] theorem modDma_mesh (n : Nat) (f : DmaChannel → DmaChannel) : (modDma n f d).mesh = d.mesh := rfl
@[simp] theorem modDma_hwSets (n : Nat) (f : DmaChannel → DmaChannel) : (modDma n f d).hwSets = d.hwSets := rfl
@[simp] theorem modDma_hwAt (n : Nat) (f : DmaChannel → DmaChannel) : (modDma n f d).hwAt = d.hwAt := rfl
@[simp] theorem modUwd_front (n : Nat) (f : UnitWd → UnitWd) : (modUwd n f d).front = d.front := rfl
@[simp] theorem modUwd_queues (n : Nat) (f : UnitWd → UnitWd) : (modUwd n f d).queues = d.queues := rfl
@[simp] theorem modUwd_sessions (n : Nat) (f : UnitWd → UnitWd) : (modUwd n f d).sessions = d.sessions := rfl
@[simp] theorem modUwd_accepted (n : Nat) (f : UnitWd → UnitWd) : (modUwd n f d).accepted = d.accepted := rfl
@[simp] theorem modUwd_attn (n : Nat) (f : UnitWd → UnitWd) : (modUwd n f d).attn = d.attn := rfl
@[simp] theorem modUwd_bonnet (n : Nat) (f : UnitWd → UnitWd) : (modUwd n f d).bonnet = d.bonnet := rfl
@[simp] theorem modUwd_plans (n : Nat) (f : UnitWd → UnitWd) : (modUwd n f d).plans = d.plans := rfl
@[simp] theorem modUwd_contexts (n : Nat) (f : UnitWd → UnitWd) : (modUwd n f d).contexts = d.contexts := rfl
@[simp] theorem modUwd_ctxOrder (n : Nat) (f : UnitWd → UnitWd) : (modUwd n f d).ctxOrder = d.ctxOrder := rfl
@[simp] theorem modUwd_slots (n : Nat) (f : UnitWd → UnitWd) : (modUwd n f d).slots = d.slots := rfl
@[simp] theorem modUwd_streams (n : Nat) (f : UnitWd → UnitWd) : (modUwd n f d).streams = d.streams := rfl
@[simp] theorem modUwd_ports (n : Nat) (f : UnitWd → UnitWd) : (modUwd n f d).ports = d.ports := rfl
@[simp] theorem modUwd_sched (n : Nat) (f : UnitWd → UnitWd) : (modUwd n f d).sched = d.sched := rfl
@[simp] theorem modUwd_cores (n : Nat) (f : UnitWd → UnitWd) : (modUwd n f d).cores = d.cores := rfl
@[simp] theorem modUwd_memctl (n : Nat) (f : UnitWd → UnitWd) : (modUwd n f d).memctl = d.memctl := rfl
@[simp] theorem modUwd_cal (n : Nat) (f : UnitWd → UnitWd) : (modUwd n f d).cal = d.cal := rfl
@[simp] theorem modUwd_watch (n : Nat) (f : UnitWd → UnitWd) : (modUwd n f d).watch = { d.watch with uwd := kput d.watch.uwd n (f (uwdOf d n)) } := rfl
@[simp] theorem modUwd_gnt (n : Nat) (f : UnitWd → UnitWd) : (modUwd n f d).gnt = d.gnt := rfl
@[simp] theorem modUwd_geyser (n : Nat) (f : UnitWd → UnitWd) : (modUwd n f d).geyser = d.geyser := rfl
@[simp] theorem modUwd_pace (n : Nat) (f : UnitWd → UnitWd) : (modUwd n f d).pace = d.pace := rfl
@[simp] theorem modUwd_fabric (n : Nat) (f : UnitWd → UnitWd) : (modUwd n f d).fabric = d.fabric := rfl
@[simp] theorem modUwd_start (n : Nat) (f : UnitWd → UnitWd) : (modUwd n f d).start = d.start := rfl
@[simp] theorem modUwd_board (n : Nat) (f : UnitWd → UnitWd) : (modUwd n f d).board = d.board := rfl
@[simp] theorem modUwd_free (n : Nat) (f : UnitWd → UnitWd) : (modUwd n f d).free = d.free := rfl
@[simp] theorem modUwd_mesh (n : Nat) (f : UnitWd → UnitWd) : (modUwd n f d).mesh = d.mesh := rfl
@[simp] theorem modUwd_hwSets (n : Nat) (f : UnitWd → UnitWd) : (modUwd n f d).hwSets = d.hwSets := rfl
@[simp] theorem modUwd_hwAt (n : Nat) (f : UnitWd → UnitWd) : (modUwd n f d).hwAt = d.hwAt := rfl
@[simp] theorem modDwd_front (f : DeviceWd → DeviceWd) : (modDwd f d).front = d.front := rfl
@[simp] theorem modDwd_queues (f : DeviceWd → DeviceWd) : (modDwd f d).queues = d.queues := rfl
@[simp] theorem modDwd_sessions (f : DeviceWd → DeviceWd) : (modDwd f d).sessions = d.sessions := rfl
@[simp] theorem modDwd_accepted (f : DeviceWd → DeviceWd) : (modDwd f d).accepted = d.accepted := rfl
@[simp] theorem modDwd_attn (f : DeviceWd → DeviceWd) : (modDwd f d).attn = d.attn := rfl
@[simp] theorem modDwd_bonnet (f : DeviceWd → DeviceWd) : (modDwd f d).bonnet = d.bonnet := rfl
@[simp] theorem modDwd_plans (f : DeviceWd → DeviceWd) : (modDwd f d).plans = d.plans := rfl
@[simp] theorem modDwd_contexts (f : DeviceWd → DeviceWd) : (modDwd f d).contexts = d.contexts := rfl
@[simp] theorem modDwd_ctxOrder (f : DeviceWd → DeviceWd) : (modDwd f d).ctxOrder = d.ctxOrder := rfl
@[simp] theorem modDwd_slots (f : DeviceWd → DeviceWd) : (modDwd f d).slots = d.slots := rfl
@[simp] theorem modDwd_streams (f : DeviceWd → DeviceWd) : (modDwd f d).streams = d.streams := rfl
@[simp] theorem modDwd_ports (f : DeviceWd → DeviceWd) : (modDwd f d).ports = d.ports := rfl
@[simp] theorem modDwd_sched (f : DeviceWd → DeviceWd) : (modDwd f d).sched = d.sched := rfl
@[simp] theorem modDwd_cores (f : DeviceWd → DeviceWd) : (modDwd f d).cores = d.cores := rfl
@[simp] theorem modDwd_memctl (f : DeviceWd → DeviceWd) : (modDwd f d).memctl = d.memctl := rfl
@[simp] theorem modDwd_cal (f : DeviceWd → DeviceWd) : (modDwd f d).cal = d.cal := rfl
@[simp] theorem modDwd_watch (f : DeviceWd → DeviceWd) : (modDwd f d).watch = { d.watch with dwd := f d.watch.dwd } := rfl
@[simp] theorem modDwd_gnt (f : DeviceWd → DeviceWd) : (modDwd f d).gnt = d.gnt := rfl
@[simp] theorem modDwd_geyser (f : DeviceWd → DeviceWd) : (modDwd f d).geyser = d.geyser := rfl
@[simp] theorem modDwd_pace (f : DeviceWd → DeviceWd) : (modDwd f d).pace = d.pace := rfl
@[simp] theorem modDwd_fabric (f : DeviceWd → DeviceWd) : (modDwd f d).fabric = d.fabric := rfl
@[simp] theorem modDwd_start (f : DeviceWd → DeviceWd) : (modDwd f d).start = d.start := rfl
@[simp] theorem modDwd_board (f : DeviceWd → DeviceWd) : (modDwd f d).board = d.board := rfl
@[simp] theorem modDwd_free (f : DeviceWd → DeviceWd) : (modDwd f d).free = d.free := rfl
@[simp] theorem modDwd_mesh (f : DeviceWd → DeviceWd) : (modDwd f d).mesh = d.mesh := rfl
@[simp] theorem modDwd_hwSets (f : DeviceWd → DeviceWd) : (modDwd f d).hwSets = d.hwSets := rfl
@[simp] theorem modDwd_hwAt (f : DeviceWd → DeviceWd) : (modDwd f d).hwAt = d.hwAt := rfl
@[simp] theorem modGauge_front (n : Nat) (f : Gauge → Gauge) : (modGauge n f d).front = d.front := rfl
@[simp] theorem modGauge_queues (n : Nat) (f : Gauge → Gauge) : (modGauge n f d).queues = d.queues := rfl
@[simp] theorem modGauge_sessions (n : Nat) (f : Gauge → Gauge) : (modGauge n f d).sessions = d.sessions := rfl
@[simp] theorem modGauge_accepted (n : Nat) (f : Gauge → Gauge) : (modGauge n f d).accepted = d.accepted := rfl
@[simp] theorem modGauge_attn (n : Nat) (f : Gauge → Gauge) : (modGauge n f d).attn = d.attn := rfl
@[simp] theorem modGauge_bonnet (n : Nat) (f : Gauge → Gauge) : (modGauge n f d).bonnet = d.bonnet := rfl
@[simp] theorem modGauge_plans (n : Nat) (f : Gauge → Gauge) : (modGauge n f d).plans = d.plans := rfl
@[simp] theorem modGauge_contexts (n : Nat) (f : Gauge → Gauge) : (modGauge n f d).contexts = d.contexts := rfl
@[simp] theorem modGauge_ctxOrder (n : Nat) (f : Gauge → Gauge) : (modGauge n f d).ctxOrder = d.ctxOrder := rfl
@[simp] theorem modGauge_slots (n : Nat) (f : Gauge → Gauge) : (modGauge n f d).slots = d.slots := rfl
@[simp] theorem modGauge_streams (n : Nat) (f : Gauge → Gauge) : (modGauge n f d).streams = d.streams := rfl
@[simp] theorem modGauge_ports (n : Nat) (f : Gauge → Gauge) : (modGauge n f d).ports = d.ports := rfl
@[simp] theorem modGauge_sched (n : Nat) (f : Gauge → Gauge) : (modGauge n f d).sched = d.sched := rfl
@[simp] theorem modGauge_cores (n : Nat) (f : Gauge → Gauge) : (modGauge n f d).cores = d.cores := rfl
@[simp] theorem modGauge_memctl (n : Nat) (f : Gauge → Gauge) : (modGauge n f d).memctl = d.memctl := rfl
@[simp] theorem modGauge_cal (n : Nat) (f : Gauge → Gauge) : (modGauge n f d).cal = d.cal := rfl
@[simp] theorem modGauge_watch (n : Nat) (f : Gauge → Gauge) : (modGauge n f d).watch = d.watch := rfl
@[simp] theorem modGauge_gnt (n : Nat) (f : Gauge → Gauge) : (modGauge n f d).gnt = d.gnt := rfl
@[simp] theorem modGauge_geyser (n : Nat) (f : Gauge → Gauge) : (modGauge n f d).geyser = d.geyser := rfl
@[simp] theorem modGauge_pace (n : Nat) (f : Gauge → Gauge) : (modGauge n f d).pace = { d.pace with gauges := kput d.pace.gauges n (f (gaugeOf d n)) } := rfl
@[simp] theorem modGauge_fabric (n : Nat) (f : Gauge → Gauge) : (modGauge n f d).fabric = d.fabric := rfl
@[simp] theorem modGauge_start (n : Nat) (f : Gauge → Gauge) : (modGauge n f d).start = d.start := rfl
@[simp] theorem modGauge_board (n : Nat) (f : Gauge → Gauge) : (modGauge n f d).board = d.board := rfl
@[simp] theorem modGauge_free (n : Nat) (f : Gauge → Gauge) : (modGauge n f d).free = d.free := rfl
@[simp] theorem modGauge_mesh (n : Nat) (f : Gauge → Gauge) : (modGauge n f d).mesh = d.mesh := rfl
@[simp] theorem modGauge_hwSets (n : Nat) (f : Gauge → Gauge) : (modGauge n f d).hwSets = d.hwSets := rfl
@[simp] theorem modGauge_hwAt (n : Nat) (f : Gauge → Gauge) : (modGauge n f d).hwAt = d.hwAt := rfl
@[simp] theorem modPulse_front (n : Nat) (f : Pulse → Pulse) : (modPulse n f d).front = d.front := rfl
@[simp] theorem modPulse_queues (n : Nat) (f : Pulse → Pulse) : (modPulse n f d).queues = d.queues := rfl
@[simp] theorem modPulse_sessions (n : Nat) (f : Pulse → Pulse) : (modPulse n f d).sessions = d.sessions := rfl
@[simp] theorem modPulse_accepted (n : Nat) (f : Pulse → Pulse) : (modPulse n f d).accepted = d.accepted := rfl
@[simp] theorem modPulse_attn (n : Nat) (f : Pulse → Pulse) : (modPulse n f d).attn = d.attn := rfl
@[simp] theorem modPulse_bonnet (n : Nat) (f : Pulse → Pulse) : (modPulse n f d).bonnet = d.bonnet := rfl
@[simp] theorem modPulse_plans (n : Nat) (f : Pulse → Pulse) : (modPulse n f d).plans = d.plans := rfl
@[simp] theorem modPulse_contexts (n : Nat) (f : Pulse → Pulse) : (modPulse n f d).contexts = d.contexts := rfl
@[simp] theorem modPulse_ctxOrder (n : Nat) (f : Pulse → Pulse) : (modPulse n f d).ctxOrder = d.ctxOrder := rfl
@[simp] theorem modPulse_slots (n : Nat) (f : Pulse → Pulse) : (modPulse n f d).slots = d.slots := rfl
@[simp] theorem modPulse_streams (n : Nat) (f : Pulse → Pulse) : (modPulse n f d).streams = d.streams := rfl
@[simp] theorem modPulse_ports (n : Nat) (f : Pulse → Pulse) : (modPulse n f d).ports = d.ports := rfl
@[simp] theorem modPulse_sched (n : Nat) (f : Pulse → Pulse) : (modPulse n f d).sched = d.sched := rfl
@[simp] theorem modPulse_cores (n : Nat) (f : Pulse → Pulse) : (modPulse n f d).cores = d.cores := rfl
@[simp] theorem modPulse_memctl (n : Nat) (f : Pulse → Pulse) : (modPulse n f d).memctl = d.memctl := rfl
@[simp] theorem modPulse_cal (n : Nat) (f : Pulse → Pulse) : (modPulse n f d).cal = d.cal := rfl
@[simp] theorem modPulse_watch (n : Nat) (f : Pulse → Pulse) : (modPulse n f d).watch = d.watch := rfl
@[simp] theorem modPulse_gnt (n : Nat) (f : Pulse → Pulse) : (modPulse n f d).gnt = d.gnt := rfl
@[simp] theorem modPulse_geyser (n : Nat) (f : Pulse → Pulse) : (modPulse n f d).geyser = { d.geyser with pulses := kput d.geyser.pulses n (f (pulseOf d n)) } := rfl
@[simp] theorem modPulse_pace (n : Nat) (f : Pulse → Pulse) : (modPulse n f d).pace = d.pace := rfl
@[simp] theorem modPulse_fabric (n : Nat) (f : Pulse → Pulse) : (modPulse n f d).fabric = d.fabric := rfl
@[simp] theorem modPulse_start (n : Nat) (f : Pulse → Pulse) : (modPulse n f d).start = d.start := rfl
@[simp] theorem modPulse_board (n : Nat) (f : Pulse → Pulse) : (modPulse n f d).board = d.board := rfl
@[simp] theorem modPulse_free (n : Nat) (f : Pulse → Pulse) : (modPulse n f d).free = d.free := rfl
@[simp] theorem modPulse_mesh (n : Nat) (f : Pulse → Pulse) : (modPulse n f d).mesh = d.mesh := rfl
@[simp] theorem modPulse_hwSets (n : Nat) (f : Pulse → Pulse) : (modPulse n f d).hwSets = d.hwSets := rfl
@[simp] theorem modPulse_hwAt (n : Nat) (f : Pulse → Pulse) : (modPulse n f d).hwAt = d.hwAt := rfl
@[simp] theorem modPtp_front (n : Nat) (f : PtpPort → PtpPort) : (modPtp n f d).front = d.front := rfl
@[simp] theorem modPtp_queues (n : Nat) (f : PtpPort → PtpPort) : (modPtp n f d).queues = d.queues := rfl
@[simp] theorem modPtp_sessions (n : Nat) (f : PtpPort → PtpPort) : (modPtp n f d).sessions = d.sessions := rfl
@[simp] theorem modPtp_accepted (n : Nat) (f : PtpPort → PtpPort) : (modPtp n f d).accepted = d.accepted := rfl
@[simp] theorem modPtp_attn (n : Nat) (f : PtpPort → PtpPort) : (modPtp n f d).attn = d.attn := rfl
@[simp] theorem modPtp_bonnet (n : Nat) (f : PtpPort → PtpPort) : (modPtp n f d).bonnet = d.bonnet := rfl
@[simp] theorem modPtp_plans (n : Nat) (f : PtpPort → PtpPort) : (modPtp n f d).plans = d.plans := rfl
@[simp] theorem modPtp_contexts (n : Nat) (f : PtpPort → PtpPort) : (modPtp n f d).contexts = d.contexts := rfl
@[simp] theorem modPtp_ctxOrder (n : Nat) (f : PtpPort → PtpPort) : (modPtp n f d).ctxOrder = d.ctxOrder := rfl
@[simp] theorem modPtp_slots (n : Nat) (f : PtpPort → PtpPort) : (modPtp n f d).slots = d.slots := rfl
@[simp] theorem modPtp_streams (n : Nat) (f : PtpPort → PtpPort) : (modPtp n f d).streams = d.streams := rfl
@[simp] theorem modPtp_ports (n : Nat) (f : PtpPort → PtpPort) : (modPtp n f d).ports = d.ports := rfl
@[simp] theorem modPtp_sched (n : Nat) (f : PtpPort → PtpPort) : (modPtp n f d).sched = d.sched := rfl
@[simp] theorem modPtp_cores (n : Nat) (f : PtpPort → PtpPort) : (modPtp n f d).cores = d.cores := rfl
@[simp] theorem modPtp_memctl (n : Nat) (f : PtpPort → PtpPort) : (modPtp n f d).memctl = d.memctl := rfl
@[simp] theorem modPtp_cal (n : Nat) (f : PtpPort → PtpPort) : (modPtp n f d).cal = d.cal := rfl
@[simp] theorem modPtp_watch (n : Nat) (f : PtpPort → PtpPort) : (modPtp n f d).watch = d.watch := rfl
@[simp] theorem modPtp_gnt (n : Nat) (f : PtpPort → PtpPort) : (modPtp n f d).gnt = d.gnt := rfl
@[simp] theorem modPtp_geyser (n : Nat) (f : PtpPort → PtpPort) : (modPtp n f d).geyser = { d.geyser with ports := kput d.geyser.ports n (f (ptpOf d n)) } := rfl
@[simp] theorem modPtp_pace (n : Nat) (f : PtpPort → PtpPort) : (modPtp n f d).pace = d.pace := rfl
@[simp] theorem modPtp_fabric (n : Nat) (f : PtpPort → PtpPort) : (modPtp n f d).fabric = d.fabric := rfl
@[simp] theorem modPtp_start (n : Nat) (f : PtpPort → PtpPort) : (modPtp n f d).start = d.start := rfl
@[simp] theorem modPtp_board (n : Nat) (f : PtpPort → PtpPort) : (modPtp n f d).board = d.board := rfl
@[simp] theorem modPtp_free (n : Nat) (f : PtpPort → PtpPort) : (modPtp n f d).free = d.free := rfl
@[simp] theorem modPtp_mesh (n : Nat) (f : PtpPort → PtpPort) : (modPtp n f d).mesh = d.mesh := rfl
@[simp] theorem modPtp_hwSets (n : Nat) (f : PtpPort → PtpPort) : (modPtp n f d).hwSets = d.hwSets := rfl
@[simp] theorem modPtp_hwAt (n : Nat) (f : PtpPort → PtpPort) : (modPtp n f d).hwAt = d.hwAt := rfl
@[simp] theorem modSched_front (f : Sched → Sched) : (modSched f d).front = d.front := rfl
@[simp] theorem modSched_queues (f : Sched → Sched) : (modSched f d).queues = d.queues := rfl
@[simp] theorem modSched_sessions (f : Sched → Sched) : (modSched f d).sessions = d.sessions := rfl
@[simp] theorem modSched_accepted (f : Sched → Sched) : (modSched f d).accepted = d.accepted := rfl
@[simp] theorem modSched_attn (f : Sched → Sched) : (modSched f d).attn = d.attn := rfl
@[simp] theorem modSched_bonnet (f : Sched → Sched) : (modSched f d).bonnet = d.bonnet := rfl
@[simp] theorem modSched_plans (f : Sched → Sched) : (modSched f d).plans = d.plans := rfl
@[simp] theorem modSched_contexts (f : Sched → Sched) : (modSched f d).contexts = d.contexts := rfl
@[simp] theorem modSched_ctxOrder (f : Sched → Sched) : (modSched f d).ctxOrder = d.ctxOrder := rfl
@[simp] theorem modSched_slots (f : Sched → Sched) : (modSched f d).slots = d.slots := rfl
@[simp] theorem modSched_streams (f : Sched → Sched) : (modSched f d).streams = d.streams := rfl
@[simp] theorem modSched_ports (f : Sched → Sched) : (modSched f d).ports = d.ports := rfl
@[simp] theorem modSched_sched (f : Sched → Sched) : (modSched f d).sched = f d.sched := rfl
@[simp] theorem modSched_cores (f : Sched → Sched) : (modSched f d).cores = d.cores := rfl
@[simp] theorem modSched_memctl (f : Sched → Sched) : (modSched f d).memctl = d.memctl := rfl
@[simp] theorem modSched_cal (f : Sched → Sched) : (modSched f d).cal = d.cal := rfl
@[simp] theorem modSched_watch (f : Sched → Sched) : (modSched f d).watch = d.watch := rfl
@[simp] theorem modSched_gnt (f : Sched → Sched) : (modSched f d).gnt = d.gnt := rfl
@[simp] theorem modSched_geyser (f : Sched → Sched) : (modSched f d).geyser = d.geyser := rfl
@[simp] theorem modSched_pace (f : Sched → Sched) : (modSched f d).pace = d.pace := rfl
@[simp] theorem modSched_fabric (f : Sched → Sched) : (modSched f d).fabric = d.fabric := rfl
@[simp] theorem modSched_start (f : Sched → Sched) : (modSched f d).start = d.start := rfl
@[simp] theorem modSched_board (f : Sched → Sched) : (modSched f d).board = d.board := rfl
@[simp] theorem modSched_free (f : Sched → Sched) : (modSched f d).free = d.free := rfl
@[simp] theorem modSched_mesh (f : Sched → Sched) : (modSched f d).mesh = d.mesh := rfl
@[simp] theorem modSched_hwSets (f : Sched → Sched) : (modSched f d).hwSets = d.hwSets := rfl
@[simp] theorem modSched_hwAt (f : Sched → Sched) : (modSched f d).hwAt = d.hwAt := rfl
@[simp] theorem modCal_front (f : Caldera → Caldera) : (modCal f d).front = d.front := rfl
@[simp] theorem modCal_queues (f : Caldera → Caldera) : (modCal f d).queues = d.queues := rfl
@[simp] theorem modCal_sessions (f : Caldera → Caldera) : (modCal f d).sessions = d.sessions := rfl
@[simp] theorem modCal_accepted (f : Caldera → Caldera) : (modCal f d).accepted = d.accepted := rfl
@[simp] theorem modCal_attn (f : Caldera → Caldera) : (modCal f d).attn = d.attn := rfl
@[simp] theorem modCal_bonnet (f : Caldera → Caldera) : (modCal f d).bonnet = d.bonnet := rfl
@[simp] theorem modCal_plans (f : Caldera → Caldera) : (modCal f d).plans = d.plans := rfl
@[simp] theorem modCal_contexts (f : Caldera → Caldera) : (modCal f d).contexts = d.contexts := rfl
@[simp] theorem modCal_ctxOrder (f : Caldera → Caldera) : (modCal f d).ctxOrder = d.ctxOrder := rfl
@[simp] theorem modCal_slots (f : Caldera → Caldera) : (modCal f d).slots = d.slots := rfl
@[simp] theorem modCal_streams (f : Caldera → Caldera) : (modCal f d).streams = d.streams := rfl
@[simp] theorem modCal_ports (f : Caldera → Caldera) : (modCal f d).ports = d.ports := rfl
@[simp] theorem modCal_sched (f : Caldera → Caldera) : (modCal f d).sched = d.sched := rfl
@[simp] theorem modCal_cores (f : Caldera → Caldera) : (modCal f d).cores = d.cores := rfl
@[simp] theorem modCal_memctl (f : Caldera → Caldera) : (modCal f d).memctl = d.memctl := rfl
@[simp] theorem modCal_cal (f : Caldera → Caldera) : (modCal f d).cal = f d.cal := rfl
@[simp] theorem modCal_watch (f : Caldera → Caldera) : (modCal f d).watch = d.watch := rfl
@[simp] theorem modCal_gnt (f : Caldera → Caldera) : (modCal f d).gnt = d.gnt := rfl
@[simp] theorem modCal_geyser (f : Caldera → Caldera) : (modCal f d).geyser = d.geyser := rfl
@[simp] theorem modCal_pace (f : Caldera → Caldera) : (modCal f d).pace = d.pace := rfl
@[simp] theorem modCal_fabric (f : Caldera → Caldera) : (modCal f d).fabric = d.fabric := rfl
@[simp] theorem modCal_start (f : Caldera → Caldera) : (modCal f d).start = d.start := rfl
@[simp] theorem modCal_board (f : Caldera → Caldera) : (modCal f d).board = d.board := rfl
@[simp] theorem modCal_free (f : Caldera → Caldera) : (modCal f d).free = d.free := rfl
@[simp] theorem modCal_mesh (f : Caldera → Caldera) : (modCal f d).mesh = d.mesh := rfl
@[simp] theorem modCal_hwSets (f : Caldera → Caldera) : (modCal f d).hwSets = d.hwSets := rfl
@[simp] theorem modCal_hwAt (f : Caldera → Caldera) : (modCal f d).hwAt = d.hwAt := rfl
@[simp] theorem modGnt_front (f : Gauntlet → Gauntlet) : (modGnt f d).front = d.front := rfl
@[simp] theorem modGnt_queues (f : Gauntlet → Gauntlet) : (modGnt f d).queues = d.queues := rfl
@[simp] theorem modGnt_sessions (f : Gauntlet → Gauntlet) : (modGnt f d).sessions = d.sessions := rfl
@[simp] theorem modGnt_accepted (f : Gauntlet → Gauntlet) : (modGnt f d).accepted = d.accepted := rfl
@[simp] theorem modGnt_attn (f : Gauntlet → Gauntlet) : (modGnt f d).attn = d.attn := rfl
@[simp] theorem modGnt_bonnet (f : Gauntlet → Gauntlet) : (modGnt f d).bonnet = d.bonnet := rfl
@[simp] theorem modGnt_plans (f : Gauntlet → Gauntlet) : (modGnt f d).plans = d.plans := rfl
@[simp] theorem modGnt_contexts (f : Gauntlet → Gauntlet) : (modGnt f d).contexts = d.contexts := rfl
@[simp] theorem modGnt_ctxOrder (f : Gauntlet → Gauntlet) : (modGnt f d).ctxOrder = d.ctxOrder := rfl
@[simp] theorem modGnt_slots (f : Gauntlet → Gauntlet) : (modGnt f d).slots = d.slots := rfl
@[simp] theorem modGnt_streams (f : Gauntlet → Gauntlet) : (modGnt f d).streams = d.streams := rfl
@[simp] theorem modGnt_ports (f : Gauntlet → Gauntlet) : (modGnt f d).ports = d.ports := rfl
@[simp] theorem modGnt_sched (f : Gauntlet → Gauntlet) : (modGnt f d).sched = d.sched := rfl
@[simp] theorem modGnt_cores (f : Gauntlet → Gauntlet) : (modGnt f d).cores = d.cores := rfl
@[simp] theorem modGnt_memctl (f : Gauntlet → Gauntlet) : (modGnt f d).memctl = d.memctl := rfl
@[simp] theorem modGnt_cal (f : Gauntlet → Gauntlet) : (modGnt f d).cal = d.cal := rfl
@[simp] theorem modGnt_watch (f : Gauntlet → Gauntlet) : (modGnt f d).watch = d.watch := rfl
@[simp] theorem modGnt_gnt (f : Gauntlet → Gauntlet) : (modGnt f d).gnt = f d.gnt := rfl
@[simp] theorem modGnt_geyser (f : Gauntlet → Gauntlet) : (modGnt f d).geyser = d.geyser := rfl
@[simp] theorem modGnt_pace (f : Gauntlet → Gauntlet) : (modGnt f d).pace = d.pace := rfl
@[simp] theorem modGnt_fabric (f : Gauntlet → Gauntlet) : (modGnt f d).fabric = d.fabric := rfl
@[simp] theorem modGnt_start (f : Gauntlet → Gauntlet) : (modGnt f d).start = d.start := rfl
@[simp] theorem modGnt_board (f : Gauntlet → Gauntlet) : (modGnt f d).board = d.board := rfl
@[simp] theorem modGnt_free (f : Gauntlet → Gauntlet) : (modGnt f d).free = d.free := rfl
@[simp] theorem modGnt_mesh (f : Gauntlet → Gauntlet) : (modGnt f d).mesh = d.mesh := rfl
@[simp] theorem modGnt_hwSets (f : Gauntlet → Gauntlet) : (modGnt f d).hwSets = d.hwSets := rfl
@[simp] theorem modGnt_hwAt (f : Gauntlet → Gauntlet) : (modGnt f d).hwAt = d.hwAt := rfl
@[simp] theorem modGey_front (f : Geyser → Geyser) : (modGey f d).front = d.front := rfl
@[simp] theorem modGey_queues (f : Geyser → Geyser) : (modGey f d).queues = d.queues := rfl
@[simp] theorem modGey_sessions (f : Geyser → Geyser) : (modGey f d).sessions = d.sessions := rfl
@[simp] theorem modGey_accepted (f : Geyser → Geyser) : (modGey f d).accepted = d.accepted := rfl
@[simp] theorem modGey_attn (f : Geyser → Geyser) : (modGey f d).attn = d.attn := rfl
@[simp] theorem modGey_bonnet (f : Geyser → Geyser) : (modGey f d).bonnet = d.bonnet := rfl
@[simp] theorem modGey_plans (f : Geyser → Geyser) : (modGey f d).plans = d.plans := rfl
@[simp] theorem modGey_contexts (f : Geyser → Geyser) : (modGey f d).contexts = d.contexts := rfl
@[simp] theorem modGey_ctxOrder (f : Geyser → Geyser) : (modGey f d).ctxOrder = d.ctxOrder := rfl
@[simp] theorem modGey_slots (f : Geyser → Geyser) : (modGey f d).slots = d.slots := rfl
@[simp] theorem modGey_streams (f : Geyser → Geyser) : (modGey f d).streams = d.streams := rfl
@[simp] theorem modGey_ports (f : Geyser → Geyser) : (modGey f d).ports = d.ports := rfl
@[simp] theorem modGey_sched (f : Geyser → Geyser) : (modGey f d).sched = d.sched := rfl
@[simp] theorem modGey_cores (f : Geyser → Geyser) : (modGey f d).cores = d.cores := rfl
@[simp] theorem modGey_memctl (f : Geyser → Geyser) : (modGey f d).memctl = d.memctl := rfl
@[simp] theorem modGey_cal (f : Geyser → Geyser) : (modGey f d).cal = d.cal := rfl
@[simp] theorem modGey_watch (f : Geyser → Geyser) : (modGey f d).watch = d.watch := rfl
@[simp] theorem modGey_gnt (f : Geyser → Geyser) : (modGey f d).gnt = d.gnt := rfl
@[simp] theorem modGey_geyser (f : Geyser → Geyser) : (modGey f d).geyser = f d.geyser := rfl
@[simp] theorem modGey_pace (f : Geyser → Geyser) : (modGey f d).pace = d.pace := rfl
@[simp] theorem modGey_fabric (f : Geyser → Geyser) : (modGey f d).fabric = d.fabric := rfl
@[simp] theorem modGey_start (f : Geyser → Geyser) : (modGey f d).start = d.start := rfl
@[simp] theorem modGey_board (f : Geyser → Geyser) : (modGey f d).board = d.board := rfl
@[simp] theorem modGey_free (f : Geyser → Geyser) : (modGey f d).free = d.free := rfl
@[simp] theorem modGey_mesh (f : Geyser → Geyser) : (modGey f d).mesh = d.mesh := rfl
@[simp] theorem modGey_hwSets (f : Geyser → Geyser) : (modGey f d).hwSets = d.hwSets := rfl
@[simp] theorem modGey_hwAt (f : Geyser → Geyser) : (modGey f d).hwAt = d.hwAt := rfl
@[simp] theorem modPace_front (f : Pace → Pace) : (modPace f d).front = d.front := rfl
@[simp] theorem modPace_queues (f : Pace → Pace) : (modPace f d).queues = d.queues := rfl
@[simp] theorem modPace_sessions (f : Pace → Pace) : (modPace f d).sessions = d.sessions := rfl
@[simp] theorem modPace_accepted (f : Pace → Pace) : (modPace f d).accepted = d.accepted := rfl
@[simp] theorem modPace_attn (f : Pace → Pace) : (modPace f d).attn = d.attn := rfl
@[simp] theorem modPace_bonnet (f : Pace → Pace) : (modPace f d).bonnet = d.bonnet := rfl
@[simp] theorem modPace_plans (f : Pace → Pace) : (modPace f d).plans = d.plans := rfl
@[simp] theorem modPace_contexts (f : Pace → Pace) : (modPace f d).contexts = d.contexts := rfl
@[simp] theorem modPace_ctxOrder (f : Pace → Pace) : (modPace f d).ctxOrder = d.ctxOrder := rfl
@[simp] theorem modPace_slots (f : Pace → Pace) : (modPace f d).slots = d.slots := rfl
@[simp] theorem modPace_streams (f : Pace → Pace) : (modPace f d).streams = d.streams := rfl
@[simp] theorem modPace_ports (f : Pace → Pace) : (modPace f d).ports = d.ports := rfl
@[simp] theorem modPace_sched (f : Pace → Pace) : (modPace f d).sched = d.sched := rfl
@[simp] theorem modPace_cores (f : Pace → Pace) : (modPace f d).cores = d.cores := rfl
@[simp] theorem modPace_memctl (f : Pace → Pace) : (modPace f d).memctl = d.memctl := rfl
@[simp] theorem modPace_cal (f : Pace → Pace) : (modPace f d).cal = d.cal := rfl
@[simp] theorem modPace_watch (f : Pace → Pace) : (modPace f d).watch = d.watch := rfl
@[simp] theorem modPace_gnt (f : Pace → Pace) : (modPace f d).gnt = d.gnt := rfl
@[simp] theorem modPace_geyser (f : Pace → Pace) : (modPace f d).geyser = d.geyser := rfl
@[simp] theorem modPace_pace (f : Pace → Pace) : (modPace f d).pace = f d.pace := rfl
@[simp] theorem modPace_fabric (f : Pace → Pace) : (modPace f d).fabric = d.fabric := rfl
@[simp] theorem modPace_start (f : Pace → Pace) : (modPace f d).start = d.start := rfl
@[simp] theorem modPace_board (f : Pace → Pace) : (modPace f d).board = d.board := rfl
@[simp] theorem modPace_free (f : Pace → Pace) : (modPace f d).free = d.free := rfl
@[simp] theorem modPace_mesh (f : Pace → Pace) : (modPace f d).mesh = d.mesh := rfl
@[simp] theorem modPace_hwSets (f : Pace → Pace) : (modPace f d).hwSets = d.hwSets := rfl
@[simp] theorem modPace_hwAt (f : Pace → Pace) : (modPace f d).hwAt = d.hwAt := rfl
@[simp] theorem modFab_front (f : Fabric → Fabric) : (modFab f d).front = d.front := rfl
@[simp] theorem modFab_queues (f : Fabric → Fabric) : (modFab f d).queues = d.queues := rfl
@[simp] theorem modFab_sessions (f : Fabric → Fabric) : (modFab f d).sessions = d.sessions := rfl
@[simp] theorem modFab_accepted (f : Fabric → Fabric) : (modFab f d).accepted = d.accepted := rfl
@[simp] theorem modFab_attn (f : Fabric → Fabric) : (modFab f d).attn = d.attn := rfl
@[simp] theorem modFab_bonnet (f : Fabric → Fabric) : (modFab f d).bonnet = d.bonnet := rfl
@[simp] theorem modFab_plans (f : Fabric → Fabric) : (modFab f d).plans = d.plans := rfl
@[simp] theorem modFab_contexts (f : Fabric → Fabric) : (modFab f d).contexts = d.contexts := rfl
@[simp] theorem modFab_ctxOrder (f : Fabric → Fabric) : (modFab f d).ctxOrder = d.ctxOrder := rfl
@[simp] theorem modFab_slots (f : Fabric → Fabric) : (modFab f d).slots = d.slots := rfl
@[simp] theorem modFab_streams (f : Fabric → Fabric) : (modFab f d).streams = d.streams := rfl
@[simp] theorem modFab_ports (f : Fabric → Fabric) : (modFab f d).ports = d.ports := rfl
@[simp] theorem modFab_sched (f : Fabric → Fabric) : (modFab f d).sched = d.sched := rfl
@[simp] theorem modFab_cores (f : Fabric → Fabric) : (modFab f d).cores = d.cores := rfl
@[simp] theorem modFab_memctl (f : Fabric → Fabric) : (modFab f d).memctl = d.memctl := rfl
@[simp] theorem modFab_cal (f : Fabric → Fabric) : (modFab f d).cal = d.cal := rfl
@[simp] theorem modFab_watch (f : Fabric → Fabric) : (modFab f d).watch = d.watch := rfl
@[simp] theorem modFab_gnt (f : Fabric → Fabric) : (modFab f d).gnt = d.gnt := rfl
@[simp] theorem modFab_geyser (f : Fabric → Fabric) : (modFab f d).geyser = d.geyser := rfl
@[simp] theorem modFab_pace (f : Fabric → Fabric) : (modFab f d).pace = d.pace := rfl
@[simp] theorem modFab_fabric (f : Fabric → Fabric) : (modFab f d).fabric = f d.fabric := rfl
@[simp] theorem modFab_start (f : Fabric → Fabric) : (modFab f d).start = d.start := rfl
@[simp] theorem modFab_board (f : Fabric → Fabric) : (modFab f d).board = d.board := rfl
@[simp] theorem modFab_free (f : Fabric → Fabric) : (modFab f d).free = d.free := rfl
@[simp] theorem modFab_mesh (f : Fabric → Fabric) : (modFab f d).mesh = d.mesh := rfl
@[simp] theorem modFab_hwSets (f : Fabric → Fabric) : (modFab f d).hwSets = d.hwSets := rfl
@[simp] theorem modFab_hwAt (f : Fabric → Fabric) : (modFab f d).hwAt = d.hwAt := rfl
@[simp] theorem modStart_front (f : Start → Start) : (modStart f d).front = d.front := rfl
@[simp] theorem modStart_queues (f : Start → Start) : (modStart f d).queues = d.queues := rfl
@[simp] theorem modStart_sessions (f : Start → Start) : (modStart f d).sessions = d.sessions := rfl
@[simp] theorem modStart_accepted (f : Start → Start) : (modStart f d).accepted = d.accepted := rfl
@[simp] theorem modStart_attn (f : Start → Start) : (modStart f d).attn = d.attn := rfl
@[simp] theorem modStart_bonnet (f : Start → Start) : (modStart f d).bonnet = d.bonnet := rfl
@[simp] theorem modStart_plans (f : Start → Start) : (modStart f d).plans = d.plans := rfl
@[simp] theorem modStart_contexts (f : Start → Start) : (modStart f d).contexts = d.contexts := rfl
@[simp] theorem modStart_ctxOrder (f : Start → Start) : (modStart f d).ctxOrder = d.ctxOrder := rfl
@[simp] theorem modStart_slots (f : Start → Start) : (modStart f d).slots = d.slots := rfl
@[simp] theorem modStart_streams (f : Start → Start) : (modStart f d).streams = d.streams := rfl
@[simp] theorem modStart_ports (f : Start → Start) : (modStart f d).ports = d.ports := rfl
@[simp] theorem modStart_sched (f : Start → Start) : (modStart f d).sched = d.sched := rfl
@[simp] theorem modStart_cores (f : Start → Start) : (modStart f d).cores = d.cores := rfl
@[simp] theorem modStart_memctl (f : Start → Start) : (modStart f d).memctl = d.memctl := rfl
@[simp] theorem modStart_cal (f : Start → Start) : (modStart f d).cal = d.cal := rfl
@[simp] theorem modStart_watch (f : Start → Start) : (modStart f d).watch = d.watch := rfl
@[simp] theorem modStart_gnt (f : Start → Start) : (modStart f d).gnt = d.gnt := rfl
@[simp] theorem modStart_geyser (f : Start → Start) : (modStart f d).geyser = d.geyser := rfl
@[simp] theorem modStart_pace (f : Start → Start) : (modStart f d).pace = d.pace := rfl
@[simp] theorem modStart_fabric (f : Start → Start) : (modStart f d).fabric = d.fabric := rfl
@[simp] theorem modStart_start (f : Start → Start) : (modStart f d).start = f d.start := rfl
@[simp] theorem modStart_board (f : Start → Start) : (modStart f d).board = d.board := rfl
@[simp] theorem modStart_free (f : Start → Start) : (modStart f d).free = d.free := rfl
@[simp] theorem modStart_mesh (f : Start → Start) : (modStart f d).mesh = d.mesh := rfl
@[simp] theorem modStart_hwSets (f : Start → Start) : (modStart f d).hwSets = d.hwSets := rfl
@[simp] theorem modStart_hwAt (f : Start → Start) : (modStart f d).hwAt = d.hwAt := rfl
@[simp] theorem modFront_front (f : Front → Front) : (modFront f d).front = f d.front := rfl
@[simp] theorem modFront_queues (f : Front → Front) : (modFront f d).queues = d.queues := rfl
@[simp] theorem modFront_sessions (f : Front → Front) : (modFront f d).sessions = d.sessions := rfl
@[simp] theorem modFront_accepted (f : Front → Front) : (modFront f d).accepted = d.accepted := rfl
@[simp] theorem modFront_attn (f : Front → Front) : (modFront f d).attn = d.attn := rfl
@[simp] theorem modFront_bonnet (f : Front → Front) : (modFront f d).bonnet = d.bonnet := rfl
@[simp] theorem modFront_plans (f : Front → Front) : (modFront f d).plans = d.plans := rfl
@[simp] theorem modFront_contexts (f : Front → Front) : (modFront f d).contexts = d.contexts := rfl
@[simp] theorem modFront_ctxOrder (f : Front → Front) : (modFront f d).ctxOrder = d.ctxOrder := rfl
@[simp] theorem modFront_slots (f : Front → Front) : (modFront f d).slots = d.slots := rfl
@[simp] theorem modFront_streams (f : Front → Front) : (modFront f d).streams = d.streams := rfl
@[simp] theorem modFront_ports (f : Front → Front) : (modFront f d).ports = d.ports := rfl
@[simp] theorem modFront_sched (f : Front → Front) : (modFront f d).sched = d.sched := rfl
@[simp] theorem modFront_cores (f : Front → Front) : (modFront f d).cores = d.cores := rfl
@[simp] theorem modFront_memctl (f : Front → Front) : (modFront f d).memctl = d.memctl := rfl
@[simp] theorem modFront_cal (f : Front → Front) : (modFront f d).cal = d.cal := rfl
@[simp] theorem modFront_watch (f : Front → Front) : (modFront f d).watch = d.watch := rfl
@[simp] theorem modFront_gnt (f : Front → Front) : (modFront f d).gnt = d.gnt := rfl
@[simp] theorem modFront_geyser (f : Front → Front) : (modFront f d).geyser = d.geyser := rfl
@[simp] theorem modFront_pace (f : Front → Front) : (modFront f d).pace = d.pace := rfl
@[simp] theorem modFront_fabric (f : Front → Front) : (modFront f d).fabric = d.fabric := rfl
@[simp] theorem modFront_start (f : Front → Front) : (modFront f d).start = d.start := rfl
@[simp] theorem modFront_board (f : Front → Front) : (modFront f d).board = d.board := rfl
@[simp] theorem modFront_free (f : Front → Front) : (modFront f d).free = d.free := rfl
@[simp] theorem modFront_mesh (f : Front → Front) : (modFront f d).mesh = d.mesh := rfl
@[simp] theorem modFront_hwSets (f : Front → Front) : (modFront f d).hwSets = d.hwSets := rfl
@[simp] theorem modFront_hwAt (f : Front → Front) : (modFront f d).hwAt = d.hwAt := rfl
@[simp] theorem modBonnet_front (f : Bonnet → Bonnet) : (modBonnet f d).front = d.front := rfl
@[simp] theorem modBonnet_queues (f : Bonnet → Bonnet) : (modBonnet f d).queues = d.queues := rfl
@[simp] theorem modBonnet_sessions (f : Bonnet → Bonnet) : (modBonnet f d).sessions = d.sessions := rfl
@[simp] theorem modBonnet_accepted (f : Bonnet → Bonnet) : (modBonnet f d).accepted = d.accepted := rfl
@[simp] theorem modBonnet_attn (f : Bonnet → Bonnet) : (modBonnet f d).attn = d.attn := rfl
@[simp] theorem modBonnet_bonnet (f : Bonnet → Bonnet) : (modBonnet f d).bonnet = f d.bonnet := rfl
@[simp] theorem modBonnet_plans (f : Bonnet → Bonnet) : (modBonnet f d).plans = d.plans := rfl
@[simp] theorem modBonnet_contexts (f : Bonnet → Bonnet) : (modBonnet f d).contexts = d.contexts := rfl
@[simp] theorem modBonnet_ctxOrder (f : Bonnet → Bonnet) : (modBonnet f d).ctxOrder = d.ctxOrder := rfl
@[simp] theorem modBonnet_slots (f : Bonnet → Bonnet) : (modBonnet f d).slots = d.slots := rfl
@[simp] theorem modBonnet_streams (f : Bonnet → Bonnet) : (modBonnet f d).streams = d.streams := rfl
@[simp] theorem modBonnet_ports (f : Bonnet → Bonnet) : (modBonnet f d).ports = d.ports := rfl
@[simp] theorem modBonnet_sched (f : Bonnet → Bonnet) : (modBonnet f d).sched = d.sched := rfl
@[simp] theorem modBonnet_cores (f : Bonnet → Bonnet) : (modBonnet f d).cores = d.cores := rfl
@[simp] theorem modBonnet_memctl (f : Bonnet → Bonnet) : (modBonnet f d).memctl = d.memctl := rfl
@[simp] theorem modBonnet_cal (f : Bonnet → Bonnet) : (modBonnet f d).cal = d.cal := rfl
@[simp] theorem modBonnet_watch (f : Bonnet → Bonnet) : (modBonnet f d).watch = d.watch := rfl
@[simp] theorem modBonnet_gnt (f : Bonnet → Bonnet) : (modBonnet f d).gnt = d.gnt := rfl
@[simp] theorem modBonnet_geyser (f : Bonnet → Bonnet) : (modBonnet f d).geyser = d.geyser := rfl
@[simp] theorem modBonnet_pace (f : Bonnet → Bonnet) : (modBonnet f d).pace = d.pace := rfl
@[simp] theorem modBonnet_fabric (f : Bonnet → Bonnet) : (modBonnet f d).fabric = d.fabric := rfl
@[simp] theorem modBonnet_start (f : Bonnet → Bonnet) : (modBonnet f d).start = d.start := rfl
@[simp] theorem modBonnet_board (f : Bonnet → Bonnet) : (modBonnet f d).board = d.board := rfl
@[simp] theorem modBonnet_free (f : Bonnet → Bonnet) : (modBonnet f d).free = d.free := rfl
@[simp] theorem modBonnet_mesh (f : Bonnet → Bonnet) : (modBonnet f d).mesh = d.mesh := rfl
@[simp] theorem modBonnet_hwSets (f : Bonnet → Bonnet) : (modBonnet f d).hwSets = d.hwSets := rfl
@[simp] theorem modBonnet_hwAt (f : Bonnet → Bonnet) : (modBonnet f d).hwAt = d.hwAt := rfl
@[simp] theorem modPlans_front (f : Plans → Plans) : (modPlans f d).front = d.front := rfl
@[simp] theorem modPlans_queues (f : Plans → Plans) : (modPlans f d).queues = d.queues := rfl
@[simp] theorem modPlans_sessions (f : Plans → Plans) : (modPlans f d).sessions = d.sessions := rfl
@[simp] theorem modPlans_accepted (f : Plans → Plans) : (modPlans f d).accepted = d.accepted := rfl
@[simp] theorem modPlans_attn (f : Plans → Plans) : (modPlans f d).attn = d.attn := rfl
@[simp] theorem modPlans_bonnet (f : Plans → Plans) : (modPlans f d).bonnet = d.bonnet := rfl
@[simp] theorem modPlans_plans (f : Plans → Plans) : (modPlans f d).plans = f d.plans := rfl
@[simp] theorem modPlans_contexts (f : Plans → Plans) : (modPlans f d).contexts = d.contexts := rfl
@[simp] theorem modPlans_ctxOrder (f : Plans → Plans) : (modPlans f d).ctxOrder = d.ctxOrder := rfl
@[simp] theorem modPlans_slots (f : Plans → Plans) : (modPlans f d).slots = d.slots := rfl
@[simp] theorem modPlans_streams (f : Plans → Plans) : (modPlans f d).streams = d.streams := rfl
@[simp] theorem modPlans_ports (f : Plans → Plans) : (modPlans f d).ports = d.ports := rfl
@[simp] theorem modPlans_sched (f : Plans → Plans) : (modPlans f d).sched = d.sched := rfl
@[simp] theorem modPlans_cores (f : Plans → Plans) : (modPlans f d).cores = d.cores := rfl
@[simp] theorem modPlans_memctl (f : Plans → Plans) : (modPlans f d).memctl = d.memctl := rfl
@[simp] theorem modPlans_cal (f : Plans → Plans) : (modPlans f d).cal = d.cal := rfl
@[simp] theorem modPlans_watch (f : Plans → Plans) : (modPlans f d).watch = d.watch := rfl
@[simp] theorem modPlans_gnt (f : Plans → Plans) : (modPlans f d).gnt = d.gnt := rfl
@[simp] theorem modPlans_geyser (f : Plans → Plans) : (modPlans f d).geyser = d.geyser := rfl
@[simp] theorem modPlans_pace (f : Plans → Plans) : (modPlans f d).pace = d.pace := rfl
@[simp] theorem modPlans_fabric (f : Plans → Plans) : (modPlans f d).fabric = d.fabric := rfl
@[simp] theorem modPlans_start (f : Plans → Plans) : (modPlans f d).start = d.start := rfl
@[simp] theorem modPlans_board (f : Plans → Plans) : (modPlans f d).board = d.board := rfl
@[simp] theorem modPlans_free (f : Plans → Plans) : (modPlans f d).free = d.free := rfl
@[simp] theorem modPlans_mesh (f : Plans → Plans) : (modPlans f d).mesh = d.mesh := rfl
@[simp] theorem modPlans_hwSets (f : Plans → Plans) : (modPlans f d).hwSets = d.hwSets := rfl
@[simp] theorem modPlans_hwAt (f : Plans → Plans) : (modPlans f d).hwAt = d.hwAt := rfl
@[simp] theorem modCtl_front (f : MemCtl → MemCtl) : (modCtl f d).front = d.front := rfl
@[simp] theorem modCtl_queues (f : MemCtl → MemCtl) : (modCtl f d).queues = d.queues := rfl
@[simp] theorem modCtl_sessions (f : MemCtl → MemCtl) : (modCtl f d).sessions = d.sessions := rfl
@[simp] theorem modCtl_accepted (f : MemCtl → MemCtl) : (modCtl f d).accepted = d.accepted := rfl
@[simp] theorem modCtl_attn (f : MemCtl → MemCtl) : (modCtl f d).attn = d.attn := rfl
@[simp] theorem modCtl_bonnet (f : MemCtl → MemCtl) : (modCtl f d).bonnet = d.bonnet := rfl
@[simp] theorem modCtl_plans (f : MemCtl → MemCtl) : (modCtl f d).plans = d.plans := rfl
@[simp] theorem modCtl_contexts (f : MemCtl → MemCtl) : (modCtl f d).contexts = d.contexts := rfl
@[simp] theorem modCtl_ctxOrder (f : MemCtl → MemCtl) : (modCtl f d).ctxOrder = d.ctxOrder := rfl
@[simp] theorem modCtl_slots (f : MemCtl → MemCtl) : (modCtl f d).slots = d.slots := rfl
@[simp] theorem modCtl_streams (f : MemCtl → MemCtl) : (modCtl f d).streams = d.streams := rfl
@[simp] theorem modCtl_ports (f : MemCtl → MemCtl) : (modCtl f d).ports = d.ports := rfl
@[simp] theorem modCtl_sched (f : MemCtl → MemCtl) : (modCtl f d).sched = d.sched := rfl
@[simp] theorem modCtl_cores (f : MemCtl → MemCtl) : (modCtl f d).cores = d.cores := rfl
@[simp] theorem modCtl_memctl (f : MemCtl → MemCtl) : (modCtl f d).memctl = f d.memctl := rfl
@[simp] theorem modCtl_cal (f : MemCtl → MemCtl) : (modCtl f d).cal = d.cal := rfl
@[simp] theorem modCtl_watch (f : MemCtl → MemCtl) : (modCtl f d).watch = d.watch := rfl
@[simp] theorem modCtl_gnt (f : MemCtl → MemCtl) : (modCtl f d).gnt = d.gnt := rfl
@[simp] theorem modCtl_geyser (f : MemCtl → MemCtl) : (modCtl f d).geyser = d.geyser := rfl
@[simp] theorem modCtl_pace (f : MemCtl → MemCtl) : (modCtl f d).pace = d.pace := rfl
@[simp] theorem modCtl_fabric (f : MemCtl → MemCtl) : (modCtl f d).fabric = d.fabric := rfl
@[simp] theorem modCtl_start (f : MemCtl → MemCtl) : (modCtl f d).start = d.start := rfl
@[simp] theorem modCtl_board (f : MemCtl → MemCtl) : (modCtl f d).board = d.board := rfl
@[simp] theorem modCtl_free (f : MemCtl → MemCtl) : (modCtl f d).free = d.free := rfl
@[simp] theorem modCtl_mesh (f : MemCtl → MemCtl) : (modCtl f d).mesh = d.mesh := rfl
@[simp] theorem modCtl_hwSets (f : MemCtl → MemCtl) : (modCtl f d).hwSets = d.hwSets := rfl
@[simp] theorem modCtl_hwAt (f : MemCtl → MemCtl) : (modCtl f d).hwAt = d.hwAt := rfl
@[simp] theorem modSeg_front (n : Nat) (f : Segment → Segment) : (modSeg n f d).front = d.front := rfl
@[simp] theorem modSeg_queues (n : Nat) (f : Segment → Segment) : (modSeg n f d).queues = d.queues := rfl
@[simp] theorem modSeg_sessions (n : Nat) (f : Segment → Segment) : (modSeg n f d).sessions = d.sessions := rfl
@[simp] theorem modSeg_accepted (n : Nat) (f : Segment → Segment) : (modSeg n f d).accepted = d.accepted := rfl
@[simp] theorem modSeg_attn (n : Nat) (f : Segment → Segment) : (modSeg n f d).attn = d.attn := rfl
@[simp] theorem modSeg_bonnet (n : Nat) (f : Segment → Segment) : (modSeg n f d).bonnet = d.bonnet := rfl
@[simp] theorem modSeg_plans (n : Nat) (f : Segment → Segment) : (modSeg n f d).plans = d.plans := rfl
@[simp] theorem modSeg_contexts (n : Nat) (f : Segment → Segment) : (modSeg n f d).contexts = d.contexts := rfl
@[simp] theorem modSeg_ctxOrder (n : Nat) (f : Segment → Segment) : (modSeg n f d).ctxOrder = d.ctxOrder := rfl
@[simp] theorem modSeg_slots (n : Nat) (f : Segment → Segment) : (modSeg n f d).slots = d.slots := rfl
@[simp] theorem modSeg_streams (n : Nat) (f : Segment → Segment) : (modSeg n f d).streams = d.streams := rfl
@[simp] theorem modSeg_ports (n : Nat) (f : Segment → Segment) : (modSeg n f d).ports = d.ports := rfl
@[simp] theorem modSeg_sched (n : Nat) (f : Segment → Segment) : (modSeg n f d).sched = d.sched := rfl
@[simp] theorem modSeg_cores (n : Nat) (f : Segment → Segment) : (modSeg n f d).cores = d.cores := rfl
@[simp] theorem modSeg_memctl (n : Nat) (f : Segment → Segment) : (modSeg n f d).memctl = { d.memctl with segs := kput d.memctl.segs n (f (segOf d n)) } := rfl
@[simp] theorem modSeg_cal (n : Nat) (f : Segment → Segment) : (modSeg n f d).cal = d.cal := rfl
@[simp] theorem modSeg_watch (n : Nat) (f : Segment → Segment) : (modSeg n f d).watch = d.watch := rfl
@[simp] theorem modSeg_gnt (n : Nat) (f : Segment → Segment) : (modSeg n f d).gnt = d.gnt := rfl
@[simp] theorem modSeg_geyser (n : Nat) (f : Segment → Segment) : (modSeg n f d).geyser = d.geyser := rfl
@[simp] theorem modSeg_pace (n : Nat) (f : Segment → Segment) : (modSeg n f d).pace = d.pace := rfl
@[simp] theorem modSeg_fabric (n : Nat) (f : Segment → Segment) : (modSeg n f d).fabric = d.fabric := rfl
@[simp] theorem modSeg_start (n : Nat) (f : Segment → Segment) : (modSeg n f d).start = d.start := rfl
@[simp] theorem modSeg_board (n : Nat) (f : Segment → Segment) : (modSeg n f d).board = d.board := rfl
@[simp] theorem modSeg_free (n : Nat) (f : Segment → Segment) : (modSeg n f d).free = d.free := rfl
@[simp] theorem modSeg_mesh (n : Nat) (f : Segment → Segment) : (modSeg n f d).mesh = d.mesh := rfl
@[simp] theorem modSeg_hwSets (n : Nat) (f : Segment → Segment) : (modSeg n f d).hwSets = d.hwSets := rfl
@[simp] theorem modSeg_hwAt (n : Nat) (f : Segment → Segment) : (modSeg n f d).hwAt = d.hwAt := rfl
@[simp] theorem modStop_front (n : Nat) (f : MemStop → MemStop) : (modStop n f d).front = d.front := rfl
@[simp] theorem modStop_queues (n : Nat) (f : MemStop → MemStop) : (modStop n f d).queues = d.queues := rfl
@[simp] theorem modStop_sessions (n : Nat) (f : MemStop → MemStop) : (modStop n f d).sessions = d.sessions := rfl
@[simp] theorem modStop_accepted (n : Nat) (f : MemStop → MemStop) : (modStop n f d).accepted = d.accepted := rfl
@[simp] theorem modStop_attn (n : Nat) (f : MemStop → MemStop) : (modStop n f d).attn = d.attn := rfl
@[simp] theorem modStop_bonnet (n : Nat) (f : MemStop → MemStop) : (modStop n f d).bonnet = d.bonnet := rfl
@[simp] theorem modStop_plans (n : Nat) (f : MemStop → MemStop) : (modStop n f d).plans = d.plans := rfl
@[simp] theorem modStop_contexts (n : Nat) (f : MemStop → MemStop) : (modStop n f d).contexts = d.contexts := rfl
@[simp] theorem modStop_ctxOrder (n : Nat) (f : MemStop → MemStop) : (modStop n f d).ctxOrder = d.ctxOrder := rfl
@[simp] theorem modStop_slots (n : Nat) (f : MemStop → MemStop) : (modStop n f d).slots = d.slots := rfl
@[simp] theorem modStop_streams (n : Nat) (f : MemStop → MemStop) : (modStop n f d).streams = d.streams := rfl
@[simp] theorem modStop_ports (n : Nat) (f : MemStop → MemStop) : (modStop n f d).ports = d.ports := rfl
@[simp] theorem modStop_sched (n : Nat) (f : MemStop → MemStop) : (modStop n f d).sched = d.sched := rfl
@[simp] theorem modStop_cores (n : Nat) (f : MemStop → MemStop) : (modStop n f d).cores = d.cores := rfl
@[simp] theorem modStop_memctl (n : Nat) (f : MemStop → MemStop) : (modStop n f d).memctl = { d.memctl with stops := kput d.memctl.stops n (f (stopOf d n)) } := rfl
@[simp] theorem modStop_cal (n : Nat) (f : MemStop → MemStop) : (modStop n f d).cal = d.cal := rfl
@[simp] theorem modStop_watch (n : Nat) (f : MemStop → MemStop) : (modStop n f d).watch = d.watch := rfl
@[simp] theorem modStop_gnt (n : Nat) (f : MemStop → MemStop) : (modStop n f d).gnt = d.gnt := rfl
@[simp] theorem modStop_geyser (n : Nat) (f : MemStop → MemStop) : (modStop n f d).geyser = d.geyser := rfl
@[simp] theorem modStop_pace (n : Nat) (f : MemStop → MemStop) : (modStop n f d).pace = d.pace := rfl
@[simp] theorem modStop_fabric (n : Nat) (f : MemStop → MemStop) : (modStop n f d).fabric = d.fabric := rfl
@[simp] theorem modStop_start (n : Nat) (f : MemStop → MemStop) : (modStop n f d).start = d.start := rfl
@[simp] theorem modStop_board (n : Nat) (f : MemStop → MemStop) : (modStop n f d).board = d.board := rfl
@[simp] theorem modStop_free (n : Nat) (f : MemStop → MemStop) : (modStop n f d).free = d.free := rfl
@[simp] theorem modStop_mesh (n : Nat) (f : MemStop → MemStop) : (modStop n f d).mesh = d.mesh := rfl
@[simp] theorem modStop_hwSets (n : Nat) (f : MemStop → MemStop) : (modStop n f d).hwSets = d.hwSets := rfl
@[simp] theorem modStop_hwAt (n : Nat) (f : MemStop → MemStop) : (modStop n f d).hwAt = d.hwAt := rfl

@[simp] theorem raiseAttn_serial (a b : Nat) (l : List Byte) : (raiseAttn a b l d).attn.serial = d.attn.serial + 1 := rfl
@[simp] theorem raiseAttn_pending (a b : Nat) (l : List Byte) :
    (raiseAttn a b l d).attn.pending = kput d.attn.pending a (d.attn.serial + 1) := rfl

end Sys2Proof.Machine
end

