-- ==== Sys2Proof/Laws/Tables.lean ====
section
/-! SUPPORT. What the operations over sparse tables do: a read after a write, and the canonical form they keep. -/

namespace Sys2Proof.Machine

open Sys2Proof

set_option Elab.async false

variable {α : Type}

/-! ### A read after a write -/

@[simp] theorem kfind?_kput_self (m : KMap α) (n : Nat) (v : α) : kfind? (kput m n v) n = some v := by
  induction m with
  | nil => simp [kput, kfind?]
  | cons e m ih =>
    obtain ⟨k, w⟩ := e
    by_cases h : n = k
    · simp [kput, kfind?, h]
    · by_cases g : n < k
      · simp [kput, kfind?, h, g]
      · simp [kput, kfind?, h, g, ih]

theorem kfind?_kput_ne (m : KMap α) {n k : Nat} (v : α) (hk : k ≠ n) : kfind? (kput m n v) k = kfind? m k := by
  induction m with
  | nil =>
    by_cases h : k < n
    · simp [kput, kfind?, hk]
    · simp [kput, kfind?, hk]
  | cons e m ih =>
    obtain ⟨j, w⟩ := e
    simp only [kput]
    split
    · next h => subst h; simp [kfind?, hk]
    · split
      · next h g =>
        simp only [kfind?, hk, if_false]
        by_cases h1 : k < n
        · have h2 : k ≠ j := by omega
          have h3 : k < j := by omega
          simp [h1, h2, h3]
        · simp [h1]
      · simp only [kfind?, ih]

theorem kfind?_kput (m : KMap α) (n k : Nat) (v : α) : kfind? (kput m n v) k = if k = n then some v else kfind? m k := by
  by_cases h : k = n
  · subst h; simp
  · simp [kfind?_kput_ne m v h, h]

@[simp] theorem kget_kput_self (d : α) (m : KMap α) (n : Nat) (v : α) : kget d (kput m n v) n = v := by simp [kget]

theorem kget_kput_ne (d : α) (m : KMap α) {n k : Nat} (v : α) (h : k ≠ n) : kget d (kput m n v) k = kget d m k := by
  simp [kget, kfind?_kput_ne m v h]

@[simp] theorem kfind?_kmapv (f : Nat → α → α) (m : KMap α) (n : Nat) : kfind? (kmapv f m) n = (kfind? m n).map (f n) := by
  induction m with
  | nil => simp [kmapv, kfind?]
  | cons e m ih =>
    obtain ⟨k, w⟩ := e
    simp only [kmapv, List.map_cons, kfind?] at ih ⊢
    split
    · next h => simp [h]
    · split
      · simp
      · exact ih

theorem kget_kmapv (f : Nat → α → α) (d : α) (m : KMap α) (n : Nat) (h : f n d = d) : kget d (kmapv f m) n = f n (kget d m n) := by
  simp only [kget, kfind?_kmapv]
  cases kfind? m n with
  | none => simp [h]
  | some v => simp

/-! ### The canonical form -/

variable [DecidableEq α]

/-- Keys above `k`, and no default listed. -/
def kwfFrom (d : α) (k : Nat) (m : KMap α) : Bool := kwf d m && m.all fun e => decide (k < e.1)

theorem kwf_cons (d : α) (k : Nat) (v : α) (m : KMap α) : kwf d ((k, v) :: m) = true ↔ v ≠ d ∧ kwfFrom d k m = true := by
  induction m generalizing k v with
  | nil => simp [kwf, kwfFrom]
  | cons e m ih =>
    obtain ⟨j, w⟩ := e
    simp only [kwf, kwfFrom, Bool.and_eq_true, decide_eq_true_eq, List.all_cons] at *
    constructor
    · rintro ⟨⟨h1, h2⟩, h3⟩
      refine ⟨h1, h3, h2, ?_⟩
      have := ((ih j w).mp h3).2.2
      rw [List.all_eq_true] at this ⊢
      intro x hx
      have := this x hx
      simp only [decide_eq_true_eq] at this ⊢
      omega
    · rintro ⟨h1, h3, h2, _⟩
      exact ⟨⟨h1, h2⟩, h3⟩

theorem kwfFrom_mono (d : α) {j k : Nat} (m : KMap α) (h : j ≤ k) (w : kwfFrom d k m = true) : kwfFrom d j m = true := by
  simp only [kwfFrom, Bool.and_eq_true, List.all_eq_true, decide_eq_true_eq] at *
  exact ⟨w.1, fun x hx => Nat.lt_of_le_of_lt h (w.2 x hx)⟩

theorem kwfFrom_cons (d : α) (b k : Nat) (v : α) (m : KMap α) :
    kwfFrom d b ((k, v) :: m) = true ↔ b < k ∧ v ≠ d ∧ kwfFrom d k m = true := by
  constructor
  · intro h
    have h' := h
    simp only [kwfFrom, Bool.and_eq_true, List.all_cons, decide_eq_true_eq] at h
    exact ⟨h.2.1, (kwf_cons d k v m).mp h.1⟩
  · rintro ⟨h1, h2, h3⟩
    have hk := (kwf_cons d k v m).mpr ⟨h2, h3⟩
    simp only [kwfFrom, Bool.and_eq_true, List.all_cons, decide_eq_true_eq]
    have h4 := kwfFrom_mono d m (Nat.le_of_lt h1) h3
    simp only [kwfFrom, Bool.and_eq_true] at h4
    exact ⟨hk, h1, h4.2⟩

theorem kput_from (d : α) (b : Nat) (m : KMap α) (n : Nat) (v : α) (hv : v ≠ d) (hb : b < n) (w : kwfFrom d b m = true) :
    kwfFrom d b (kput m n v) = true := by
  induction m generalizing b with
  | nil => exact (kwfFrom_cons d b n v []).mpr ⟨hb, hv, by simp [kwfFrom, kwf]⟩
  | cons e m ih =>
    obtain ⟨k, x⟩ := e
    obtain ⟨h1, h2, h3⟩ := (kwfFrom_cons d b k x m).mp w
    simp only [kput]
    split
    · next h => subst h; exact (kwfFrom_cons d b _ v m).mpr ⟨h1, hv, h3⟩
    · split
      · next h => exact (kwfFrom_cons d b n v _).mpr ⟨hb, hv, (kwfFrom_cons d n k x m).mpr ⟨h, h2, h3⟩⟩
      · exact (kwfFrom_cons d b k x _).mpr ⟨h1, h2, ih k (by omega) h3⟩

theorem kdel_from (d : α) (b : Nat) (m : KMap α) (n : Nat) (w : kwfFrom d b m = true) : kwfFrom d b (kdel m n) = true := by
  induction m generalizing b with
  | nil => exact w
  | cons e m ih =>
    obtain ⟨k, x⟩ := e
    obtain ⟨h1, h2, h3⟩ := (kwfFrom_cons d b k x m).mp w
    simp only [kdel]
    split
    · exact kwfFrom_mono d m (Nat.le_of_lt h1) h3
    · split
      · exact w
      · exact (kwfFrom_cons d b k x _).mpr ⟨h1, h2, ih k h3⟩

theorem kput_wf (d : α) (m : KMap α) (n : Nat) (v : α) (hv : v ≠ d) (w : kwf d m = true) : kwf d (kput m n v) = true := by
  cases m with
  | nil => simp [kput, kwf, hv]
  | cons e r =>
    obtain ⟨k, x⟩ := e
    obtain ⟨h2, h3⟩ := (kwf_cons d k x r).mp w
    simp only [kput]
    split
    · next h => subst h; exact (kwf_cons d _ v r).mpr ⟨hv, h3⟩
    · split
      · next h => exact (kwf_cons d n v _).mpr ⟨hv, (kwfFrom_cons d n k x r).mpr ⟨h, h2, h3⟩⟩
      · exact (kwf_cons d k x _).mpr ⟨h2, kput_from d k r n v hv (by omega) h3⟩

theorem kdel_wf (d : α) (m : KMap α) (n : Nat) (w : kwf d m = true) : kwf d (kdel m n) = true := by
  cases m with
  | nil => exact w
  | cons e r =>
    obtain ⟨k, x⟩ := e
    obtain ⟨h2, h3⟩ := (kwf_cons d k x r).mp w
    simp only [kdel]
    split
    · simp only [kwfFrom, Bool.and_eq_true] at h3; exact h3.1
    · split
      · exact w
      · exact (kwf_cons d k x _).mpr ⟨h2, kdel_from d k r n h3⟩

/-- A write keeps the canonical form, whatever is written. -/
theorem kset_wf (d : α) (m : KMap α) (n : Nat) (v : α) (w : kwf d m = true) : kwf d (kset d m n v) = true := by
  unfold kset
  split
  · exact kdel_wf d m n w
  · next h => exact kput_wf d m n v h w

theorem filter_from (d : α) (b : Nat) (m : KMap α) (p : Nat × α → Bool) (w : kwfFrom d b m = true) :
    kwfFrom d b (m.filter p) = true := by
  induction m generalizing b with
  | nil => exact w
  | cons e m ih =>
    obtain ⟨k, x⟩ := e
    obtain ⟨h1, h2, h3⟩ := (kwfFrom_cons d b k x m).mp w
    by_cases hp : p (k, x) = true
    · rw [List.filter_cons_of_pos hp]
      exact (kwfFrom_cons d b k x _).mpr ⟨h1, h2, ih k h3⟩
    · rw [List.filter_cons_of_neg hp]
      exact ih b (kwfFrom_mono d m (Nat.le_of_lt h1) h3)

/-- Dropping entries keeps the canonical form. -/
theorem filter_wf (d : α) (m : KMap α) (p : Nat × α → Bool) (w : kwf d m = true) : kwf d (m.filter p) = true := by
  cases m with
  | nil => exact w
  | cons e r =>
    obtain ⟨k, x⟩ := e
    obtain ⟨h2, h3⟩ := (kwf_cons d k x r).mp w
    by_cases hp : p (k, x) = true
    · rw [List.filter_cons_of_pos hp]
      exact (kwf_cons d k x _).mpr ⟨h2, filter_from d k r p h3⟩
    · rw [List.filter_cons_of_neg hp]
      have := filter_from d k r p h3
      simp only [kwfFrom, Bool.and_eq_true] at this
      exact this.1

/-! ### Writes through `kset` (memory tables) -/

theorem kfind?_none_of_lt (d : α) (m : KMap α) (n k : Nat) (w : kwfFrom d k m = true) (h : n ≤ k) : kfind? m n = none := by
  cases m with
  | nil => rfl
  | cons e r =>
    obtain ⟨j, x⟩ := e
    obtain ⟨h1, _, _⟩ := (kwfFrom_cons d k j x r).mp w
    have a : n ≠ j := by omega
    have b : n < j := by omega
    simp [kfind?, a, b]

theorem kfind?_kdel_from (d : α) (b : Nat) (m : KMap α) (n : Nat) (w : kwfFrom d b m = true) (k : Nat) :
    kfind? (kdel m n) k = if k = n then none else kfind? m k := by
  induction m generalizing b with
  | nil => simp [kdel, kfind?]
  | cons e r ih =>
    obtain ⟨j, x⟩ := e
    obtain ⟨h1, h2, h3⟩ := (kwfFrom_cons d b j x r).mp w
    simp only [kdel]
    split
    · next h =>
      subst h
      by_cases hk : k = n
      · subst hk; simp [kfind?_none_of_lt d r k k h3 (Nat.le_refl k)]
      · simp only [kfind?, hk, if_false]
        by_cases hlt : k < n
        · simp [hlt, kfind?_none_of_lt d r k n h3 (by omega)]
        · simp [hlt]
    · split
      · next g h =>
        by_cases hk : k = n
        · subst hk; simp [kfind?, g, h]
        · simp [hk]
      · next g h =>
        simp only [kfind?, ih j h3]
        by_cases hk : k = n
        · subst hk; simp [g, h]
        · simp [hk]

/-- What a table reads at `k` once `v` has been written at `n`. -/
theorem kget_kset (d : α) (m : KMap α) (n k : Nat) (v : α) (w : kwf d m = true) :
    kget d (kset d m n v) k = if k = n then v else kget d m k := by
  unfold kset
  split
  · next h =>
    subst h
    cases m with
    | nil => simp [kdel, kget, kfind?]
    | cons e r =>
      obtain ⟨j, x⟩ := e
      obtain ⟨h2, h3⟩ := (kwf_cons v j x r).mp w
      by_cases hj : 0 < j
      · have hw : kwfFrom v 0 ((j, x) :: r) = true := (kwfFrom_cons v 0 j x r).mpr ⟨hj, h2, h3⟩
        simp only [kget, kfind?_kdel_from v 0 _ n hw]
        split <;> simp
      · have j0 : j = 0 := by omega
        subst j0
        simp only [kdel]
        by_cases hn : n = 0
        · subst hn
          simp only [if_true]
          by_cases hk : k = 0
          · subst hk; simp [kget, kfind?_none_of_lt v r 0 0 h3]
          · simp [kget, kfind?, hk]
        · simp only [hn, if_false, Nat.not_lt_zero]
          simp only [kget, kfind?, Nat.not_lt_zero, if_false, kfind?_kdel_from v 0 r n h3]
          by_cases hk : k = n
          · subst hk; simp [hn]
          · simp [hk]
  · by_cases hk : k = n
    · subst hk; simp
    · simp [kget_kput_ne d m v hk, hk]

end Sys2Proof.Machine
end

