-- ==== Sys2Proof/Laws/Access.lean ====
section
/-! SUPPORT. What an accessor reads after an update through its table: the entry written, and every other as before. -/

namespace Sys2Proof.Machine

open Sys2Proof

set_option Elab.async false

variable (d : Dev)

@[simp] theorem ctxOf_modCtx (n : W32) (f : Context → Context) : ctxOf (modCtx n f d) n = f (ctxOf d n) := by simp [ctxOf]
theorem ctxOf_modCtx_ne {n k : W32} (f : Context → Context) (h : k ≠ n) : ctxOf (modCtx n f d) k = ctxOf d k := by
  have h' : k.toNat ≠ n.toNat := fun e => h (BitVec.eq_of_toNat_eq e)
  simp [ctxOf, kget_kput_ne _ _ _ h']
@[simp] theorem queueOf_modQueue (n : Nat) (f : Queue → Queue) : queueOf (modQueue n f d) n = f (queueOf d n) := by simp [queueOf]
theorem queueOf_modQueue_ne {n k : Nat} (f : Queue → Queue) (h : k ≠ n) : queueOf (modQueue n f d) k = queueOf d k := by
  simp [queueOf, kget_kput_ne _ _ _ h]
@[simp] theorem slotOf_modSlot (n : Nat) (f : Slot → Slot) : slotOf (modSlot n f d) n = f (slotOf d n) := by simp [slotOf]
theorem slotOf_modSlot_ne {n k : Nat} (f : Slot → Slot) (h : k ≠ n) : slotOf (modSlot n f d) k = slotOf d k := by
  simp [slotOf, kget_kput_ne _ _ _ h]
@[simp] theorem portOf_modPort (n : Nat) (f : Port → Port) : portOf (modPort n f d) n = f (portOf d n) := by simp [portOf]
theorem portOf_modPort_ne {n k : Nat} (f : Port → Port) (h : k ≠ n) : portOf (modPort n f d) k = portOf d k := by
  simp [portOf, kget_kput_ne _ _ _ h]
@[simp] theorem coreOf_modCore (n : Nat) (f : Core → Core) : coreOf (modCore n f d) n = f (coreOf d n) := by simp [coreOf]
theorem coreOf_modCore_ne {n k : Nat} (f : Core → Core) (h : k ≠ n) : coreOf (modCore n f d) k = coreOf d k := by
  simp [coreOf, kget_kput_ne _ _ _ h]
@[simp] theorem procOf_modProc (n : Nat) (f : Processor → Processor) : procOf (modProc n f d) n = f (procOf d n) := by simp [procOf]
theorem procOf_modProc_ne {n k : Nat} (f : Processor → Processor) (h : k ≠ n) : procOf (modProc n f d) k = procOf d k := by
  simp [procOf, kget_kput_ne _ _ _ h]
@[simp] theorem dmaOf_modDma (n : Nat) (f : DmaChannel → DmaChannel) : dmaOf (modDma n f d) n = f (dmaOf d n) := by simp [dmaOf]
theorem dmaOf_modDma_ne {n k : Nat} (f : DmaChannel → DmaChannel) (h : k ≠ n) : dmaOf (modDma n f d) k = dmaOf d k := by
  simp [dmaOf, kget_kput_ne _ _ _ h]
@[simp] theorem uwdOf_modUwd (n : Nat) (f : UnitWd → UnitWd) : uwdOf (modUwd n f d) n = f (uwdOf d n) := by simp [uwdOf]
theorem uwdOf_modUwd_ne {n k : Nat} (f : UnitWd → UnitWd) (h : k ≠ n) : uwdOf (modUwd n f d) k = uwdOf d k := by
  simp [uwdOf, kget_kput_ne _ _ _ h]
@[simp] theorem gaugeOf_modGauge (n : Nat) (f : Gauge → Gauge) : gaugeOf (modGauge n f d) n = f (gaugeOf d n) := by simp [gaugeOf]
theorem gaugeOf_modGauge_ne {n k : Nat} (f : Gauge → Gauge) (h : k ≠ n) : gaugeOf (modGauge n f d) k = gaugeOf d k := by
  simp [gaugeOf, kget_kput_ne _ _ _ h]
@[simp] theorem pulseOf_modPulse (n : Nat) (f : Pulse → Pulse) : pulseOf (modPulse n f d) n = f (pulseOf d n) := by simp [pulseOf]
theorem pulseOf_modPulse_ne {n k : Nat} (f : Pulse → Pulse) (h : k ≠ n) : pulseOf (modPulse n f d) k = pulseOf d k := by
  simp [pulseOf, kget_kput_ne _ _ _ h]
@[simp] theorem ptpOf_modPtp (n : Nat) (f : PtpPort → PtpPort) : ptpOf (modPtp n f d) n = f (ptpOf d n) := by simp [ptpOf]
theorem ptpOf_modPtp_ne {n k : Nat} (f : PtpPort → PtpPort) (h : k ≠ n) : ptpOf (modPtp n f d) k = ptpOf d k := by
  simp [ptpOf, kget_kput_ne _ _ _ h]
@[simp] theorem segOf_modSeg (n : Nat) (f : Segment → Segment) : segOf (modSeg n f d) n = f (segOf d n) := by simp [segOf]
theorem segOf_modSeg_ne {n k : Nat} (f : Segment → Segment) (h : k ≠ n) : segOf (modSeg n f d) k = segOf d k := by
  simp [segOf, kget_kput_ne _ _ _ h]
@[simp] theorem stopOf_modStop (n : Nat) (f : MemStop → MemStop) : stopOf (modStop n f d) n = f (stopOf d n) := by simp [stopOf]
theorem stopOf_modStop_ne {n k : Nat} (f : MemStop → MemStop) (h : k ≠ n) : stopOf (modStop n f d) k = stopOf d k := by
  simp [stopOf, kget_kput_ne _ _ _ h]
@[simp] theorem ctxOf_setCtx (n : W32) (x : Context) : ctxOf (setCtx n x d) n = x := by simp [ctxOf]
@[simp] theorem queueOf_setQueue (n : Nat) (x : Queue) : queueOf (setQueue n x d) n = x := by simp [queueOf]
theorem queueOf_setQueue_ne {n k : Nat} (x : Queue) (h : k ≠ n) : queueOf (setQueue n x d) k = queueOf d k := by
  simp [queueOf, kget_kput_ne _ _ _ h]
@[simp] theorem coreOf_setCore (n : Nat) (x : Core) : coreOf (setCore n x d) n = x := by simp [coreOf]
theorem coreOf_setCore_ne {n k : Nat} (x : Core) (h : k ≠ n) : coreOf (setCore n x d) k = coreOf d k := by
  simp [coreOf, kget_kput_ne _ _ _ h]
@[simp] theorem signalOf_setSignal (n : Nat) (x : Signal) : signalOf (setSignal n x d) n = x := by simp [signalOf]
theorem signalOf_setSignal_ne {n k : Nat} (x : Signal) (h : k ≠ n) : signalOf (setSignal n x d) k = signalOf d k := by
  simp [signalOf, kget_kput_ne _ _ _ h]
@[simp] theorem sessOf_modSess (n : Nat) (f : Session → Session) :
    sessOf (modSess n f d) n = if n = 0 then { f (sessOf d n) with isOpen := true, confirmed := true } else f (sessOf d n) := by
  simp [sessOf]
theorem sessOf_modSess_ne {n k : Nat} (f : Session → Session) (h : k ≠ n) : sessOf (modSess n f d) k = sessOf d k := by
  simp [sessOf, kget_kput_ne _ _ _ h]

end Sys2Proof.Machine
end

