-- ==== Sys2Proof/Laws/Schedule.lean ====
section
/-! SUPPORT. What launching kernels and zeroing local memories can change: `pump` and `onDevZ`, once. -/

namespace Sys2Proof.Machine

open Sys2Proof

set_option Elab.async false

theorem onlyBundles_refl (c : Core) : onlyBundles c c := rfl

theorem onlyBundles_trans {a b c : Core} (h : onlyBundles a b) (k : onlyBundles b c) : onlyBundles a c := by
  unfold onlyBundles at *
  rw [k, h]

theorem onlyLaunches_refl (d : Dev) : onlyLaunches d d := ⟨rfl, fun _ => rfl, fun _ => rfl⟩

/-- A change of the scheduler's queues and of the counter of free values is a launch. -/
theorem launches_of_cores {d e : Dev} (h : e = { d with
    free := e.free
    sched := { d.sched with queue := e.sched.queue, golden := e.sched.golden, runs := e.sched.runs, nextOp := e.sched.nextOp }
    cores := { d.cores with signals := e.cores.signals } }) : onlyLaunches d e := by
  have hc : e.cores.core = d.cores.core := by rw [h]
  have hd : e.cores.dma = d.cores.dma := by rw [h]
  refine ⟨by rw [hc, hd]; exact h, fun n => ?_, fun n => ?_⟩
  · have : coreOf e n = coreOf d n := congrArg (fun m : KMap Core => kget ({} : Core) m n) hc
    rw [this]; exact onlyBundles_refl _
  · have : dmaOf e n = dmaOf d n := congrArg (fun m : KMap DmaChannel => kget ({} : DmaChannel) m n) hd
    rw [this]; exact rfl

theorem sameTransfer_trans {a b c : DmaChannel} (h : sameTransfer a b) (k : sameTransfer b c) : sameTransfer a c := by
  unfold sameTransfer at *
  rw [k, h]

theorem onlyLaunches_trans {a b c : Dev} (h : onlyLaunches a b) (k : onlyLaunches b c) : onlyLaunches a c := by
  refine ⟨?_, fun n => onlyBundles_trans (h.2.1 n) (k.2.1 n), fun n => sameTransfer_trans (h.2.2 n) (k.2.2 n)⟩
  rw [k.1, h.1]

theorem modSched_queue_launches (f : List Operation → List Operation) (d : Dev) :
    onlyLaunches d (modSched (fun s => { s with queue := f s.queue }) d) := launches_of_cores rfl

theorem modCore_launches (n : Nat) (f : Core → Core) (d : Dev) (h : ∀ c, onlyBundles c (f c)) :
    onlyLaunches d (modCore n f d) := by
  refine ⟨rfl, fun k => ?_, fun _ => rfl⟩
  by_cases e : k = n
  · subst e; rw [coreOf_modCore]; exact h _
  · rw [coreOf_modCore_ne _ _ e]; exact rfl

theorem setSignal_launches (n : Nat) (x : Signal) (d : Dev) : onlyLaunches d (setSignal n x d) := launches_of_cores rfl

/-- A fold of steps that each only launch only launches. -/
theorem foldl_launches {α : Type} (f : Dev → α → Dev) (h : ∀ d a, onlyLaunches d (f d a)) (l : List α) (d : Dev) :
    onlyLaunches d (l.foldl f d) := by
  induction l generalizing d with
  | nil => exact onlyLaunches_refl d
  | cons a l ih => exact onlyLaunches_trans (h d a) (ih _)

theorem clearCore_launches (n : Nat) (d : Dev) : onlyLaunches d (clearCore n d) :=
  onlyLaunches_trans (modCore_launches n (fun c => { c with bundles := [], store := [], forwards := [], posts := [], loadConst := [] }) d fun _ => rfl) (launches_of_cores rfl)

theorem wipeCore_launches (n : Nat) (d : Dev) : onlyLaunches d (wipeCore n d) :=
  onlyLaunches_trans (clearCore_launches n d)
    (modCore_launches n (fun c => { c with engines := [], mustZero := true }) _ fun _ => rfl)

theorem addOp_launches (o : Operation) (d : Dev) : onlyLaunches d (addOp o d) := by
  refine launches_of_cores ?_
  unfold addOp modSched
  simp only
  split <;> rfl

/-- Transfers of cores whose run has ended go on, and belong to none. -/
theorem freeTransfers_launches (p : DmaChannel → Bool) (d : Dev) :
    onlyLaunches d { d with cores := { d.cores with dma := kmapv (fun _ c =>
      if p c then { c with core := 64, post := none } else c) d.cores.dma } } := by
  refine ⟨rfl, fun _ => rfl, fun n => ?_⟩
  unfold dmaOf kget
  simp only [kfind?_kmapv]
  cases kfind? d.cores.dma n with
  | none => rfl
  | some c => simp only [Option.map_some, Option.getD_some]; split <;> rfl

theorem zeroingNow_launches (n : Nat) (d : Dev) : onlyLaunches d (zeroingNow n d) := modCore_launches n _ _ fun _ => rfl

theorem endRun_launches (r : Run_) (d : Dev) : onlyLaunches d (endRun r d) := by
  unfold endRun
  refine onlyLaunches_trans (onlyLaunches_trans (launches_of_cores rfl) (foldl_launches _ (fun d a => ?_) _ _))
    (freeTransfers_launches (fun c => c.busy && r.cores.contains c.core) _)
  split
  · exact onlyLaunches_trans (wipeCore_launches a d) (zeroingNow_launches a _)
  · exact wipeCore_launches a d

theorem placeGroup_bundles (k : Kernel) (g base : Nat) (passB : Bool) (c : Core) : onlyBundles c (placeGroup k g base passB c) := by
  unfold placeGroup
  simp only
  generalize (freeSlots c).zip _ = l
  induction l generalizing c with
  | nil => exact onlyBundles_refl c
  | cons a l ih => exact onlyBundles_trans (by exact rfl) (ih _)

theorem dispatchGroup_bundles {k : Kernel} {g : Nat} {c e : Core} (h : dispatchGroup? k g c = some e) : onlyBundles c e := by
  unfold dispatchGroup? at h
  simp only at h
  split at h
  · split at h
    · split at h
      · cases h; exact placeGroup_bundles _ _ _ _ _
      · cases h
    · split at h
      · cases h; exact onlyBundles_trans (placeGroup_bundles _ _ _ _ _) (placeGroup_bundles _ _ _ _ _)
      · cases h
  · split at h
    · cases h; exact placeGroup_bundles _ _ _ _ _
    · cases h
  · cases h

theorem fillCore_bundles (k : Kernel) (fuel g : Nat) (c : Core) : onlyBundles c (fillCore k fuel g c).2 := by
  induction fuel generalizing g c with
  | zero => exact onlyBundles_refl c
  | succ n ih =>
    unfold fillCore
    split
    · exact onlyBundles_refl c
    · split
      · exact onlyBundles_trans (dispatchGroup_bundles ‹_›) (ih _ _)
      · exact onlyBundles_refl c

theorem setCore_launches {n : Nat} {x : Core} {d : Dev} (h : onlyBundles (coreOf d n) x) : onlyLaunches d (setCore n x d) := by
  refine ⟨rfl, fun k => ?_, fun _ => rfl⟩
  by_cases e : k = n
  · subst e; rw [coreOf_setCore]; exact h
  · rw [coreOf_setCore_ne _ _ e]; exact rfl

theorem dispatchRun_launches (k : Kernel) (cores : List Nat) (g : Nat) (d : Dev) :
    onlyLaunches d (dispatchRun k cores g d).2 := by
  unfold dispatchRun
  induction cores generalizing g d with
  | nil => exact onlyLaunches_refl d
  | cons n l ih =>
    exact onlyLaunches_trans (b := setCore n (fillCore k 64 g (coreOf d n)).2 d) (setCore_launches (fillCore_bundles _ _ _ _))
      (ih (fillCore k 64 g (coreOf d n)).1 _)

theorem startRun_launches (k : Kernel) (r : Run_) (d : Dev) : onlyLaunches d (startRun k r d) := by
  let d1 := (List.range k.signals).foldl (fun d i => setSignal (signalBase (r.cores.headD 0) + i) {} d) d
  let d2 := r.cores.foldl (fun d n =>
    modCore n (fun c => { c with dispatched := 0, retired := 0, loadConst := constantsOf k }) (wipeCore n d)) d1
  have h1 : onlyLaunches d d1 := foldl_launches _ (fun d a => setSignal_launches _ _ d) _ _
  have h2 : onlyLaunches d1 d2 := foldl_launches _ (fun d a =>
    onlyLaunches_trans (wipeCore_launches a d)
      (modCore_launches a (fun c => { c with dispatched := 0, retired := 0, loadConst := constantsOf k }) _ fun _ => rfl)) _ _
  have h3 := dispatchRun_launches k r.cores 0 d2
  exact onlyLaunches_trans (onlyLaunches_trans h1 (onlyLaunches_trans h2 h3)) (launches_of_cores rfl)

theorem stopDonated_launches (cores : List Nat) (d : Dev) : onlyLaunches d (stopDonated cores d) := by
  refine foldl_launches _ (fun d n => ?_) _ _
  split
  · split
    · exact onlyLaunches_trans (endRun_launches _ d) (addOp_launches _ _)
    · exact onlyLaunches_refl d
  · exact onlyLaunches_refl d

theorem launchOwn_launches {p : Nat} {q : Partition} {d e : Dev} (h : launchOwn? p q d = some e) : onlyLaunches d e := by
  simp only [launchOwn?, Option.bind_eq_bind, Option.bind_eq_some_iff] at h
  obtain ⟨o, -, k, -, h⟩ := h
  split at h
  · cases h
  · cases h
    refine onlyLaunches_trans (b := stopDonated (chooseFrom d.free k.cores (ownCores d p q k (lastInLine d o))) { d with free := d.free + 1 })
      ?_ (onlyLaunches_trans ?_ (startRun_launches _ _ _))
    · refine onlyLaunches_trans (b := { d with free := d.free + 1 }) ?_ (stopDonated_launches _ _)
      exact launches_of_cores rfl
    · exact launches_of_cores rfl

theorem launchDonated_launches {p : Nat} {d e : Dev} (h : launchDonated? p d = some e) : onlyLaunches d e := by
  obtain ⟨x, -, h⟩ := List.exists_of_findSome?_eq_some h
  simp only [Option.bind_eq_bind, Option.bind_eq_some_iff] at h
  obtain ⟨o, -, k, -, h⟩ := h
  split at h
  · cases h
  · cases h
    refine onlyLaunches_trans ?_ (startRun_launches _ _ _)
    exact launches_of_cores rfl

theorem launchGolden_launches {d e : Dev} (h : launchGolden? d = some e) : onlyLaunches d e := by
  simp only [launchGolden?, Option.bind_eq_bind, Option.bind_eq_some_iff] at h
  obtain ⟨g, -, k, -, h⟩ := h
  cases h
  refine onlyLaunches_trans (stopDonated_launches [g.1] d) (onlyLaunches_trans ?_ (startRun_launches _ _ _))
  exact launches_of_cores rfl

theorem launchOne_launches {d e : Dev} (h : launchOne? d = some e) : onlyLaunches d e := by
  unfold launchOne? at h
  split at h
  · cases h; exact launchGolden_launches ‹_›
  · split at h
    · cases h
      obtain ⟨x, -, hx⟩ := List.exists_of_findSome?_eq_some ‹_›
      exact launchOwn_launches hx
    · obtain ⟨x, -, hx⟩ := List.exists_of_findSome?_eq_some h
      exact launchDonated_launches hx

theorem launchAll_launches (fuel : Nat) (d : Dev) : onlyLaunches d (launchAll fuel d) := by
  induction fuel generalizing d with
  | zero => exact onlyLaunches_refl d
  | succ n ih =>
    unfold launchAll
    split
    · exact onlyLaunches_trans (launchOne_launches ‹_›) (ih _)
    · exact onlyLaunches_refl d

/-- Everything `pump` can do: launch kernels. -/
theorem pump_launches (d : Dev) : onlyLaunches d (pump d) := by
  unfold pump
  split
  · exact launchAll_launches _ _
  · exact onlyLaunches_refl d

/-- With no operation waiting `pump` does nothing. -/
theorem pump_idle {d : Dev} (h : d.sched.queue = []) (k : d.sched.golden = []) : pump d = d := by
  simp [pump, h, k, launchAll]

theorem onlyZeroed_refl (m : Mem) : onlyZeroed m m := ⟨rfl, rfl, rfl, rfl⟩

theorem onlyZeroed_trans {a b c : Mem} (h : onlyZeroed a b) (k : onlyZeroed b c) : onlyZeroed a c :=
  ⟨k.1.trans h.1, k.2.1.trans h.2.1, k.2.2.1.trans h.2.2.1, k.2.2.2.trans h.2.2.2⟩

/-- What is dropped at or above the local memories shows nowhere below them. -/
theorem belowLocal_filter {α : Type} (m : KMap α) (p : Nat × α → Bool) (h : ∀ e : Nat × α, e.1 < 0x220000000 → p e = true) :
    belowLocal (m.filter p) = belowLocal m := by
  unfold belowLocal
  rw [List.filter_filter]
  refine List.filter_congr fun e _ => ?_
  by_cases hw : e.1 < 0x220000000
  · simp [hw, h e hw]
  · simp [hw]

theorem belowLocal_kput {α : Type} (m : KMap α) (n : Nat) (v : α) (h : 0x220000000 ≤ n) : belowLocal (kput m n v) = belowLocal m := by
  unfold belowLocal
  have hn : ¬ n < 0x220000000 := Nat.not_lt.mpr h
  induction m with
  | nil => simp [kput, hn]
  | cons e m ih =>
    obtain ⟨k, w⟩ := e
    simp only [kput]
    split
    · subst_vars; simp [List.filter_cons, hn]
    · split
      · simp [List.filter_cons, hn]
      · simp [List.filter_cons, ih]

theorem belowLocal_kdel {α : Type} (m : KMap α) (n : Nat) (h : 0x220000000 ≤ n) : belowLocal (kdel m n) = belowLocal m := by
  unfold belowLocal
  have hn : ¬ n < 0x220000000 := Nat.not_lt.mpr h
  induction m with
  | nil => simp [kdel]
  | cons e m ih =>
    obtain ⟨k, w⟩ := e
    simp only [kdel]
    split
    · subst_vars; simp [List.filter_cons, hn]
    · split
      · rfl
      · simp [List.filter_cons, ih]

theorem belowLocal_kset (m : KMap W64) (n : Nat) (v : W64) (h : 0x220000000 ≤ n) : belowLocal (kset 0 m n v) = belowLocal m := by
  unfold kset
  split
  · exact belowLocal_kdel m n h
  · exact belowLocal_kput m n v h

theorem zeroLocal_zeroed (n : Nat) (m : Mem) : onlyZeroed m (zeroLocal n m) := by
  have hl : ∀ w, w < 0x220000000 → (!localWord n w) = true := fun w hw => by
    have : ¬ (0x220000000 + n * 65536 ≤ w) := by omega
    simp [localWord, this]
  exact ⟨belowLocal_filter _ _ fun e he => hl e.1 he, belowLocal_filter _ _ fun e he => hl e.1 he, rfl, rfl⟩

theorem foldl_zeroed {α : Type} (f : Mem → α → Mem) (h : ∀ m a, onlyZeroed m (f m a)) (l : List α) (m : Mem) :
    onlyZeroed m (l.foldl f m) := by
  induction l generalizing m with
  | nil => exact onlyZeroed_refl m
  | cons a l ih => exact onlyZeroed_trans (h m a) (ih _)

theorem loadConstants_zeroed (n : Nat) (b : List Byte) (m : Mem) : onlyZeroed m (loadConstants n b m) :=
  foldl_zeroed (fun m i =>
      { m with words := kset 0 m.words (0x220000000 + n * 65536 + i) (BitVec.ofNat 64 (fieldAt b (8 * i) 8)) })
    (fun m i => ⟨belowLocal_kset _ _ _ (by omega), rfl, rfl, rfl⟩) _ m

/-- Everything `zeroCores` can do. -/
theorem zeroCores_spec (s : State) :
    onlyLaunches s.dev (zeroCores s).dev ∧ onlyZeroed s.mem (zeroCores s).mem ∧ (zeroCores s).pending = s.pending := by
  unfold zeroCores
  refine ⟨⟨rfl, fun n => ?_, fun _ => rfl⟩, ?_, rfl⟩
  · unfold onlyBundles coreOf
    simp only
    rw [kget_kmapv _ _ _ _ rfl]
  · exact onlyZeroed_trans (foldl_zeroed _ (fun m n => zeroLocal_zeroed n m) _ _)
      (foldl_zeroed (fun m (e : Nat × List Byte) => loadConstants e.1 e.2 m) (fun m e => loadConstants_zeroed e.1 e.2 m) _ _)

/-- Everything `onDevZ` can do beside its function. -/
theorem onDevZ_spec (f : Dev → Dev) (s : State) :
    onlyLaunches (f s.dev) (onDevZ f s).dev ∧ onlyZeroed s.mem (onDevZ f s).mem ∧ (onDevZ f s).pending = s.pending :=
  zeroCores_spec (onDev f s)

/-- A function followed by launches, under `onDevZ`. -/
theorem onDevZ_pump_spec (f : Dev → Dev) (s : State) :
    onlyLaunches (f s.dev) (onDevZ (fun d => pump (f d)) s).dev ∧ onlyZeroed s.mem (onDevZ (fun d => pump (f d)) s).mem ∧
      (onDevZ (fun d => pump (f d)) s).pending = s.pending :=
  ⟨onlyLaunches_trans (pump_launches _) (onDevZ_spec (fun d => pump (f d)) s).1, (onDevZ_spec _ s).2⟩

/-- `onDevZ` answers a next state, and what that is. -/
theorem exists_onDevZ (f : Dev → Dev) (s : State) :
    ∃ u, (Host.Outcome.next (onDevZ f s) : Host.Outcome State Fault Refusal) = .next u ∧ onlyLaunches (f s.dev) u.dev ∧
      onlyZeroed s.mem u.mem ∧ u.pending = s.pending := ⟨_, rfl, onDevZ_spec f s⟩

/-- The same for a function followed by launches. -/
theorem exists_pump (f : Dev → Dev) (s : State) :
    ∃ u, (Host.Outcome.next (onDevZ (fun d => pump (f d)) s) : Host.Outcome State Fault Refusal) = .next u ∧
      onlyLaunches (f s.dev) u.dev ∧ onlyZeroed s.mem u.mem ∧ u.pending = s.pending := ⟨_, rfl, onDevZ_pump_spec f s⟩

/-! ### Allocation (R243) -/

theorem belowLocal_comm {α : Type} (m : KMap α) (p : Nat × α → Bool) : belowLocal (m.filter p) = (belowLocal m).filter p := by
  unfold belowLocal
  rw [List.filter_filter, List.filter_filter]
  exact List.filter_congr fun e _ => Bool.and_comm _ _

/-- Segments are zeroed alike in memories that agree below the local ones. -/
theorem zeroSeg_zeroed (g : Nat) {a b : Mem} (h : onlyZeroed a b) : onlyZeroed (zeroSeg g a) (zeroSeg g b) := by
  obtain ⟨h1, h2, h3, h4⟩ := h
  refine ⟨?_, ?_, ?_, ?_⟩
  · show belowLocal (b.words.filter _) = belowLocal (a.words.filter _)
    rw [belowLocal_comm, belowLocal_comm, h1]
  · show belowLocal (b.synd.filter _) = belowLocal (a.synd.filter _)
    rw [belowLocal_comm, belowLocal_comm, h2]
  · show b.parity.filter _ = a.parity.filter _
    rw [h3]
  · show b.psynd.filter _ = a.psynd.filter _
    rw [h4]

theorem zeroSegs_zeroed (l : List Nat) {a b : Mem} (h : onlyZeroed a b) :
    onlyZeroed (l.foldl (fun m g => zeroSeg g m) a) (l.foldl (fun m g => zeroSeg g m) b) := by
  induction l generalizing a b with
  | nil => exact h
  | cons g l ih => exact ih (zeroSeg_zeroed g h)

/-- What a device after launches allocates is what the device before them did. -/
theorem onlyLaunches_zeroed {d e : Dev} (h : onlyLaunches d e) : onlyLaunches (zeroed d) (zeroed e) := by
  refine ⟨?_, h.2.1, h.2.2⟩
  show ({ e with memctl := { e.memctl with toZero := [] } } : Dev) = _
  rw [h.1]
  rfl

/-- Everything `onDevA` can do beside its function. -/
theorem onDevA_spec (f : Dev → Dev) (s : State) : doneAs (f s.dev) s (onDevA f s) := by
  obtain ⟨h1, h2, h3⟩ := onDevZ_spec f s
  have hm : (onDevZ f s).dev.memctl = (f s.dev).memctl := by rw [h1.1]
  refine ⟨onlyLaunches_zeroed h1, ?_, h3⟩
  show onlyZeroed _ ((onDevZ f s).dev.memctl.toZero.foldl (fun m g => zeroSeg g m) (onDevZ f s).mem)
  rw [hm]
  exact zeroSegs_zeroed _ h2

/-- Launches after a function are part of what is done. -/
theorem doneAs_pump {d : Dev} {s u : State} (h : doneAs (pump d) s u) : doneAs d s u := by
  have hp := pump_launches d
  have hm : (pump d).memctl = d.memctl := by rw [hp.1]
  obtain ⟨h1, h2, h3⟩ := h
  refine ⟨onlyLaunches_trans (onlyLaunches_zeroed hp) h1, ?_, h3⟩
  unfold zeroedMem at *
  rwa [hm] at h2

/-- `onDevA` answers a next state, and what that is; the same for a function followed by launches. -/
theorem exists_onDevA (f : Dev → Dev) (s : State) :
    ∃ u, (Host.Outcome.next (onDevA f s) : Host.Outcome State Fault Refusal) = .next u ∧ doneAs (f s.dev) s u :=
  ⟨_, rfl, onDevA_spec f s⟩
theorem exists_pumpA (f : Dev → Dev) (s : State) :
    ∃ u, (Host.Outcome.next (onDevA (fun d => pump (f d)) s) : Host.Outcome State Fault Refusal) = .next u ∧ doneAs (f s.dev) s u :=
  ⟨_, rfl, doneAs_pump (onDevA_spec (fun d => pump (f d)) s)⟩

/-- Nothing is allocated: the memory below the local ones stands. -/
theorem doneAs_plain {d : Dev} {s u : State} (h : doneAs d s u) (hz : d.memctl.toZero = []) :
    onlyLaunches d u.dev ∧ onlyZeroed s.mem u.mem ∧ u.pending = s.pending := by
  obtain ⟨h1, h2, h3⟩ := h
  have e : zeroed d = d := by
    show ({ d with memctl := { d.memctl with toZero := [] } } : Dev) = d
    rw [← hz]
  unfold zeroedMem at h2
  rw [hz] at h2
  rw [e] at h1
  exact ⟨h1, h2, h3⟩

/-! ### What stays, field by field -/

theorem onlyLaunches.front {d e : Dev} (h : onlyLaunches d e) : e.front = d.front := by rw [h.1]
theorem onlyLaunches.queues {d e : Dev} (h : onlyLaunches d e) : e.queues = d.queues := by rw [h.1]
theorem onlyLaunches.sessions {d e : Dev} (h : onlyLaunches d e) : e.sessions = d.sessions := by rw [h.1]
theorem onlyLaunches.accepted {d e : Dev} (h : onlyLaunches d e) : e.accepted = d.accepted := by rw [h.1]
theorem onlyLaunches.attn {d e : Dev} (h : onlyLaunches d e) : e.attn = d.attn := by rw [h.1]
theorem onlyLaunches.bonnet {d e : Dev} (h : onlyLaunches d e) : e.bonnet = d.bonnet := by rw [h.1]
theorem onlyLaunches.plans {d e : Dev} (h : onlyLaunches d e) : e.plans = d.plans := by rw [h.1]
theorem onlyLaunches.contexts {d e : Dev} (h : onlyLaunches d e) : e.contexts = d.contexts := by rw [h.1]
theorem onlyLaunches.ctxOrder {d e : Dev} (h : onlyLaunches d e) : e.ctxOrder = d.ctxOrder := by rw [h.1]
theorem onlyLaunches.slots {d e : Dev} (h : onlyLaunches d e) : e.slots = d.slots := by rw [h.1]
theorem onlyLaunches.streams {d e : Dev} (h : onlyLaunches d e) : e.streams = d.streams := by rw [h.1]
theorem onlyLaunches.ports {d e : Dev} (h : onlyLaunches d e) : e.ports = d.ports := by rw [h.1]
theorem onlyLaunches.memctl {d e : Dev} (h : onlyLaunches d e) : e.memctl = d.memctl := by rw [h.1]
theorem onlyLaunches.cal {d e : Dev} (h : onlyLaunches d e) : e.cal = d.cal := by rw [h.1]
theorem onlyLaunches.watch {d e : Dev} (h : onlyLaunches d e) : e.watch = d.watch := by rw [h.1]
theorem onlyLaunches.gnt {d e : Dev} (h : onlyLaunches d e) : e.gnt = d.gnt := by rw [h.1]
theorem onlyLaunches.geyser {d e : Dev} (h : onlyLaunches d e) : e.geyser = d.geyser := by rw [h.1]
theorem onlyLaunches.pace {d e : Dev} (h : onlyLaunches d e) : e.pace = d.pace := by rw [h.1]
theorem onlyLaunches.fabric {d e : Dev} (h : onlyLaunches d e) : e.fabric = d.fabric := by rw [h.1]
theorem onlyLaunches.start {d e : Dev} (h : onlyLaunches d e) : e.start = d.start := by rw [h.1]
theorem onlyLaunches.board {d e : Dev} (h : onlyLaunches d e) : e.board = d.board := by rw [h.1]
theorem onlyLaunches.sched_parts {d e : Dev} (h : onlyLaunches d e) : e.sched.parts = d.sched.parts := by rw [h.1]
theorem onlyLaunches.sched_tables {d e : Dev} (h : onlyLaunches d e) : e.sched.tables = d.sched.tables := by rw [h.1]
theorem onlyLaunches.sched_commits {d e : Dev} (h : onlyLaunches d e) : e.sched.commits = d.sched.commits := by rw [h.1]
theorem onlyLaunches.sched_hbm {d e : Dev} (h : onlyLaunches d e) : e.sched.hbm = d.sched.hbm := by rw [h.1]
theorem onlyLaunches.sched_mesh {d e : Dev} (h : onlyLaunches d e) : e.sched.mesh = d.sched.mesh := by rw [h.1]
theorem onlyLaunches.sched_withdrawn {d e : Dev} (h : onlyLaunches d e) : e.sched.withdrawn = d.sched.withdrawn := by rw [h.1]
theorem onlyLaunches.sched_readmit {d e : Dev} (h : onlyLaunches d e) : e.sched.readmit = d.sched.readmit := by rw [h.1]
theorem onlyLaunches.sched_deferred {d e : Dev} (h : onlyLaunches d e) : e.sched.deferred = d.sched.deferred := by rw [h.1]
theorem onlyLaunches.cores_proc {d e : Dev} (h : onlyLaunches d e) : e.cores.proc = d.cores.proc := by rw [h.1]
theorem onlyLaunches.hwSets {d e : Dev} (h : onlyLaunches d e) : e.hwSets = d.hwSets := by rw [h.1]
theorem onlyLaunches.hwAt {d e : Dev} (h : onlyLaunches d e) : e.hwAt = d.hwAt := by rw [h.1]
theorem onlyLaunches.mesh {d e : Dev} (h : onlyLaunches d e) : e.mesh = d.mesh := by rw [h.1]
theorem onlyLaunches.sched_requests {d e : Dev} (h : onlyLaunches d e) : e.sched.requests = d.sched.requests := by rw [h.1]
theorem onlyLaunches.cores_changes {d e : Dev} (h : onlyLaunches d e) : e.cores.changes = d.cores.changes := by rw [h.1]
theorem onlyLaunches.cores_record {d e : Dev} (h : onlyLaunches d e) : e.cores.record = d.cores.record := by rw [h.1]
theorem onlyLaunches.cores_nextChange {d e : Dev} (h : onlyLaunches d e) : e.cores.nextChange = d.cores.nextChange := by rw [h.1]

end Sys2Proof.Machine
end

