-- ==== Sys2Proof/Laws/Denec.lean ====
section
/-! SUPPORT. A packet that passes every check but its opcode's own reaches its meaning: `arrive` and `denec`, once. -/

namespace Sys2Proof.Machine

open Sys2Proof

set_option Elab.async false

/-- Putting twice at one key keeps the last. -/
@[simp] theorem kput_kput {α : Type} (m : KMap α) (n : Nat) (v w : α) : kput (kput m n v) n w = kput m n w := by
  induction m with
  | nil => simp [kput]
  | cons e m ih =>
    obtain ⟨k, x⟩ := e
    simp only [kput]
    split
    · simp [kput]
    · split
      · simp [kput]
      · simp [kput, *]

@[simp] theorem modSess_modSess (n : Nat) (f g : Session → Session) (d : Dev) :
    modSess n g (modSess n f d) = modSess n (fun s => g (if n = 0 then { f s with isOpen := true, confirmed := true } else f s)) d := by
  unfold modSess
  rw [show sessOf (setSess n (f (sessOf d n)) d) n = _ from sessOf_modSess d n f]
  simp [setSess]

/-- What the rows of Table 12.10 see of a session: that it is open, its keys, its counters and its limits. -/
def sameRows (a b : Session) : Prop :=
  b = { a with waiting := b.waiting, confirmed := b.confirmed }

theorem packetCheck_rows {a b : Session} (h : sameRows a b) (p : Packet) : packetCheck b p = packetCheck a p := by
  rw [h]; rfl

theorem row7_rows {n : Nat} {path : Path} {p : Packet} {d e : Dev} (h : sameRows (sessOf d n) (sessOf e n)) :
    row7 n path p e = row7 n path p d := by
  have : (sessOf e n).provisioning = (sessOf d n).provisioning := by rw [h]
  unfold row7
  rw [this]

/-- Row 4 for a fresh counter, then rows 5 to 8: the meaning is reached. -/
theorem row4_passes {n : Nat} {path : Path} {p : Packet} {d e : Dev} (h : packetPasses n path p d)
    (hs : sameRows (sessOf d n) (sessOf e n)) (hf : inSafe e = inSafe d) (ha : e.accepted = d.accepted)
    (hb : namesBusyUnit p e = namesBusyUnit p d) :
    row4 opcodeBody n path p e = answerOf n path p e (opcodeBody n path p e) := by
  have hst : (sessOf e n).store = (sessOf d n).store := by rw [hs]
  have hhi : (sessOf e n).high = (sessOf d n).high := by rw [hs]
  unfold row4
  have h1 : (sessOf e n).store.find? (fun e => e.counter == p.counter) = none := by
    rw [hst, List.find?_eq_none]
    intro x hx
    simpa using h.fresh x hx
  simp only [h1]
  rw [hhi, if_pos ⟨h.above, h.highMax⟩]
  unfold rows5to8
  simp only
  rw [if_neg, if_neg]
  · rw [row7_rows hs, h.row7]
    unfold answerOf
    cases (opcodeBody n path p e).1 <;> rfl
  · have hroom := h.room
    have hbusy := h.notBusy
    unfold intakeBusy
    simp only [hb, awaiting, ha] at *
    simp only [Bool.and_eq_true, List.contains_iff_mem, Bool.or_eq_true, decide_eq_true_eq, Bool.not_eq_true', not_or, not_and]
    refine ⟨fun hm => ?_, fun k => ?_⟩
    · have := hroom hm
      omega
    · rcases hbusy with b | b
      · rw [b] at k; cases k
      · rw [b]; exact Bool.false_ne_true
  · rw [hf]
    rcases h.notSafe with k | k
    · simp [k]
    · simp at k; rcases k with k | k | k <;> simp [k]

/-- Rows 1 to 3 let the packet pass, and the session is confirmed. -/
theorem processPacket_passes {n : Nat} {path : Path} {p : Packet} {d e : Dev} (h : packetPasses n path p d)
    (hs : sameRows (sessOf d n) (sessOf e n)) (hf : e.front.state = d.front.state) (ha : e.accepted = d.accepted)
    (hb : namesBusyUnit p e = namesBusyUnit p d) (ho : ∀ q, path = .ring q → (queueOf e q).owner = n) :
    processPacket opcodeBody path p e =
      let e' := if n = 0 then e else modSess n (fun s => { s with confirmed := true }) e
      answerOf n path p e' (opcodeBody n path p e') := by
  have hin : inSafe e = inSafe d := by unfold inSafe; rw [hf]
  have hopen : (sessOf e n).isOpen = true := by rw [hs]; exact h.isOpen
  have hmax := h.lengthMax
  have hmin := h.lengthMin
  have hunit := h.lengthUnit
  have hnum := h.number
  unfold processPacket
  simp only [h.session]
  rw [if_neg (by simp only [Bool.or_eq_true, bne_iff_ne, ne_eq, decide_eq_true_eq, not_or]; omega)]
  rw [if_neg]
  case hnc =>
    cases path with
    | mailbox => simp; omega
    | ring q => simp [ho q rfl]; omega
  rw [if_neg (by simp [hopen])]
  by_cases h0 : n = 0
  · rw [if_pos h0]
    simp only [if_pos h0]
    exact row4_passes h hs hin ha hb
  · rw [if_neg h0]
    simp only [if_neg h0]
    have hc : packetCheck (sessOf e n) p = p.check := by
      rw [packetCheck_rows hs]; rcases h.check with k | k
      · exact absurd k h0
      · exact k
    rw [if_neg (by simp [hc])]
    refine row4_passes h ?_ hin ha hb
    rw [sessOf_modSess, if_neg h0, hs]; exact rfl

/-! ### The ring (R309, R318 to R321) -/

theorem sum_waiting (m : KMap Session) (n : Nat) (v : Session) (h : ∀ e ∈ m, e.2.waiting = []) (a : Nat) :
    (kput m n v).foldl (fun a e => a + e.2.waiting.length) a = a + v.waiting.length := by
  have hz : ∀ (l : KMap Session), (∀ e ∈ l, e.2.waiting = []) → ∀ a, l.foldl (fun a e => a + e.2.waiting.length) a = a := by
    intro l
    induction l with
    | nil => intros; rfl
    | cons e l ih =>
      intro hl a
      rw [List.foldl_cons, hl e (by simp)]
      exact ih (fun x hx => hl x (by simp [hx])) _
  induction m generalizing a with
  | nil => simp [kput]
  | cons e m ih =>
    obtain ⟨k, x⟩ := e
    have hm : ∀ e ∈ m, e.2.waiting = [] := fun x hx => h x (by simp [hx])
    simp only [kput]
    split
    · rw [List.foldl_cons]; exact hz m hm _
    · split
      · rw [List.foldl_cons]; exact hz _ h _
      · rw [List.foldl_cons, ih hm]
        have : x.waiting = [] := h (k, x) (by simp)
        simp [this]

theorem kput_mem {α : Type} {m : KMap α} {n : Nat} {v : α} : (n, v) ∈ kput m n v := by
  induction m with
  | nil => simp [kput]
  | cons e m ih =>
    obtain ⟨k, x⟩ := e
    simp only [kput]
    split
    · simp
    · split <;> simp [*]

theorem waiting_of_empty {d : Dev} (h : ∀ e ∈ d.sessions, e.2.waiting = []) (k : Nat) : (sessOf d k).waiting = [] := by
  have hg : (kget ({} : Session) d.sessions k).waiting = [] := by
    unfold kget
    cases hk : kfind? d.sessions k with
    | none => rfl
    | some v =>
      have hmem : ∀ (m : KMap Session), kfind? m k = some v → (k, v) ∈ m := by
        intro m
        induction m with
        | nil => simp [kfind?]
        | cons e m ih =>
          obtain ⟨j, x⟩ := e
          simp only [kfind?]
          split
          · intro hh; cases hh; subst_vars; simp
          · split
            · simp
            · intro hh; simp [ih hh]
      exact h _ (hmem _ hk)
  unfold sessOf
  simp only
  split
  · exact hg
  · exact hg

/-- When only session `n` has a ring to take from, that ring is taken. -/
theorem pickRing_only {d : Dev} {n : Nat} (hm : n ∈ 0 :: d.sessions.map (·.1)) (hr : ringReady d n = true)
    (ho : ∀ k, k ≠ n → ringReady d k = false) : pickRing d = some n := by
  unfold pickRing
  simp only
  have hall : ∀ k ∈ ((0 :: d.sessions.map (·.1)).eraseDups).filter (ringReady d), k = n := by
    intro k hk
    refine Classical.byContradiction fun hne => ?_
    have := (List.mem_filter.mp hk).2
    rw [ho k hne] at this
    cases this
  have hin : n ∈ ((0 :: d.sessions.map (·.1)).eraseDups).filter (ringReady d) :=
    List.mem_filter.mpr ⟨List.mem_eraseDups.mpr hm, hr⟩
  generalize ((0 :: d.sessions.map (·.1)).eraseDups).filter (ringReady d) = l at hall hin
  cases l with
  | nil => cases hin
  | cons a l =>
    have ha : a = n := hall a (by simp)
    subst ha
    rw [List.foldl_cons]
    have hl : ∀ k ∈ l, k = a := fun k hk => hall k (by simp [hk])
    clear hin hall
    induction l with
    | nil => rfl
    | cons b l ih =>
      have hb : b = a := hl b (by simp)
      subst hb
      rw [List.foldl_cons]
      simp only [ite_self]
      exact ih (fun k hk => hl k (by simp [hk]))

theorem sessOf_zero (d : Dev) : { sessOf d 0 with isOpen := true, confirmed := true } = sessOf d 0 := rfl

theorem publish_takes {n q rq : Nat} {p : Packet} {d : Dev} (h : ringTakes n q rq p d) (h0 : p.opcode ≠ 0) :
    publish q p d = modSess n (fun s => { s with waiting := [p] })
      (setQueue q { queueOf d q with producer := (queueOf d q).producer + slotBytes p } d) := by
  have hstep : ringStep p (queueOf d q).exp (queueOf d q).producer = slotBytes p := by unfold ringStep; rw [if_neg h0]
  have hsp := h.space
  have hk := h.kind
  have hw := waiting_of_empty h.empty n
  obtain rfl := h.owner
  unfold publish
  simp only [hstep]
  rw [if_neg (by omega)]
  show setSess _ { sessOf d _ with waiting := (sessOf d _).waiting ++ [p] } _ = setSess _ { sessOf d _ with waiting := [p] } _
  rw [hw]; rfl

/-- The packet that a ring takes at once reaches its opcode's meaning. -/
theorem ring_passes {n q rq : Nat} {p : Packet} {d : Dev} (h : ringTakes n q rq p d) (hp : packetPasses n (.ring q) p d)
    (h0 : p.opcode ≠ 0) :
    serveRings (publish q p d) =
      answerOf n (.ring q) p (packetTaken n (.ring q) p d) (opcodeBody n (.ring q) p (packetTaken n (.ring q) p d)) := by
  rw [publish_takes h h0]
  generalize hd1 : modSess n (fun s => { s with waiting := [p] })
    (setQueue q { queueOf d q with producer := (queueOf d q).producer + slotBytes p } d) = d1
  have hs1 : sessOf d1 n = { sessOf d n with waiting := [p] } := by
    rw [← hd1, sessOf_modSess]
    split
    · subst_vars; rfl
    · rfl
  have hq1 : queueOf d1 q = { queueOf d q with producer := (queueOf d q).producer + slotBytes p } := by
    rw [← hd1]; exact queueOf_setQueue d q _
  have hqr : queueOf d1 rq = queueOf d rq := by rw [← hd1]; exact queueOf_setQueue_ne d _ h.other
  have hcount : waitingCount d1 = 1 := by
    rw [← hd1]
    show List.foldl _ 0 (kput d.sessions n _) = 1
    rw [sum_waiting _ _ _ h.empty]; rfl
  have hup : stewardUp d1 = true := by rw [← hd1]; exact hp.up
  have hacc : d1.accepted = d.accepted := by rw [← hd1]; rfl
  have hready : ringReady d1 n = true := by
    unfold ringReady
    rw [hs1]
    simp only [h.rings, hq1, hacc, awaiting, replyFree, hqr]
    have hr := h.replies
    simp only [awaiting, replyFree] at hr
    have hf := h.fence
    simp only [awaiting] at hf
    have hm : (d.accepted.any fun a => a.session == n && a.mirror.isSome) = false := by
      rw [List.any_eq_false]
      intro a ha
      by_cases hn : a.session = n
      · simp [h.unmirrored a ha hn]
      · simp [hn]
    simp only [h.running, hm, Bool.not_false, Bool.true_and, Bool.and_eq_true, decide_eq_true_eq, Bool.not_eq_true']
    refine ⟨hr, ?_⟩
    rcases hf with hf | hf
    · rw [hf]; rfl
    · rw [hf]; simp
  have hpick : pickRing d1 = some n := by
    refine pickRing_only ?_ hready fun k hk => ?_
    · rw [← hd1]
      refine List.mem_cons_of_mem _ (List.mem_map.mpr ⟨_, kput_mem, rfl⟩)
    · have : (sessOf d1 k).waiting = [] := by
        rw [← hd1, sessOf_modSess_ne _ _ hk]; exact waiting_of_empty h.empty k
      unfold ringReady
      simp only [this]
      cases (sessOf d1 k).rings <;> rfl
  unfold serveRings drainAll
  rw [hcount]
  unfold drainRings
  rw [if_pos hup, hpick]
  simp only [drainRings]
  unfold takeFrom
  simp only [hs1, h.rings, if_neg h0]
  generalize hd2 : ({ setQueue q { queueOf d1 q with consumer := (queueOf d1 q).consumer + slotBytes p }
      (modSess n (fun s => { s with waiting := [] }) d1) with
    queues := { (setQueue q { queueOf d1 q with consumer := (queueOf d1 q).consumer + slotBytes p }
      (modSess n (fun s => { s with waiting := [] }) d1)).queues with nextRing := q + 1 } } : Dev) = d2
  have he : d2 = modSess n (fun s => { s with waiting := [] }) (modQueue q (fun x => { x with
      producer := x.producer + slotBytes p, consumer := x.consumer + slotBytes p })
        { d with queues := { d.queues with nextRing := q + 1 } }) := by
    have hs2 : sessOf d1 n = { sessOf d n with waiting := [p] } := hs1
    rw [← hd2, hq1]
    have hm : modSess n (fun s => { s with waiting := [] }) d1 = { d1 with sessions := kput d1.sessions n { sessOf d n with waiting := [] } } := by
      unfold modSess setSess; rw [hs1]
    rw [hm, ← hd1]
    show ({ d with
      sessions := kput (kput d.sessions n _) n _
      queues := { d.queues with table := kput (kput d.queues.table q _) q _, nextRing := q + 1 } } : Dev) = _
    rw [kput_kput, kput_kput]
    rfl
  have hfin : ∀ e', e' = modSess n (fun s => { s with waiting := [] }) (modQueue q (fun x => { x with
      producer := x.producer + slotBytes p, consumer := x.consumer + slotBytes p })
        { d with queues := { d.queues with nextRing := q + 1 } }) →
      processPacket opcodeBody (.ring q) p e' =
        answerOf n (.ring q) p (packetTaken n (.ring q) p d) (opcodeBody n (.ring q) p (packetTaken n (.ring q) p d)) := by
    intro e' he'
    have hs : sameRows (sessOf d n) (sessOf e' n) := by
      rw [he', sessOf_modSess]
      split
      · subst_vars; exact rfl
      · exact rfl
    have := processPacket_passes hp hs (by rw [he']; rfl) (by rw [he']; rfl) (by rw [he']; rfl) (e := e') (fun k hk => by
      cases hk
      rw [he']
      refine Eq.trans (congrArg Queue.owner (?_ : _ = queueOf (modQueue q (fun x => { x with
        producer := x.producer + slotBytes p, consumer := x.consumer + slotBytes p })
          { d with queues := { d.queues with nextRing := q + 1 } }) q)) ?_
      · exact rfl
      · rw [queueOf_modQueue]; exact h.owner)
    rw [this, he']
    rfl
  exact hfin d2 he

/-- The packet that its path takes at once reaches its opcode's meaning. -/
theorem arrive_passes {n : Nat} {path : Path} {p : Packet} {d : Dev} (hp : packetPasses n path p d) (h : pathTakes n path p d)
    (h0 : p.opcode ≠ 0) :
    arrive path p d = answerOf n path p (packetTaken n path p d) (opcodeBody n path p (packetTaken n path p d)) := by
  cases path with
  | ring q =>
    obtain ⟨rq, h⟩ := h
    exact ring_passes h hp h0
  | mailbox =>
    have hb : d.front.mboxBusy = false := h
    show mailPacket p d = _
    unfold mailPacket
    rw [if_neg (by rw [hp.up, hb]; simp)]
    exact processPacket_passes hp (by exact rfl) rfl rfl rfl (fun k hk => by cases hk)

/-- An opcode's command whose packet passes answers a next state: the answer of the opcode's meaning. -/
theorem denec_passes {n : Nat} {t : Time} {path : Path} {p : Packet} {s : State} {op : W16}
    (hp : packetPasses n path p (advance t s.dev)) (h : pathTakes n path p (advance t s.dev)) (h0 : op ≠ 0) (ho : p.opcode = op) :
    ∃ u, (Host.Outcome.next (denec op t path p s) : Host.Outcome State Fault Refusal) = .next u ∧
      answeredAs n path p (packetTaken n path p (advance t s.dev))
        (opcodeBody n path p (packetTaken n path p (advance t s.dev))) s u := by
  have hp' : { p with opcode := op } = p := by rw [← ho]
  obtain ⟨u, hu, hl⟩ := exists_pumpA (fun d => arrive path { p with opcode := op } (advance t d)) s
  refine ⟨u, hu, ?_⟩
  unfold answeredAs
  rw [← arrive_passes hp h (by rw [ho]; exact h0)]
  simpa only [hp'] using hl

/-- The opcode's own meaning, from `packetComes`. -/
theorem comes_answers {op : W16} {n : Nat} {t : Time} {path : Path} {p : Packet} {s : State} {d : Dev}
    (h : packetComes op n t path p s d) (h0 : op ≠ 0) :
    ∃ u, (Host.Outcome.next (denec op t path p s) : Host.Outcome State Fault Refusal) = .next u ∧
      answeredAs n path p d (opcodeBody n path p d) s u := by
  obtain ⟨ho, hp, ht, rfl⟩ := h
  exact denec_passes hp ht h0 ho

/-- The header partition of a packet that comes is no ground of refusal in `opcodeBody`. -/
theorem comes_header {op : W16} {n : Nat} {t : Time} {path : Path} {p : Packet} {s : State} {d : Dev}
    (h : packetComes op n t path p s d) : (!partitionOpcodes.contains p.opcode.toNat && p.partition != 0xFF) = false := by
  rcases h.2.1.header with k | k
  · simp [k]
  · simp [k]

/-! ### One meaning per opcode -/

section

variable {n : Nat} {t : Time} {path : Path} {p : Packet} {s : State} {d : Dev}

theorem bodyDeviceInfo_comes (h : packetComes 0x0101 n t path p s d) : opcodeBody n path p d = bodyDeviceInfo n path p d := by
  unfold opcodeBody; simp only; rw [if_neg (by rw [comes_header h]; simp), h.1]; rfl
theorem bodyRingPairOpen_comes (h : packetComes 0x0102 n t path p s d) : opcodeBody n path p d = bodyRingPairOpen n path p d := by
  unfold opcodeBody; simp only; rw [if_neg (by rw [comes_header h]; simp), h.1]; rfl
theorem bodyRingPairClose_comes (h : packetComes 0x0103 n t path p s d) : opcodeBody n path p d = bodyRingPairClose n path p d := by
  unfold opcodeBody; simp only; rw [if_neg (by rw [comes_header h]; simp), h.1]; rfl
theorem bodySessionOpen_comes (h : packetComes 0x0104 n t path p s d) : opcodeBody n path p d = bodySessionOpen n path p d := by
  unfold opcodeBody; simp only; rw [if_neg (by rw [comes_header h]; simp), h.1]; rfl
theorem bodySessionClose_comes (h : packetComes 0x0105 n t path p s d) : opcodeBody n path p d = bodySessionClose n path p d := by
  unfold opcodeBody; simp only; rw [if_neg (by rw [comes_header h]; simp), h.1]; rfl
theorem bodyKeyEnrol_comes (h : packetComes 0x0106 n t path p s d) : opcodeBody n path p d = bodyKeyEnrol n path p d := by
  unfold opcodeBody; simp only; rw [if_neg (by rw [comes_header h]; simp), h.1]; rfl
theorem bodyKeyRevoke_comes (h : packetComes 0x0107 n t path p s d) : opcodeBody n path p d = bodyKeyRevoke n path p d := by
  unfold opcodeBody; simp only; rw [if_neg (by rw [comes_header h]; simp), h.1]; rfl
theorem bodyAttest_comes (h : packetComes 0x0108 n t path p s d) : opcodeBody n path p d = bodyAttest n path p d := by
  unfold opcodeBody; simp only; rw [if_neg (by rw [comes_header h]; simp), h.1]; rfl
theorem bodyAttnRead_comes (h : packetComes 0x0109 n t path p s d) : opcodeBody n path p d = bodyAttnRead n path p d := by
  unfold opcodeBody; simp only; rw [if_neg (by rw [comes_header h]; simp), h.1]; rfl
theorem bodyAttnAck_comes (h : packetComes 0x010A n t path p s d) : opcodeBody n path p d = bodyAttnAck n path p d := by
  unfold opcodeBody; simp only; rw [if_neg (by rw [comes_header h]; simp), h.1]; rfl
theorem bodyPlanLoad_comes (h : packetComes 0x0201 n t path p s d) : opcodeBody n path p d = bodyPlanLoad n path p d := by
  unfold opcodeBody; simp only; rw [if_neg (by rw [comes_header h]; simp), h.1]; rfl
theorem bodyPlanUnload_comes (h : packetComes 0x0202 n t path p s d) : opcodeBody n path p d = bodyPlanUnload n path p d := by
  unfold opcodeBody; simp only; rw [if_neg (by rw [comes_header h]; simp), h.1]; rfl
theorem bodyWeightLoad_comes (h : packetComes 0x0203 n t path p s d) : opcodeBody n path p d = bodyWeightLoad n path p d := by
  unfold opcodeBody; simp only; rw [if_neg (by rw [comes_header h]; simp), h.1]; rfl
theorem bodyPartitionSet_comes (h : packetComes 0x0204 n t path p s d) : opcodeBody n path p d = bodyPartitionSet n path p d := by
  unfold opcodeBody; simp only; rw [if_neg (by rw [comes_header h]; simp), h.1]; rfl
theorem bodyCoreModeSet_comes (h : packetComes 0x0205 n t path p s d) : opcodeBody n path p d = bodyCoreModeSet n path p d := by
  unfold opcodeBody; simp only; rw [if_neg (by rw [comes_header h]; simp), h.1]; rfl
theorem bodyPlanSwap_comes (h : packetComes 0x0206 n t path p s d) : opcodeBody n path p d = bodyPlanSwap n path p d := by
  unfold opcodeBody; simp only; rw [if_neg (by rw [comes_header h]; simp), h.1]; rfl
theorem bodySubjectRegister_comes (h : packetComes 0x0301 n t path p s d) : opcodeBody n path p d = bodySubjectRegister n path p d := by
  unfold opcodeBody; simp only; rw [if_neg (by rw [comes_header h]; simp), h.1]; rfl
theorem bodySubjectRelease_comes (h : packetComes 0x0302 n t path p s d) : opcodeBody n path p d = bodySubjectRelease n path p d := by
  unfold opcodeBody; simp only; rw [if_neg (by rw [comes_header h]; simp), h.1]; rfl
theorem bodyPortRoleSet_comes (h : packetComes 0x0303 n t path p s d) : opcodeBody n path p d = bodyPortRoleSet n path p d := by
  unfold opcodeBody; simp only; rw [if_neg (by rw [comes_header h]; simp), h.1]; rfl
theorem bodyTapStreamOpen_comes (h : packetComes 0x0304 n t path p s d) : opcodeBody n path p d = bodyTapStreamOpen n path p d := by
  unfold opcodeBody; simp only; rw [if_neg (by rw [comes_header h]; simp), h.1]; rfl
theorem bodyTapStreamClose_comes (h : packetComes 0x0305 n t path p s d) : opcodeBody n path p d = bodyTapStreamClose n path p d := by
  unfold opcodeBody; simp only; rw [if_neg (by rw [comes_header h]; simp), h.1]; rfl
theorem bodyContextOpen_comes (h : packetComes 0x0306 n t path p s d) : opcodeBody n path p d = bodyContextOpen n path p d := by
  unfold opcodeBody; simp only; rw [if_neg (by rw [comes_header h]; simp), h.1]; rfl
theorem bodyContextClose_comes (h : packetComes 0x0307 n t path p s d) : opcodeBody n path p d = bodyContextClose n path p d := by
  unfold opcodeBody; simp only; rw [if_neg (by rw [comes_header h]; simp), h.1]; rfl
theorem bodyContextResume_comes (h : packetComes 0x0308 n t path p s d) : opcodeBody n path p d = bodyContextResume n path p d := by
  unfold opcodeBody; simp only; rw [if_neg (by rw [comes_header h]; simp), h.1]; rfl
theorem bodyContextStatus_comes (h : packetComes 0x0309 n t path p s d) : opcodeBody n path p d = bodyContextStatus n path p d := by
  unfold opcodeBody; simp only; rw [if_neg (by rw [comes_header h]; simp), h.1]; rfl
theorem bodyTimeRead_comes (h : packetComes 0x0401 n t path p s d) : opcodeBody n path p d = bodyTimeRead n path p d := by
  unfold opcodeBody; simp only; rw [if_neg (by rw [comes_header h]; simp), h.1]; rfl
theorem bodyTimeStatus_comes (h : packetComes 0x0402 n t path p s d) : opcodeBody n path p d = bodyTimeStatus n path p d := by
  unfold opcodeBody; simp only; rw [if_neg (by rw [comes_header h]; simp), h.1]; rfl
theorem bodyTimeSet_comes (h : packetComes 0x0403 n t path p s d) : opcodeBody n path p d = bodyTimeSet n path p d := by
  unfold opcodeBody; simp only; rw [if_neg (by rw [comes_header h]; simp), h.1]; rfl
theorem bodyPtpConfig_comes (h : packetComes 0x0404 n t path p s d) : opcodeBody n path p d = bodyPtpConfig n path p d := by
  unfold opcodeBody; simp only; rw [if_neg (by rw [comes_header h]; simp), h.1]; rfl
theorem bodyPulseSet_comes (h : packetComes 0x0405 n t path p s d) : opcodeBody n path p d = bodyPulseSet n path p d := by
  unfold opcodeBody; simp only; rw [if_neg (by rw [comes_header h]; simp), h.1]; rfl
theorem bodyPulseStop_comes (h : packetComes 0x0406 n t path p s d) : opcodeBody n path p d = bodyPulseStop n path p d := by
  unfold opcodeBody; simp only; rw [if_neg (by rw [comes_header h]; simp), h.1]; rfl
theorem bodyDiagRead_comes (h : packetComes 0x0501 n t path p s d) : opcodeBody n path p d = bodyDiagRead n path p d := by
  unfold opcodeBody; simp only; rw [if_neg (by rw [comes_header h]; simp), h.1]; rfl
theorem bodyFaultConfig_comes (h : packetComes 0x0502 n t path p s d) : opcodeBody n path p d = bodyFaultConfig n path p d := by
  unfold opcodeBody; simp only; rw [if_neg (by rw [comes_header h]; simp), h.1]; rfl
theorem bodyFaultTest_comes (h : packetComes 0x0503 n t path p s d) : opcodeBody n path p d = bodyFaultTest n path p d := by
  unfold opcodeBody; simp only; rw [if_neg (by rw [comes_header h]; simp), h.1]; rfl
theorem bodyErrControl_comes (h : packetComes 0x0504 n t path p s d) : opcodeBody n path p d = bodyErrControl n path p d := by
  unfold opcodeBody; simp only; rw [if_neg (by rw [comes_header h]; simp), h.1]; rfl
theorem bodyWatchdogSet_comes (h : packetComes 0x0505 n t path p s d) : opcodeBody n path p d = bodyWatchdogSet n path p d := by
  unfold opcodeBody; simp only; rw [if_neg (by rw [comes_header h]; simp), h.1]; rfl
theorem bodyMonitorSet_comes (h : packetComes 0x0506 n t path p s d) : opcodeBody n path p d = bodyMonitorSet n path p d := by
  unfold opcodeBody; simp only; rw [if_neg (by rw [comes_header h]; simp), h.1]; rfl
theorem bodyCheckin_comes (h : packetComes 0x0507 n t path p s d) : opcodeBody n path p d = bodyCheckin n path p d := by
  unfold opcodeBody; simp only; rw [if_neg (by rw [comes_header h]; simp), h.1]; rfl
theorem bodyScrubPeriod_comes (h : packetComes 0x0601 n t path p s d) : opcodeBody n path p d = bodyScrubPeriod n path p d := by
  unfold opcodeBody; simp only; rw [if_neg (by rw [comes_header h]; simp), h.1]; rfl
theorem bodyFabricJoin_comes (h : packetComes 0x0701 n t path p s d) : opcodeBody n path p d = bodyFabricJoin n path p d := by
  unfold opcodeBody; simp only; rw [if_neg (by rw [comes_header h]; simp), h.1]; rfl
theorem bodyFabricLeave_comes (h : packetComes 0x0702 n t path p s d) : opcodeBody n path p d = bodyFabricLeave n path p d := by
  unfold opcodeBody; simp only; rw [if_neg (by rw [comes_header h]; simp), h.1]; rfl
theorem bodyContextRemap_comes (h : packetComes 0x0703 n t path p s d) : opcodeBody n path p d = bodyContextRemap n path p d := by
  unfold opcodeBody; simp only; rw [if_neg (by rw [comes_header h]; simp), h.1]; rfl
theorem bodyFabricStatus_comes (h : packetComes 0x0704 n t path p s d) : opcodeBody n path p d = bodyFabricStatus n path p d := by
  unfold opcodeBody; simp only; rw [if_neg (by rw [comes_header h]; simp), h.1]; rfl
theorem bodyPaceConfig_comes (h : packetComes 0x0801 n t path p s d) : opcodeBody n path p d = bodyPaceConfig n path p d := by
  unfold opcodeBody; simp only; rw [if_neg (by rw [comes_header h]; simp), h.1]; rfl
theorem bodyFirmwareStage_comes (h : packetComes 0x0802 n t path p s d) : opcodeBody n path p d = bodyFirmwareStage n path p d := by
  unfold opcodeBody; simp only; rw [if_neg (by rw [comes_header h]; simp), h.1]; rfl
theorem bodyWarmReset_comes (h : packetComes 0x0803 n t path p s d) : opcodeBody n path p d = bodyWarmReset n path p d := by
  unfold opcodeBody; simp only; rw [if_neg (by rw [comes_header h]; simp), h.1]; rfl
theorem bodyFieldLock_comes (h : packetComes 0x0804 n t path p s d) : opcodeBody n path p d = bodyFieldLock n path p d := by
  unfold opcodeBody; simp only; rw [if_neg (by rw [comes_header h]; simp), h.1]; rfl

end

/-! ### Numbers that the device assigns -/

/-- Every number the scan answers is in its range. -/
theorem scanFree_range (used : Nat → Bool) (lo count : Nat) (hc : 0 < count) (fuel i : Nat) :
    lo ≤ scanFree used lo count fuel i ∧ scanFree used lo count fuel i < lo + count := by
  induction fuel generalizing i with
  | zero => unfold scanFree; have := Nat.mod_lt i hc; omega
  | succ n ih =>
    unfold scanFree
    split
    · exact ih _
    · have := Nat.mod_lt i hc; omega

/-- The scan stops at an unused number, or every candidate was in use. -/
theorem scanFree_used (used : Nat → Bool) (lo count : Nat) (fuel i : Nat) (h : used (scanFree used lo count fuel i) = true) :
    ∀ j, j ≤ fuel → used (lo + (i + j) % count) = true := by
  induction fuel generalizing i with
  | zero => intro j hj; unfold scanFree at h; obtain rfl : j = 0 := by omega
            simpa using h
  | succ n ih =>
    unfold scanFree at h
    split at h
    · intro j hj
      by_cases h0 : j = 0
      · subst h0; simpa using ‹_›
      · have := ih (i + 1) h (j - 1) (by omega)
        have e : i + 1 + (j - 1) = i + j := by omega
        rwa [e] at this
    · intro j hj
      exact absurd h (by assumption)

/-- With a number free, the scan answers a free one. -/
theorem assign_unused (l : List Nat) (lo count i : Nat) (hl : l.length < count) :
    scanFree l.contains lo count l.length i ∉ l := by
  intro hmem
  have hu := scanFree_used l.contains lo count l.length i (by simpa using hmem)
  have hsub : (List.range (l.length + 1)).map (fun j => lo + (i + j) % count) ⊆ l := by
    intro x hx
    obtain ⟨j, hj, rfl⟩ := List.mem_map.mp hx
    have := hu j (by have := List.mem_range.mp hj; omega)
    simpa using this
  have hnd : ((List.range (l.length + 1)).map (fun j => lo + (i + j) % count)).Nodup := by
    unfold List.Nodup
    rw [List.pairwise_map]
    refine List.Pairwise.imp_of_mem ?_ (List.pairwise_lt_range (n := l.length + 1))
    intro a b ha hb hlt
    have ha' := List.mem_range.mp ha
    have hb' := List.mem_range.mp hb
    intro heq
    have h1 : (i + a) % count = (i + b) % count := by omega
    have h2 : ((i + b) - (i + a)) % count = 0 := by
      have hd : (i + b) % count = (i + a) % count := h1.symm
      exact Nat.sub_mod_eq_zero_of_mod_eq hd
    have h3 : (i + b) - (i + a) = b - a := by omega
    rw [h3, Nat.mod_eq_of_lt (by omega)] at h2
    omega
  have := List.Nodup.length_le_of_subset hnd hsub
  simp only [List.length_map, List.length_range] at this
  omega

end Sys2Proof.Machine
end

