-- ==== Sys2Proof/Laws/Geyser.lean ====
section
/-! SUPPORT. What the clock's shared operations can do (15): the parts of the device each may change, and the values that
survive. -/

namespace Sys2Proof.Machine

open Sys2Proof

set_option Elab.async false

theorem clockTo_frame (c : ClockState) (p : Nat) (d : Dev) :
    clockTo c p d = { d with geyser := { d.geyser with state := c, good := (clockTo c p d).geyser.good }, attn := (clockTo c p d).attn } := by
  unfold clockTo
  by_cases h : d.geyser.state = c
  · subst h; simp
  · simp [h, timeAttn, raiseAttn, modGey]

theorem writeIncr_frame (v : Nat) (d : Dev) :
    writeIncr v d = { d with
      hwSets := (writeIncr v d).hwSets, hwAt := (writeIncr v d).hwAt
      geyser := { d.geyser with
        incr := (writeIncr v d).geyser.incr, clamped := (writeIncr v d).geyser.clamped
        limitSince := (writeIncr v d).geyser.limitSince, limitTold := (writeIncr v d).geyser.limitTold } } := by
  have h : ∀ b : Bool, (if b = true then hwSet .geyCtrl (2 ^ 29) d else d) = { d with
      hwSets := (if b = true then hwSet .geyCtrl (2 ^ 29) d else d).hwSets
      hwAt := (if b = true then hwSet .geyCtrl (2 ^ 29) d else d).hwAt } := fun b => by cases b <;> rfl
  simp only [writeIncr]
  rw [h]
  rfl

theorem freeRun_frame (p : Nat) (d : Dev) : freeRun p d = { d with
    geyser := (freeRun p d).geyser, attn := (freeRun p d).attn, hwSets := (freeRun p d).hwSets, hwAt := (freeRun p d).hwAt } := by
  unfold freeRun
  split
  · rw [writeIncr_frame, clockTo_frame]
  · rfl

/-- A clock that is locked leaves LOCKED; another stays. Ports, offset and pulse outputs are not touched. -/
theorem freeRun_geyser (p : Nat) (d : Dev) :
    (freeRun p d).geyser.state = (if d.geyser.state = .locked then .freeRun else d.geyser.state) ∧
    (freeRun p d).geyser.ports = d.geyser.ports ∧ (freeRun p d).geyser.offset = d.geyser.offset ∧
    (freeRun p d).geyser.master = d.geyser.master ∧ (freeRun p d).geyser.cfg = d.geyser.cfg ∧
    (freeRun p d).geyser.now = d.geyser.now ∧ (freeRun p d).geyser.ppsMissing = d.geyser.ppsMissing ∧
    (freeRun p d).geyser.ppsStamp = d.geyser.ppsStamp := by
  unfold freeRun
  split
  · rw [writeIncr_frame, clockTo_frame]; simp
  · simp

/-- The sets noted for the outputs that a step stops change nothing else. -/
theorem stoppedSets_frame (l : KMap Pulse) (d : Dev) :
    (l.foldl (fun d e => if e.2.stopped then hwSet (.pulseCtrl (Fin.ofNat 8 e.1)) (2 ^ 28) d else d) d) = { d with
      hwSets := (l.foldl (fun d e => if e.2.stopped then hwSet (.pulseCtrl (Fin.ofNat 8 e.1)) (2 ^ 28) d else d) d).hwSets
      hwAt := (l.foldl (fun d e => if e.2.stopped then hwSet (.pulseCtrl (Fin.ofNat 8 e.1)) (2 ^ 28) d else d) d).hwAt } := by
  induction l generalizing d with
  | nil => rfl
  | cons e l ih =>
    rw [List.foldl_cons, ih]
    split <;> rfl

theorem applyStep_frame (a : Int) (d : Dev) :
    applyStep a d = { d with
      hwSets := (applyStep a d).hwSets, hwAt := (applyStep a d).hwAt
      contexts := (applyStep a d).contexts, cores := (applyStep a d).cores
      watch := (applyStep a d).watch, cal := (applyStep a d).cal, sched := (applyStep a d).sched
      slots := (applyStep a d).slots, streams := (applyStep a d).streams, sessions := (applyStep a d).sessions
      memctl := (applyStep a d).memctl, bonnet := (applyStep a d).bonnet, gnt := (applyStep a d).gnt
      geyser := (applyStep a d).geyser, fabric := (applyStep a d).fabric, start := (applyStep a d).start
      attn := (applyStep a d).attn } := by
  simp only [applyStep]
  split
  · rfl
  · rw [stoppedSets_frame]; rfl

/-- A step changes neither the offset last measured, nor the PPS stamp, nor what a port has measured or heard. -/
theorem applyStep_geyser (a : Int) (d : Dev) :
    (applyStep a d).geyser.offset = d.geyser.offset ∧ (applyStep a d).geyser.ppsStamp = d.geyser.ppsStamp ∧
    (applyStep a d).geyser.ppsMissing = d.geyser.ppsMissing ∧ (applyStep a d).geyser.cfg = d.geyser.cfg ∧
    (applyStep a d).geyser.state = d.geyser.state := by
  simp only [applyStep]
  split
  · simp
  · rw [stoppedSets_frame]; simp [timeAttn, shiftIntervals]

theorem servo_frame (off : Int) (p : Nat) (d : Dev) :
    servo off p d = { d with
      hwSets := (servo off p d).hwSets, hwAt := (servo off p d).hwAt
      contexts := (servo off p d).contexts, cores := (servo off p d).cores
      watch := (servo off p d).watch, cal := (servo off p d).cal, sched := (servo off p d).sched
      slots := (servo off p d).slots, streams := (servo off p d).streams, sessions := (servo off p d).sessions
      memctl := (servo off p d).memctl, bonnet := (servo off p d).bonnet, gnt := (servo off p d).gnt
      geyser := (servo off p d).geyser, fabric := (servo off p d).fabric, start := (servo off p d).start
      attn := (servo off p d).attn, free := (servo off p d).free } := by
  simp only [servo]
  split
  · rw [applyStep_frame]; simp [modGey]
  · rw [writeIncr_frame]
    simp only [fresh]
    split <;> split <;> first | (rw [clockTo_frame]; simp [modGey]; done) | simp [modGey]

/-- The offset that the servo has been given stands; the PPS stamp and count are not its own. -/
theorem servo_geyser (off : Int) (p : Nat) (d : Dev) :
    (servo off p d).geyser.offset = off.tdiv 4294967296 ∧ (servo off p d).geyser.ppsStamp = d.geyser.ppsStamp ∧
    (servo off p d).geyser.ppsMissing = d.geyser.ppsMissing := by
  simp only [servo]
  split
  · obtain ⟨h1, h2, h3, _⟩ := applyStep_geyser (-off) (modGey (fun g => { g with offset := off.tdiv 4294967296 }) d)
    exact ⟨h1, h2, h3⟩
  · rw [writeIncr_frame]
    simp only [fresh]
    split <;> split <;> first | (rw [clockTo_frame]; simp; done) | simp

/-- Port states are decided anew: only the clock and the attention log change, and what a port has heard stays. -/
theorem portStates_frame (l : List (Nat × PtpState)) (d : Dev) :
    (l.foldl (fun d e => modPtp e.1 (fun p =>
      if p.state = e.2 then p else { p with state := e.2, syncRx := none, syncPair := none, delayTx := none }) d) d) =
      { d with geyser := { d.geyser with ports := (l.foldl (fun d e => modPtp e.1 (fun p =>
        if p.state = e.2 then p else { p with state := e.2, syncRx := none, syncPair := none, delayTx := none }) d) d).geyser.ports } } := by
  induction l generalizing d with
  | nil => rfl
  | cons e l ih =>
    rw [List.foldl_cons, ih]
    simp [modPtp]

theorem portStates_foreign (l : List (Nat × PtpState)) (d : Dev) (k : Nat) :
    (ptpOf (l.foldl (fun d e => modPtp e.1 (fun p =>
      if p.state = e.2 then p else { p with state := e.2, syncRx := none, syncPair := none, delayTx := none }) d) d) k).foreign =
      (ptpOf d k).foreign ∧
    (ptpOf (l.foldl (fun d e => modPtp e.1 (fun p =>
      if p.state = e.2 then p else { p with state := e.2, syncRx := none, syncPair := none, delayTx := none }) d) d) k).announceAt =
      (ptpOf d k).announceAt := by
  induction l generalizing d with
  | nil => exact ⟨rfl, rfl⟩
  | cons e l ih =>
    rw [List.foldl_cons]
    obtain ⟨h1, h2⟩ := ih (modPtp e.1 (fun p =>
      if p.state = e.2 then p else { p with state := e.2, syncRx := none, syncPair := none, delayTx := none }) d)
    rw [h1, h2]
    by_cases hk : k = e.1
    · subst hk
      rw [ptpOf_modPtp]
      split <;> exact ⟨rfl, rfl⟩
    · rw [ptpOf_modPtp_ne _ _ hk]
      exact ⟨rfl, rfl⟩

theorem runBmca_frame (d : Dev) : runBmca d = { d with
    geyser := (runBmca d).geyser, attn := (runBmca d).attn, hwSets := (runBmca d).hwSets, hwAt := (runBmca d).hwAt } := by
  simp only [runBmca]
  split
  · rw [freeRun_frame, portStates_frame]; simp [modGey]
  · rw [portStates_frame]; simp [modGey]

theorem runBmca_foreign (d : Dev) (k : Nat) :
    (ptpOf (runBmca d) k).foreign = (ptpOf d k).foreign ∧ (ptpOf (runBmca d) k).announceAt = (ptpOf d k).announceAt := by
  have hp : ∀ p d, (freeRun p d).geyser.ports = d.geyser.ports := fun p d => (freeRun_geyser p d).2.1
  simp only [runBmca]
  split
  · simp only [ptpOf, hp]
    exact portStates_foreign _ d k
  · exact portStates_foreign _ d k

/-- No port states change the clock's state but by leaving LOCKED. -/
theorem runBmca_freeRun (d : Dev) (h : d.geyser.state ≠ .locked) : (runBmca d).geyser.state = d.geyser.state := by
  simp only [runBmca]
  split
  · rw [(freeRun_geyser _ _).1, portStates_frame]; simp [h]
  · rw [portStates_frame]; simp

end Sys2Proof.Machine
end

