-- ==== Sys2Proof/Laws/Memory.lean ====
section
/-! SUPPORT. Every operation on the memory keeps its canonical form: words, check bytes, the parity of the page code and its
codes (11 R272 to R301), zeroing, and what a warm reset leaves. -/

namespace Sys2Proof.Machine

open Sys2Proof

set_option Elab.async false

theorem Mem.wf_iff (m : Mem) : Mem.wf m = true ↔
    kwf 0 m.words = true ∧ kwf 0 m.synd = true ∧ kwf 0 m.parity = true ∧ kwf 0 m.psynd = true := by
  simp [Mem.wf, and_assoc]

/-- What every step of a fold keeps, the fold keeps. -/
theorem foldl_keeps {α β : Type} (P : β → Prop) (step : β → α → β) (keeps : ∀ x y, P x → P (step x y)) (l : List α) (init : β)
    (start : P init) : P (l.foldl step init) :=
  List.foldlRecOn l step start fun x k y _ => keeps x y k

theorem empty_wf : Mem.wf {} = true := rfl

theorem putWord_wf {m : Mem} (k : Nat) (w : W64) (s : Byte) (h : Mem.wf m = true) : Mem.wf (putWord k w s m) = true := by
  rw [Mem.wf_iff] at *
  exact ⟨kset_wf 0 _ _ _ h.1, kset_wf 0 _ _ _ h.2.1, h.2.2⟩

theorem setSynd_wf {m : Mem} (k : Nat) (s : Byte) (h : Mem.wf m = true) :
    Mem.wf { m with synd := kset 0 m.synd k s } = true := by
  rw [Mem.wf_iff] at *
  exact ⟨h.1, kset_wf 0 _ _ _ h.2.1, h.2.2⟩

theorem setWord_wf {m : Mem} (k : Nat) (w : W64) (h : Mem.wf m = true) : Mem.wf { m with words := kset 0 m.words k w } = true := by
  rw [Mem.wf_iff] at *
  exact ⟨kset_wf 0 _ _ _ h.1, h.2⟩

theorem fixWord_wf {m : Mem} (k : Nat) (h : Mem.wf m = true) : Mem.wf (fixWord k m) = true := by
  unfold fixWord
  split
  · exact putWord_wf _ _ _ h
  · exact h

theorem poisonLine_wf {m : Mem} (l : Nat) (h : Mem.wf m = true) : Mem.wf (poisonLine l m) = true :=
  foldl_keeps (fun m => Mem.wf m = true) _ (fun _ _ h => setSynd_wf _ _ h) _ _ h

theorem poisonLines_wf {m : Mem} (l : List Nat) (h : Mem.wf m = true) :
    Mem.wf (l.foldl (fun m l => poisonLine l m) m) = true :=
  foldl_keeps (fun m => Mem.wf m = true) _ (fun _ _ h => poisonLine_wf _ h) _ _ h

theorem putParity_wf {m : Mem} (p : Nat) (f : Nat → Byte) (h : Mem.wf m = true) : Mem.wf (putParity p f m) = true := by
  rw [Mem.wf_iff] at *
  exact ⟨h.1, h.2.1, foldl_keeps (fun t => kwf 0 t = true) _ (fun _ _ h => kset_wf 0 _ _ _ h) _ _ h.2.2.1,
    foldl_keeps (fun t => kwf 0 t = true) _ (fun _ _ h => kdel_wf 0 _ _ h) _ _ h.2.2.2⟩

theorem buildParity_wf {m : Mem} (p : Nat) (h : Mem.wf m = true) : Mem.wf (buildParity p m) = true := putParity_wf _ _ h

theorem deltaParity_wf {m : Mem} (l : Nat) (old new : List W64) (h : Mem.wf m = true) : Mem.wf (deltaParity l old new m) = true :=
  putParity_wf _ _ h

theorem putLine_wf {m : Mem} (l : Nat) (ws : List W64) (h : Mem.wf m = true) : Mem.wf (putLine l ws m) = true :=
  foldl_keeps (fun m => Mem.wf m = true) _ (fun _ _ h => putWord_wf _ _ _ h) _ _ h

theorem addErrors_wf {m : Mem} (p : Nat) (es : List (Nat × Nat × Byte)) (h : Mem.wf m = true) :
    Mem.wf (addErrors p es m) = true :=
  foldl_keeps (fun m => Mem.wf m = true) _ (fun _ _ h => putWord_wf _ _ _ h) _ _ h

theorem fixLines_wf {m : Mem} (ls : List Nat) (h : Mem.wf m = true) : Mem.wf (fixLines ls m) = true :=
  foldl_keeps (fun m => Mem.wf m = true) _
    (fun _ _ h => foldl_keeps (fun m => Mem.wf m = true) _ (fun _ _ h => fixWord_wf _ h) _ _ h) _ _ h

/-- A decode in erasure mode that succeeds. -/
theorem eraseDecode_wf {m m' : Mem} {p : Nat} (e : eraseDecode m p = some m') (h : Mem.wf m = true) : Mem.wf m' = true := by
  unfold eraseDecode at e
  simp only at e
  split at e
  · cases e
  · split at e
    · cases e
    · split at e
      · cases e; exact fixLines_wf _ (addErrors_wf _ _ h)
      · cases e

/-- A decode in error mode that succeeds. -/
theorem errorDecode_wf {m m' : Mem} {p : Nat} (e : errorDecode m p = some m') (h : Mem.wf m = true) : Mem.wf m' = true := by
  unfold errorDecode at e
  split at e
  · cases e
  · simp only at e
    split at e
    · cases e; exact addErrors_wf _ _ h
    · cases e

theorem moveKeys_wf {α : Type} [DecidableEq α] (z : α) (a b n : Nat) (t : KMap α) (h : kwf z t = true) :
    kwf z (moveKeys z a b n t) = true :=
  foldl_keeps (fun t => kwf z t = true) _ (fun _ _ h => kset_wf z _ _ _ h) _ _ (filter_wf z _ _ h)

theorem moveSegment_wf {m : Mem} (a b : Nat) (h : Mem.wf m = true) : Mem.wf (moveSegment a b m) = true := by
  rw [Mem.wf_iff] at *
  exact ⟨moveKeys_wf 0 _ _ _ _ h.1, moveKeys_wf 0 _ _ _ _ h.2.1, moveKeys_wf 0 _ _ _ _ h.2.2.1, moveKeys_wf 0 _ _ _ _ h.2.2.2⟩

theorem convertLine_wf {m : Mem} (old : SegMode) (l : Nat) (h : Mem.wf m = true) : Mem.wf (convertLine old l m) = true := by
  unfold convertLine
  split
  · exact poisonLine_wf _ h
  · split
    · exact poisonLine_wf _ h
    · exact foldl_keeps (fun m => Mem.wf m = true) _ (fun _ _ h => fixWord_wf _ h) _ _ h

theorem convertParity_wf {m : Mem} (g : Nat) (mode : SegMode) (h : Mem.wf m = true) : Mem.wf (convertParity g mode m) = true := by
  have k : ∀ q r : Nat × Byte → Bool, Mem.wf { m with parity := m.parity.filter q, psynd := m.psynd.filter r } = true := by
    intro q r
    rw [Mem.wf_iff] at *
    exact ⟨h.1, h.2.1, filter_wf 0 _ _ h.2.2.1, filter_wf 0 _ _ h.2.2.2⟩
  unfold convertParity
  split
  split
  · exact foldl_keeps (fun m => Mem.wf m = true) _ (fun _ _ h => buildParity_wf _ h) _ _ (k _ _)
  · exact k _ _

theorem flipBit_wf {m : Mem} (check : Bool) (l i b : Nat) (h : Mem.wf m = true) : Mem.wf (flipBit check l i b m) = true := by
  unfold flipBit
  simp only
  split
  · exact setSynd_wf _ _ h
  · split
    · exact foldl_keeps (fun m => Mem.wf m = true) _ (fun _ _ h => setSynd_wf _ _ h) _ _ (setWord_wf _ _ h)
    · exact putWord_wf _ _ _ h

theorem injectLine_wf {m : Mem} (v : Nat) (check : Bool) (l : Nat) (h : Mem.wf m = true) : Mem.wf (injectLine v check l m) = true := by
  unfold injectLine
  simp only
  split
  · exact flipBit_wf _ _ _ _ h
  · exact flipBit_wf _ _ _ _ (flipBit_wf _ _ _ _ h)
  · refine foldl_keeps (fun m => Mem.wf m = true) _ (fun _ _ h => ?_) _ _ h
    split
    · exact flipBit_wf _ _ _ _ h
    · exact h
  · exact flipBit_wf _ _ _ _ h
  · exact poisonLine_wf _ h
  · rw [Mem.wf_iff] at *
    exact ⟨h.1, h.2.1, kset_wf 0 _ _ _ h.2.2.1, kset_wf 0 _ _ _ h.2.2.2⟩
  · exact h

theorem zeroLocal_wf {m : Mem} (n : Nat) (h : Mem.wf m = true) : Mem.wf (zeroLocal n m) = true := by
  rw [Mem.wf_iff] at *
  exact ⟨filter_wf 0 _ _ h.1, filter_wf 0 _ _ h.2.1, h.2.2⟩

theorem loadConstants_wf {m : Mem} (n : Nat) (b : List Byte) (h : Mem.wf m = true) : Mem.wf (loadConstants n b m) = true :=
  foldl_keeps (fun m => Mem.wf m = true) _ (fun _ _ h => setWord_wf _ _ h) _ _ h

theorem zeroSeg_wf {m : Mem} (g : Nat) (h : Mem.wf m = true) : Mem.wf (zeroSeg g m) = true := by
  rw [Mem.wf_iff] at *
  exact ⟨filter_wf 0 _ _ h.1, filter_wf 0 _ _ h.2.1, filter_wf 0 _ _ h.2.2.1, filter_wf 0 _ _ h.2.2.2⟩

theorem resetMem_wf {m : Mem} (h : Mem.wf m = true) : Mem.wf (resetMem m) = true := by
  rw [Mem.wf_iff] at *
  exact ⟨filter_wf 0 _ _ h.1, filter_wf 0 _ _ h.2.1, filter_wf 0 _ _ h.2.2.1, filter_wf 0 _ _ h.2.2.2⟩

end Sys2Proof.Machine
end

