-- ==== Sys2Proof/Laws/Lasting.lean ====
section
/-! SUPPORT. What no operation on the state ends: the canonical form of the memory and the queue of waiting commands, once for both.
Accesses, scrubbing, the work of bundles, engines and channels, resets (Machine/MemoryOps, Engines, Issue, Reset). -/

namespace Sys2Proof.Machine

open Sys2Proof

set_option Elab.async false

/-- A property of the state that no change of the device ends, and no change of the memory that keeps its canonical form. -/
structure Lasting (P : State → Prop) : Prop where
  dev : ∀ (s : State) (d : Dev), P s → P { s with dev := d }
  mem : ∀ (s : State) (m : Mem), (Mem.wf s.mem = true → Mem.wf m = true) → P s → P { s with mem := m }

theorem lasting_wf : Lasting fun s => Mem.wf s.mem = true := ⟨fun _ _ h => h, fun _ _ k h => k h⟩

theorem lasting_queue (w : List Instr) : Lasting fun s => s.pending = w := ⟨fun _ _ h => h, fun _ _ _ h => h⟩

section

variable {P : State → Prop} (K : Lasting P)

include K

theorem onDev_lasts {s : State} (f : Dev → Dev) (h : P s) : P (onDev f s) := K.dev s (f s.dev) h

theorem ite_lasts {c : Prop} [Decidable c] {s t : State} (h : P s) (k : P t) : P (if c then s else t) := by
  split
  · exact h
  · exact k

/-- What every step of a fold keeps beside its answer, the fold keeps. -/
theorem foldl_lasts {α β : Type} (f : β × State → α → β × State) (hf : ∀ a x, P a.2 → P (f a x).2) (l : List α) (a : β × State)
    (h : P a.2) : P (l.foldl f a).2 :=
  foldl_keeps (fun a : β × State => P a.2) f hf l a h

/-! ### Zeroing and resets -/

theorem zeroCores_lasts {s : State} (h : P s) : P (zeroCores s) :=
  K.dev _ _ (K.mem s _ (fun w => foldl_keeps (fun m => Mem.wf m = true) _ (fun _ e h => loadConstants_wf e.1 e.2 h) _ _
    (foldl_keeps (fun m => Mem.wf m = true) _ (fun _ n h => zeroLocal_wf n h) _ _ w)) h)

theorem onDevZ_lasts {s : State} (f : Dev → Dev) (h : P s) : P (onDevZ f s) := zeroCores_lasts K (onDev_lasts K f h)

theorem zeroSegs_lasts {s : State} (h : P s) : P (zeroSegs s) :=
  K.dev _ _ (K.mem s _ (foldl_keeps (fun m => Mem.wf m = true) _ (fun _ g h => zeroSeg_wf g h) _ _) h)

theorem onDevA_lasts {s : State} (f : Dev → Dev) (h : P s) : P (onDevA f s) := zeroSegs_lasts K (onDevZ_lasts K f h)

theorem warmReset_lasts {s : State} (cause source : Nat) (h : P s) : P (warmReset cause source s) := by
  unfold warmReset
  exact ite_lasts K h (K.dev _ _ (K.mem s _ resetMem_wf h))

theorem safeRestart_lasts {s : State} (h : P s) : P (safeRestart s) := by
  unfold safeRestart
  exact ite_lasts K (ite_lasts K (onDev_lasts K _ (onDev_lasts K _ h)) (warmReset_lasts K _ _ (onDev_lasts K _ h))) h

/-! ### Reads -/

theorem countPage_lasts {s : State} (p : Nat) (h : P s) : P (countPage p s) := onDev_lasts K _ h

theorem poisonBad_lasts {s : State} (p reader k : Nat) (inj : Bool) (h : P s) : P (poisonBad p reader k inj s) := by
  unfold poisonBad
  exact onDev_lasts K _ (K.mem s _ (poisonLines_wf _) h)

theorem decodePage_lasts {s : State} (reader k : Nat) (inj : Bool) (h : P s) : P (decodePage reader k inj s) := by
  have c := countPage_lasts K (k / 512) h
  unfold decodePage
  simp only
  split
  · exact onDev_lasts K _ (K.mem _ _ (eraseDecode_wf ‹_›) c)
  · exact poisonBad_lasts K _ _ _ _ c

theorem readWord_lasts {s : State} (reader k : Nat) (h : P s) : P (readWord reader k s).2.2 := by
  have d := fun inj => decodePage_lasts K reader k inj h
  unfold readWord
  simp only
  split
  · split
    · exact h
    · exact onDev_lasts K _ h
  · split
    · split
      · exact h
      · split
        · exact onDev_lasts K _ h
        · exact onDev_lasts K _ h
    · split
      · split
        · exact d _
        · exact d _
      · exact onDev_lasts K _ h

theorem readLine_lasts {s : State} (reader l : Nat) (h : P s) : P (readLine reader l s).2.2 :=
  foldl_keeps (fun a : Except Nat (List W64) × Bool × State => P a.2.2) _ (fun a k h => by
    split
    · exact h
    · have := readWord_lasts K reader k h
      simp only
      split <;> exact this) _ _ h

theorem accessRead_lasts {s : State} (who : Accessor) (key : Key) (addr : Nat) (h : P s) : P (accessRead who key addr s).2 := by
  unfold accessRead
  split
  · have k := readWord_lasts K (readerOf who) (reach s.dev key addr / 8) h
    simp only
    split
    · exact k
    · exact ite_lasts K k (onDev_lasts K _ k)
  · exact onDev_lasts K _ h

theorem accessReadWords_lasts {s : State} (who : Accessor) (key : Key) (addr : Nat) (ws : List Nat) (h : P s) :
    P (accessReadWords who key addr ws s).2 := by
  unfold accessReadWords
  split
  · refine foldl_lasts K _ (fun a k h => ?_) _ _ h
    dsimp only
    split
    · exact h
    · have r := readWord_lasts K (readerOf who) (reach s.dev key (8 * k) / 8) h
      split
      · exact r
      · exact ite_lasts K r (onDev_lasts K _ r)
  · exact onDev_lasts K _ h

theorem accessReadAll_lasts {s : State} (who : Accessor) (key : Key) (addr n : Nat) (h : P s) :
    P (accessReadAll who key addr n s).2 := by
  refine foldl_lasts K _ (fun a e h => ?_) _ _ h
  split
  · exact h
  · exact accessReadWords_lasts K _ _ _ _ h

/-! ### Writes -/

theorem rebuildPage_lasts {s : State} (l : Nat) (ws : List W64) (reader : Nat) (h : P s) : P (rebuildPage l ws reader s) := by
  unfold rebuildPage
  exact onDev_lasts K _ (K.mem s _ (fun w => buildParity_wf _ (putLine_wf _ _ (poisonLines_wf _ w))) h)

theorem storeDurable_lasts {s : State} (l : Nat) (ws : List W64) (reader : Nat) (h : P s) : P (storeDurable l ws reader s) := by
  unfold storeDurable
  exact ite_lasts K (rebuildPage_lasts K _ _ _ h) (ite_lasts K (rebuildPage_lasts K _ _ _ h)
    (K.mem s _ (fun w => putLine_wf _ _ (deltaParity_wf _ _ _ w)) h))

theorem writeLine_lasts {s : State} (reader l o : Nat) (b : List Byte) (h : P s) : P (writeLine reader l o b s).2 := by
  unfold writeLine
  extract_lets mode inj t fixed u
  have ht : P t := by
    show P (if mode = .durable then _ else s)
    refine ite_lasts K ?_ h
    split
    · exact decodePage_lasts K _ _ _ h
    · exact h
  have hu : P u := onDev_lasts K _ ht
  clear_value t fixed u inj mode
  split
  · exact hu
  · dsimp only
    refine onDev_lasts K _ ?_
    split
    · exact storeDurable_lasts K _ _ _ hu
    · exact K.mem u _ (putLine_wf _ _) hu

theorem accessWrite_lasts {s : State} (who : Accessor) (key : Key) (addr : Nat) (b : List Byte) (h : P s) :
    P (accessWrite who key addr b s).2 := by
  unfold accessWrite
  split
  · have k := writeLine_lasts K (readerOf who) (reach s.dev key addr / 64) (reach s.dev key addr % 64) b h
    simp only
    split
    · exact k
    · exact onDev_lasts K _ k
  · exact onDev_lasts K _ h

theorem accessWriteAll_lasts {s : State} (who : Accessor) (key : Key) (addr : Nat) (b : List Byte) (h : P s) :
    P (accessWriteAll who key addr b s).2 := by
  refine foldl_lasts K _ (fun a e h => ?_) _ _ h
  split
  · exact accessWrite_lasts K _ _ _ _ h
  · exact h

/-! ### Waiting requests -/

theorem perform_lasts {s : State} (r : Request) (h : P s) : P (perform r s) := by
  unfold perform
  simp only
  split
  · exact onDev_lasts K _ (accessRead_lasts K _ _ _ h)
  · exact accessWrite_lasts K _ _ _ _ h

theorem serveOne_lasts {s : State} (h : P s) : P (serveOne s) := by
  unfold serveOne
  split
  · exact h
  · exact perform_lasts K _ (onDev_lasts K _ h)

theorem serveRequests_lasts {s : State} (h : P s) : P (serveRequests s) :=
  foldl_keeps P _ (fun _ _ h => serveOne_lasts K h) _ _ h

theorem flushWrites_lasts {s : State} (h : P s) : P (flushWrites s) := by
  refine foldl_keeps P _ (fun t e h => ?_) _ _ (onDev_lasts K _ h)
  exact ite_lasts K (accessWriteAll_lasts K _ _ _ _ h) (foldl_keeps P _ (fun _ _ h => accessWrite_lasts K _ _ _ _ h) _ _ h)

theorem atMem_lasts {s : State} (t : Time) (h : P s) : P (atMem t s) :=
  serveRequests_lasts K (flushWrites_lasts K (onDev_lasts K _ h))

theorem ask_lasts {s : State} (r : Request) (h : P s) : P (ask r s) := by
  unfold ask
  extract_lets key r' cost
  clear_value cost key r'
  split
  · generalize takeTokens r'.who key r'.addr cost s.dev = x
    obtain ⟨t, d⟩ := x
    have k : P { s with dev := d } := K.dev s d h
    cases t with
    | none => exact k
    | some t => exact ite_lasts K (perform_lasts K _ k) (onDev_lasts K _ k)
  · exact onDev_lasts K _ h

/-! ### Scrubbing, relocation, modes, injection -/

theorem scrubWords_lasts {s : State} (p : Nat) (h : P s) : P (scrubWords p s) :=
  foldl_keeps P _ (fun s k h => ite_lasts K (onDev_lasts K _ (K.mem s _ (fixWord_wf k) h)) (onDev_lasts K _ (K.mem s _ (fixWord_wf k) h)))
    _ _ h

theorem scrubPoison_lasts {s : State} (p : Nat) (lines : List Nat) (cause kind : Nat) (h : P s) :
    P (scrubPoison p lines cause kind s) := by
  unfold scrubPoison
  exact onDev_lasts K _ (K.mem s _ (poisonLines_wf _) h)

theorem scrubParity_lasts {s : State} (p : Nat) (h : P s) : P (scrubParity p s) := by
  unfold scrubParity
  exact onDev_lasts K _ (K.mem s _ (putParity_wf _ _) h)

theorem scrubDurable_lasts {s : State} (p : Nat) (h : P s) : P (scrubDurable p s) := by
  unfold scrubDurable
  dsimp only
  have h1 := scrubWords_lasts K p h
  generalize scrubWords p s = t at *
  split
  · exact onDev_lasts K _ (K.mem t _ (fun w => buildParity_wf _ (poisonLines_wf _ w)) h1)
  · have h2 := scrubParity_lasts K p h1
    generalize scrubParity p t = u at *
    split
    · split
      · exact onDev_lasts K _ (K.mem u _ (eraseDecode_wf ‹_›) h2)
      · exact ite_lasts K (onDev_lasts K _ h2) (scrubPoison_lasts K _ _ _ _ h2)
    · split
      · split
        · exact onDev_lasts K _ (K.mem u _ (errorDecode_wf ‹_›) h2)
        · exact scrubPoison_lasts K _ _ _ _ h2
      · exact h2

theorem scrubPage_lasts {s : State} (p : Nat) (h : P s) : P (scrubPage p s) := by
  unfold scrubPage
  split
  · exact h
  · refine ite_lasts K h ?_
    extract_lets t
    have ht : P t := onDev_lasts K _ h
    clear_value t
    split
    · exact scrubDurable_lasts K _ ht
    · have hu := scrubWords_lasts K p ht
      exact ite_lasts K hu (ite_lasts K (onDev_lasts K _ hu) (scrubPoison_lasts K _ _ _ _ hu))
    · exact ite_lasts K ht (ite_lasts K (onDev_lasts K _ ht) (scrubPoison_lasts K _ _ _ _ ht))

theorem verifyRead_lasts {s : State} (k : Nat) (h : P s) : P (verifyRead k s) := by
  unfold verifyRead
  split
  · exact h
  · split
    · exact h
    · rename_i e _
      have a : P (onDev (advance e.2) s) := onDev_lasts K _ h
      exact ite_lasts K (onDev_lasts K _ (K.mem _ _ (fixWord_wf k) a)) (onDev_lasts K _ a)

theorem relocated_lasts {s : State} (g : Nat) (h : P s) : P (relocated g s) := by
  unfold relocated
  split
  · exact h
  · exact ite_lasts K h (onDev_lasts K _ (K.mem s _ (moveSegment_wf _ _) h))

theorem convertSegment_lasts {s : State} (g : Nat) (h : P s) : P (convertSegment g s) := by
  unfold convertSegment
  extract_lets t ls u
  refine ite_lasts K h ?_
  have hu : P u := ite_lasts K (foldl_keeps P _ (fun _ l h => readLine_lasts K rdDevice l h) _ _ h) h
  clear_value u
  exact onDev_lasts K _ (K.mem u _ (fun w => convertParity_wf _ _
    (foldl_keeps (fun m => Mem.wf m = true) _ (fun _ _ h => convertLine_wf _ _ h) _ _ w)) hu)

theorem convertLanded_lasts {s : State} (h : P s) : P (convertLanded s) :=
  foldl_keeps P _ (fun _ g h => convertSegment_lasts K g h) _ _ h

theorem memInject_lasts {s : State} (stop v : Nat) (h : P s) : P (memInject stop v s) := by
  unfold memInject
  exact ite_lasts K (onDev_lasts K _ h) (ite_lasts K (onDev_lasts K _ h) (onDev_lasts K _ (K.mem s _ (injectLine_wf _ _ _) h)))

theorem registerWrite_lasts {s : State} (r : Reg) (v : W64) (h : P s) : P (registerWrite r v s) := by
  unfold registerWrite
  split
  · exact memInject_lasts K _ _ h
  · exact onDevZ_lasts K _ h

/-! ### Engines -/

theorem engineBytes_lasts {s : State} (core : Fin 64) (engine slot addr n : Nat) (h : P s) :
    P (engineBytes core engine slot addr n s).2 :=
  ite_lasts K (accessReadAll_lasts K _ _ _ _ h) (onDev_lasts K _ (accessReadAll_lasts K _ _ _ _ h))

theorem readOperands_lasts {s : State} (core : Fin 64) (engine slot base : Nat) (op : EngineOp) (h : P s) :
    P (readOperands core engine slot base op s).2 := by
  have k : P ((opReads op).foldl (fun (a : Option (List (List Byte)) × State) e =>
      match a.1 with
      | none => a
      | some l =>
        let (r, s) := engineBytes core engine slot (viewAddr core.val base e.1) e.2 a.2
        (r.map fun b => l ++ [b], s)) (some [], s)).2 := by
    refine foldl_lasts K _ (fun a e h => ?_) _ _ h
    split
    · exact h
    · exact engineBytes_lasts K _ _ _ _ _ h
  unfold readOperands
  revert k
  generalize (opReads op).foldl _ (some [], s) = r
  intro k
  obtain ⟨rs, t⟩ := r
  simp only
  split
  · exact k
  · exact k

theorem writeDrain_lasts {s : State} (core : Fin 64) (p : PairInfo) (op : EngineOp) (f : Byte) (e : Engine) (h : P s) :
    P (writeDrain core p op f e s) := by
  unfold writeDrain
  extract_lets n res mags fwd t key
  have ht : P t := onDev_lasts K _ h
  clear_value t res mags key
  have h2 := accessWriteAll_lasts K (.core core) key (viewAddr n e.base op.outAddr) res ht
  exact ite_lasts K (accessWriteAll_lasts K _ _ _ _ h2) h2

theorem drain_lasts {s : State} (core : Fin 64) (engine : Nat) (p : PairInfo) (op : EngineOp) (f : Byte) (us : List EngineUpset)
    (e : Engine) (stopped : Bool) (h : P s) : P (drain core engine p op f us e stopped s) := by
  have ht : ∀ g, P (onDev g s) := fun g => onDev_lasts K g h
  unfold drain
  dsimp only
  split
  · exact onDev_lasts K _ (ite_lasts K (onDev_lasts K _ (ht _)) (ht _))
  · exact ite_lasts K (ite_lasts K (onDev_lasts K _ (ht _)) (ht _)) (writeDrain_lasts K _ _ _ _ _ (ite_lasts K (onDev_lasts K _ (ht _)) (ht _)))

theorem engineEnd_lasts {s : State} (core : Fin 64) (engine : Nat) (us : List EngineUpset) (h : P s) :
    P (engineEnd core engine us s) := by
  unfold engineEnd
  dsimp only
  split
  · exact h
  · rename_i op p _
    have ht := onDev_lasts K (setEngine core.val engine { engineOf (coreOf s.dev core.val) engine with op := none }) h
    refine ite_lasts K h (ite_lasts K (onDev_lasts K _ ht) ?_)
    have k := readOperands_lasts K core engine (engineOf (coreOf s.dev core.val) engine).slot
      (engineOf (coreOf s.dev core.val) engine).base op ht
    split
    · next e => rw [e] at k; exact k
    · next e =>
      rw [e] at k
      split
      · exact onDev_lasts K _ k
      · exact drain_lasts K _ _ _ _ _ _ _ _ (onDev_lasts K _ k)

/-! ### Bundles -/

theorem laneRead_lasts {s : State} (x : Site) (lane addr n : Nat) (h : P s) : P (laneRead x lane addr n s).2 :=
  ite_lasts K (accessReadAll_lasts K _ _ _ _ h) (onDev_lasts K _ (accessReadAll_lasts K _ _ _ _ h))

theorem laneWrite_lasts {s : State} (x : Site) (lane addr : Nat) (b : List Byte) (h : P s) : P (laneWrite x lane addr b s).2 :=
  ite_lasts K (accessWriteAll_lasts K _ _ _ _ h) (onDev_lasts K _ (accessWriteAll_lasts K _ _ _ _ h))

/-- What every lane keeps, all lanes keep. -/
theorem lanesDo_lasts {s : State} (ls : List Nat) (f : Nat → State → Option (List Byte) × State)
    (hf : ∀ l t, P t → P (f l t).2) (h : P s) : P (lanesDo ls f s).2 := by
  refine foldl_lasts K _ (fun a l h => ?_) _ _ h
  split
  · exact h
  · have := hf l _ h
    simp only
    split <;> exact this

theorem localRead_lasts {s : State} (x : Site) (const : Bool) (addr : Fin 64) (n l : Nat) (h : P s) :
    P (localRead x const addr n l s).2 := by
  unfold localRead
  simp only
  split
  · exact laneRead_lasts K _ _ _ _ h
  · exact onDev_lasts K _ h

theorem localWrite_lasts {s : State} (x : Site) (const : Bool) (addr : Fin 64) (l : Nat) (b : List Byte) (h : P s) :
    P (localWrite x const addr l b s).2 := by
  unfold localWrite
  simp only
  split
  · exact laneWrite_lasts K _ _ _ _ h
  · exact onDev_lasts K _ h

theorem deviceRead_lasts {s : State} (x : Site) (base : DevBase) (addr : Fin 64) (n l : Nat) (h : P s) :
    P (deviceRead x base addr n l s).2 := by
  unfold deviceRead
  simp only
  split
  · exact laneRead_lasts K _ _ _ _ h
  · exact onDev_lasts K _ h

theorem deviceWrite_lasts {s : State} (x : Site) (base : DevBase) (addr : Fin 64) (l : Nat) (b : List Byte) (h : P s) :
    P (deviceWrite x base addr l b s).2 := by
  unfold deviceWrite
  simp only
  split
  · exact laneWrite_lasts K _ _ _ _ h
  · exact onDev_lasts K _ h

theorem withTokens_lasts {s : State} (x : Site) (l : List (Nat × Nat)) (write : Bool) (f : Site → State → State)
    (hf : ∀ y t, P t → P (f y t)) (h : P s) : P (withTokens x l write f s) := by
  unfold withTokens
  dsimp only
  split
  · exact hf _ s h
  · generalize claimAll (.core x.core) (coreKey s.dev x.core.val) _ s.dev = r
    obtain ⟨t, d⟩ := r
    have k : P { s with dev := d } := K.dev s d h
    cases t with
    | none => exact k
    | some t => exact ite_lasts K (hf _ _ k) (onDev_lasts K _ k)

theorem finishLoad_lasts {s : State} (x : Site) (dst : Fin 64) (n : Nat) (r : Option (List (Nat × List Byte))) (extra : List W128)
    (h : P s) : P (finishLoad x dst n r extra s) := by
  unfold finishLoad
  split
  · exact onDev_lasts K _ h
  · exact h

theorem takeDrain_lasts {s : State} (x : Site) (op : EngineOp) (v : List W32) (h : P s) : P (takeDrain x op v s) := by
  unfold takeDrain
  split
  · have k := fun t key addr b (h : P t) => accessWriteAll_lasts K (.core x.core) key addr b h
    exact ite_lasts K (k _ _ _ _ (k _ _ _ _ h)) (k _ _ _ _ h)
  · exact h

theorem issueAtomicLocal_lasts {s : State} (x : Site) (op : AtomicOp) (dst addr operand : Fin 64) (h : P s) :
    P (issueAtomicLocal x op dst addr operand s) := by
  unfold issueAtomicLocal
  simp only
  have k : ∀ f : Nat → State → Option (List Byte) × State, (∀ l t, P t → P (f l t).2) → P (match (lanesDo (activeLanes x.bundle) f s).1 with
      | some vs => finishLoad x dst 4 (lanesDo (activeLanes x.bundle) f s).1
          (atomicItems op x.bundle (fun l => (regAt x.bundle l addr).toNat) (regAt x.bundle · operand) fun l => wordOf (bytesOf vs l) 0)
          (lanesDo (activeLanes x.bundle) f s).2
      | none => (lanesDo (activeLanes x.bundle) f s).2) := fun f hf => by
    have := lanesDo_lasts K (activeLanes x.bundle) f hf h
    split
    · exact finishLoad_lasts K _ _ _ _ _ this
    · exact this
  refine k _ fun l t ht => ?_
  split
  · exact localWrite_lasts K _ _ _ _ _ (localRead_lasts K _ _ _ _ _ ht)
  · exact localRead_lasts K _ _ _ _ _ ht

theorem issueAtomicDevice_lasts {s : State} (x : Site) (op : AtomicOp) (dst : Fin 64) (base : DevBase) (addr operand : Fin 64)
    (h : P s) : P (issueAtomicDevice x op dst base addr operand s) := by
  unfold issueAtomicDevice
  extract_lets b its
  split
  · split
    · exact finishLoad_lasts K _ _ _ _ _ (K.dev s _ h)
    · exact h
  · refine withTokens_lasts K _ _ _ _ (fun y t ht => ?_) h
    have k : P (lanesDo (activeLanes b) (fun l s =>
        let (o, s) := deviceRead y base addr 4 l s
        match o with
        | some old =>
          let (w, s) := deviceWrite y base addr l (leBytes 4 (atomicNew op (wordOf old 0) (regAt b l operand)).toNat) s
          (w.map fun _ => old, s)
        | none => (none, s)) t).2 := by
      refine lanesDo_lasts K _ _ (fun l u hu => ?_) ht
      simp only
      split
      · exact deviceWrite_lasts K _ _ _ _ _ (deviceRead_lasts K _ _ _ _ _ hu)
      · exact deviceRead_lasts K _ _ _ _ _ hu
    revert k
    generalize lanesDo (activeLanes b) _ t = r
    intro k
    obtain ⟨v, u⟩ := r
    cases v with
    | none => exact k
    | some vs => exact finishLoad_lasts K _ _ _ _ _ (onDev_lasts K _ k)

theorem issueTensor_lasts {s : State} (x : Site) (engine : Fin 4) (op : EngineOp) (h : P s) : P (issueTensor x engine op s) := by
  unfold issueTensor
  extract_lets n its ok inside
  refine ite_lasts K (onDev_lasts K _ h) (ite_lasts K (onDev_lasts K _ h) ?_)
  split
  · split
    · split
      · exact onDev_lasts K _ (takeDrain_lasts K _ _ _ (K.dev s _ h))
      · exact h
    · exact onDev_lasts K _ h
  · exact ite_lasts K h (onDev_lasts K _ h)

theorem issueInstr_lasts {s : State} (x : Site) (i : BundleInstr) (h : P s) : P (issueInstr x i s) := by
  have d : ∀ f, P (onDev f s) := fun f => onDev_lasts K f h
  unfold issueInstr
  extract_lets b plain write
  split
  · exact d _
  refine ite_lasts K h ?_
  split
  · exact d _
  · exact d _
  · exact d _
  · exact d _
  · exact d _
  · exact d _
  · exact d _
  · exact d _
  · exact d _
  · exact d _
  · exact d _
  · rename_i dst addr const n
    exact ite_lasts K (finishLoad_lasts K _ _ _ _ _ (lanesDo_lasts K _ _ (fun l t ht => localRead_lasts K x _ _ _ l ht) h)) (d _)
  · rename_i src addr const n _
    refine ite_lasts K ?_ (d _)
    have k := lanesDo_lasts K (activeLanes b) (fun l s => localWrite x const addr l (regBytes b l src n) s)
      (fun l t ht => localWrite_lasts K x _ _ l _ ht) h
    generalize lanesDo (activeLanes b) (fun l s => localWrite x const addr l (regBytes b l src n) s) s = r at *
    obtain ⟨v, t⟩ := r
    cases v
    · exact k
    · exact onDev_lasts K _ k
  · exact issueAtomicLocal_lasts K _ _ _ _ _ h
  · rename_i dst base addr n
    refine ite_lasts K (withTokens_lasts K _ _ _ _ (fun y t ht => ?_) h) (d _)
    exact finishLoad_lasts K _ _ _ _ _ (lanesDo_lasts K _ _ (fun l t ht => deviceRead_lasts K y _ _ _ l ht) ht)
  · rename_i src base addr n _
    extract_lets its
    refine ite_lasts K (d _) (ite_lasts K (d _) (withTokens_lasts K _ _ _ _ (fun y t ht => ?_) h))
    have k := lanesDo_lasts K (activeLanes b) (fun l s => deviceWrite y base addr l (regBytes b l src n) s)
      (fun l t ht => deviceWrite_lasts K y _ _ l _ ht) ht
    generalize lanesDo (activeLanes b) (fun l s => deviceWrite y base addr l (regBytes b l src n) s) t = r at *
    obtain ⟨v, u⟩ := r
    cases v
    · exact k
    · exact onDev_lasts K _ k
  · exact issueAtomicDevice_lasts K _ _ _ _ _ _ h
  · exact issueTensor_lasts K _ _ _ h
  · exact d _
  · exact d _
  · exact d _
  · exact d _

theorem issueOne_lasts {s : State} (core : Fin 64) (c : Candidate) (h : P s) : P (issueOne core c s) := by
  unfold issueOne
  split
  · exact h
  · split
    · exact onDev_lasts K _ h
    · exact onDev_lasts K _ h
    · exact issueInstr_lasts K _ _ (onDev_lasts K _ h)
    · exact issueInstr_lasts K _ _ h

theorem coreIssue_lasts {s : State} (core : Fin 64) (next : List Candidate) (h : P s) : P (coreIssue core next s) :=
  foldl_keeps P _ (fun _ c h => issueOne_lasts K core c h) _ _ h

/-! ### Channels -/

theorem dmaLine_lasts {s : State} (ch src dst : Nat) (key : Key) (h : P s) : P (dmaLine ch src dst key s).2 := by
  unfold dmaLine
  split
  · have k := readLine_lasts K rdDma (reach s.dev key src / 64) h
    simp only
    split
    · exact accessWrite_lasts K _ _ _ _ k
    · exact onDev_lasts K _ k
  · exact onDev_lasts K _ h

theorem dmaLines_lasts (ch : Nat) (key : Key) (fuel src dst : Nat) {s : State} (h : P s) : P (dmaLines ch key fuel src dst s).2 := by
  induction fuel generalizing src dst s with
  | zero => exact h
  | succ n ih =>
    have k := dmaLine_lasts K ch src dst key h
    unfold dmaLines
    simp only
    split
    · exact ih _ _ (onDev_lasts K _ k)
    · exact k

theorem dmaComplete_lasts {s : State} (ch : Nat) (h : P s) : P (dmaComplete ch s) := by
  unfold dmaComplete
  extract_lets c key
  refine ite_lasts K h ?_
  generalize dmaTokens ch key s.dev = r
  obtain ⟨t, d⟩ := r
  have hd : P { s with dev := d } := K.dev s d h
  refine ite_lasts K hd ?_
  have k := dmaLines_lasts K ch key c.lines c.src c.dst hd
  generalize dmaLines ch key c.lines c.src c.dst { s with dev := d } = r at k
  obtain ⟨ok, u⟩ := r
  refine ite_lasts K k (onDev_lasts K _ ?_)
  split
  · exact onDev_lasts K _ (onDev_lasts K _ k)
  · exact onDev_lasts K _ k

theorem denec_lasts {s : State} (op : W16) (t : Time) (path : Path) (p : Packet) (h : P s) : P (denec op t path p s) :=
  onDevA_lasts K _ h

end

end Sys2Proof.Machine
end

