-- ==== Sys2Proof/Laws/Verdicts.lean ====
section
/-! SUPPORT. What issuing verdicts can change, once per shared operation of Machine/Verdicts.lean. -/

namespace Sys2Proof.Machine

open Sys2Proof

set_option Elab.async false

theorem onlyVerdicts_refl (d : Dev) : onlyVerdicts d d := rfl

theorem onlyVerdicts_trans {a b c : Dev} (h : onlyVerdicts a b) (k : onlyVerdicts b c) : onlyVerdicts a c := by
  unfold onlyVerdicts at *
  rw [k, h]

theorem foldl_verdicts {α : Type} (f : Dev → α → Dev) (h : ∀ d a, onlyVerdicts d (f d a)) (l : List α) (d : Dev) :
    onlyVerdicts d (l.foldl f d) := by
  induction l generalizing d with
  | nil => exact onlyVerdicts_refl d
  | cons a l ih => exact onlyVerdicts_trans (h d a) (ih _)

theorem setCtx_verdicts (c : W32) (x : Context) (d : Dev) : onlyVerdicts d (setCtx c x d) := rfl

theorem setQueue_verdicts (q : Nat) (x : Queue) (d : Dev) : onlyVerdicts d (setQueue q x d) := rfl

theorem modPort_verdicts (n : Nat) (f : Port → Port) (d : Dev) : onlyVerdicts d (modPort n f d) := rfl

theorem modFab_verdicts (f : Fabric → Fabric) (d : Dev) : onlyVerdicts d (modFab f d) := rfl

theorem raiseAttn_verdicts (cls cause : Nat) (l : List Byte) (d : Dev) : onlyVerdicts d (raiseAttn cls cause l d) := rfl

theorem journalAdd_verdicts (c : W32) (b : JournalBody) (d : Dev) : onlyVerdicts d (journalAdd c b d) := rfl

theorem modResult_verdicts (c : W32) (q : Nat) (f : Result → Result) (d : Dev) : onlyVerdicts d (modResult c q f d) := rfl

theorem countRaise_verdicts {get : Dev → Counter} {put : Counter → Dev → Dev} (h : ∀ c d, onlyVerdicts d (put c d))
    (cls n item i j o : Nat) (d : Dev) : onlyVerdicts d (countRaise cls get put n item i j o d) := by
  unfold countRaise
  simp only
  split
  · exact h _ _
  · exact onlyVerdicts_trans (h _ _) (raiseAttn_verdicts _ _ _ _)

theorem refuseOut_verdicts (port n : Nat) (d : Dev) : onlyVerdicts d (refuseOut port n d) :=
  countRaise_verdicts (fun _ _ => modPort_verdicts _ _ _) ..

theorem drainEntries_verdicts (c : W32) (fuel : Nat) (d : Dev) : onlyVerdicts d (drainEntries c fuel d) := by
  induction fuel generalizing d with
  | zero => exact onlyVerdicts_refl d
  | succ n ih =>
    unfold drainEntries
    simp only
    split
    · exact onlyVerdicts_refl d
    · split
      · exact onlyVerdicts_refl d
      · exact onlyVerdicts_trans (by exact rfl) (ih _)

theorem postEntry_verdicts (c : W32) (r : Nat) (b : EntryBody) (d : Dev) : onlyVerdicts d (postEntry c r b d).2 :=
  onlyVerdicts_trans (setCtx_verdicts _ _ _) (drainEntries_verdicts _ _ _)

theorem drainRecords_verdicts (c : W32) (fuel : Nat) (d : Dev) : onlyVerdicts d (drainRecords c fuel d) := by
  induction fuel generalizing d with
  | zero => exact onlyVerdicts_refl d
  | succ n ih =>
    unfold drainRecords
    simp only
    split
    · exact onlyVerdicts_refl d
    · split
      · exact onlyVerdicts_trans (by exact rfl) (ih _)
      · exact onlyVerdicts_refl d

theorem storeRecord_verdicts (c : W32) (r : VerdictRecord) (d : Dev) : onlyVerdicts d (storeRecord c r d).2 := by
  unfold storeRecord
  simp only
  split
  · exact rfl
  · split
    · exact rfl
    · exact rfl

theorem concludeOld_verdicts (c : W32) (w : W64) (d : Dev) : onlyVerdicts d (concludeOld c w d) :=
  onlyVerdicts_trans (modFab_verdicts _ d) (foldl_verdicts _ (fun _ _ => raiseAttn_verdicts _ _ _ _) _ _)

theorem handOver_verdicts (c : W32) (d : Dev) : onlyVerdicts d (handOver c d) := by
  unfold handOver
  split
  · exact onlyVerdicts_refl d
  · exact rfl

/-- What one segment's tag becomes touches nothing but the tags. -/
theorem modSeg_verdicts (n : Nat) (f : Segment → Segment) (d : Dev) : onlyVerdicts d (modSeg n f d) := rfl

theorem release_verdicts (w : AllocFor) (d : Dev) : onlyVerdicts d (release w d) := by
  unfold release
  split
  · exact onlyVerdicts_refl d
  · exact onlyVerdicts_trans (foldl_verdicts _ (fun _ g => modSeg_verdicts g _ _) _ d) (by exact rfl)

theorem setReadMask_verdicts (w : AllocFor) (m : W16) (d : Dev) : onlyVerdicts d (setReadMask w m d) := by
  unfold setReadMask
  split
  · exact onlyVerdicts_refl d
  · exact foldl_verdicts _ (fun _ g => modSeg_verdicts g _ _) _ d

theorem setMasks_verdicts (d : Dev) : onlyVerdicts d (setMasks d) := by
  unfold setMasks
  refine foldl_verdicts _ (fun e a => ?_) _ d
  split
  · exact setReadMask_verdicts _ _ e
  · exact setReadMask_verdicts _ _ e
  · exact onlyVerdicts_refl e

theorem releaseContext_verdicts (c : W32) (x : Context) (d : Dev) : onlyVerdicts d (releaseContext c x d) :=
  onlyVerdicts_trans (onlyVerdicts_trans (by exact rfl) (onlyVerdicts_trans (release_verdicts (.queues c)
    (dropQueue x.evQueue (dropQueue x.chQueue (dropQueue x.vQueue d)))) (by exact rfl))) (setMasks_verdicts _)

theorem closeContext_verdicts (c : W32) (d : Dev) : onlyVerdicts d (closeContext c d) :=
  onlyVerdicts_trans (journalAdd_verdicts c _ d) (onlyVerdicts_trans (concludeOld_verdicts c _ _)
    (onlyVerdicts_trans (handOver_verdicts c _) (releaseContext_verdicts c _ _)))

theorem closeIfDrained_verdicts (c : W32) (d : Dev) : onlyVerdicts d (closeIfDrained c d) := by
  unfold closeIfDrained
  simp only
  split
  · exact closeContext_verdicts c d
  · exact onlyVerdicts_refl d

theorem cancelOpen_verdicts (c : W32) (r : Result) (d : Dev) : onlyVerdicts d (cancelOpen c r d) := by
  unfold cancelOpen
  split
  · exact postEntry_verdicts _ _ _ _
  · exact onlyVerdicts_refl d

theorem dropChecks_verdicts (c : W32) (q : Nat) (d : Dev) : onlyVerdicts d (dropChecks c q d) := rfl

theorem takeResult_verdicts (c : W32) (q : Nat) (b : Bool) (d : Dev) : onlyVerdicts d (takeResult c q b d) := rfl

theorem queueMessage_verdicts (port : Nat) (held : Bool) (m : OutMsg) (d : Dev) :
    onlyVerdicts d (queueMessage port held m d) := by
  unfold queueMessage
  split <;> exact rfl

theorem recordResult_verdicts (c : W32) (r : Result) (d : Dev) : onlyVerdicts d (recordResult c r d) := by
  have h1 : onlyVerdicts d (if wantsMessage c r d && !sendsMessage c r d then refuseOut (ctxOf d c).outPort 1 d else d) := by
    split
    · exact refuseOut_verdicts _ _ _
    · exact onlyVerdicts_refl d
  have h2 := onlyVerdicts_trans h1 (onlyVerdicts_trans (takeResult_verdicts c r.seq (sendsMessage c r d) _)
    (storeRecord_verdicts c (finalRecord c r d) _))
  unfold recordResult
  simp only
  split
  · exact onlyVerdicts_trans h2 (queueMessage_verdicts _ _ _ _)
  · exact h2

/-- Everything the issue of a verdict can change. -/
theorem issueVerdict_verdicts (c : W32) (q : Nat) (d : Dev) : onlyVerdicts d (issueVerdict c q d) := by
  unfold issueVerdict
  split
  · exact onlyVerdicts_refl d
  · split
    · exact onlyVerdicts_refl d
    · exact onlyVerdicts_trans (cancelOpen_verdicts _ _ d) (onlyVerdicts_trans (dropChecks_verdicts _ _ _)
        (onlyVerdicts_trans (recordResult_verdicts _ _ _) (closeIfDrained_verdicts _ _)))

theorem concludeResult_verdicts (c : W32) (q : Nat) (d : Dev) : onlyVerdicts d (concludeResult c q d) :=
  onlyVerdicts_trans (foldl_verdicts _ (fun _ _ => onlyVerdicts_trans (modResult_verdicts _ _ _ _)
    (issueVerdict_verdicts _ _ _)) _ d) (issueVerdict_verdicts _ _ _)

theorem expireResult_verdicts (c : W32) (q : Nat) (d : Dev) : onlyVerdicts d (expireResult c q d) :=
  onlyVerdicts_trans (modResult_verdicts c q _ d) (concludeResult_verdicts _ _ _)

theorem settle_verdicts (c : W32) (q : Nat) (d : Dev) : onlyVerdicts d (settle c q d) := by
  unfold settle
  split
  · exact onlyVerdicts_refl d
  · split
    · exact onlyVerdicts_refl d
    · rename_i r0 _ _
      refine onlyVerdicts_trans (modResult_verdicts c q (fun _ => dueWindows d r0) d) ?_
      dsimp only
      split
      · exact expireResult_verdicts _ _ _
      · split
        · exact concludeResult_verdicts _ _ _
        · split
          · split
            · split
              · exact onlyVerdicts_trans (modResult_verdicts _ _ _ _) (concludeResult_verdicts _ _ _)
              · exact concludeResult_verdicts _ _ _
            · exact concludeResult_verdicts _ _ _
          · exact onlyVerdicts_refl _

theorem expireDue_verdicts (c : W32) (d : Dev) : onlyVerdicts d (expireDue c d) :=
  foldl_verdicts _ (fun _ _ => settle_verdicts _ _ _) _ d

theorem expireAll_verdicts (d : Dev) : onlyVerdicts d (expireAll d) :=
  foldl_verdicts _ (fun _ _ => expireDue_verdicts _ _) _ d

theorem concludeAll_verdicts (c : W32) (b : W32) (d : Dev) : onlyVerdicts d (concludeAll c b d) :=
  foldl_verdicts _ (fun _ _ => onlyVerdicts_trans (modResult_verdicts _ _ _ _) (concludeResult_verdicts _ _ _)) _ d

theorem withholdAll_verdicts (d : Dev) : onlyVerdicts d (withholdAll d) := rfl

theorem recordWithheld_verdicts (d : Dev) : onlyVerdicts d (recordWithheld d) :=
  foldl_verdicts _ (fun _ _ => foldl_verdicts _ (fun _ _ => issueVerdict_verdicts _ _ _) _ _) _ d

/-! ### Attention stays pending -/

/-- Every class pending in `d` is pending in `e`. -/
def attnKeeps (d e : Dev) : Prop := ∀ c, (kfind? d.attn.pending c).isSome = true → (kfind? e.attn.pending c).isSome = true

theorem attnKeeps_of_eq {d e : Dev} (h : e.attn = d.attn) : attnKeeps d e := fun c k => by rw [h]; exact k

theorem attnKeeps_trans {a b c : Dev} (h : attnKeeps a b) (k : attnKeeps b c) : attnKeeps a c := fun n x => k n (h n x)

theorem foldl_attn {α : Type} (f : Dev → α → Dev) (h : ∀ d a, attnKeeps d (f d a)) (l : List α) (d : Dev) :
    attnKeeps d (l.foldl f d) := by
  induction l generalizing d with
  | nil => exact fun _ k => k
  | cons a l ih => exact attnKeeps_trans (h d a) (ih _)

theorem raiseAttn_attn (cls cause : Nat) (l : List Byte) (d : Dev) : attnKeeps d (raiseAttn cls cause l d) := fun c k => by
  simp only [raiseAttn, kfind?_kput]
  split
  · rfl
  · exact k

theorem refuseOut_attn (port n : Nat) (d : Dev) : attnKeeps d (refuseOut port n d) := by
  unfold refuseOut countRaise
  simp only
  split
  · exact attnKeeps_of_eq rfl
  · exact attnKeeps_trans (attnKeeps_of_eq rfl) (raiseAttn_attn _ _ _ _)

theorem drainEntries_attn (c : W32) (fuel : Nat) (d : Dev) : (drainEntries c fuel d).attn = d.attn := by
  induction fuel generalizing d with
  | zero => rfl
  | succ n ih =>
    unfold drainEntries
    simp only
    split
    · rfl
    · split
      · rfl
      · exact ih _

theorem storeRecord_attn (c : W32) (r : VerdictRecord) (d : Dev) : attnKeeps d (storeRecord c r d).2 := by
  unfold storeRecord
  simp only
  split
  · exact attnKeeps_of_eq rfl
  · split
    · exact attnKeeps_trans (attnKeeps_of_eq rfl) (raiseAttn_attn _ _ _ _)
    · exact attnKeeps_of_eq rfl

theorem modFab_keeps (f : Fabric → Fabric) (d : Dev) : attnKeeps d (modFab f d) := fun _ k => k

theorem journalAdd_attn (c : W32) (b : JournalBody) (d : Dev) : attnKeeps d (journalAdd c b d) := fun _ k => k

theorem foldl_attnEq {α : Type} (f : Dev → α → Dev) (h : ∀ d a, (f d a).attn = d.attn) (l : List α) (d : Dev) :
    (l.foldl f d).attn = d.attn := by
  induction l generalizing d with
  | nil => rfl
  | cons a l ih => rw [List.foldl_cons, ih, h]

theorem release_attn (w : AllocFor) (d : Dev) : (release w d).attn = d.attn := by
  unfold release
  split
  · rfl
  · exact foldl_attnEq (fun d g => modSeg g (fun x => { x with valid := false, readMask := 0 }) d) (fun _ _ => rfl) _ d

theorem setMasks_attn (d : Dev) : (setMasks d).attn = d.attn := by
  have h : ∀ w m (e : Dev), (setReadMask w m e).attn = e.attn := fun w m e => by
    unfold setReadMask
    split
    · rfl
    · exact foldl_attnEq (fun d g => modSeg g (fun x => { x with readMask := m }) d) (fun _ _ => rfl) _ e
  unfold setMasks
  refine foldl_attnEq _ (fun e a => ?_) _ d
  split
  · exact h _ _ e
  · exact h _ _ e
  · rfl

theorem releaseContext_attn (c : W32) (x : Context) (d : Dev) : attnKeeps d (releaseContext c x d) :=
  attnKeeps_of_eq ((setMasks_attn _).trans (release_attn _ _))

theorem concludeOld_attn (c : W32) (w : W64) (d : Dev) : attnKeeps d (concludeOld c w d) :=
  attnKeeps_trans (modFab_keeps _ d) (foldl_attn _ (fun _ _ => raiseAttn_attn _ _ _ _) _ _)

theorem handOver_attn (c : W32) (d : Dev) : attnKeeps d (handOver c d) := attnKeeps_of_eq (by unfold handOver; split <;> rfl)

theorem closeIfDrained_attn (c : W32) (d : Dev) : attnKeeps d (closeIfDrained c d) := by
  unfold closeIfDrained
  simp only
  split
  · unfold closeContext
    exact attnKeeps_trans (journalAdd_attn c _ d) (attnKeeps_trans (concludeOld_attn c _ _)
      (attnKeeps_trans (handOver_attn c _) (releaseContext_attn c _ _)))
  · exact fun _ k => k

theorem cancelOpen_attn (c : W32) (r : Result) (d : Dev) : (cancelOpen c r d).attn = d.attn := by
  unfold cancelOpen
  split
  · exact drainEntries_attn c _ _
  · rfl

theorem takeResult_attn (c : W32) (q : Nat) (b : Bool) (d : Dev) : attnKeeps d (takeResult c q b d) := fun _ k => k

theorem dropChecks_attn (c : W32) (q : Nat) (d : Dev) : attnKeeps d (dropChecks c q d) := fun _ k => k

theorem recordResult_attn (c : W32) (r : Result) (d : Dev) : attnKeeps d (recordResult c r d) := by
  have h1 : attnKeeps d (if wantsMessage c r d && !sendsMessage c r d then refuseOut (ctxOf d c).outPort 1 d else d) := by
    split
    · exact refuseOut_attn _ _ _
    · exact fun _ k => k
  have h2 := attnKeeps_trans h1 (attnKeeps_trans (takeResult_attn c r.seq (sendsMessage c r d) _)
    (storeRecord_attn c (finalRecord c r d) _))
  have h3 : ∀ port held m (e : Dev), (queueMessage port held m e).attn = e.attn := fun port held m e => by
    unfold queueMessage
    split <;> rfl
  unfold recordResult
  simp only
  split
  · exact attnKeeps_trans h2 (attnKeeps_of_eq (h3 _ _ _ _))
  · exact h2

theorem issueVerdict_attn (c : W32) (q : Nat) (d : Dev) : attnKeeps d (issueVerdict c q d) := by
  unfold issueVerdict
  split
  · exact fun _ k => k
  · split
    · exact fun _ k => k
    · exact attnKeeps_trans (attnKeeps_of_eq (cancelOpen_attn c _ d)) (attnKeeps_trans (dropChecks_attn c q _)
        (attnKeeps_trans (recordResult_attn c _ _) (closeIfDrained_attn _ _)))

theorem modResult_attn (c : W32) (q : Nat) (f : Result → Result) (d : Dev) : attnKeeps d (modResult c q f d) := fun _ k => k

theorem concludeResult_attn (c : W32) (q : Nat) (d : Dev) : attnKeeps d (concludeResult c q d) :=
  attnKeeps_trans (foldl_attn _ (fun _ _ => attnKeeps_trans (modResult_attn _ _ _ _) (issueVerdict_attn _ _ _)) _ d)
    (issueVerdict_attn _ _ _)

theorem settle_attn (c : W32) (q : Nat) (d : Dev) : attnKeeps d (settle c q d) := by
  have m : ∀ (f : Result → Result) (e : Dev), attnKeeps e (concludeResult c q (modResult c q f e)) := fun f e =>
    attnKeeps_trans (modResult_attn c q f e) (concludeResult_attn c q _)
  unfold settle
  split
  · exact fun _ k => k
  · split
    · exact fun _ k => k
    · rename_i r0 _ _
      refine attnKeeps_trans (modResult_attn c q (fun _ => dueWindows d r0) d) ?_
      dsimp only
      split
      · exact m _ _
      · split
        · exact concludeResult_attn _ _ _
        · split
          · split
            · split
              · exact m _ _
              · exact concludeResult_attn _ _ _
            · exact concludeResult_attn _ _ _
          · exact fun _ k => k

theorem expireAll_attn (d : Dev) : attnKeeps d (expireAll d) :=
  foldl_attn _ (fun _ _ => foldl_attn _ (fun _ _ => settle_attn _ _ _) _ _) _ d

theorem recordWithheld_attn (d : Dev) : attnKeeps d (recordWithheld d) :=
  foldl_attn _ (fun _ _ => foldl_attn _ (fun _ _ => issueVerdict_attn _ _ _) _ _) _ d

/-! ### What stays, field by field -/

theorem onlyVerdicts.front {d e : Dev} (h : onlyVerdicts d e) : e.front = d.front := by rw [h]
theorem onlyVerdicts.sessions {d e : Dev} (h : onlyVerdicts d e) : e.sessions = d.sessions := by rw [h]
theorem onlyVerdicts.bonnet {d e : Dev} (h : onlyVerdicts d e) : e.bonnet = d.bonnet := by rw [h]
theorem onlyVerdicts.plans {d e : Dev} (h : onlyVerdicts d e) : e.plans = d.plans := by rw [h]
theorem onlyVerdicts.ctxOrder {d e : Dev} (h : onlyVerdicts d e) : e.ctxOrder = d.ctxOrder := by rw [h]
theorem onlyVerdicts.slots {d e : Dev} (h : onlyVerdicts d e) : e.slots = d.slots := by rw [h]
theorem onlyVerdicts.streams {d e : Dev} (h : onlyVerdicts d e) : e.streams = d.streams := by rw [h]
theorem onlyVerdicts.cores {d e : Dev} (h : onlyVerdicts d e) : e.cores = d.cores := by rw [h]
theorem onlyVerdicts.cal {d e : Dev} (h : onlyVerdicts d e) : e.cal = d.cal := by rw [h]
theorem onlyVerdicts.watch {d e : Dev} (h : onlyVerdicts d e) : e.watch = d.watch := by rw [h]
theorem onlyVerdicts.gnt {d e : Dev} (h : onlyVerdicts d e) : e.gnt = d.gnt := by rw [h]
theorem onlyVerdicts.geyser {d e : Dev} (h : onlyVerdicts d e) : e.geyser = d.geyser := by rw [h]
theorem onlyVerdicts.pace {d e : Dev} (h : onlyVerdicts d e) : e.pace = d.pace := by rw [h]
theorem onlyVerdicts.start {d e : Dev} (h : onlyVerdicts d e) : e.start = d.start := by rw [h]
theorem onlyVerdicts.board {d e : Dev} (h : onlyVerdicts d e) : e.board = d.board := by rw [h]
theorem onlyVerdicts.free {d e : Dev} (h : onlyVerdicts d e) : e.free = d.free := by rw [h]
theorem onlyVerdicts.sched_parts {d e : Dev} (h : onlyVerdicts d e) : e.sched.parts = d.sched.parts := by rw [h]
theorem onlyVerdicts.sched_tables {d e : Dev} (h : onlyVerdicts d e) : e.sched.tables = d.sched.tables := by rw [h]
theorem onlyVerdicts.sched_commits {d e : Dev} (h : onlyVerdicts d e) : e.sched.commits = d.sched.commits := by rw [h]
theorem onlyVerdicts.sched_hbm {d e : Dev} (h : onlyVerdicts d e) : e.sched.hbm = d.sched.hbm := by rw [h]
theorem onlyVerdicts.sched_mesh {d e : Dev} (h : onlyVerdicts d e) : e.sched.mesh = d.sched.mesh := by rw [h]
theorem onlyVerdicts.sched_golden {d e : Dev} (h : onlyVerdicts d e) : e.sched.golden = d.sched.golden := by rw [h]
theorem onlyVerdicts.sched_runs {d e : Dev} (h : onlyVerdicts d e) : e.sched.runs = d.sched.runs := by rw [h]
theorem onlyVerdicts.sched_withdrawn {d e : Dev} (h : onlyVerdicts d e) : e.sched.withdrawn = d.sched.withdrawn := by rw [h]
theorem onlyVerdicts.sched_readmit {d e : Dev} (h : onlyVerdicts d e) : e.sched.readmit = d.sched.readmit := by rw [h]
theorem onlyVerdicts.sched_requests {d e : Dev} (h : onlyVerdicts d e) : e.sched.requests = d.sched.requests := by rw [h]
theorem onlyVerdicts.mesh {d e : Dev} (h : onlyVerdicts d e) : e.mesh = d.mesh := by rw [h]
theorem onlyVerdicts.hwSets {d e : Dev} (h : onlyVerdicts d e) : e.hwSets = d.hwSets := by rw [h]
theorem onlyVerdicts.hwAt {d e : Dev} (h : onlyVerdicts d e) : e.hwAt = d.hwAt := by rw [h]
theorem onlyVerdicts.memctl_stops {d e : Dev} (h : onlyVerdicts d e) : e.memctl.stops = d.memctl.stops := by rw [h]
theorem onlyVerdicts.sched_deferred {d e : Dev} (h : onlyVerdicts d e) : e.sched.deferred = d.sched.deferred := by rw [h]

end Sys2Proof.Machine
end

