-- ==== Sys2Proof/Laws/Reactions.lean ====
section
/-! SUPPORT. What the reactions of a severe source can change, once per shared operation of Machine/Reactions.lean. -/

namespace Sys2Proof.Machine

open Sys2Proof

set_option Elab.async false

theorem onlyReactions_refl (d : Dev) : onlyReactions d d := rfl

theorem onlyReactions_trans {a b c : Dev} (h : onlyReactions a b) (k : onlyReactions b c) : onlyReactions a c := by
  unfold onlyReactions at *
  rw [k, h]

theorem onlyReactions_of_verdicts {a b : Dev} (h : onlyVerdicts a b) : onlyReactions a b := by
  unfold onlyReactions onlyVerdicts at *
  rw [h]

theorem foldl_reactions {α : Type} (f : Dev → α → Dev) (h : ∀ d a, onlyReactions d (f d a)) (l : List α) (d : Dev) :
    onlyReactions d (l.foldl f d) := by
  induction l generalizing d with
  | nil => exact onlyReactions_refl d
  | cons a l ih => exact onlyReactions_trans (h d a) (ih _)

theorem foldr_reactions {α : Type} (f : α → Dev → Dev) (h : ∀ d a, onlyReactions d (f a d)) (l : List α) (d : Dev) :
    onlyReactions d (l.foldr f d) := by
  induction l with
  | nil => exact onlyReactions_refl d
  | cons a l ih => exact onlyReactions_trans ih (h _ a)

theorem assertErrN_reactions (d : Dev) : onlyReactions d (assertErrN d) := rfl

theorem forceSafe_reactions (d : Dev) : onlyReactions d (forceSafe d) := rfl

theorem requeueFront_reactions (r : Run_) (d : Dev) : onlyReactions d (requeueFront r d) := by
  unfold requeueFront
  split <;> exact rfl

theorem clearCore_reactions (n : Nat) (d : Dev) : onlyReactions d (clearCore n d) := rfl

theorem wipeCore_reactions (n : Nat) (d : Dev) : onlyReactions d (wipeCore n d) := rfl

theorem stopRunsOn_reactions (n : Nat) (d : Dev) : onlyReactions d (stopRunsOn n d) :=
  onlyReactions_trans (b := modSched (fun s => { s with runs := s.runs.filter fun r => !r.cores.contains n }) d) (by exact rfl)
    (foldr_reactions _ (fun _ _ => onlyReactions_trans (foldl_reactions _ (fun _ _ => wipeCore_reactions _ _) _ _)
      (requeueFront_reactions _ _)) _ _)

theorem abortOne_reactions (o : Nat) (c : Change) (d : Dev) : onlyReactions d (abortOne o c d) := by
  unfold abortOne
  split
  · simp only
    split <;> exact rfl
  · exact onlyReactions_refl d

theorem abortChange_reactions (o : Nat) (d : Dev) : onlyReactions d (abortChange o d) :=
  foldl_reactions _ (fun _ _ => abortOne_reactions _ _ _) _ d

theorem chipFailed_reactions (d : Dev) : onlyReactions d (chipFailed d) := by
  unfold chipFailed
  split
  · exact onlyReactions_refl d
  · have h := onlyReactions_trans (onlyReactions_of_verdicts (onlyVerdicts_trans (expireAll_verdicts d) (withholdAll_verdicts _)))
      (onlyReactions_trans (abortChange_reactions 3 _) (forceSafe_reactions _))
    simp only
    split
    · exact onlyReactions_trans h rfl
    · exact onlyReactions_trans h (onlyReactions_trans (onlyReactions_of_verdicts (recordWithheld_verdicts _)) rfl)

theorem restartAttn_reactions (a b c : Nat) (d : Dev) : onlyReactions d (restartAttn a b c d) := rfl

theorem latchSafe_reactions (chip : Bool) (n : Nat) (d : Dev) : onlyReactions d (latchSafe chip n d) := rfl

theorem toSafeState_reactions (d : Dev) : onlyReactions d (toSafeState d) := by
  have h := onlyReactions_trans (onlyReactions_of_verdicts (withholdAll_verdicts d)) (abortChange_reactions 3 _)
  unfold toSafeState
  simp only
  split
  · exact h
  · exact onlyReactions_trans h rfl

theorem stopAll_reactions (d : Dev) : onlyReactions d (stopAll d) := rfl

theorem enterSafe_reactions (chip : Bool) (n : Nat) (d : Dev) : onlyReactions d (enterSafe chip n d) := by
  have l := onlyReactions_trans (onlyReactions_of_verdicts (expireAll_verdicts d)) (latchSafe_reactions chip n _)
  have h := onlyReactions_trans l (toSafeState_reactions _)
  unfold enterSafe
  simp only
  split
  · exact l
  · split
    · exact onlyReactions_trans h (stopAll_reactions _)
    · split
      · exact onlyReactions_trans h (restartAttn_reactions _ _ _ _)
      · exact h

theorem fenceCore_reactions (n : Nat) (d : Dev) : onlyReactions d (fenceCore n d) := by
  unfold fenceCore
  split
  · exact onlyReactions_refl d
  · have h : onlyReactions d (modCore n (fun c => { c with fenced := true, prepared := false, window := none })
        (stopRunsOn n (clearCore n d))) :=
      onlyReactions_trans (clearCore_reactions n d) (onlyReactions_trans (stopRunsOn_reactions n _) rfl)
    simp only
    split
    · exact onlyReactions_trans h (chipFailed_reactions _)
    · exact onlyReactions_trans h rfl

theorem unitReset_reactions (n ch : Nat) (d : Dev) : onlyReactions d (unitReset n ch d) := by
  unfold unitReset
  split
  · exact onlyReactions_refl d
  · split
    · exact fenceCore_reactions _ _
    · split
      · exact rfl
      · exact onlyReactions_refl d

theorem sourceAttn_reactions (n ch : Nat) (d : Dev) : onlyReactions d (sourceAttn n ch d) := rfl

theorem applyMask_reactions (m n ch : Nat) (d : Dev) : onlyReactions d (applyMask m n ch d) := by
  have h1 : onlyReactions d (if m % 2 = 1 then assertErrN d else d) := by split <;> exact rfl
  have h2 : ∀ e : Dev, onlyReactions e (if m / 4 % 2 = 1 then unitReset n ch e else e) := fun e => by
    split
    · exact unitReset_reactions _ _ _
    · exact onlyReactions_refl e
  have h3 : ∀ e : Dev, onlyReactions e (if m / 8 % 2 == 1 then enterSafe true n e else
      if m / 2 % 2 == 1 then enterSafe false n e else e) := fun e => by
    split
    · exact enterSafe_reactions _ _ _
    · split
      · exact enterSafe_reactions _ _ _
      · exact onlyReactions_refl e
  have h4 : ∀ (b : Bool) (e : Dev), onlyReactions e (if b = true then sourceAttn n ch e else e) := fun b e => by
    cases b
    · exact onlyReactions_refl e
    · exact sourceAttn_reactions _ _ _
  exact onlyReactions_trans h1 (onlyReactions_trans (h2 _) (onlyReactions_trans (h3 _) (h4 _ _)))

theorem stewardAction_reactions (n : Nat) (d : Dev) : onlyReactions d (stewardAction n d) := by
  unfold stewardAction
  split
  · split
    · exact onlyReactions_refl d
    · exact chipFailed_reactions d
  · exact onlyReactions_refl d

/-! ### Sources -/

theorem srcOf_of_cal {d e : Dev} (h : e.cal.src = d.cal.src) (n : Nat) : srcOf e n = srcOf d n := by
  unfold srcOf
  rw [h]

/-- Reactions leave every source's own registers. -/
theorem onlyReactions_srcOf {d e : Dev} (h : onlyReactions d e) (n : Nat) : srcOf e n = srcOf d n :=
  srcOf_of_cal (by rw [h]) n

theorem onlyVerdicts_cal {d e : Dev} (h : onlyVerdicts d e) : e.cal = d.cal := by rw [h]

theorem onlyVerdicts_gnt {d e : Dev} (h : onlyVerdicts d e) : e.gnt = d.gnt := by rw [h]

theorem srcOf_setSrc (n : Nat) (x : Source) (d : Dev) : srcOf (setSrc n x d) n = x := by
  simp [srcOf, setSrc, modCal, kfind?_kput_self]

theorem srcOf_setSrc_ne (x : Source) (d : Dev) {k n : Nat} (h : k ≠ n) : srcOf (setSrc n x d) k = srcOf d k := by
  simp [srcOf, setSrc, modCal, kfind?_kput_ne _ _ h]

theorem srcOf_modSrc (n : Nat) (f : Source → Source) (d : Dev) : srcOf (modSrc n f d) n = f (srcOf d n) :=
  srcOf_setSrc _ _ _

theorem srcOf_modSrc_ne (f : Source → Source) (d : Dev) {k n : Nat} (h : k ≠ n) : srcOf (modSrc n f d) k = srcOf d k :=
  srcOf_setSrc_ne _ _ h

/-! ### The latches of Caldera, and FORCED, through the reactions -/

theorem abortOne_cal (o : Nat) (c : Change) (d : Dev) : (abortOne o c d).cal = d.cal ∧ (abortOne o c d).gnt = d.gnt := by
  unfold abortOne
  split
  · simp only
    split <;> exact ⟨rfl, rfl⟩
  · exact ⟨rfl, rfl⟩

theorem abortChange_cal (o : Nat) (d : Dev) : (abortChange o d).cal = d.cal ∧ (abortChange o d).gnt = d.gnt := by
  unfold abortChange
  generalize d.cores.changes = l
  induction l generalizing d with
  | nil => exact ⟨rfl, rfl⟩
  | cons c l ih => exact ⟨(ih _).1.trans (abortOne_cal o c d).1, (ih _).2.trans (abortOne_cal o c d).2⟩

theorem chipFailed_cal (d : Dev) : (chipFailed d).cal = d.cal := by
  unfold chipFailed
  split
  · rfl
  · have h : (forceSafe (abortChange 3 (withholdAll (expireAll d)))).cal = d.cal :=
      (abortChange_cal 3 (withholdAll (expireAll d))).1.trans
        (onlyVerdicts_cal (onlyVerdicts_trans (expireAll_verdicts d) (withholdAll_verdicts _)))
    simp only
    split
    · exact h
    · exact (onlyVerdicts_cal (recordWithheld_verdicts _)).trans h

theorem chipFailed_forced (d : Dev) (h : d.gnt.forced = true) : (chipFailed d).gnt.forced = true := by
  unfold chipFailed
  split
  · exact h
  · simp only
    split
    · rfl
    · show (recordWithheld _).gnt.forced = true
      rw [onlyVerdicts_gnt (recordWithheld_verdicts _)]
      rfl

theorem requeueFront_cal (r : Run_) (d : Dev) : (requeueFront r d).cal = d.cal ∧ (requeueFront r d).gnt = d.gnt := by
  unfold requeueFront
  split <;> exact ⟨rfl, rfl⟩

theorem foldl_wipe_cal (l : List Nat) (d : Dev) :
    (l.foldl (fun d m => wipeCore m d) d).cal = d.cal ∧ (l.foldl (fun d m => wipeCore m d) d).gnt = d.gnt := by
  induction l generalizing d with
  | nil => exact ⟨rfl, rfl⟩
  | cons a l ih => exact ih (wipeCore a d)

theorem stopRunsOn_cal (n : Nat) (d : Dev) : (stopRunsOn n d).cal = d.cal ∧ (stopRunsOn n d).gnt = d.gnt := by
  have h : ∀ (l : List Run_) (e : Dev),
      (l.foldr (fun r d => requeueFront r (r.cores.foldl (fun d m => wipeCore m d) d)) e).cal = e.cal ∧
      (l.foldr (fun r d => requeueFront r (r.cores.foldl (fun d m => wipeCore m d) d)) e).gnt = e.gnt := fun l e => by
    induction l with
    | nil => exact ⟨rfl, rfl⟩
    | cons r l ih =>
      exact ⟨(requeueFront_cal r _).1.trans ((foldl_wipe_cal _ _).1.trans ih.1),
        (requeueFront_cal r _).2.trans ((foldl_wipe_cal _ _).2.trans ih.2)⟩
  exact h _ _

theorem fenceCore_cal (n : Nat) (d : Dev) : (fenceCore n d).cal = d.cal := by
  unfold fenceCore
  split
  · rfl
  · have h : (modCore n (fun c => { c with fenced := true, prepared := false, window := none })
        (stopRunsOn n (clearCore n d))).cal = d.cal := (stopRunsOn_cal n (clearCore n d)).1
    simp only
    split
    · exact (chipFailed_cal _).trans h
    · exact h

theorem fenceCore_forced (n : Nat) (d : Dev) (h : d.gnt.forced = true) : (fenceCore n d).gnt.forced = true := by
  unfold fenceCore
  split
  · exact h
  · have k : (modCore n (fun c => { c with fenced := true, prepared := false, window := none })
        (stopRunsOn n (clearCore n d))).gnt.forced = true := by
      show (stopRunsOn n (clearCore n d)).gnt.forced = true
      rw [(stopRunsOn_cal n (clearCore n d)).2]; exact h
    simp only
    split
    · exact chipFailed_forced _ k
    · exact k

theorem unitReset_cal (n ch : Nat) (d : Dev) : (unitReset n ch d).cal = d.cal := by
  unfold unitReset
  split
  · rfl
  · split
    · exact fenceCore_cal _ _
    · split <;> rfl

theorem toSafeState_cal (d : Dev) : (toSafeState d).cal = d.cal ∧ (toSafeState d).gnt = d.gnt := by
  have h := abortChange_cal 3 (withholdAll d)
  unfold toSafeState
  simp only
  split <;> exact h

theorem toSafeState_state (d : Dev) :
    (toSafeState d).front.state = .safeState ∨ (toSafeState d).front.state = .chipFailed := by
  unfold toSafeState
  simp only
  split
  · exact .inr ‹_›
  · exact .inl rfl

/-- Everything that a safe reaction leaves in Caldera's latches, and FORCED. -/
theorem enterSafe_latches (chip : Bool) (n : Nat) (d : Dev) :
    (enterSafe chip n d).cal = (latchSafe chip n (expireAll d)).cal ∧ (enterSafe chip n d).gnt = (forceSafe d).gnt := by
  have e := onlyVerdicts_gnt (expireAll_verdicts d)
  unfold enterSafe
  generalize expireAll d = x at *
  have g : (latchSafe chip n x).gnt = (forceSafe d).gnt := by
    simp only [latchSafe, forceSafe, modGnt_gnt, modCal_gnt, e]
  have h := toSafeState_cal (latchSafe chip n x)
  simp only
  split
  · exact ⟨rfl, g⟩
  · split
    · exact ⟨h.1, h.2.trans g⟩
    · split <;> exact ⟨h.1, h.2.trans g⟩

theorem enterSafe_state (chip : Bool) (n : Nat) (d : Dev) (h : d.start.wireTest = false) :
    (enterSafe chip n d).front.state = .safeState ∨ (enterSafe chip n d).front.state = .chipFailed := by
  have w : (expireAll d).start.wireTest = false := by rw [(expireAll_verdicts d).start]; exact h
  unfold enterSafe
  generalize expireAll d = x at *
  have k := toSafeState_state (latchSafe chip n x)
  simp only [w, Bool.false_eq_true, if_false]
  split
  · exact k
  · split <;> exact k

/-- A safe reaction leaves the latches of ERR_N. -/
theorem enterSafe_errN (chip : Bool) (n : Nat) (d : Dev) :
    (enterSafe chip n d).cal.errN = d.cal.errN ∧ (enterSafe chip n d).cal.assertedAt = d.cal.assertedAt := by
  have e := onlyVerdicts_cal (expireAll_verdicts d)
  rw [(enterSafe_latches chip n d).1]
  generalize expireAll d = x at *
  rw [← e]
  exact ⟨rfl, rfl⟩

/-! ### Processors through the reactions that stop none -/

theorem onlyVerdicts_proc {d e : Dev} (h : onlyVerdicts d e) : e.cores.proc = d.cores.proc := by rw [h]

theorem abortChange_proc (o : Nat) (d : Dev) : (abortChange o d).cores.proc = d.cores.proc := by
  have h : ∀ (c : Change) (d : Dev), (abortOne o c d).cores.proc = d.cores.proc := fun c d => by
    unfold abortOne
    split
    · simp only
      split <;> rfl
    · rfl
  unfold abortChange
  generalize d.cores.changes = l
  induction l generalizing d with
  | nil => rfl
  | cons c l ih => exact (ih _).trans (h c d)

theorem chipFailed_proc (d : Dev) : (chipFailed d).cores.proc = d.cores.proc := by
  have h : (forceSafe (abortChange 3 (withholdAll (expireAll d)))).cores.proc = d.cores.proc :=
    (abortChange_proc 3 _).trans (onlyVerdicts_proc (onlyVerdicts_trans (expireAll_verdicts d) (withholdAll_verdicts _)))
  unfold chipFailed
  split
  · rfl
  · simp only
    split
    · exact h
    · exact (onlyVerdicts_proc (recordWithheld_verdicts _)).trans h

theorem stopRunsOn_proc (n : Nat) (d : Dev) : (stopRunsOn n d).cores.proc = d.cores.proc := by
  have w : ∀ (l : List Nat) (e : Dev), (l.foldl (fun d m => wipeCore m d) e).cores.proc = e.cores.proc := fun l e => by
    induction l generalizing e with
    | nil => rfl
    | cons a l ih => exact ih (wipeCore a e)
  have r : ∀ (r : Run_) (e : Dev), (requeueFront r e).cores.proc = e.cores.proc := fun r e => by
    unfold requeueFront
    split <;> rfl
  have h : ∀ (l : List Run_) (e : Dev),
      (l.foldr (fun r d => requeueFront r (r.cores.foldl (fun d m => wipeCore m d) d)) e).cores.proc = e.cores.proc := fun l e => by
    induction l with
    | nil => rfl
    | cons a l ih => exact (r a _).trans ((w _ _).trans ih)
  exact h _ _

theorem unitReset_proc (n ch : Nat) (d : Dev) : (unitReset n ch d).cores.proc = d.cores.proc := by
  have f : ∀ m, (fenceCore m d).cores.proc = d.cores.proc := fun m => by
    unfold fenceCore
    split
    · rfl
    · have h : (modCore m (fun c => { c with fenced := true, prepared := false, window := none })
          (stopRunsOn m (clearCore m d))).cores.proc = d.cores.proc := stopRunsOn_proc m (clearCore m d)
      simp only
      split
      · exact (chipFailed_proc _).trans h
      · exact h
  unfold unitReset
  split
  · rfl
  · split
    · exact f _
    · split <;> rfl

theorem enterSafe_proc (n : Nat) (d : Dev) : (enterSafe false n d).cores.proc = d.cores.proc := by
  have e := onlyVerdicts_proc (expireAll_verdicts d)
  unfold enterSafe
  generalize expireAll d = x at *
  have l : (latchSafe false n x).cores.proc = d.cores.proc := e
  have h : (toSafeState (latchSafe false n x)).cores.proc = d.cores.proc := by
    unfold toSafeState
    simp only
    split
    · exact (abortChange_proc 3 _).trans l
    · exact (abortChange_proc 3 _).trans l
  simp only [Bool.false_eq_true, if_false]
  split
  · exact l
  · split <;> exact h

/-- Everything a mask leaves in Caldera's latches. -/
theorem applyMask_errN (m n ch : Nat) (d : Dev) :
    (m % 2 = 1 → (applyMask m n ch d).cal.errN = true ∧ (applyMask m n ch d).cal.assertedAt = d.geyser.now) ∧
    (m % 2 = 0 → (applyMask m n ch d).cal.errN = d.cal.errN) := by
  have h1 : ∀ e : Dev, (if m / 4 % 2 = 1 then unitReset n ch e else e).cal = e.cal := fun e => by
    split
    · exact unitReset_cal _ _ _
    · rfl
  have h2 : ∀ e : Dev, (if m / 8 % 2 == 1 then enterSafe true n e else if m / 2 % 2 == 1 then enterSafe false n e else e).cal.errN
      = e.cal.errN ∧ (if m / 8 % 2 == 1 then enterSafe true n e else if m / 2 % 2 == 1 then enterSafe false n e else e).cal.assertedAt
      = e.cal.assertedAt := fun e => by
    split
    · exact enterSafe_errN true n e
    · split
      · exact enterSafe_errN false n e
      · exact ⟨rfl, rfl⟩
  have h3 : ∀ (b : Bool) (e : Dev), (if b then sourceAttn n ch e else e).cal = e.cal := fun b e => by cases b <;> rfl
  unfold applyMask
  simp only
  rw [h3, (h2 _).1, (h2 _).2, h1]
  constructor
  · intro h
    rw [if_pos h]
    exact ⟨rfl, rfl⟩
  · intro h
    rw [if_neg (by omega)]

theorem stewardAction_cal (n : Nat) (d : Dev) : (stewardAction n d).cal = d.cal := by
  unfold stewardAction
  split
  · split
    · rfl
    · exact chipFailed_cal d
  · rfl

/-! ### One event -/

/-- Everything one event on a source can do (R406, R407, R414). -/
theorem signalCh_eq (n ch : Nat) (d : Dev) (u : (srcOf d n).mute = false) (h : (srcOf d n).force = false) :
    signalCh n ch d = if (countEvent d.geyser.now (srcOf d n)).2 = true
      then severeNow n ch (hwSet (stickyReg n) (2 ^ (n % 32)) (setSrc n (countEvent d.geyser.now (srcOf d n)).1 d))
      else hwSet (stickyReg n) (2 ^ (n % 32)) (setSrc n (countEvent d.geyser.now (srcOf d n)).1 d) := by
  unfold signalCh
  simp only [h, u, Bool.false_eq_true, if_false]

theorem signalCh_held (n ch : Nat) (d : Dev) (u : (srcOf d n).mute = false) (h : (srcOf d n).force = true) :
    signalCh n ch d = modSrc n (fun x => { x with rawSeen := true, held := (x.held ++ [ch]).take 15 }) d := by
  unfold signalCh
  simp only
  rw [if_neg (by rw [u]; exact Bool.false_ne_true), if_pos h]
  rfl

/-- Everything that an event does on a wire that cannot deliver it: its source's registers, and the set noted. -/
theorem keepPending_frame (n ch : Nat) (d : Dev) : keepPending n ch d = { d with
    hwSets := (keepPending n ch d).hwSets
    hwAt := (keepPending n ch d).hwAt
    cal := { d.cal with src := (keepPending n ch d).cal.src } } := by
  unfold keepPending
  split <;> rfl

theorem severeNow_reactions (n ch : Nat) (d : Dev) :
    onlyReactions (hwSet (srcReg n) (2 ^ 31) (modSrc n (fun x => { x with severe := true }) d)) (severeNow n ch d) :=
  onlyReactions_trans (applyMask_reactions _ _ _ _) (stewardAction_reactions _ _)

/-! ### What stays, field by field -/

theorem onlyReactions.sessions {d e : Dev} (h : onlyReactions d e) : e.sessions = d.sessions := by rw [h]
theorem onlyReactions.bonnet {d e : Dev} (h : onlyReactions d e) : e.bonnet = d.bonnet := by rw [h]
theorem onlyReactions.ctxOrder {d e : Dev} (h : onlyReactions d e) : e.ctxOrder = d.ctxOrder := by rw [h]
theorem onlyReactions.slots {d e : Dev} (h : onlyReactions d e) : e.slots = d.slots := by rw [h]
theorem onlyReactions.streams {d e : Dev} (h : onlyReactions d e) : e.streams = d.streams := by rw [h]
theorem onlyReactions.memctl_stops {d e : Dev} (h : onlyReactions d e) : e.memctl.stops = d.memctl.stops := by rw [h]
theorem onlyReactions.mesh {d e : Dev} (h : onlyReactions d e) : e.mesh = d.mesh := by rw [h]
theorem onlyReactions.hwSets {d e : Dev} (h : onlyReactions d e) : e.hwSets = d.hwSets := by rw [h]
theorem onlyReactions.hwAt {d e : Dev} (h : onlyReactions d e) : e.hwAt = d.hwAt := by rw [h]
theorem onlyReactions.geyser {d e : Dev} (h : onlyReactions d e) : e.geyser = d.geyser := by rw [h]
theorem onlyReactions.pace {d e : Dev} (h : onlyReactions d e) : e.pace = d.pace := by rw [h]
theorem onlyReactions.start {d e : Dev} (h : onlyReactions d e) : e.start = d.start := by rw [h]
theorem onlyReactions.board {d e : Dev} (h : onlyReactions d e) : e.board = d.board := by rw [h]
theorem onlyReactions.free {d e : Dev} (h : onlyReactions d e) : e.free = d.free := by rw [h]
theorem onlyReactions.cal_src {d e : Dev} (h : onlyReactions d e) : e.cal.src = d.cal.src := by rw [h]
theorem onlyReactions.watch_dwd {d e : Dev} (h : onlyReactions d e) : e.watch.dwd = d.watch.dwd := by rw [h]
theorem onlyReactions.watch_monitors {d e : Dev} (h : onlyReactions d e) : e.watch.monitors = d.watch.monitors := by rw [h]
theorem onlyReactions.watch_crash {d e : Dev} (h : onlyReactions d e) : e.watch.crash = d.watch.crash := by rw [h]
theorem onlyReactions.front_warmCount {d e : Dev} (h : onlyReactions d e) : e.front.warmCount = d.front.warmCount := by rw [h]
theorem onlyReactions.front_mboxReply {d e : Dev} (h : onlyReactions d e) : e.front.mboxReply = d.front.mboxReply := by rw [h]

/-! ### One event, its source's registers -/

/-- A new window opens at the event. -/
def opensAt (e : Time) (x : Source) : Bool := x.count == 0 || decide (x.opens + us x.w ≤ e)

/-- COUNT with the event. -/
def countAt (e : Time) (x : Source) : Nat := min ((if opensAt e x then 0 else x.count) + 1) 255

/-- The counting of R406 in one equation. -/
theorem countEvent_eq (e : Time) (x : Source) :
    countEvent e x = ({ x with
        sticky := true
        opens := if opensAt e x then e else x.opens
        count := if x.cls ≠ 1 ∧ x.n ≤ countAt e x then 0 else countAt e x },
      decide (x.cls = 1 ∨ x.n ≤ countAt e x)) := by
  unfold countEvent
  have ho : (x.count == 0 || decide (e ≥ x.opens + us x.w)) = opensAt e x := rfl
  simp only [ho]
  rw [← countAt]
  by_cases h : x.cls = 1
  · simp [h]
  · by_cases k : x.n ≤ countAt e x
    · simp [h, k]
    · simp [h, k]

/-- One event leaves Geyser alone. -/
theorem signal_geyser (n : Nat) (d : Dev) : (signal n d).geyser = d.geyser := by
  unfold signal signalCh
  simp only
  split
  · rw [keepPending_frame]
  · split
    · rfl
    · split
      · rw [(severeNow_reactions _ _ _).geyser]; rfl
      · rfl

theorem srcOf_hwSet (r : Reg) (b : Nat) (d : Dev) (k : Nat) : srcOf (hwSet r b d) k = srcOf d k := rfl

/-- The registers of the source after its event: counted, and SEVERE when it is severe. -/
theorem signalCh_srcOf (n ch : Nat) (d : Dev) (u : (srcOf d n).mute = false) (h : (srcOf d n).force = false) :
    srcOf (signalCh n ch d) n = { (countEvent d.geyser.now (srcOf d n)).1 with
      severe := (srcOf d n).severe || (countEvent d.geyser.now (srcOf d n)).2 } := by
  rw [signalCh_eq n ch d u h]
  split
  · rename_i k
    rw [onlyReactions_srcOf (severeNow_reactions _ _ _), srcOf_hwSet, srcOf_modSrc, srcOf_hwSet, srcOf_setSrc]
    simp [k]
  · rename_i k
    rw [srcOf_hwSet, srcOf_setSrc, countEvent_eq]
    rw [countEvent_eq] at k
    simp only [Bool.not_eq_true] at k
    simp [k]

/-- No other source's registers change with an event. -/
theorem signalCh_srcOf_ne (n ch : Nat) (d : Dev) {k : Nat} (h : k ≠ n) : srcOf (signalCh n ch d) k = srcOf d k := by
  unfold signalCh
  simp only
  split
  · unfold keepPending
    split
    · exact srcOf_modSrc_ne _ _ h
    · rw [srcOf_hwSet]; exact srcOf_modSrc_ne _ _ h
  · split
    · exact srcOf_setSrc_ne _ _ h
    · split
      · rw [onlyReactions_srcOf (severeNow_reactions _ _ _), srcOf_hwSet, srcOf_modSrc_ne _ _ h]
        exact srcOf_setSrc_ne _ _ h
      · exact srcOf_setSrc_ne _ _ h

/-- Everything one event can change: its source's registers with the sets noted, and what reactions change. -/
theorem signalCh_reactions (n ch : Nat) (d : Dev) :
    onlyReactions { d with
      hwSets := (signalCh n ch d).hwSets
      hwAt := (signalCh n ch d).hwAt
      cal := { d.cal with src := (signalCh n ch d).cal.src } } (signalCh n ch d) := by
  unfold signalCh
  simp only
  split
  · rw [← keepPending_frame]
    exact onlyReactions_refl _
  · split
    · exact rfl
    · split
      · have h := severeNow_reactions n ch (hwSet (stickyReg n) (2 ^ (n % 32)) (setSrc n (countEvent d.geyser.now (srcOf d n)).1 d))
        rw [h.cal_src, h.hwSets, h.hwAt]
        exact h
      · exact rfl

/-! ### What a severe instant does (Table 16.5) -/

theorem abortChange_attn (o : Nat) (d : Dev) : (abortChange o d).attn = d.attn := by
  have h : ∀ (c : Change) (d : Dev), (abortOne o c d).attn = d.attn := fun c d => by
    unfold abortOne
    split
    · simp only
      split <;> rfl
    · rfl
  unfold abortChange
  generalize d.cores.changes = l
  induction l generalizing d with
  | nil => rfl
  | cons c l ih => exact (ih _).trans (h c d)

theorem chipFailed_attn (d : Dev) : attnKeeps d (chipFailed d) := by
  unfold chipFailed
  split
  · exact fun _ k => k
  · have h : attnKeeps d (forceSafe (abortChange 3 (withholdAll (expireAll d)))) :=
      attnKeeps_trans (expireAll_attn d) (attnKeeps_of_eq (abortChange_attn 3 (withholdAll (expireAll d))))
    simp only
    split
    · exact h
    · exact attnKeeps_trans h (recordWithheld_attn _)

theorem chipFailed_state (d : Dev) : (chipFailed d).front.state = .chipFailed := by
  unfold chipFailed
  split
  · assumption
  · rfl

theorem applyMask_chipSafe (m n ch : Nat) (d : Dev) (h : m / 8 % 2 = 1) :
    (applyMask m n ch d).cal.chipSafe = true ∧ (applyMask m n ch d).gnt.forced = true := by
  simp [applyMask, h, enterSafe_latches, latchSafe, forceSafe, modCal, modGnt]

theorem applyMask_safeOut (m n ch : Nat) (d : Dev) (h : m / 2 % 2 = 1) (k : m / 8 % 2 = 0) :
    (applyMask m n ch d).cal.safeOut = true ∧ (applyMask m n ch d).gnt.forced = true := by
  have h3 : ∀ (b : Bool) (e : Dev), (if b then sourceAttn n ch e else e).cal = e.cal ∧
    (if b then sourceAttn n ch e else e).gnt = e.gnt := fun b e => by cases b <;> exact ⟨rfl, rfl⟩
  unfold applyMask
  simp only
  rw [(h3 _ _).1, (h3 _ _).2]
  simp [h, k, enterSafe_latches, latchSafe, forceSafe, modCal, modGnt]

theorem applyMask_state (m n ch : Nat) (d : Dev) (h : m / 2 % 2 = 1 ∨ m / 8 % 2 = 1) (w : d.start.wireTest = false) :
    (applyMask m n ch d).front.state = .safeState ∨ (applyMask m n ch d).front.state = .chipFailed := by
  have h3 : ∀ (b : Bool) (e : Dev), (if b then sourceAttn n ch e else e).front = e.front := fun b e => by cases b <;> rfl
  have h1 : ∀ e : Dev, e.start.wireTest = false → (if m / 4 % 2 = 1 then unitReset n ch e else e).start.wireTest = false := fun e he => by
    split
    · rw [(unitReset_reactions n ch e).start]; exact he
    · exact he
  have h0 : (if m % 2 = 1 then assertErrN d else d).start.wireTest = false := by split <;> exact w
  unfold applyMask
  simp only
  rw [h3]
  by_cases k : m / 8 % 2 = 1
  · simp only [k, beq_self_eq_true, if_true]
    exact enterSafe_state _ _ _ (h1 _ h0)
  · have k2 : m / 2 % 2 = 1 := by omega
    have k3 : (m / 8 % 2 == 1) = false := by simpa using k
    simp only [k3, k2, beq_self_eq_true, if_true, Bool.false_eq_true, if_false]
    exact enterSafe_state _ _ _ (h1 _ h0)

theorem applyMask_attn (m n ch : Nat) (d : Dev) (h : m / 16 % 2 = 1) (k : m / 8 % 2 = 0) (p : procUp 1 d = true) :
    (kfind? (applyMask m n ch d).attn.pending 1).isSome = true := by
  have k3 : (m / 8 % 2 == 1) = false := by simp [k]
  have u : ∀ a b : Dev, b.cores.proc = a.cores.proc → procUp 1 a = true → procUp 1 b = true := fun a b e h => by
    unfold procUp procOf at *
    rw [e]; exact h
  have h1 : procUp 1 (if m % 2 = 1 then assertErrN d else d) = true := by split <;> exact p
  have h2 : ∀ e, procUp 1 e = true → procUp 1 (if m / 4 % 2 = 1 then unitReset n ch e else e) = true := fun e he => by
    split
    · exact u e _ (unitReset_proc n ch e) he
    · exact he
  have h3 : ∀ e, procUp 1 e = true → procUp 1 (if (m / 2 % 2 == 1) = true then enterSafe false n e else e) = true := fun e he => by
    split
    · exact u e _ (enterSafe_proc n e) he
    · exact he
  unfold applyMask
  simp only [k3, h, Bool.false_eq_true, if_false, Bool.not_false, Bool.and_true, decide_true, Bool.true_and]
  rw [if_pos (h3 _ (h2 _ h1))]
  simp only [sourceAttn, raiseAttn, kfind?_kput_self, Option.isSome_some]

theorem stewardAction_forced (n : Nat) (d : Dev) (h : d.gnt.forced = true) : (stewardAction n d).gnt.forced = true := by
  unfold stewardAction
  split
  · split
    · exact h
    · exact chipFailed_forced d h
  · exact h

theorem stewardAction_state (n : Nat) (d : Dev) (h : d.front.state = .safeState ∨ d.front.state = .chipFailed) :
    (stewardAction n d).front.state = .safeState ∨ (stewardAction n d).front.state = .chipFailed := by
  unfold stewardAction
  split
  · split
    · exact h
    · exact .inr (chipFailed_state d)
  · exact h

theorem stewardAction_attn (n : Nat) (d : Dev) : attnKeeps d (stewardAction n d) := by
  unfold stewardAction
  split
  · split
    · exact fun _ k => k
    · exact chipFailed_attn d
  · exact fun _ k => k

/-- Everything a severe instant with mask `m` is sure to do. -/
theorem severeNow_effect (n ch : Nat) (d : Dev) (m : Nat) (hm : (srcOf d n).mask = m) :
    (m % 2 = 1 → (severeNow n ch d).cal.errN = true ∧ (severeNow n ch d).cal.assertedAt = d.geyser.now) ∧
    (m % 2 = 0 → (severeNow n ch d).cal.errN = d.cal.errN) ∧
    (m / 2 % 2 = 1 → m / 8 % 2 = 0 → (severeNow n ch d).cal.safeOut = true) ∧
    (m / 8 % 2 = 1 → (severeNow n ch d).cal.chipSafe = true) ∧
    (m / 2 % 2 = 1 ∨ m / 8 % 2 = 1 → (severeNow n ch d).gnt.forced = true ∧ (d.start.wireTest = false →
      (severeNow n ch d).front.state = .safeState ∨ (severeNow n ch d).front.state = .chipFailed)) ∧
    (m / 16 % 2 = 1 → m / 8 % 2 = 0 → procUp 1 d = true → (kfind? (severeNow n ch d).attn.pending 1).isSome = true) := by
  have e : severeNow n ch d = stewardAction n (applyMask m n ch
      (hwSet (srcReg n) (2 ^ 31) (modSrc n (fun x => { x with severe := true }) d))) := by
    unfold severeNow
    simp only [srcOf_hwSet, srcOf_modSrc, hm]
  rw [e]
  rw [stewardAction_cal]
  refine ⟨(applyMask_errN m n ch _).1, (applyMask_errN m n ch _).2, fun a b => (applyMask_safeOut m n ch _ a b).1,
    fun a => (applyMask_chipSafe m n ch _ a).1, fun a => ⟨stewardAction_forced _ _ ?_, fun w => ?_⟩,
    fun a b p => stewardAction_attn _ _ 1 (applyMask_attn m n ch _ a b p)⟩
  · by_cases k : m / 8 % 2 = 1
    · exact (applyMask_chipSafe m n ch _ k).2
    · exact (applyMask_safeOut m n ch _ (by omega) (by omega)).2
  · exact stewardAction_state _ _ (applyMask_state m n ch _ a w)

/-! ### FORCED stays -/

theorem unitReset_forced (n ch : Nat) (d : Dev) (h : d.gnt.forced = true) : (unitReset n ch d).gnt.forced = true := by
  unfold unitReset
  split
  · exact h
  · split
    · exact fenceCore_forced _ _ h
    · split <;> exact h

theorem enterSafe_forced (chip : Bool) (n : Nat) (d : Dev) : (enterSafe chip n d).gnt.forced = true := by
  rw [(enterSafe_latches chip n d).2]
  rfl

theorem applyMask_forced (m n ch : Nat) (d : Dev) (h : d.gnt.forced = true) : (applyMask m n ch d).gnt.forced = true := by
  have h0 : (if m % 2 = 1 then assertErrN d else d).gnt.forced = true := by split <;> exact h
  have h1 : ∀ e : Dev, e.gnt.forced = true → (if m / 4 % 2 = 1 then unitReset n ch e else e).gnt.forced = true := fun e k => by
    split
    · exact unitReset_forced n ch e k
    · exact k
  have h2 : ∀ e : Dev, e.gnt.forced = true → (if m / 8 % 2 == 1 then enterSafe true n e else
      if m / 2 % 2 == 1 then enterSafe false n e else e).gnt.forced = true := fun e k => by
    split
    · exact enterSafe_forced true n e
    · split
      · exact enterSafe_forced false n e
      · exact k
  have h3 : ∀ (b : Bool) (e : Dev), (if b then sourceAttn n ch e else e).gnt = e.gnt := fun b e => by cases b <;> rfl
  unfold applyMask
  simp only
  rw [h3]
  exact h2 _ (h1 _ h0)

/-- An event never releases FORCED. -/
theorem signalCh_forced (n ch : Nat) (d : Dev) (h : d.gnt.forced = true) : (signalCh n ch d).gnt.forced = true := by
  unfold signalCh
  simp only
  split
  · rw [keepPending_frame]; exact h
  · split
    · exact h
    · split
      · exact stewardAction_forced n _ (applyMask_forced _ n ch _ h)
      · exact h

end Sys2Proof.Machine
end

