-- ==== Sys2Proof/WellFormed.lean ====
section
/-! DEFINITION. Well-formed commands: every operand is one that the interface it arrives by can carry. A field that software
writes may hold any value, since a wrong value is the device's to refuse; a well-formed command only has the lengths, the
numbers of units and the code of its own row. -/

namespace Sys2Proof

/-- An access of 1, 2, 4 or 8 bytes. -/
def accessSize (n : Nat) : Bool := n == 1 || n == 2 || n == 4 || n == 8

/-- A queue number has 32 bits (R301, Table 12.5). -/
def Path.wf : Path → Bool
  | .ring q => decide (q < 2 ^ 32)
  | .mailbox => true

/-- A packet holds 16 inline bytes and the payload that its length says (Table 12.7); a length below the header, or above
the longest packet, says none. -/
def Packet.wf (p : Packet) : Bool :=
  p.inl.length == 16 && p.payload.length == (if p.length.toNat ≤ 4096 then p.length.toNat - 64 else 0)

/-- A packet of a row has the row's opcode (Tables 13.2 to 13.12). -/
def Packet.wfFor (op : W16) (p : Packet) : Bool := p.opcode == op && p.wf

/-- What stands between a record's header and its trailer: the payload and the padding to whole 64-byte lines (R79). A shorter
list stands for zeros at its end. -/
def Record.wf (r : Record) : Bool := decide (r.payload.length + 36 ≤ (r.length.toNat + 99) / 64 * 64)

/-- A host buffer holds at most 64 MiB and the 128 bytes of a signature block (Table 13.3). -/
def bufferWf (b : List Byte) : Bool := decide (b.length ≤ 67108992)

/-- Tile indices have 32 bits (Table 3.3). -/
def RunUpset.wf (u : RunUpset) : Bool := u.tiles.all fun t => decide (t.1 < 2 ^ 32) && decide (t.2.1 < 2 ^ 32) && t.2.2.length == 4096

/-- A camera packet carries line segments, each of bytes that fit its frame and with a line number and an offset of 15 bits (RFC 4175, Table 4.1). -/
def TapPacket.wf (p : TapPacket) : Bool :=
  !p.segments.isEmpty && p.segments.all fun s => decide (s.data.length ≤ p.size) && decide (s.line < 2 ^ 15) && decide (s.offset < 2 ^ 15)

/-- A local address is an offset of 32 bits. -/
def LocalAddr.wf (a : LocalAddr) : Bool := decide (a.off < 2 ^ 32)

/-- The pair number has 8 bits, and the addresses are local ones (Table 7.2). -/
def EngineOp.wf (o : EngineOp) : Bool :=
  decide (o.pair < 2 ^ 8) && [o.aAddr, o.bAddr, o.scaleA, o.scaleB, o.outAddr, o.sAddr].all LocalAddr.wf

/-- An upset names a bit of its word: the widest accumulator has 560 (Table 7.4). -/
def EngineUpset.wf (u : EngineUpset) : Bool := decide (u.bit < 560)

/-- A DMA channel is one of the 288 of Table 5.5. -/
def Accessor.wf : Accessor → Bool
  | .dma c => decide (c < 288)
  | _ => true

/-- An end of a DMA transfer lies in the 512 KiB of a local memory, or in the 48-bit device map. -/
def DmaPlace.wf : DmaPlace → Bool
  | .core _ off => decide (off < 0x80000)
  | .device _ off => decide (off < 2 ^ 48)

/-- An instruction names channels and objects of its kernel's allocation (Tables 8.2, 8.4), and moves bytes that its registers hold. -/
def BundleInstr.wf : BundleInstr → Bool
  | .dmaStart c src dst _ post => decide (c < 16) && src.wf && dst.wf && (post.all fun x => decide (x.1 < 256))
  | .dmaWait c => decide (c < 16)
  | .signal o _ => decide (o < 256)
  | .tensorStart _ op => op.wf
  | .loadLocal _ _ _ n | .storeLocal _ _ _ n | .loadDevice _ _ _ n | .storeDevice _ _ _ n => decide (n ≤ 256)
  | _ => true

/-- What the hardware does to an instruction: an offset of the code has 32 bits. -/
def IssueFault.wf : IssueFault → Bool
  | .illegal off | .fetchUncorrectable off => decide (off < 2 ^ 32)
  | .regUpset .. => true

def Issued.wf (i : Issued) : Bool := i.instr.wf && i.fault.all IssueFault.wf

/-- A register exists: its segment or BAR0 offset is one. -/
def Reg.wf : Reg → Bool
  | .segTag s => decide (s < 14240)
  | .bar0 _ o n => decide (o < 2 ^ 26) && accessSize n
  | _ => true

/-- The well-formed commands. -/
def Instr.wf : Instr → Bool
  | .pad _ queue => decide (queue < 2 ^ 32)
  | .deviceInfo _ path p => path.wf && p.wfFor 0x0101
  | .ringPairOpen _ path p => path.wf && p.wfFor 0x0102
  | .ringPairClose _ path p => path.wf && p.wfFor 0x0103
  | .sessionOpen _ path p => path.wf && p.wfFor 0x0104
  | .sessionClose _ path p => path.wf && p.wfFor 0x0105
  | .keyEnrol _ path p => path.wf && p.wfFor 0x0106
  | .keyRevoke _ path p => path.wf && p.wfFor 0x0107
  | .attest _ path p => path.wf && p.wfFor 0x0108
  | .attnRead _ path p => path.wf && p.wfFor 0x0109
  | .attnAck _ path p => path.wf && p.wfFor 0x010A
  | .planLoad _ path p => path.wf && p.wfFor 0x0201
  | .planUnload _ path p => path.wf && p.wfFor 0x0202
  | .weightLoad _ path p => path.wf && p.wfFor 0x0203
  | .partitionSet _ path p => path.wf && p.wfFor 0x0204
  | .coreModeSet _ path p => path.wf && p.wfFor 0x0205
  | .planSwap _ path p => path.wf && p.wfFor 0x0206
  | .subjectRegister _ path p => path.wf && p.wfFor 0x0301
  | .subjectRelease _ path p => path.wf && p.wfFor 0x0302
  | .portRoleSet _ path p => path.wf && p.wfFor 0x0303
  | .tapStreamOpen _ path p => path.wf && p.wfFor 0x0304
  | .tapStreamClose _ path p => path.wf && p.wfFor 0x0305
  | .contextOpen _ path p => path.wf && p.wfFor 0x0306
  | .contextClose _ path p => path.wf && p.wfFor 0x0307
  | .contextResume _ path p => path.wf && p.wfFor 0x0308
  | .contextStatus _ path p => path.wf && p.wfFor 0x0309
  | .timeRead _ path p => path.wf && p.wfFor 0x0401
  | .timeStatus _ path p => path.wf && p.wfFor 0x0402
  | .timeSet _ path p => path.wf && p.wfFor 0x0403
  | .ptpConfig _ path p => path.wf && p.wfFor 0x0404
  | .pulseSet _ path p => path.wf && p.wfFor 0x0405
  | .pulseStop _ path p => path.wf && p.wfFor 0x0406
  | .diagRead _ path p => path.wf && p.wfFor 0x0501
  | .faultConfig _ path p => path.wf && p.wfFor 0x0502
  | .faultTest _ path p => path.wf && p.wfFor 0x0503
  | .hold _ path p => path.wf && p.wfFor 0x0504
  | .releaseHold _ path p => path.wf && p.wfFor 0x0504
  | .watchdogSet _ path p => path.wf && p.wfFor 0x0505
  | .monitorSet _ path p => path.wf && p.wfFor 0x0506
  | .checkin _ path p => path.wf && p.wfFor 0x0507
  | .scrubPeriod _ path p => path.wf && p.wfFor 0x0601
  | .fabricJoin _ path p => path.wf && p.wfFor 0x0701
  | .fabricLeave _ path p => path.wf && p.wfFor 0x0702
  | .contextRemap _ path p => path.wf && p.wfFor 0x0703
  | .fabricStatus _ path p => path.wf && p.wfFor 0x0704
  | .paceConfig _ path p => path.wf && p.wfFor 0x0801
  | .firmwareStage _ path p => path.wf && p.wfFor 0x0802
  | .warmReset _ path p => path.wf && p.wfFor 0x0803
  | .fieldLock _ path p => path.wf && p.wfFor 0x0804
  | .commandDoorbell _ _ queue w packets => decide (queue < 2 ^ 32) && accessSize w.size && packets.all Packet.wf
  | .replyDoorbell _ _ queue w => decide (queue < 2 ^ 32) && accessSize w.size
  | .verdictDoorbell _ _ queue w => decide (queue < 2 ^ 32) && accessSize w.size
  | .mboxGo _ _ p => p.wf
  | .commandFinalReply _ session _ => decide (session < 256)
  | .bulkTransferComplete _ session _ obj _ => decide (session < 256) && bufferWf obj
  | .segmentConversionComplete _ segment => decide (segment < 14240)
  | .admissionCommit _ => true
  | .contextActivation _ => true
  | .unitPrepareAck _ _ _ => true
  | .prepareTimeout => true
  | .changeCommit _ => true
  | .changeApplyDeadline => true
  | .changeDone => true
  | .readmission _ => true
  | .bar2Write _ _ offset w _ => decide (offset < 2 ^ 32) && accessSize w.size
  | .evidenceProducerUpdate _ _ _ _ size _ => accessSize size
  | .commit _ _ r => r.wf
  | .crcList _ _ r => r.wf
  | .opening _ _ r => r.wf
  | .depTile _ _ r => r.wf
  | .tensor _ _ r => r.wf
  | .abandon _ _ r => r.wf
  | .evidencePad _ _ type r => r.wf && (type == 0 || decide (6 < type.toNat))
  | .challengeConsumerWrite _ _ _ _ => true
  | .subjectCheckin _ _ _ offset _ => decide (offset < 4096)
  | .openingWindowClose _ _ _ => true
  | .deadlineExpiry _ _ => true
  | .kernelComplete _ _ u => u.wf
  | .frameTableWindowStart _ window _ => decide (window < 64)
  | .windowClose _ _ => true
  | .coreIssue _ _ _ i others => i.wf && others.all fun c => c.toIssued.wf
  | .kernelRerun _ _ => true
  | .engineOperationEnd _ _ _ during atDrain => (during ++ atDrain).all EngineUpset.wf
  | .signatureCompare _ _ _ _ _ _ _ => true
  | .signalPost _ _ _ obj _ => decide (obj < 256)
  | .signalWait _ _ _ obj _ => decide (obj < 256)
  | .signalTest _ _ _ obj _ => decide (obj < 256)
  | .dmaComplete _ _ => true
  | .dmaHaltRestart _ _ => true
  | .memoryRead _ who line off => decide (line < 2 ^ 42) && decide (off < 64) && who.wf
  | .memoryWrite _ who line off data =>
    decide (off < 64) && who.wf && decide (1 ≤ data.length) && decide (64 * line + off + data.length ≤ 2 ^ 48)
  | .meshPacketReceive _ _ _ _ => true
  | .scrubPage _ page => decide (page < 2 ^ 36)
  | .scrubVerifyRead word => decide (word < 2 ^ 45)
  | .relocationComplete _ segment => decide (segment < 14240)
  | .fumaroleLate _ => true
  | .segModeWrite _ segment _ => decide (segment < 14240)
  | .tapPacket _ _ p => p.wf
  | .frameDigestComplete _ _ _ => true
  | .assemblyTimeout _ _ => true
  | .slotRelease _ _ => true
  | .streamSilence _ => true
  | .unclaimedFrame _ _ => true
  | .ethFrameReceive _ _ size _ _ => decide (64 ≤ size) && decide (size ≤ 9216)
  | .ethLinkDown _ _ => true
  | .ethLinkUp _ _ => true
  | .segmentTransmit _ _ => true
  | .ptpSync _ _ _ => true
  | .ptpFollowUp _ _ _ => true
  | .ptpDelayReq _ _ _ => true
  | .ptpDelayResp _ _ _ => true
  | .ptpPdelayReq _ _ _ => true
  | .ptpPdelayResp _ _ _ => true
  | .ptpPdelayRespFollowUp _ _ _ => true
  | .ptpAnnounce _ _ _ _ => true
  | .ptpManagement _ _ => true
  | .announceReceiptTimeout _ => true
  | .ptpMessageSend _ _ _ => true
  | .txTimestamp _ _ _ _ => true
  | .txqEntryRead _ _ => true
  | .ppsIn _ => true
  | .ppsInMissing _ => true
  | .servoLimitHold _ => true
  | .geyIncrWrite _ _ => true
  | .geyStepWrite _ _ _ => true
  | .pulseOccurrence _ => true
  | .pulseFall _ => true
  | .ppsOut _ => true
  | .refclkFault _ => true
  | .sourceEvent _ _ _ _ _ => true
  | .railDisagreement _ _ => true
  | .lastingConditionRepeat _ => true
  | .calRaise _ _ => true
  | .calForceSet _ _ => true
  | .calForceClear _ _ => true
  | .forceExpiry => true
  | .calRelease _ => true
  | .errNMinimumEnd => true
  | .calSelfTest _ _ => true
  | .vcoreComparator _ _ _ => true
  | .gaugeWindowEnd _ _ _ _ => true
  | .minRearm _ => true
  | .testArm _ _ => true
  | .trackAdjust => true
  | .avsbusTransactionEnd _ _ _ _ _ => true
  | .engInjectArm _ _ _ => true
  | .pairInjectArm _ _ _ _ => true
  | .memInjectArm _ _ _ => true
  | .cvuInject _ _ => true
  | .forceTest _ _ => true
  | .gntArm _ => true
  | .safeTestPulse _ _ _ _ => true
  | .safeReadbackCheck _ _ _ _ => true
  | .uwdCfgWrite _ _ _ => true
  | .uwdService _ _ => true
  | .uwdTestDone _ => true
  | .sequencerService _ _ _ => true
  | .uwdExpiry _ => true
  | .unitAcknowledge _ _ => true
  | .graceExpiry _ => true
  | .dwdService _ _ => true
  | .dwdExpiry => true
  | .pwrCutRelease => true
  | .monitorWindowClose _ => true
  | .selftestSlice _ k _ _ => decide (k < 3)
  | .sweepIntervalExpiry _ => true
  | .drbgReseed _ _ => true
  | .sessionConfirmTimeout session => decide (session < 256)
  | .porstNAssert _ => true
  | .porstNRelease _ _ _ _ => true
  | .warmN _ => true
  | .chipSafeWarmReset => true
  | .safeStateWarmReset => true
  | .commandedWarmReset _ => true
  | .isolationWarmReset => true
  | .stewardRelease _ _ _ _ => true
  | .wireDriverPulse _ _ _ => true
  | .testReset _ => true
  | .startUpTestsComplete _ _ _ => true
  | .restartResume _ => true
  | .pcieLinkDown _ => true
  | .pcieLinkUp _ => true
  | .pcieLinkRetrain _ gen width => decide (1 ≤ gen) && decide (gen ≤ 5) && [1, 2, 4, 8, 16].contains width
  | .smbusTransaction _ _ => true
  | .debugAttachCore _ _ => true
  | .debugAttachSteward _ _ => true
  | .heartbeatSend => true
  | .heartbeat _ _ _ _ _ _ => true
  | .echo _ _ _ _ => true
  | .journal _ _ _ => true
  | .confirm _ _ _ => true
  | .map _ _ _ => true
  | .takeover _ _ _ => true
  | .slice _ _ _ _ => true
  | .handed _ _ _ _ _ => true
  | .takeoverReadback _ _ _ _ => true
  | .leaseExpiry => true
  | .managerIsolation => true
  | .failureDeclaration _ _ => true
  | .managerPromotion => true
  | .journalResend => true
  | .mirrorTimeout => true
  | .commandMirrorTimeout session _ => decide (session < 256)
  | .mirrorCopyComplete _ => true
  | .checkpoint => true
  | .remapBoundary _ => true
  | .registerWrite _ r _ => r.wf
  | .peerAnswerTimeout session _ => decide (session < 256)
  | .pairKeyAgreement _ _ _ _ _ => true

end Sys2Proof
end

