-- ==== Sys2Proof/Tests/Slice0.lean ====
section
/-! SUPPORT. The model's own tests. Smoke tests of WellFormed with an ill-formed term for each check; for every statement with hypotheses a
state and operands that meet them, clause by clause; and small tests of commands whose expected results come from the spec's own
figures, rules and examples, cited at each. -/

namespace Sys2Proof.Tests

open Sys2Proof Sys2Proof.Machine

set_option Elab.async false

/-! ### Small states and packets -/

/-- A device that is READY and has resumed, out of a fabric, with nothing open. -/
def up : Dev := { front := { state := .ready }, start := { cold := false, released := true, testsDone := true, resumed := true } }

/-- The state with device `d`, at reset otherwise. -/
def st (d : Dev) : State := { dev := d }

/-- Zeros up to `n` bytes after `l`. -/
def fill (n : Nat) (l : List Byte) : List Byte := l ++ List.replicate (n - l.length) 0

/-- Little-endian bytes, `n` of them, of each value. -/
def le (l : List (Nat × Nat)) : List Byte := l.flatMap fun e => leBytes e.1 e.2

/-- A packet of session 1 (or 0) with inline fields and payload. -/
def pk (op : W16) (inl pay : List Byte) : Packet :=
  { opcode := op, session := 1, length := BitVec.ofNat 32 (64 + pay.length), inl := fill 16 inl, payload := pay }

/-- Session 1 with the command ring 4 and the reply ring 5, on a device that is up. -/
def ringed (d : Dev) : Dev := { d with
  queues := { d.queues with table := [(4, { kind := 1, exp := 16, owner := 1, partner := 5 }), (5, { kind := 2, exp := 6, owner := 1, partner := 4 })] }
  sessions := [(1, { isOpen := true, rings := some (4, 5) })] }

/-- The packet with the check that session 1's key gives it (R312). -/
def sealed (d : Dev) (p : Packet) : Packet := { p with check := packetCheck (sessOf d 1) p }

theorem sealed_check (d : Dev) (p : Packet) : packetCheck (sessOf d 1) (sealed d p) = (sealed d p).check := rfl

/-- The packet with another check than session 1's key gives it. -/
def unsealed (d : Dev) (p : Packet) : Packet := { p with check := packetCheck (sessOf d 1) p + 1 }

theorem unsealed_check (d : Dev) (p : Packet) : packetCheck (sessOf d 1) (unsealed d p) ≠ (unsealed d p).check := by
  show packetCheck (sessOf d 1) p ≠ packetCheck (sessOf d 1) p + 1
  intro h
  have := congrArg BitVec.toNat h
  simp only [BitVec.toNat_add] at this
  have k := (packetCheck (sessOf d 1) p).isLt
  simp at this
  omega

/-- What `packetPasses` asks of the packet's fields, of its session, and of the device's state, but for the check itself. -/
def fieldsB (n : Nat) (path : Path) (p : Packet) : Bool :=
  p.session.toNat == n && decide (n ≤ 255) && p.length.toNat % 16 == 0 && decide (64 ≤ p.length.toNat) &&
  decide (p.length.toNat ≤ if path = .mailbox then 3840 else 4096)
def sessionB (n : Nat) (p : Packet) (d : Dev) : Bool :=
  (sessOf d n).isOpen && ((sessOf d n).store.all fun e => e.counter != p.counter) &&
  decide ((sessOf d n).high < p.counter.toNat) && (sessOf d n).high != 0xFFFFFFFFFFFFFFFE
def stateB (n : Nat) (path : Path) (p : Packet) (d : Dev) : Bool :=
  stewardUp d && (!inSafe d || [0x0109, 0x010A, 0x0501].contains p.opcode.toNat) &&
  (!acceptedOpcodes.contains p.opcode.toNat || decide (d.accepted.length < 4096 ∧ awaiting d n < 64)) &&
  (twoPhase p.opcode.toNat || !namesBusyUnit p d) && (row7 n path p d).isNone &&
  (partitionOpcodes.contains p.opcode.toNat || p.partition == 0xFF)
def passB (n : Nat) (path : Path) (p : Packet) (d : Dev) : Bool := fieldsB n path p && sessionB n p d && stateB n path p d

theorem passes_of {n : Nat} {path : Path} {p : Packet} {d : Dev} (h : passB n path p d = true)
    (check : n = 0 ∨ packetCheck (sessOf d n) p = p.check) : packetPasses n path p d := by
  simp only [passB, fieldsB, sessionB, stateB, Bool.and_eq_true, Bool.or_eq_true, decide_eq_true_eq, beq_iff_eq, bne_iff_ne,
    List.all_eq_true, Bool.not_eq_true', List.contains_iff_mem, Option.isNone_iff_eq_none] at h
  have fields := h.1.1
  have session := h.1.2
  have state := h.2
  exact { check
          session := fields.1.1.1.1, number := fields.1.1.1.2, lengthUnit := fields.1.1.2, lengthMin := fields.1.2
          lengthMax := fields.2, isOpen := session.1.1.1, fresh := session.1.1.2, above := session.1.2, highMax := session.2
          up := state.1.1.1.1.1, notSafe := state.1.1.1.1.2, notBusy := state.1.1.2, row7 := state.1.2, header := state.2
          room := fun k => state.1.1.1.2.resolve_left (by simpa using k) }

/-- What `ringTakes` asks of the ring, of its session, and of what waits. -/
def spaceB (n q : Nat) (p : Packet) (d : Dev) : Bool :=
  (queueOf d q).kind == 1 && (queueOf d q).owner == n && !(queueOf d q).halted &&
  decide ((queueOf d q).producer + slotBytes p ≤ (queueOf d q).consumer + 2 ^ (queueOf d q).exp)
def quietB (n q rq : Nat) (p : Packet) (d : Dev) : Bool :=
  decide ((sessOf d n).rings = some (q, rq) ∧ rq ≠ q ∧ (∀ e ∈ d.sessions, e.2.waiting = []) ∧
    1 + awaiting d n ≤ replyFree d rq ∧ (∀ a ∈ d.accepted, a.session = n → a.mirror = none) ∧
    (p.flags.getLsbD 0 = false ∨ awaiting d n = 0))
def ringB (n q rq : Nat) (p : Packet) (d : Dev) : Bool := spaceB n q p d && quietB n q rq p d

theorem takes_of {n q rq : Nat} {p : Packet} {d : Dev} (h : ringB n q rq p d = true) : ringTakes n q rq p d := by
  simp only [ringB, spaceB, quietB, Bool.and_eq_true, decide_eq_true_eq, beq_iff_eq, Bool.not_eq_true'] at h
  have quiet := h.2
  exact { kind := h.1.1.1.1, owner := h.1.1.1.2, running := h.1.1.2, space := h.1.2, rings := quiet.1, other := quiet.2.1
          empty := quiet.2.2.1, replies := quiet.2.2.2.1, unmirrored := quiet.2.2.2.2.1, fence := quiet.2.2.2.2.2 }

/-- A packet of session 1 comes by its command ring. -/
theorem comes_ring (op : W16) (d0 : Dev) (p : Packet)
    (h : (p.opcode == op && passB 1 (.ring 4) (sealed d0 p) (advance 0 d0) && ringB 1 4 5 (sealed d0 p) (advance 0 d0)) = true) :
    packetComes op 1 0 (.ring 4) (sealed d0 p) (st d0) (packetTaken 1 (.ring 4) (sealed d0 p) (advance 0 d0)) := by
  simp only [Bool.and_eq_true, beq_iff_eq] at h
  exact ⟨h.1.1, passes_of h.1.2 (.inr rfl), ⟨5, takes_of h.2⟩, rfl⟩

/-- A packet of session 0 comes by the mailbox. -/
theorem comes_mail (op : W16) (d0 : Dev) (p : Packet)
    (h : (p.opcode == op && passB 0 .mailbox p (advance 0 d0) && !(advance 0 d0).front.mboxBusy) = true) :
    packetComes op 0 0 .mailbox p (st d0) (packetTaken 0 .mailbox p (advance 0 d0)) := by
  simp only [Bool.and_eq_true, beq_iff_eq, Bool.not_eq_true'] at h
  exact ⟨h.1.1, passes_of h.1.2 (.inl rfl), h.2, rfl⟩

/-- A 32-byte queue specification of a kind and a size exponent (Table 13.8). -/
def spec (kind exp : Nat) : List Byte := fill 32 (le [(1, kind), (1, exp), (2, 0), (4, 0), (8, 0x10000), (1, 0xFF), (1, 0xFF)])


/-- A packet with a partition and a context. -/
def pkc (op : W16) (part : Byte) (ctx : W32) (inl pay : List Byte) : Packet := { pk op inl pay with partition := part, context := ctx }

/-- Session 0 with the command ring 4 and the reply ring 5. -/
def ringed0 (d : Dev) : Dev := { d with
  queues := { d.queues with table := [(4, { kind := 1, exp := 16, owner := 0, partner := 5 }), (5, { kind := 2, exp := 6, owner := 0, partner := 4 })] }
  sessions := [(0, { isOpen := true, rings := some (4, 5) })] }

/-- A packet of session 0 comes by its command ring. -/
theorem comes_zero (op : W16) (d0 : Dev) (p : Packet)
    (h : (p.opcode == op && passB 0 (.ring 4) p (advance 0 d0) && ringB 0 4 5 p (advance 0 d0)) = true) :
    packetComes op 0 0 (.ring 4) p (st d0) (packetTaken 0 (.ring 4) p (advance 0 d0)) := by
  simp only [Bool.and_eq_true, beq_iff_eq] at h
  exact ⟨h.1.1, passes_of h.1.2 (.inl rfl), ⟨5, takes_of h.2⟩, rfl⟩

/-- The configuration of an admission that succeeds. -/
def cfgOf (d : Dev) : AdmitConfig := match runAdmission d with
  | .ok c => c
  | .error _ => {}

theorem cfg_ok {d : Dev} (h : (match runAdmission d with | .ok _ => true | .error _ => false) = true) :
    runAdmission d = .ok (cfgOf d) := by
  unfold cfgOf
  cases e : runAdmission d with
  | ok c => rfl
  | error s => rw [e] at h; cases h

/-- Partition 1 on cluster 0, a stream of port 0, a plan of one FRAME_BIND check on it, and the device that holds them. -/
def part1 : Partition := { criticality := 2, majorUs := 10000, qUs := 500, epoch := 0, mask := 0xF, quota := 1000 }
def stream0 : Stream :=
  { port := 0, sampling := 1, depth := 8, tagged := false, vlan := 0, dst := 1, udpPort := 5000,
    payloadType := 96, grades := 1, ssrc := 7, width := 64, height := 64, periodUs := 20000, limitUs := 5000, slots := 8,
    partition := 1, silenceUs := 0, opened := true }
def template0 : Template := { index := 0, partition := 1, grade := 1, deadlineUs := 15000, rate := 50, firstCheck := 0, checkCount := 1 }
def plan5 : Plan :=
  { identifier := 5, version := 1, totalLength := 192, sectionCount := 0, templateCount := 1, signer := 9,
    templates := [template0], checks := [{ kind := 1, output := 0 }], tensors := [layer0Of stream0],
    weightDigests := [{ blob := 3, length := 128, digest := 0 }] }
def loaded5 : LoadedPlan := { plan := plan5, partition := 1, active := true }
def world : Dev := ringed { up with
  sched := { parts := [(1, part1)] }
  plans := { loaded := [loaded5] }
  streams := [(0, stream0)]
  ports := [(0, { role := .tap }), (1, { role := .out })]
  slots := [(0, { requester := some 9 })] }


/-- An allocation of one segment for the plan; the plan whose weights have a digest; slot 0 with the level of its ingress bucket. -/
def alloc0 : Alloc := { what := .plan 5 1, first := 0, count := 1 }
def digested : LoadedPlan := { loaded5 with plan := { plan5 with
  weightDigests := [{ blob := 3, length := 128, digest := Config.sm3 (List.replicate 128 1) }] } }
def levelled (level : Nat) : Dev := { world with slots := [(0, { requester := some 9, ingressDepth := 1000, ingressLevel := level })] }

/-- A queue specification with its owner, base, slot and partition. -/
def specOf (kind exp owner base slot part : Nat) : List Byte :=
  fill 32 (le [(1, kind), (1, exp), (2, 0), (4, owner), (8, base), (1, slot), (1, part)])

/-- The parts of a frame that comes, together. -/
theorem forUs {h : FabricHeader} {d : Dev} (x : (portOf d h.port.val).link = true ∧ (portOf d h.port.val).role = .fabric ∧ d.fabric.id ≠ 0 ∧
    fabricUp d = true ∧ (h.dest = d.fabric.device ∨ h.dest = 0xFF)) : frameForUs h d := by
  obtain ⟨l, r, m, u, e⟩ := x
  exact { link := l, role := r, member := m, up := u, dest := e }
theorem frame_of {h : FabricHeader} {m : Member} {d : Dev} (x : ((portOf d h.port.val).link = true ∧ (portOf d h.port.val).role = .fabric ∧
    d.fabric.id ≠ 0 ∧ fabricUp d = true ∧ (h.dest = d.fabric.device ∨ h.dest = 0xFF)) ∧ h.fabric = d.fabric.id ∧
    kfind? d.fabric.members h.source = some m ∧ m.pairKey.isSome = true ∧ h.checkOk = true ∧ h.frameSeq ∉ m.seen) : frameComes h m d :=
  { toframeForUs := forUs x.1, fabric := x.2.1, source := x.2.2.1, key := x.2.2.2.1, check := x.2.2.2.2.1, first := x.2.2.2.2.2 }

/-- Five conjuncts together, and the rest. -/
theorem five {a b c d e r : Prop} (h : a ∧ b ∧ c ∧ d ∧ e) (t : r) : a ∧ b ∧ c ∧ d ∧ e ∧ r :=
  ⟨h.1, h.2.1, h.2.2.1, h.2.2.2.1, h.2.2.2.2, t⟩

theorem not_succ (x : W256) : x ≠ x + 1 := by bv_omega

theorem matches_one {d : Dev} {l : LoadedPlan} {id : W64} {blob : W32} {g : W256} (h : versionsOf d id = [l]) (a : l.active = true)
    (w : l.plan.weightDigests = [{ blob := blob, length := 128, digest := g }]) : matching d id blob 128 g ≠ [] := by
  simp [matching, h, a, w]

theorem got {α : Type} {o : Option α} (h : o.isSome = true) : o = some (o.get h) := (Option.some_get h).symm

/-- The shortfall of an admission that fails. -/
def shortOf (d : Dev) : Shortfall := match runAdmission d with
  | .ok _ => { code := 0, term := 0, condition := 0, amount := 0 }
  | .error s => s

theorem short_of {d : Dev} (h : (match runAdmission d with | .ok _ => false | .error _ => true) = true) :
    runAdmission d = .error (shortOf d) := by
  unfold shortOf
  cases e : runAdmission d with
  | ok c => rw [e] at h; cases h
  | error s => rfl

/-- Context 7 of the plan, with its queues. -/
def ctx7 : Context := { state := .active, planId := 5, planVersion := 1, partition := 1, streams := [0], outPort := 1, evQueue := 10,
                        chQueue := 11, vQueue := 12, activated := true }
def withCtx (d : Dev) (x : Context) : Dev := { d with
  contexts := [(7, x)]
  queues := { d.queues with table := d.queues.table ++ [(10, { kind := 3, exp := 18, owner := 7, slot := 0, partition := 1, partner := 11 }),
    (11, { kind := 4, exp := 8, owner := 7, slot := 0, partition := 1, partner := 10 }), (12, { kind := 5, exp := 6, owner := 7, partition := 1 })] } }

/-- The device in a fabric as member 2 of its manager 1, and as the manager itself. -/
def worker (d : Dev) : Dev := { d with fabric := { id := 3, role := 3, device := 2, ports := 4, manager := 1, members := [(1, { role := 1 }), (2, { role := 3 })] } }
def managed (d : Dev) : Dev := { d with fabric := { id := 3, role := 1, device := 1, ports := 4, manager := 1, members := [(1, { role := 1 }), (2, { role := 3 })] } }

theorem entries_ok {l : List (Nat × Option Partition)} {d : Dev}
    (h : ((l.zip (List.range l.length)).all fun e => (entryRefused e.2 e.1 d).isNone) = true) :
    ∀ i e, l[i]? = some e → entryRefused i e d = none := by
  intro i e he
  obtain ⟨hi, rfl⟩ := List.getElem?_eq_some_iff.mp he
  have := List.all_eq_true.mp h (l[i], i) (List.mem_iff_getElem.mpr ⟨i, by simp [hi], by simp⟩)
  simpa using this

/-- A record of context 7, a result of it with a challenge that is open, and the devices that hold them. -/
def rec7 : Record := { context := 7, seq := 1, length := 0 }
def challenge2 : Challenge := { check := 0, layer := 2, number := 0, tile := 4, entry := 5 }
def result1 : Result := { seq := 1, planId := 5, planVersion := 1, template := 0, deadline := ms 40, checks := [.open_], challenges := [challenge2], windows := [(2, ms 1)] }
def withRes (r : Result) : Dev := withCtx world { ctx7 with accepted := 1, results := [r] }
def withPlan (p : Plan) : Dev := { withRes result1 with plans := { loaded := [{ loaded5 with plan := p }] } }
def opening2 : Record := { rec7 with layer := 2, tile := 4, length := 8, payload := le [(4, 0), (4, 5)] }
def probeCheck : CheckEntry := { kind := 2, output := 0, firstLayer := 2, lastLayer := 2, k := 1 }
def planProbe : Plan := { plan5 with checks := [probeCheck] }
def planGrid : Plan := { plan5 with
  checks := [probeCheck]
  tensors := [{ format := 2, dims := [64], tiles := 1, layer := 2 }] }
def commit2 : Record := { rec7 with layer := 2, length := 64, payload := fill 64 (le [(1, 1), (1, 0), (2, 0), (4, 0), (4, 1)]) }
def commitment2 : Commitment := { layer := 2, stream := 0, tensor := 0, tiles := 1, value := 0, arrival := 0 }
def monitor2 : Monitor := { kind := 2, windowUs := 1000, minimum := 0, maximum := 1, start := 0 }
def watched : Dev := { world with
  slots := [(1, { requester := some 9 })]
  watch := { monitors := [(2048, monitor2)] } }
def ringAt0 : Dev := { withCtx world ctx7 with queues := { table := [(10, { kind := 3, exp := 18, owner := 7, slot := 0, partition := 1, access := 0x50000 })] } }

theorem pair_of {α β : Type} {x : α × β} {a : α} (h : x.1 = a) : x = (a, x.2) := Prod.ext h rfl
theorem pair_eta {α β : Type} {x : α × β} : x = (x.1, x.2) := rfl
theorem some_pair {α β : Type} {x : Option α × β} (h : x.1.isSome = true) : x = (some (x.1.get h), x.2) := pair_of (got h)
theorem true_pair {β : Type} {x : Bool × β} (h : x.1 = true) : x = (true, x.2) := pair_of h

/-- A kernel, the plan that holds it, and the device whose core 0 runs it: split, in an open window, with one bundle of one lane. -/
def kernel0 : Kernel := { length := 320, codeOffset := 256, codeLength := 64, constOffset := 0, constLength := 0, signals := 2, localMem := 256, dmaChannels := 1, issueSteps := 100, tensorSteps := 0 }
def golden0 : GoldenEntry := { index := 0, period := 1, phase := 0, kernelSection := 5, partition := 1, kernel := 0, inputTensor := 0, inputBlob := 3, outputTensor := 0, inputRoot := 1, outputDigest := 2 }
def planRun : Plan := { plan5 with
  network := [kernel0]
  golden := [golden0] }
def run0 : Run_ := { op := { work := .check 7 1 0, partition := 1, planId := 5, planVersion := 1, section_ := 5, kernel := 0, trigger := 0 }, cores := [0] }
def window0 : CoreWindow := { partition := 1, kind := .service, opens := 0, closes := ms 5, ready := 0 }
def bundle0 : Bundle := { lanes := 1, regs := [(1, 4)] }
def site0 (paired : Bool) : Site := { core := 0, slot := 0, run := run0, kernel := kernel0, bundle := bundle0, split := !paired }
def running (paired : Bool) (r : Run_) (b : Bundle) : Dev := { withCtx world ctx7 with
  plans := { loaded := [{ loaded5 with plan := planRun }] }
  sched := { parts := [(1, part1)], runs := [r], tables := [(0, [{ start := 0, length := 500, partition := 1, kind := .service, mask := 3 }])] }
  cores := { core := [(0, { split := !paired, window := some window0, bundles := [(0, b)] })] } }

/-- Two bundles of the run; a bundle whose run has bound 256 bytes of segment 0; a transfer of one line of local memory. -/
def two : Dev := { running false run0 bundle0 with
  cores := { core := [(0, { split := true, window := some window0, bundles := [(0, { bundle0 with order := 1 }), (1, bundle0)] })] } }
def runDev : Run_ := { run0 with
  args := [0]
  bounds := [(0, 256, 3)] }
def siteDev : Site := { site0 false with
  run := runDev
  bundle := { bundle0 with served := some 0 } }
def deviceRun : Dev := { running false runDev { bundle0 with served := some 0 } with
  memctl := { segs := [(0, { valid := true, owner := 1, mode := .ephemeral })] } }
def dma0 : DmaChannel := { busy := true, served := some 0, src := 0x1100000000, dst := 0x1100001000, lines := 1, partition := 1, core := 0 }
def transfers (c : DmaChannel) : Dev := { world with cores := { dma := [(0, c)] } }

/-- Pair 0x01 of Table 7.1, an engine that has an operation, and the core whose store holds signatures. -/
def pairOne : PairInfo := { fmts := [(1, 1)], exact := true, width := 32, limit := 131071 }
def engined (op : EngineOp) : Dev := { world with cores := { core := [(0, { engines := [(0, { op := some op })] })] } }
def stored (l : List StoredSig) : Dev := { running true run0 bundle0 with cores := { core := [(0, { window := some window0, store := l })] } }

/-- The run once its last group has been dispatched, and the device whose core 0 has nothing of it left. -/
def runEnd : Run_ := { run0 with nextGroup := 1 }
def finished (r : Run_) : Dev := { running false r bundle0 with cores := { core := [(0, { split := true, window := some window0 })] } }

/-- A golden entry of a kernel that the plan does not hold, with the digest that is expected of its output, and the plan that has it. -/
def goldenOut (out : W256) : GoldenEntry := { golden0 with kernelSection := 6, outputDigest := out }
def planGolden (out : W256) : Plan := { plan5 with golden := [goldenOut out] }

/-- An engine operation on one cell pair, and a pending change of the units it names. -/
def op1 (drain : Option Byte) : EngineOp := { pair := 1, fmtA := 1, fmtB := 1, k := 1, aAddr := { off := 0 }, bAddr := { off := 32 }, drain := drain, outAddr := { off := 4096 } }
def change0 (cores : Bool) (acked : W64) : Change := { id := 1, opcode := if cores then 0x0205 else 0x0204, session := 1, counter := 1, commitAt := ms 20, prepareBy := ms 1, named := 1, acked := acked, cores := cores, packet := pk 0x0205 [] (le [(8, 1), (8, 0)]) }
def changing (c : Change) : Dev := { world with cores := { changes := [c] } }

/-- HBM segment 0 in EPHEMERAL mode, the Steward's, with the given syndromes. -/
def inMem (synd : KMap Byte) : State := { st { world with memctl := { segs := [(0, { valid := true, device := true, mode := .ephemeral })] } } with
  mem := { synd := synd } }

/-- HBM segment 0 in a mode, the Steward's, with the device's bucket of stop 0 and the given syndromes; a full bucket. -/
def memDev (mode : SegMode) (b : Bucket) (synd : KMap Byte) : State :=
  { st { world with memctl := { segs := [(0, { valid := true, device := true, mode := mode })] }, sched := { world.sched with hbm := [(16, b)] } } with
    mem := { synd := synd } }
def fullBucket : Bucket := { rate := 1000, depth := 80, level := 80 * 4294967296 }

/-- A camera packet of stream 0, a stream of one pixel, and a frame of each status. -/
def tap0 : TapPacket := { dst := 1, udpPort := 5000, ssrc := 7, rtp := 9, seq := 3, segments := [{ line := 0, offset := 0, data := [1, 2, 3] }], marker := true }
def stream1 : Stream := { stream0 with width := 1, height := 1 }
def frame0 (status : FrameStatus) : Frame := { rtp := 9, capture := ms 1, status := status }
def framed (f : Frame) : Dev := { withCtx world { ctx7 with claims := [] } with streams := [(0, { stream0 with frames := [f] })] }
def verdict1 : VerdictRecord := { context := 7, verdict := 1, grade := 1, seq := 1 }

/-- The device with a Geyser of its own: its PTP configuration, ports and state; with a source of Caldera; with a pace block. -/
def timed (g : Geyser) : Dev := { world with geyser := g }
def slave (mech : List Nat) (p : PtpPort) : Dev := timed { cfg := { mech := mech, external := true }, ports := [(0, p)], master := 0, state := .locked }
def sourced (n : Nat) (x : Source) : Dev := { world with cal := { src := [(n, x)] } }

/-- The device with a Gauntlet, a unit watchdog, a device watchdog and a start of its own. -/
def gaunt (g : Gauntlet) : Dev := { world with gnt := g }
def unitWd (n : Nat) (w : UnitWd) : Dev := { world with watch := { uwd := [(n, w)] } }
def deviceWd (w : DeviceWd) : Dev := { world with watch := { dwd := w } }
def started (state : DevState) (x : Start) : Dev := { world with
  front := { state := state }
  start := x }

/-- A frame of member 1 to member 2, the device that takes it, and a journal record. -/
def head (source dest : Nat) : FabricHeader := { source := source, dest := dest, fabric := 3, frameSeq := 5, sendTime := 0 }
def member (role : Nat) : Member := { role := role, pairKey := some 0 }
def joined (device role : Nat) : Dev := { world with
  ports := [(0, { role := .fabric }), (1, { role := .out })]
  fabric := { id := 3, role := role, device := device, ports := 4, manager := 1, members := [(1, member 1), (2, member 3), (4, member 3)], sent := [(9, 0)] } }
def record0 (origin : Nat) : JournalRecord := { origin := origin, seq := 1, instant := 0, body := .held verdict1 }
def takeover0 : TakeoverData := { context := 7, failed := 4, planId := 5, planVersion := 1, template := 0, slot := 0, streams := [0], outPort := 1, firstSeq := 1 }

/-- The slot of a verdict ring that holds the record of sequence 65. -/
def slot65 : RingSlot := { index := 1, bytes := sealLine (fill 60 (le [(8, 0), (8, 65)])) }

/-- A CONTEXT_OPEN of context 7, what it names, and the device once it is taken. -/
def open7raw : Packet := pkc 0x0306 1 7 [] (le [(8, 5), (2, 0), (1, 1), (1, 0), (4, 0xFFFFFF00), (8, 1), (4, 20000000), (6, 0), (2, 0), (8, 1), (4, 0)] ++
  specOf 3 18 7 0 0 1 ++ specOf 4 8 7 0 0 1 ++ specOf 5 6 7 0 0xFF 1)
def open7 : Packet := sealed world open7raw
def names7 : OpenNames := { plan := loaded5, template := template0, index := 0, streams := [0], slot := 0, activation := ms 20 }
def taken7 : Dev := packetTaken 1 (.ring 4) open7 (advance 0 world)

theorem placeIn_free {slot len n k : Nat} {taken : List (Nat × Nat)} {d : Dev} (h : Config.freeNat n = k) :
    placeIn slot len taken { d with free := n } = (placeFrom taken (0x80000000 * slot) 0x7FFFF000 len (2 * taken.length + 4)
      (0x80000000 * slot + 64 * (k % (0x7FFFF000 / 64))), { d with free := n + 1 }) := by
  simp [placeIn, fresh, h]

theorem newQueue_at {n k : Nat} (h : Config.freeNat n = k) (d : Dev) (f : d.free = n) :
    newQueue d = (scanFree ((d.queues.table.filter fun e => e.2.kind != 0).map (·.1) ++ d.accepted.flatMap (·.queues)).contains 0
      1048576 ((d.queues.table.filter fun e => e.2.kind != 0).map (·.1) ++ d.accepted.flatMap (·.queues)).length (k % 1048576),
      { d with free := n + 1 }) := by
  subst f
  simp [newQueue, assign, fresh, h]

/-- Free values that choose the first place in BAR2 and the queue numbers 0, 1 and 2. -/
def firstPlaces : Prop := Config.freeNat 0 = 0 ∧ Config.freeNat 1 = 0 ∧ Config.freeNat 2 = 0 ∧ Config.freeNat 3 = 0 ∧
  Config.freeNat 4 = 1 ∧ Config.freeNat 5 = 2

theorem new7 (h : firstPlaces) :
    ∃ e, newContext open7 names7 taken7 = (some (262144, 262208), e) ∧ ringShort names7 e = none ∧
      (match runAdmission e with | .ok _ => true | .error _ => false) = true ∧
      boundaryOf (commitsFor e taken7.geyser.now (cfgOf e) (concerned e (cfgOf e) [1])) ≤ names7.activation := by
  obtain ⟨h0, h1, h2, h3, h4, h5⟩ := h
  have p1 : placeFrom [(0, 262144)] 0 2147479552 64 6 0 = some 262144 := by decide +kernel
  have p2 : placeFrom [(262144, 262208), (0, 262144)] 0 2147479552 64 8 0 = some 262208 := by decide +kernel
  have p3 : placeFrom [(262208, 262272), (262144, 262208), (0, 262144)] 0 2147479552 16384 10 0 = some 262272 := by decide +kernel
  have r : slotRegions { taken7 with free := 0 } 0 = [] := by decide +kernel
  have b0 : pay open7 0x38 8 = 0 := by decide +kernel
  have b1 : pay open7 0x31 1 = 18 := by decide +kernel
  have b2 : pay open7 0x51 1 = 8 := by decide +kernel
  have sl : names7.slot = 0 := rfl
  have key : ∀ X, newContext open7 names7 taken7 = X → X.1 = some (262144, 262208) ∧ ringShort names7 X.2 = none ∧
      (match runAdmission X.2 with | .ok _ => true | .error _ => false) = true ∧
      boundaryOf (commitsFor X.2 taken7.geyser.now (cfgOf X.2) (concerned X.2 (cfgOf X.2) [1])) ≤ names7.activation := by
    intro X hX
    rw [show taken7 = { taken7 with free := 0 } from rfl] at hX
    unfold newContext at hX
    simp only [r, b0, b1, b2, placeIn_free h0, sl] at hX
    simp [p1] at hX
    simp only [placeIn_free h1] at hX
    simp [p2] at hX
    simp only [placeIn_free h2] at hX
    simp [p3] at hX
    simp only [newQueue_at h3, newQueue_at h4, newQueue_at h5, setQueue, modQueue, Nat.reduceAdd] at hX
    subst hX
    exact ⟨rfl, by decide +kernel⟩
  exact ⟨_, Prod.ext (key _ rfl).1 rfl, (key _ rfl).2⟩

theorem names_of {r : Except Answer OpenNames} {o : OpenNames} (h : (match r with | .ok x => decide (x = o) | .error _ => false) = true) :
    r = .ok o := by
  cases r with
  | ok x => rw [of_decide_eq_true h]
  | error _ => cases h

theorem names7_of : openNames open7 taken7 = .ok names7 := names_of (by decide +kernel)
theorem comes7 : packetComes 0x0306 1 0 (.ring 4) open7 (st world) taken7 := comes_ring 0x0306 world open7raw (by decide +kernel)

/-! ### The worked configuration (23): one partition of the truck, with its figures -/

def stepsOf (tensor issue : Nat) (ins : List Nat) (deps : List (Nat × List Run)) : Kernel :=
  { kernel0 with tensorSteps := tensor, issueSteps := issue, inputs := ins, deps := deps, cores := 7 }

/-- Camera stream 0 (Table 23.1) and template 0 (Table 23.2). -/
def camera : Stream :=
  { port := 0, sampling := 3, depth := 10, tagged := false, vlan := 0, dst := 1, udpPort := 5000, payloadType := 96, grades := 1,
    ssrc := 7, width := 1920, height := 1080, periodUs := 33333, limitUs := 5000, slots := 3, partition := 0, silenceUs := 0,
    opened := true }
def truckTemplate : Template :=
  { index := 0, partition := 0, grade := 1, deadlineUs := 40000, rate := 32000, firstCheck := 0, checkCount := 5, flags := 1,
    outputs := 6 }
def truckGolden : GoldenEntry :=
  { index := 0, period := 1, phase := 0, kernelSection := 6, partition := 0, kernel := 1, inputTensor := 7, inputBlob := 3,
    outputTensor := 7, inputRoot := 1, outputDigest := 2 }
def truckPlan : Plan :=
  { identifier := 1, version := 1, totalLength := 1, sectionCount := 0, templateCount := 1, signer := 9, templates := [truckTemplate], weightDigests := [{ blob := 3, length := 98304, digest := 0 }],
    checks := [{ kind := 1, output := 0 }, { kind := 2, k := 16, firstLayer := 12, lastLayer := 12, output := 2, kernel := 0 },
      { kind := 2, k := 16, firstLayer := 30, lastLayer := 30, output := 4, kernel := 1 },
      { kind := 4, firstLayer := 45, lastLayer := 48, output := 6, kernel := 2 }, { kind := 5, output := 6, kernel := 0 }],
    tensors := [layer0Of camera, { format := 4, dims := [1, 68, 120, 256], tiles := 510, layer := 11 },
      { format := 4, dims := [1, 68, 120, 256], tiles := 510, layer := 12 }, { format := 4, dims := [1, 34, 60, 512], tiles := 255, layer := 29 },
      { format := 4, dims := [1, 34, 60, 512], tiles := 255, layer := 30 }, { format := 4, dims := [1, 34, 60, 512], tiles := 255, layer := 44 },
      { format := 0x0D, dims := [1000, 8], tiles := 8, layer := 48 }, { format := 2, dims := [128, 256, 3], tiles := 24, layer := 0 }],
    network := [stepsOf 7200 3400 [11] [(0, [{ layer := 11, first := 0, count := 5 }])],
      stepsOf 14112 6000 [29] [(0, [{ layer := 29, first := 0, count := 5 }])], stepsOf 21000 11000 [44] []],
    sentinel := [stepsOf 58000 26000 [] [], stepsOf 40000 20000 [] []],
    golden := [truckGolden] }
def truckPart : Partition := { criticality := 0, majorUs := 33333, qUs := 813, epoch := 0, mask := 0xFF, quota := 512 }
def truck : Dev := { up with
  sched := { parts := [(0, truckPart)] },
  plans := { loaded := [{ plan := truckPlan, active := true }] }
  streams := [(0, camera)]
  ports := [(0, { role := .tap, speed := 2 }), (2, { role := .out, speed := 2 })]
  slots := [(0, { requester := some 9 })]
  contexts := [(100, { state := .active, planId := 1, planVersion := 1, partition := 0, streams := [0], outPort := 2 })] }

/-! ### WellFormed: an ill-formed term for each check, which the check refuses, beside a well-formed one -/

def bigQueue : Path := .ring 0x100000000
def goodPacket : Packet := pk 0x0401 [] []
def inlShort : Packet := { goodPacket with inl := [] }
def payShort : Packet := { goodPacket with length := 80 }
def longRecord : Record := { rec7 with payload := List.replicate 29 0 }
def badMsg : TapPacket := { tap0 with segments := [] }
def badBit : EngineUpset := { part := .sum, row := 32, col := 0, bit := 560 }

theorem test_wf_accessSize : accessSize 8 = true ∧ accessSize 3 = false := by decide
theorem test_wf_path : Path.wf .mailbox = true ∧ bigQueue.wf = false := by decide
theorem test_wf_packet : goodPacket.wf = true ∧ inlShort.wf = false ∧ payShort.wf = false := by decide +kernel
theorem test_wf_packet_opcode : goodPacket.wfFor 0x0401 = true ∧ goodPacket.wfFor 0x0402 = false := by decide +kernel
theorem test_wf_record : rec7.wf = true ∧ longRecord.wf = false := by decide +kernel
theorem test_wf_buffer : bufferWf [0] = true ∧ ∀ l : List Byte, l.length = 67108993 →
    Instr.wf (.bulkTransferComplete 0 0 1 l 0) = false :=
  ⟨by decide, fun l h => by simp only [Instr.wf, bufferWf, h]; decide⟩
theorem test_wf_upsets : RunUpset.wf {} = true ∧ RunUpset.wf { tiles := [(0x100000000, 0, List.replicate 4096 0)] } = false ∧
    RunUpset.wf { tiles := [(0, 0, [0])] } = false := by decide +kernel
theorem test_wf_tap : tap0.wf = true ∧ badMsg.wf = false ∧
    ({ tap0 with segments := [{ line := 32768, offset := 0, data := [] }] } : TapPacket).wf = false := by decide +kernel
theorem test_wf_engine : (op1 none).wf = true ∧ ({ op1 none with aAddr := { off := 2 ^ 32 } } : EngineOp).wf = false ∧
    ({ op1 none with pair := 256 } : EngineOp).wf = false := by decide +kernel
theorem test_wf_upset : ({ badBit with bit := 559 } : EngineUpset).wf = true ∧ badBit.wf = false := by decide
theorem test_wf_accessor : Accessor.wf (.dma 287) = true ∧ Accessor.wf (.dma 288) = false := by decide
theorem test_wf_bundle : BundleInstr.wf (.dmaWait 15) = true ∧ BundleInstr.wf (.dmaWait 16) = false ∧
    BundleInstr.wf (.dmaStart 0 (.core 0 0) (.device .scratch 0) 1 (some (256, 1))) = false ∧ BundleInstr.wf (.signal 256 (.post 1)) = false ∧
    BundleInstr.wf (.loadLocal 0 1 false 257) = false := by decide
theorem test_wf_place : DmaPlace.wf (.core 0 0x7FFFF) = true ∧ DmaPlace.wf (.core 0 0x80000) = false ∧
    DmaPlace.wf (.device .scratch (2 ^ 48)) = false := by decide
theorem test_wf_candidate : Issued.wf { instr := .rejoin, fault := some (.illegal (2 ^ 32)) } = false ∧
    Instr.wf (.coreIssue 0 0 0 { instr := .rejoin } [{ slot := 0, instr := .dmaWait 16 }]) = false := by decide
theorem test_wf_reg : Reg.wf (.segTag 14239) = true ∧ Reg.wf (.segTag 14240) = false ∧ Reg.wf (.bar0 9 0x4000000 8) = false ∧
    Reg.wf (.bar0 9 0 3) = false := by decide +kernel
theorem test_wf_queue : Instr.wf (.pad 0 0x100000000) = false ∧ Instr.wf (.replyDoorbell 0 9 0x100000000 ⟨0, 8⟩) = false ∧
    Instr.wf (.verdictDoorbell 0 9 0x100000000 ⟨0, 8⟩) = false ∧ Instr.wf (.commandDoorbell 0 9 4 ⟨64, 8⟩ [inlShort]) = false ∧
    Instr.wf (.mboxGo 0 9 inlShort) = false := by decide +kernel
theorem test_wf_session : Instr.wf (.commandFinalReply 0 256 1) = false ∧ Instr.wf (.bulkTransferComplete 0 256 1 [] 0) = false ∧
    Instr.wf (.sessionConfirmTimeout 256) = false ∧ Instr.wf (.commandMirrorTimeout 256 1) = false ∧
    Instr.wf (.peerAnswerTimeout 256 1) = false := by decide +kernel
theorem test_wf_segment : Instr.wf (.segmentConversionComplete 0 14240) = false ∧ Instr.wf (.relocationComplete 0 14240) = false ∧
    Instr.wf (.segModeWrite 0 14240 0) = false := by decide +kernel
theorem test_wf_bar2 : Instr.wf (.bar2Write 0 9 0x100000000 ⟨0, 8⟩ ⟨true, false⟩) = false ∧ Instr.wf (.bar2Write 0 9 0 ⟨0, 3⟩ ⟨true, false⟩) = false ∧
    Instr.wf (.subjectCheckin 0 9 0 4096 0) = false := by decide +kernel
theorem test_wf_pad_record : Instr.wf (.evidencePad 0 7 0x0F rec7) = true ∧ Instr.wf (.evidencePad 0 7 6 rec7) = false := by decide +kernel
theorem test_wf_memory : Instr.wf (.memoryRead 0 .device 0x40000000000 0) = false ∧
    Instr.wf (.memoryWrite 0 .device 0 0 []) = false ∧ Instr.wf (.memoryWrite 0 .device 0x3FFFFFFFFFF 63 [1, 2]) = false ∧
    Instr.wf (.memoryRead 0 (.dma 288) 0 0) = false ∧ Instr.wf (.memoryRead 0 .device 0 64) = false := by decide +kernel
theorem test_wf_pages : Instr.wf (.scrubPage 0 0x1000000000) = false ∧ Instr.wf (.scrubVerifyRead 0x200000000000) = false ∧
    Instr.wf (.frameTableWindowStart 0 64 0) = false := by decide +kernel
theorem test_wf_frame_size : Instr.wf (.ethFrameReceive 0 0 63 false 0) = false ∧ Instr.wf (.ethFrameReceive 0 0 9217 false 0) = false ∧
    Instr.wf (.selftestSlice 0 3 0 true) = false := by decide +kernel
theorem test_wf_link : Instr.wf (.pcieLinkRetrain 0 5 16) = true ∧ Instr.wf (.pcieLinkRetrain 0 6 16) = false ∧
    Instr.wf (.pcieLinkRetrain 0 5 3) = false := by decide +kernel
theorem test_wf_signals : Instr.wf (.signalPost 0 0 0 256 1) = false ∧ Instr.wf (.signalWait 0 0 0 256 1) = false ∧
    Instr.wf (.signalTest 0 0 0 256 1) = false := by decide +kernel

/-! ### Figures of the manual -/

def digits : List Byte := [0x31, 0x32, 0x33, 0x34, 0x35, 0x36, 0x37, 0x38, 0x39]

/-- The check values of Tables 3.2 and 18.4. -/
theorem test_crc_check_values : crc64 digits = 0x995DC9BBDF1939FA ∧ crc32c digits = 0xE3069283 ∧ crcMsg digits = 0x1697D06A := by
  decide +kernel

/-- The example 'Coding one word' (11). -/
theorem test_coding_one_word : checkByte 3 = 0x0C ∧ readSyndrome 0x0B = .dataBit 1 ∧ readSyndrome 0x0C = .bad := by decide +kernel

/-- The example 'One HBM read from cluster 10' (05): channel 7, at stop 1. -/
theorem test_hbm_channel : hbmChannel (0x0000000123456000 / 4096) = 7 ∧ stopAt? 0x0000000123456000 = some 1 := by decide +kernel

/-- A reading of 7,799 is below 10 · F = 7,800 and fires PACE_LOW, and under TRACK with a guard of 8 % a cluster that reads 8,400 makes
the Steward raise VCORE by 5 mV (the example of 06). -/
def paced (m : W16) : Dev := { world with
  start := { world.start with released := true }
  pace := { gauges := (List.range 16).map fun c => (c, { min := if c = 3 then m else 9000 }) } }
theorem test_track_raises : (trackAdjust (paced 8400)).pace.target = 805 ∧ (trackAdjust (paced 8424)).pace.target = 800 := by decide +kernel

/-- The envelope of the bf16 example of 02: against r = 1.25 and S = 180.0, 1.3125 lies inside and 1.375 outside. -/
def envelopeBf16 : Envelope := { ea := 0x00008000, er := 0x3C008000, es := 0x3A1170A4, format := 8 }
theorem test_envelope_bf16 : judgeAll envelopeBf16 8 [0x3FA8] [{ bits := 0x3FA0, mag := 0x4066800000000000 }] = (false, false) ∧
    judgeAll envelopeBf16 8 [0x3FB0] [{ bits := 0x3FA0, mag := 0x4066800000000000 }] = (true, false) := by decide +kernel

/-- 'A periodic pulse programmed late' (13): 5 occurrences skipped, the result word, and 6 at 120.005 s. -/
def latePulse : Packet := pk 0x0405 (le [(1, 2), (1, 2), (2, 0), (4, 0), (6, 120)]) (le [(8, 1000000), (4, 100), (4, 0)])
theorem test_late_pulse : (bodyPulseSet 1 (.ring 4) latePulse (timed { now := ns 120004300000 })).1 = .ok 0x00000005004C4B40 ∧
    (pulseOf (bodyPulseSet 1 (.ring 4) latePulse (timed { now := ns 120005000000 })).2 2).n = 6 := by decide +kernel

/-- Ring slots for a 30 frames/s stream (04): 3 slots hold it, 2 lack one. -/
def ringNames : OpenNames := { names7 with streams := [0] }
def ringDev (slots : Nat) : Dev := { withCtx world ctx7 with
  plans := { loaded := [{ loaded5 with plan := { plan5 with templates := [{ template0 with deadlineUs := 40000 }] } }] }
  streams := [(0, { stream0 with periodUs := 33333, slots := slots })] }
theorem test_ring_slots : ringShort ringNames (ringDev 3) = none ∧ ((ringShort ringNames (ringDev 2)).map (·.amount)) = some 1 := by
  decide +kernel

/-- The example 'Cost of pairing for two kernels' (09). -/
theorem test_paired_demand : demand world part1 (stepsOf 2200000 900000 [] []) = 2200000 ∧
    demand world part1 (stepsOf 400000 1500000 [] []) = 3000000 := by decide +kernel

/-- The example 'Sizing one partition' (10): four contexts of 50 results/s, a window of 347.9 µs. -/
def sized : Dev := { world with
  sched := { parts := [(0, { part1 with criticality := 0, qUs := 625, majorUs := 20000 })] }
  plans := { loaded := [{ loaded5 with plan := { plan5 with
    templates := [{ template0 with partition := 0, deadlineUs := 40000, rate := 50000 }]
    checks := [{ kind := 2, output := 0, kernel := 0 }]
    network := [stepsOf 12000 6000 [] []] } }] }
  contexts := (List.range 4).map fun c => (c, { ctx7 with partition := 0 }) }
theorem test_sizing_one_partition : burst { template0 with deadlineUs := 40000, rate := 50000 } 625 = 4 ∧
    serviceLen sized 0 { part1 with criticality := 0, qUs := 625, majorUs := 20000 } = 3479 := by decide +kernel

/-- Tables 23.4 and 23.5, and the GOLDEN window of 121.2 µs. -/
theorem test_worked_windows : burst truckTemplate 813 = 3 ∧ serviceLen truck 0 truckPart = 5304 ∧ goldenLen truck 0 truckPart = 1212 ∧
    evidenceBytes truckPlan truckTemplate = 1939392 ∧ (layer0Of camera).tiles = 2025 := by decide +kernel

/-- PAIR_MISMATCH of core 26 is source 213 (23), that of core 21 source 173, word 5 bit 13 (16). -/
theorem test_source_numbers : sCore 26 5 = 213 ∧ sCore 21 5 = 173 ∧ 173 / 32 = 5 ∧ 173 % 32 = 13 := by decide

/-- The third PAIR_MISMATCH of core 21 within its window is severe: ERR_N, and attention class 1 (the example of 16). -/
def events (n : Nat) : Dev := { world with cal := { src := [(173, { srcDefault 173 with count := n, sticky := true })], errN := false, released := true } }
theorem test_third_event :
    (match exec (.sourceEvent 0 173 0 false 0) (st (events 2)) with
      | .next u => u.dev.cal.errN && decide (stickyWord u.dev 5 = 0x00002000) && (kfind? u.dev.attn.pending 1).isSome
      | _ => false) = true ∧
    (match exec (.sourceEvent 0 173 0 false 0) (st (events 1)) with
      | .next u => !u.dev.cal.errN && u.dev.attn.pending.isEmpty
      | _ => false) = true := by decide +kernel

/-- The example of 17: monitor 7's third check-in in a window of maximum 2 signals CHECKIN_TOO_MANY. -/
def watched7 (count : Nat) : Dev := { world with
  geyser := { now := sec 50 + ms 38 }
  watch := { monitors := [(7, { kind := 1, windowUs := 10000, minimum := 1, maximum := 2, start := sec 50, index := 3, count := count })] } }
theorem test_third_checkin : ((srcOf (countCheckin 7 (watched7 2)) 743).sticky) = true ∧ ((srcOf (countCheckin 7 (watched7 1)) 743).sticky) = false := by
  decide +kernel

/-- 'A deferred ENGINE slice' (20): in a window that closes 400 µs on, a slice of 200 µs fits at its opening, and not 250 µs later. -/
def sliceDev (now : Time) : Dev := { world with
  geyser := { now := now }
  sched := {}
  cores := { core := [(13, { window := some { partition := 0xFF, kind := .selftest, opens := 0, closes := us 400, ready := 0 } })] } }
theorem test_slice_fits : sliceFits 13 200 (sliceDev (us 2)) = true ∧ sliceFits 13 200 (sliceDev (us 250)) = false := by decide +kernel

/-- After power-on the device is in RESET, and a tick advances Geyser by GEY_INCR's reset value (Tables 12.2, 15.1). -/
theorem test_tick : (match step State.reset with | .next u => decide (u.dev.geyser.now = 0x0666666666) | _ => false) = true := by decide +kernel

/-- A queue is first in, first out: one step runs the front command and leaves the rest. -/
theorem test_queue_front :
    (match step { State.reset with pending := [.leaseExpiry, .managerIsolation] } with
      | .next u => decide (u.pending = [.managerIsolation])
      | _ => false) = true := by decide +kernel

/-! ### The hypotheses of the statements are met -/

/-- States and operands that meet the hypotheses of StepTakesTheFront, clause by clause. -/
theorem witness_StepTakesTheFront :
  (∃ s : State, s.pending = []) :=
  ⟨st up, by decide +kernel⟩

/-- States and operands that meet the hypotheses of CommandsComplete, clause by clause. -/
theorem witness_CommandsComplete :
  (∃ c : Instr, ∃ s : State, (∀ t w l o, c = .memoryRead t w l o → w = .device ∨ w = .fumarole → mapped s.dev w (64 * l + o) = true) ∧
    (∀ t w l o b, c = .memoryWrite t w l o b → w = .device ∨ w = .fumarole → mapped s.dev w (64 * l + o) = true)) ∧
  (∃ w : Accessor, ∃ a : Nat, ∃ s : State, (w = .device ∨ w = .fumarole) ∧ mapped s.dev w a = false) :=
  ⟨⟨.leaseExpiry, st world, (by intro t w l o h; cases h), (by intro t w l o b h; cases h)⟩,
   ⟨.device, 0x5F4000000, st world, by decide +kernel, by decide +kernel⟩⟩

/-- States and operands that meet the hypotheses of MemoryStaysCanonical, clause by clause. -/
theorem witness_MemoryStaysCanonical :
  (∃ s, ∃ u, Mem.wf s.mem = true ∧ step s = .next u) :=
  ⟨{ st up with mem := { words := [(8, 1)] } }, _, by decide +kernel, rfl⟩

/-- States and operands that meet the hypotheses of ResetLeaves, clause by clause. -/
theorem witness_ResetLeaves :
  (∃ n, n ≠ 0) :=
  ⟨1, by decide +kernel⟩

/-- States and operands that meet the hypotheses of FirstReplies, clause by clause. -/
theorem witness_FirstReplies :
  (∃ n : Nat, ∃ q : Nat, ∃ rq : Nat, ∃ k : Nat, ∃ p : Packet, ∃ a : Answer, ∃ code : W16, ∃ w : W64, ∃ d : Dev, ∃ u : Dev, ∃ r : Reply,
    ∃ i : Nat, (sessOf d n).closing = false ∧ (a = .ok w ∧ code = 0 ∨ a = .refuse code w) ∧
    r = { status := statusWord d code, opcode := p.opcode, flags := 2, counter := p.counter, tag := p.tag, result := w, check := r.check } ∧
    r.check = (if n = 0 then 0 else first16 (hmac (sessOf d n).kDh (leBytes 2 r.status.toNat ++ leBytes 2 p.opcode.toNat ++ leBytes 2 2 ++ [0, 0] ++ leBytes 8 p.counter.toNat ++ leBytes 8 p.tag.toNat ++ leBytes 8 w.toNat))) ∧
    rq = (queueOf d q).partner ∧ k = (queueOf d rq).producer + 1 ∧ u = firstReply n (.ring q) p (a, d) ∧ i ≠ rq) ∧
  (∃ n : Nat, ∃ q : Nat, ∃ rq : Nat, ∃ k : Nat, ∃ p : Packet, ∃ a : Answer, ∃ code : W16, ∃ w : W64, ∃ d : Dev, ∃ u : Dev, ∃ r : Reply,
    ∃ i : Nat, (sessOf d n).closing = false ∧ (a = .ok w ∧ code = 0 ∨ a = .refuse code w) ∧
    r = { status := statusWord d code, opcode := p.opcode, flags := 2, counter := p.counter, tag := p.tag, result := w, check := r.check } ∧
    r.check = (if n = 0 then 0 else first16 (hmac (sessOf d n).kDh (leBytes 2 r.status.toNat ++ leBytes 2 p.opcode.toNat ++ leBytes 2 2 ++ [0, 0] ++ leBytes 8 p.counter.toNat ++ leBytes 8 p.tag.toNat ++ leBytes 8 w.toNat))) ∧
    rq = (queueOf d q).partner ∧ k = (queueOf d rq).producer + 1 ∧ u = firstReply n (.ring q) p (a, d) ∧ i ≠ n) ∧
  (∃ n : Nat, ∃ p : Packet, ∃ a : Answer, ∃ code : W16, ∃ w : W64, ∃ d : Dev, ∃ u : Dev, (sessOf d n).closing = false ∧ (a = .ok w ∧
    code = 0 ∨ a = .refuse code w) ∧ u = firstReply n .mailbox p (a, d)) :=
  ⟨⟨0, 4, 5, _, { pk 0x0401 [] [] with counter := 1 }, .ok 7, 0, 7, ringed up, _, { status := statusWord (ringed up) 0, opcode := 0x0401, flags := 2, counter := 1, tag := 0, result := 7, check := 0 },
    4, by decide +kernel, .inl ⟨rfl, rfl⟩, rfl, (if_pos rfl).symm, rfl, rfl, rfl, by decide +kernel⟩,
   ⟨0, 4, 5, _, { pk 0x0401 [] [] with counter := 1 }, .ok 7, 0, 7, ringed up, _, { status := statusWord (ringed up) 0, opcode := 0x0401, flags := 2, counter := 1, tag := 0, result := 7, check := 0 },
    1, by decide +kernel, .inl ⟨rfl, rfl⟩, rfl, (if_pos rfl).symm, rfl, rfl, rfl, by decide +kernel⟩,
   ⟨0, pk 0x0401 [] [], .ok 7, 0, 7, up, _, by decide +kernel, .inl ⟨rfl, rfl⟩, rfl⟩⟩

/-- States and operands that meet the hypotheses of PacketRows, clause by clause. -/
theorem witness_PacketRows :
  (∃ n : Nat, ∃ path : Path, ∃ p : Packet, p.session.toNat = n ∧
    (p.length.toNat % 16 ≠ 0 ∨ p.length.toNat < 64 ∨ (if path = .mailbox then 3840 else 4096) < p.length.toNat)) ∧
  (∃ n : Nat, ∃ path : Path, ∃ p : Packet, ∃ d : Dev, p.session.toNat = n ∧ p.length.toNat % 16 = 0 ∧ 64 ≤ p.length.toNat ∧
    p.length.toNat ≤ (if path = .mailbox then 3840 else 4096) ∧ n ≤ 255 ∧ (∀ q, path = .ring q → (queueOf d q).owner = n) ∧
    (sessOf d n).isOpen = false) ∧
  (∃ n : Nat, ∃ path : Path, ∃ p : Packet, ∃ d : Dev, p.session.toNat = n ∧ p.length.toNat % 16 = 0 ∧ 64 ≤ p.length.toNat ∧
    p.length.toNat ≤ (if path = .mailbox then 3840 else 4096) ∧ n ≤ 255 ∧ (∀ q, path = .ring q → (queueOf d q).owner = n) ∧
    (sessOf d n).isOpen = true ∧ n ≠ 0 ∧ packetCheck (sessOf d n) p ≠ p.check) ∧
  (∃ n : Nat, ∃ path : Path, ∃ p : Packet, ∃ d : Dev, p.session.toNat = n ∧ p.length.toNat % 16 = 0 ∧ 64 ≤ p.length.toNat ∧
    p.length.toNat ≤ (if path = .mailbox then 3840 else 4096) ∧ n ≤ 255 ∧ (∀ q, path = .ring q → (queueOf d q).owner = n) ∧
    (sessOf d n).isOpen = true ∧ (n = 0 ∨ packetCheck (sessOf d n) p = p.check)) :=
  ⟨⟨1, .ring 4, { pk 0x0401 [] [] with length := 63 }, by decide +kernel, by decide +kernel⟩,
   ⟨1, .ring 4, pk 0x0401 [] [], { ringed up with sessions := [] }, five (by decide +kernel) ⟨(by intro q h; cases h; rfl), by decide +kernel⟩⟩,
   ⟨1, .ring 4, unsealed (ringed up) (pk 0x0401 [] []), ringed up, five (by decide +kernel) ⟨(by intro q h; cases h; rfl), by decide +kernel, by decide +kernel, unsealed_check _ _⟩⟩,
   ⟨1, .ring 4, sealed (ringed up) (pk 0x0401 [] []), ringed up, five (by decide +kernel) ⟨(by intro q h; cases h; rfl), by decide +kernel, .inr (sealed_check _ _)⟩⟩⟩

/-- States and operands that meet the hypotheses of DoorbellsAndMailbox, clause by clause. -/
theorem witness_DoorbellsAndMailbox :
  (∃ t : Time, ∃ rid : W16, ∃ n : Nat, ∃ v : W64, ∃ ps : List Packet, ∃ s : State, ∃ d : Dev, d = advance t s.dev ∧
    (slotOf d 0).requester ≠ some rid ∧ (slotOf d 1).requester ≠ some rid ∧ (queueOf d n).kind = 1 ∧ v.toNat % 64 = 0 ∧
    (queueOf d n).producer < v.toNat ∧ v.toNat ≤ (queueOf d n).consumer + 2 ^ (queueOf d n).exp ∧
    publishedTo (queueOf d n).exp (queueOf d n).producer ps = v.toNat) ∧
  (∃ t : Time, ∃ rid : W16, ∃ n : Nat, ∃ v : W64, ∃ s : State, ∃ d : Dev, d = advance t s.dev ∧ (slotOf d 0).requester ≠ some rid ∧
    (slotOf d 1).requester ≠ some rid ∧ (queueOf d n).kind = 2 ∧ (queueOf d n).consumer ≤ v.toNat ∧ v.toNat ≤ (queueOf d n).producer) ∧
  (∃ t : Time, ∃ rid : W16, ∃ n : Nat, ∃ v : W64, ∃ s : State, ∃ d : Dev, ∃ c : W32, d = advance t s.dev ∧
    (slotOf d 0).requester ≠ some rid ∧ (slotOf d 1).requester ≠ some rid ∧ (queueOf d n).kind = 5 ∧ (queueOf d n).consumer ≤ v.toNat ∧
    v.toNat ≤ (queueOf d n).producer ∧ c = BitVec.ofNat 32 (queueOf d n).owner) ∧
  (∃ t : Time, ∃ rid : W16, ∃ n : Nat, ∃ v : W64, ∃ s : State, ∃ d : Dev, d = advance t s.dev ∧ (slotOf d 0).requester ≠ some rid ∧
    (slotOf d 1).requester ≠ some rid ∧ ((queueOf d n).kind ≠ 5 ∨ v.toNat < (queueOf d n).consumer ∨ (queueOf d n).producer < v.toNat)) ∧
  (∃ rid : W16, ∃ k : Nat, ∃ s : State, (slotOf s.dev 0).requester ≠ some rid ∧ (slotOf s.dev 1).requester ≠ some rid ∧ k ≠ 8) ∧
  (∃ rid : W16, ∃ s : State, (slotOf s.dev 0).requester = some rid) ∧
  (∃ n : Nat, ∃ t : Time, ∃ rid : W16, ∃ p : Packet, ∃ s : State, ∃ d : Dev, packetComes p.opcode n t .mailbox p s d ∧ p.opcode ≠ 0 ∧
    (slotOf s.dev 0).requester ≠ some rid ∧ (slotOf s.dev 1).requester ≠ some rid) ∧
  (∃ rid : W16, ∃ s : State, (slotOf s.dev 0).requester ≠ some rid ∧ (slotOf s.dev 1).requester ≠ some rid ∧
    (stewardUp s.dev = false ∨ s.dev.front.mboxBusy = true)) ∧
  (∃ n : Nat, ∃ q : Nat, ∃ rq : Nat, ∃ k : Nat, ∃ t : Time, ∃ s : State, ∃ d : Dev, d = advance t s.dev ∧
    ringTakes n q rq { opcode := 0, flags := 0 } d ∧ stewardUp d = true ∧
    k = 2 ^ (queueOf d q).exp - (queueOf d q).producer % 2 ^ (queueOf d q).exp ∧ (queueOf d q).producer = (queueOf d q).consumer) :=
  ⟨⟨0, 9, 4, 64, [pk 0x0401 [] []], st (ringed up), _, rfl, by decide +kernel⟩,
   ⟨0, 9, 5, 0, st (ringed up), _, rfl, by decide +kernel⟩,
   ⟨0, 9, 6, 3, st { up with queues := { table := [(6, { kind := 5, exp := 6, owner := 7, producer := 3, consumer := 1 })] } }, _, _, rfl, five (by decide +kernel) rfl⟩,
   ⟨0, 9, 6, 4, st { up with queues := { table := [(6, { kind := 5, exp := 6, owner := 7, producer := 3, consumer := 1 })] } }, _, rfl, by decide +kernel⟩,
   ⟨9, 0, st {}, by decide +kernel⟩,
   ⟨9, st { up with slots := [(0, { requester := some 9 })] }, by decide +kernel⟩,
   ⟨0, 0, 9, { pk 0x0101 [] [] with session := 0 }, st (up), _,
    comes_mail 0x0101 (up) ({ pk 0x0101 [] [] with session := 0 }) (by decide +kernel), by decide +kernel⟩,
   ⟨9, st {}, by decide +kernel⟩,
   ⟨1, 4, 5, _, 0, st (ringed up), _, rfl, takes_of (by decide +kernel), by decide +kernel, rfl, by decide +kernel⟩⟩

/-- States and operands that meet the hypotheses of SessionCommands, clause by clause. -/
theorem witness_SessionCommands :
  (∃ n : Nat, ∃ t : Time, ∃ path : Path, ∃ p : Packet, ∃ s : State, ∃ d : Dev, packetComes 0x0101 n t path p s d) ∧
  (∃ n : Nat, ∃ t : Time, ∃ path : Path, ∃ p : Packet, ∃ s : State, ∃ d : Dev, packetComes 0x0102 n t path p s d ∧
    badSpec p 0 1 12 24 n (· == 0xFF) 0xFF (· % 4096 == 0) = none ∧ badSpec p 32 2 7 16 n (· == 0xFF) 0xFF (· % 4096 == 0) = none ∧
    (sessOf d n).rings = none ∧ ((d.queues.table.filter fun x => x.2.kind != 0).length + 1 < 1048576)) ∧
  (∃ n : Nat, ∃ t : Time, ∃ path : Path, ∃ p : Packet, ∃ s : State, ∃ d : Dev, ∃ cq : Nat, ∃ rq : Nat, packetComes 0x0103 n t path p s d ∧
    (sessOf d n).rings = some (cq, rq)) ∧
  (Config.sm2OnCurve (fill 64 []) = true → ∃ n : Nat, ∃ t : Time, ∃ path : Path, ∃ p : Packet, ∃ s : State, ∃ d : Dev, ∃ id : W128,
    ∃ ra : List Byte, ∃ want : Nat, ∃ k : List Byte, packetComes 0x0104 n t path p s d ∧
    id = BitVec.ofNat 128 (beNat (bytesAt (payloadOf p) 0 16)) ∧ ra = bytesAt (payloadOf p) 0x10 64 ∧
    want = beNat (bytesAt (payloadOf p) 0x50 16) ∧ badBuffer p 0x70 = none ∧ bufLen p 0x70 = 256 ∧ staticKey? id ra d = some k ∧
    (want = 0 ∨ want = Config.serial.toNat) ∧ Config.sm2OnCurve ra = true ∧ (openSessions d).length < 255) ∧
  (∃ n : Nat, ∃ t : Time, ∃ path : Path, ∃ p : Packet, ∃ s : State, ∃ d : Dev, packetComes 0x0105 n t path p s d ∧ awaiting d n = 0) :=
  ⟨⟨0, 0, .mailbox, { pk 0x0101 [] [] with session := 0 }, st (up), _,
    comes_mail 0x0101 (up) ({ pk 0x0101 [] [] with session := 0 }) (by decide +kernel)⟩,
   ⟨0, 0, .mailbox, { pk 0x0102 [] (spec 1 16 ++ spec 2 8) with session := 0 }, st (up), _,
    comes_mail 0x0102 (up) ({ pk 0x0102 [] (spec 1 16 ++ spec 2 8) with session := 0 }) (by decide +kernel), by decide +kernel⟩,
   ⟨0, 0, .mailbox, { pk 0x0103 [] [] with session := 0 }, st ({ up with sessions := [(0, { rings := some (4, 5) })] }), _, 4, 5,
    comes_mail 0x0103 ({ up with sessions := [(0, { rings := some (4, 5) })] }) ({ pk 0x0103 [] [] with session := 0 }) (by decide +kernel),
    rfl⟩,
   fun hc => ⟨0, 0, .ring 4, { pk 0x0104 [] (fill 0x70 [] ++ le [(8, 0x1000), (8, 256)]) with session := 0 },
    st (ringed0 { up with bonnet := { up.bonnet with fuseEn := true } }), _, _, fill 64 [], _, fill 64 [],
    comes_zero 0x0104 (ringed0 { up with bonnet := { up.bonnet with fuseEn := true } }) ({ pk 0x0104 [] (fill 0x70 [] ++ le [(8, 0x1000), (8, 256)]) with session := 0 }) (by decide +kernel),
    rfl, by decide +kernel, rfl, by decide +kernel, by decide +kernel, by decide +kernel, .inl (by decide +kernel), hc, by decide +kernel⟩,
   ⟨1, 0, .ring 4, sealed (ringed up) (pk 0x0105 [] []), st (ringed up), _,
    comes_ring 0x0105 (ringed up) (pk 0x0105 [] []) (by decide +kernel), by decide +kernel⟩⟩

/-- States and operands that meet the hypotheses of KeyAndAttentionCommands, clause by clause. -/
theorem witness_KeyAndAttentionCommands :
  (∃ n : Nat, ∃ t : Time, ∃ path : Path, ∃ p : Packet, ∃ s : State, ∃ d : Dev, packetComes 0x0106 n t path p s d ∧ badBuffer p 0 = none ∧
    bufLen p 0 = 192) ∧
  (∃ n : Nat, ∃ t : Time, ∃ path : Path, ∃ p : Packet, ∃ s : State, ∃ d : Dev, ∃ id : W128, ∃ inUse : Bool,
    ∃ root : Option (Nat × KeyEntry), ∃ key : Option (Nat × KeyEntry), packetComes 0x0107 n t path p s d ∧
    id = BitVec.ofNat 128 (beNat (bytesAt p.inl 0 16)) ∧ (root = (d.bonnet.authority.find? fun e => e.2.keyId == id && !e.2.revoked)) ∧
    (key = (d.bonnet.keys.find? fun e => e.2.keyId == id)) ∧
    (inUse = (d.plans.loaded.any (fun l => l.plan.signer == id) || d.sessions.any (fun e => e.1 != 0 && e.2.isOpen && e.2.keyId == id) || (root.isSome && (d.bonnet.authority.filter fun e => !e.2.revoked).length == 1)))) ∧
  (∃ n : Nat, ∃ t : Time, ∃ path : Path, ∃ p : Packet, ∃ s : State, ∃ d : Dev, packetComes 0x0108 n t path p s d ∧ badBuffer p 0 = none) ∧
  (∃ n : Nat, ∃ t : Time, ∃ path : Path, ∃ p : Packet, ∃ s : State, ∃ d : Dev, packetComes 0x0109 n t path p s d) ∧
  (∃ n : Nat, ∃ t : Time, ∃ path : Path, ∃ p : Packet, ∃ s : State, ∃ d : Dev, ∃ e : Dev, packetComes 0x010A n t path p s d ∧
    inl p 4 1 % 2 = 0 ∧
    e = { d with attn := { d.attn with pending := d.attn.pending.filter (fun c => !((inl p 4 1).testBit c.1 && decide (c.2.toNat ≤ inl p 0 4) && !(c.1 == 7 && inSafe d))), raises := 0 } }) :=
  ⟨⟨1, 0, .ring 4, sealed (ringed up) (pk 0x0106 [] (le [(8, 0x1000), (8, 192)])), st (ringed up), _,
    comes_ring 0x0106 (ringed up) (pk 0x0106 [] (le [(8, 0x1000), (8, 192)])) (by decide +kernel), by decide +kernel, by decide +kernel⟩,
   ⟨1, 0, .ring 4, sealed (ringed up) (pk 0x0107 [] []), st (ringed up), _, _, _, _, _,
    comes_ring 0x0107 (ringed up) (pk 0x0107 [] []) (by decide +kernel), rfl, rfl, rfl, rfl⟩,
   ⟨1, 0, .ring 4, sealed (ringed up) (pk 0x0108 [] (le [(8, 0x1000), (8, 512)])), st (ringed up), _,
    comes_ring 0x0108 (ringed up) (pk 0x0108 [] (le [(8, 0x1000), (8, 512)])) (by decide +kernel), by decide +kernel⟩,
   ⟨1, 0, .ring 4, sealed (ringed up) (pk 0x0109 [] []), st (ringed up), _,
    comes_ring 0x0109 (ringed up) (pk 0x0109 [] []) (by decide +kernel)⟩,
   ⟨1, 0, .ring 4, sealed (ringed up) (pk 0x010A [3, 0, 0, 0, 0x42] []), st (ringed up), _, _, comes_ring 0x010A (ringed up) (pk 0x010A [3, 0,
    0, 0, 0x42] []) (by decide +kernel), by decide +kernel, rfl⟩⟩

/-- States and operands that meet the hypotheses of PlanCommands, clause by clause. -/
theorem witness_PlanCommands :
  (∃ n : Nat, ∃ t : Time, ∃ path : Path, ∃ p : Packet, ∃ s : State, ∃ d : Dev, packetComes 0x0201 n t path p s d ∧ badBuffer p 0 = none ∧
    p.partition ≠ 0xFF ∧ (partOf? d p.partition.toNat).isSome = true) ∧
  (∃ n : Nat, ∃ t : Time, ∃ path : Path, ∃ p : Packet, ∃ s : State, ∃ d : Dev, ∃ id : W64, ∃ v : W64,
    ∃ l : LoadedPlan, packetComes 0x0202 n t path p s d ∧ id = BitVec.ofNat 64 (inl p 0 8) ∧ v = BitVec.ofNat 64 (inl p 8 8) ∧
    planOf? d id v = some l ∧ badPart p l.partition = none ∧ planInUse d id v = false ∧ l.active = true ∧
    awaits d [0x0203] (fun q => inl q 0 8 == id.toNat) = false ∧
    awaits d [0x0206] (fun q => pay q 0 8 == id.toNat || pay q 8 8 == id.toNat) = false) ∧
  (∃ w : AllocFor, ∃ d : Dev, ∃ a : Alloc, ∃ g, allocOf? d w = some a ∧ g ∈ allocSegs d a) ∧
  (∃ n : Nat, ∃ t : Time, ∃ path : Path, ∃ p : Packet, ∃ s : State, ∃ d : Dev, ∃ l : LoadedPlan,
    ∃ r : List LoadedPlan, packetComes 0x0203 n t path p s d ∧ badBuffer p 0 = none ∧ versionsOf d (BitVec.ofNat 64 (inl p 0 8)) = l :: r ∧
    badPart p l.partition = none ∧ (∃ x ∈ l :: r, x.active = true ∧ ∃ w ∈ x.plan.weightDigests, w.blob = BitVec.ofNat 32 (inl p 8 4) ∧
    w.length = bufLen p 0)) ∧
  (∃ n : Nat, ∃ t : Time, ∃ path : Path, ∃ p : Packet, ∃ s : State, ∃ d : Dev, ∃ parts : KMap Partition,
    ∃ c : AdmitConfig, packetComes 0x0204 n t path p s d ∧ (∀ i, i < (partEntries p).length → badEntry p i = none) ∧
    (∀ i e, (partEntries p)[i]? = some e → entryRefused i e d = none) ∧ parts = withParts p d.sched.parts ∧
    (p.partition = 0xFF ∨ (partEntries p).any (fun e => e.1 == p.partition.toNat) = true) ∧ clashEntry p parts = none ∧
    badTwoPhase p ((partEntries p).filterMap (fun e => partOf? d e.1) ++ (partEntries p).filterMap (·.2)) d = none ∧
    runAdmission { d with sched := { d.sched with parts := parts } } = .ok c) ∧
  (∃ n : Nat, ∃ t : Time, ∃ path : Path, ∃ p : Packet, ∃ s : State, ∃ d : Dev, ∃ m : W64,
    ∃ c : AdmitConfig, packetComes 0x0205 n t path p s d ∧ m = modeCores p ∧ m ≠ 0 ∧ modeSplit p &&& ~~~m = 0 ∧
    (∀ i, i < 64 → m.getLsbD i = true → isFenced d i = false) ∧
    (badTwoPhase p ((d.sched.parts.filter fun e => e.2.mask &&& m != 0).map (·.2)) d = none) ∧
    (∀ e ∈ partOrder d, e.2.criticality ≤ 1 → e.2.mask &&& modeSplit p = 0) ∧ runAdmission (withModes p d) = .ok c) ∧
  (∃ n : Nat, ∃ t : Time, ∃ path : Path, ∃ p : Packet, ∃ s : State, ∃ d : Dev, ∃ l : LoadedPlan, ∃ c : AdmitConfig,
    ∃ ps : List Nat, packetComes 0x0206 n t path p s d ∧ 1 ≤ pay p 16 2 ∧ pay p 16 2 ≤ 256 ∧
    versionsOf d (BitVec.ofNat 64 (pay p 0 8)) ≠ [] ∧ newestPlan? d (BitVec.ofNat 64 (pay p 8 8)) = some l ∧
    versionsOf d (BitVec.ofNat 64 (pay p 8 8)) ≠ [] ∧ badSwap p l d = none ∧
    (∀ e ∈ swapContexts p, awaits d [0x0306, 0x0307, 0x0308] (fun q => q.context == e.1) = false) ∧
    (ps = ((swapContexts p).map fun e => (ctxOf d e.1).partition).eraseDups) ∧ badTwoPhase p (ps.filterMap (partOf? d)) d = none ∧
    runAdmission (swapBindings (l.plan.identifier, l.plan.version) p d) = .ok c) :=
  ⟨⟨1, 0, .ring 4, sealed (world) (pkc 0x0201 1 0 [] (le [(8, 0x1000), (8, 256)])), st (world), _,
    comes_ring 0x0201 (world) (pkc 0x0201 1 0 [] (le [(8, 0x1000), (8, 256)])) (by decide +kernel), by decide +kernel⟩,
   ⟨1, 0, .ring 4, sealed (world) (pkc 0x0202 0xFF 0 (le [(8, 5), (8, 1)]) []), st (world), _, _, _, loaded5,
    comes_ring 0x0202 (world) (pkc 0x0202 0xFF 0 (le [(8, 5), (8, 1)]) []) (by decide +kernel), rfl, rfl, by decide +kernel⟩,
   ⟨.plan 5 1, { world with memctl := { allocs := [alloc0] } }, alloc0, 0, by decide +kernel, by decide +kernel⟩,
   ⟨1, 0, .ring 4, sealed (world) (pkc 0x0203 0xFF 0 (le [(8, 5), (4, 3)]) (le [(8, 0x1000), (8, 128)])), st (world), _, loaded5, [],
    comes_ring 0x0203 (world) (pkc 0x0203 0xFF 0 (le [(8, 5), (4, 3)]) (le [(8, 0x1000), (8, 128)])) (by decide +kernel), by decide +kernel⟩,
   ⟨1, 0, .ring 4, sealed (world) (pkc 0x0204 0xFF 0 (le [(4, 1000), (4, 20000000), (6, 0)]) (fill 64 (le [(1, 2), (1, 2), (2, 1), (4, 10000),
    (4, 500), (4, 0), (8, 0), (8, 0xF0), (4, 0)]))), st (world), _, _, _, comes_ring 0x0204 (world) (pkc 0x0204 0xFF 0 (le [(4, 1000), (4,
    20000000), (6, 0)]) (fill 64 (le [(1, 2), (1, 2), (2, 1), (4, 10000), (4, 500), (4, 0), (8, 0), (8, 0xF0), (4,
    0)]))) (by decide +kernel), by decide +kernel, entries_ok (by decide +kernel), rfl, by decide +kernel, by decide +kernel,
    by decide +kernel, cfg_ok (by decide +kernel)⟩,
   ⟨1, 0, .ring 4, sealed (world) (pkc 0x0205 0xFF 0 (le [(4, 1000), (4, 20000000), (6, 0)]) (le [(8, 0x10), (8, 0x10)])), st (world), _, _, _,
    comes_ring 0x0205 (world) (pkc 0x0205 0xFF 0 (le [(4, 1000), (4, 20000000), (6, 0)]) (le [(8, 0x10), (8, 0x10)])) (by decide +kernel),
    rfl, five (by decide +kernel) (cfg_ok (by decide +kernel))⟩,
   ⟨1, 0, .ring 4, sealed ({ withCtx world ctx7 with plans := { loaded := [loaded5, { loaded5 with plan := { plan5 with identifier := 6 } }] } }) (pkc 0x0206 0xFF 0 (le [(4,
    1000), (4, 20000000), (6, 0)]) (fill 48 (le [(8, 5), (8, 6), (2, 1), (14, 0), (4, 7), (2, 0)]))),
    st ({ withCtx world ctx7 with plans := { loaded := [loaded5, { loaded5 with plan := { plan5 with identifier := 6 } }] } }), _,
    { loaded5 with plan := { plan5 with identifier := 6 } }, _, _,
    comes_ring 0x0206 ({ withCtx world ctx7 with plans := { loaded := [loaded5, { loaded5 with plan := { plan5 with identifier := 6 } }] } }) (pkc 0x0206 0xFF 0 (le [(4,
    1000), (4, 20000000), (6, 0)]) (fill 48 (le [(8, 5), (8, 6), (2, 1), (14, 0), (4, 7), (2, 0)]))) (by decide +kernel), by decide +kernel, by decide +kernel, five (by decide +kernel) ⟨rfl,
    by decide +kernel, cfg_ok (by decide +kernel)⟩⟩⟩

/-- States and operands that meet the hypotheses of SubjectPortStreamCommands, clause by clause. -/
theorem witness_SubjectPortStreamCommands :
  (∃ n : Nat, ∃ t : Time, ∃ path : Path, ∃ p : Packet, ∃ s : State, ∃ d : Dev, ∃ i : Nat, packetComes 0x0301 n t path p s d ∧
    i = inl p 0 1 ∧ i ≤ 1) ∧
  (∃ n : Nat, ∃ t : Time, ∃ path : Path, ∃ p : Packet, ∃ s : State, ∃ d : Dev, ∃ i : Nat, packetComes 0x0302 n t path p s d ∧
    i = inl p 0 1 ∧ i ≤ 1 ∧ (slotOf d i).requester.isSome) ∧
  (∃ n : Nat, ∃ t : Time, ∃ path : Path, ∃ p : Packet, ∃ s : State, ∃ d : Dev, ∃ e : Dev, ∃ i : Nat, ∃ r : Nat,
    ∃ v : Nat, packetComes 0x0303 n t path p s d ∧ i = inl p 0 1 ∧ r = inl p 1 1 ∧ v = inl p 2 1 ∧ i ≤ 3 ∧ 1 ≤ r ∧ r ≤ 3 ∧ 1 ≤ v ∧ v ≤ 2 ∧
    (portOf d i).role = .none_ ∧ (r ≠ 2 ∨ inFabric d = true ∨ (∀ j, j < 4 → (portOf d j).role ≠ .fabric)) ∧
    e = { d with ports := kput d.ports i { portOf d i with role := if r = 1 then .tap else if r = 2 then .fabric else .out, speed := v }, geyser := { d.geyser with ports := kput d.geyser.ports i { ptpOf d i with announceAt := d.geyser.now } } }) ∧
  (∃ n : Nat, ∃ t : Time, ∃ path : Path, ∃ p : Packet, ∃ s : State, ∃ d : Dev, ∃ e : Dev, ∃ x : Stream, ∃ i : Nat,
    ∃ c : AdmitConfig, packetComes 0x0304 n t path p s d ∧ x = streamOfPacket p d.geyser.now ∧ i = pay p 0 2 ∧ x.grades < 4 ∧
    badStream p = none ∧ (partOf? d x.partition).isSome = true ∧ badPart p x.partition = none ∧ (portOf d x.port).role = .tap ∧
    streamOf? d i = none ∧ ((d.streams.filter fun y => y.2.port == x.port).length < 8) ∧
    (∀ y ∈ d.streams, y.2.port = x.port → y.2.dst ≠ x.dst ∨ y.2.udpPort ≠ x.udpPort ∨ y.2.ssrc ≠ x.ssrc) ∧
    e = { d with streams := kput d.streams i x } ∧ runAdmission e = .ok c) ∧
  (∃ n : Nat, ∃ t : Time, ∃ path : Path, ∃ p : Packet, ∃ s : State, ∃ d : Dev, ∃ x : Stream, ∃ i : Nat, packetComes 0x0305 n t path p s d ∧
    i = inl p 0 2 ∧ streamOf? d i = some x ∧ badPart p x.partition = none ∧ (∀ e ∈ d.contexts, e.2.state ≠ .closed → i ∉ e.2.streams) ∧
    x.opened = true) :=
  ⟨⟨1, 0, .ring 4, sealed (world) (pkc 0x0301 0xFF 0 [1, 0, 5] []), st (world), _, _, comes_ring 0x0301 (world) (pkc 0x0301 0xFF 0 [1, 0,
    5] []) (by decide +kernel), rfl, by decide +kernel⟩,
   ⟨1, 0, .ring 4, sealed (world) (pkc 0x0302 0xFF 0 [0] []), st (world), _, _,
    comes_ring 0x0302 (world) (pkc 0x0302 0xFF 0 [0] []) (by decide +kernel), rfl, by decide +kernel, by decide +kernel⟩,
   ⟨1, 0, .ring 4, sealed (world) (pkc 0x0303 0xFF 0 [3, 2, 1] []), st (world), _, _, _, _, _, comes_ring 0x0303 (world) (pkc 0x0303 0xFF 0 [3,
    2, 1] []) (by decide +kernel), rfl, rfl, rfl, by decide +kernel, by decide +kernel, five (by decide +kernel) rfl⟩,
   ⟨1, 0, .ring 4, sealed (world) (pkc 0x0304 0xFF 0 [] (fill 64 (le [(2, 1), (1, 0), (1, 1), (1, 8), (1, 0), (2, 0), (4, 2), (2, 5000), (1,
    96), (1, 1), (4, 7), (2, 64), (2, 64), (4, 20000), (4, 5000), (2, 8), (1, 1), (1, 0), (4, 0)]))), st (world), _, _, _, _, _,
    comes_ring 0x0304 (world) (pkc 0x0304 0xFF 0 [] (fill 64 (le [(2, 1), (1, 0), (1, 1), (1, 8), (1, 0), (2, 0), (4, 2), (2, 5000), (1,
    96), (1, 1), (4, 7), (2, 64), (2, 64), (4, 20000), (4, 5000), (2, 8), (1, 1), (1, 0), (4, 0)]))) (by decide +kernel), rfl, rfl, by decide +kernel, by decide +kernel, by decide +kernel, five (by decide +kernel) ⟨rfl, cfg_ok (by decide +kernel)⟩⟩,
   ⟨1, 0, .ring 4, sealed (world) (pkc 0x0305 0xFF 0 [0, 0] []), st (world), _, stream0, _, comes_ring 0x0305 (world) (pkc 0x0305 0xFF 0 [0,
    0] []) (by decide +kernel), rfl, by decide +kernel⟩⟩

/-- States and operands that meet the hypotheses of ContextCommands, clause by clause. -/
theorem witness_ContextCommands :
  (firstPlaces → ∃ n : Nat, ∃ t : Time, ∃ path : Path, ∃ p : Packet, ∃ s : State, ∃ d : Dev, ∃ e : Dev, ∃ o : OpenNames, ∃ ev : Nat,
    ∃ ch : Nat, ∃ c : AdmitConfig, ∃ cs : List PendingCommit, packetComes 0x0306 n t path p s d ∧ (pay p 0x32 2 < 2 ∧ pay p 0x52 2 < 2 ∧
    pay p 0x72 2 < 2) ∧ openNames p d = .ok o ∧ (ctxOf d p.context).state = .closed ∧
    awaits d [0x0307] (fun q => q.context == p.context) = false ∧ d.contexts.length < 65536 ∧ openRange p o d = none ∧
    openState p o d = none ∧ newContext p o d = (some (ev, ch), e) ∧ ringShort o e = none ∧ runAdmission e = .ok c ∧
    cs = commitsFor e d.geyser.now c (concerned e c [o.template.partition]) ∧ boundaryOf cs ≤ o.activation) ∧
  (∃ n : Nat, ∃ t : Time, ∃ path : Path, ∃ p : Packet, ∃ s : State, ∃ d : Dev, ∃ e : Dev, ∃ x : Context, packetComes 0x0307 n t path p s d ∧
    x = ctxOf d p.context ∧ x.state ≠ .closed ∧ x.state ≠ .draining ∧ badPart p x.partition = none ∧ ctxPending d p.context = false ∧
    e = journalCtx p.context (modCtx p.context (fun x => { x with state := .draining }) d)) ∧
  (∃ n : Nat, ∃ t : Time, ∃ path : Path, ∃ p : Packet, ∃ s : State, ∃ d : Dev, ∃ x : Context, ∃ q : Partition, ∃ act : Time,
    ∃ c : AdmitConfig, ∃ cs : List PendingCommit, packetComes 0x0308 n t path p s d ∧ x = ctxOf d p.context ∧ x.state = .suspended ∧
    badPart p x.partition = none ∧ ctxPending d p.context = false ∧ inl p 0 4 < 1000000000 ∧ act = ofSecNs (inl p 4 6) (inl p 0 4) ∧
    partOf? d x.partition = some q ∧ isBoundary q act = true ∧ d.geyser.now < act ∧
    runAdmission (modCtx p.context (fun x => { x with state := .active }) d) = .ok c ∧
    cs = commitsFor d d.geyser.now c (concerned (modCtx p.context (fun x => { x with state := .active }) d) c [x.partition]) ∧
    boundaryOf cs ≤ act) ∧
  (∃ n : Nat, ∃ t : Time, ∃ path : Path, ∃ p : Packet, ∃ s : State, ∃ d : Dev, ∃ x : Context, packetComes 0x0309 n t path p s d ∧
    x = ctxOf d p.context ∧ (x.state = .closed ∨ badPart p x.partition = none)) :=
  ⟨fun hc => ⟨1, 0, .ring 4, open7, st world, taken7, (new7 hc).choose, names7, 262144, 262208, _, _, comes7, by decide +kernel, names7_of, five (by decide +kernel) ⟨(new7 hc).choose_spec.1,
    (new7 hc).choose_spec.2.1, cfg_ok (new7 hc).choose_spec.2.2.1, rfl, (new7 hc).choose_spec.2.2.2⟩⟩,
   ⟨1, 0, .ring 4, sealed (withCtx world ctx7) (pkc 0x0307 0xFF 7 [] []), st (withCtx world ctx7), _, _, _,
    comes_ring 0x0307 (withCtx world ctx7) (pkc 0x0307 0xFF 7 [] []) (by decide +kernel), rfl, by decide +kernel, by decide +kernel,
    by decide +kernel, by decide +kernel, rfl⟩,
   ⟨1, 0, .ring 4, sealed (withCtx world { ctx7 with state := .suspended }) (pkc 0x0308 0xFF 7 (le [(4, 20000000), (6, 0)]) []),
    st (withCtx world { ctx7 with state := .suspended }), _, _, part1, _, _, _,
    comes_ring 0x0308 (withCtx world { ctx7 with state := .suspended }) (pkc 0x0308 0xFF 7 (le [(4, 20000000), (6,
    0)]) []) (by decide +kernel), rfl, by decide +kernel, by decide +kernel, by decide +kernel, by decide +kernel, rfl, by decide +kernel,
    by decide +kernel, by decide +kernel, cfg_ok (by decide +kernel), rfl, by decide +kernel⟩,
   ⟨1, 0, .ring 4, sealed (withCtx world ctx7) (pkc 0x0309 0xFF 7 [] []), st (withCtx world ctx7), _, _,
    comes_ring 0x0309 (withCtx world ctx7) (pkc 0x0309 0xFF 7 [] []) (by decide +kernel), rfl, by decide +kernel⟩⟩

/-- States and operands that meet the hypotheses of TimeCommands, clause by clause. -/
theorem witness_TimeCommands :
  (∃ n : Nat, ∃ t : Time, ∃ path : Path, ∃ p : Packet, ∃ s : State, ∃ d : Dev, packetComes 0x0401 n t path p s d) ∧
  (∃ n : Nat, ∃ t : Time, ∃ path : Path, ∃ p : Packet, ∃ s : State, ∃ d : Dev, packetComes 0x0402 n t path p s d) ∧
  (∃ n : Nat, ∃ t : Time, ∃ path : Path, ∃ p : Packet, ∃ s : State, ∃ d : Dev, packetComes 0x0403 n t path p s d ∧ inl p 0 4 < 1000000000) ∧
  (∃ n : Nat, ∃ t : Time, ∃ path : Path, ∃ p : Packet, ∃ s : State, ∃ d : Dev, packetComes 0x0404 n t path p s d ∧ pay p 1 1 < 8 ∧
    badPtp p = none ∧ (∀ i, i < 4 → pay p (8 + 4 * i) 1 ≠ 0 → (portOf d i).role = .tap ∨ (portOf d i).role = .fabric) ∧
    (((List.range 4).filter fun i => pay p (10 + 4 * i) 1 == 2).length ≤ 1)) ∧
  (∃ n : Nat, ∃ t : Time, ∃ path : Path, ∃ p : Packet, ∃ s : State, ∃ d : Dev, ∃ o : Nat, ∃ mode : Nat, ∃ start : Time, ∃ skip : Nat,
    ∃ x : Pulse, packetComes 0x0405 n t path p s d ∧ o = inl p 0 1 ∧ o ≤ 7 ∧ mode = inl p 1 1 ∧ (mode = 1 ∨ mode = 2) ∧
    inl p 4 4 < 1000000000 ∧ start = ofSecNs (inl p 8 6) (inl p 4 4) ∧ (mode = 1 → pay p 0 8 = 0 ∧ d.geyser.now < start) ∧
    (mode = 2 → 100 ≤ pay p 0 8 ∧ pay p 8 4 < pay p 0 8) ∧ 10 ≤ pay p 8 4 ∧ pulseRuns (pulseOf d o) = false ∧ skip = (if mode = 2 ∧
    start ≤ d.geyser.now then (d.geyser.now - start) / ns (pay p 0 8) + 1 else 0) ∧
    x = { mode := mode, run := true, stopped := (pulseOf d o).stopped, start := start, period := ns (pay p 0 8), width := ns (pay p 8 4), n := skip }) ∧
  (∃ n : Nat, ∃ t : Time, ∃ path : Path, ∃ p : Packet, ∃ s : State, ∃ d : Dev, ∃ o : Nat, packetComes 0x0406 n t path p s d ∧
    o = inl p 0 1 ∧ o ≤ 7) :=
  ⟨⟨1, 0, .ring 4, sealed (world) (pkc 0x0401 0xFF 0 [] []), st (world), _,
    comes_ring 0x0401 (world) (pkc 0x0401 0xFF 0 [] []) (by decide +kernel)⟩,
   ⟨1, 0, .ring 4, sealed (world) (pkc 0x0402 0xFF 0 [] []), st (world), _,
    comes_ring 0x0402 (world) (pkc 0x0402 0xFF 0 [] []) (by decide +kernel)⟩,
   ⟨1, 0, .ring 4, sealed (world) (pkc 0x0403 0xFF 0 (le [(4, 5)]) []), st (world), _, comes_ring 0x0403 (world) (pkc 0x0403 0xFF 0 (le [(4,
    5)]) []) (by decide +kernel), by decide +kernel⟩,
   ⟨1, 0, .ring 4, sealed (world) (pkc 0x0404 0xFF 0 [] (fill 64 (le [(1, 0), (1, 4), (1, 128), (1, 128), (1, 248), (1, 3), (2, 0), (4,
    0x0101), (12, 0), (4, 0), (4, 1000), (4, 20), (2, 4)]))), st (world), _,
    comes_ring 0x0404 (world) (pkc 0x0404 0xFF 0 [] (fill 64 (le [(1, 0), (1, 4), (1, 128), (1, 128), (1, 248), (1, 3), (2, 0), (4, 0x0101),
    (12, 0), (4, 0), (4, 1000), (4, 20), (2, 4)]))) (by decide +kernel), by decide +kernel⟩,
   ⟨1, 0, .ring 4, sealed (world) (pkc 0x0405 0xFF 0 [0, 2] (le [(8, 1000), (4, 100), (4, 0)])), st (world), _, _, _, _, _, _,
    comes_ring 0x0405 (world) (pkc 0x0405 0xFF 0 [0, 2] (le [(8, 1000), (4, 100), (4, 0)])) (by decide +kernel), rfl, by decide +kernel,
    rfl, by decide +kernel, by decide +kernel, rfl, by decide +kernel, by decide +kernel, by decide +kernel, by decide +kernel, rfl, rfl⟩,
   ⟨1, 0, .ring 4, sealed (world) (pkc 0x0406 0xFF 0 [7] []), st (world), _, _,
    comes_ring 0x0406 (world) (pkc 0x0406 0xFF 0 [7] []) (by decide +kernel), rfl, by decide +kernel⟩⟩

/-- States and operands that meet the hypotheses of FaultCommands, clause by clause. -/
theorem witness_FaultCommands :
  (∃ n : Nat, ∃ t : Time, ∃ path : Path, ∃ p : Packet, ∃ s : State, ∃ d : Dev, ∃ item : Nat, ∃ inst : Nat, ∃ index : Nat, ∃ x : DiagItem,
    ∃ r : List Byte × Nat, packetComes 0x0501 n t path p s d ∧ item = inl p 0 2 ∧ inst = inl p 2 2 ∧ index = inl p 4 4 ∧ 1 ≤ item ∧
    item ≤ 15 ∧ diagItem? item inst index d = some x ∧ badBuffer p 0 = none ∧ 16 + diagLead item ≤ bufLen p 0 ∧
    r = diagResponse item inst index (bufLen p 0) x) ∧
  (∃ n : Nat, ∃ t : Time, ∃ path : Path, ∃ p : Packet, ∃ s : State, ∃ d : Dev, ∃ i : Nat, packetComes 0x0502 n t path p s d ∧
    i = inl p 0 2 ∧ i ≤ 767 ∧ 1 ≤ inl p 2 1 ∧ inl p 3 1 ≤ 31 ∧ ((inl p 3 1).testBit 2 = true → i < 512 ∨ 766 ≤ i) ∧ 1 ≤ inl p 4 4 ∧
    inl p 4 4 ≤ 60000000 ∧ inl p 8 1 ≤ 1) ∧
  (∃ n : Nat, ∃ t : Time, ∃ path : Path, ∃ p : Packet, ∃ s : State, ∃ d : Dev, ∃ e : Dev, ∃ i : Nat, packetComes 0x0503 n t path p s d ∧
    i = inl p 0 2 ∧ i ≤ 767 ∧ 1 ≤ inl p 4 4 ∧ inl p 4 4 ≤ 50 ∧ (∀ y ∈ d.cal.src, y.2.force = false) ∧
    e = pump (forceClear i (advance (d.geyser.now + us (inl p 4 4)) (forceSet i d)))) ∧
  (∃ n : Nat, ∃ t : Time, ∃ path : Path, ∃ p : Packet, ∃ x : Packet, ∃ s : State, ∃ d : Dev, x = { p with inl := 1 :: p.inl.drop 1 } ∧
    packetComes 0x0504 n t path x s d) ∧
  (∃ n : Nat, ∃ t : Time, ∃ path : Path, ∃ p : Packet, ∃ x : Packet, ∃ s : State, ∃ d : Dev,
    ∃ e : Dev, x = { p with inl := 2 :: p.inl.drop 1 } ∧ packetComes 0x0504 n t path x s d ∧
    e = errUpdate { d with cal := { d.cal with hold := false } }) :=
  ⟨⟨1, 0, .ring 4, sealed (world) (pkc 0x0501 0xFF 0 [1] (le [(8, 0x1000), (8, 256)])), st (world), _, _, _, _, _, _,
    comes_ring 0x0501 (world) (pkc 0x0501 0xFF 0 [1] (le [(8, 0x1000), (8, 256)])) (by decide +kernel), rfl, rfl, rfl, by decide +kernel,
    by decide +kernel, got (by decide +kernel), by decide +kernel, by decide +kernel, rfl⟩,
   ⟨1, 0, .ring 4, sealed (world) (pkc 0x0502 0xFF 0 (le [(2, 767), (1, 1), (1, 4), (4, 1000), (1, 1)]) []), st (world), _, _,
    comes_ring 0x0502 (world) (pkc 0x0502 0xFF 0 (le [(2, 767), (1, 1), (1, 4), (4, 1000), (1, 1)]) []) (by decide +kernel), rfl, by decide +kernel⟩,
   ⟨1, 0, .ring 4, sealed (world) (pkc 0x0503 0xFF 0 (le [(2, 5), (2, 0), (4, 50)]) []), st (world), _, _, _,
    comes_ring 0x0503 (world) (pkc 0x0503 0xFF 0 (le [(2, 5), (2, 0), (4, 50)]) []) (by decide +kernel), rfl, by decide +kernel,
    by decide +kernel, by decide +kernel, by decide +kernel, rfl⟩,
   ⟨1, 0, .ring 4, sealed (world) (pkc 0x0504 0xFF 0 [1] []), sealed world (pkc 0x0504 0xFF 0 [1] []), st (world), _, rfl,
    comes_ring 0x0504 (world) (pkc 0x0504 0xFF 0 [1] []) (by decide +kernel)⟩,
   ⟨1, 0, .ring 4, sealed (world) (pkc 0x0504 0xFF 0 [2] []), sealed world (pkc 0x0504 0xFF 0 [2] []), st (world), _, _, rfl,
    comes_ring 0x0504 (world) (pkc 0x0504 0xFF 0 [2] []) (by decide +kernel), rfl⟩⟩

/-- States and operands that meet the hypotheses of WatchAndMaintenanceCommands, clause by clause. -/
theorem witness_WatchAndMaintenanceCommands :
  (∃ n : Nat, ∃ t : Time, ∃ path : Path, ∃ p : Packet, ∃ s : State, ∃ d : Dev, packetComes 0x0505 n t path p s d ∧ 1000 ≤ inl p 0 4 ∧
    inl p 0 4 ≤ 10000000 ∧ 1 ≤ inl p 4 4 ∧ inl p 4 4 + 500 ≤ inl p 0 4) ∧
  (∃ n : Nat, ∃ t : Time, ∃ path : Path, ∃ p : Packet, ∃ s : State, ∃ d : Dev, ∃ m : Nat, packetComes 0x0506 n t path p s d ∧
    m = pay p 0 2 ∧ m ≤ 4095 ∧ 1 ≤ pay p 2 1 ∧ pay p 2 1 ≤ 2 ∧ 1000 ≤ pay p 4 4 ∧ pay p 4 4 ≤ 60000000 ∧ 1 ≤ pay p 10 2 ∧
    pay p 8 2 ≤ pay p 10 2) ∧
  (∃ n : Nat, ∃ t : Time, ∃ path : Path, ∃ p : Packet, ∃ s : State, ∃ d : Dev, ∃ m : Nat, ∃ x : Monitor, packetComes 0x0507 n t path p s d ∧
    m = inl p 0 2 ∧ m ≤ 4095 ∧ kfind? d.watch.monitors m = some x) ∧
  (∃ n : Nat, ∃ t : Time, ∃ path : Path, ∃ p : Packet, ∃ s : State, ∃ d : Dev, ∃ v : Nat,
    ∃ c : AdmitConfig, packetComes 0x0601 n t path p s d ∧ v = inl p 0 2 ∧ 10 ≤ v ∧ v ≤ 600 ∧
    runAdmission { d with memctl := { d.memctl with passSec := v } } = .ok c) ∧
  (∃ n : Nat, ∃ t : Time, ∃ path : Path, ∃ p : Packet, ∃ s : State, ∃ d : Dev, ∃ mv : Nat, packetComes 0x0801 n t path p s d ∧
    mv = inl p 2 2 ∧ inl p 0 1 = 1 ∧ inl p 1 1 = 0 ∧ 720 ≤ mv ∧ mv ≤ 900 ∧ mv % 5 = 0) ∧
  (∃ n : Nat, ∃ t : Time, ∃ path : Path, ∃ p : Packet, ∃ s : State, ∃ d : Dev, packetComes 0x0801 n t path p s d ∧ inl p 0 1 = 2 ∧
    2 ≤ inl p 1 1 ∧ inl p 1 1 ≤ 20 ∧ inl p 2 2 = 0) ∧
  (∃ n : Nat, ∃ t : Time, ∃ path : Path, ∃ p : Packet, ∃ s : State, ∃ d : Dev, packetComes 0x0802 n t path p s d ∧ badBuffer p 0 = none) ∧
  (∃ n : Nat, ∃ t : Time, ∃ path : Path, ∃ p : Packet, ∃ s : State, ∃ d : Dev, packetComes 0x0803 n t path p s d ∧ inl p 0 4 = 0x5741524D) ∧
  (∃ n : Nat, ∃ t : Time, ∃ path : Path, ∃ p : Packet, ∃ s : State, ∃ d : Dev, packetComes 0x0804 n t path p s d ∧
    inl p 0 8 = 0x4649454C444C4F43) :=
  ⟨⟨1, 0, .ring 4, sealed (world) (pkc 0x0505 0xFF 0 (le [(4, 1000), (4, 500)]) []), st (world), _,
    comes_ring 0x0505 (world) (pkc 0x0505 0xFF 0 (le [(4, 1000), (4, 500)]) []) (by decide +kernel), by decide +kernel⟩,
   ⟨1, 0, .ring 4, sealed (world) (pkc 0x0506 0xFF 0 [] (le [(2, 4095), (1, 1), (1, 0), (4, 1000), (2, 0), (2, 1), (4, 0)])), st (world), _, _,
    comes_ring 0x0506 (world) (pkc 0x0506 0xFF 0 [] (le [(2, 4095), (1, 1), (1, 0), (4, 1000), (2, 0), (2, 1), (4,
    0)])) (by decide +kernel), rfl, by decide +kernel⟩,
   ⟨1, 0, .ring 4, sealed ({ world with watch := { monitors := [(9, { kind := 1, windowUs := 1000, minimum := 0, maximum := 1, start := 0 })] } }) (pkc 0x0507 0xFF 0 [9,
    0] []), st ({ world with watch := { monitors := [(9, { kind := 1, windowUs := 1000, minimum := 0, maximum := 1, start := 0 })] } }), _,
    _, { kind := 1, windowUs := 1000, minimum := 0, maximum := 1, start := 0 }, comes_ring 0x0507 ({ world with watch := { monitors := [(9, { kind := 1, windowUs := 1000, minimum := 0, maximum := 1, start := 0 })] } }) (pkc 0x0507 0xFF 0 [9,
    0] []) (by decide +kernel), rfl, by decide +kernel, by decide +kernel⟩,
   ⟨1, 0, .ring 4, sealed (world) (pkc 0x0601 0xFF 0 [60, 0] []), st (world), _, _, _, comes_ring 0x0601 (world) (pkc 0x0601 0xFF 0 [60,
    0] []) (by decide +kernel), rfl, by decide +kernel, by decide +kernel, cfg_ok (by decide +kernel)⟩,
   ⟨1, 0, .ring 4, sealed (world) (pkc 0x0801 0xFF 0 (le [(1, 1), (1, 0), (2, 900)]) []), st (world), _, _,
    comes_ring 0x0801 (world) (pkc 0x0801 0xFF 0 (le [(1, 1), (1, 0), (2, 900)]) []) (by decide +kernel), rfl, by decide +kernel⟩,
   ⟨1, 0, .ring 4, sealed (world) (pkc 0x0801 0xFF 0 [2, 20] []), st (world), _, comes_ring 0x0801 (world) (pkc 0x0801 0xFF 0 [2,
    20] []) (by decide +kernel), by decide +kernel⟩,
   ⟨1, 0, .ring 4, sealed (world) (pkc 0x0802 0xFF 0 [] (le [(8, 0x1000), (8, 256)])), st (world), _,
    comes_ring 0x0802 (world) (pkc 0x0802 0xFF 0 [] (le [(8, 0x1000), (8, 256)])) (by decide +kernel), by decide +kernel⟩,
   ⟨1, 0, .ring 4, sealed (world) (pkc 0x0803 0xFF 0 (le [(4, 0x5741524D)]) []), st (world), _,
    comes_ring 0x0803 (world) (pkc 0x0803 0xFF 0 (le [(4, 0x5741524D)]) []) (by decide +kernel), by decide +kernel⟩,
   ⟨1, 0, .ring 4, sealed (world) (pkc 0x0804 0xFF 0 (le [(8, 0x4649454C444C4F43)]) []), st (world), _,
    comes_ring 0x0804 (world) (pkc 0x0804 0xFF 0 (le [(8, 0x4649454C444C4F43)]) []) (by decide +kernel), by decide +kernel⟩⟩

/-- States and operands that meet the hypotheses of FabricCommands, clause by clause. -/
theorem witness_FabricCommands :
  (∃ n : Nat, ∃ t : Time, ∃ path : Path, ∃ p : Packet, ∃ s : State, ∃ d : Dev, ∃ a : Accepted, packetComes 0x0701 n t path p s d ∧
    joinPorts p < 16 ∧ badJoin p = none ∧ inFabric d = false ∧ anyContext d = false ∧ joining? d = none ∧ (∃ i, i < 4 ∧
    (joinPorts p).testBit i = true ∧ (portOf d i).role = .fabric) ∧
    a = { session := n, packet := p, path := path, due := d.geyser.now, loaded := decide (pay p 8 1 = 1), done := BitVec.ofNat 64 (pay p 9 1) }) ∧
  (∃ r : Nat, ∃ p : Packet, ∃ f : Fabric, ∃ g : Fabric, g = joinState r p f) ∧
  (∃ n : Nat, ∃ t : Time, ∃ path : Path, ∃ p : Packet, ∃ s : State, ∃ d : Dev, packetComes 0x0702 n t path p s d ∧ inFabric d = true ∧
    mappedHere d = false ∧ (d.fabric.role ≠ 1 ∨ othersInService d = false)) ∧
  (Config.freeNat 0 % 2 = 1 → ∃ n : Nat, ∃ t : Time, ∃ path : Path, ∃ p : Packet, ∃ s : State, ∃ d : Dev, ∃ e : Dev, ∃ target : Nat,
    ∃ own : Bool, ∃ moves : Bool, packetComes 0x0703 n t path p s d ∧ target = inl p 0 1 ∧ inFabric d = true ∧ d.fabric.role = 1 ∧
    target ≤ 63 ∧ own = ((ctxOf d p.context).state != .closed) ∧ moves = (own && target != d.fabric.device) ∧
    (own = true ∨ (kfind? d.fabric.map p.context.toNat).isSome ∨ p.context ∈ d.fabric.unplaced) ∧
    (own = true → badPart p (ctxOf d p.context).partition = none ∧ ctxPending d p.context = false ∧ (ctxOf d p.context).state ≠ .draining ∧
    awaits d [0x0703] (fun q => q.context == p.context) = false) ∧ (∃ m, kfind? d.fabric.members target = some m ∧ m.inService = true) ∧
    (siblingFits d).1 = true ∧
    e = { d with free := d.free + 1, fabric := { d.fabric with unplaced := d.fabric.unplaced.filter (· != p.context) } }) ∧
  (∃ n : Nat, ∃ t : Time, ∃ path : Path, ∃ p : Packet, ∃ s : State, ∃ d : Dev, packetComes 0x0704 n t path p s d) :=
  ⟨⟨1, 0, .ring 4, sealed ({ world with ports := [(2, { role := .fabric })] }) (pkc 0x0701 0xFF 0 [] (fill 64 (le [(8, 3), (1, 3), (1, 2), (1,
    0), (1, 4), (4, 0), (16, 0)]))), st ({ world with ports := [(2, { role := .fabric })] }), _, _,
    comes_ring 0x0701 ({ world with ports := [(2, { role := .fabric })] }) (pkc 0x0701 0xFF 0 [] (fill 64 (le [(8, 3), (1, 3), (1, 2), (1,
    0), (1, 4), (4, 0), (16, 0)]))) (by decide +kernel), by decide +kernel, five (by decide +kernel) rfl⟩,
   ⟨3, pk 0x0701 [] [], {}, _, rfl⟩,
   ⟨1, 0, .ring 4, sealed (worker world) (pkc 0x0702 0xFF 0 [] []), st (worker world), _,
    comes_ring 0x0702 (worker world) (pkc 0x0702 0xFF 0 [] []) (by decide +kernel), by decide +kernel⟩,
   fun hc => ⟨1, 0, .ring 4,
    sealed ({ managed world with fabric := { (managed world).fabric with unplaced := [7] } }) (pkc 0x0703 0xFF 7 [2] []),
    st ({ managed world with fabric := { (managed world).fabric with unplaced := [7] } }), _, _, _, _, _,
    comes_ring 0x0703 ({ managed world with fabric := { (managed world).fabric with unplaced := [7] } }) (pkc 0x0703 0xFF 7 [2] []) (by decide +kernel),
    rfl, by decide +kernel, by decide +kernel, by decide +kernel, rfl, rfl, by decide +kernel, by decide +kernel, by decide +kernel,
    (by show (Config.freeNat 0 % 2 == 1) = true; rw [hc]; rfl), rfl⟩,
   ⟨1, 0, .ring 4, sealed (world) (pkc 0x0704 0xFF 0 [] []), st (world), _,
    comes_ring 0x0704 (world) (pkc 0x0704 0xFF 0 [] []) (by decide +kernel)⟩⟩

/-- States and operands that meet the hypotheses of FinalReplies, clause by clause. -/
theorem witness_FinalReplies :
  (∃ t : Time, ∃ n : Nat, ∃ c : W64, ∃ s : State, ∃ d : Dev, ∃ a : Accepted, ∃ o : W16 × W64, d = advance t s.dev ∧
    acceptedOf? d n c = some a ∧ o = a.outcome.getD (cDone, a.done) ∧ a.loaded = true ∧ a.mirror = none ∧ a.due ≤ d.geyser.now ∧
    stewardUp d = true) ∧
  (∃ t : Time, ∃ n : Nat, ∃ c : W64, ∃ s : State, ∃ d : Dev, ∃ a : Accepted, d = advance t s.dev ∧ acceptedOf? d n c = some a ∧
    (a.loaded = false ∨ a.mirror.isSome ∨ d.geyser.now < a.due ∨ stewardUp d = false)) ∧
  (∃ a : Accepted, ∃ code : W16, ∃ w : W64, ∃ d : Dev, ∃ u : Dev, ∃ q : Nat, ∃ rq : Nat, (sessOf d a.session).rings = some (q, rq) ∧
    (sessOf d a.session).closing = false ∧ u = finalReply a code w d) ∧
  (∃ a : Accepted, ∃ code : W16, ∃ w : W64, ∃ d : Dev, ∃ u : Dev, (sessOf d a.session).rings = none ∧ u = finalReply a code w d) :=
  ⟨⟨0, 1, 1, st { world with accepted := [{ session := 1, packet := pk 0x0601 [] [], path := .ring 4 }] }, _, { session := 1, packet := pk 0x0601 [] [], path := .ring 4 },
    _, rfl, by decide +kernel, rfl, by decide +kernel⟩,
   ⟨0, 1, 1, st { world with accepted := [{ session := 1, packet := pk 0x0601 [] [], path := .ring 4, loaded := false }] }, _, { session := 1, packet := pk 0x0601 [] [], path := .ring 4, loaded := false },
    rfl, by decide +kernel, by decide +kernel⟩,
   ⟨{ session := 1, packet := pk 0x0601 [] [], path := .ring 4 }, 0, 7, world, _, 4, 5, by decide +kernel, by decide +kernel, rfl⟩,
   ⟨{ session := 0, packet := pk 0x0601 [] [], path := .ring 4 }, 0, 7, world, _, by decide +kernel, rfl⟩⟩

/-- States and operands that meet the hypotheses of BulkTransfers, clause by clause. -/
theorem witness_BulkTransfers :
  (∃ t : Time, ∃ n : Nat, ∃ c : W64, ∃ s : State, ∃ d : Dev, ∃ a : Accepted, d = advance t s.dev ∧ acceptedOf? d n c = some a ∧
    a.packet.opcode.toNat ∈ [0x0106, 0x0201, 0x0203, 0x0802] ∧ a.loaded = false ∧ a.outcome = none ∧ a.mirror = none ∧ stewardUp d = true ∧
    d.board.linkUp = true ∧ (hostChannel? d).isSome = true) ∧
  (∃ a : Accepted, ∃ p : Plan, ∃ d : Dev, ∃ c : AdmitConfig, ∃ part : Nat, ∃ e : Dev, ∃ g : Dev, part = a.packet.partition.toNat ∧
    e = { d with plans := { d.plans with loaded := d.plans.loaded ++ [{ plan := p, partition := part, order := d.plans.nextOrder, digest := planDigest p, since := d.geyser.now + ms 1 }], nextOrder := d.plans.nextOrder + 1 } } ∧
    runAdmission e = .ok c ∧
    g = allocate (.tensors p.identifier p.version) part .ephemeral false (scratchBytes p) (land (.plan p.identifier p.version) part (p.totalLength + 128) e)) ∧
  (∃ a : Accepted, ∃ p : Plan, ∃ d : Dev,
    ∃ f : Shortfall, runAdmission { d with plans := { d.plans with loaded := d.plans.loaded ++ [{ plan := p, partition := a.packet.partition.toNat, order := d.plans.nextOrder, digest := planDigest p, since := d.geyser.now + ms 1 }], nextOrder := d.plans.nextOrder + 1 } } = .error f) ∧
  (∃ l : LoadedPlan, l.active = false) ∧
  (∃ p : Plan, ∃ l : LoadedPlan, l.active = true ∧ planDigest p ≠ l.digest) ∧
  (∃ a : Accepted, ∃ b : List Byte, ∃ d : Dev, ∃ id : W64, ∃ blob : W32, ∃ part : Nat, ∃ l : LoadedPlan,
    ∃ r : List LoadedPlan, id = BitVec.ofNat 64 (inl a.packet 0 8) ∧ blob = BitVec.ofNat 32 (inl a.packet 8 4) ∧ versionsOf d id = l :: r ∧
    part = l.partition ∧ bufLen a.packet 0 ≠ b.length) ∧
  (∃ a : Accepted, ∃ b : List Byte, ∃ d : Dev, ∃ id : W64, ∃ blob : W32, ∃ part : Nat, ∃ l : LoadedPlan,
    ∃ r : List LoadedPlan, id = BitVec.ofNat 64 (inl a.packet 0 8) ∧ blob = BitVec.ofNat 32 (inl a.packet 8 4) ∧ versionsOf d id = l :: r ∧
    part = l.partition ∧ bufLen a.packet 0 = b.length ∧ (∀ x ∈ d.plans.blobs, x.id ≠ blob) ∧
    matching d id blob b.length (Config.sm3 b) = []) ∧
  (∃ a : Accepted, ∃ b : List Byte, ∃ d : Dev, ∃ id : W64, ∃ blob : W32, ∃ part : Nat, ∃ l : LoadedPlan,
    ∃ r : List LoadedPlan, id = BitVec.ofNat 64 (inl a.packet 0 8) ∧ blob = BitVec.ofNat 32 (inl a.packet 8 4) ∧ versionsOf d id = l :: r ∧
    part = l.partition ∧ bufLen a.packet 0 = b.length ∧ (∀ x ∈ d.plans.blobs, x.id ≠ blob) ∧
    matching d id blob b.length (Config.sm3 b) ≠ []) :=
  ⟨⟨0, 1, 1, st { world with accepted := [{ session := 1, packet := pk 0x0203 [] [], path := .ring 4, loaded := false }] }, _, { session := 1, packet := pk 0x0203 [] [], path := .ring 4, loaded := false },
    rfl, by decide +kernel⟩,
   ⟨{ session := 1, packet := pkc 0x0201 1 0 [] [], path := .ring 4 }, { plan5 with version := 2 }, world, _, _, _, _, rfl, rfl,
    cfg_ok (by decide +kernel), rfl⟩,
   ⟨{ session := 1, packet := pkc 0x0201 1 0 [] [], path := .ring 4 }, { plan5 with version := 2 },
    { withCtx world ctx7 with sched := { parts := [(1, { part1 with quota := 0 })] } }, _, short_of (by decide +kernel)⟩,
   ⟨{ loaded5 with active := false }, by decide +kernel⟩,
   ⟨plan5, { loaded5 with digest := planDigest plan5 + 1 }, rfl, not_succ _⟩,
   ⟨{ session := 1, packet := pkc 0x0203 0xFF 0 (le [(8, 5), (4, 3)]) (le [(8, 0x1000), (8, 128)]), path := .ring 4 }, [], world, _, _, _,
    loaded5, [], rfl, rfl, by decide +kernel, rfl, by decide +kernel⟩,
   ⟨{ session := 1, packet := pkc 0x0203 0xFF 0 (le [(8, 5), (4, 3)]) (le [(8, 0x1000), (8, 0)]), path := .ring 4 }, [], world, _, _, _,
    loaded5, [], rfl, rfl, by decide +kernel, rfl, by decide +kernel⟩,
   ⟨{ session := 1, packet := pkc 0x0203 0xFF 0 (le [(8, 5), (4, 3)]) (le [(8, 0x1000), (8, 128)]), path := .ring 4 }, List.replicate 128 1,
    { world with plans := { loaded := [digested] } }, _, _, _, digested, [], rfl, rfl, rfl, rfl, by decide +kernel, by decide +kernel,
    matches_one rfl rfl rfl⟩⟩

/-- States and operands that meet the hypotheses of SubjectWrites, clause by clause. -/
theorem witness_SubjectWrites :
  (∃ t : Time, ∃ who : W16, ∃ c : W32, ∃ size : Nat, ∃ s : State, ∃ d : Dev, ∃ e : Dev, ∃ x : Context, ∃ q : Queue, d = advance t s.dev ∧
    x = ctxOf s.dev c ∧ q = queueOf s.dev x.evQueue ∧ x.state ≠ .closed ∧
    e = modSlot x.slot (fun k => { k with ingressLevel := ingressAt (slotOf d x.slot) d.geyser.now - size * sec 1, ingressAt := d.geyser.now }) d ∧
    boundTo s.dev x.slot who = false) ∧
  (∃ t : Time, ∃ who : W16, ∃ c : W32, ∃ size : Nat, ∃ s : State, ∃ d : Dev, ∃ e : Dev, ∃ x : Context, ∃ q : Queue, d = advance t s.dev ∧
    x = ctxOf s.dev c ∧ q = queueOf s.dev x.evQueue ∧ x.state ≠ .closed ∧
    e = modSlot x.slot (fun k => { k with ingressLevel := ingressAt (slotOf d x.slot) d.geyser.now - size * sec 1, ingressAt := d.geyser.now }) d ∧
    boundTo s.dev x.slot who = true ∧ ingressAt (slotOf d x.slot) d.geyser.now < size * sec 1) ∧
  (∃ t : Time, ∃ who : W16, ∃ c : W32, ∃ v : W64, ∃ size : Nat, ∃ b : Bool, ∃ relaxed : Bool, ∃ s : State, ∃ d : Dev, ∃ e : Dev,
    ∃ x : Context, ∃ q : Queue, d = advance t s.dev ∧ x = ctxOf s.dev c ∧ q = queueOf s.dev x.evQueue ∧ x.state ≠ .closed ∧
    e = modSlot x.slot (fun k => { k with ingressLevel := ingressAt (slotOf d x.slot) d.geyser.now - size * sec 1, ingressAt := d.geyser.now }) d ∧
    boundTo s.dev x.slot who = true ∧ size * sec 1 ≤ ingressAt (slotOf d x.slot) d.geyser.now ∧ size = 8 ∧ b = true ∧ relaxed = false ∧
    v.toNat % 64 = 0 ∧ q.producer < v.toNat ∧ v.toNat ≤ q.consumer + 2 ^ q.exp) ∧
  (∃ t : Time, ∃ who : W16, ∃ c : W32, ∃ v : W64, ∃ size : Nat, ∃ b : Bool, ∃ relaxed : Bool, ∃ s : State, ∃ d : Dev, ∃ e : Dev,
    ∃ x : Context, ∃ q : Queue, d = advance t s.dev ∧ x = ctxOf s.dev c ∧ q = queueOf s.dev x.evQueue ∧ x.state ≠ .closed ∧
    e = modSlot x.slot (fun k => { k with ingressLevel := ingressAt (slotOf d x.slot) d.geyser.now - size * sec 1, ingressAt := d.geyser.now }) d ∧
    boundTo s.dev x.slot who = true ∧ size * sec 1 ≤ ingressAt (slotOf d x.slot) d.geyser.now ∧
    (size ≠ 8 ∨ b = false ∨ relaxed = true ∨ v.toNat % 64 ≠ 0 ∨ v.toNat ≤ q.producer ∨ q.consumer + 2 ^ q.exp < v.toNat)) ∧
  (∃ t : Time, ∃ who : W16, ∃ c : W32, ∃ v : W64, ∃ s : State, ∃ d : Dev, ∃ e : Dev, ∃ x : Context, ∃ q : Queue, d = advance t s.dev ∧
    x = ctxOf s.dev c ∧ q = queueOf s.dev x.chQueue ∧ x.state ≠ .closed ∧ boundTo s.dev x.slot who = true ∧
    8 * sec 1 ≤ ingressAt (slotOf d x.slot) d.geyser.now ∧
    e = modSlot x.slot (fun k => { k with ingressLevel := ingressAt (slotOf d x.slot) d.geyser.now - 8 * sec 1, ingressAt := d.geyser.now }) d ∧
    q.consumer ≤ v.toNat ∧ v.toNat ≤ q.producer) ∧
  (∃ t : Time, ∃ who : W16, ∃ c : W32, ∃ v : W64, ∃ s : State, ∃ d : Dev, ∃ e : Dev, ∃ x : Context, ∃ q : Queue, d = advance t s.dev ∧
    x = ctxOf s.dev c ∧ q = queueOf s.dev x.chQueue ∧ x.state ≠ .closed ∧ boundTo s.dev x.slot who = true ∧
    8 * sec 1 ≤ ingressAt (slotOf d x.slot) d.geyser.now ∧
    e = modSlot x.slot (fun k => { k with ingressLevel := ingressAt (slotOf d x.slot) d.geyser.now - 8 * sec 1, ingressAt := d.geyser.now }) d ∧
    (v.toNat < q.consumer ∨ q.producer < v.toNat)) ∧
  (∃ t : Time, ∃ who : W16, ∃ k : Fin 2, ∃ v : W32, ∃ s : State, ∃ d : Dev, ∃ m : Nat, d = advance t s.dev ∧ m = v.toNat % 65536 ∧
    boundTo s.dev k.val who = false) ∧
  (∃ t : Time, ∃ who : W16, ∃ k : Fin 2, ∃ off : Nat, ∃ v : W32, ∃ s : State, ∃ d : Dev, ∃ m : Nat, d = advance t s.dev ∧
    m = v.toNat % 65536 ∧ boundTo s.dev k.val who = true ∧
    (∀ x, kfind? s.dev.watch.monitors m = some x → off ≠ 0 ∨ v.toNat / 65536 ≠ 65535 - m ∨ x.kind ≠ 2 ∨ m / 2048 ≠ k.val)) ∧
  (∃ t : Time, ∃ who : W16, ∃ k : Fin 2, ∃ off : Nat, ∃ v : W32, ∃ s : State, ∃ d : Dev, ∃ m : Nat, ∃ x : Monitor, d = advance t s.dev ∧
    m = v.toNat % 65536 ∧ kfind? s.dev.watch.monitors m = some x ∧ boundTo s.dev k.val who = true ∧ off = 0 ∧ v.toNat / 65536 = 65535 - m ∧
    x.kind = 2 ∧ m / 2048 = k.val) ∧
  (∃ m : Nat, ∃ d : Dev, ∃ x : Monitor, kfind? d.watch.monitors m = some x ∧ x.suspended = true) ∧
  (∃ m : Nat, ∃ d : Dev, ∃ x : Monitor, kfind? d.watch.monitors m = some x ∧ x.suspended = false ∧
    d.geyser.now < x.start + (x.index + 1) * us x.windowUs) ∧
  (∃ m : Nat, ∃ d : Dev, ∃ x : Monitor, kfind? d.watch.monitors m = some x ∧ x.suspended = false ∧ 0 < x.windowUs ∧
    x.start + (x.index + 1) * us x.windowUs ≤ d.geyser.now) ∧
  (∃ t : Time, ∃ who : W16, ∃ off : Nat, ∃ size : Nat, ∃ s : State, ∃ d : Dev, ∃ e : Dev, ∃ k : Nat, d = advance t s.dev ∧
    k = off / 0x80000000 ∧ off < 0x100000000 ∧
    e = modSlot k (fun x => { x with ingressLevel := ingressAt (slotOf d k) d.geyser.now - size * sec 1, ingressAt := d.geyser.now }) d ∧
    boundTo s.dev k who = false) ∧
  (∃ t : Time, ∃ who : W16, ∃ off : Nat, ∃ size : Nat, ∃ s : State, ∃ d : Dev, ∃ e : Dev, ∃ k : Nat, d = advance t s.dev ∧
    k = off / 0x80000000 ∧ off < 0x100000000 ∧
    e = modSlot k (fun x => { x with ingressLevel := ingressAt (slotOf d k) d.geyser.now - size * sec 1, ingressAt := d.geyser.now }) d ∧
    boundTo s.dev k who = true ∧ 0x7FFFF000 ≤ off % 0x80000000) ∧
  (∃ t : Time, ∃ who : W16, ∃ off : Nat, ∃ size : Nat, ∃ s : State, ∃ d : Dev, ∃ e : Dev, ∃ k : Nat, d = advance t s.dev ∧
    k = off / 0x80000000 ∧ off < 0x100000000 ∧
    e = modSlot k (fun x => { x with ingressLevel := ingressAt (slotOf d k) d.geyser.now - size * sec 1, ingressAt := d.geyser.now }) d ∧
    boundTo s.dev k who = true ∧ off % 0x80000000 < 0x7FFFF000 ∧ ingressAt (slotOf d k) d.geyser.now < size * sec 1) ∧
  (∃ t : Time, ∃ who : W16, ∃ off : Nat, ∃ size : Nat, ∃ s : State, ∃ d : Dev, ∃ e : Dev, ∃ k : Nat, d = advance t s.dev ∧
    k = off / 0x80000000 ∧ off < 0x100000000 ∧
    e = modSlot k (fun x => { x with ingressLevel := ingressAt (slotOf d k) d.geyser.now - size * sec 1, ingressAt := d.geyser.now }) d ∧
    boundTo s.dev k who = true ∧ off % 0x80000000 < 0x7FFFF000 ∧ size * sec 1 ≤ ingressAt (slotOf d k) d.geyser.now) :=
  ⟨⟨0, 8, 7, 8, st (withCtx world ctx7), _, _, _, _, rfl, rfl, rfl, by decide +kernel, rfl, by decide +kernel⟩,
   ⟨0, 9, 7, 8, st (withCtx world ctx7), _, _, _, _, rfl, rfl, rfl, by decide +kernel, rfl, by decide +kernel, by decide +kernel⟩,
   ⟨0, 9, 7, 64, 8, true, false, st (withCtx (levelled (sec 1000)) ctx7), _, _, _, _, rfl, rfl, rfl, by decide +kernel, rfl, by decide +kernel,
    by decide +kernel, rfl, rfl, rfl, by decide +kernel⟩,
   ⟨0, 9, 7, 64, 4, true, false, st (withCtx (levelled (sec 1000)) ctx7), _, _, _, _, rfl, rfl, rfl, by decide +kernel, rfl, by decide +kernel⟩,
   ⟨0, 9, 7, 0, st (withCtx (levelled (sec 1000)) ctx7), _, _, _, _, rfl, rfl, rfl, by decide +kernel, by decide +kernel, by decide +kernel,
    rfl, by decide +kernel, by decide +kernel⟩,
   ⟨0, 9, 7, 1, st (withCtx (levelled (sec 1000)) ctx7), _, _, _, _, rfl, rfl, rfl, by decide +kernel, by decide +kernel, by decide +kernel,
    rfl, by decide +kernel⟩,
   ⟨0, 8, 0, 3, st (withCtx world ctx7), _, _, rfl, rfl, by decide +kernel⟩,
   ⟨0, 9, 0, 0, 3, st (withCtx world ctx7), _, _, rfl, rfl, by decide +kernel, by decide +kernel⟩,
   ⟨0, 9, 1, 0, 0xF7FF0800, st watched, _, _, monitor2, rfl, rfl, by decide +kernel, by decide +kernel, rfl, by decide +kernel⟩,
   ⟨2048, { world with watch := { monitors := [(2048, { monitor2 with suspended := true })] } }, { monitor2 with suspended := true },
    by decide +kernel, by decide +kernel⟩,
   ⟨2048, watched, monitor2, by decide +kernel⟩,
   ⟨2048, { watched with geyser := { now := sec 1 } }, monitor2, by decide +kernel⟩,
   ⟨0, 8, 0, 8, st (withCtx world ctx7), _, _, _, rfl, rfl, by decide +kernel, rfl, by decide +kernel⟩,
   ⟨0, 9, 0x7FFFF000, 8, st (withCtx world ctx7), _, _, _, rfl, rfl, by decide +kernel, rfl, by decide +kernel, by decide +kernel⟩,
   ⟨0, 9, 0, 8, st (withCtx world ctx7), _, _, _, rfl, rfl, by decide +kernel, rfl, by decide +kernel⟩,
   ⟨0, 9, 0x7FFFEFFC, 8, st (withCtx (levelled (sec 1000)) ctx7), _, _, _, rfl, rfl, by decide +kernel, rfl, by decide +kernel⟩⟩

/-- States and operands that meet the hypotheses of RecordsAreTaken, clause by clause. -/
theorem witness_RecordsAreTaken :
  (∃ t : Time, ∃ c : W32, ∃ type : Byte, ∃ r : Record, ∃ i : Instr, ∃ s : State, ∃ d : Dev, ∃ framed : Bool, d = advance t s.dev ∧
    (i, type) ∈ [(.commit t c r, 0x01), (.crcList t c r, 0x02), (.opening t c r, 0x03), (.depTile t c r, 0x04), (.tensor t c r, 0x05), (.abandon t c r, 0x06), (.evidencePad t c 0x0F r, (0x0F : Byte))] ∧
    framed = framingOk type r (queueOf d (ctxOf d c).evQueue).consumer (2 ^ (queueOf d (ctxOf d c).evQueue).exp) ∧
    (serving d = false ∨ d.fabric.isolated = true ∨ (ctxOf d c).state = .closed)) ∧
  (∃ t : Time, ∃ c : W32, ∃ type : Byte, ∃ r : Record, ∃ i : Instr, ∃ s : State, ∃ d : Dev, ∃ framed : Bool, ∃ end_, ∃ arr,
    ∃ rest, d = advance t s.dev ∧
    (i, type) ∈ [(.commit t c r, 0x01), (.crcList t c r, 0x02), (.opening t c r, 0x03), (.depTile t c r, 0x04), (.tensor t c r, 0x05), (.abandon t c r, 0x06), (.evidencePad t c 0x0F r, (0x0F : Byte))] ∧
    framed = framingOk type r (queueOf d (ctxOf d c).evQueue).consumer (2 ^ (queueOf d (ctxOf d c).evQueue).exp) ∧
    recordComes c end_ arr rest d ∧ crc32c (recordBody type r) ≠ r.trailer) ∧
  (∃ t : Time, ∃ c : W32, ∃ type : Byte, ∃ r : Record, ∃ i : Instr, ∃ s : State, ∃ d : Dev, ∃ framed : Bool, ∃ end_, ∃ arr,
    ∃ rest, d = advance t s.dev ∧
    (i, type) ∈ [(.commit t c r, 0x01), (.crcList t c r, 0x02), (.opening t c r, 0x03), (.depTile t c r, 0x04), (.tensor t c r, 0x05), (.abandon t c r, 0x06), (.evidencePad t c 0x0F r, (0x0F : Byte))] ∧
    framed = framingOk type r (queueOf d (ctxOf d c).evQueue).consumer (2 ^ (queueOf d (ctxOf d c).evQueue).exp) ∧
    recordComes c end_ arr rest d ∧ crc32c (recordBody type r) = r.trailer ∧ mustMirror c type r framed d = false) ∧
  (∃ c : W32, ∃ d0 : Dev, ∃ d : Dev, d = expireDue c d0 ∧ (∀ x ∈ (ctxOf d0 c).results, isDue d0 x = false ∧ dueWindows d0 x = x)) ∧
  (∃ c : W32, ∃ r : Record, ∃ d0 : Dev, ∃ d : Dev, d = expireDue c d0 ∧ r.context ≠ c) ∧
  (∃ c : W32, ∃ type : Byte, ∃ r : Record, ∃ d0 : Dev, ∃ d : Dev, d = expireDue c d0 ∧ r.context = c ∧ type = 0x0F) ∧
  (∃ c : W32, ∃ type : Byte, ∃ r : Record, ∃ d0 : Dev, ∃ d : Dev, d = expireDue c d0 ∧ r.context = c ∧ type ≠ 0x0F ∧
    resultOf? (ctxOf d c) r.seq.toNat = none ∧ r.seq.toNat ≤ (ctxOf d c).accepted) ∧
  (∃ c : W32, ∃ type : Byte, ∃ r : Record, ∃ d0 : Dev, ∃ d : Dev, d = expireDue c d0 ∧ r.context = c ∧ type ≠ 0x0F ∧
    resultOf? (ctxOf d c) r.seq.toNat = none ∧ (ctxOf d c).accepted + 64 < r.seq.toNat) ∧
  (∃ c : W32, ∃ type : Byte, ∃ r : Record, ∃ d0 : Dev, ∃ d : Dev, ∃ res, d = expireDue c d0 ∧ r.context = c ∧ type ≠ 0x0F ∧
    resultOf? (ctxOf d c) r.seq.toNat = some res ∧ res.withheld = true) ∧
  (∃ c : W32, ∃ type : Byte, ∃ r : Record, ∃ framed : Bool, ∃ d0 : Dev, ∃ d : Dev, ∃ res, d = expireDue c d0 ∧ r.context = c ∧ type ≠ 0x0F ∧
    resultOf? (ctxOf d c) r.seq.toNat = some res ∧ res.withheld = false ∧ framed = false) ∧
  (∃ c : W32, ∃ type : Byte, ∃ r : Record, ∃ framed : Bool, ∃ d0 : Dev, ∃ d : Dev, ∃ res, d = expireDue c d0 ∧ r.context = c ∧ type ≠ 0x0F ∧
    resultOf? (ctxOf d c) r.seq.toNat = some res ∧ res.withheld = false ∧ framed = true ∧ type = 0x06) :=
  ⟨⟨0, 7, 0x0F, rec7, .evidencePad 0 7 0x0F rec7, st world, _, _, rfl, by decide +kernel, rfl, by decide +kernel⟩,
   ⟨0, 7, 1, rec7, .commit 0 7 rec7, st (withCtx world { ctx7 with batches := [(128, 0)] }), _, _, 128, 0, [], rfl, by decide +kernel, rfl,
    ⟨by decide +kernel, by decide +kernel, by decide +kernel, by decide +kernel, by decide +kernel⟩, by decide +kernel⟩,
   ⟨0, 7, 1, { rec7 with trailer := crc32c (recordBody 1 rec7) }, .commit 0 7 { rec7 with trailer := crc32c (recordBody 1 rec7) },
    st (withCtx world { ctx7 with batches := [(128, 0)] }), _, _, 128, 0, [], rfl, by decide +kernel, rfl, ⟨by decide +kernel,
    by decide +kernel, by decide +kernel, by decide +kernel, by decide +kernel⟩, by decide +kernel, by decide +kernel⟩,
   ⟨7, withRes result1, _, rfl, by decide +kernel⟩,
   ⟨8, rec7, withRes result1, _, rfl, by decide +kernel⟩,
   ⟨7, 0x0F, rec7, withRes result1, _, rfl, by decide +kernel, rfl⟩,
   ⟨7, 1, rec7, withCtx world { ctx7 with accepted := 1 }, _, rfl, by decide +kernel⟩,
   ⟨7, 1, { rec7 with seq := 65 }, withCtx world ctx7, _, rfl, by decide +kernel⟩,
   ⟨7, 1, rec7, withRes { result1 with withheld := true }, _, { result1 with withheld := true }, rfl, by decide +kernel⟩,
   ⟨7, 1, rec7, false, withRes result1, _, result1, rfl, by decide +kernel, by decide +kernel, by decide +kernel, by decide +kernel, rfl⟩,
   ⟨7, 6, rec7, true, withRes result1, _, result1, rfl, by decide +kernel, by decide +kernel, by decide +kernel, by decide +kernel, rfl, rfl⟩⟩

/-- States and operands that meet the hypotheses of ResultsOpen, clause by clause. -/
theorem witness_ResultsOpen :
  (∃ c : W32, ∃ type : Byte, ∃ r : Record, ∃ d0 : Dev, ∃ d : Dev, ∃ x : Context, ∃ l : LoadedPlan, ∃ t : Template, d = expireDue c d0 ∧
    x = ctxOf d c ∧ r.context = c ∧ type ≠ 0x0F ∧ x.accepted < r.seq.toNat ∧ resultOf? x r.seq.toNat = none ∧
    planOf? d x.planId x.planVersion = some l ∧ templateOf? d x.planId x.planVersion x.template = some t ∧
    mayAccept x type r true l.plan t = false) ∧
  (∃ c : W32, ∃ type : Byte, ∃ r : Record, ∃ d0 : Dev, ∃ d : Dev, ∃ x : Context, ∃ l : LoadedPlan, ∃ t : Template, d = expireDue c d0 ∧
    x = ctxOf d c ∧ r.context = c ∧ type ≠ 0x0F ∧ x.accepted < r.seq.toNat ∧ resultOf? x r.seq.toNat = none ∧
    planOf? d x.planId x.planVersion = some l ∧ templateOf? d x.planId x.planVersion x.template = some t ∧
    mayAccept x type r true l.plan t = true) ∧
  (∃ c : W32, ∃ type : Byte, ∃ r : Record, ∃ arr : Time, ∃ d : Dev, ∃ e : Dev, ∃ x : Context, ∃ t : Template,
    ∃ res : Result, x = ctxOf d c ∧ x.heldRecords.length < 256 ∧ r.seq.toNat = x.accepted + 1 ∧ 1000 * sec 1 ≤ rateLevelAt x t arr ∧
    x.state = .active ∧ type = tCommit ∧ d.geyser.now < captureOf type r + us t.deadlineUs ∧
    res = { newResult x t.grade r.seq.toNat (captureOf type r) (captureOf type r + us t.deadlineUs) d.geyser.now t.checkCount with reasons := 0, overRate := false } ∧
    (∀ q ∈ x.results, q.seq ≠ r.seq.toNat) ∧
    e = modCtx c (fun x => { x with rateLevel := rateLevelAt x t arr - 1000 * sec 1, rateAt := arr, results := x.results ++ [res], accepted := r.seq.toNat }) d) ∧
  (∃ c : W32, ∃ r : Record, ∃ arr : Time, ∃ d : Dev, ∃ x : Context, ∃ t : Template, x = ctxOf d c ∧ x.heldRecords.length < 256 ∧
    x.accepted < r.seq.toNat ∧
    uncheckedAt (slotOf d x.slot) d.geyser.now < (r.seq.toNat - x.accepted - 1 + if rateLevelAt x t arr < 1000 * sec 1 then 1 else 0) * sec 1) ∧
  (∃ c : W32, ∃ type : Byte, ∃ r : Record, ∃ arr : Time, ∃ d : Dev, ∃ e : Dev, ∃ x : Context, ∃ t : Template, ∃ dead : Time,
    ∃ why : W32, x = ctxOf d c ∧ x.heldRecords.length < 256 ∧ x.accepted < r.seq.toNat ∧ r.seq.toNat = x.accepted + 1 ∧
    1000 * sec 1 ≤ rateLevelAt x t arr ∧ dead = (if type = tAbandon then 0 else captureOf type r + us t.deadlineUs) ∧
    why = firstReasons x type false dead d.geyser.now ∧ why ≠ 0 ∧
    e = modCtx c (fun x => { x with rateLevel := rateLevelAt x t arr - 1000 * sec 1, rateAt := arr, results := x.results ++ [{ newResult x t.grade r.seq.toNat (captureOf type r) dead d.geyser.now t.checkCount with reasons := why }], accepted := r.seq.toNat }) d) ∧
  (∃ c : W32, ∃ type : Byte, ∃ r : Record, ∃ arr : Time, ∃ d : Dev, ∃ e : Dev, ∃ x : Context, ∃ t : Template, ∃ dead : Time,
    ∃ why : W32, x = ctxOf d c ∧ x.heldRecords.length < 256 ∧ x.accepted < r.seq.toNat ∧ r.seq.toNat = x.accepted + 1 ∧
    rateLevelAt x t arr < 1000 * sec 1 ∧ sec 1 ≤ uncheckedAt (slotOf d x.slot) d.geyser.now ∧
    dead = (if type = tAbandon then 0 else captureOf type r + us t.deadlineUs) ∧ why = firstReasons x type true dead d.geyser.now ∧
    e = modCtx c (fun x => { x with rateLevel := rateLevelAt x t arr, rateAt := arr, results := x.results ++ [{ newResult x t.grade r.seq.toNat (captureOf type r) dead d.geyser.now t.checkCount with reasons := why, overRate := true }], accepted := r.seq.toNat }) (modSlot x.slot (fun s => { s with uncheckedLevel := uncheckedAt (slotOf d x.slot) d.geyser.now - sec 1, uncheckedAt := d.geyser.now }) d)) :=
  ⟨⟨7, 1, rec7, withCtx world ctx7, _, _, loaded5, template0, rfl, rfl, by decide +kernel⟩,
   ⟨7, 6, rec7, withCtx world ctx7, _, _, loaded5, template0, rfl, rfl, by decide +kernel⟩,
   ⟨7, 1, rec7, 0, withCtx world { ctx7 with rateLevel := 1000 * sec 1 }, _, _, template0, _, rfl, by decide +kernel, by decide +kernel,
    by decide +kernel, by decide +kernel, rfl, by decide +kernel, rfl, by decide +kernel, rfl⟩,
   ⟨7, rec7, 0, { withCtx world ctx7 with slots := [(0, { requester := some 9, uncheckedLevel := 0 })] }, _, template0, rfl, by decide +kernel⟩,
   ⟨7, 6, rec7, 0, withCtx world { ctx7 with rateLevel := 1000 * sec 1 }, _, _, template0, _, _, rfl, by decide +kernel, by decide +kernel,
    by decide +kernel, by decide +kernel, rfl, rfl, by decide +kernel, rfl⟩,
   ⟨7, 6, rec7, 0, withCtx world ctx7, _, _, template0, _, _, rfl, five (by decide +kernel) ⟨rfl, rfl, rfl⟩⟩⟩

/-- States and operands that meet the hypotheses of RecordsOfResults, clause by clause. -/
theorem witness_RecordsOfResults :
  (∃ c : W32, ∃ type : Byte, ∃ r : Record, ∃ arr : Time, ∃ res : Result, ∃ p : Plan, ∃ t : Template, ∃ d : Dev, ∃ e : Dev,
    ∃ k : Taken, recordFits type r res p t d ∧ type ≠ tAbandon ∧
    (k, e) = (if type = tCommit then takeCommit c res.seq r arr p t d else if type = tCrcList then takeCrcList c res.seq r arr p t d else if type = tOpening then takeOpening c res.seq r arr p t d else if type = tDepTile then takeDepTile c res.seq r arr p t d else takeTensor c res.seq r arr p t d)) ∧
  (∃ c : W32, ∃ seq : Nat, ∃ r : Record, ∃ p : Plan, ∃ t : Template, ∃ d : Dev, ∃ res : Result, ∃ m, resultOf? (ctxOf d c) seq = some res ∧
    r.layer ≠ 0 ∧ commitOk p t r = true ∧ resCommit? res r.layer.toNat 0 = some m ∧ m.capture = 0) ∧
  (∃ c : W32, ∃ seq : Nat, ∃ r : Record, ∃ p : Plan, ∃ t : Template, ∃ d : Dev, ∃ res : Result, resultOf? (ctxOf d c) seq = some res ∧
    r.layer ≠ 0 ∧ commitOk p t r = true ∧ resCommit? res r.layer.toNat 0 = none ∧ t.grade = 1) ∧
  (∃ c : W32, ∃ seq : Nat, ∃ r : Record, ∃ p : Plan, ∃ t : Template, ∃ d : Dev, ∃ res : Result, resultOf? (ctxOf d c) seq = some res ∧
    r.layer ≠ 0 ∧ commitOk p t r = true ∧ resCommit? res r.layer.toNat 0 = none ∧ t.grade = 2) ∧
  (∃ c : W32, ∃ seq : Nat, ∃ r : Record, ∃ arr : Time, ∃ t : Template, ∃ d : Dev, ∃ res : Result, ∃ h : Challenge,
    ∃ w : Nat × Time, resultOf? (ctxOf d c) seq = some res ∧
    res.challenges.find? (fun h => h.layer == r.layer.toNat && h.tile == r.tile.toNat && h.entry == BitVec.ofNat 32 (rpay r 4 4)) = some h ∧
    res.windows.find? (·.1 == r.layer.toNat) = some w ∧ (arr < w.2 ∨ w.2 + us t.retentionUs ≤ arr)) ∧
  (∃ c : W32, ∃ seq : Nat, ∃ r : Record, ∃ arr : Time, ∃ t : Template, ∃ d : Dev, ∃ res : Result, ∃ h : Challenge,
    ∃ w : Nat × Time, resultOf? (ctxOf d c) seq = some res ∧
    res.challenges.find? (fun h => h.layer == r.layer.toNat && h.tile == r.tile.toNat && h.entry == BitVec.ofNat 32 (rpay r 4 4)) = some h ∧
    res.windows.find? (·.1 == r.layer.toNat) = some w ∧ w.2 ≤ arr ∧ arr < w.2 + us t.retentionUs ∧ h.opened.isSome = true) ∧
  (∃ c : W32, ∃ seq : Nat, ∃ r : Record, ∃ arr : Time, ∃ t : Template, ∃ d : Dev, ∃ res : Result, ∃ h : Challenge,
    ∃ w : Nat × Time, resultOf? (ctxOf d c) seq = some res ∧
    res.challenges.find? (fun h => h.layer == r.layer.toNat && h.tile == r.tile.toNat && h.entry == BitVec.ofNat 32 (rpay r 4 4)) = some h ∧
    res.windows.find? (·.1 == r.layer.toNat) = some w ∧ w.2 ≤ arr ∧ arr < w.2 + us t.retentionUs ∧ h.opened = none) ∧
  (∃ c : W32, ∃ seq : Nat, ∃ r : Record, ∃ d : Dev, ∃ res : Result, resultOf? (ctxOf d c) seq = some res ∧
    res.deps.find? (fun x => x.layer == r.layer.toNat && x.tile == r.tile.toNat && x.entry == BitVec.ofNat 32 (rpay r 4 4)) = none) ∧
  (∃ c : W32, ∃ seq : Nat, ∃ t : Template, ∃ d : Dev, ∃ res : Result, resultOf? (ctxOf d c) seq = some res ∧ t.grade = 1) ∧
  (∃ c : W32, ∃ seq : Nat, ∃ r : Record, ∃ d : Dev, ∃ res : Result, resultOf? (ctxOf d c) seq = some res ∧ r.layer = 0) :=
  ⟨⟨7, 1, rec7, ms 1, result1, plan5, template0, withRes result1, _, _, ⟨by decide +kernel, by decide +kernel, by decide +kernel,
    by decide +kernel, by decide +kernel⟩, by decide +kernel, (Prod.eta _)⟩,
   ⟨7, 1, commit2, planGrid, template0, withRes { result1 with commits := [commitment2] }, { result1 with commits := [commitment2] },
    commitment2, by decide +kernel⟩,
   ⟨7, 1, commit2, planGrid, template0, withRes result1, result1, by decide +kernel⟩,
   ⟨7, 1, { commit2 with payload := fill 64 (le [(1, 2), (1, 0), (2, 0), (4, 0), (4, 1)]) }, planGrid, { template0 with grade := 2 },
    withRes result1, result1, by decide +kernel⟩,
   ⟨7, 1, opening2, ms 3, template0, withRes result1, result1, challenge2, (2, ms 1), by decide +kernel⟩,
   ⟨7, 1, opening2, ms 1, template0, withRes { result1 with challenges := [{ challenge2 with opened := some [] }] },
    { result1 with challenges := [{ challenge2 with opened := some [] }] }, { challenge2 with opened := some [] }, (2, ms 1), by decide +kernel⟩,
   ⟨7, 1, opening2, ms 1, template0, withRes result1, result1, challenge2, (2, ms 1), by decide +kernel⟩,
   ⟨7, 1, rec7, withRes result1, result1, by decide +kernel, by decide +kernel⟩,
   ⟨7, 1, template0, withRes result1, result1, by decide +kernel, by decide +kernel⟩,
   ⟨7, 1, rec7, withRes result1, result1, by decide +kernel, by decide +kernel⟩⟩

/-- States and operands that meet the hypotheses of Verdicts, clause by clause. -/
theorem witness_Verdicts :
  (∃ c : W32, ∃ seq : W64, ∃ s : State, ∃ r : Result, ∃ d : Dev, ∃ e : Dev, resultOf? (ctxOf s.dev c) seq.toNat = some r ∧
    r.withheld = false ∧ inSafe s.dev = false ∧ d = advance r.deadline s.dev ∧ e = modResult c seq.toNat (fun _ => dueWindows d r) d) ∧
  (∃ d : Dev, ∃ r : Result, ∃ p : Plan, ∃ t : Template, ∃ w, resultPlan? d r = some p ∧ resultTemplate? d r = some t ∧ r.windows = [w]) ∧
  (∃ d : Dev, ∃ r : Result, ∃ p : Plan, ∃ t : Template, ∃ layer, resultPlan? d r = some p ∧ resultTemplate? d r = some t ∧
    (∀ e ∈ indexed (checksOf p t), e.2.kind ≠ 2 ∨ e.2.firstLayer ≠ layer)) ∧
  (∃ d : Dev, ∃ r : Result, ∃ p : Plan, ∃ t : Template, ∃ layer, ∃ n, ∃ e, resultPlan? d r = some p ∧ resultTemplate? d r = some t ∧
    (indexed (checksOf p t)).filter (fun e => e.2.kind == 2 && e.2.firstLayer == layer) = [(n, e)] ∧ (∃ h ∈ r.challenges, h.check = n ∧
    h.opened = none)) ∧
  (∃ c : W32, ∃ seq : W64, ∃ layer : W16, ∃ s : State, ∃ r : Result, ∃ t : Template, ∃ w : Nat × Time,
    ∃ d : Dev, resultOf? (ctxOf s.dev c) seq.toNat = some r ∧ resultTemplate? s.dev r = some t ∧
    r.windows.find? (·.1 == layer.toNat) = some w ∧ d = advance (w.2 + us t.retentionUs) s.dev ∧ inSafe s.dev = true) ∧
  (∃ c : W32, ∃ seq : W64, ∃ layer : W16, ∃ s : State, ∃ r : Result, ∃ t : Template, ∃ w : Nat × Time,
    ∃ d : Dev, resultOf? (ctxOf s.dev c) seq.toNat = some r ∧ resultTemplate? s.dev r = some t ∧
    r.windows.find? (·.1 == layer.toNat) = some w ∧ d = advance (w.2 + us t.retentionUs) s.dev ∧ inSafe s.dev = false) ∧
  (∃ c : W32, ∃ seq : Nat, ∃ d : Dev, ∃ e : Dev, ∃ r : Result, ∃ q : Result, resultOf? (ctxOf d c) seq = some r ∧ q = dueWindows d r ∧
    e = modResult c seq (fun _ => q) d ∧ r.withheld = true) ∧
  (∃ c : W32, ∃ seq : Nat, ∃ d : Dev, ∃ e : Dev, ∃ r : Result, ∃ q : Result, resultOf? (ctxOf d c) seq = some r ∧ q = dueWindows d r ∧
    e = modResult c seq (fun _ => q) d ∧ r.withheld = false ∧ isDue e q = false ∧ q.reasons &&& refutedMask ≠ 0) ∧
  (∃ c : W32, ∃ seq : Nat, ∃ d : Dev, ∃ e : Dev, ∃ r : Result, ∃ q : Result, resultOf? (ctxOf d c) seq = some r ∧ q = dueWindows d r ∧
    e = modResult c seq (fun _ => q) d ∧ r.withheld = false ∧ isDue e q = false ∧ q.reasons &&& refutedMask = 0 ∧
    (q.checks = [] ∨ .open_ ∈ q.checks)) ∧
  (∃ c : W32, ∃ seq : Nat, ∃ d : Dev, ∃ e : Dev, ∃ r : Result, ∃ q : Result, ∃ p, ∃ t, resultOf? (ctxOf d c) seq = some r ∧
    q = dueWindows d r ∧ e = modResult c seq (fun _ => q) d ∧ r.withheld = false ∧ isDue e q = false ∧ q.reasons &&& refutedMask = 0 ∧
    q.checks ≠ [] ∧ .open_ ∉ q.checks ∧ resultPlan? e q = some p ∧ resultTemplate? e q = some t) ∧
  (∃ c : W32, ∃ seq : Nat, ∃ d : Dev, (∀ q ∈ (ctxOf d c).results, seq ≤ q.seq)) ∧
  (∃ c : W32, ∃ seq : Nat, ∃ d : Dev, ∃ r : Result, resultOf? (ctxOf d c) seq = some r ∧ d.fabric.isolated = true) ∧
  (∃ c : W32, ∃ seq : Nat, ∃ d : Dev, ∃ r : Result, ∃ x : Context, x = ctxOf d c ∧ resultOf? x seq = some r ∧ d.fabric.isolated = false ∧
    r.attributed = [] ∧ r.challenges = [] ∧ r.deps = [] ∧ x.state = .active ∧ ringRoom d x r.seq = true ∧ x.heldRecords = [] ∧
    inSafe d = true ∧ r.seq = seq) ∧
  (∃ c : W32, ∃ seq : Nat, ∃ d : Dev, ∃ r : Result, ∃ x : Context, x = ctxOf d c ∧ resultOf? x seq = some r ∧ d.fabric.isolated = false ∧
    r.attributed = [] ∧ r.challenges = [] ∧ r.deps = [] ∧ x.state = .active ∧ (ringRoom d x r.seq = false ∨ x.heldRecords ≠ []) ∧
    inSafe d = true ∧ r.seq = seq) :=
  ⟨⟨7, 1, st (withRes result1), result1, _, _, by decide +kernel, by decide +kernel, by decide +kernel, rfl, rfl⟩,
   ⟨withRes result1, result1, plan5, template0, (2, ms 1), by decide +kernel⟩,
   ⟨withRes result1, result1, plan5, template0, 2, by decide +kernel⟩,
   ⟨withPlan planProbe, result1, planProbe, template0, 2, 0, probeCheck, by decide +kernel⟩,
   ⟨7, 1, 2, st { withRes result1 with front := { state := .safeState }, cal := { chipSafe := true } }, result1, template0, (2, ms 1), _,
    by decide +kernel, by decide +kernel, by decide +kernel, rfl, by decide +kernel⟩,
   ⟨7, 1, 2, st (withRes result1), result1, template0, (2, ms 1), _, by decide +kernel, by decide +kernel, by decide +kernel, rfl,
    by decide +kernel⟩,
   ⟨7, 1, withRes ({ result1 with withheld := true }), _, { result1 with withheld := true }, _, by decide +kernel, rfl, rfl, by decide +kernel⟩,
   ⟨7, 1, withRes ({ result1 with reasons := 2 }), _, { result1 with reasons := 2 }, _, by decide +kernel, rfl, rfl, by decide +kernel⟩,
   ⟨7, 1, withRes (result1), _, result1, _, by decide +kernel, rfl, rfl, by decide +kernel⟩,
   ⟨7, 1, withRes ({ result1 with checks := [.pass] }), _, { result1 with checks := [.pass] }, _, plan5, template0, by decide +kernel, rfl,
    rfl, by decide +kernel⟩,
   ⟨7, 1, withRes result1, by decide +kernel⟩,
   ⟨7, 1, { withRes result1 with fabric := { isolated := true } }, result1, by decide +kernel, by decide +kernel⟩,
   ⟨7, 1, { withRes { result1 with challenges := [] } with front := { state := .safeState }, cal := { chipSafe := true } },
    { result1 with challenges := [] }, _, rfl, by decide +kernel⟩,
   ⟨7, 1, { withRes { result1 with challenges := [] } with front := { state := .safeState }, cal := { chipSafe := true }, contexts := [(7, { ctx7 with accepted := 1, results := [{ result1 with challenges := [] }], heldRecords := [verdict1] })] },
    { result1 with challenges := [] }, _, rfl, by decide +kernel⟩⟩

/-- States and operands that meet the hypotheses of WindowsAndRuns, clause by clause. -/
theorem witness_WindowsAndRuns :
  (∃ k : Fin 16, ∃ i : Nat, ∃ frame : Int, ∃ s : State, ∃ w : Window, ∃ q : Partition, ∃ opens : Time,
    ∃ here : List Nat, (kget [] s.dev.sched.tables k.val)[i]? = some w ∧ framePart? s.dev k.val w = some q ∧
    opens = ((q.epoch : Int) + frame * us q.majorUs + ns w.start).toNat ∧
    (here = ((List.range 4).filter fun i => w.mask.testBit i).map (4 * k.val + ·)) ∧
    (serving s.dev = false ∨ (q.epoch : Int) + frame * us q.majorUs + ns (w.start + w.length) ≤ s.dev.geyser.now)) ∧
  (∃ k : Fin 16, ∃ i : Nat, ∃ frame : Int, ∃ s : State, ∃ w : Window, ∃ q : Partition, ∃ opens : Time,
    ∃ here : List Nat, (kget [] s.dev.sched.tables k.val)[i]? = some w ∧ framePart? s.dev k.val w = some q ∧
    opens = ((q.epoch : Int) + frame * us q.majorUs + ns w.start).toNat ∧
    (here = ((List.range 4).filter fun i => w.mask.testBit i).map (4 * k.val + ·)) ∧ serving s.dev = true ∧
    (s.dev.geyser.now : Int) < q.epoch + frame * us q.majorUs + ns (w.start + w.length) ∧ (∀ c ∈ here, (coreOf s.dev c).window = none)) ∧
  (∃ k : Fin 16, ∃ c : Fin 4, ∃ s : State, ∃ n : Nat, ∃ w : CoreWindow, n = 4 * k.val + c.val ∧ (coreOf s.dev n).window = some w ∧
    runOn? s.dev n = none) ∧
  (∃ k : Fin 16, ∃ c : Fin 4, ∃ s : State, ∃ n : Nat, ∃ w : CoreWindow, ∃ r, n = 4 * k.val + c.val ∧ (coreOf s.dev n).window = some w ∧
    runOn? s.dev n = some r) ∧
  (∃ t : Time, ∃ n : Fin 64, ∃ s : State, ∃ d : Dev, ∃ r : Run_, ∃ k : Kernel, d = advance t s.dev ∧ runOn? s.dev n.val = some r ∧
    opKernel? s.dev r.op = some k ∧ (r.stopped = true ∨ runComplete d r k = false)) ∧
  (∃ t : Time, ∃ n : Fin 64, ∃ s : State, ∃ d : Dev, ∃ r : Run_, ∃ k : Kernel, d = advance t s.dev ∧ runOn? s.dev n.val = some r ∧
    opKernel? s.dev r.op = some k ∧ r.stopped = false ∧ runComplete d r k = true ∧
    (∀ w, (coreOf s.dev n.val).window = some w → (if r.donated then afterSteps d d.geyser.now 1024 else d.geyser.now) < w.closes)) ∧
  (∃ t : Time, ∃ n : Fin 64, ∃ s : State, ∃ d : Dev, ∃ r : Run_, ∃ k : Kernel, ∃ w, d = advance t s.dev ∧ runOn? s.dev n.val = some r ∧
    opKernel? s.dev r.op = some k ∧ r.stopped = false ∧ runComplete d r k = true ∧ (coreOf s.dev n.val).window = some w ∧
    w.closes ≤ (if r.donated then afterSteps d d.geyser.now 1024 else d.geyser.now)) ∧
  (∃ d : Dev, ∃ r : Run_, ∃ n : Nat, ∃ e : Nat × Engine, n ∈ r.cores ∧ e ∈ (coreOf d n).engines) ∧
  (∃ d : Dev, ∃ e : Nat × DmaChannel, e ∈ d.cores.dma ∧ e.2.busy = true) ∧
  (∃ r : Run_, ∃ c : W32, ∃ q : Nat, ∃ i : Nat, r.op.work = .check c q i) ∧
  (∃ r : Run_, ∃ i : W64, ∃ v : W64, ∃ g : Nat, ∃ port : Nat, r.op.work = .golden i v g port) ∧
  (∃ i : W64, ∃ v : W64, ∃ ix : Nat, ∃ again : Bool, ∃ p : Plan, ∃ g : GoldenEntry, ∃ x : RunUpset, ∃ d : Dev, ∃ e : Dev,
    ∃ stored : List Byte, ∃ root : W256, goldenEntry? d i v ix = some (p, g) ∧ e = clearMiss i v ix d ∧
    stored = ((blobOf? d p.identifier p.version g.inputBlob.toNat).map (·.bytes)).getD [] ∧ i = p.identifier ∧ v = p.version ∧
    root = x.root.getD (secureRoot (tilesOf (stored.length / 4096 + 1) stored)) ∧ (again = true ∨ root = g.inputRoot) ∧
    goldenDigest e p g x = g.outputDigest) ∧
  (∃ i : W64, ∃ v : W64, ∃ ix : Nat, ∃ again : Bool, ∃ p : Plan, ∃ g : GoldenEntry, ∃ x : RunUpset, ∃ d : Dev, ∃ e : Dev,
    ∃ stored : List Byte, ∃ root : W256, goldenEntry? d i v ix = some (p, g) ∧ e = clearMiss i v ix d ∧
    stored = ((blobOf? d p.identifier p.version g.inputBlob.toNat).map (·.bytes)).getD [] ∧ i = p.identifier ∧ v = p.version ∧
    root = x.root.getD (secureRoot (tilesOf (stored.length / 4096 + 1) stored)) ∧ (again = true ∨ root = g.inputRoot) ∧
    goldenDigest e p g x ≠ g.outputDigest) ∧
  (∃ i : W64, ∃ v : W64, ∃ ix : Nat, ∃ again : Bool, ∃ p : Plan, ∃ g : GoldenEntry, ∃ x : RunUpset, ∃ d : Dev, ∃ e : Dev,
    ∃ stored : List Byte, ∃ root : W256, goldenEntry? d i v ix = some (p, g) ∧ e = clearMiss i v ix d ∧
    stored = ((blobOf? d p.identifier p.version g.inputBlob.toNat).map (·.bytes)).getD [] ∧ i = p.identifier ∧ v = p.version ∧
    root = x.root.getD (secureRoot (tilesOf (stored.length / 4096 + 1) stored)) ∧ again = false ∧ root ≠ g.inputRoot ∧
    goldenDigest (signal 752 e) p g x = g.outputDigest) ∧
  (∃ t : Time, ∃ n : Fin 64, ∃ s : State, ∃ d : Dev, ∃ r : Run_, ∃ k : Kernel, d = advance t s.dev ∧ runOn? s.dev n.val = some r ∧
    opKernel? s.dev r.op = some k ∧ r.stopped = true ∧ r.rerun = false ∧ serving s.dev = true) :=
  ⟨⟨0, 0, 0, st { running false run0 bundle0 with geyser := { now := ms 1 } }, { start := 0, length := 500, partition := 1, kind := .service, mask := 3 },
    part1, _, _, by decide +kernel, by decide +kernel, rfl, rfl, by decide +kernel⟩,
   ⟨0, 0, 1, st { running false run0 bundle0 with cores := {} }, { start := 0, length := 500, partition := 1, kind := .service, mask := 3 },
    part1, _, _, by decide +kernel, by decide +kernel, rfl, rfl, by decide +kernel⟩,
   ⟨0, 0, st { running false run0 bundle0 with sched := {} }, _, window0, rfl, by decide +kernel, by decide +kernel⟩,
   ⟨0, 0, st (running false run0 bundle0), _, window0, run0, rfl, by decide +kernel, by decide +kernel⟩,
   ⟨0, 0, st (running false { run0 with stopped := true } bundle0), _, { run0 with stopped := true }, kernel0, rfl, by decide +kernel⟩,
   ⟨0, 0, st (finished runEnd), _, runEnd, kernel0, rfl, by decide +kernel, by decide +kernel, by decide +kernel, by decide +kernel,
    (by intro w h; obtain rfl : window0 = w := Option.some.inj (h.symm.trans rfl).symm; decide +kernel)⟩,
   ⟨ms 5, 0, st (finished runEnd), _, runEnd, kernel0, window0, rfl, by decide +kernel⟩,
   ⟨{ world with cores := { core := [(0, { engines := [(1, {})] })] } }, run0, 0, (1, {}), by decide +kernel, by decide +kernel⟩,
   ⟨{ world with cores := { dma := [(3, { busy := true })] } }, (3, { busy := true }), by decide +kernel, by decide +kernel⟩,
   ⟨run0, 7, 1, 0, by decide +kernel⟩,
   ⟨{ run0 with op := { run0.op with work := .golden 5 1 0 2 } }, 5, 1, 0, 2, by decide +kernel⟩,
   ⟨5, 1, 0, false, (planGolden (Config.sm3 [])), goldenOut (Config.sm3 []), { root := some 1 },
    { world with plans := { loaded := [{ loaded5 with plan := (planGolden (Config.sm3 [])) }] } }, _, _, _, rfl, rfl, rfl, rfl, rfl, rfl,
    .inr rfl, rfl⟩,
   ⟨5, 1, 0, true, (planGolden (Config.sm3 [] + 1)), goldenOut (Config.sm3 [] + 1), { root := some 1 },
    { world with plans := { loaded := [{ loaded5 with plan := (planGolden (Config.sm3 [] + 1)) }] } }, _, _, _, rfl, rfl, rfl, rfl, rfl,
    rfl, .inl rfl, not_succ _⟩,
   ⟨5, 1, 0, false, (planGolden (Config.sm3 [])), goldenOut (Config.sm3 []), { root := some 2 },
    { world with plans := { loaded := [{ loaded5 with plan := (planGolden (Config.sm3 [])) }] } }, _, _, _, rfl, rfl, rfl, rfl, rfl, rfl,
    rfl, (by show (2 : W256) ≠ 1; decide), rfl⟩,
   ⟨0, 0, st (running false { run0 with stopped := true } bundle0), _, { run0 with stopped := true }, kernel0, rfl, by decide +kernel⟩⟩

/-- States and operands that meet the hypotheses of BundlesIssue, clause by clause. -/
theorem witness_BundlesIssue :
  (∃ t : Time, ∃ n : Fin 64, ∃ slot : Fin 64, ∃ i : Issued, ∃ others : List Candidate, ∃ next : List Candidate, ∃ s : State,
    ∃ a : State, a = atMem t s ∧ next = { toIssued := i, slot := slot } :: others ∧ (∀ c ∈ next, mayIssue n a.dev c = false)) ∧
  (∃ t : Time, ∃ n : Fin 64, ∃ slot : Fin 64, ∃ i : Issued, ∃ others : List Candidate, ∃ next : List Candidate, ∃ s : State, ∃ a : State,
    ∃ p : Candidate, a = atMem t s ∧ next = { toIssued := i, slot := slot } :: others ∧ next = [p] ∧ mayIssue n a.dev p = true) ∧
  (∃ t : Time, ∃ n : Fin 64, ∃ slot : Fin 64, ∃ i : Issued, ∃ others : List Candidate, ∃ next : List Candidate, ∃ s : State, ∃ a : State,
    ∃ p : Candidate, ∃ q : Candidate, a = atMem t s ∧ next = { toIssued := i, slot := slot } :: others ∧ next = [p, q] ∧ p.slot < q.slot ∧
    mayIssue n a.dev p = true ∧ mayIssue n a.dev q = true ∧ vectorClass p.instr ≠ vectorClass q.instr) ∧
  (∃ t : Time, ∃ n : Fin 64, ∃ slot : Fin 64, ∃ i : Issued, ∃ others : List Candidate, ∃ next : List Candidate, ∃ s : State, ∃ a : State,
    ∃ p : Candidate, ∃ q : Candidate, ∃ b : Bundle, ∃ c : Bundle, a = atMem t s ∧ next = { toIssued := i, slot := slot } :: others ∧
    next = [p, q] ∧ p.slot < q.slot ∧ mayIssue n a.dev p = true ∧ mayIssue n a.dev q = true ∧ vectorClass p.instr = vectorClass q.instr ∧
    bundleOf? a.dev n.val p.slot.val = some b ∧ bundleOf? a.dev n.val q.slot.val = some c) ∧
  (∃ t : Time, ∃ n : Fin 64, ∃ slot : Fin 64, ∃ i : BundleInstr, ∃ dst : Fin 64, ∃ v : Nat → W32, ∃ b2 : Bundle, ∃ s : State, ∃ a : State,
    ∃ d : Dev, ∃ x : Site, ∃ l : Nat, ∃ r : Fin 64, a = atMem t s ∧ readySite? n slot.val a.dev = some x ∧
    d = modCore n.val (fun c => { c with retired := c.retired + 1 }) a.dev ∧ parityLane? x.bundle (regsRead i) = none ∧
    ((∃ op p q r, i = .vec op dst p q r ∧
    ∀ l, v l = vecEval op (regAt x.bundle l p) (regAt x.bundle l q) (regAt x.bundle l r)) ∨ (∃ fn p q, i = .special fn dst p q ∧
    ∀ l, v l = specialEval fn (regAt x.bundle l p) (regAt x.bundle l q)) ∨ (i = .imm dst (v 0) ∧
    ∀ l, v l = v 0) ∨ (∃ k high, i = .argument dst k high ∧
    ∀ l, v l = (if high then (x.run.args.getD k.val 0) >>> 32 else x.run.args.getD k.val 0).setWidth 32) ∨ (∃ p float, i = .laneReduceAdd dst p float ∧
    ∀ l, v l = treeAdd float 6 ((List.range 64).map fun l => if (activeMask x.bundle).getLsbD l then regAt x.bundle l p else Config.idleLane (activeMask x.bundle) l)) ∨ (∃ p q, i = .lanePermute dst p q ∧
    ∀ l, v l = regAt x.bundle ((regAt x.bundle l q).toNat % 64) p)) ∧ b2 = putReg dst v x.bundle ∧ l < 64) ∧
  (∃ t : Time, ∃ n : Fin 64, ∃ slot : Fin 64, ∃ i : BundleInstr, ∃ dst : Fin 64, ∃ v : Nat → W32, ∃ b2 : Bundle, ∃ s : State, ∃ a : State,
    ∃ d : Dev, ∃ x : Site, a = atMem t s ∧ readySite? n slot.val a.dev = some x ∧
    d = modCore n.val (fun c => { c with retired := c.retired + 1 }) a.dev ∧ parityLane? x.bundle (regsRead i) = none ∧
    ((∃ op p q r, i = .vec op dst p q r ∧
    ∀ l, v l = vecEval op (regAt x.bundle l p) (regAt x.bundle l q) (regAt x.bundle l r)) ∨ (∃ fn p q, i = .special fn dst p q ∧
    ∀ l, v l = specialEval fn (regAt x.bundle l p) (regAt x.bundle l q)) ∨ (i = .imm dst (v 0) ∧
    ∀ l, v l = v 0) ∨ (∃ k high, i = .argument dst k high ∧
    ∀ l, v l = (if high then (x.run.args.getD k.val 0) >>> 32 else x.run.args.getD k.val 0).setWidth 32) ∨ (∃ p float, i = .laneReduceAdd dst p float ∧
    ∀ l, v l = treeAdd float 6 ((List.range 64).map fun l => if (activeMask x.bundle).getLsbD l then regAt x.bundle l p else Config.idleLane (activeMask x.bundle) l)) ∨ (∃ p q, i = .lanePermute dst p q ∧
    ∀ l, v l = regAt x.bundle ((regAt x.bundle l q).toNat % 64) p)) ∧ b2 = putReg dst v x.bundle ∧ x.split = true) ∧
  (∃ t : Time, ∃ n : Fin 64, ∃ slot : Fin 64, ∃ i : BundleInstr, ∃ dst : Fin 64, ∃ v : Nat → W32, ∃ b2 : Bundle, ∃ s : State, ∃ a : State,
    ∃ d : Dev, ∃ x : Site, ∃ w : W128, a = atMem t s ∧ readySite? n slot.val a.dev = some x ∧
    d = modCore n.val (fun c => { c with retired := c.retired + 1 }) a.dev ∧ parityLane? x.bundle (regsRead i) = none ∧
    ((∃ op p q r, i = .vec op dst p q r ∧
    ∀ l, v l = vecEval op (regAt x.bundle l p) (regAt x.bundle l q) (regAt x.bundle l r)) ∨ (∃ fn p q, i = .special fn dst p q ∧
    ∀ l, v l = specialEval fn (regAt x.bundle l p) (regAt x.bundle l q)) ∨ (i = .imm dst (v 0) ∧
    ∀ l, v l = v 0) ∨ (∃ k high, i = .argument dst k high ∧
    ∀ l, v l = (if high then (x.run.args.getD k.val 0) >>> 32 else x.run.args.getD k.val 0).setWidth 32) ∨ (∃ p float, i = .laneReduceAdd dst p float ∧
    ∀ l, v l = treeAdd float 6 ((List.range 64).map fun l => if (activeMask x.bundle).getLsbD l then regAt x.bundle l p else Config.idleLane (activeMask x.bundle) l)) ∨ (∃ p q, i = .lanePermute dst p q ∧
    ∀ l, v l = regAt x.bundle ((regAt x.bundle l q).toNat % 64) p)) ∧ b2 = putReg dst v x.bundle ∧ x.split = false ∧
    (w = (items (headerItem 0x01 (field104 dst.val) (activeMask x.bundle)) ((activeLanes x.bundle).flatMap fun l => leBytes 4 (regAt b2 l dst).toNat)).foldl foldItem x.bundle.sig.sig) ∧
    x.bundle.sig.retired + 1 < 4096) ∧
  (∃ t : Time, ∃ n : Fin 64, ∃ slot : Fin 64, ∃ i : BundleInstr, ∃ dst : Fin 64, ∃ v : Nat → W32, ∃ b2 : Bundle, ∃ s : State, ∃ a : State,
    ∃ d : Dev, ∃ x : Site, ∃ w : W128, a = atMem t s ∧ readySite? n slot.val a.dev = some x ∧
    d = modCore n.val (fun c => { c with retired := c.retired + 1 }) a.dev ∧ parityLane? x.bundle (regsRead i) = none ∧
    ((∃ op p q r, i = .vec op dst p q r ∧
    ∀ l, v l = vecEval op (regAt x.bundle l p) (regAt x.bundle l q) (regAt x.bundle l r)) ∨ (∃ fn p q, i = .special fn dst p q ∧
    ∀ l, v l = specialEval fn (regAt x.bundle l p) (regAt x.bundle l q)) ∨ (i = .imm dst (v 0) ∧
    ∀ l, v l = v 0) ∨ (∃ k high, i = .argument dst k high ∧
    ∀ l, v l = (if high then (x.run.args.getD k.val 0) >>> 32 else x.run.args.getD k.val 0).setWidth 32) ∨ (∃ p float, i = .laneReduceAdd dst p float ∧
    ∀ l, v l = treeAdd float 6 ((List.range 64).map fun l => if (activeMask x.bundle).getLsbD l then regAt x.bundle l p else Config.idleLane (activeMask x.bundle) l)) ∨ (∃ p q, i = .lanePermute dst p q ∧
    ∀ l, v l = regAt x.bundle ((regAt x.bundle l q).toNat % 64) p)) ∧ b2 = putReg dst v x.bundle ∧ x.split = false ∧
    (w = (items (headerItem 0x01 (field104 dst.val) (activeMask x.bundle)) ((activeLanes x.bundle).flatMap fun l => leBytes 4 (regAt b2 l dst).toNat)).foldl foldItem x.bundle.sig.sig) ∧
    x.bundle.sig.retired + 1 = 4096 ∧ storeRoom (coreOf a.dev n.val) x.bundle = true) ∧
  (∃ t : Time, ∃ n : Fin 64, ∃ slot : Fin 64, ∃ i : BundleInstr, ∃ dst : Fin 64, ∃ v : Nat → W32, ∃ b2 : Bundle, ∃ s : State, ∃ a : State,
    ∃ d : Dev, ∃ x : Site, ∃ w : W128, a = atMem t s ∧ readySite? n slot.val a.dev = some x ∧
    d = modCore n.val (fun c => { c with retired := c.retired + 1 }) a.dev ∧ parityLane? x.bundle (regsRead i) = none ∧
    ((∃ op p q r, i = .vec op dst p q r ∧
    ∀ l, v l = vecEval op (regAt x.bundle l p) (regAt x.bundle l q) (regAt x.bundle l r)) ∨ (∃ fn p q, i = .special fn dst p q ∧
    ∀ l, v l = specialEval fn (regAt x.bundle l p) (regAt x.bundle l q)) ∨ (i = .imm dst (v 0) ∧
    ∀ l, v l = v 0) ∨ (∃ k high, i = .argument dst k high ∧
    ∀ l, v l = (if high then (x.run.args.getD k.val 0) >>> 32 else x.run.args.getD k.val 0).setWidth 32) ∨ (∃ p float, i = .laneReduceAdd dst p float ∧
    ∀ l, v l = treeAdd float 6 ((List.range 64).map fun l => if (activeMask x.bundle).getLsbD l then regAt x.bundle l p else Config.idleLane (activeMask x.bundle) l)) ∨ (∃ p q, i = .lanePermute dst p q ∧
    ∀ l, v l = regAt x.bundle ((regAt x.bundle l q).toNat % 64) p)) ∧ b2 = putReg dst v x.bundle ∧ x.split = false ∧
    (w = (items (headerItem 0x01 (field104 dst.val) (activeMask x.bundle)) ((activeLanes x.bundle).flatMap fun l => leBytes 4 (regAt b2 l dst).toNat)).foldl foldItem x.bundle.sig.sig) ∧
    x.bundle.sig.retired + 1 = 4096 ∧ storeRoom (coreOf a.dev n.val) x.bundle = false) ∧
  (∃ t : Time, ∃ n : Fin 64, ∃ slot : Fin 64, ∃ s : State, ∃ a : State, ∃ d : Dev, ∃ x : Site, ∃ p : Fin 64, a = atMem t s ∧
    readySite? n slot.val a.dev = some x ∧ d = modCore n.val (fun c => { c with retired := c.retired + 1 }) a.dev ∧ x.split = true ∧
    parityLane? x.bundle [p] = none) ∧
  (∃ t : Time, ∃ n : Fin 64, ∃ slot : Fin 64, ∃ s : State, ∃ a : State, ∃ d : Dev, ∃ x : Site, ∃ engine : Fin 4,
    ∃ op : EngineOp, a = atMem t s ∧ readySite? n slot.val a.dev = some x ∧
    d = modCore n.val (fun c => { c with retired := c.retired + 1 }) a.dev ∧ x.split = true ∧ x.bundle.passB = false ∧
    (engineOf (coreOf a.dev n.val) engine.val).op = none ∧ (∃ p, pairInfo? op.pair = some p ∧ opOk p op = true) ∧
    (∀ e ∈ opReads op ++ opWrites op, inView x.kernel e.1 e.2 = true)) ∧
  (∃ t : Time, ∃ n : Fin 64, ∃ slot : Fin 64, ∃ s : State, ∃ a : State, ∃ d : Dev, ∃ x : Site, ∃ engine : Fin 4, a = atMem t s ∧
    readySite? n slot.val a.dev = some x ∧ d = modCore n.val (fun c => { c with retired := c.retired + 1 }) a.dev ∧ x.split = true ∧
    (engineOf (coreOf a.dev n.val) engine.val).op = none) ∧
  (∃ t : Time, ∃ n : Fin 64, ∃ slot : Fin 64, ∃ s : State, ∃ a : State, ∃ d : Dev, ∃ x : Site, ∃ ch : Nat, ∃ c : Nat, ∃ src : DmaPlace,
    ∃ dst : DmaPlace, ∃ lines : Nat, ∃ post : Option (Nat × Nat), a = atMem t s ∧ readySite? n slot.val a.dev = some x ∧
    d = modCore n.val (fun c => { c with retired := c.retired + 1 }) a.dev ∧ x.split = true ∧ ch < x.kernel.dmaChannels ∧
    channelOf? a.dev n.val ch = some c ∧ (dmaOf a.dev c).busy = false ∧ (dmaOf a.dev c).halted = false ∧ (dmaOf a.dev c).out = false ∧
    dmaReach x lines false src = true ∧ dmaReach x lines true dst = true ∧ (∀ e, post = some e → e.1 < x.kernel.signals)) ∧
  (∃ t : Time, ∃ n : Fin 64, ∃ slot : Fin 64, ∃ s : State, ∃ a : State, ∃ d : Dev, ∃ x : Site, ∃ ch : Nat, ∃ c : Nat, a = atMem t s ∧
    readySite? n slot.val a.dev = some x ∧ d = modCore n.val (fun c => { c with retired := c.retired + 1 }) a.dev ∧ x.split = true ∧
    channelOf? a.dev n.val ch = some c ∧ (dmaOf a.dev c).busy = false) ∧
  (∃ t : Time, ∃ n : Fin 64, ∃ slot : Fin 64, ∃ s : State, ∃ a : State, ∃ d : Dev, ∃ x : Site, ∃ obj : Nat, ∃ op : SignalOp, a = atMem t s ∧
    readySite? n slot.val a.dev = some x ∧ d = modCore n.val (fun c => { c with retired := c.retired + 1 }) a.dev ∧ x.split = true ∧
    operandsReady x (.signal obj op) a.dev = true) ∧
  (∃ p : Fin 64, ∃ b : Bundle, ∃ l : Nat, (∃ l, l < 64 ∧ (activeMask b).getLsbD l = true ∧ regAt b l p ≠ 0) ∧ (∃ l, l < 64 ∧
    (activeMask b).getLsbD l = true ∧ regAt b l p = 0) ∧ l < 64) ∧
  (∃ t : Time, ∃ n : Fin 64, ∃ slot : Fin 64, ∃ s : State, ∃ a : State, ∃ e : State, ∃ x : Site, ∃ y : Site, ∃ w : Nat,
    ∃ vs : List (Nat × List Byte), ∃ dst : Fin 64, ∃ addr : Fin 64, ∃ const : Bool, a = atMem t s ∧ readySite? n slot.val a.dev = some x ∧
    x.split = true ∧ x.bundle.passB = false ∧ y = { x with bundle := { x.bundle with served := none } } ∧ 1 ≤ w ∧
    dst.val + (w + 3) / 4 ≤ 64 ∧ parityLane? x.bundle [addr] = none ∧
    lanesDo (activeLanes x.bundle) (localRead x const addr w) a = (some vs, e)) ∧
  (∃ t : Time, ∃ n : Fin 64, ∃ slot : Fin 64, ∃ s : State, ∃ a : State, ∃ e : State, ∃ x : Site, ∃ y : Site, ∃ w : Nat,
    ∃ vs : List (Nat × List Byte), ∃ src : Fin 64, ∃ addr : Fin 64, ∃ const : Bool, a = atMem t s ∧ readySite? n slot.val a.dev = some x ∧
    x.split = true ∧ x.bundle.passB = false ∧ y = { x with bundle := { x.bundle with served := none } } ∧ 1 ≤ w ∧
    src.val + (w + 3) / 4 ≤ 64 ∧ parityLane? x.bundle (regsRead (.storeLocal src addr const w)) = none ∧
    lanesDo (activeLanes x.bundle) (fun l s => localWrite x const addr l (regBytes x.bundle l src w) s) a = (some vs, e)) ∧
  (∃ t : Time, ∃ n : Fin 64, ∃ slot : Fin 64, ∃ s : State, ∃ a : State, ∃ e : State, ∃ x : Site, ∃ y : Site, ∃ w : Nat,
    ∃ vs : List (Nat × List Byte), ∃ op : AtomicOp, ∃ addr : Fin 64, ∃ operand : Fin 64, a = atMem t s ∧
    readySite? n slot.val a.dev = some x ∧ x.split = true ∧ x.bundle.passB = false ∧
    y = { x with bundle := { x.bundle with served := none } } ∧ 1 ≤ w ∧ parityLane? x.bundle [addr, operand] = none ∧
    lanesDo (activeLanes x.bundle) (fun l s => match localRead x false addr 4 l s with | (some old, s) => (match localWrite x false addr l (leBytes 4 (atomicNew op (wordOf old 0) (regAt x.bundle l operand)).toNat) s with | (some _, s) => (some old, s) | (none, s) => (none, s)) | (none, s) => (none, s)) a = (some vs, e)) ∧
  (∃ t : Time, ∃ n : Fin 64, ∃ slot : Fin 64, ∃ s : State, ∃ a : State, ∃ g : State, ∃ e : State, ∃ x : Site, ∃ y : Site, ∃ w : Nat,
    ∃ vs : List (Nat × List Byte), ∃ write : Bool, ∃ lines : List (Nat × Nat), ∃ dst : Fin 64, ∃ base : DevBase,
    ∃ addr : Fin 64, a = atMem t s ∧ readySite? n slot.val a.dev = some x ∧ x.split = true ∧ x.bundle.passB = false ∧
    y = { x with bundle := { x.bundle with served := none } } ∧ 1 ≤ w ∧ (x.bundle.served.isSome = true ∧ g = a ∨ x.bundle.served = none ∧
    ∃ u, g = { a with dev := g.dev } ∧ u ≤ g.dev.geyser.now ∧
    claimAll (.core n) (coreKey a.dev n.val) (lines.takeWhile fun e => gate (.core n) (coreKey a.dev n.val) e.1 write a.dev == .go) a.dev = (some u, g.dev)) ∧
    dst.val + (w + 3) / 4 ≤ 64 ∧ parityLane? x.bundle [addr] = none ∧ write = false ∧ lines = deviceLines x base addr w false a.dev ∧
    lanesDo (activeLanes x.bundle) (deviceRead y base addr w) g = (some vs, e)) ∧
  (∃ t : Time, ∃ n : Fin 64, ∃ slot : Fin 64, ∃ s : State, ∃ a : State, ∃ g : State, ∃ e : State, ∃ x : Site, ∃ y : Site, ∃ w : Nat,
    ∃ vs : List (Nat × List Byte), ∃ write : Bool, ∃ lines : List (Nat × Nat), ∃ src : Fin 64, ∃ base : DevBase,
    ∃ addr : Fin 64, a = atMem t s ∧ readySite? n slot.val a.dev = some x ∧ x.split = true ∧ x.bundle.passB = false ∧
    y = { x with bundle := { x.bundle with served := none } } ∧ 1 ≤ w ∧ (x.bundle.served.isSome = true ∧ g = a ∨ x.bundle.served = none ∧
    ∃ u, g = { a with dev := g.dev } ∧ u ≤ g.dev.geyser.now ∧
    claimAll (.core n) (coreKey a.dev n.val) (lines.takeWhile fun e => gate (.core n) (coreKey a.dev n.val) e.1 write a.dev == .go) a.dev = (some u, g.dev)) ∧
    src.val + (w + 3) / 4 ≤ 64 ∧ parityLane? x.bundle (regsRead (.storeDevice src base addr w)) = none ∧ write = true ∧
    lines = deviceLines x base addr w true a.dev ∧
    lanesDo (activeLanes x.bundle) (fun l s => deviceWrite y base addr l (regBytes x.bundle l src w) s) g = (some vs, e)) ∧
  (∃ t : Time, ∃ n : Fin 64, ∃ slot : Fin 64, ∃ s : State, ∃ a : State, ∃ g : State, ∃ e : State, ∃ x : Site, ∃ y : Site, ∃ w : Nat,
    ∃ vs : List (Nat × List Byte), ∃ write : Bool, ∃ lines : List (Nat × Nat), ∃ op : AtomicOp, ∃ base : DevBase, ∃ addr : Fin 64,
    ∃ operand : Fin 64, a = atMem t s ∧ readySite? n slot.val a.dev = some x ∧ x.split = true ∧ x.bundle.passB = false ∧
    y = { x with bundle := { x.bundle with served := none } } ∧ 1 ≤ w ∧ (x.bundle.served.isSome = true ∧ g = a ∨ x.bundle.served = none ∧
    ∃ u, g = { a with dev := g.dev } ∧ u ≤ g.dev.geyser.now ∧
    claimAll (.core n) (coreKey a.dev n.val) (lines.takeWhile fun e => gate (.core n) (coreKey a.dev n.val) e.1 write a.dev == .go) a.dev = (some u, g.dev)) ∧
    parityLane? x.bundle [addr, operand] = none ∧ write = true ∧ lines = deviceLines x base addr 4 true a.dev ∧
    lanesDo (activeLanes x.bundle) (fun l s => match deviceRead y base addr 4 l s with | (some old, s) => (match deviceWrite y base addr l (leBytes 4 (atomicNew op (wordOf old 0) (regAt x.bundle l operand)).toNat) s with | (some _, s) => (some old, s) | (none, s) => (none, s)) | (none, s) => (none, s)) g = (some vs, e)) ∧
  (∃ t : Time, ∃ n : Fin 64, ∃ slot : Fin 64, ∃ i : BundleInstr, ∃ s : State, ∃ a : State, ∃ x : Site, ∃ l : Nat, a = atMem t s ∧
    readySite? n slot.val a.dev = some x ∧ parityLane? x.bundle (regsRead i) = some l) ∧
  (∃ n : Nat, ∃ r : Run_, ∃ d : Dev, runOn? d n = some r ∧ r.stopped = true) ∧
  (∃ n : Nat, ∃ i : TrapInfo, ∃ r : Run_, ∃ d : Dev, ∃ e : Dev, runOn? d n = some r ∧ r.stopped = false ∧ i.kind ∈ [1, 3, 5, 6, 8, 9] ∧
    e = trapInput r i.kind (signal (8 * n + 3) (modRun n (fun r => { r with stopped := true, stoppedAt := d.geyser.now, outcome := some i.kind }) (stopIssue r (captureTrap n i r.rerun r.op.kernel d)))) ∧
    r.rerun = false) ∧
  (∃ n : Nat, ∃ i : TrapInfo, ∃ r : Run_, ∃ d : Dev, ∃ e : Dev, runOn? d n = some r ∧ r.stopped = false ∧ i.kind ∈ [1, 3, 5, 6, 8, 9] ∧
    e = trapInput r i.kind (signal (8 * n + 3) (modRun n (fun r => { r with stopped := true, stoppedAt := d.geyser.now, outcome := some i.kind }) (stopIssue r (captureTrap n i r.rerun r.op.kernel d)))) ∧
    r.rerun = true) :=
  ⟨⟨0, 0, 5, { instr := .rejoin }, [], _, st (running false run0 bundle0), _, rfl, rfl, by decide +kernel⟩,
   ⟨0, 0, 0, { instr := .imm 2 5 }, [], _, st (running false run0 bundle0), _, { slot := 0, instr := .imm 2 5 }, rfl, rfl, rfl,
    by decide +kernel⟩,
   ⟨0, 0, 0, { instr := .imm 2 5 }, [{ slot := 1, instr := .rejoin }], _, st two, _, { slot := 0, instr := .imm 2 5 }, { slot := 1, instr := .rejoin },
    rfl, rfl, rfl, by decide +kernel⟩,
   ⟨0, 0, 0, { instr := .imm 2 5 }, [{ slot := 1, instr := .imm 2 5 }], _, st two, _, { slot := 0, instr := .imm 2 5 }, { slot := 1, instr := .imm 2 5 },
    { bundle0 with order := 1 }, bundle0, rfl, rfl, rfl, by decide +kernel⟩,
   ⟨0, 0, 0, .imm 2 5, 2, fun _ => 5, _, st (running false run0 bundle0), _, _, site0 false, 63, 2, rfl, by decide +kernel, rfl,
    by decide +kernel, .inr (.inr (.inl ⟨rfl, fun _ => rfl⟩)), rfl, by decide +kernel⟩,
   ⟨0, 0, 0, .imm 2 5, 2, fun _ => 5, _, st (running false run0 bundle0), _, _, site0 false, rfl, by decide +kernel, rfl, by decide +kernel,
    .inr (.inr (.inl ⟨rfl, fun _ => rfl⟩)), rfl, by decide +kernel⟩,
   ⟨0, 0, 0, .imm 2 5, 2, fun _ => 5, _, st (running true run0 (bundle0)), _, _, { site0 true with bundle := bundle0 }, _, rfl,
    by decide +kernel, rfl, by decide +kernel, .inr (.inr (.inl ⟨rfl, fun _ => rfl⟩)), rfl, by decide +kernel, rfl, by decide +kernel⟩,
   ⟨0, 0, 0, .imm 2 5, 2, fun _ => 5, _, st (running true run0 ({ bundle0 with sig := { retired := 4095 } })), _, _,
    { site0 true with bundle := { bundle0 with sig := { retired := 4095 } } }, _, rfl, by decide +kernel, rfl, by decide +kernel,
    .inr (.inr (.inl ⟨rfl, fun _ => rfl⟩)), rfl, by decide +kernel, rfl, by decide +kernel, by decide +kernel⟩,
   ⟨0, 0, 0, .imm 2 5, 2, fun _ => 5, _, st ({ running true run0 ({ bundle0 with sig := { retired := 4095 } }) with cores := { core := [(0, { window := some window0, bundles := [(0, { bundle0 with sig := { retired := 4095 } })], store := (List.range 256).map fun i => { group := i + 1, index := 0, window := 0, passB := false, sig := 0 } })] } }),
    _, _, { site0 true with bundle := { bundle0 with sig := { retired := 4095 } } }, _, rfl, by decide +kernel, rfl, by decide +kernel,
    .inr (.inr (.inl ⟨rfl, fun _ => rfl⟩)), rfl, by decide +kernel, rfl, by decide +kernel, by decide +kernel⟩,
   ⟨0, 0, 0, st (running false run0 bundle0), _, _, site0 false, 1, rfl, by decide +kernel, rfl, by decide +kernel, by decide +kernel⟩,
   ⟨0, 0, 0, st (running false run0 bundle0), _, _, site0 false, 0, op1 none, rfl, by decide +kernel, rfl, by decide +kernel,
    by decide +kernel, by decide +kernel, ⟨_, rfl, by decide +kernel⟩, by decide +kernel⟩,
   ⟨0, 0, 0, st (running false run0 bundle0), _, _, site0 false, 0, rfl, by decide +kernel, rfl, by decide +kernel, by decide +kernel⟩,
   ⟨0, 0, 0, st (running false run0 bundle0), _, _, site0 false, 0, 0, .core 0 0, .core 1 0x7FFC0, 1, some (1, 2), rfl, by decide +kernel, rfl, by decide +kernel, by decide +kernel, by decide +kernel, five (by decide +kernel) (by intro e h; cases h; decide +kernel)⟩,
   ⟨0, 0, 0, st (running false run0 bundle0), _, _, site0 false, 0, 0, rfl, by decide +kernel, rfl, by decide +kernel⟩,
   ⟨0, 0, 0, st (running false run0 bundle0), _, _, site0 false, 1, .post 1, rfl, by decide +kernel, rfl, by decide +kernel, by decide +kernel⟩,
   ⟨1, { bundle0 with lanes := 3 }, 1, ⟨0, by decide +kernel⟩, ⟨1, by decide +kernel⟩, by decide +kernel⟩,
   ⟨0, 0, 0, st (running false run0 bundle0), _, _, site0 false, _, 4, _, 63, 1, false, rfl, by decide +kernel, by decide +kernel,
    by decide +kernel, rfl, by decide +kernel, by decide +kernel, by decide +kernel, some_pair (by decide +kernel)⟩,
   ⟨0, 0, 0, st (running false run0 bundle0), _, _, site0 false, _, 4, _, 63, 1, false, rfl, by decide +kernel, by decide +kernel,
    by decide +kernel, rfl, by decide +kernel, by decide +kernel, by decide +kernel, some_pair (by decide +kernel)⟩,
   ⟨0, 0, 0, st (running false run0 bundle0), _, _, site0 false, _, 4, _, .add, 1, 1, rfl, by decide +kernel, by decide +kernel,
    by decide +kernel, rfl, by decide +kernel, by decide +kernel, some_pair (by decide +kernel)⟩,
   ⟨0, 0, 0, st deviceRun, _, _, _, siteDev, _, 4, _, false, _, 63, .arg 0, 1, rfl, by decide +kernel, by decide +kernel, by decide +kernel,
    rfl, by decide +kernel, .inl ⟨by decide +kernel, rfl⟩, by decide +kernel, by decide +kernel, rfl, rfl, some_pair (by decide +kernel)⟩,
   ⟨0, 0, 0, st deviceRun, _, _, _, siteDev, _, 4, _, true, _, 63, .arg 0, 1, rfl, by decide +kernel, by decide +kernel, by decide +kernel,
    rfl, by decide +kernel, .inl ⟨by decide +kernel, rfl⟩, by decide +kernel, by decide +kernel, rfl, rfl, some_pair (by decide +kernel)⟩,
   ⟨0, 0, 0, st deviceRun, _, _, _, siteDev, _, 4, _, true, _, .add, .arg 0, 1, 1, rfl, by decide +kernel, by decide +kernel,
    by decide +kernel, rfl, by decide +kernel, .inl ⟨by decide +kernel, rfl⟩, by decide +kernel, rfl, rfl, some_pair (by decide +kernel)⟩,
   ⟨0, 0, 0, .laneReduceAdd 2 1 false, st (running false run0 { bundle0 with badParity := [1] }), _,
    { site0 false with bundle := { bundle0 with badParity := [1] } }, 0, rfl, by decide +kernel, by decide +kernel⟩,
   ⟨0, { run0 with stopped := true }, running false { run0 with stopped := true } bundle0, by decide +kernel, by decide +kernel⟩,
   ⟨0, { kind := 1 }, run0, running false run0 bundle0, _, by decide +kernel, by decide +kernel, by decide +kernel, rfl, by decide +kernel⟩,
   ⟨0, { kind := 9 }, { run0 with rerun := true }, running false { run0 with rerun := true } bundle0, _, by decide +kernel, by decide +kernel,
    by decide +kernel, rfl, by decide +kernel⟩⟩

/-- States and operands that meet the hypotheses of SignalsAndDma, clause by clause. -/
theorem witness_SignalsAndDma :
  (∃ t : Time, ∃ n : Fin 64, ∃ slot : Fin 64, ∃ s : State, ∃ d : Dev, d = advance t s.dev ∧ readySite? n slot.val d = none) ∧
  (∃ t : Time, ∃ n : Fin 64, ∃ slot : Fin 64, ∃ obj : Nat, ∃ s : State, ∃ d : Dev, ∃ e : Dev, ∃ x : Site, ∃ o : Nat, d = advance t s.dev ∧
    readySite? n slot.val d = some x ∧ o = objectOf x obj ∧
    e = setBundle n.val slot.val x.bundle (modCore n.val (fun c => { c with retired := c.retired + 1 }) d) ∧ x.kernel.signals ≤ obj) ∧
  (∃ t : Time, ∃ n : Fin 64, ∃ slot : Fin 64, ∃ obj : Nat, ∃ k : Nat, ∃ s : State, ∃ d : Dev, ∃ e : Dev, ∃ x : Site,
    ∃ o : Nat, d = advance t s.dev ∧ readySite? n slot.val d = some x ∧ o = objectOf x obj ∧
    e = setBundle n.val slot.val x.bundle (modCore n.val (fun c => { c with retired := c.retired + 1 }) d) ∧ obj < x.kernel.signals ∧
    (k = 0 ∨ 65536 < k)) ∧
  (∃ t : Time, ∃ n : Fin 64, ∃ slot : Fin 64, ∃ obj : Nat, ∃ k : Nat, ∃ s : State, ∃ d : Dev, ∃ e : Dev, ∃ x : Site,
    ∃ o : Nat, d = advance t s.dev ∧ readySite? n slot.val d = some x ∧ o = objectOf x obj ∧
    e = setBundle n.val slot.val x.bundle (modCore n.val (fun c => { c with retired := c.retired + 1 }) d) ∧ obj < x.kernel.signals ∧
    1 ≤ k ∧ k ≤ 65536 ∧ x.split = true ∧ transferring d n.val x.bundle.group x.bundle.index = false ∧ (signalOf d o).count + k ≤ 4294967295) ∧
  (∃ t : Time, ∃ n : Fin 64, ∃ slot : Fin 64, ∃ obj : Nat, ∃ k : Nat, ∃ s : State, ∃ d : Dev, ∃ e : Dev, ∃ x : Site,
    ∃ o : Nat, d = advance t s.dev ∧ readySite? n slot.val d = some x ∧ o = objectOf x obj ∧
    e = setBundle n.val slot.val x.bundle (modCore n.val (fun c => { c with retired := c.retired + 1 }) d) ∧ obj < x.kernel.signals ∧
    1 ≤ k ∧ k ≤ 65536 ∧ x.split = true ∧ transferring d n.val x.bundle.group x.bundle.index = false ∧ 4294967295 < (signalOf d o).count + k) ∧
  (∃ t : Time, ∃ n : Fin 64, ∃ slot : Fin 64, ∃ obj : Nat, ∃ k : Nat, ∃ s : State, ∃ d : Dev, ∃ e : Dev, ∃ x : Site,
    ∃ o : Nat, d = advance t s.dev ∧ readySite? n slot.val d = some x ∧ o = objectOf x obj ∧
    e = setBundle n.val slot.val x.bundle (modCore n.val (fun c => { c with retired := c.retired + 1 }) d) ∧ obj < x.kernel.signals ∧
    1 ≤ k ∧ k ≤ 65536 ∧ x.split = true ∧ transferring d n.val x.bundle.group x.bundle.index = true) ∧
  (∃ t : Time, ∃ n : Fin 64, ∃ slot : Fin 64, ∃ obj : Nat, ∃ k : Nat, ∃ s : State, ∃ d : Dev, ∃ e : Dev, ∃ x : Site,
    ∃ o : Nat, d = advance t s.dev ∧ readySite? n slot.val d = some x ∧ o = objectOf x obj ∧
    e = setBundle n.val slot.val x.bundle (modCore n.val (fun c => { c with retired := c.retired + 1 }) d) ∧ obj < x.kernel.signals ∧
    1 ≤ k ∧ k ≤ 65536 ∧ x.split = false ∧ storeRoom (coreOf d n.val) x.bundle = true) ∧
  (∃ obj : Nat, ∃ n : Nat, ∃ slot : Nat, ∃ k : Nat, ∃ rest : List (Nat × Nat × Nat),
    ∃ d : Dev, (signalOf d obj).waiters = (n, slot, k) :: rest ∧ k ≤ (signalOf d obj).count) ∧
  (∃ obj : Nat, ∃ n : Nat, ∃ slot : Nat, ∃ k : Nat, ∃ rest : List (Nat × Nat × Nat),
    ∃ d : Dev, (signalOf d obj).waiters = (n, slot, k) :: rest ∧ (signalOf d obj).count < k) ∧
  (∃ n : Nat, ∃ slot : Nat, ∃ b : Bundle, ∃ d : Dev, bundleOf? d n slot = some b ∧ (coreOf d n).split = true) ∧
  (∃ t : Time, ∃ n : Fin 64, ∃ slot : Fin 64, ∃ obj : Nat, ∃ k : Nat, ∃ s : State, ∃ d : Dev, ∃ x : Site, ∃ o : Nat, d = advance t s.dev ∧
    readySite? n slot.val d = some x ∧ x.bundle.passB = false ∧ obj < x.kernel.signals ∧ 1 ≤ k ∧ k ≤ 65536 ∧ o = objectOf x obj ∧
    (x.split = true ∨ x.bundle.sig.retired + 1 < 4096) ∧ ((signalOf d o).waiters ≠ [] ∨ (signalOf d o).count < k)) ∧
  (∃ t : Time, ∃ n : Fin 64, ∃ slot : Fin 64, ∃ obj : Nat, ∃ k : Nat, ∃ s : State, ∃ d : Dev, ∃ x : Site, ∃ o : Nat, d = advance t s.dev ∧
    readySite? n slot.val d = some x ∧ x.bundle.passB = false ∧ obj < x.kernel.signals ∧ 1 ≤ k ∧ k ≤ 65536 ∧ o = objectOf x obj ∧
    x.split = true ∧ (signalOf d o).waiters = [] ∧ k ≤ (signalOf d o).count) ∧
  (∃ t : Time, ∃ n : Fin 64, ∃ slot : Fin 64, ∃ obj : Nat, ∃ dst : Fin 64, ∃ s : State, ∃ d : Dev, ∃ x : Site, ∃ v : W32,
    ∃ b : Bundle, d = advance t s.dev ∧ readySite? n slot.val d = some x ∧ obj < x.kernel.signals ∧
    b = putReg dst (fun _ => v) (bump x.bundle) ∧ x.split = true ∧ x.bundle.passB = false ∧
    v = BitVec.ofNat 32 (signalOf d (objectOf x obj)).count) ∧
  (∃ t : Time, ∃ n : Fin 64, ∃ slot : Fin 64, ∃ obj : Nat, ∃ dst : Fin 64, ∃ s : State, ∃ d : Dev, ∃ x : Site, ∃ v : W32, ∃ b : Bundle,
    ∃ w : W128, ∃ e : Dev, d = advance t s.dev ∧ readySite? n slot.val d = some x ∧ obj < x.kernel.signals ∧
    b = putReg dst (fun _ => v) (bump x.bundle) ∧ x.split = false ∧ x.bundle.sig.retired + 1 < 4096 ∧ (x.bundle.passB = false ∧
    v = BitVec.ofNat 32 (signalOf d (objectOf x obj)).count ∧
    e = modCore n.val (fun c => { c with forwards := c.forwards ++ [(x.bundle.group, x.bundle.index, x.bundle.ordinal, [v])] }) d ∨ x.bundle.passB = true ∧
    ∃ l, takeForward? x d = some (l, e) ∧ v = l.headD 0) ∧
    w = (signalItems x.bundle 3 obj 0 v.toNat ++ regItems b dst).foldl foldItem x.bundle.sig.sig) ∧
  (∃ t : Time, ∃ ch : Fin 288, ∃ s : State, ∃ a : State, ∃ c : DmaChannel, a = atMem t s ∧ c = dmaOf a.dev ch.val ∧
    (c.busy = false ∨ c.halted = true)) ∧
  (∃ t : Time, ∃ ch : Fin 288, ∃ s : State, ∃ a : State, ∃ c : DmaChannel, ∃ u : Option Time, ∃ g : Dev, a = atMem t s ∧
    c = dmaOf a.dev ch.val ∧ c.busy = true ∧ c.halted = false ∧ dmaTokens ch.val (keyOf a.dev (.dma ch.val)) a.dev = (u, g) ∧
    (u = none ∨ ∃ w, u = some w ∧ g.geyser.now < w)) ∧
  (∃ t : Time, ∃ ch : Fin 288, ∃ s : State, ∃ a : State, ∃ c : DmaChannel, ∃ u : Option Time, ∃ g : Dev, ∃ w : Time, ∃ ok : Bool,
    ∃ e : State, ∃ f : Dev, a = atMem t s ∧ c = dmaOf a.dev ch.val ∧ c.busy = true ∧ c.halted = false ∧
    dmaTokens ch.val (keyOf a.dev (.dma ch.val)) a.dev = (u, g) ∧ u = some w ∧ w ≤ g.geyser.now ∧
    dmaLines ch.val (keyOf a.dev (.dma ch.val)) c.lines c.src c.dst { a with dev := g } = (ok, e) ∧
    f = modDma ch.val (fun c => { c with busy := false, post := none, served := none }) e.dev ∧ ok = false) ∧
  (∃ t : Time, ∃ ch : Fin 288, ∃ s : State, ∃ a : State, ∃ c : DmaChannel, ∃ u : Option Time, ∃ g : Dev, ∃ w : Time, ∃ ok : Bool,
    ∃ e : State, ∃ f : Dev, a = atMem t s ∧ c = dmaOf a.dev ch.val ∧ c.busy = true ∧ c.halted = false ∧
    dmaTokens ch.val (keyOf a.dev (.dma ch.val)) a.dev = (u, g) ∧ u = some w ∧ w ≤ g.geyser.now ∧
    dmaLines ch.val (keyOf a.dev (.dma ch.val)) c.lines c.src c.dst { a with dev := g } = (ok, e) ∧
    f = modDma ch.val (fun c => { c with busy := false, post := none, served := none }) e.dev ∧ ok = true ∧ c.post = none) ∧
  (∃ t : Time, ∃ ch : Fin 288, ∃ s : State, ∃ a : State, ∃ c : DmaChannel, ∃ u : Option Time, ∃ g : Dev, ∃ w : Time, ∃ ok : Bool,
    ∃ e : State, ∃ f : Dev, ∃ o : Nat, ∃ k : Nat, ∃ h : Dev, a = atMem t s ∧ c = dmaOf a.dev ch.val ∧ c.busy = true ∧ c.halted = false ∧
    dmaTokens ch.val (keyOf a.dev (.dma ch.val)) a.dev = (u, g) ∧ u = some w ∧ w ≤ g.geyser.now ∧
    dmaLines ch.val (keyOf a.dev (.dma ch.val)) c.lines c.src c.dst { a with dev := g } = (ok, e) ∧
    f = modDma ch.val (fun c => { c with busy := false, post := none, served := none }) e.dev ∧ ok = true ∧ c.post = some (o, k) ∧
    h = (if (signalOf f o).count + k ≤ 4294967295 then serveSignal o (signalOf f o).waiters.length (setSignal o { signalOf f o with count := (signalOf f o).count + k } f) else trapOn c.core { kind := 9 } f)) ∧
  (∃ ch : Nat, ∃ src : Nat, ∃ dst : Nat, ∃ key : Key, ∃ s : State, ∃ e : State, ∃ ok : Bool, dmaLine ch src dst key s = (ok, e)) ∧
  (∃ ch : Fin 288, ∃ s : State, ∃ c : DmaChannel, c = dmaOf s.dev ch.val) :=
  ⟨⟨0, 0, 1, st (running false run0 bundle0), _, rfl, by decide +kernel⟩,
   ⟨0, 0, 0, 2, st (running false run0 bundle0), _, _, site0 false, _, rfl, by decide +kernel, rfl, rfl, by decide +kernel⟩,
   ⟨0, 0, 0, 1, 65537, st (running false run0 bundle0), _, _, site0 false, _, rfl, by decide +kernel, rfl, rfl, by decide +kernel,
    by decide +kernel⟩,
   ⟨0, 0, 0, 1, 65536, st (running false run0 bundle0), _, _, site0 false, _, rfl, by decide +kernel, rfl, rfl, by decide +kernel⟩,
   ⟨0, 0, 0, 1, 65536,
    st ({ running false run0 bundle0 with cores := { (running false run0 bundle0).cores with signals := [(objectOf (site0 false) 1, { count := 4294967295 })] } }),
    _, _, site0 false, _, rfl, by decide +kernel, rfl, rfl, by decide +kernel⟩,
   ⟨0, 0, 0, 1, 1, st ({ running false run0 bundle0 with cores := { (running false run0 bundle0).cores with dma := [(0, { busy := true, core := 0 })] } }),
    _, _, site0 false, _, rfl, by decide +kernel, rfl, rfl, by decide +kernel⟩,
   ⟨0, 0, 0, 1, 1, st (running true run0 bundle0), _, _, site0 true, _, rfl, by decide +kernel, rfl, rfl, by decide +kernel⟩,
   ⟨1, 0, 0, 5, [], { world with cores := { signals := [(1, { count := 5, waiters := [(0, 0, 5)] })] } }, by decide +kernel, by decide +kernel⟩,
   ⟨1, 0, 0, 6, [], { world with cores := { signals := [(1, { count := 5, waiters := [(0, 0, 6)] })] } }, by decide +kernel, by decide +kernel⟩,
   ⟨0, 0, bundle0, running false run0 bundle0, by decide +kernel, by decide +kernel⟩,
   ⟨0, 0, 0, 1, 1, st (running false run0 bundle0), _, site0 false, _, rfl, five (by decide +kernel) ⟨rfl, by decide +kernel, by decide +kernel⟩⟩,
   ⟨0, 0, 0, 1, 65536,
    st ({ running false run0 bundle0 with cores := { (running false run0 bundle0).cores with signals := [(objectOf (site0 false) 1, { count := 65536 })] } }),
    _, site0 false, _, rfl, five (by decide +kernel) ⟨rfl, by decide +kernel⟩⟩,
   ⟨0, 0, 0, 1, 2, st (running false run0 bundle0), _, site0 false, _, _, rfl, by decide +kernel, by decide +kernel, rfl, by decide +kernel,
    by decide +kernel, rfl⟩,
   ⟨0, 0, 0, 1, 2, st (running true run0 bundle0), _, site0 true, _, _, _, _, rfl, by decide +kernel, by decide +kernel, rfl,
    by decide +kernel, by decide +kernel, .inl ⟨rfl, rfl, rfl⟩, rfl⟩,
   ⟨0, 287, st world, _, _, rfl, rfl, by decide +kernel⟩,
   ⟨0, 0, st (transfers ({ dma0 with served := some (ms 1) })), _, _, some (ms 1), _, rfl, rfl, by decide +kernel, by decide +kernel,
    pair_of (by decide +kernel), .inr ⟨_, rfl, by decide +kernel⟩⟩,
   ⟨0, 0, st (transfers ({ dma0 with src := 0 })), _, _, some 0, _, 0, false, _, _, rfl, rfl, by decide +kernel, by decide +kernel,
    pair_of (by decide +kernel), rfl, by decide +kernel, pair_of (by decide +kernel), rfl, rfl⟩,
   ⟨0, 0, st (transfers (dma0)), _, _, some 0, _, 0, true, _, _, rfl, rfl, by decide +kernel, by decide +kernel, pair_of (by decide +kernel),
    rfl, by decide +kernel, pair_of (by decide +kernel), rfl, rfl, by decide +kernel⟩,
   ⟨0, 0, st (transfers ({ dma0 with post := some (1, 65536) })), _, _, some 0, _, 0, true, _, _, 1, 65536, _, rfl, rfl, by decide +kernel,
    by decide +kernel, pair_of (by decide +kernel), rfl, by decide +kernel, pair_of (by decide +kernel), rfl, rfl, by decide +kernel, rfl⟩,
   ⟨0, 0x1100000000, 0x1100001000, .partition 1, st (transfers (dma0)), _, true, pair_of (by decide +kernel)⟩,
   ⟨287, st world, _, rfl⟩⟩

/-- States and operands that meet the hypotheses of EnginesAndPairs, clause by clause. -/
theorem witness_EnginesAndPairs :
  (∃ t : Time, ∃ n : Fin 64, ∃ engine : Fin 4, ∃ ms : List EngineUpset, ∃ ds : List EngineUpset, ∃ us : List EngineUpset, ∃ s : State,
    ∃ d : Dev, ∃ f : Dev, ∃ e : Engine, us = ms ++ ds ∧ d = advance t s.dev ∧ e = engineOf (coreOf d n.val) engine.val ∧
    f = setEngine n.val engine.val { e with op := none } d ∧ (e.op = none ∨ isFenced d n.val = true)) ∧
  (∃ t : Time, ∃ n : Fin 64, ∃ engine : Fin 4, ∃ ms : List EngineUpset, ∃ ds : List EngineUpset, ∃ us : List EngineUpset, ∃ s : State,
    ∃ d : Dev, ∃ f : Dev, ∃ e : Engine, ∃ op : EngineOp, ∃ p : PairInfo, us = ms ++ ds ∧ d = advance t s.dev ∧
    e = engineOf (coreOf d n.val) engine.val ∧ f = setEngine n.val engine.val { e with op := none } d ∧ e.op = some op ∧
    pairInfo? op.pair = some p ∧ isFenced d n.val = false ∧ p.limit < (if op.start then 0 else e.k) + op.k) ∧
  (∃ t : Time, ∃ n : Fin 64, ∃ engine : Fin 4, ∃ ms : List EngineUpset, ∃ ds : List EngineUpset, ∃ us : List EngineUpset, ∃ s : State,
    ∃ d : Dev, ∃ f : Dev, ∃ e : Engine, ∃ op : EngineOp, ∃ p : PairInfo, ∃ g : State, us = ms ++ ds ∧ d = advance t s.dev ∧
    e = engineOf (coreOf d n.val) engine.val ∧ f = setEngine n.val engine.val { e with op := none } d ∧ e.op = some op ∧
    pairInfo? op.pair = some p ∧ isFenced d n.val = false ∧ (if op.start then 0 else e.k) + op.k ≤ p.limit ∧
    readOperands n engine.val e.slot e.base op { s with dev := f } = (none, g)) ∧
  (∃ t : Time, ∃ n : Fin 64, ∃ engine : Fin 4, ∃ ms : List EngineUpset, ∃ ds : List EngineUpset, ∃ us : List EngineUpset, ∃ s : State,
    ∃ d : Dev, ∃ f : Dev, ∃ e : Engine, ∃ op : EngineOp, ∃ p : PairInfo, ∃ x : Operands, ∃ g : State, ∃ h : Engine, us = ms ++ ds ∧
    d = advance t s.dev ∧ e = engineOf (coreOf d n.val) engine.val ∧ f = setEngine n.val engine.val { e with op := none } d ∧
    e.op = some op ∧ pairInfo? op.pair = some p ∧ isFenced d n.val = false ∧ (if op.start then 0 else e.k) + op.k ≤ p.limit ∧
    readOperands n engine.val e.slot e.base op { s with dev := f } = (some x, g) ∧
    h = upsetEngine p us (accumulate p op.start x { e with op := none }) ∧ op.drain = none) ∧
  (∃ t : Time, ∃ n : Fin 64, ∃ engine : Fin 4, ∃ ms : List EngineUpset, ∃ ds : List EngineUpset, ∃ us : List EngineUpset, ∃ s : State,
    ∃ d : Dev, ∃ f : Dev, ∃ e : Engine, ∃ op : EngineOp, ∃ p : PairInfo, ∃ x : Operands, ∃ g : State, ∃ h : Engine,
    ∃ o : Byte, us = ms ++ ds ∧ d = advance t s.dev ∧ e = engineOf (coreOf d n.val) engine.val ∧
    f = setEngine n.val engine.val { e with op := none } d ∧ e.op = some op ∧ pairInfo? op.pair = some p ∧ isFenced d n.val = false ∧
    (if op.start then 0 else e.k) + op.k ≤ p.limit ∧ readOperands n engine.val e.slot e.base op { s with dev := f } = (some x, g) ∧
    h = upsetEngine p us (accumulate p op.start x { e with op := none }) ∧ op.drain = some o) ∧
  (∃ p : PairInfo, ∃ start : Bool, ∃ x : Operands, ∃ e : Engine, ∃ f : Engine, ∃ i : Nat, ∃ j : Nat, f = accumulate p start x e ∧ i < 33 ∧
    j < 33) ∧
  (∃ n : Fin 64, ∃ engine : Nat, ∃ p : PairInfo, ∃ op : EngineOp, ∃ o : Byte, ∃ us : List EngineUpset, ∃ e : Engine, ∃ s : State,
    ∃ g : State, ∃ j : Injection, j = injection (coreOf s.dev n.val).engInject ∧
    (g = onDev (modCore n.val fun c => { c with exempt := min (c.exempt + exemptCount p o op.saturate op.mag e) 4294967295 }) s) ∧
    injectWaits (coreOf s.dev n.val) engine = false ∧ failures p op o us e = []) ∧
  (∃ n : Fin 64, ∃ engine : Nat, ∃ p : PairInfo, ∃ op : EngineOp, ∃ o : Byte, ∃ us : List EngineUpset, ∃ e : Engine, ∃ s : State,
    ∃ g : State, ∃ j : Injection, ∃ u : EngineFail, ∃ l : List EngineFail, j = injection (coreOf s.dev n.val).engInject ∧
    (g = onDev (modCore n.val fun c => { c with exempt := min (c.exempt + exemptCount p o op.saturate op.mag e) 4294967295 }) s) ∧
    injectWaits (coreOf s.dev n.val) engine = false ∧ failures p op o us e = u :: l) ∧
  (∃ n : Fin 64, ∃ engine : Nat, ∃ p : PairInfo, ∃ op : EngineOp, ∃ o : Byte, ∃ us : List EngineUpset, ∃ e : Engine, ∃ s : State,
    ∃ g : State, ∃ j : Injection, j = injection (coreOf s.dev n.val).engInject ∧
    (g = onDev (modCore n.val fun c => { c with exempt := min (c.exempt + exemptCount p o op.saturate op.mag e) 4294967295 }) s) ∧
    injectWaits (coreOf s.dev n.val) engine = true ∧ (∀ u ∈ failures p op o us e, injectMeets j u = true)) ∧
  (∃ n : Nat, ∃ d : Dev, engCaptured n d = false) ∧
  (∃ t : Time, ∃ k : Fin 66, ∃ rail : Bool, ∃ s : State, ∃ d : Dev, d = advance t s.dev ∧ k.val < 64 ∧ rail = true) ∧
  (∃ t : Time, ∃ k : Fin 66, ∃ rail : Bool, ∃ s : State, ∃ d : Dev, d = advance t s.dev ∧ 64 ≤ k.val ∧ rail = true) ∧
  (∃ t : Time, ∃ k : Fin 66, ∃ rail : Bool, ∃ s : State, ∃ d : Dev, d = advance t s.dev ∧ 64 ≤ k.val ∧ rail = false) ∧
  (∃ t : Time, ∃ k : Fin 66, ∃ rail : Bool, ∃ s : State, ∃ d : Dev, d = advance t s.dev ∧ k.val < 64 ∧ rail = false ∧
    isFenced d k.val = true) ∧
  (∃ t : Time, ∃ k : Fin 66, ∃ group : Nat, ∃ bundle : Nat, ∃ window : Nat, ∃ rail : Bool, ∃ s : State, ∃ d : Dev, ∃ a : Option StoredSig,
    ∃ b : Option StoredSig, ∃ e : Dev, ∃ slot : Nat, d = advance t s.dev ∧ k.val < 64 ∧ rail = false ∧ isFenced d k.val = false ∧
    (coreOf d k.val).store.find? (fun x => x.group == group && x.index == bundle && x.window == window && !x.passB) = a ∧
    (coreOf d k.val).store.find? (fun x => x.group == group && x.index == bundle && x.window == window && x.passB) = b ∧
    (e = modCore k.val (fun c => { c with store := c.store.filter fun x => !(x.group == group && x.index == bundle && x.window == window) }) d) ∧
    (slot = (((coreOf d k.val).bundles.find? fun x => x.2.group == group && x.2.index == bundle && !x.2.passB).map (·.1)).getD 0) ∧
    (a = none ∨ b = none)) ∧
  (∃ t : Time, ∃ k : Fin 66, ∃ group : Nat, ∃ bundle : Nat, ∃ window : Nat, ∃ up : Bool, ∃ rail : Bool, ∃ s : State, ∃ d : Dev,
    ∃ a : Option StoredSig, ∃ b : Option StoredSig, ∃ e : Dev, ∃ slot : Nat, ∃ x : StoredSig, ∃ y : StoredSig, d = advance t s.dev ∧
    k.val < 64 ∧ rail = false ∧ isFenced d k.val = false ∧
    (coreOf d k.val).store.find? (fun x => x.group == group && x.index == bundle && x.window == window && !x.passB) = a ∧
    (coreOf d k.val).store.find? (fun x => x.group == group && x.index == bundle && x.window == window && x.passB) = b ∧
    (e = modCore k.val (fun c => { c with store := c.store.filter fun x => !(x.group == group && x.index == bundle && x.window == window) }) d) ∧
    (slot = (((coreOf d k.val).bundles.find? fun x => x.2.group == group && x.2.index == bundle && !x.2.passB).map (·.1)).getD 0) ∧
    a = some x ∧ b = some y ∧ x.sig = y.sig ∧ up = false ∧ x.act = none) ∧
  (∃ t : Time, ∃ k : Fin 66, ∃ group : Nat, ∃ bundle : Nat, ∃ window : Nat, ∃ up : Bool, ∃ rail : Bool, ∃ s : State, ∃ d : Dev,
    ∃ a : Option StoredSig, ∃ b : Option StoredSig, ∃ e : Dev, ∃ slot : Nat, ∃ x : StoredSig, ∃ y : StoredSig, ∃ act : Act, ∃ r : Run_,
    ∃ kern : Kernel, d = advance t s.dev ∧ k.val < 64 ∧ rail = false ∧ isFenced d k.val = false ∧
    (coreOf d k.val).store.find? (fun x => x.group == group && x.index == bundle && x.window == window && !x.passB) = a ∧
    (coreOf d k.val).store.find? (fun x => x.group == group && x.index == bundle && x.window == window && x.passB) = b ∧
    (e = modCore k.val (fun c => { c with store := c.store.filter fun x => !(x.group == group && x.index == bundle && x.window == window) }) d) ∧
    (slot = (((coreOf d k.val).bundles.find? fun x => x.2.group == group && x.2.index == bundle && !x.2.passB).map (·.1)).getD 0) ∧
    a = some x ∧ b = some y ∧ x.sig = y.sig ∧ up = false ∧ x.act = some act ∧ runOn? d k.val = some r ∧ opKernel? d r.op = some kern) ∧
  (∃ t : Time, ∃ k : Fin 66, ∃ group : Nat, ∃ bundle : Nat, ∃ window : Nat, ∃ up : Bool, ∃ rail : Bool, ∃ s : State, ∃ d : Dev,
    ∃ a : Option StoredSig, ∃ b : Option StoredSig, ∃ e : Dev, ∃ slot : Nat, ∃ x : StoredSig, ∃ y : StoredSig, d = advance t s.dev ∧
    k.val < 64 ∧ rail = false ∧ isFenced d k.val = false ∧
    (coreOf d k.val).store.find? (fun x => x.group == group && x.index == bundle && x.window == window && !x.passB) = a ∧
    (coreOf d k.val).store.find? (fun x => x.group == group && x.index == bundle && x.window == window && x.passB) = b ∧
    (e = modCore k.val (fun c => { c with store := c.store.filter fun x => !(x.group == group && x.index == bundle && x.window == window) }) d) ∧
    (slot = (((coreOf d k.val).bundles.find? fun x => x.2.group == group && x.2.index == bundle && !x.2.passB).map (·.1)).getD 0) ∧
    a = some x ∧ b = some y ∧ (x.sig ≠ y.sig ∨ up = true)) ∧
  (∃ n : Nat, ∃ kind : Nat, ∃ group : Nat, ∃ bundle : Nat, ∃ window : Nat, ∃ r : Run_, ∃ d : Dev, ∃ e : Dev, runOn? d n = some r ∧
    e = capturePair n kind group bundle window d) ∧
  (∃ t : Time, ∃ k : Fin 66, ∃ v : W32, ∃ s : State, ∃ d : Dev, d = advance t s.dev ∧ (v.getLsbD 31 = false ∨ k.val < 64 ∧
    resident k.val d = true)) ∧
  (∃ t : Time, ∃ k : Fin 66, ∃ v : W32, ∃ works : Bool, ∃ rail : Bool, ∃ s : State, ∃ d : Dev, d = advance t s.dev ∧ v.getLsbD 31 = true ∧
    (k.val < 64 → resident k.val d = false) ∧ works = true ∧ rail = false) ∧
  (∃ t : Time, ∃ k : Fin 66, ∃ v : W32, ∃ rail : Bool, ∃ s : State, ∃ d : Dev, d = advance t s.dev ∧ v.getLsbD 31 = true ∧
    (k.val < 64 → resident k.val d = false) ∧ rail = true) ∧
  (∃ t : Time, ∃ k : Fin 66, ∃ v : W32, ∃ works : Bool, ∃ rail : Bool, ∃ s : State, ∃ d : Dev, d = advance t s.dev ∧ v.getLsbD 31 = true ∧
    (k.val < 64 → resident k.val d = false) ∧ works = false ∧ rail = false ∧ k.val < 64) ∧
  (∃ t : Time, ∃ k : Fin 66, ∃ v : W32, ∃ works : Bool, ∃ rail : Bool, ∃ s : State, ∃ d : Dev, d = advance t s.dev ∧ v.getLsbD 31 = true ∧
    (k.val < 64 → resident k.val d = false) ∧ works = false ∧ rail = false ∧ 64 ≤ k.val) ∧
  (∃ d : Dev, d.start.wireTest = false) :=
  ⟨⟨0, 0, 0, [], [], _, st world, _, _, _, rfl, rfl, rfl, rfl, by decide +kernel⟩,
   ⟨0, 0, 0, [], [], _, st (engined { op1 none with k := 131072 }), _, _, _, { op1 none with k := 131072 }, pairOne, rfl, rfl, rfl, rfl, by decide +kernel⟩,
   ⟨0, 0, 0, [], [], _, { st (engined (op1 none)) with mem := { synd := [(0x220000000, 3)] } }, _, _, _, op1 none, pairOne, _, rfl, rfl, rfl,
    rfl, by decide +kernel, by decide +kernel, by decide +kernel, by decide +kernel, pair_of (by decide +kernel)⟩,
   ⟨0, 0, 0, [], [], _, st (engined (op1 none)), _, _, _, op1 none, pairOne, _, _, _, rfl, rfl, rfl, rfl, by decide +kernel, by decide +kernel,
    by decide +kernel, by decide +kernel, some_pair (by decide +kernel), rfl, by decide +kernel⟩,
   ⟨0, 0, 0, [], [], _, st (engined (op1 (some 0x0B))), _, _, _, op1 (some 0x0B), pairOne, _, _, _, 0x0B, rfl, rfl, rfl, rfl,
    by decide +kernel, by decide +kernel, by decide +kernel, by decide +kernel, some_pair (by decide +kernel), rfl, by decide +kernel⟩,
   ⟨pairOne, true, { k := 1, fmtA := 1, fmtB := 1, a := [3], b := [4], scaleA := [], scaleB := [] }, {}, _, 0, 32, rfl, by decide +kernel,
    by decide +kernel⟩,
   ⟨0, 0, pairOne, op1 (some 0x0B), 0x0B, [], {}, st world, _, _, rfl, rfl, by decide +kernel, by decide +kernel⟩,
   ⟨0, 0, pairOne, op1 (some 0x0B), 0x0B, [{ part := .converter, row := 1, col := 2, bit := 0 }], {}, st world, _, _, { kind := 5, row := 1, col := 2 },
    [], rfl, rfl, by decide +kernel, by decide +kernel⟩,
   ⟨0, 0, pairOne, op1 (some 0x0B), 0x0B, [{ part := .converter, row := 1, col := 2, bit := 0 }], {}, st { world with cores := { core := [(0, { engInject := 0xD0108000 })] } },
    _, _, rfl, rfl, by decide +kernel, by decide +kernel⟩,
   ⟨0, world, by decide +kernel⟩,
   ⟨0, 63, true, st world, _, rfl, by decide +kernel, rfl⟩,
   ⟨0, 64, true, st world, _, rfl, by decide +kernel, rfl⟩,
   ⟨0, 64, false, st world, _, rfl, by decide +kernel, rfl⟩,
   ⟨0, 3, false, st { world with cores := { core := [(3, { fenced := true })] } }, _, rfl, by decide +kernel, rfl, by decide +kernel⟩,
   ⟨0, 0, 0, 0, 0, false, st world, _, none, none, _, _, rfl, by decide +kernel, rfl, by decide +kernel, by decide +kernel, by decide +kernel,
    rfl, rfl, by decide +kernel⟩,
   ⟨0, 0, 0, 0, 0, false, false, st (stored [{ group := 0, index := 0, window := 0, passB := false, sig := 1, act := none }, { group := 0, index := 0, window := 0, passB := true, sig := 1, act := none }]),
    _, some { group := 0, index := 0, window := 0, passB := false, sig := 1, act := none }, some { group := 0, index := 0, window := 0, passB := true, sig := 1, act := none },
    _, _, { group := 0, index := 0, window := 0, passB := false, sig := 1, act := none }, { group := 0, index := 0, window := 0, passB := true, sig := 1, act := none },
    rfl, by decide +kernel, rfl, by decide +kernel, by decide +kernel, by decide +kernel, rfl, rfl, rfl, rfl, by decide +kernel, rfl,
    by decide +kernel⟩,
   ⟨0, 0, 0, 0, 0, false, false, st (stored [{ group := 0, index := 0, window := 0, passB := false, sig := 1, act := some (.post 1 1) },
    { group := 0, index := 0, window := 0, passB := true, sig := 1, act := none }]), _, some { group := 0, index := 0, window := 0, passB := false, sig := 1, act := some (.post 1 1) },
    some { group := 0, index := 0, window := 0, passB := true, sig := 1, act := none }, _, _, { group := 0, index := 0, window := 0, passB := false, sig := 1, act := some (.post 1 1) },
    { group := 0, index := 0, window := 0, passB := true, sig := 1, act := none }, .post 1 1, run0, kernel0, rfl, by decide +kernel, rfl,
    by decide +kernel, by decide +kernel, by decide +kernel, rfl, rfl, rfl, rfl, by decide +kernel, rfl, by decide +kernel⟩,
   ⟨0, 0, 0, 0, 0, false, false, st (stored [{ group := 0, index := 0, window := 0, passB := false, sig := 1, act := none }, { group := 0, index := 0, window := 0, passB := true, sig := 2, act := none }]),
    _, some { group := 0, index := 0, window := 0, passB := false, sig := 1, act := none }, some { group := 0, index := 0, window := 0, passB := true, sig := 2, act := none },
    _, _, { group := 0, index := 0, window := 0, passB := false, sig := 1, act := none }, { group := 0, index := 0, window := 0, passB := true, sig := 2, act := none },
    rfl, by decide +kernel, rfl, by decide +kernel, by decide +kernel, by decide +kernel, rfl, rfl, rfl, rfl, by decide +kernel⟩,
   ⟨0, 0, 0, 0, 0, run0, running true run0 bundle0, _, by decide +kernel, rfl⟩,
   ⟨0, 63, 0, st world, _, rfl, by decide +kernel⟩,
   ⟨0, 63, 0x80000000, true, false, st world, _, rfl, by decide +kernel, by decide +kernel, rfl, rfl⟩,
   ⟨0, 64, 0x80000000, true, st world, _, rfl, by decide +kernel, by decide +kernel, rfl⟩,
   ⟨0, 63, 0x80000000, false, false, st world, _, rfl, by decide +kernel, by decide +kernel, rfl, rfl, by decide +kernel⟩,
   ⟨0, 64, 0x80000000, false, false, st world, _, rfl, by decide +kernel, by decide +kernel, rfl, rfl, by decide +kernel⟩,
   ⟨world, by decide +kernel⟩⟩

/-- States and operands that meet the hypotheses of TwoPhaseChanges, clause by clause. -/
theorem witness_TwoPhaseChanges :
  (∃ t : Time, ∃ k : UnitBit, ∃ s : State, ∃ d : Dev, d = advance t s.dev ∧
    d.cores.changes.find? (fun c => pendingChange c && c.named.getLsbD k.val && !c.acked.getLsbD k.val) = none) ∧
  (∃ t : Time, ∃ k : UnitBit, ∃ s : State, ∃ d : Dev, ∃ c : Change, d = advance t s.dev ∧
    d.cores.changes.find? (fun c => pendingChange c && c.named.getLsbD k.val && !c.acked.getLsbD k.val) = some c ∧
    c.prepareBy ≤ d.geyser.now) ∧
  (∃ t : Time, ∃ k : UnitBit, ∃ s : State, ∃ d : Dev, ∃ c : Change, d = advance t s.dev ∧
    d.cores.changes.find? (fun c => pendingChange c && c.named.getLsbD k.val && !c.acked.getLsbD k.val) = some c ∧
    d.geyser.now < c.prepareBy ∧ c.cores = false) ∧
  (∃ t : Time, ∃ k : UnitBit, ∃ s : State, ∃ d : Dev, ∃ c : Change, d = advance t s.dev ∧
    d.cores.changes.find? (fun c => pendingChange c && c.named.getLsbD k.val && !c.acked.getLsbD k.val) = some c ∧
    d.geyser.now < c.prepareBy ∧ c.cores = true ∧ (isFenced d k.val = true ∨ (modeSplit c.packet).getLsbD k.val = false ∧
    resident k.val d = true)) ∧
  (∃ t : Time, ∃ k : UnitBit, ∃ s : State, ∃ d : Dev, ∃ c : Change, d = advance t s.dev ∧
    d.cores.changes.find? (fun c => pendingChange c && c.named.getLsbD k.val && !c.acked.getLsbD k.val) = some c ∧
    d.geyser.now < c.prepareBy ∧ c.cores = true ∧ isFenced d k.val = false ∧ (modeSplit c.packet).getLsbD k.val = true) ∧
  (∃ t : Time, ∃ k : UnitBit, ∃ s : State, ∃ d : Dev, ∃ c : Change, d = advance t s.dev ∧
    d.cores.changes.find? (fun c => pendingChange c && c.named.getLsbD k.val && !c.acked.getLsbD k.val) = some c ∧
    d.geyser.now < c.prepareBy ∧ c.cores = true ∧ isFenced d k.val = false ∧ (modeSplit c.packet).getLsbD k.val = false ∧
    resident k.val d = false) ∧
  (∃ s : State, (∀ c, c ∈ s.dev.cores.changes → pendingChange c = true → c.acked = c.named)) ∧
  (∃ s : State, ∃ c : Change, (earliest (·.prepareBy) (s.dev.cores.changes.filter fun c => pendingChange c && c.acked != c.named) = some c)) ∧
  (∃ s : State, (∀ c ∈ s.dev.cores.changes, pendingChange c = false)) ∧
  (∃ s : State, ∃ c : Change, earliest (·.commitAt) (s.dev.cores.changes.filter pendingChange) = some c ∧ c.acked ≠ c.named) ∧
  (∃ s : State, ∃ c : Change, earliest (·.commitAt) (s.dev.cores.changes.filter pendingChange) = some c ∧ c.acked = c.named) ∧
  (∃ n : Nat, n < 64) :=
  ⟨⟨0, 0, st world, _, rfl, by decide +kernel⟩,
   ⟨ms 1, 0, st (changing (change0 false 0)), _, change0 false 0, rfl, by decide +kernel, by decide +kernel⟩,
   ⟨0, 0, st (changing (change0 false 0)), _, change0 false 0, rfl, by decide +kernel⟩,
   ⟨0, 0, st { world with cores := { changes := [change0 true 0], core := [(0, { fenced := true })] } }, _, change0 true 0, rfl, by decide +kernel⟩,
   ⟨0, 0, st (changing ({ change0 true 0 with packet := pk 0x0205 [] (le [(8, 1), (8, 1)]) })), _,
    { change0 true 0 with packet := pk 0x0205 [] (le [(8, 1), (8, 1)]) }, rfl, by decide +kernel⟩,
   ⟨0, 0, st (changing (change0 true 0)), _, change0 true 0, rfl, by decide +kernel⟩,
   ⟨st (changing (change0 true 1)), by decide +kernel⟩,
   ⟨st (changing (change0 true 0)), change0 true 0, by decide +kernel⟩,
   ⟨st (changing { change0 true 1 with committed := true }), by decide +kernel⟩,
   ⟨st (changing (change0 true 0)), change0 true 0, by decide +kernel, by decide +kernel⟩,
   ⟨st (changing (change0 true 1)), change0 true 1, by decide +kernel, by decide +kernel⟩,
   ⟨63, by decide +kernel⟩⟩

/-- States and operands that meet the hypotheses of ChangesConclude, clause by clause. -/
theorem witness_ChangesConclude :
  (∃ d : Dev, ∃ c : Change, ∃ failed : W64, ∃ e : Dev, failed = c.acked &&& ~~~c.applied ∧
    e = setChange { c with failed := failed } 1 (advance (c.commitAt + us 20) d) ∧ (c.committed = false ∨ failed = 0 ∨ c.failed ≠ 0)) ∧
  (∃ d : Dev, ∃ c : Change, ∃ failed : W64, ∃ e : Dev, ∃ n : Nat, failed = c.acked &&& ~~~c.applied ∧
    e = setChange { c with failed := failed } 1 (advance (c.commitAt + us 20) d) ∧ c.committed = true ∧ failed ≠ 0 ∧ c.failed = 0 ∧
    c.cores = true ∧ d.start.wireTest = false ∧ n < 64 ∧ failed.getLsbD n = true) ∧
  (∃ d : Dev, ∃ c : Change, ∃ failed : W64, ∃ e : Dev, failed = c.acked &&& ~~~c.applied ∧
    e = setChange { c with failed := failed } 1 (advance (c.commitAt + us 20) d) ∧ c.committed = true ∧ failed ≠ 0 ∧ c.failed = 0 ∧
    c.cores = false) ∧
  (∃ s : State, ∃ c : Change, s.dev.cores.changes.find? (fun c => c.committed || c.aborted) = some c) ∧
  (∃ s : State, (∀ c ∈ s.dev.cores.changes, c.committed = false ∧ c.aborted = false)) :=
  ⟨⟨changing (change0 true 1), change0 true 1, _, _, rfl, rfl, by decide +kernel⟩,
   ⟨changing ({ change0 true 1 with committed := true }), { change0 true 1 with committed := true }, _, _, 0, rfl, rfl, by decide +kernel⟩,
   ⟨changing ({ change0 false 1 with committed := true }), { change0 false 1 with committed := true }, _, _, rfl, rfl, by decide +kernel⟩,
   ⟨st (changing { change0 true 1 with committed := true }), { change0 true 1 with committed := true }, by decide +kernel⟩,
   ⟨st (changing (change0 true 0)), by decide +kernel⟩⟩

/-- States and operands that meet the hypotheses of AdmissionCommits, clause by clause. -/
theorem witness_AdmissionCommits :
  (∃ q : Option (Fin 16), ∃ s : State, s.dev.sched.commits.find? (fun c => c.partition == q.map (·.val)) = none ∧ s.dev.fabric.role ≠ 1) ∧
  (∃ p : Fin 16, ∃ s : State, ∃ c : PendingCommit, s.dev.sched.commits.find? (fun c => c.partition == some p.val) = some c) ∧
  (∃ s : State, ∃ c : PendingCommit, s.dev.sched.commits.find? (fun c => c.partition == none) = some c) ∧
  (∃ b : Bucket, b.made = false) ∧
  (∃ t : Time, ∃ depth : Nat, ∃ level : Nat, ∃ b : Bucket, level = min (4294967296 * b.depth) (b.level + b.rate * (t - b.at_) / 1000) ∧
    b.made = true ∧ b.depth ≤ depth) ∧
  (∃ t : Time, ∃ depth : Nat, ∃ level : Nat, ∃ b : Bucket, level = min (4294967296 * b.depth) (b.level + b.rate * (t - b.at_) / 1000) ∧
    b.made = true ∧ depth < b.depth) :=
  ⟨⟨some 1, st world, by decide +kernel, by decide +kernel⟩,
   ⟨1, st { world with sched := { commits := [{ partition := some 1, due := ms 10, config := {} }] } }, { partition := some 1, due := ms 10, config := {} },
    by decide +kernel⟩,
   ⟨st { world with sched := { commits := [{ partition := none, due := ms 10, config := {} }] } }, { partition := none, due := ms 10, config := {} },
    by decide +kernel⟩,
   ⟨{}, by decide +kernel⟩,
   ⟨0, 10, _, { rate := 1000, depth := 10, made := true }, rfl, by decide +kernel, by decide +kernel⟩,
   ⟨0, 9, _, { rate := 1000, depth := 10, made := true }, rfl, by decide +kernel, by decide +kernel⟩⟩

/-- States and operands that meet the hypotheses of Readmissions, clause by clause. -/
theorem witness_Readmissions :
  (∃ s : State, (s.dev.sched.readmit = none ∨ s.dev.front.state = .chipFailed ∨ stewardUp s.dev = false)) ∧
  (∃ t : Time, ∃ s : State, ∃ e : Dev, ∃ g : Dev, ∃ cause : Nat, ∃ unit : Nat, ∃ clear : W64,
    ∃ cfg : AdmitConfig, s.dev.sched.readmit = some (cause, unit) ∧ s.dev.front.state ≠ .chipFailed ∧ stewardUp s.dev = true ∧
    clear = (List.range 64).foldl (fun (m : W64) n => if isFenced s.dev n then m &&& ~~~((1 : W64) <<< n) else m) (~~~(0 : W64)) ∧
    g = modSched (fun x => { x with readmit := none, parts := kmapv (fun _ q => { q with mask := q.mask &&& clear }) x.parts }) (advance t s.dev) ∧
    e = { g with contexts := kmapv (fun _ x => if x.state = .draining then { x with uncounted := true } else x) g.contexts } ∧
    runAdmission e = .ok cfg) ∧
  (∃ t : Time, ∃ s : State, ∃ e : Dev, ∃ g : Dev, ∃ cause : Nat, ∃ unit : Nat, ∃ clear : W64, ∃ why : Shortfall, ∃ out : List Nat,
    ∃ f : Dev, s.dev.sched.readmit = some (cause, unit) ∧ s.dev.front.state ≠ .chipFailed ∧ stewardUp s.dev = true ∧
    clear = (List.range 64).foldl (fun (m : W64) n => if isFenced s.dev n then m &&& ~~~((1 : W64) <<< n) else m) (~~~(0 : W64)) ∧
    g = modSched (fun x => { x with readmit := none, parts := kmapv (fun _ q => { q with mask := q.mask &&& clear }) x.parts }) (advance t s.dev) ∧
    e = { g with contexts := kmapv (fun _ x => if x.state = .draining then { x with uncounted := true } else x) g.contexts } ∧
    runAdmission e = .error why ∧ out = keepFitting e (shedUntil e ((shedOrder e).map (·.1)) []) ∧
    f = (if cause = 4 then id else raiseAttn 1 14 []) (out.foldl (fun d c => shedCtx cause unit why (BitVec.ofNat 32 c) d) e)) ∧
  (∃ d : Dev, ∃ out : List Nat, (∃ c, runAdmission (without_ out d) = .ok c)) ∧
  (∃ d : Dev, ∃ c : AdmitConfig, runAdmission d = .ok c) ∧
  (∃ d : Dev, (inFabric d = false ∨ siblings d = [])) :=
  ⟨⟨st world, by decide +kernel⟩,
   ⟨0, st { world with sched := { world.sched with readmit := some (1, 3) } }, _, _, 1, 3, _, _, by decide +kernel, by decide +kernel,
    by decide +kernel, rfl, rfl, rfl, cfg_ok (by decide +kernel)⟩,
   ⟨0, st { withCtx world ctx7 with sched := { parts := [(1, { part1 with quota := 0 })], readmit := some (1, 3) } }, _, _, 1, 3, _, _, _, _,
    by decide +kernel, by decide +kernel, by decide +kernel, rfl, rfl, rfl, short_of (by decide +kernel), rfl, rfl⟩,
   ⟨withCtx world ctx7, [7], ⟨_, cfg_ok (by decide +kernel)⟩⟩,
   ⟨withCtx world ctx7, _, cfg_ok (by decide +kernel)⟩,
   ⟨world, by decide +kernel⟩⟩

/-- States and operands that meet the hypotheses of ContextActivation, clause by clause. -/
theorem witness_ContextActivation :
  (∃ c : W32, ∃ s : State, ∃ x : Context, ∃ a : Accepted, ∃ e : Dev, x = ctxOf s.dev c ∧ inSafe s.dev = false ∧
    s.dev.accepted.find? (fun a => (a.packet.opcode == 0x0306 || a.packet.opcode == 0x0308) && a.packet.context == c) = some a ∧
    a.mirror = none ∧ a.outcome = none ∧ e = becomeActive c s.dev ∧
    x.state = (if a.packet.opcode = 0x0308 then CtxState.suspended else .admitted)) ∧
  (∃ c : W32, ∃ s : State, ∃ x : Context, ∃ a : Accepted, ∃ e : Dev, x = ctxOf s.dev c ∧ inSafe s.dev = false ∧
    s.dev.accepted.find? (fun a => (a.packet.opcode == 0x0306 || a.packet.opcode == 0x0308) && a.packet.context == c) = some a ∧
    a.mirror = none ∧ a.outcome = none ∧ e = becomeActive c s.dev ∧ x.state = .suspended ∧ a.packet.opcode = 0x0306) ∧
  (∃ c : W32, ∃ d : Dev, ∃ x : Context, ∃ e : Dev, x = ctxOf d c ∧ e = becomeActive c d) ∧
  (∃ c : W32, ∃ s : State, inSafe s.dev = false ∧ (ctxOf s.dev c).state = .admitted ∧
    s.dev.accepted.find? (fun a => (a.packet.opcode == 0x0306 || a.packet.opcode == 0x0308) && a.packet.context == c) = none) ∧
  (∃ s : State, inSafe s.dev = true) :=
  ⟨⟨7, st { withCtx world { ctx7 with state := .admitted } with accepted := [{ session := 1, packet := pkc 0x0306 1 7 [] [], path := .ring 4 }] },
    _, { session := 1, packet := pkc 0x0306 1 7 [] [], path := .ring 4 }, _, rfl, by decide +kernel, by decide +kernel, by decide +kernel,
    by decide +kernel, rfl, by decide +kernel⟩,
   ⟨7, st { withCtx world { ctx7 with state := .suspended } with accepted := [{ session := 1, packet := pkc 0x0306 1 7 [] [], path := .ring 4 }] },
    _, { session := 1, packet := pkc 0x0306 1 7 [] [], path := .ring 4 }, _, rfl, by decide +kernel, by decide +kernel, by decide +kernel,
    by decide +kernel, rfl, by decide +kernel, by decide +kernel⟩,
   ⟨7, withCtx world { ctx7 with state := .admitted }, _, _, rfl, rfl⟩,
   ⟨7, st (withCtx world { ctx7 with state := .admitted }), by decide +kernel⟩,
   ⟨st { world with front := { state := .safeState } }, by decide +kernel⟩⟩

/-- States and operands that meet the hypotheses of MemoryAccess, clause by clause. -/
theorem witness_MemoryAccess :
  (∃ t : Time, ∃ who : Accessor, ∃ addr : Nat, ∃ s : State, (who = .device ∨ who = .fumarole) ∧ mapped (atMem t s).dev who addr = false) ∧
  (∃ d : Dev, ∃ who : Accessor, ∃ key : Key, ∃ addr : Nat, mapped d who (reach d key addr) = false) ∧
  (∃ d : Dev, ∃ who : Accessor, ∃ key : Key, ∃ addr : Nat, mapped d who (reach d key addr) = true ∧
    (∀ st, stopAt? (reach d key addr) = some st → (stopOf d st).tagsDisagree = false)) ∧
  (∃ d : Dev, ∃ who : Accessor, ∃ key : Key, ∃ addr : Nat, ∃ st : Nat, mapped d who (reach d key addr) = true ∧
    stopAt? (reach d key addr) = some st ∧ (stopOf d st).tagsDisagree = true) ∧
  (∃ addr : Nat, ∃ n : Nat, localCore? addr = some n) ∧
  (∃ addr : Nat, ∃ g : Nat, segmentAt? addr = some g) ∧
  (∃ t : Time, ∃ n : Fin 64, ∃ addr : Nat, ∃ s : State, ∃ a : State, ∃ b : State, ∃ v : List Byte, b = atMem t s ∧
    addr % 64 + v.length ≤ 64 ∧ v ≠ [] ∧ (a = onDev (modCtl fun m => { m with lastRead := none }) b) ∧
    gate (.core n) (coreKey a.dev n.val) addr false a.dev = .refused) ∧
  (∃ t : Time, ∃ n : Fin 64, ∃ addr : Nat, ∃ s : State, ∃ a : State, ∃ b : State, ∃ v : List Byte, b = atMem t s ∧
    addr % 64 + v.length ≤ 64 ∧ v ≠ [] ∧ (a = onDev (modCtl fun m => { m with lastRead := none }) b) ∧
    gate (.core n) (coreKey b.dev n.val) addr true b.dev = .refused) ∧
  (∃ t : Time, ∃ addr : Nat, ∃ s : State, ∃ a : State, ∃ b : State, ∃ v : List Byte, ∃ ch : Nat, b = atMem t s ∧ addr % 64 + v.length ≤ 64 ∧
    v ≠ [] ∧ (a = onDev (modCtl fun m => { m with lastRead := none }) b) ∧
    gate (.dma ch) (keyOf a.dev (.dma ch)) addr false a.dev = .refused) ∧
  (∃ t : Time, ∃ addr : Nat, ∃ s : State, ∃ a : State, ∃ b : State, ∃ v : List Byte, ∃ ch : Nat, b = atMem t s ∧ addr % 64 + v.length ≤ 64 ∧
    v ≠ [] ∧ (a = onDev (modCtl fun m => { m with lastRead := none }) b) ∧
    gate (.dma ch) (keyOf b.dev (.dma ch)) addr true b.dev = .refused) ∧
  (∃ t : Time, ∃ addr : Nat, ∃ s : State, ∃ a : State, ∃ b : State, ∃ v : List Byte, ∃ who : Accessor, ∃ st : Nat, b = atMem t s ∧
    addr % 64 + v.length ≤ 64 ∧ v ≠ [] ∧ (a = onDev (modCtl fun m => { m with lastRead := none }) b) ∧
    gate who (keyOf a.dev who) addr false a.dev = .tags st) ∧
  (∃ t : Time, ∃ addr : Nat, ∃ s : State, ∃ a : State, ∃ b : State, ∃ v : List Byte, ∃ who : Accessor, ∃ st : Nat, b = atMem t s ∧
    addr % 64 + v.length ≤ 64 ∧ v ≠ [] ∧ (a = onDev (modCtl fun m => { m with lastRead := none }) b) ∧
    gate who (keyOf b.dev who) addr true b.dev = .tags st) ∧
  (∃ ch : Nat, ∃ d : Dev, (dmaOf d ch).halted = true) ∧
  (∃ ch : Nat, ∃ reason : Nat, ∃ addr : Nat, ∃ d : Dev, ∃ e : Dev, (dmaOf d ch).halted = false ∧
    e = modDma ch (fun c => { c with halted := true, reason := reason, haltAddr := addr, busy := false }) d) ∧
  (∃ t : Time, ∃ who : Accessor, ∃ addr : Nat, ∃ k : Nat, ∃ key : Key, ∃ s : State, ∃ a : State, ∃ u : Option Time,
    ∃ e : Dev, (a = onDev (modCtl fun m => { m with lastRead := none }) (atMem t s)) ∧ key = keyOf a.dev who ∧
    k = reach a.dev key addr / 8 ∧ mapped a.dev who addr = true ∧ gate who key addr false a.dev = .go ∧
    takeTokens who key addr 1 a.dev = (u, e) ∧ u = none) ∧
  (∃ t : Time, ∃ who : Accessor, ∃ addr : Nat, ∃ k : Nat, ∃ key : Key, ∃ s : State, ∃ a : State, ∃ u : Option Time, ∃ e : Dev,
    ∃ v : Time, (a = onDev (modCtl fun m => { m with lastRead := none }) (atMem t s)) ∧ key = keyOf a.dev who ∧
    k = reach a.dev key addr / 8 ∧ mapped a.dev who addr = true ∧ gate who key addr false a.dev = .go ∧
    takeTokens who key addr 1 a.dev = (u, e) ∧ u = some v ∧ e.geyser.now < v) ∧
  (∃ t : Time, ∃ who : Accessor, ∃ addr : Nat, ∃ k : Nat, ∃ key : Key, ∃ s : State, ∃ a : State, ∃ u : Option Time, ∃ e : Dev,
    ∃ v : Time, (a = onDev (modCtl fun m => { m with lastRead := none }) (atMem t s)) ∧ key = keyOf a.dev who ∧
    k = reach a.dev key addr / 8 ∧ mapped a.dev who addr = true ∧ gate who key addr false a.dev = .go ∧
    takeTokens who key addr 1 a.dev = (u, e) ∧ u = some v ∧ v ≤ e.geyser.now ∧ (modeAt a.dev k ≠ .check ∧
    syndAt a.mem k = 0 ∨ modeAt a.dev k = .check ∧ lineClean a.mem (k / 8) = true)) ∧
  (∃ t : Time, ∃ who : Accessor, ∃ addr : Nat, ∃ k : Nat, ∃ key : Key, ∃ s : State, ∃ a : State, ∃ u : Option Time, ∃ e : Dev, ∃ v : Time,
    ∃ w : W64, (a = onDev (modCtl fun m => { m with lastRead := none }) (atMem t s)) ∧ key = keyOf a.dev who ∧
    k = reach a.dev key addr / 8 ∧ mapped a.dev who addr = true ∧ gate who key addr false a.dev = .go ∧
    takeTokens who key addr 1 a.dev = (u, e) ∧ u = some v ∧ v ≤ e.geyser.now ∧ modeAt a.dev k ≠ .check ∧ wordValue? a.mem k = some w ∧
    syndAt a.mem k ≠ 0) ∧
  (∃ t : Time, ∃ who : Accessor, ∃ addr : Nat, ∃ k : Nat, ∃ key : Key, ∃ s : State, ∃ a : State, ∃ u : Option Time, ∃ e : Dev, ∃ v : Time,
    ∃ w : W64, ∃ g : State, (a = onDev (modCtl fun m => { m with lastRead := none }) (atMem t s)) ∧ key = keyOf a.dev who ∧
    k = reach a.dev key addr / 8 ∧ mapped a.dev who addr = true ∧ gate who key addr false a.dev = .go ∧
    takeTokens who key addr 1 a.dev = (u, e) ∧ u = some v ∧ v ≤ e.geyser.now ∧ modeAt a.dev k = .durable ∧ wordValue? a.mem k = none ∧
    g = decodePage (readerOf who) k (onlyInjected k a) { a with dev := e } ∧ wordValue? g.mem k = some w) ∧
  (∃ t : Time, ∃ who : Accessor, ∃ addr : Nat, ∃ k : Nat, ∃ key : Key, ∃ s : State, ∃ a : State, ∃ u : Option Time, ∃ e : Dev, ∃ v : Time,
    ∃ r : Nat, (a = onDev (modCtl fun m => { m with lastRead := none }) (atMem t s)) ∧ key = keyOf a.dev who ∧
    k = reach a.dev key addr / 8 ∧ mapped a.dev who addr = true ∧ gate who key addr false a.dev = .go ∧
    takeTokens who key addr 1 a.dev = (u, e) ∧ u = some v ∧ v ≤ e.geyser.now ∧ modeAt a.dev k = .ephemeral ∧ wordValue? a.mem k = none ∧
    onlyInjected k a = false ∧ r = (if linePoisoned a.mem (k / 8) then 3 else 2)) ∧
  (∃ m : Mem, ∃ k : Nat, syndAt m k = 0) ∧
  (∃ m : Mem, ∃ k : Nat, ∃ w, wordValue? m k = some w) ∧
  (∃ t : Time, ∃ who : Accessor, ∃ addr : Nat, ∃ o : Nat, ∃ l : Nat, ∃ b : List Byte, ∃ key : Key, ∃ s : State, ∃ a : State,
    ∃ u : Option Time, ∃ e : Dev, a = atMem t s ∧ key = keyOf a.dev who ∧ l = reach a.dev key addr / 64 ∧ o = addr % 64 ∧
    mapped a.dev who addr = true ∧ b ≠ [] ∧ o + b.length ≤ 64 ∧ gate who key addr true a.dev = .go ∧
    takeTokens who key addr (writeCost a.dev addr b.length) a.dev = (u, e) ∧ u = none) ∧
  (∃ t : Time, ∃ who : Accessor, ∃ addr : Nat, ∃ o : Nat, ∃ l : Nat, ∃ b : List Byte, ∃ key : Key, ∃ s : State, ∃ a : State,
    ∃ u : Option Time, ∃ e : Dev, ∃ v : Time, a = atMem t s ∧ key = keyOf a.dev who ∧ l = reach a.dev key addr / 64 ∧ o = addr % 64 ∧
    mapped a.dev who addr = true ∧ b ≠ [] ∧ o + b.length ≤ 64 ∧ gate who key addr true a.dev = .go ∧
    takeTokens who key addr (writeCost a.dev addr b.length) a.dev = (u, e) ∧ u = some v ∧ e.geyser.now < v) ∧
  (∃ t : Time, ∃ who : Accessor, ∃ addr : Nat, ∃ o : Nat, ∃ l : Nat, ∃ b : List Byte, ∃ key : Key, ∃ s : State, ∃ a : State,
    ∃ u : Option Time, ∃ e : Dev, ∃ v : Time, a = atMem t s ∧ key = keyOf a.dev who ∧ l = reach a.dev key addr / 64 ∧ o = addr % 64 ∧
    mapped a.dev who addr = true ∧ b ≠ [] ∧ o + b.length ≤ 64 ∧ gate who key addr true a.dev = .go ∧
    takeTokens who key addr (writeCost a.dev addr b.length) a.dev = (u, e) ∧ u = some v ∧ v ≤ e.geyser.now ∧
    modeAt a.dev (8 * l) ≠ .durable ∧ (∀ k ∈ lineWords l, syndAt a.mem k = 0) ∧ a.mem.wf = true) ∧
  (∃ t : Nat, ∃ cost : Nat, ∃ b : Bucket, ∃ x : Bucket, b.at_ ≤ t ∧ x = refill t b ∧ 4294967296 * cost ≤ x.level) ∧
  (∃ t : Nat, ∃ cost : Nat, ∃ b : Bucket, ∃ x : Bucket, b.at_ ≤ t ∧ x = refill t b ∧ x.level < 4294967296 * cost ∧
    (b.rate = 0 ∨ b.depth < cost)) ∧
  (∃ t : Nat, ∃ cost : Nat, ∃ b : Bucket, ∃ x : Bucket, ∃ due : Time, b.at_ ≤ t ∧ x = refill t b ∧ x.level < 4294967296 * cost ∧
    b.rate ≠ 0 ∧ cost ≤ b.depth ∧ due = t + ceilDiv ((4294967296 * cost - x.level) * 1000) b.rate) ∧
  (∃ d : Dev, ∃ r : Request, ∃ q : Request, nextRequest? d = some r ∧ q ∈ d.sched.requests ∧ q.due ≤ d.geyser.now ∧ r.due = q.due ∧
    q.bucket = 16) ∧
  (∃ d : Dev, ∃ r : Request, ∃ q : Request, ∃ x : Partition, ∃ y : Partition, nextRequest? d = some r ∧ q ∈ d.sched.requests ∧
    q.due ≤ d.geyser.now ∧ r.due = q.due ∧ r.bucket ≠ 16 ∧ q.bucket ≠ 16 ∧ partOf? d r.bucket = some x ∧ partOf? d q.bucket = some y) :=
  ⟨⟨0, .fumarole, 0x5F4000000, st world, by decide +kernel, by decide +kernel⟩,
   ⟨world, .device, .device, 0x5F4000000, by decide +kernel⟩,
   ⟨world, .device, .device, 0, by decide +kernel,
    (by intro st h; obtain rfl : 0 = st := Option.some.inj ((show stopAt? (reach world .device 0) = some 0 by decide +kernel).symm.trans h); decide +kernel)⟩,
   ⟨{ world with memctl := { stops := [(0, { tagsDisagree := true })] } }, .device, .device, 0, 0, by decide +kernel⟩,
   ⟨0x1101FFFFFF, 63, by decide +kernel⟩,
   ⟨0, 0, by decide +kernel⟩,
   ⟨0, 0, 0x1100080000, st world, _, _, [1], rfl, by decide +kernel, by decide +kernel, rfl, by decide +kernel⟩,
   ⟨0, 0, 0x1100080000, st world, _, _, [1], rfl, by decide +kernel, by decide +kernel, rfl, by decide +kernel⟩,
   ⟨0, 0x1100000000, st world, _, _, [1], 287, rfl, by decide +kernel, by decide +kernel, rfl, by decide +kernel⟩,
   ⟨0, 0x1100000000, st world, _, _, [1], 287, rfl, by decide +kernel, by decide +kernel, rfl, by decide +kernel⟩,
   ⟨0, 0, st { world with memctl := { stops := [(0, { tagsDisagree := true })] } }, _, _, [1], .device, 0, rfl, by decide +kernel,
    by decide +kernel, rfl, by decide +kernel⟩,
   ⟨0, 0, st { world with memctl := { stops := [(0, { tagsDisagree := true })] } }, _, _, [1], .device, 0, rfl, by decide +kernel,
    by decide +kernel, rfl, by decide +kernel⟩,
   ⟨287, { world with cores := { dma := [(287, { halted := true })] } }, by decide +kernel⟩,
   ⟨287, 1, 64, world, _, by decide +kernel, rfl⟩,
   ⟨0, .device, 0, _, _, memDev .ephemeral {} [], _, none, _, rfl, rfl, rfl, by decide +kernel, by decide +kernel, pair_of (by decide +kernel),
    rfl⟩,
   ⟨0, .device, 0, _, _, memDev .ephemeral { rate := 1000, depth := 10 } [], _, _, _, _, rfl, rfl, rfl, by decide +kernel, by decide +kernel,
    pair_eta, got (by decide +kernel), by decide +kernel⟩,
   ⟨0, .device, 0, _, _, memDev .ephemeral fullBucket [], _, some 0, _, 0, rfl, rfl, rfl, by decide +kernel, by decide +kernel,
    pair_of (by decide +kernel), rfl, by decide +kernel, .inl (by decide +kernel)⟩,
   ⟨0, .device, 0, _, _, memDev .ephemeral fullBucket [(0, 1)], _, some 0, _, 0, 0, rfl, rfl, rfl, by decide +kernel, by decide +kernel,
    pair_of (by decide +kernel), rfl, by decide +kernel⟩,
   ⟨0, .device, 0, _, _, { memDev .durable fullBucket [] with mem := { words := [(0, 3)], synd := [(0, checkByte 0 ^^^ checkByte 3)] } }, _,
    some 0, _, 0, 0, _, rfl, rfl, rfl, by decide +kernel, by decide +kernel, pair_of (by decide +kernel), rfl, by decide +kernel,
    by decide +kernel, by decide +kernel, rfl, by decide +kernel⟩,
   ⟨0, .device, 0, _, _, memDev .ephemeral fullBucket [(0, 3)], _, some 0, _, 0, _, rfl, rfl, rfl, by decide +kernel, by decide +kernel,
    pair_of (by decide +kernel), rfl, by decide +kernel, by decide +kernel, by decide +kernel, by decide +kernel, rfl⟩,
   ⟨{}, 5, by decide +kernel⟩,
   ⟨{}, 5, 0, by decide +kernel⟩,
   ⟨0, .device, 0, _, _, [1], _, memDev .ephemeral {} [], _, none, _, rfl, rfl, rfl, rfl, by decide +kernel, by decide +kernel,
    by decide +kernel, by decide +kernel, pair_of (by decide +kernel), rfl⟩,
   ⟨0, .device, 0, _, _, [1], _, memDev .ephemeral { rate := 1000, depth := 10 } [], _, _, _, _, rfl, rfl, rfl, rfl, by decide +kernel,
    by decide +kernel, by decide +kernel, by decide +kernel, pair_eta, got (by decide +kernel), by decide +kernel⟩,
   ⟨0, .device, 0, _, _, [1], _, memDev .ephemeral fullBucket [], _, some 0, _, 0, rfl, rfl, rfl, rfl, by decide +kernel, by decide +kernel,
    by decide +kernel, by decide +kernel, pair_of (by decide +kernel), rfl, by decide +kernel⟩,
   ⟨0, 80, fullBucket, _, by decide +kernel, rfl, by decide +kernel⟩,
   ⟨0, 81, fullBucket, _, by decide +kernel, rfl, by decide +kernel, by decide +kernel⟩,
   ⟨0, 10, { rate := 1000, depth := 10 }, _, _, by decide +kernel, rfl, by decide +kernel, by decide +kernel, by decide +kernel, rfl⟩,
   ⟨{ world with sched := { parts := [(1, part1)], requests := [{ who := .device, addr := 0, bucket := 16, due := 0, data := none }, { who := .device, addr := 64, bucket := 16, due := 0, data := none }] } },
    { who := .device, addr := 0, bucket := 16, due := 0, data := none }, { who := .device, addr := 64, bucket := 16, due := 0, data := none }, by decide +kernel⟩,
   ⟨{ world with sched := { parts := [(1, part1), (2, { part1 with criticality := 3 })], requests := [{ who := .device, addr := 0, bucket := 2, due := 0, data := none }, { who := .device, addr := 64, bucket := 1, due := 0, data := none }] } },
    { who := .device, addr := 64, bucket := 1, due := 0, data := none }, { who := .device, addr := 0, bucket := 2, due := 0, data := none },
    part1, { part1 with criticality := 3 }, by decide +kernel⟩⟩

/-- States and operands that meet the hypotheses of MemoryCare, clause by clause. -/
theorem witness_MemoryCare :
  (∃ t : Time, ∃ p : Nat, ∃ s : State, ∃ a : State, a = atMem t s ∧ (stopAt? (4096 * p) = none ∨ inHbm (4096 * p) = true ∧
    a.dev.memctl.moving.isSome = true)) ∧
  (∃ t : Time, ∃ p : Nat, ∃ stop : Nat, ∃ s : State, ∃ a : State, ∃ d : Dev, ∃ e : Dev, a = atMem t s ∧ stopAt? (4096 * p) = some stop ∧
    (inHbm (4096 * p) = true → a.dev.memctl.moving = none) ∧
    d = modStop stop (fun x => { x with passPage := p, passStart := if p < x.passPage then a.dev.geyser.now else x.passStart }) a.dev ∧
    e = (if inHbm (4096 * p) then (chargeHbm stop 16 a.dev.geyser.now 65 d).2 else d) ∧ modeAt a.dev (512 * p) = .ephemeral ∧
    (∀ k ∈ pageWords p, syndAt a.mem k = 0)) ∧
  (∃ t : Time, ∃ p : Nat, ∃ stop : Nat, ∃ s : State, ∃ a : State, ∃ d : Dev, ∃ e : Dev, a = atMem t s ∧ stopAt? (4096 * p) = some stop ∧
    (inHbm (4096 * p) = true → a.dev.memctl.moving = none) ∧
    d = modStop stop (fun x => { x with passPage := p, passStart := if p < x.passPage then a.dev.geyser.now else x.passStart }) a.dev ∧
    e = (if inHbm (4096 * p) then (chargeHbm stop 16 a.dev.geyser.now 65 d).2 else d) ∧ modeAt a.dev (512 * p) = .ephemeral ∧
    (∀ k ∈ pageWords p, isBad a.mem k = false) ∧ a.mem.wf = true) ∧
  (∃ p : Nat, ∃ stop : Nat, ∃ lines : List Nat, ∃ l, stopAt? (4096 * p) = some stop ∧ l ∈ lines) ∧
  (∃ p : Nat, ∃ stop : Nat, ∃ lines : List Nat, ∃ k, stopAt? (4096 * p) = some stop ∧ (∀ l ∈ lines, k ∉ lineWords l)) ∧
  (∃ k : Nat, ∃ stop : Nat, ∃ s : State, ∃ a : State, ∃ e : Nat × Time, ∃ d : Dev, a = flushWrites s ∧ stopAt? (8 * k) = some stop ∧
    (stopOf a.dev stop).wbLog.find? (·.1 == k) = some e ∧ d = advance e.2 a.dev ∧ (syndAt a.mem k = 0 ∨ isBad a.mem k = true)) ∧
  (∃ k : Nat, ∃ stop : Nat, ∃ s : State, ∃ a : State, ∃ e : Nat × Time, ∃ d : Dev, a = flushWrites s ∧ stopAt? (8 * k) = some stop ∧
    (stopOf a.dev stop).wbLog.find? (·.1 == k) = some e ∧ d = advance e.2 a.dev ∧ syndAt a.mem k ≠ 0 ∧ isBad a.mem k = false) ∧
  (∃ t : Time, ∃ g : Nat, ∃ b : Nat, ∃ at_ : Time, ∃ s : State, ∃ a : State, a = atMem t s ∧ a.dev.memctl.moving = some (g, b, at_) ∧
    g ≠ b ∧ a.mem.wf = true) ∧
  (∃ t : Time, ∃ g : Nat, ∃ s : State, ∃ a : State, a = atMem t s ∧ (∀ b at_, a.dev.memctl.moving ≠ some (g, b, at_))) ∧
  (∃ mode : BitVec 2, ∃ m : SegMode, segModeOf mode = some m) ∧
  (∃ t : Time, ∃ g : Nat, ∃ s : State, ∃ a : State, a = atMem t s ∧ (segOf a.dev g).converting = false) ∧
  (∃ t : Time, ∃ g : Nat, ∃ s : State, ∃ a : State, a = atMem t s ∧ (segOf a.dev g).converting = true ∧ markedLines g a.mem = []) ∧
  (∃ t : Time, ∃ g : Nat, ∃ s : State, ∃ a : State, a = atMem t s ∧ (segOf a.dev g).converting = true ∧ (segOf a.dev g).mode = .ephemeral ∧
    a.mem.wf = true) ∧
  (∃ t : Time, ∃ k : Fin 21, ∃ v : W32, ∃ s : State, ∃ a : State, ∃ x : MemStop, a = atMem t s ∧ x = stopOf a.dev k.val ∧
    v.getLsbD 31 = false) ∧
  (∃ t : Time, ∃ k : Fin 21, ∃ v : W32, ∃ s : State, ∃ a : State, ∃ x : MemStop, a = atMem t s ∧ x = stopOf a.dev k.val ∧
    v.getLsbD 31 = true ∧ stopAt? (64 * (x.injectAddr / 64)) ≠ some k.val) ∧
  (∃ t : Time, ∃ k : Fin 21, ∃ v : W32, ∃ s : State, ∃ a : State, ∃ x : MemStop, a = atMem t s ∧ x = stopOf a.dev k.val ∧
    v.getLsbD 31 = true ∧ stopAt? (64 * (x.injectAddr / 64)) = some k.val) ∧
  (∃ v : Nat, ∃ l : Nat, ∃ k : Nat, ∃ m : Mem, v / 2 ^ 28 % 8 < 5 ∧ m.wf = true ∧ k ∉ lineWords l) ∧
  (∃ k : Fin 20, ∃ s : State, ∃ e : Time, e = (stopOf s.dev k.val).passStart + ms (1250 * s.dev.memctl.passSec)) ∧
  (∃ t : Time, ∃ k : Fin 38, ∃ back : Bool, ∃ sent : List MeshPacket, ∃ s : State, ∃ d : Dev, ∃ x : Nat, ∃ y : Nat, d = advance t s.dev ∧
    (x, y) = (if back then ((linkEnds k.val).2, (linkEnds k.val).1) else linkEnds k.val) ∧ meshTake x y (meshSend x y sent d.mesh) = none) ∧
  (∃ t : Time, ∃ k : Fin 38, ∃ back : Bool, ∃ sent : List MeshPacket, ∃ s : State, ∃ d : Dev, ∃ x : Nat, ∃ y : Nat, ∃ p : MeshPacket,
    ∃ m : Mesh, d = advance t s.dev ∧ (x, y) = (if back then ((linkEnds k.val).2, (linkEnds k.val).1) else linkEnds k.val) ∧
    meshTake x y (meshSend x y sent d.mesh) = some (p, m)) ∧
  (∃ a : Nat, ∃ b : Nat, ∃ m : Mesh, ∃ n : Mesh, ∃ p : MeshPacket, meshTake a b m = some (p, n) ∧
    kget [] m.buffers (bufferKey a b .safety) ≠ []) ∧
  (∃ a : Nat, ∃ b : Nat, ∃ m : Mesh, ∃ n : Mesh, ∃ p : MeshPacket, meshTake a b m = some (p, n) ∧
    kget [] m.buffers (bufferKey a b .safety) = [] ∧ kget [] m.buffers (bufferKey a b .response) ≠ []) ∧
  (∃ a : Nat, ∃ b : Nat, ∃ m : Mesh, ∃ n : Mesh, ∃ p : MeshPacket, meshTake a b m = some (p, n) ∧
    kget [] m.buffers (bufferKey a b .safety) = [] ∧ kget [] m.buffers (bufferKey a b .response) = []) :=
  ⟨⟨0, 0x5F4000, inMem [], _, rfl, by decide +kernel⟩,
   ⟨0, 0, 0, inMem [], _, _, _, rfl, by decide +kernel, by decide +kernel, rfl, rfl, by decide +kernel, by decide +kernel⟩,
   ⟨0, 0, 0, inMem [(0, 1)], _, _, _, rfl, by decide +kernel, by decide +kernel, rfl, rfl, by decide +kernel⟩,
   ⟨0, 0, [63], 63, by decide +kernel, by decide +kernel⟩,
   ⟨0, 0, [63], 0, by decide +kernel, by decide +kernel⟩,
   ⟨0, 0, { inMem [] with dev := { (inMem []).dev with memctl := { stops := [(0, { wbLog := [(0, ms 1)] })] } } }, _, (0, ms 1), _, rfl,
    by decide +kernel, by decide +kernel, rfl, by decide +kernel⟩,
   ⟨0, 0, { inMem [(0, 1)] with dev := { (inMem []).dev with memctl := { stops := [(0, { wbLog := [(0, ms 1)] })] } } }, _, (0, ms 1), _, rfl,
    by decide +kernel, by decide +kernel, rfl, by decide +kernel, by decide +kernel⟩,
   ⟨0, 0, 5, 0, st { world with memctl := { moving := some (0, 5, 0) } }, _, rfl, by decide +kernel⟩,
   ⟨0, 0, inMem [], _, rfl,
    (by intro b c h; have := h.symm.trans (show (atMem 0 (inMem [])).dev.memctl.moving = none by decide +kernel); cases this)⟩,
   ⟨2, .check, by decide +kernel⟩,
   ⟨0, 0, inMem [], _, rfl, by decide +kernel⟩,
   ⟨0, 0, st { world with memctl := { segs := [(0, { converting := true })] } }, _, rfl, by decide +kernel, by decide +kernel⟩,
   ⟨0, 0, st { world with memctl := { segs := [(0, { mode := .ephemeral, converting := true })] } }, _, rfl, by decide +kernel⟩,
   ⟨0, 20, 0x7FFFFFFF, inMem [], _, _, rfl, rfl, by decide +kernel⟩,
   ⟨0, 1, 0x80000000, inMem [], _, _, rfl, rfl, by decide +kernel, by decide +kernel⟩,
   ⟨0, 0, 0x80000000, inMem [], _, _, rfl, rfl, by decide +kernel, by decide +kernel⟩,
   ⟨0, 1, 0, {}, by decide +kernel⟩,
   ⟨0, inMem [], _, rfl⟩,
   ⟨0, 0, false, [], st world, _, 0, 1, rfl, by decide +kernel, by decide +kernel⟩,
   ⟨0, 0, false, [{ source := 0, dest := 1, cls := .request }], st world, _, 0, 1, { source := 0, dest := 1, cls := .request }, {}, rfl,
    by decide +kernel, by decide +kernel⟩,
   ⟨0, 1, { buffers := [(bufferKey 0 1 .safety, [{ source := 0, dest := 1, cls := .safety }])] }, {}, { source := 0, dest := 1, cls := .safety },
    by decide +kernel, by decide +kernel⟩,
   ⟨0, 1, { buffers := [(bufferKey 0 1 .response, [{ source := 0, dest := 1, cls := .response }])] }, {}, { source := 0, dest := 1, cls := .response }, by decide +kernel⟩,
   ⟨0, 1, { buffers := [(bufferKey 0 1 .request, [{ source := 0, dest := 1, cls := .request }])] }, {}, { source := 0, dest := 1, cls := .request }, by decide +kernel⟩⟩

/-- States and operands that meet the hypotheses of TapFrames, clause by clause. -/
theorem witness_TapFrames :
  (∃ t : Time, ∃ k : Fin 4, ∃ s : State, ∃ d : Dev, ∃ x : Port, d = advance t s.dev ∧ x = portOf s.dev k.val ∧ x.link = false) ∧
  (∃ t : Time, ∃ k : Fin 4, ∃ s : State, ∃ d : Dev, ∃ x : Port, d = advance t s.dev ∧ x = portOf s.dev k.val ∧ x.link = true ∧
    x.role = .out) ∧
  (∃ t : Time, ∃ k : Fin 4, ∃ s : State, ∃ d : Dev, ∃ x : Port, d = advance t s.dev ∧ x = portOf s.dev k.val ∧ x.link = true ∧
    (x.role = .none_ ∨ x.role = .fabric)) ∧
  (∃ t : Time, ∃ k : Fin 4, ∃ s : State, ∃ d : Dev, ∃ x : Port, d = advance t s.dev ∧ x = portOf s.dev k.val ∧ x.link = true ∧
    x.role = .tap ∧ s.dev.start.resumed = false) ∧
  (∃ t : Time, ∃ k : Fin 4, ∃ p : TapPacket, ∃ s : State, ∃ d : Dev, ∃ x : Port, ∃ held : Nat, ∃ e : Dev, d = advance t s.dev ∧
    x = portOf s.dev k.val ∧ x.link = true ∧ x.role = .tap ∧ s.dev.start.resumed = true ∧ held = x.rxBytes - p.drained ∧
    e = modPort k.val (fun y => { y with rxBytes := held + p.size }) d ∧ 262144 < held + p.size) ∧
  (∃ t : Time, ∃ k : Fin 4, ∃ p : TapPacket, ∃ s : State, ∃ d : Dev, ∃ x : Port, ∃ held : Nat, ∃ e : Dev, d = advance t s.dev ∧
    x = portOf s.dev k.val ∧ x.link = true ∧ x.role = .tap ∧ s.dev.start.resumed = true ∧ held = x.rxBytes - p.drained ∧
    e = modPort k.val (fun y => { y with rxBytes := held + p.size }) d ∧ held + p.size ≤ 262144 ∧ (p.fcsOk = false ∨ p.ipOk = false)) ∧
  (∃ t : Time, ∃ k : Fin 4, ∃ p : TapPacket, ∃ s : State, ∃ d : Dev, ∃ x : Port, ∃ held : Nat, ∃ e : Dev, d = advance t s.dev ∧
    x = portOf s.dev k.val ∧ x.link = true ∧ x.role = .tap ∧ s.dev.start.resumed = true ∧ held = x.rxBytes - p.drained ∧
    e = modPort k.val (fun y => { y with rxBytes := held + p.size }) d ∧ held + p.size ≤ 262144 ∧ p.fcsOk = true ∧ p.ipOk = true ∧
    exactStream? s.dev k.val p = none ∧ (nearStream? s.dev k.val p = none ∨ p.udpOk = false)) ∧
  (∃ t : Time, ∃ k : Fin 4, ∃ p : TapPacket, ∃ s : State, ∃ d : Dev, ∃ x : Port, ∃ held : Nat, ∃ e : Dev, ∃ n : Nat,
    ∃ y : Stream, d = advance t s.dev ∧ x = portOf s.dev k.val ∧ x.link = true ∧ x.role = .tap ∧ s.dev.start.resumed = true ∧
    held = x.rxBytes - p.drained ∧ e = modPort k.val (fun y => { y with rxBytes := held + p.size }) d ∧ held + p.size ≤ 262144 ∧
    p.fcsOk = true ∧ p.ipOk = true ∧ exactStream? s.dev k.val p = none ∧ nearStream? s.dev k.val p = some (n, y) ∧ p.udpOk = true) ∧
  (∃ t : Time, ∃ k : Fin 4, ∃ p : TapPacket, ∃ s : State, ∃ d : Dev, ∃ x : Port, ∃ held : Nat, ∃ e : Dev, ∃ n : Nat,
    ∃ y : Stream, d = advance t s.dev ∧ x = portOf s.dev k.val ∧ x.link = true ∧ x.role = .tap ∧ s.dev.start.resumed = true ∧
    held = x.rxBytes - p.drained ∧ e = modPort k.val (fun y => { y with rxBytes := held + p.size }) d ∧ held + p.size ≤ 262144 ∧
    p.fcsOk = true ∧ p.ipOk = true ∧ exactStream? s.dev k.val p = some (n, y) ∧ p.udpOk = false) ∧
  (∃ t : Time, ∃ k : Fin 4, ∃ p : TapPacket, ∃ s : State, ∃ d : Dev, ∃ x : Port, ∃ held : Nat, ∃ e : Dev, ∃ n : Nat,
    ∃ y : Stream, d = advance t s.dev ∧ x = portOf s.dev k.val ∧ x.link = true ∧ x.role = .tap ∧ s.dev.start.resumed = true ∧
    held = x.rxBytes - p.drained ∧ e = modPort k.val (fun y => { y with rxBytes := held + p.size }) d ∧ held + p.size ≤ 262144 ∧
    p.fcsOk = true ∧ p.ipOk = true ∧ exactStream? s.dev k.val p = some (n, y) ∧ p.udpOk = true ∧ formOk y p = false) ∧
  (∃ t : Time, ∃ k : Fin 4, ∃ p : TapPacket, ∃ s : State, ∃ d : Dev, ∃ x : Port, ∃ held : Nat, ∃ e : Dev, ∃ n : Nat,
    ∃ y : Stream, d = advance t s.dev ∧ x = portOf s.dev k.val ∧ x.link = true ∧ x.role = .tap ∧ s.dev.start.resumed = true ∧
    held = x.rxBytes - p.drained ∧ e = modPort k.val (fun y => { y with rxBytes := held + p.size }) d ∧ held + p.size ≤ 262144 ∧
    p.fcsOk = true ∧ p.ipOk = true ∧ exactStream? s.dev k.val p = some (n, y) ∧ p.udpOk = true ∧ formOk y p = true) ∧
  (∃ n : Nat, ∃ p : TapPacket, ∃ d : Dev, ∃ e : Dev, ∃ y : Stream,
    ∃ f : Frame, e = modStream n (fun s => { noteSeq p.seq s with lastValid := (expireFrames n d).geyser.now, silent := false }) (expireFrames n d) ∧
    streamOf? e n = some y ∧ y.frames.find? (fun f => f.rtp == p.rtp && f.status == .assembling) = some f) ∧
  (∃ n : Nat, ∃ p : TapPacket, ∃ d : Dev, ∃ e : Dev, ∃ y : Stream,
    ∃ k : W32, e = modStream n (fun s => { noteSeq p.seq s with lastValid := (expireFrames n d).geyser.now, silent := false }) (expireFrames n d) ∧
    streamOf? e n = some y ∧ y.frames.find? (fun f => f.rtp == p.rtp && f.status == .assembling) = none ∧ y.newest = some k ∧
    newer p.rtp k = false) ∧
  (∃ n : Nat, ∃ p : TapPacket, ∃ d : Dev, ∃ e : Dev,
    ∃ y : Stream, e = modStream n (fun s => { noteSeq p.seq s with lastValid := (expireFrames n d).geyser.now, silent := false }) (expireFrames n d) ∧
    streamOf? e n = some y ∧ y.frames.find? (fun f => f.rtp == p.rtp && f.status == .assembling) = none ∧
    (y.newest = none ∨ (∃ k, y.newest = some k ∧ newer p.rtp k = true)) ∧ (y.frames.filter (·.status == .assembling)).length ≤ 1 ∧
    y.frames.length < y.slots) ∧
  (∃ n : Nat, ∃ p : TapPacket, ∃ d : Dev, ∃ e : Dev,
    ∃ y : Stream, e = modStream n (fun s => { noteSeq p.seq s with lastValid := (expireFrames n d).geyser.now, silent := false }) (expireFrames n d) ∧
    streamOf? e n = some y ∧ y.frames.find? (fun f => f.rtp == p.rtp && f.status == .assembling) = none ∧
    (y.newest = none ∨ (∃ k, y.newest = some k ∧ newer p.rtp k = true)) ∧ (y.frames.filter (·.status == .assembling)).length ≤ 1 ∧
    y.slots ≤ y.frames.length) ∧
  (∃ f : Frame, ∃ p : TapPacket, ((f.written.any fun e => e.2 == p.seq) = true)) ∧
  (∃ s : Stream, ∃ f : Frame, ∃ p : TapPacket, ((f.written.any fun e => e.2 == p.seq) = false) ∧ (p.segments.all (segmentOk s)) = false) ∧
  (∃ s : Stream, ∃ f : Frame, ∃ p : TapPacket, ((f.written.any fun e => e.2 == p.seq) = false) ∧ (p.segments.all (segmentOk s)) = true ∧
    (((packetGroups s p).any fun g => (kfind? f.written g.1).isSome) = true)) ∧
  (∃ s : Stream, ∃ f : Frame, ∃ p : TapPacket, ∃ g, ((f.written.any fun e => e.2 == p.seq) = false) ∧
    (p.segments.all (segmentOk s)) = true ∧ (((packetGroups s p).any fun g => (kfind? f.written g.1).isSome) = false) ∧
    g = writeGroups s p f ∧ g.marker = true ∧ g.written.length = groupCount s) ∧
  (∃ s : Stream, ∃ f : Frame, ∃ p : TapPacket, ∃ g, ((f.written.any fun e => e.2 == p.seq) = false) ∧
    (p.segments.all (segmentOk s)) = true ∧ (((packetGroups s p).any fun g => (kfind? f.written g.1).isSome) = false) ∧
    g = writeGroups s p f ∧ (g.marker = false ∨ g.written.length ≠ groupCount s)) ∧
  (∃ t : Time, ∃ k : Fin 16, ∃ rtp : W32, ∃ s : State, ∃ y : Stream, ∃ f : Frame, ∃ d : Dev, d = advance t s.dev ∧
    streamOf? s.dev k.val = some y ∧
    y.frames.find? (fun f => f.rtp == rtp && f.status == .complete && f.secure.isNone && f.fault.isNone) = some f) ∧
  (∃ k : Fin 16, ∃ rtp : W32, ∃ s : State, ∃ y : Stream, ∃ f : Frame, ∃ d : Dev, streamOf? s.dev k.val = some y ∧
    y.frames.find? (fun f => f.rtp == rtp && f.status == .assembling) = some f ∧ d = advance (f.capture + us y.limitUs) s.dev) ∧
  (∃ k : Fin 16, ∃ rtp : W32, ∃ s : State, ∃ y : Stream, ∃ f : Frame, streamOf? s.dev k.val = some y ∧
    y.frames.find? (fun f => f.rtp == rtp && f.status == .complete) = some f) ∧
  (∃ k : Fin 16, ∃ s : State, ∃ y : Stream, streamOf? s.dev k.val = some y ∧ (y.silenceUs = 0 ∨ y.silent = true ∨ serving s.dev = false)) ∧
  (∃ k : Fin 16, ∃ s : State, ∃ y : Stream, streamOf? s.dev k.val = some y ∧ y.silenceUs ≠ 0 ∧ y.silent = false ∧ serving s.dev = true) ∧
  (∃ c : W32, ∃ cap : Time, ∃ s : State, ∃ x : Context, ∃ t : Template, ∃ y : Stream, ∃ f : Frame, ∃ run : Nat, x = ctxOf s.dev c ∧
    templateOf? s.dev x.planId x.planVersion x.template = some t ∧ streamOf? s.dev (streamNo x 0) = some y ∧
    y.frames.find? (fun f => f.capture == cap && f.status == .complete) = some f ∧ c ∉ f.judged ∧
    (run = (if (x.claims.any fun q => decide (q < cap)) then 1 else x.unclaimedRun + 1)) ∧
    (c ∈ f.claimedBy ∨ serving s.dev = false ∨ x.state = .draining)) ∧
  (∃ c : W32, ∃ cap : Time, ∃ s : State, ∃ x : Context, ∃ t : Template, ∃ y : Stream, ∃ f : Frame, ∃ run : Nat, x = ctxOf s.dev c ∧
    templateOf? s.dev x.planId x.planVersion x.template = some t ∧ streamOf? s.dev (streamNo x 0) = some y ∧
    y.frames.find? (fun f => f.capture == cap && f.status == .complete) = some f ∧ c ∉ f.judged ∧
    (run = (if (x.claims.any fun q => decide (q < cap)) then 1 else x.unclaimedRun + 1)) ∧ c ∉ f.claimedBy ∧ serving s.dev = true ∧
    (x.state = .active ∨ x.state = .suspended)) :=
  ⟨⟨0, 3, st { world with ports := [(3, { link := false })] }, _, _, rfl, rfl, by decide +kernel⟩,
   ⟨0, 1, st world, _, _, rfl, rfl, by decide +kernel, by decide +kernel⟩,
   ⟨0, 3, st world, _, _, rfl, rfl, by decide +kernel, by decide +kernel⟩,
   ⟨0, 0, st { world with start := {} }, _, _, rfl, rfl, by decide +kernel⟩,
   ⟨0, 0, { tap0 with size := 262145 }, st world, _, _, _, _, rfl, rfl, by decide +kernel, by decide +kernel, by decide +kernel, rfl, rfl,
    by decide +kernel⟩,
   ⟨0, 0, { tap0 with fcsOk := false }, st world, _, _, _, _, rfl, rfl, by decide +kernel, by decide +kernel, by decide +kernel, rfl, rfl,
    by decide +kernel, by decide +kernel⟩,
   ⟨0, 0, { tap0 with dst := 2 }, st world, _, _, _, _, rfl, rfl, by decide +kernel, by decide +kernel, by decide +kernel, rfl, rfl, by decide +kernel⟩,
   ⟨0, 0, { tap0 with ssrc := 8 }, st world, _, _, _, _, 0, stream0, rfl, rfl, by decide +kernel, by decide +kernel, by decide +kernel, rfl,
    rfl, by decide +kernel⟩,
   ⟨0, 0, { tap0 with udpOk := false }, st world, _, _, _, _, 0, stream0, rfl, rfl, by decide +kernel, by decide +kernel, by decide +kernel,
    rfl, rfl, by decide +kernel⟩,
   ⟨0, 0, { tap0 with csrc := 1 }, st world, _, _, _, _, 0, stream0, rfl, rfl, by decide +kernel, by decide +kernel, by decide +kernel, rfl,
    rfl, by decide +kernel⟩,
   ⟨0, 0, tap0, st world, _, _, _, _, 0, stream0, rfl, rfl, by decide +kernel, by decide +kernel, by decide +kernel, rfl, rfl, by decide +kernel⟩,
   ⟨0, tap0, framed (frame0 .assembling), _, _, frame0 .assembling, rfl, got (by decide +kernel), by decide +kernel⟩,
   ⟨0, tap0, { world with streams := [(0, { stream0 with newest := some 10 })] }, _, _, 10, rfl, got (by decide +kernel), by decide +kernel⟩,
   ⟨0, tap0, world, _, _, rfl, got (by decide +kernel), by decide +kernel, .inl (by decide +kernel), by decide +kernel, by decide +kernel⟩,
   ⟨0, tap0, { world with streams := [(0, { stream0 with slots := 0 })] }, _, _, rfl, got (by decide +kernel), by decide +kernel,
    .inl (by decide +kernel), by decide +kernel, by decide +kernel⟩,
   ⟨{ frame0 .assembling with written := [(0, 3)] }, tap0, by decide +kernel⟩,
   ⟨{ stream1 with height := 0 }, frame0 .assembling, tap0, by decide +kernel, by decide +kernel⟩,
   ⟨stream1, { frame0 .assembling with written := [(0, 2)] }, tap0, by decide +kernel⟩,
   ⟨stream1, frame0 .assembling, tap0, _, by decide +kernel, by decide +kernel, by decide +kernel, rfl, by decide +kernel, by decide +kernel⟩,
   ⟨stream1, frame0 .assembling, { tap0 with marker := false }, _, by decide +kernel, by decide +kernel, by decide +kernel, rfl,
    by decide +kernel⟩,
   ⟨0, 0, 9, st (framed (frame0 .complete)), { stream0 with frames := [frame0 .complete] }, frame0 .complete, _, rfl, by decide +kernel,
    by decide +kernel⟩,
   ⟨0, 9, st (framed (frame0 .assembling)), { stream0 with frames := [frame0 .assembling] }, frame0 .assembling, _, by decide +kernel,
    by decide +kernel, rfl⟩,
   ⟨0, 9, st (framed (frame0 .complete)), { stream0 with frames := [frame0 .complete] }, frame0 .complete, by decide +kernel,
    by decide +kernel⟩,
   ⟨0, st world, stream0, by decide +kernel, by decide +kernel⟩,
   ⟨0, st { world with streams := [(0, { stream0 with silenceUs := 1000 })] }, { stream0 with silenceUs := 1000 }, by decide +kernel⟩,
   ⟨7, ms 1, st (framed { frame0 .complete with claimedBy := [7] }), _, template0,
    { stream0 with frames := [{ frame0 .complete with claimedBy := [7] }] }, { frame0 .complete with claimedBy := [7] }, _, rfl,
    by decide +kernel, by decide +kernel, by decide +kernel, by decide +kernel, rfl, by decide +kernel⟩,
   ⟨7, ms 1, st (framed (frame0 .complete)), _, template0, { stream0 with frames := [frame0 .complete] }, frame0 .complete, _, rfl,
    by decide +kernel, by decide +kernel, by decide +kernel, by decide +kernel, rfl, by decide +kernel⟩⟩

/-- States and operands that meet the hypotheses of PortsAndLinks, clause by clause. -/
theorem witness_PortsAndLinks :
  (∃ t : Time, ∃ k : Fin 4, ∃ s : State, ∃ x : Port, ∃ e : Dev, x = portOf s.dev k.val ∧
    e = modPort k.val (fun p => { p with link := false, rxBytes := 0, linkLosses := p.linkLosses.add 1, out := [], outWait := [] }) (raiseAttn 1 14 [] (advance t s.dev)) ∧
    x.link = false) ∧
  (∃ t : Time, ∃ k : Fin 4, ∃ s : State, ∃ x : Port, ∃ e : Dev, x = portOf s.dev k.val ∧
    e = modPort k.val (fun p => { p with link := false, rxBytes := 0, linkLosses := p.linkLosses.add 1, out := [], outWait := [] }) (raiseAttn 1 14 [] (advance t s.dev)) ∧
    x.link = true) ∧
  (∃ k : Fin 4, ∃ s : State, ∃ x : Port, x = portOf s.dev k.val ∧ (x.out = [] ∨ s.dev.gnt.forced = true ∨ x.link = false ∨ x.role ≠ .out)) ∧
  (∃ k : Fin 4, ∃ s : State, ∃ x : Port, ∃ m, ∃ rest, x = portOf s.dev k.val ∧ x.out = m :: rest ∧ s.dev.gnt.forced = false ∧
    x.link = true ∧ x.role = .out) :=
  ⟨⟨0, 0, st { world with ports := [(0, { link := false })] }, _, _, rfl, rfl, by decide +kernel⟩,
   ⟨0, 0, st world, _, _, rfl, rfl, by decide +kernel⟩,
   ⟨1, st world, _, rfl, by decide +kernel⟩,
   ⟨1, st { world with ports := [(1, { role := .out, out := [{ record := verdict1 }] })] }, _, { record := verdict1 }, [], rfl, by decide +kernel⟩⟩

/-- States and operands that meet the hypotheses of IncrementIsClamped, clause by clause. -/
theorem witness_IncrementIsClamped :
  (∃ t : Time, ∃ s : State, ∃ k : Time, s.dev.geyser.limitSince = some k ∧ k + sec 1 ≤ arrival t s ∧ s.dev.geyser.limitTold = false) ∧
  (∃ t : Time, ∃ s : State, (s.dev.geyser.limitTold = true ∨ s.dev.geyser.limitSince = none ∨ (∃ k, s.dev.geyser.limitSince = some k ∧
    arrival t s < k + sec 1))) :=
  ⟨⟨sec 1, st (timed { limitSince := some 0 }), 0, by decide +kernel⟩,
   ⟨0, st world, .inr (.inl (by decide +kernel))⟩⟩

/-- States and operands that meet the hypotheses of StepOnlyInUnlocked, clause by clause. -/
theorem witness_StepOnlyInUnlocked :
  (∃ s : State, s.dev.geyser.state ≠ .unlocked) ∧
  (∃ t : Time, ∃ n : BitVec 48, ∃ f : W16, ∃ s : State, ∃ u : State, ∃ step : Int, ∃ k, ∃ w, s.dev.geyser.state = .unlocked ∧
    exec (.geyStepWrite t n f) s = .next u ∧ step = u.dev.geyser.now - ((arrival t s : Int) + s.dev.geyser.incr.toNat) ∧
    kfind? s.dev.watch.uwd k = some w ∧ 0 ≤ w.last + step) ∧
  (∃ t : Time, ∃ n : BitVec 48, ∃ f : W16, ∃ s : State, ∃ u : State, ∃ step : Int, s.dev.geyser.state = .unlocked ∧
    exec (.geyStepWrite t n f) s = .next u ∧ step = u.dev.geyser.now - ((arrival t s : Int) + s.dev.geyser.incr.toNat) ∧
    0 ≤ s.dev.watch.dwd.last + step) ∧
  (∃ t : Time, ∃ n : BitVec 48, ∃ f : W16, ∃ s : State, ∃ u : State, ∃ step : Int, ∃ k, ∃ m, s.dev.geyser.state = .unlocked ∧
    exec (.geyStepWrite t n f) s = .next u ∧ step = u.dev.geyser.now - ((arrival t s : Int) + s.dev.geyser.incr.toNat) ∧
    kfind? s.dev.watch.monitors k = some m ∧ 0 ≤ m.start + step) ∧
  (∃ t : Time, ∃ n : BitVec 48, ∃ f : W16, ∃ s : State, ∃ u : State, ∃ step : Int, ∃ k, ∃ x, s.dev.geyser.state = .unlocked ∧
    exec (.geyStepWrite t n f) s = .next u ∧ step = u.dev.geyser.now - ((arrival t s : Int) + s.dev.geyser.incr.toNat) ∧
    kfind? s.dev.cal.src k = some x ∧ 0 ≤ x.opens + step) ∧
  (∃ t : Time, ∃ n : BitVec 48, ∃ f : W16, ∃ s : State, ∃ u : State, ∃ step : Int, ∃ k, ∃ b, s.dev.geyser.state = .unlocked ∧
    exec (.geyStepWrite t n f) s = .next u ∧ step = u.dev.geyser.now - ((arrival t s : Int) + s.dev.geyser.incr.toNat) ∧
    kfind? s.dev.sched.hbm k = some b ∧ 0 ≤ b.at_ + step) :=
  ⟨⟨st (timed { state := .locked }), by decide +kernel⟩,
   ⟨0, 100, 0, st { world with geyser := { now := sec 5 }, watch := { uwd := [(0, { last := sec 4 })], dwd := { last := sec 4 }, monitors := [(9, { monitor2 with start := sec 4 })] }, cal := { src := [(5, { srcDefault 5 with opens := sec 4 })] }, sched := { world.sched with hbm := [(1, { at_ := sec 4 })] } },
    _, _, 0, { last := sec 4 }, by decide +kernel, rfl, rfl, by decide +kernel, by decide +kernel⟩,
   ⟨0, 100, 0, st { world with geyser := { now := sec 5 }, watch := { uwd := [(0, { last := sec 4 })], dwd := { last := sec 4 }, monitors := [(9, { monitor2 with start := sec 4 })] }, cal := { src := [(5, { srcDefault 5 with opens := sec 4 })] }, sched := { world.sched with hbm := [(1, { at_ := sec 4 })] } },
    _, _, by decide +kernel, rfl, rfl, by decide +kernel⟩,
   ⟨0, 100, 0, st { world with geyser := { now := sec 5 }, watch := { uwd := [(0, { last := sec 4 })], dwd := { last := sec 4 }, monitors := [(9, { monitor2 with start := sec 4 })] }, cal := { src := [(5, { srcDefault 5 with opens := sec 4 })] }, sched := { world.sched with hbm := [(1, { at_ := sec 4 })] } },
    _, _, 9, { monitor2 with start := sec 4 }, by decide +kernel, rfl, rfl, by decide +kernel, by decide +kernel⟩,
   ⟨0, 100, 0, st { world with geyser := { now := sec 5 }, watch := { uwd := [(0, { last := sec 4 })], dwd := { last := sec 4 }, monitors := [(9, { monitor2 with start := sec 4 })] }, cal := { src := [(5, { srcDefault 5 with opens := sec 4 })] }, sched := { world.sched with hbm := [(1, { at_ := sec 4 })] } },
    _, _, 5, { srcDefault 5 with opens := sec 4 }, by decide +kernel, rfl, rfl, by decide +kernel, by decide +kernel⟩,
   ⟨0, 100, 0, st { world with geyser := { now := sec 5 }, watch := { uwd := [(0, { last := sec 4 })], dwd := { last := sec 4 }, monitors := [(9, { monitor2 with start := sec 4 })] }, cal := { src := [(5, { srcDefault 5 with opens := sec 4 })] }, sched := { world.sched with hbm := [(1, { at_ := sec 4 })] } },
    _, _, 1, { at_ := sec 4 }, by decide +kernel, rfl, rfl, by decide +kernel, by decide +kernel⟩⟩

/-- States and operands that meet the hypotheses of TransmitStampQueue, clause by clause. -/
theorem witness_TransmitStampQueue :
  (∃ port : Fin 4, ∃ ty : BitVec 4, ∃ s : State, queuedType s.dev port.val ty.toNat = true ∧ (portOf s.dev port.val).txq.length < 16) ∧
  (∃ port : Fin 4, ∃ ty : BitVec 4, ∃ s : State, queuedType s.dev port.val ty.toNat = true ∧ 16 ≤ (portOf s.dev port.val).txq.length) ∧
  (∃ port : Fin 4, ∃ e : TxStamp, ∃ r : List TxStamp, ∃ s : State, (portOf s.dev port.val).txq = e :: r) :=
  ⟨⟨0, 1, st { world with ports := [(0, { txq := List.replicate 15 { messageType := 1, ident := 0, stamp := 0 } })] }, by decide +kernel,
    by decide +kernel⟩,
   ⟨0, 2, st { world with ports := [(0, { txq := List.replicate 16 { messageType := 1, ident := 0, stamp := 0 } })] }, by decide +kernel,
    by decide +kernel⟩,
   ⟨0, { messageType := 1, ident := 0, stamp := 0 }, [], st { world with ports := [(0, { txq := [{ messageType := 1, ident := 0, stamp := 0 }] })] },
    by decide +kernel⟩⟩

/-- States and operands that meet the hypotheses of PulseOutputs, clause by clause. -/
theorem witness_PulseOutputs :
  (∃ o : Fin 8, ∃ s : State, (pulseOf s.dev o.val).run = true) ∧
  (∃ o : Fin 8, ∃ s : State, (pulseOf s.dev o.val).level = true ∧ 1 ≤ (pulseOf s.dev o.val).n) ∧
  (∃ s : State, s.dev.geyser.ppsOut = false) ∧
  (∃ s : State, s.dev.geyser.ppsOut = true) :=
  ⟨⟨7, st (timed { pulses := [(7, { mode := 2, run := true })] }), by decide +kernel⟩,
   ⟨7, st (timed { pulses := [(7, { mode := 2, level := true, n := 1 })] }), by decide +kernel, by decide +kernel⟩,
   ⟨st (timed {}), by decide +kernel⟩,
   ⟨st (timed { ppsOut := true }), by decide +kernel⟩⟩

/-- States and operands that meet the hypotheses of PpsInput, clause by clause. -/
theorem witness_PpsInput :
  (∃ t : Time, ∃ s : State, ppsReference s.dev = true ∧ ¬ (s.dev.geyser.state ≠ .unlocked ∧ (ppsOffset (arrival t s)).natAbs > ms 100)) ∧
  (∃ s : State, s.dev.geyser.cfg.ppsIn = 0) ∧
  (∃ s : State, s.dev.geyser.cfg.ppsIn = 1) ∧
  (∃ s : State, ppsReference s.dev = true ∧ s.dev.geyser.state = .locked ∧ 1 ≤ s.dev.geyser.ppsMissing) ∧
  (∃ s : State, ppsReference s.dev = true ∧ s.dev.geyser.ppsMissing = 0) :=
  ⟨⟨0, st (timed { cfg := { ppsIn := 2 } }), by decide +kernel, by decide +kernel⟩,
   ⟨st (timed { cfg := { ppsIn := 0 } }), by decide +kernel⟩,
   ⟨st (timed { cfg := { ppsIn := 1 } }), by decide +kernel⟩,
   ⟨st (timed { cfg := { ppsIn := 2 }, state := .locked, ppsMissing := 1 }), by decide +kernel⟩,
   ⟨st (timed { cfg := { ppsIn := 2 } }), by decide +kernel, by decide +kernel⟩⟩

/-- States and operands that meet the hypotheses of PtpMessages, clause by clause. -/
theorem witness_PtpMessages :
  (∃ port : Fin 4, ∃ m : PtpMessage, ∃ s : State, ptpHears s.dev port.val m = true ∧ fromMaster s.dev port.val m = true ∧ m.twoStep = false) ∧
  (∃ port : Fin 4, ∃ m : PtpMessage, ∃ s : State, ∃ t2 : Time, ∃ c : Int, ptpHears s.dev port.val m = true ∧
    fromMaster s.dev port.val m = true ∧ (ptpOf s.dev port.val).syncRx = some (m.sequenceId, t2, c)) ∧
  (∃ port : Fin 4, ∃ m : PtpMessage, ∃ s : State, ptpHears s.dev port.val m = true ∧ mechOf s.dev port.val = 1 ∧
    (ptpOf s.dev port.val).state = .master) ∧
  (∃ port : Fin 4, ∃ m : PtpMessage, ∃ s : State, ∃ t1 : Time, ∃ t2 : Time, ∃ t3 : Time, ptpHears s.dev port.val m = true ∧
    fromMaster s.dev port.val m = true ∧ mechOf s.dev port.val = 1 ∧ (ptpOf s.dev port.val).delayTx = some (m.sequenceId, t3) ∧
    (ptpOf s.dev port.val).syncPair = some (t1, t2)) ∧
  (∃ port : Fin 4, ∃ m : PtpMessage, ∃ s : State, ∃ t1 : Time, ptpHears s.dev port.val m = true ∧ mechOf s.dev port.val = 2 ∧
    (ptpOf s.dev port.val).pdelayTx = some (m.sequenceId, t1) ∧ m.twoStep = false) ∧
  (∃ port : Fin 4, ∃ m : PtpMessage, ∃ s : State, ∃ t1 : Time, ptpHears s.dev port.val m = true ∧ mechOf s.dev port.val = 2 ∧
    (ptpOf s.dev port.val).pdelayTx = some (m.sequenceId, t1) ∧ m.twoStep = true) ∧
  (∃ port : Fin 4, ∃ m : PtpMessage, ∃ s : State, ptpHears s.dev port.val m = true ∧ fromMaster s.dev port.val m = true ∧ m.twoStep = true) ∧
  (∃ t : Time, ∃ port : Fin 4, ∃ s : State, ∃ u : State, (portOf s.dev port.val).link = true ∧ ((portOf s.dev port.val).role = .none_ ∧
    u = { s with dev := modPort port.val (fun p => { p with unsupported := p.unsupported.add 1 }) (advance t s.dev) } ∨ (portOf s.dev port.val).role = .out ∧
    u = { s with dev := modPort port.val (fun p => { p with outReceived := p.outReceived.add 1 }) (advance t s.dev) })) ∧
  (∃ port : Fin 4, ∃ m : PtpMessage, ∃ s : State, ∃ t1 : Time, ∃ t2 : Time, ∃ t4 : Time, ∃ c : Int, ptpHears s.dev port.val m = true ∧
    mechOf s.dev port.val = 2 ∧ (ptpOf s.dev port.val).pdelayTx = some (m.sequenceId, t1) ∧
    (ptpOf s.dev port.val).pdelayResp = some (m.sequenceId, t4, t2, c)) ∧
  (∃ port : Fin 4, ∃ s : State, (portOf s.dev port.val).link = true ∧ (portOf s.dev port.val).role ∈ [PortRole.tap, .fabric] ∧
    (portOf s.dev port.val).management.n < 4294967295) ∧
  (∃ port : Fin 4, ∃ ty : BitVec 4, ∃ s : State, maySend s.dev port.val ty.toNat = true) ∧
  (∃ port : Fin 4, ∃ m : PtpMessage, ∃ s : State, ptpHears s.dev port.val m = true ∧ s.dev.geyser.cfg.external = false ∧
    (ptpOf s.dev port.val).foreign = none) ∧
  (∃ port : Fin 4, ∃ s : State, ptpUp s.dev port.val = true ∧ s.dev.geyser.cfg.external = false ∧ s.dev.geyser.master = port.val ∧
    s.dev.geyser.state = .locked) :=
  ⟨⟨0, {}, st (slave [1] { state := .slave }), by decide +kernel⟩,
   ⟨0, {}, st (slave [1] { state := .slave, syncRx := some (0, 5, 0) }), 5, 0, by decide +kernel⟩,
   ⟨0, {}, st (slave [1] { state := .master }), by decide +kernel⟩,
   ⟨0, {}, st (slave [1] { state := .slave, delayTx := some (0, 7), syncPair := some (4, 5) }), 4, 5, 7, by decide +kernel⟩,
   ⟨0, {}, st (slave [2] { pdelayTx := some (0, 4) }), 4, by decide +kernel⟩,
   ⟨0, { twoStep := true }, st (slave [2] { pdelayTx := some (0, 4) }), 4, by decide +kernel⟩,
   ⟨0, { twoStep := true }, st (slave [1] { state := .slave }), by decide +kernel⟩,
   ⟨0, 1, st world, _, by decide +kernel, .inr ⟨by decide +kernel, rfl⟩⟩,
   ⟨0, {}, st (slave [2] { pdelayTx := some (0, 4), pdelayResp := some (0, 9, 5, 0) }), 4, 5, 9, 0, by decide +kernel⟩,
   ⟨0, st world, by decide +kernel⟩,
   ⟨0, 0xB, st (slave [1] { state := .master }), by decide +kernel⟩,
   ⟨0, {}, st (timed { cfg := { mech := [1] } }), by decide +kernel⟩,
   ⟨0, st (timed { cfg := { mech := [1] }, master := 0, state := .locked }), by decide +kernel⟩⟩

/-- States and operands that meet the hypotheses of EventIsCounted, clause by clause. -/
theorem witness_EventIsCounted :
  (∃ t : Time, ∃ n : Fin 768, ∃ s : State, ∃ x : Source, ∃ e : Time, ∃ opens : Bool, ∃ severe : Bool, ∃ c : Nat, n.val ≠ 747 ∧
    (n.val < 660 ∨ 679 < n.val) ∧ x = srcOf s.dev n.val ∧ x.force = false ∧ x.mute = false ∧ e = arrival t s ∧
    (opens = decide (x.count = 0 ∨ x.opens + us x.w ≤ e)) ∧ c = min ((if opens then 0 else x.count) + 1) 255 ∧
    (severe = decide (x.cls = 1 ∨ x.n ≤ c))) ∧
  (∃ t : Time, ∃ n : Fin 768, ∃ s : State,
    ∃ d : Dev, d = (if n.val = 747 then modBonnet (fun b => { b with drbgStopped := true }) (advance t s.dev) else if 660 ≤ n.val ∧
    n.val ≤ 679 then modStop (n.val - 660) (fun m => { m with tagsDisagree := true }) (advance t s.dev) else advance t s.dev)) ∧
  (∃ n : Fin 768, ∃ s : State, ∃ x : Source, n.val ≠ 747 ∧ (n.val < 660 ∨ 679 < n.val) ∧ x = srcOf s.dev n.val ∧ x.mute = true) ∧
  (∃ k : Nat, 15 < k) ∧
  (∃ t : Time, ∃ x : Source, x.opens + us x.w ≤ t) :=
  ⟨⟨0, 767, st world, _, _, _, _, _, by decide +kernel, by decide +kernel, rfl, by decide +kernel, by decide +kernel, rfl, rfl, rfl, rfl⟩,
   ⟨0, 747, st world, _, rfl⟩,
   ⟨5, st (sourced 5 { srcDefault 5 with mute := true }), _, by decide +kernel, by decide +kernel, rfl, by decide +kernel⟩,
   ⟨16, by decide +kernel⟩,
   ⟨us 1000, { srcDefault 5 with w := 1000 }, by decide +kernel⟩⟩

/-- States and operands that meet the hypotheses of SignalledEvents, clause by clause. -/
theorem witness_SignalledEvents :
  (∃ n : Fin 768, ∃ s : State, ∃ a : Time, ∃ e : Time, (srcOf s.dev n.val).asserted = some a ∧ (srcOf s.dev n.val).lastEvent = some e) :=
  ⟨5, st (sourced 5 { srcDefault 5 with asserted := some 0, lastEvent := some 0 }), 0, 0, by decide +kernel, by decide +kernel⟩

/-- States and operands that meet the hypotheses of ForceTest, clause by clause. -/
theorem witness_ForceTest :
  (∃ s : State, ((s.dev.cal.src.any fun e => e.2.force) = true)) ∧
  (∃ s : State, ((s.dev.cal.src.any fun e => e.2.force) = false)) ∧
  (∃ n : Fin 768, ∃ s : State, n.val ≠ 747 ∧ (n.val < 660 ∨ 679 < n.val) ∧ (srcOf s.dev n.val).force = true ∧
    (srcOf s.dev n.val).mute = false) ∧
  (∃ n : Fin 768, ∃ s : State, (srcOf s.dev n.val).force = false) ∧
  (∃ n : Fin 768, ∃ s : State, ∃ x : Source, ∃ l : List Nat, x = srcOf s.dev n.val ∧ x.force = true ∧ l = (if x.held = [] ∧
    x.asserted ≠ none then [0] else x.held)) ∧
  (∃ s : State, ∃ n : Nat, ∃ x : Source, ∃ l : List Nat, ((s.dev.cal.src.find? fun e => e.2.force) = some (n, x)) ∧ srcOf s.dev n = x ∧
    l = (if x.held = [] ∧ x.asserted ≠ none then [0] else x.held)) :=
  ⟨⟨st (sourced 5 { srcDefault 5 with force := true }), by decide +kernel⟩,
   ⟨st (sourced 5 (srcDefault 5)), by decide +kernel⟩,
   ⟨5, st (sourced 5 { srcDefault 5 with force := true }), by decide +kernel⟩,
   ⟨5, st world, by decide +kernel⟩,
   ⟨5, st (sourced 5 { srcDefault 5 with force := true }), _, _, rfl, by decide +kernel, rfl⟩,
   ⟨st (sourced 5 { srcDefault 5 with force := true }), 5, { srcDefault 5 with force := true }, _, by decide +kernel, by decide +kernel, rfl⟩⟩

/-- States and operands that meet the hypotheses of ErrNRelease, clause by clause. -/
theorem witness_ErrNRelease :
  (∃ s : State, procUp 1 s.dev = false) ∧
  (∃ s : State, procUp 1 s.dev = true) ∧
  (∃ s : State, s.dev.cal.errN = false) ∧
  (∃ s : State, s.dev.cal.errN = true) :=
  ⟨⟨st { world with cores := { proc := [(1, { stopped := true })] } }, by decide +kernel⟩,
   ⟨st world, by decide +kernel⟩,
   ⟨st { world with cal := { errN := false } }, by decide +kernel⟩,
   ⟨st world, by decide +kernel⟩⟩

/-- States and operands that meet the hypotheses of GaugeWindowSignals, clause by clause. -/
theorem witness_GaugeWindowSignals :
  (∃ t : Time, ∃ c : Fin 16, ∃ a : W16, ∃ b : W16, ∃ s : State, ∃ low : Nat, ∃ armed : Bool, ∃ below : Bool,
    ∃ differ : Bool, arrival t s % us 10 = 0 ∧ s.dev.start.released = true ∧ s.dev.start.releasedAt + us 10 ≤ arrival t s ∧
    armed = (s.dev.pace.testArmed && s.dev.pace.testCluster == c.val) ∧ low = min a.toNat b.toNat ∧
    below = decide (low < if armed then 0xFFFF else 10 * s.dev.pace.f) ∧
    differ = decide (3 * max a.toNat b.toNat < 100 * (max a.toNat b.toNat - low))) ∧
  (∃ t : Time, ∃ s : State, (arrival t s % us 10 ≠ 0 ∨ s.dev.start.released = false ∨ arrival t s < s.dev.start.releasedAt + us 10)) :=
  ⟨⟨us 20, 15, 7800, 7800, st world, _, _, _, _, by decide +kernel, by decide +kernel, by decide +kernel, rfl, rfl, rfl, rfl⟩,
   ⟨5, st world, by decide +kernel⟩⟩

/-- States and operands that meet the hypotheses of PaceControl, clause by clause. -/
theorem witness_PaceControl :
  (∃ s : State, ∃ m : Nat, ∃ next : Time, ∃ g : Nat, ∃ lost : Bool, s.dev.pace.track = true ∧ s.dev.start.released = true ∧
    stewardUp s.dev = true ∧ (∀ c, c < 16 → m ≤ (gaugeOf s.dev c).min.toNat) ∧ (∃ c, c < 16 ∧ (gaugeOf s.dev c).min.toNat = m) ∧
    next = (if s.dev.geyser.now % ms 1 = 0 ∧
    s.dev.pace.trackAt ≠ some s.dev.geyser.now then s.dev.geyser.now else (s.dev.geyser.now / ms 1 + 1) * ms 1) ∧
    g = 10 * s.dev.pace.f * (100 + s.dev.pace.guardPct) ∧ lost = decide (100 * m < g ∧ 900 ≤ s.dev.pace.target)) ∧
  (∃ s : State, ∃ next : Time, (s.dev.pace.track = false ∨ s.dev.start.released = false ∨ stewardUp s.dev = false) ∧
    next = (if s.dev.geyser.now % ms 1 = 0 ∧
    s.dev.pace.trackAt ≠ some s.dev.geyser.now then s.dev.geyser.now else (s.dev.geyser.now / ms 1 + 1) * ms 1)) ∧
  (∃ e : Bool, ∃ r : Nat, ∃ f : Bool, ∃ s : State, ∃ bad : Bool, s.dev.pace.stopped = false ∧ s.dev.start.released = true ∧
    bad = (e || f || decide (s.dev.pace.target + 10 < r) || decide (r + 10 < s.dev.pace.target))) :=
  ⟨⟨st world, 65535, _, _, _, five (by decide +kernel) ⟨rfl, rfl, rfl⟩⟩,
   ⟨st { world with pace := { track := false } }, _, by decide +kernel, rfl⟩,
   ⟨false, 810, false, st world, _, by decide +kernel, by decide +kernel, rfl⟩⟩

/-- States and operands that meet the hypotheses of SafePairsArm, clause by clause. -/
theorem witness_SafePairsArm :
  (∃ s : State, s.dev.gnt.armed = true) ∧
  (∃ pins : Byte, ∃ s : State, s.dev.gnt.armed = false ∧ (pins = 0 ∨ s.dev.start.resumed = true)) ∧
  (∃ pins : Byte, ∃ s : State, s.dev.gnt.armed = false ∧ pins ≠ 0 ∧ s.dev.start.resumed = false) ∧
  (∃ w : Bool, ∃ s : State, (w = true ∨ s.dev.start.resumed = true)) ∧
  (∃ d : Dev, (d.gnt.forced = true ∨ d.gnt.armed = false)) ∧
  (∃ d : Dev, ∃ i : Fin 4, d.gnt.armed = true ∧ d.gnt.forced = false ∧ (portOf d i.val).role = .out ∧ d.gnt.pulses = []) :=
  ⟨⟨st (gaunt { armed := true }), by decide +kernel⟩,
   ⟨0, st (gaunt {}), by decide +kernel, by decide +kernel⟩,
   ⟨0xFF, st ({ world with start := {} }), by decide +kernel⟩,
   ⟨false, st (world), by decide +kernel⟩,
   ⟨world, by decide +kernel⟩,
   ⟨gaunt { armed := true }, 1, by decide +kernel⟩⟩

/-- States and operands that meet the hypotheses of SafePinReadback, clause by clause. -/
theorem witness_SafePinReadback :
  (∃ t : Time, ∃ p : Fin 4, ∃ pin : SafePin, ∃ s : State, pairActive s.dev p.val = true ∧ arrival t s % ms 20 = pulseOffset p.val pin) ∧
  (∃ t : Time, ∃ p : Fin 4, ∃ pin : SafePin, ∃ level : Bool, ∃ s : State, ∃ b : Nat, b = pinBit p.val pin ∧
    (gntDrive (advance t s.dev)).getLsbD b = level) ∧
  (∃ t : Time, ∃ p : Fin 4, ∃ pin : SafePin, ∃ level : Bool, ∃ s : State, ∃ b : Nat, b = pinBit p.val pin ∧
    (gntDrive (advance t s.dev)).getLsbD b ≠ level) :=
  ⟨⟨us 2500, 1, .a, st (gaunt { armed := true }), by decide +kernel, by decide +kernel⟩,
   ⟨0, 3, .b, false, st (gaunt {}), _, rfl, by decide +kernel⟩,
   ⟨0, 3, .b, true, st (gaunt {}), _, rfl, by decide +kernel⟩⟩

/-- States and operands that meet the hypotheses of UnitWatchdogWindow, clause by clause. -/
theorem witness_UnitWatchdogWindow :
  (∃ t : Time, ∃ i : Fin 3, ∃ s : State, ∃ w : UnitWd, w = uwdOf s.dev (64 + i.val) ∧ (w.state = .running ∨ w.state = .grace) ∧
    procUp (if i.val = 0 then 0 else 1) s.dev = true ∧ w.last + us w.openUs ≤ arrival t s ∧ arrival t s < w.last + us w.periodUs) ∧
  (∃ i : Fin 3, ∃ s : State, (procUp (if i.val = 0 then 0 else 1) s.dev = false ∨ ((uwdOf s.dev (64 + i.val)).state ≠ .running ∧
    (uwdOf s.dev (64 + i.val)).state ≠ .grace))) ∧
  (∃ t : Time, ∃ i : Fin 3, ∃ s : State, ∃ w : UnitWd, w = uwdOf s.dev (64 + i.val) ∧ (w.state = .running ∨ w.state = .grace) ∧
    procUp (if i.val = 0 then 0 else 1) s.dev = true ∧ arrival t s < w.last + us w.openUs ∧ arrival t s < w.last + us w.periodUs ∧
    ¬ (i.val = 2 ∧ w.test = true)) ∧
  (∃ n : Fin 67, ∃ s : State, ∃ w : UnitWd, ∃ x : Time, w = uwdOf s.dev n.val ∧ (w.state = .running ∨ w.state = .grace) ∧
    x = w.last + us w.periodUs ∧ ¬ (n.val = 66 ∧ w.test = true)) ∧
  (∃ s : State, ∃ w : UnitWd, w = uwdOf s.dev 66 ∧ w.state = .running ∧ w.test = true) ∧
  (∃ t : Time, ∃ c : Fin 64, ∃ s : State, ∃ w : UnitWd, w = uwdOf s.dev c.val ∧ (w.state = .running ∨ w.state = .grace) ∧
    arrival t s % ms 1 = 0 ∧ w.last + us w.openUs ≤ arrival t s ∧ arrival t s < w.last + us w.periodUs) ∧
  (∃ t : Time, ∃ c : Fin 64, ∃ answered : Bool, ∃ s : State, ∃ w : UnitWd, w = uwdOf s.dev c.val ∧
    (answered = false ∨ arrival t s % ms 1 ≠ 0 ∨ (w.state ≠ .running ∧ w.state ≠ .grace) ∨ arrival t s < w.last + us w.openUs)) ∧
  (∃ s : State, (uwdOf s.dev 66).test = true) :=
  ⟨⟨us 5, 2, st (unitWd 66 { state := .running, openUs := 5, periodUs := 10 }), _, rfl, by decide +kernel⟩,
   ⟨0, st (unitWd 64 { state := .expired }), by decide +kernel⟩,
   ⟨us 4, 0, st (unitWd 64 { state := .grace, openUs := 5, periodUs := 10 }), _, rfl, by decide +kernel⟩,
   ⟨66, st (unitWd 66 { state := .running, openUs := 5, periodUs := 10 }), _, _, rfl, by decide +kernel, rfl, by decide +kernel⟩,
   ⟨st (unitWd 66 { state := .running, test := true }), _, rfl, by decide +kernel, by decide +kernel⟩,
   ⟨0, 63, st (unitWd 63 { state := .running, openUs := 0, periodUs := 1000 }), _, rfl, by decide +kernel⟩,
   ⟨0, 63, false, st (unitWd 63 { state := .running, openUs := 0, periodUs := 1000 }), _, rfl, by decide +kernel⟩,
   ⟨st (unitWd 66 { test := true }), by decide +kernel⟩⟩

/-- States and operands that meet the hypotheses of WatchdogGrace, clause by clause. -/
theorem witness_WatchdogGrace :
  (∃ i : Fin 2, ∃ s : State, (uwdOf s.dev (64 + i.val)).state = .grace) ∧
  (∃ c : Fin 64, ∃ s : State, (uwdOf s.dev c.val).state = .grace ∧ runOn? s.dev c.val = none) ∧
  (∃ i : Fin 2, ∃ s : State, ∃ w : UnitWd, w = uwdOf s.dev (64 + i.val) ∧ w.state = .grace) ∧
  (∃ c : Fin 64, ∃ s : State, ∃ w : UnitWd, w = uwdOf s.dev c.val ∧ w.state = .grace ∧ s.dev.start.wireTest = false) :=
  ⟨⟨1, st (unitWd 65 { state := .grace }), by decide +kernel⟩,
   ⟨63, st (unitWd 63 { state := .grace }), by decide +kernel, by decide +kernel⟩,
   ⟨0, st (unitWd 64 { state := .grace }), _, rfl, by decide +kernel⟩,
   ⟨0, st (unitWd 0 { state := .grace }), _, rfl, by decide +kernel, by decide +kernel⟩⟩

/-- States and operands that meet the hypotheses of DeviceWatchdog, clause by clause. -/
theorem witness_DeviceWatchdog :
  (∃ t : Time, ∃ v : W32, ∃ s : State, ∃ w : DeviceWd, w = s.dev.watch.dwd ∧ procUp 1 s.dev = true ∧ v = w.next ∧ (w.state = .running ∧
    arrival t s < w.last + us w.periodUs ∧ w.last + us w.openUs ≤ arrival t s ∨ w.state = .restart ∧ arrival t s < w.last + ms 500)) ∧
  (∃ t : Time, ∃ v : W32, ∃ s : State, ∃ w : DeviceWd, ∃ late : Bool, ∃ early : Bool, ∃ bad : Bool, ∃ end_ : Time, w = s.dev.watch.dwd ∧
    procUp 1 s.dev = true ∧ (w.state = .running ∨ w.state = .restart) ∧
    end_ = w.last + (if w.state = .restart then ms 500 else us w.periodUs) ∧ late = decide (end_ ≤ arrival t s) ∧
    bad = (!late && decide (v ≠ w.next)) ∧ early = (!late && !bad && decide (w.state = .running ∧ arrival t s < w.last + us w.openUs)) ∧
    (late = true ∨ bad = true ∨ early = true)) ∧
  (∃ s : State, ∃ w : DeviceWd, ∃ x : Time, w = s.dev.watch.dwd ∧ (w.state = .running ∨ w.state = .restart) ∧
    x = w.last + (if w.state = .restart then ms 500 else us w.periodUs)) ∧
  (∃ s : State, (s.dev.watch.dwd.state = .expired ∨ s.dev.watch.dwd.state = .off ∨ procUp 1 s.dev = false)) ∧
  (∃ s : State, s.dev.watch.dwd.pwrCut = true) :=
  ⟨⟨us 5, 0x5AA5, st (deviceWd { state := .running, periodUs := 10, openUs := 5 }), _, rfl, by decide +kernel, rfl, by decide +kernel⟩,
   ⟨0, 0, st (deviceWd { state := .restart }), _, _, _, _, _, rfl, by decide +kernel, by decide +kernel, rfl, rfl, rfl, rfl, by decide +kernel⟩,
   ⟨st (deviceWd { state := .restart }), _, _, rfl, by decide +kernel, rfl⟩,
   ⟨st (deviceWd {}), by decide +kernel⟩,
   ⟨st (deviceWd { pwrCut := true }), by decide +kernel⟩⟩

/-- States and operands that meet the hypotheses of MonitorsAndSweeps, clause by clause. -/
theorem witness_MonitorsAndSweeps :
  (∃ m : Fin 4096, ∃ s : State, ∃ x : Monitor, kfind? s.dev.watch.monitors m.val = some x ∧ x.suspended = false ∧ x.minimum ≤ x.count) ∧
  (∃ m : Fin 4096, ∃ s : State, (∀ x, kfind? s.dev.watch.monitors m.val = some x → x.suspended = true)) ∧
  (∃ m : Fin 4096, ∃ s : State, ∃ x : Monitor, ∃ e : Time, kfind? s.dev.watch.monitors m.val = some x ∧ x.suspended = false ∧
    x.count < x.minimum ∧ e = x.start + (x.index + 1) * us x.windowUs) ∧
  (∃ unit : Nat, ∃ key : Nat, key = 320 + unit % 21) ∧
  (∃ s : State, ∃ done : Nat, done = kget 0 s.dev.start.sweepDone 341 ∧ done + 1 < 96 ∧ ((s.dev.cal.src.any fun e => e.2.force) = false) ∧
    (∀ i, i < 8 → (srcOf s.dev (8 * done + i)).asserted = none)) ∧
  (∃ slice : Nat, 2 ≤ slice) ∧
  (∃ t : Time, ∃ slice : Fin 2, ∃ unit : Nat, ∃ core : Nat, ∃ key : Nat,
    ∃ s : State, core = (if slice.val = 0 then unit % 256 / 4 else unit % 64) ∧
    key = (if slice.val = 0 then unit % 256 else 256 + unit % 64) ∧
    sliceFits core (if slice.val = 0 then 200 else 60) (advance t s.dev) = false) ∧
  (∃ key : Nat, ∃ s : State,
    ∃ e : Time, e = kget s.dev.start.serviceAt s.dev.start.sweepStart key + ms (if key < 256 then 10000 else if key = 341 then 60000 else 1000)) :=
  ⟨⟨9, st ({ world with watch := { monitors := [(9, { monitor2 with count := 1 })] } }), { monitor2 with count := 1 }, by decide +kernel⟩,
   ⟨9, st world, (by intro x h; exact nomatch (show (none : Option Monitor) = some x from h))⟩,
   ⟨9, st ({ world with watch := { monitors := [(9, { monitor2 with minimum := 1 })] } }), { monitor2 with minimum := 1 }, _,
    by decide +kernel, by decide +kernel, by decide +kernel, rfl⟩,
   ⟨20, _, rfl⟩,
   ⟨st world, _, rfl, by decide +kernel⟩,
   ⟨2, by decide +kernel⟩,
   ⟨0, 0, 0, _, _, st (running false run0 bundle0), rfl, rfl, by decide +kernel⟩,
   ⟨341, st (world), _, rfl⟩⟩

/-- States and operands that meet the hypotheses of FabricFrames, clause by clause. -/
theorem witness_FabricFrames :
  (∃ t : Time, ∃ h : FabricHeader, ∃ s : State, ∃ d : Dev, ∃ p : Port, d = advance t s.dev ∧ p = portOf d h.port.val ∧
    (p.link = false ∨ p.role = .fabric ∧ (d.fabric.id = 0 ∨ fabricUp d = false ∨ h.dest ≠ d.fabric.device ∧ h.dest ≠ 0xFF))) ∧
  (∃ t : Time, ∃ h : FabricHeader, ∃ s : State, ∃ d : Dev, ∃ p : Port, d = advance t s.dev ∧ p = portOf d h.port.val ∧ p.link = true ∧
    p.role = .out) ∧
  (∃ t : Time, ∃ h : FabricHeader, ∃ s : State, ∃ d : Dev, ∃ p : Port, d = advance t s.dev ∧ p = portOf d h.port.val ∧ p.link = true ∧
    p.role ≠ .out ∧ p.role ≠ .fabric) ∧
  (∃ t : Time, ∃ h : FabricHeader, ∃ m : Member, ∃ s : State, ∃ d : Dev, d = advance t s.dev ∧ frameForUs h d ∧ h.fabric = d.fabric.id ∧
    h.checkOk = true ∧ kfind? d.fabric.members h.source = some m ∧ m.pairKey.isSome = true ∧ h.frameSeq ∈ m.seen) ∧
  (∃ t : Time, ∃ h : FabricHeader, ∃ m : Member, ∃ s : State, ∃ d : Dev, d = advance t s.dev ∧ frameForUs h d ∧
    (h.fabric ≠ d.fabric.id ∨ kfind? d.fabric.members h.source = none ∨ kfind? d.fabric.members h.source = some m ∧
    (m.pairKey = none ∨ h.checkOk = false))) ∧
  (∃ t : Time, ∃ h : FabricHeader, ∃ m : Member, ∃ iso : Bool, ∃ fail : Bool, ∃ fwd : List (Nat × Time), ∃ s : State,
    ∃ d : Dev, d = advance t s.dev ∧ frameComes h m d ∧ iso = false ∧ fail = false ∧
    (d.fabric.role ≠ 1 ∨ deputyOf d.fabric ≠ some h.source ∨ fwd = [])) ∧
  (∃ t : Time, ∃ h : FabricHeader, ∃ m : Member, ∃ iso : Bool, ∃ fail : Bool, ∃ fwd : List (Nat × Time), ∃ s : State, ∃ d : Dev, ∃ n : Nat,
    ∃ i : Time, ∃ k : Member, d = advance t s.dev ∧ frameComes h m d ∧ iso = false ∧ fail = false ∧ d.fabric.role = 1 ∧
    deputyOf d.fabric = some h.source ∧ n ≠ h.source ∧ fwd = [(n, i)] ∧ kfind? d.fabric.members n = some k) ∧
  (∃ t : Time, ∃ h : FabricHeader, ∃ m : Member, ∃ iso : Bool, ∃ fail : Bool, ∃ s : State, ∃ d : Dev, d = advance t s.dev ∧
    frameComes h m d ∧ (iso = true ∨ fail = true) ∧ d.fabric.role = 1 ∧ m.inService = true ∧ h.source ≠ d.fabric.device) ∧
  (∃ t : Time, ∃ sent : Time, ∃ h : FabricHeader, ∃ m : Member, ∃ q : Nat, ∃ s : State, ∃ d : Dev, d = advance t s.dev ∧ frameComes h m d ∧
    (d.fabric.role = 1 ∨ h.source = d.fabric.manager ∨ deputyOf d.fabric = some h.source) ∧ (q, sent) ∈ d.fabric.sent ∧
    d.fabric.isolated = false) ∧
  (∃ t : Time, ∃ sent : Time, ∃ h : FabricHeader, ∃ m : Member, ∃ q : Nat, ∃ s : State, ∃ d : Dev, d = advance t s.dev ∧ frameComes h m d ∧
    (d.fabric.role ≠ 1 ∧ h.source ≠ d.fabric.manager ∧
    deputyOf d.fabric ≠ some h.source ∨ (q, sent) ∉ d.fabric.sent ∨ d.fabric.isolated = true)) ∧
  (∃ t : Time, ∃ h : FabricHeader, ∃ m : Member, ∃ r : JournalRecord, ∃ s : State, ∃ d : Dev, d = advance t s.dev ∧ frameComes h m d ∧
    nextIn h.source (ringOrder (frameTaken h d).fabric) = some d.fabric.device ∧ r.origin = h.source ∧ (∀ o, r.body ≠ .checkpoint o) ∧
    (∀ a b c o, r.body ≠ .context a b c o)) ∧
  (∃ t : Time, ∃ h : FabricHeader, ∃ m : Member, ∃ s : State, ∃ d : Dev, d = advance t s.dev ∧ frameComes h m d ∧
    nextIn h.source (ringOrder (frameTaken h d).fabric) ≠ some d.fabric.device) ∧
  (∃ t : Time, ∃ h : FabricHeader, ∃ m : Member, ∃ s : State, ∃ d : Dev, ∃ e : Dev, d = advance t s.dev ∧ frameComes h m d ∧
    e = frameTaken h d ∧ mirrorPeer? e.fabric = some h.source) ∧
  (∃ t : Time, ∃ h : FabricHeader, ∃ m : Member, ∃ s : State, ∃ d : Dev, ∃ e : Dev, d = advance t s.dev ∧ frameComes h m d ∧
    e = frameTaken h d ∧ mirrorPeer? e.fabric ≠ some h.source) ∧
  (∃ d : Dev, joining? d = none ∧ (∀ a ∈ d.accepted, a.mirror = none) ∧ d.contexts = [] ∧ (∀ e ∈ d.sessions, e.2.waiting = [])) ∧
  (∃ t : Time, ∃ h : FabricHeader, ∃ m : Member, ∃ s : State, ∃ d : Dev, ∃ e : Dev, d = advance t s.dev ∧ frameComes h m d ∧
    e = frameTaken h d ∧ h.source ≠ d.fabric.manager) ∧
  (∃ t : Time, ∃ h : FabricHeader, ∃ m : Member, ∃ s : State, ∃ d : Dev, ∃ e : Dev, d = advance t s.dev ∧ frameComes h m d ∧
    e = frameTaken h d ∧ h.source = d.fabric.manager) ∧
  (∃ c : W32, ∃ k, k ≠ c.toNat) ∧
  (∃ c : W32, ∃ n : Nat, ∃ d : Dev, n ≠ d.fabric.device ∧ (ctxOf d c).state ∉ [.closed, .draining] ∧
    (∀ k, partOf? d (ctxOf d c).partition = some k → 0 < k.majorUs)) ∧
  (∃ d : Dev, d.fabric.role ≠ 0) ∧
  (∃ t : Time, ∃ h : FabricHeader, ∃ m : Member, ∃ k : TakeoverData, ∃ s : State, ∃ d : Dev, d = advance t s.dev ∧ frameComes h m d ∧
    h.source = d.fabric.manager ∧ h.source ≠ d.fabric.device ∧ inFabric d = true ∧ (ctxOf d k.context).state = .closed) ∧
  (∃ t : Time, ∃ h : FabricHeader, ∃ m : Member, ∃ s : State, ∃ d : Dev, d = advance t s.dev ∧ frameComes h m d ∧
    h.source ≠ d.fabric.manager ∧ h.source ≠ d.fabric.device) ∧
  (∃ t : Time, ∃ h : FabricHeader, ∃ m : Member, ∃ c : W32, ∃ s : State, ∃ d : Dev, d = advance t s.dev ∧ frameComes h m d ∧
    takeoverOf? d c = none) ∧
  (∃ t : Time, ∃ h : FabricHeader, ∃ m : Member, ∃ c : W32, ∃ s : State, ∃ d : Dev, ∃ x, d = advance t s.dev ∧ frameComes h m d ∧
    takeoverOf? d c = some x) ∧
  (∃ t : Time, ∃ p : Fin 64, ∃ cert : Bool, ∃ named : Bool, ∃ fw : W32, ∃ s : State, ∃ d : Dev, d = advance t s.dev ∧ d.fabric.id ≠ 0 ∧
    fabricUp d = true ∧ p.val ≠ d.fabric.device ∧ (cert = false ∨ named = false ∨ fw.toNat < d.fabric.minFirmware.toNat) ∧
    d.fabric.role ≠ 0) ∧
  (∃ t : Time, ∃ p : Fin 64, ∃ cert : Bool, ∃ named : Bool, ∃ fw : W32, ∃ s : State, ∃ d : Dev, d = advance t s.dev ∧ d.fabric.id ≠ 0 ∧
    fabricUp d = true ∧ p.val ≠ d.fabric.device ∧ cert = true ∧ named = true ∧ d.fabric.minFirmware.toNat ≤ fw.toNat ∧
    (d.fabric.role = 2 ∨ d.fabric.role = 3)) :=
  ⟨⟨0, head 1 3, st (joined 2 3), _, _, rfl, rfl, by decide +kernel⟩,
   ⟨0, { head 1 2 with port := 1 }, st (joined 2 3), _, _, rfl, rfl, by decide +kernel, by decide +kernel⟩,
   ⟨0, { head 1 2 with port := 2 }, st (joined 2 3), _, _, rfl, rfl, by decide +kernel⟩,
   ⟨0, head 1 2, { member 1 with seen := [5] }, st { joined 2 3 with fabric := { (joined 2 3).fabric with members := [(1, { member 1 with seen := [5] })] } },
    _, rfl, forUs (by decide +kernel), by decide +kernel⟩,
   ⟨0, { head 1 2 with fabric := 4 }, member 1, st (joined 2 3), _, rfl, forUs (by decide +kernel), by decide +kernel⟩,
   ⟨0, head 4 1, member 3, false, false, [], st (joined 1 1), _, rfl, frame_of (by decide +kernel), rfl, rfl, by decide +kernel⟩,
   ⟨0, head 2 1, member 2, false, false, _, st { joined 1 1 with fabric := { (joined 1 1).fabric with members := [(1, member 1), (2, member 2), (4, member 3)] } },
    _, 4, 0, member 3, rfl, frame_of (by decide +kernel), rfl, rfl, by decide +kernel, by decide +kernel, by decide +kernel, rfl,
    by decide +kernel⟩,
   ⟨0, head 4 1, member 3, true, false, st (joined 1 1), _, rfl, frame_of (by decide +kernel), by decide +kernel⟩,
   ⟨0, 0, head 1 2, member 1, 9, st (joined 2 3), _, rfl, frame_of (by decide +kernel), by decide +kernel⟩,
   ⟨0, 0, head 1 2, member 1, 8, st (joined 2 3), _, rfl, frame_of (by decide +kernel), by decide +kernel⟩,
   ⟨0, head 1 2, member 1, record0 1, st (joined 2 3), _, rfl, frame_of (by decide +kernel), by decide +kernel, by decide +kernel,
    (by intro o h; cases h), (by intro a b c o h; cases h)⟩,
   ⟨0, head 4 2, member 3, st (joined 2 3), _, rfl, frame_of (by decide +kernel), by decide +kernel⟩,
   ⟨0, head 4 2, member 3, st (joined 2 3), _, _, rfl, frame_of (by decide +kernel), rfl, by decide +kernel⟩,
   ⟨0, head 1 2, member 1, st (joined 2 3), _, _, rfl, frame_of (by decide +kernel), rfl, by decide +kernel⟩,
   ⟨joined 2 3, by decide +kernel⟩,
   ⟨0, head 4 2, member 3, st (joined 2 3), _, _, rfl, frame_of (by decide +kernel), rfl, by decide +kernel⟩,
   ⟨0, head 1 2, member 1, st (joined 2 3), _, _, rfl, frame_of (by decide +kernel), rfl, by decide +kernel⟩,
   ⟨7, 8, by decide +kernel⟩,
   ⟨7, 4, withCtx (joined 2 3) ctx7, by decide +kernel, by decide +kernel,
    (by intro k h; obtain rfl : part1 = k := Option.some.inj h; decide +kernel)⟩,
   ⟨joined 2 3, by decide +kernel⟩,
   ⟨0, head 1 2, member 1, takeover0, st (joined 2 3), _, rfl, frame_of (by decide +kernel), by decide +kernel⟩,
   ⟨0, head 4 2, member 3, st (joined 2 3), _, rfl, frame_of (by decide +kernel), by decide +kernel, by decide +kernel⟩,
   ⟨0, head 1 2, member 1, 7, st (joined 2 3), _, rfl, frame_of (by decide +kernel), by decide +kernel⟩,
   ⟨0, head 1 2, member 1, 7, st ({ joined 2 3 with fabric := { (joined 2 3).fabric with takeovers := [{ data := takeover0 }] } }), _,
    { data := takeover0 }, rfl, frame_of (by decide +kernel), by decide +kernel⟩,
   ⟨0, 4, true, false, 0, st (joined 2 3), _, rfl, by decide +kernel⟩,
   ⟨0, 4, true, true, 0, st (joined 2 3), _, rfl, by decide +kernel, by decide +kernel, by decide +kernel, rfl, rfl, by decide +kernel,
    by decide +kernel⟩⟩

/-- States and operands that meet the hypotheses of FabricEvents, clause by clause. -/
theorem witness_FabricEvents :
  (∃ s : State, ∃ b : Time, ∃ d : Dev, b = nextBeat (ms 1) s.dev.fabric.beatAt s.dev.geyser.now ∧
    d = modFab (fun f => { f with beatAt := some b }) (advance b s.dev) ∧ (d.fabric.role = 0 ∨ fabricUp d = false)) ∧
  (∃ s : State, ∃ b : Time, ∃ d : Dev, ∃ peers : List Nat, b = nextBeat (ms 1) s.dev.fabric.beatAt s.dev.geyser.now ∧
    d = modFab (fun f => { f with beatAt := some b }) (advance b s.dev) ∧ d.fabric.role ≠ 0 ∧ fabricUp d = true ∧
    peers = (if d.fabric.role = 1 then [0xFF] else (d.fabric.manager :: (deputyOf d.fabric).toList).filter (· != d.fabric.device))) ∧
  (∃ s : State, ∃ d : Dev, d = advance s.dev.fabric.lease s.dev ∧ (s.dev.fabric.role = 2 ∨ s.dev.fabric.role = 3) ∧
    s.dev.fabric.isolated = false) ∧
  (∃ s : State, ∃ d : Dev, d = advance s.dev.fabric.lease s.dev ∧ (s.dev.fabric.role < 2 ∨ s.dev.fabric.isolated = true)) ∧
  (∃ s : State, ∃ d : Dev, d = advance s.dev.fabric.lease s.dev ∧ s.dev.fabric.role = 1 ∧ othersInService s.dev = true ∧
    s.dev.fabric.isolated = false) ∧
  (∃ s : State, ∃ d : Dev, d = advance s.dev.fabric.lease s.dev ∧ (s.dev.fabric.role ≠ 1 ∨ othersInService s.dev = false)) ∧
  (∃ t : Time, ∃ n : Fin 64, ∃ m : Member, ∃ s : State, ∃ d : Dev, d = advance t s.dev ∧ kfind? d.fabric.members n.val = some m ∧
    (d.geyser.now < m.lastSend + ms 20 ∨ fabricUp d = false ∨ d.fabric.role ≠ 1 ∨ n.val = d.fabric.device ∨ m.inService = false)) ∧
  (∃ t : Time, ∃ n : Fin 64, ∃ m : Member, ∃ s : State, ∃ d : Dev, d = advance t s.dev ∧ kfind? d.fabric.members n.val = some m ∧
    m.lastSend + ms 20 ≤ d.geyser.now ∧ fabricUp d = true ∧ d.fabric.role = 1 ∧ n.val ≠ d.fabric.device ∧ m.inService = true) ∧
  (∃ s : State, (s.dev.fabric.role ≠ 2 ∨ fabricUp s.dev = false)) ∧
  (∃ s : State, s.dev.fabric.role = 2 ∧ fabricUp s.dev = true) ∧
  (∃ s : State, unconfirmed? s.dev = none) ∧
  (∃ s : State, ∃ r, ∃ m, unconfirmed? s.dev = some r ∧ mirrorPeer? s.dev.fabric = some m) ∧
  (∃ t : Time, ∃ s : State, ∃ d : Dev, d = advance t s.dev ∧ (mirrorPeer? d.fabric = none ∨ d.fabric.copied = true)) ∧
  (∃ t : Time, ∃ s : State, ∃ d : Dev, d = advance t s.dev ∧ (mirrorPeer? d.fabric).isSome = true ∧ d.fabric.copied = false) ∧
  (∃ n : Nat, ∃ k : W64, ∃ s : State, ∃ a : Accepted, ∃ q, acceptedOf? s.dev n k = some a ∧ a.mirror = some q ∧ q ≤ s.dev.fabric.confirmed) ∧
  (∃ n : Nat, ∃ k : W64, ∃ s : State, ∃ a : Accepted, ∃ q, acceptedOf? s.dev n k = some a ∧ a.mirror = some q ∧ s.dev.fabric.confirmed < q) ∧
  (∃ n : Nat, ∃ k : W64, ∃ s : State, ∃ a : Accepted, ∃ q, acceptedOf? s.dev n k = some a ∧ a.mirror = some q ∧ a.map = false) ∧
  (∃ n : Nat, ∃ k : W64, ∃ s : State, ∃ a : Accepted, ∃ q, acceptedOf? s.dev n k = some a ∧ a.mirror = some q ∧ a.map = true) ∧
  (∃ s : State, ∃ b : Time, ∃ d : Dev, b = nextBeat (ms 100) s.dev.fabric.checkpointAt s.dev.geyser.now ∧
    d = modFab (fun f => { f with checkpointAt := some b }) (advance b s.dev) ∧ fabricUp d = false) ∧
  (∃ s : State, ∃ b : Time, ∃ d : Dev, b = nextBeat (ms 100) s.dev.fabric.checkpointAt s.dev.geyser.now ∧
    d = modFab (fun f => { f with checkpointAt := some b }) (advance b s.dev) ∧ fabricUp d = true) ∧
  (∃ c : W32, ∃ s : State, s.dev.fabric.remaps.find? (fun e => e.1 == c) = none) ∧
  (∃ c : W32, ∃ s : State, ∃ e, ∃ d, s.dev.fabric.remaps.find? (fun e => e.1 == c) = some e ∧ d = advance e.2.2 s.dev ∧
    (ctxOf d c).state ≠ .closed) ∧
  (∃ t : Time, ∃ c : W32, ∃ s : State, ∃ d : Dev, d = advance t s.dev ∧
    (takeoverOf? d c = none ∨ muted d = true ∨ fabricUp d = false ∨ (ctxOf d c).state ≠ .closed)) ∧
  (∃ t : Time, ∃ c : W32, ∃ s : State, ∃ d : Dev, ∃ k : Takeover, d = advance t s.dev ∧ takeoverOf? d c = some k ∧ muted d = false ∧
    fabricUp d = true ∧ (ctxOf d c).state = .closed ∧ (k.sliced = true ∨ k.handed.isSome = true)) ∧
  (∃ slots : List RingSlot, ∃ l : Nat, ∃ q : Nat, (∃ x ∈ slots, x.index = q % l ∧ slotOk x = true ∧ slotSeq x = q)) ∧
  (∃ slots : List RingSlot, ∃ l : Nat, ∃ q : Nat, (∀ x ∈ slots, ¬ (x.index = q % l ∧ slotOk x = true ∧ slotSeq x = q))) ∧
  (∃ l : List JournalRecord, ∃ q : Nat, (∀ r ∈ l, ∀ v, r.body = .held v → v.seq ≠ q)) ∧
  (∃ l : List JournalRecord, ∃ q : Nat, (∃ r ∈ l, ∃ v, r.body = .held v ∧ v.seq = q)) :=
  ⟨⟨st world, _, _, rfl, rfl, by decide +kernel⟩,
   ⟨st (joined 2 3), _, _, _, rfl, rfl, by decide +kernel, by decide +kernel, rfl⟩,
   ⟨st (joined 2 3), _, rfl, by decide +kernel, by decide +kernel⟩,
   ⟨st (joined 1 1), _, rfl, by decide +kernel⟩,
   ⟨st (joined 1 1), _, rfl, by decide +kernel⟩,
   ⟨st (joined 2 3), _, rfl, by decide +kernel⟩,
   ⟨0, 4, member 3, st (joined 2 3), _, rfl, by decide +kernel, by decide +kernel⟩,
   ⟨ms 20, 4, member 3, st (joined 1 1), _, rfl, by decide +kernel⟩,
   ⟨st (joined 2 3), by decide +kernel⟩,
   ⟨st (joined 2 2), by decide +kernel, by decide +kernel⟩,
   ⟨st (world), by decide +kernel⟩,
   ⟨st ({ joined 2 3 with fabric := { (joined 2 3).fabric with journal := [record0 2] } }), record0 2, 4, by decide +kernel, by decide +kernel⟩,
   ⟨0, st (joined 2 3), _, rfl, by decide +kernel⟩,
   ⟨0, st ({ joined 2 3 with fabric := { (joined 2 3).fabric with copied := false } }), _, rfl, by decide +kernel, by decide +kernel⟩,
   ⟨1, 1, st ({ joined 2 3 with accepted := [{ session := 1, packet := pk 0x0601 [] [], path := .ring 4, mirror := some 2, map := true }], fabric := { (joined 2 3).fabric with confirmed := 2 } }),
    { session := 1, packet := pk 0x0601 [] [], path := .ring 4, mirror := some 2, map := true }, 2, by decide +kernel⟩,
   ⟨1, 1, st ({ joined 2 3 with accepted := [{ session := 1, packet := pk 0x0601 [] [], path := .ring 4, mirror := some 2, map := true }], fabric := { (joined 2 3).fabric with confirmed := 1 } }),
    { session := 1, packet := pk 0x0601 [] [], path := .ring 4, mirror := some 2, map := true }, 2, by decide +kernel⟩,
   ⟨1, 1, st ({ joined 2 3 with accepted := [{ session := 1, packet := pk 0x0601 [] [], path := .ring 4, mirror := some 2, map := false }], fabric := { (joined 2 3).fabric with confirmed := 1 } }),
    { session := 1, packet := pk 0x0601 [] [], path := .ring 4, mirror := some 2, map := false }, 2, by decide +kernel⟩,
   ⟨1, 1, st ({ joined 2 3 with accepted := [{ session := 1, packet := pk 0x0601 [] [], path := .ring 4, mirror := some 2, map := true }], fabric := { (joined 2 3).fabric with confirmed := 1 } }),
    { session := 1, packet := pk 0x0601 [] [], path := .ring 4, mirror := some 2, map := true }, 2, by decide +kernel⟩,
   ⟨st (started .boot {}), _, _, rfl, rfl, by decide +kernel⟩,
   ⟨st world, _, _, rfl, rfl, by decide +kernel⟩,
   ⟨7, st (world), by decide +kernel⟩,
   ⟨7, st ({ withCtx (joined 2 3) ctx7 with fabric := { (joined 2 3).fabric with remaps := [(7, 4, ms 1)] } }), (7, 4, ms 1), _,
    by decide +kernel, rfl, by decide +kernel⟩,
   ⟨0, 7, st (joined 2 3), _, rfl, by decide +kernel⟩,
   ⟨0, 7, st { joined 2 3 with fabric := { (joined 2 3).fabric with takeovers := [{ data := takeover0, sliced := true }] } }, _,
    { data := takeover0, sliced := true }, rfl, by decide +kernel⟩,
   ⟨[slot65], 64, 65, ⟨_, List.mem_singleton.mpr rfl, by decide +kernel⟩⟩,
   ⟨[slot65], 64, 129, by decide +kernel⟩,
   ⟨[record0 2], 2, (by intro r hr v h; obtain rfl := List.mem_singleton.mp hr; cases h; decide)⟩,
   ⟨[record0 2], 1, ⟨_, List.mem_singleton.mpr rfl, _, rfl, rfl⟩⟩⟩

/-- States and operands that meet the hypotheses of ColdStart, clause by clause. -/
theorem witness_ColdStart :
  (∃ s : State, s.dev.front.state = .reset ∧ s.dev.start.cold = true ∧ s.dev.start.booting = false) ∧
  (∃ s : State, s.dev.start.booting = true ∧ s.dev.start.bootOk = true ∧ s.dev.start.released = false ∧ s.dev.watch.dwd.failover = true) ∧
  (∃ img : Bool, ∃ st : Bool, ∃ s : State, s.dev.start.booting = true ∧ s.dev.start.bootOk = true ∧ s.dev.start.released = false ∧
    s.dev.watch.dwd.failover = false ∧ (img = false ∨ st = false)) ∧
  (∃ img : Bool, ∃ st : Bool, ∃ s : State, s.dev.start.booting = true ∧ s.dev.start.bootOk = true ∧ s.dev.start.released = false ∧
    s.dev.watch.dwd.failover = false ∧ img = true ∧ st = true ∧
    (s.dev.start.cold = false ∨ s.dev.start.wiresDone = false ∨ s.dev.start.wireFail = [])) ∧
  (∃ s : State, s.dev.start.cold = true ∧ s.dev.start.released = true ∧ s.dev.start.wiresDone = false ∧ s.dev.front.state = .boot ∧
    (∀ e ∈ s.dev.cal.src, e.2.force = false)) ∧
  (∃ t : Time, ∃ s : State, ∃ d : Dev, d = advance t s.dev ∧ s.dev.start.cold = true ∧ s.dev.start.released = true ∧
    s.dev.start.wireTest = true ∧ s.dev.front.state = .boot) ∧
  (∃ t : Time, ∃ s : State, ∃ d : Dev, d = advance t s.dev ∧ (s.dev.start.cold = false ∨ s.dev.start.wireTest = false)) ∧
  (∃ t : Time, ∃ comps : List (Fin 66), ∃ bad : Bool, ∃ s : State, ∃ d : Dev, d = advance t s.dev ∧ s.dev.start.released = true ∧
    s.dev.front.state = .boot ∧ s.dev.start.testsDone = false ∧ (s.dev.start.cold = false ∨ s.dev.start.wiresDone = true) ∧
    s.dev.start.wireTest = false ∧
    (bad = true ∨ (∃ n ∈ comps, 64 ≤ n.val) ∨ (∃ n ∈ secondEvent, 2 ≤ (readCount d.geyser.now (srcOf d n)).count))) ∧
  (∃ t : Time, ∃ failed : W64, ∃ comps : List (Fin 66), ∃ bad : Bool, ∃ s : State, ∃ d : Dev, d = advance t s.dev ∧
    s.dev.start.released = true ∧ s.dev.front.state = .boot ∧ s.dev.start.testsDone = false ∧
    (s.dev.start.cold = false ∨ s.dev.start.wiresDone = true) ∧ s.dev.start.wireTest = false ∧ bad = false ∧ failed = 0 ∧ comps = [] ∧
    (∀ n ∈ secondEvent, (readCount d.geyser.now (srcOf d n)).count < 2)) ∧
  (∃ t : Time, ∃ failed : W64, ∃ comps : List (Fin 66), ∃ s : State, ∃ d : Dev, ∃ n : Nat, d = advance t s.dev ∧
    s.dev.start.released = true ∧ s.dev.front.state = .boot ∧ s.dev.start.testsDone = false ∧
    (s.dev.start.cold = false ∨ s.dev.start.wiresDone = true) ∧ s.dev.start.wireTest = false ∧ n < 64 ∧
    (failed.getLsbD n = true ∨ (∃ k ∈ comps, k.val = n))) :=
  ⟨⟨st ({}), by decide +kernel⟩,
   ⟨st ({ started .boot { booting := true } with watch := { dwd := { failover := true } } }), by decide +kernel⟩,
   ⟨true, false, st (started .boot { booting := true }), by decide +kernel⟩,
   ⟨true, true, st (started .boot { booting := true, bootOk := true, cold := false }), by decide +kernel, by decide +kernel, by decide +kernel,
    by decide +kernel, rfl, rfl, by decide +kernel⟩,
   ⟨st (started .boot { released := true }), by decide +kernel⟩,
   ⟨0, st (started .boot { released := true, wireTest := true }), _, rfl, by decide +kernel⟩,
   ⟨0, st (started .boot { released := true }), _, rfl, by decide +kernel⟩,
   ⟨0, [], true, st (started .boot { released := true, wiresDone := true }), _, rfl, by decide +kernel⟩,
   ⟨0, 0, [], false, st (started .boot { released := true, wiresDone := true }), _, rfl, five (by decide +kernel) ⟨rfl, rfl, rfl, by decide +kernel⟩⟩,
   ⟨0, 0x8000000000000000, [], st (started .boot { released := true, wiresDone := true }), _, 63, rfl, by decide +kernel⟩⟩

/-- States and operands that meet the hypotheses of WarmResets, clause by clause. -/
theorem witness_WarmResets :
  (∃ cause : Nat, ∃ source : Nat, ∃ s : State, ∃ u : State, s.dev.front.state ≠ .chipFailed ∧ s.dev.front.state ≠ .reset ∧
    s.dev.start.bootOk = true ∧ (∀ e ∈ s.dev.cal.src, e.2.force = false) ∧
    (s.dev.watch.dwd.state = .running ∨ s.dev.watch.dwd.state = .restart → s.dev.geyser.now < dwdEnd s.dev.watch.dwd) ∧
    u = warmReset cause source s ∧ s.dev.geyser.state = .locked) ∧
  (∃ cause : Nat, ∃ source : Nat, ∃ s : State, ∃ u : State, ∃ e : Nat × Session, s.dev.front.state ≠ .chipFailed ∧
    s.dev.front.state ≠ .reset ∧ s.dev.start.bootOk = true ∧ (∀ e ∈ s.dev.cal.src, e.2.force = false) ∧
    (s.dev.watch.dwd.state = .running ∨ s.dev.watch.dwd.state = .restart → s.dev.geyser.now < dwdEnd s.dev.watch.dwd) ∧
    u = warmReset cause source s ∧ e ∈ u.dev.sessions) ∧
  (∃ cause : Nat, ∃ source : Nat, ∃ s : State, ∃ u : State, ∃ k : Nat, s.dev.front.state ≠ .chipFailed ∧ s.dev.front.state ≠ .reset ∧
    s.dev.start.bootOk = true ∧ (∀ e ∈ s.dev.cal.src, e.2.force = false) ∧
    (s.dev.watch.dwd.state = .running ∨ s.dev.watch.dwd.state = .restart → s.dev.geyser.now < dwdEnd s.dev.watch.dwd) ∧
    u = warmReset cause source s ∧ k < 0xBE800000) ∧
  (∃ cause : Nat, ∃ source : Nat, ∃ s : State, ∃ u : State, ∃ k : Nat, s.dev.front.state ≠ .chipFailed ∧ s.dev.front.state ≠ .reset ∧
    s.dev.start.bootOk = true ∧ (∀ e ∈ s.dev.cal.src, e.2.force = false) ∧
    (s.dev.watch.dwd.state = .running ∨ s.dev.watch.dwd.state = .restart → s.dev.geyser.now < dwdEnd s.dev.watch.dwd) ∧
    u = warmReset cause source s ∧ 0xBE800000 ≤ k) ∧
  (∃ s : State, s.dev.front.state = .chipFailed) ∧
  (∃ s : State, ∃ w : DeviceWd, w = s.dev.watch.dwd ∧ s.dev.front.state ≠ .chipFailed ∧ s.dev.front.state ≠ .reset ∧
    (w.state = .running ∨ w.state = .restart) ∧ dwdEnd w ≤ s.dev.geyser.now) ∧
  (∃ s : State, s.dev.start.commandedAt = none) ∧
  (∃ s : State, s.dev.start.commandedAt.isSome = true) ∧
  (∃ s : State, s.dev.cal.chipSafe = true ∧ s.dev.start.wireTest = false) ∧
  (∃ s : State, (s.dev.cal.chipSafe = false ∨ s.dev.start.wireTest = true)) ∧
  (∃ s : State, ∃ d : Dev, d = advance (s.dev.cal.safeAt + ms 10) s.dev ∧ s.dev.cal.safeOut = true ∧ s.dev.cal.chipSafe = false ∧
    s.dev.start.wireTest = false ∧ recentRestarts d < 2) ∧
  (∃ s : State, ∃ d : Dev, d = advance (s.dev.cal.safeAt + ms 10) s.dev ∧ s.dev.cal.safeOut = true ∧ s.dev.cal.chipSafe = false ∧
    s.dev.start.wireTest = false ∧ 2 ≤ recentRestarts d) ∧
  (∃ s : State, ∃ d : Dev, d = advance (s.dev.cal.safeAt + ms 10) s.dev ∧
    (s.dev.cal.safeOut = false ∨ s.dev.cal.chipSafe = true ∨ s.dev.start.wireTest = true)) ∧
  (∃ s : State, s.dev.fabric.isolated = false) ∧
  (∃ s : State, s.dev.fabric.isolated = true) ∧
  (∃ s : State, (s.dev.start.testsDone = false ∨ s.dev.start.resumed = true ∨ s.dev.front.state = .reset)) ∧
  (∃ s : State, s.dev.start.testsDone = true ∧ s.dev.start.resumed = false ∧ s.dev.front.state = .ready ∧ inFabric s.dev = false) :=
  ⟨⟨1, 5, st { world with start := { world.start with bootOk := true }, geyser := { state := .locked } }, _, five (by decide +kernel) ⟨rfl, by decide +kernel⟩⟩,
   ⟨1, 5, st { world with start := { world.start with bootOk := true }, geyser := { state := .locked } }, _, (1, { isOpen := true, rings := some (4, 5) }), five (by decide +kernel) ⟨rfl, by decide +kernel⟩⟩,
   ⟨1, 5, st { world with start := { world.start with bootOk := true }, geyser := { state := .locked } }, _, 0xBE7FFFFF, five (by decide +kernel) ⟨rfl, by decide +kernel⟩⟩,
   ⟨1, 5, st { world with start := { world.start with bootOk := true }, geyser := { state := .locked } }, _, 0xBE800000, five (by decide +kernel) ⟨rfl, by decide +kernel⟩⟩,
   ⟨st (started .chipFailed {}), by decide +kernel⟩,
   ⟨st { deviceWd { state := .restart } with geyser := { now := sec 1 } }, _, rfl, by decide +kernel⟩,
   ⟨st (world), by decide +kernel⟩,
   ⟨st ({ world with start := { world.start with commandedAt := some 0 } }), by decide +kernel⟩,
   ⟨st ({ world with cal := { chipSafe := true } }), by decide +kernel, by decide +kernel⟩,
   ⟨st (world), by decide +kernel⟩,
   ⟨st ({ world with cal := { safeOut := true, restarts := [0] } }), _, rfl, by decide +kernel⟩,
   ⟨st ({ world with cal := { safeOut := true, restarts := [0, 0] } }), _, rfl, by decide +kernel⟩,
   ⟨st (world), _, rfl, by decide +kernel⟩,
   ⟨st (world), by decide +kernel⟩,
   ⟨st ({ world with fabric := { isolated := true } }), by decide +kernel⟩,
   ⟨st (world), by decide +kernel⟩,
   ⟨st (started .ready { testsDone := true }), by decide +kernel⟩⟩

/-- States and operands that meet the hypotheses of RegistersAndTimers, clause by clause. -/
theorem witness_RegistersAndTimers :
  (∃ r : Reg, ∃ c : Fin 64, r ∈ [.floorFuse, .trapAddr c, .coreMode c, .dwdStatus, .startStatus]) ∧
  (∃ n : Fin 768, ∃ s : State, ∃ x : Source, x = srcOf s.dev n.val) ∧
  (∃ t : Time, ∃ s : State, ∃ d : Dev, d = advance t s.dev ∧ setsNow d = []) ∧
  (∃ t : Time, ∃ c : Fin 64, ∃ s : State, ∃ d : Dev, d = advance t s.dev ∧ setsNow d = [{ reg := .trapStatus c, bits := 0x80000000 }]) ∧
  (∃ v : W32, v.getLsbD 31 = true) ∧
  (∃ v : W32, v.getLsbD 31 = false) ∧
  (∃ v : W32, v.getLsbD 30 = true) ∧
  (∃ v : W32, v.getLsbD 30 = false) ∧
  (∃ i : Nat, i < 30) ∧
  (∃ t : Time, ∃ w : Fin 2, ∃ s : State, ∃ d : Dev, d = advance t s.dev ∧
    (s.dev.bonnet.drbgStopped = true ∨ d.geyser.now < (s.dev.bonnet.drbgReseed[w.val]?).getD 0 + ms 100)) ∧
  (∃ t : Time, ∃ w : Fin 2, ∃ s : State, ∃ d : Dev, d = advance t s.dev ∧ s.dev.bonnet.drbgStopped = false ∧
    (s.dev.bonnet.drbgReseed[w.val]?).getD 0 + ms 100 ≤ d.geyser.now) ∧
  (∃ n : Nat, ∃ s : State, ∃ x : Session, x = sessOf s.dev n ∧ (n = 0 ∨ x.isOpen = false ∨ x.confirmed = true)) ∧
  (∃ n : Nat, ∃ s : State, ∃ x : Session, x = sessOf s.dev n ∧ n ≠ 0 ∧ x.isOpen = true ∧ x.confirmed = false ∧ x.rings = none) ∧
  (∃ s : State, s.dev.bonnet.fieldLock ≠ 0) ∧
  (∃ s : State, s.dev.bonnet.fieldLock = 0 ∧ s.dev.start.wireTest = false) :=
  ⟨⟨.floorFuse, 0, by decide +kernel⟩,
   ⟨767, st (world), _, rfl⟩,
   ⟨0, st world, _, rfl, by decide +kernel⟩,
   ⟨0, 3, st { world with hwSets := [{ reg := .trapStatus 3, bits := 0x80000000 }] }, _, rfl, by decide +kernel⟩,
   ⟨0x80000000, by decide +kernel⟩,
   ⟨0x7FFFFFFF, by decide +kernel⟩,
   ⟨0x40000000, by decide +kernel⟩,
   ⟨0xBFFFFFFF, by decide +kernel⟩,
   ⟨29, by decide +kernel⟩,
   ⟨us 99999, 0, st (world), _, rfl, by decide +kernel⟩,
   ⟨ms 100, 1, st (world), _, rfl, by decide +kernel, by decide +kernel⟩,
   ⟨1, st (world), _, rfl, by decide +kernel⟩,
   ⟨255, st ({ world with sessions := [(255, { isOpen := true, confirmed := false })] }), _, rfl, by decide +kernel⟩,
   ⟨st ({ world with bonnet := { fieldLock := 7 } }), by decide +kernel⟩,
   ⟨st (world), by decide +kernel, by decide +kernel⟩⟩

end Sys2Proof.Tests
end

section
/-! The transmit time-stamp queue of a port (15 R394, R395): what TX_TIMESTAMP and TXQ_ENTRY_READ do to the device, and O39. -/

namespace Sys2Proof.Machine

open Sys2Proof

/-! ### The two commands as updates of the device -/

theorem exec_txTimestamp (t : Time) (port : Fin 4) (ty : BitVec 4) (q : W16) (s : State) :
    exec (.txTimestamp t port ty q) s = .next (onDev (fun d => txStamp port.val ty.toNat q (advance t d)) s) := rfl

theorem exec_txqEntryRead (t : Time) (port : Fin 4) (s : State) :
    exec (.txqEntryRead t port) s = .next (onDev (fun d => txqRead port.val (advance t d)) s) := rfl

/-- The queue and the clock's configuration are the same at the command's arrival as before it. -/
@[simp] theorem portOf_advance (t : Time) (d : Dev) (n : Nat) : portOf (advance t d) n = portOf d n := rfl
@[simp] theorem queuedType_advance (t : Time) (d : Dev) (port type : Nat) :
    queuedType (advance t d) port type = queuedType d port type := rfl

/-! ### A stamp arrives -/

/-- Fewer than 16 entries are held: the stamp goes to the end of the queue. -/
theorem txStamp_of_room {port type : Nat} {d : Dev} (q : W16) (hq : queuedType d port type = true)
    (hroom : (portOf d port).txq.length < 16) :
    txStamp port type q d = modPort port
      (fun p => { p with txq := p.txq ++ [{ messageType := type, ident := q, stamp := d.geyser.now }] }) d := by
  simp [txStamp, hq, hroom]

/-- At a full queue with OVERFLOW set the stamp is discarded, and nothing else happens. -/
theorem txStamp_of_full_overflowed {port type : Nat} {d : Dev} (q : W16) (hq : queuedType d port type = true)
    (hfull : 16 ≤ (portOf d port).txq.length) (ho : (portOf d port).txqOverflow = true) :
    txStamp port type q d = d := by
  simp [txStamp, hq, ho, Nat.not_lt.mpr hfull]

/-- At a full queue with OVERFLOW clear the stamp is discarded, OVERFLOW sets and attention class 3 is raised (R395). -/
theorem txStamp_of_full_clear {port type : Nat} {d : Dev} (q : W16) (hq : queuedType d port type = true)
    (hfull : 16 ≤ (portOf d port).txq.length) (ho : (portOf d port).txqOverflow = false) :
    txStamp port type q d =
      timeAttn 4 (clockCode d.geyser.state) (clockCode d.geyser.state) port d.geyser.offset
        (hwSet (.txqStatus (Fin.ofNat 4 port)) (2 ^ 31) (modPort port (fun p => { p with txqOverflow := true }) d)) := by
  simp [txStamp, hq, ho, Nat.not_lt.mpr hfull]

/-- Whether OVERFLOW stood or not, a discarded stamp changes only ports, attention and the record of hardware sets. -/
theorem txStamp_frame_of_full {port type : Nat} {d : Dev} (q : W16) (hq : queuedType d port type = true)
    (hfull : 16 ≤ (portOf d port).txq.length) :
    txStamp port type q d = { d with
      ports := (txStamp port type q d).ports, attn := (txStamp port type q d).attn
      hwSets := (txStamp port type q d).hwSets, hwAt := (txStamp port type q d).hwAt } := by
  cases ho : (portOf d port).txqOverflow
  case true => rw [txStamp_of_full_overflowed q hq hfull ho]
  case false => rw [txStamp_of_full_clear q hq hfull ho]; rfl

/-- A discarded stamp leaves OVERFLOW set over the entries held. -/
theorem portOf_txStamp_of_full {port type : Nat} {d : Dev} (q : W16) (hq : queuedType d port type = true)
    (hfull : 16 ≤ (portOf d port).txq.length) :
    portOf (txStamp port type q d) port = { portOf d port with txqOverflow := true } := by
  cases ho : (portOf d port).txqOverflow
  case true => rw [txStamp_of_full_overflowed q hq hfull ho, ← ho]
  case false =>
    rw [txStamp_of_full_clear q hq hfull ho]
    exact portOf_modPort d port fun p => { p with txqOverflow := true }

/-- Only the first discarded stamp after OVERFLOW was clear raises attention (R395). -/
theorem txStamp_serial_of_full {port type : Nat} {d : Dev} (q : W16) (hq : queuedType d port type = true)
    (hfull : 16 ≤ (portOf d port).txq.length) :
    (txStamp port type q d).attn.serial = if (portOf d port).txqOverflow then d.attn.serial else d.attn.serial + 1 := by
  cases ho : (portOf d port).txqOverflow
  case true => rw [txStamp_of_full_overflowed q hq hfull ho]; rfl
  case false => rw [txStamp_of_full_clear q hq hfull ho]; rfl

/-! ### The Steward reads the oldest entry -/

/-- Whatever message type the entry has, its use touches only what the port's PTP state holds; the Ethernet port loses the entry. -/
theorem txqRead_frame_of_cons {port : Nat} {d : Dev} {e : TxStamp} {r : List TxStamp} (h : (portOf d port).txq = e :: r) :
    txqRead port d = { d with
      ports := (txqRead port d).ports, geyser := { d.geyser with ports := (txqRead port d).geyser.ports } } := by
  simp only [txqRead, h]
  split <;> rfl

/-- The oldest entry leaves, and the others stay in their order (R394). -/
theorem portOf_txqRead_of_cons {port : Nat} {d : Dev} {e : TxStamp} {r : List TxStamp} (h : (portOf d port).txq = e :: r) :
    portOf (txqRead port d) port = { portOf d port with txq := r } := by
  simp only [txqRead, h]
  split <;> exact portOf_modPort d port fun p => { p with txq := r }

/-! ### O39 -/

/-- Settles O39, by what a stamp does at a queue with room and at a full one, and by what the read does to the port. -/
theorem transmitStampQueue : Obligations.TransmitStampQueue := by
  refine ⟨fun t port ty q s hq hroom => ?_, fun t port ty q s hq hfull => ?_, fun t port e r s h => ?_⟩
  · have hu := txStamp_of_room (d := advance t s.dev) q hq hroom
    refine ⟨_, exec_txTimestamp t port ty q s, ?_, ?_, fun k hk => ?_⟩ <;> simp only [onDev, hu]
    · rfl
    · exact portOf_modPort (advance t s.dev) port _
    · exact portOf_modPort_ne (advance t s.dev) _ hk
  · have hport := portOf_txStamp_of_full (d := advance t s.dev) q hq hfull
    refine ⟨_, exec_txTimestamp t port ty q s, ?_, ?_, ?_, ?_⟩
    · exact congrArg (fun d => { s with dev := d }) (txStamp_frame_of_full (d := advance t s.dev) q hq hfull)
    · simp [hport]
    · simp [hport]
    · exact txStamp_serial_of_full (d := advance t s.dev) q hq hfull
  · refine ⟨_, exec_txqEntryRead t port s, ?_, ?_⟩
    · exact congrArg (fun d => { s with dev := d }) (txqRead_frame_of_cons (d := advance t s.dev) h)
    · exact portOf_txqRead_of_cons (d := advance t s.dev) h

end Sys2Proof.Machine
end

section
/-! A write to CAL_RAISE (16 R404, Table 16.1): the sources it can name, what each write does to the device, and O44. -/

namespace Sys2Proof.Machine

open Sys2Proof

/-! ### The command as an update of the device -/

theorem exec_calRaise (t : Time) (v : W32) (s : State) :
    exec (.calRaise t v) s = .next (onDevZ (fun d => calRaise v (advance t d)) s) := rfl

/-- The range that Caldera accepts holds the sources TAP_DIGEST_FAULT, GOLDEN_MISMATCH and SELFTEST_STARVED, and no other. -/
theorem raisable_iff (n : Nat) : 752 ≤ n ∧ n ≤ 754 ↔ n = 752 ∨ n = 753 ∨ n = 754 := by omega

/-! ### What a write does -/

/-- A write that names a source of the Steward's is one event on it; kernels may launch after it. -/
theorem calRaise_of_raisable {v : W32} (h : 752 ≤ v.toNat % 1024 ∧ v.toNat % 1024 ≤ 754) (d : Dev) :
    calRaise v d = pump (signal (v.toNat % 1024) d) := if_pos h

/-- Caldera ignores a write that names any other source. -/
theorem calRaise_of_not_raisable {v : W32} (h : ¬(752 ≤ v.toNat % 1024 ∧ v.toNat % 1024 ≤ 754)) (d : Dev) :
    calRaise v d = d := if_neg h

/-- Beside the event on the source it names, a write changes nothing but what launching kernels changes. -/
theorem calRaise_launches (v : W32) (d : Dev) :
    onlyLaunches (if v.toNat % 1024 = 752 ∨ v.toNat % 1024 = 753 ∨ v.toNat % 1024 = 754
      then signal (v.toNat % 1024) d else d) (calRaise v d) := by
  simp only [← raisable_iff]
  split
  case isTrue named =>
    rw [calRaise_of_raisable named]
    exact pump_launches _
  case isFalse other =>
    rw [calRaise_of_not_raisable other]
    exact onlyLaunches_refl d

/-! ### O44 -/

/-- Settles O44, by what a write does to the device and by what the end of a command adds to it. -/
theorem raiseNamesThreeSources : Obligations.RaiseNamesThreeSources := by
  intro t v s
  obtain ⟨hdev, hmem, hpending⟩ := onDevZ_spec (fun d => calRaise v (advance t d)) s
  exact ⟨_, exec_calRaise t v s, onlyLaunches_trans (calRaise_launches v (advance t s.dev)) hdev, hmem, hpending⟩

end Sys2Proof.Machine
end

section
/-! The block as a whole (00 R2, 05 R124, 15 R380): a step takes the front command, every command but one kind of access answers a
next state, and none ends the memory's canonical form or touches the queue. -/

namespace Sys2Proof.Machine

open Sys2Proof

/-- A choice goes by what its condition says, not by how it says it. -/
theorem ite_of_iff {α : Type} {p q : Prop} [Decidable p] [Decidable q] {x y : α} (same : p ↔ q) : (if p then x else y) = if q then x else y :=
  ite_congr (propext same) (fun _ => rfl) fun _ => rfl

/-! ### What an access of the device or of the scrub engine reaches -/

/-- The map of the device's own accesses does not depend on the device's state: local memories are never reached (Table 5.3). -/
theorem mapped_own {w : Accessor} (hw : w = .device ∨ w = .fumarole) (d e : Dev) (a : Nat) : mapped d w a = mapped e w a := by
  unfold mapped
  rcases hw with rfl | rfl
  · cases localCore? a <;> simp
  · cases localCore? a <;> simp

/-! ### Every command -/

section

variable {P : State → Prop} (K : Lasting P)

include K

theorem execMemoryRead_next {s : State} (t : Time) (w : Accessor) (l o : Nat)
    (own : w = .device ∨ w = .fumarole → mapped s.dev w (64 * l + o) = true) (h : P s) :
    ∃ u, execMemoryRead t w l o s = .next u ∧ P u := by
  unfold execMemoryRead
  extract_lets a r
  have hr : P r := onDev_lasts K _ (atMem_lasts K t h)
  clear_value r
  have own' : w = .device ∨ w = .fumarole → mapped r.dev w a = true := fun hw => (mapped_own hw _ _ _).trans (own hw)
  split
  · next unmapped => exact absurd (own' (.inl rfl)) (by simp [unmapped])
  · next unmapped => exact absurd (own' (.inr rfl)) (by simp [unmapped])
  · exact ⟨_, rfl, zeroCores_lasts K (ask_lasts K _ hr)⟩

theorem execMemoryWrite_next {s : State} (t : Time) (w : Accessor) (l o : Nat) (b : List Byte)
    (own : w = .device ∨ w = .fumarole → mapped s.dev w (64 * l + o) = true) (h : P s) :
    ∃ u, execMemoryWrite t w l o b s = .next u ∧ P u := by
  unfold execMemoryWrite
  extract_lets a r
  have hr : P r := atMem_lasts K t h
  clear_value r
  have own' : w = .device ∨ w = .fumarole → mapped r.dev w a = true := fun hw => (mapped_own hw _ _ _).trans (own hw)
  split
  · next unmapped => exact absurd (own' (.inl rfl)) (by simp [unmapped])
  · next unmapped => exact absurd (own' (.inr rfl)) (by simp [unmapped])
  · exact ⟨_, rfl, zeroCores_lasts K (foldl_keeps P _ (fun _ _ h => ask_lasts K _ h) _ _ hr)⟩

/-- Every command answers a next state in which what lasts still holds; the one exception is an unmapped access (log 19). -/
theorem exec_next (c : Instr) {s : State}
    (read : ∀ t w l o, c = .memoryRead t w l o → w = .device ∨ w = .fumarole → mapped s.dev w (64 * l + o) = true)
    (write : ∀ t w l o b, c = .memoryWrite t w l o b → w = .device ∨ w = .fumarole → mapped s.dev w (64 * l + o) = true)
    (h : P s) : ∃ u, exec c s = .next u ∧ P u := by
  have arrives : ∀ t, P (onDev (advance t) s) := fun t => onDev_lasts K _ h
  have atMemory : ∀ t, P (atMem t s) := fun t => atMem_lasts K t h
  cases c
  case memoryRead t w l o => exact execMemoryRead_next K t w l o (read t w l o rfl) h
  case memoryWrite t w l o b => exact execMemoryWrite_next K t w l o b (write t w l o b rfl) h
  case scrubPage t p => exact ⟨_, rfl, onDevZ_lasts K _ (scrubPage_lasts K p (atMemory t))⟩
  case scrubVerifyRead k => exact ⟨_, rfl, onDevZ_lasts K _ (verifyRead_lasts K k (flushWrites_lasts K h))⟩
  case segmentConversionComplete t g => exact ⟨_, rfl, onDevZ_lasts K _ (convertSegment_lasts K g (atMemory t))⟩
  case relocationComplete t g => exact ⟨_, rfl, relocated_lasts K g (atMemory t)⟩
  case memInjectArm t n v => exact ⟨_, rfl, memInject_lasts K _ _ (atMemory t)⟩
  case engineOperationEnd t n e _ _ => exact ⟨_, rfl, zeroCores_lasts K (engineEnd_lasts K n _ _ (arrives t))⟩
  case coreIssue t n _ _ _ => exact ⟨_, rfl, zeroCores_lasts K (coreIssue_lasts K n _ (atMemory t))⟩
  case dmaComplete t n => exact ⟨_, rfl, zeroCores_lasts K (dmaComplete_lasts K _ (atMemory t))⟩
  case bulkTransferComplete =>
    exact ⟨_, rfl, convertLanded_lasts K (flushWrites_lasts K (onDevA_lasts K _ h))⟩
  case registerWrite t r v => exact ⟨_, rfl, registerWrite_lasts K r v (arrives t)⟩
  case porstNAssert => exact ⟨_, rfl, K.dev _ _ (K.mem s {} (fun _ => empty_wf) h)⟩
  case testReset t => exact ⟨_, rfl, ite_lasts K (K.dev _ _ (K.mem s {} (fun _ => empty_wf) h)) (arrives t)⟩
  case warmN t => exact ⟨_, rfl, warmReset_lasts K _ _ (arrives t)⟩
  case chipSafeWarmReset => exact ⟨_, rfl, ite_lasts K (warmReset_lasts K _ _ (arrives _)) h⟩
  case safeStateWarmReset => exact ⟨_, rfl, safeRestart_lasts K h⟩
  case commandedWarmReset t => exact ⟨_, rfl, ite_lasts K (warmReset_lasts K _ _ (arrives t)) (arrives t)⟩
  case isolationWarmReset => exact ⟨_, rfl, ite_lasts K (warmReset_lasts K _ _ (arrives _)) h⟩
  case pad | deviceInfo | ringPairOpen | ringPairClose | sessionOpen | sessionClose | keyEnrol | keyRevoke | attest | attnRead
      | attnAck | planLoad | planUnload | weightLoad | partitionSet | coreModeSet | planSwap | subjectRegister |
      subjectRelease | portRoleSet | tapStreamOpen | tapStreamClose | contextOpen | contextClose | contextResume |
      contextStatus | timeRead | timeStatus | timeSet | ptpConfig | pulseSet | pulseStop | diagRead | faultConfig | faultTest
      | hold | releaseHold | watchdogSet | monitorSet | checkin | scrubPeriod | fabricJoin | fabricLeave | contextRemap |
      fabricStatus | paceConfig | firmwareStage | warmReset | fieldLock =>
    exact ⟨_, rfl, denec_lasts K _ _ _ _ h⟩
  case changeCommit | commandDoorbell | replyDoorbell | mboxGo | commandFinalReply | contextActivation | changeDone |
      pairKeyAgreement | confirm | mirrorCopyComplete | commandMirrorTimeout | peerAnswerTimeout | map | takeoverReadback |
      remapBoundary | admissionCommit | restartResume =>
    exact ⟨_, rfl, onDevA_lasts K _ h⟩
  case commit | crcList | opening | depTile | tensor | abandon | openingWindowClose | deadlineExpiry | windowClose |
      frameTableWindowStart | kernelComplete | kernelRerun | tapPacket | frameDigestComplete | assemblyTimeout | fumaroleLate
      | signalPost | signalWait | signalTest | signatureCompare | pairInjectArm | debugAttachCore | debugAttachSteward |
      unitPrepareAck | changeApplyDeadline | sourceEvent | railDisagreement | lastingConditionRepeat | calRaise |
      calForceClear | forceExpiry | calSelfTest | uwdService | sequencerService | uwdExpiry | unitAcknowledge | graceExpiry |
      dwdService | dwdExpiry | selftestSlice | sweepIntervalExpiry | safeTestPulse | safeReadbackCheck | vcoreComparator |
      gaugeWindowEnd | refclkFault | readmission | stewardRelease | wireDriverPulse | startUpTestsComplete | meshPacketReceive =>
    exact ⟨_, rfl, onDevZ_lasts K _ h⟩
  case evidencePad | evidenceProducerUpdate | challengeConsumerWrite | subjectCheckin | bar2Write | slotRelease |
      streamSilence | unclaimedFrame | segModeWrite | engInjectArm | dmaHaltRestart | prepareTimeout | calForceSet |
      calRelease | errNMinimumEnd | uwdCfgWrite | uwdTestDone | pwrCutRelease | monitorWindowClose | forceTest | gntArm |
      segmentTransmit | ethFrameReceive | ethLinkDown | ethLinkUp | cvuInject | minRearm | testArm | trackAdjust |
      avsbusTransactionEnd | geyIncrWrite | servoLimitHold | geyStepWrite | ptpAnnounce | announceReceiptTimeout | ptpSync |
      ptpFollowUp | ptpDelayReq | ptpDelayResp | ptpPdelayReq | ptpPdelayResp | ptpPdelayRespFollowUp | ptpManagement |
      ptpMessageSend | txTimestamp | txqEntryRead | ppsIn | ppsInMissing | pulseOccurrence | pulseFall | ppsOut | drbgReseed |
      sessionConfirmTimeout | verdictDoorbell | failureDeclaration | heartbeatSend | heartbeat | echo | leaseExpiry |
      managerIsolation | journalResend | mirrorTimeout | journal | checkpoint | takeover | slice | handed | managerPromotion |
      porstNRelease | pcieLinkDown | pcieLinkUp | pcieLinkRetrain | smbusTransaction =>
    exact ⟨_, rfl, onDev_lasts K _ h⟩

end

/-- The access that stops: the device's own or the scrub engine's, where Table 5.3 does not map the address (log 19). -/
theorem execMemoryRead_unmapped (t : Time) {w : Accessor} {l o : Nat} {s : State} (hw : w = .device ∨ w = .fumarole)
    (hm : mapped s.dev w (64 * l + o) = false) : exec (.memoryRead t w l o) s = .fault (.unmapped (64 * l + o)) := by
  show execMemoryRead t w l o s = _
  unfold execMemoryRead
  extract_lets a r
  have hr : mapped r.dev w a = false := (mapped_own hw _ _ _).trans hm
  rw [hr]
  rcases hw with rfl | rfl <;> rfl

theorem execMemoryWrite_unmapped (t : Time) {w : Accessor} {l o : Nat} (b : List Byte) {s : State} (hw : w = .device ∨ w = .fumarole)
    (hm : mapped s.dev w (64 * l + o) = false) : exec (.memoryWrite t w l o b) s = .fault (.unmapped (64 * l + o)) := by
  show execMemoryWrite t w l o b s = _
  unfold execMemoryWrite
  extract_lets a r
  have hr : mapped r.dev w a = false := (mapped_own hw _ _ _).trans hm
  rw [hr]
  rcases hw with rfl | rfl <;> rfl

/-- What lasts, lasts over every command that answers a next state. -/
theorem exec_lasts {P : State → Prop} (K : Lasting P) {c : Instr} {s u : State} (e : exec c s = .next u) (h : P s) : P u := by
  have mapped_of_next : ∀ {w : Accessor} {a : Nat}, w = .device ∨ w = .fumarole →
      (mapped s.dev w a = false → exec c s = .fault (.unmapped a)) → mapped s.dev w a = true := by
    intro w a _ stops
    refine eq_true_of_ne_false fun unmapped => ?_
    rw [stops unmapped] at e
    cases e
  obtain ⟨v, hv, hP⟩ := exec_next K c
    (fun t w l o hc hw => mapped_of_next hw fun hm => hc ▸ execMemoryRead_unmapped t hw hm)
    (fun t w l o b hc hw => mapped_of_next hw fun hm => hc ▸ execMemoryWrite_unmapped t b hw hm) h
  rw [e] at hv
  cases hv
  exact hP

/-- What lasts, lasts over a step, if taking a command off the queue leaves it. -/
theorem step_lasts {P : State → Prop} (K : Lasting P) (queue : ∀ (s : State) (w : List Instr), P s → P { s with pending := w })
    {s u : State} (e : step s = .next u) (h : P s) : P u := by
  unfold step at e
  split at e
  · cases e
    exact K.dev s _ h
  · exact exec_lasts K e (queue s _ h)

/-! ### O1 to O4 -/

/-- Settles O3, by what no operation ends: the canonical form of the memory. -/
theorem memoryStaysCanonical : Obligations.MemoryStaysCanonical :=
  fun _ _ h e => step_lasts lasting_wf (fun _ _ h => h) e h

/-- Settles O2, by what no operation ends: the queue of waiting commands. -/
theorem commandsComplete : Obligations.CommandsComplete := by
  refine ⟨fun c s read write => exec_next (lasting_queue s.pending) c read write rfl, fun t w a b s hw hm => ?_⟩
  have ha : 64 * (a / 64) + a % 64 = a := Nat.div_add_mod a 64
  have hm' : mapped s.dev w (64 * (a / 64) + a % 64) = false := by rw [ha]; exact hm
  have hr := execMemoryRead_unmapped t hw hm'
  have hwr := execMemoryWrite_unmapped t b hw hm'
  rw [ha] at hr hwr
  exact ⟨hr, hwr⟩

/-- Settles O1: `step` takes the front command by definition, and a tick of REFCLK changes Geyser's time alone. -/
theorem stepTakesTheFront : Obligations.StepTakesTheFront := by
  refine ⟨fun _ _ _ => rfl, fun s h => ⟨tick s, ?_, rfl⟩⟩
  unfold step
  rw [h]

/-- What every row of Table 16.7 has, a source's default has. -/
theorem of_srcDefault {P : Source → Prop} (n : Nat) (row : ∀ c m k w f, P (mkSource c m k w f)) : P (srcDefault n) := by
  unfold srcDefault
  repeat' with_reducible refine iteInduction (motive := P) (fun _ => ?_) fun _ => ?_
  case refine_1 => split <;> exact row _ _ _ _ _
  case refine_2.refine_1 => split <;> exact row _ _ _ _ _
  case refine_2.refine_2.refine_1 => split <;> exact row _ _ _ _ _
  all_goals exact row _ _ _ _ _

/-- By default no test is forced and no event counted. -/
theorem srcDefault_idle (n : Nat) : (srcDefault n).force = false ∧ (srcDefault n).count = 0 :=
  of_srcDefault (P := fun x => x.force = false ∧ x.count = 0) n fun _ _ _ _ _ => ⟨rfl, rfl⟩

/-- After reset every source has its default. -/
theorem srcOf_reset (n : Nat) : srcOf State.reset.dev n = srcDefault n := rfl

/-- Settles O4, by the state after reset: every table of it is empty, so every unlisted entry is its default. -/
theorem resetLeaves : Obligations.ResetLeaves := by
  have closed : ∀ n, n ≠ 0 → (sessOf State.reset.dev n).isOpen = false := fun n hn => by
    unfold sessOf
    exact congrArg Session.isOpen (if_neg hn)
  refine ⟨rfl, rfl, rfl, rfl, rfl, rfl, rfl, rfl, rfl, rfl, rfl, rfl, rfl, rfl, rfl, rfl, rfl, closed, rfl, rfl, rfl, rfl,
    rfl, fun n => ⟨rfl, rfl, rfl⟩, fun n => srcOf_reset n ▸ srcDefault_idle n, fun k => ⟨rfl, rfl⟩⟩

end Sys2Proof.Machine
end

section
/-! First replies (12 R312 to R316, Tables 12.8, 12.9) and the rows of Table 12.10 before an opcode's own. -/

namespace Sys2Proof.Machine

open Sys2Proof

/-! ### First replies -/

theorem mkReply_zero (checked : Bool) (code flags : W16) (w : W64) (p : Packet) (d : Dev) :
    mkReply 0 checked code flags w p d =
      { status := statusWord d code, opcode := p.opcode, flags := flags, counter := p.counter, tag := p.tag, result := w } := by
  simp [mkReply]

theorem mkReply_checked {n : Nat} (hn : n ≠ 0) (code flags : W16) (w : W64) (p : Packet) (d : Dev) :
    mkReply n true code flags w p d =
      { status := statusWord d code, opcode := p.opcode, flags := flags, counter := p.counter, tag := p.tag, result := w,
        check := replyCheck (sessOf d n)
          { status := statusWord d code, opcode := p.opcode, flags := flags, counter := p.counter, tag := p.tag, result := w } } := by
  simp [mkReply, hn]

/-- A reply's status and result word, checked or not. -/
theorem mkReply_fields (n : Nat) (checked : Bool) (code flags : W16) (w : W64) (p : Packet) (d : Dev) :
    (mkReply n checked code flags w p d).status = statusWord d code ∧ (mkReply n checked code flags w p d).result = w := by
  unfold mkReply
  dsimp only
  split <;> exact ⟨rfl, rfl⟩

/-- What the counter's consumption leaves of its session. -/
theorem sessOf_consume (n : Nat) (p : Packet) (r : Reply) (waiting : Bool) (d : Dev) :
    sessOf (consume n p r waiting d) n = { sessOf d n with
      high := max (sessOf d n).high p.counter.toNat
      store := trimStore ({ counter := p.counter, fingerprint := fingerprint n p, reply := r, waiting := waiting } ::
        (sessOf d n).store) } := by
  unfold consume
  by_cases h : n = 0
  · subst h; rw [sessOf_modSess]; rfl
  · rw [sessOf_modSess, if_neg h]

/-- A session that nothing has marked stays when its reply stands. -/
theorem closeMarked_unmarked {n : Nat} {d : Dev} (h : (sessOf d n).closing = false) : closeMarked n d = d := by
  unfold closeMarked
  simp [h]

theorem deliver_sessions (path : Path) (r : Reply) (d : Dev) : (deliver path r d).sessions = d.sessions := by
  cases path <;> rfl

theorem sessOf_deliver (path : Path) (r : Reply) (d : Dev) (n : Nat) : sessOf (deliver path r d) n = sessOf d n := by
  unfold sessOf
  rw [deliver_sessions]

/-- The first reply of a command that is not accepted: its counter is consumed with the reply, which goes to its path. -/
theorem firstReply_final {n : Nat} {path : Path} {p : Packet} {a : Answer} {code : W16} {w : W64} {d : Dev}
    (open_ : (sessOf d n).closing = false) (ha : a = .ok w ∧ code = 0 ∨ a = .refuse code w) :
    firstReply n path p (a, d) =
      deliver path (mkReply n true code 2 w p d) (consume n p (mkReply n true code 2 w p d) false d) := by
  rcases ha with ⟨rfl, rfl⟩ | rfl
  · refine closeMarked_unmarked (d := deliver path (mkReply n true cOk 2 w p d) _) ?_
    rw [sessOf_deliver, sessOf_consume]
    exact open_
  · rfl

/-- Settles O5, by what the consumption of a counter leaves of its session and what a path does with a reply. -/
theorem firstReplies : Obligations.FirstReplies := by
  refine ⟨fun n q rq k p a code w d u r open_ ha hr hcheck hrq hk hu => ?_, fun n p a code w d u open_ ha hu => ?_⟩
  · rw [firstReply_final open_ ha] at hu
    have hstatus : r.status = statusWord d code := by rw [hr]
    have reply : mkReply n true code 2 w p d = r := by
      rw [hr, hcheck]
      by_cases hn : n = 0
      · subst hn; rw [mkReply_zero]; rfl
      · rw [mkReply_checked hn, if_neg hn, hstatus]; simp [replyCheck, replyBytes]
    have consumed := sessOf_consume n p r false d
    subst hu hrq hk
    rw [reply]
    refine ⟨kfind?_kput_self _ _ _, queueOf_setQueue _ _ _, fun i hi => queueOf_setQueue_ne _ _ hi, ?_, ?_,
      fun i hi => ?_, rfl⟩
    · exact congrArg Session.high consumed
    · exact congrArg Session.store consumed
    · rw [sessOf_deliver]
      exact sessOf_modSess_ne d _ hi
  · rw [firstReply_final open_ ha] at hu
    obtain ⟨hstatus, hresult⟩ := mkReply_fields n true code 2 w p d
    have consumed := sessOf_consume n p (mkReply n true code 2 w p d) false d
    subst hu
    exact ⟨rfl, rfl, rfl, hresult, hstatus, rfl, congrArg Session.high consumed, rfl⟩

/-! ### Rows 1 to 3 -/

theorem plainReply_eq (n : Nat) (checked : Bool) (path : Path) (code : W16) (w : W64) (p : Packet) (d : Dev) :
    plainReply n checked path code w p d = deliver path (mkReply n checked code 2 w p d) d := rfl

/-- Row 1: a length that no packet of its path has halts the ring. -/
theorem processPacket_badLength (body : Body) {path : Path} {p : Packet} {d : Dev}
    (bad : p.length.toNat % 16 ≠ 0 ∨ p.length.toNat < 64 ∨ (if path = .mailbox then 3840 else 4096) < p.length.toNat) :
    processPacket body path p d = plainReply p.session.toNat false path cLength (refusalWord 0 4) p (match path with
      | .ring q => modQueue (queueOf d q).partner (fun x => { x with halted := true })
          (modQueue q (fun x => { x with halted := true }) d)
      | .mailbox => d) := by
  have lenBad : (p.length.toNat % 16 != 0 || decide (p.length.toNat < 64) ||
      decide (p.length.toNat > (if path = .mailbox then 3840 else 4096))) = true := by
    rcases bad with b | b | b <;> simp [b]
  unfold processPacket
  dsimp only
  rw [if_pos lenBad]
  cases path <;> rfl

/-- A length of its path and the session of its ring: rows 2 and 3 decide. -/
theorem processPacket_formed (body : Body) {path : Path} {p : Packet} {d : Dev} (unit : p.length.toNat % 16 = 0)
    (min : 64 ≤ p.length.toNat) (max : p.length.toNat ≤ if path = .mailbox then 3840 else 4096) (number : p.session.toNat ≤ 255)
    (owner : ∀ q, path = .ring q → (queueOf d q).owner = p.session.toNat) :
    processPacket body path p d =
      if !(sessOf d p.session.toNat).isOpen then plainReply p.session.toNat false path cNoSession (refusalWord 0 0x10) p d
      else if p.session.toNat = 0 then row4 body p.session.toNat path p d
      else if packetCheck (sessOf d p.session.toNat) p ≠ p.check then
        if (sessOf d p.session.toNat).confirmed then
          plainReply p.session.toNat true path cBadCheck (refusalWord 0 0x30) p (securityAttn 1 p.session.toNat 0 p.counter.toNat d)
        else closeSession p.session.toNat
          (plainReply p.session.toNat true path cBadCheck (refusalWord 0 0x30) p (securityAttn 1 p.session.toNat 0 p.counter.toNat d))
      else row4 body p.session.toNat path p (modSess p.session.toNat (fun s => { s with confirmed := true }) d) := by
  unfold processPacket
  dsimp only
  rw [if_neg, if_neg]
  · rfl
  · cases path with
    | mailbox => simp [number]
    | ring q => simp [number, owner q rfl]
  · have h2 := Nat.not_lt.mpr min
    have h3 := Nat.not_lt.mpr max
    simp [unit, h2, h3]

/-! ### Row 4 and the rows after it -/

section

variable (body : Body) {n : Nat} {path : Path} {p : Packet} {d : Dev}

theorem row4_stored {x : Stored} (found : (sessOf d n).store.find? (fun x => x.counter == p.counter) = some x)
    (same : x.fingerprint = fingerprint n p) : row4 body n path p d = deliver path (replayed n x d) d := by
  unfold row4
  simp only [found, if_pos same]

theorem row4_otherFingerprint {x : Stored} (found : (sessOf d n).store.find? (fun x => x.counter == p.counter) = some x)
    (other : x.fingerprint ≠ fingerprint n p) : row4 body n path p d = plainReply n true path cStale (refusalWord 0 8) p
      (if n = 0 then d else securityAttn 2 n 0 p.counter.toNat d) := by
  unfold row4
  simp only [found, if_neg other]

/-- A counter that the store does not hold is fresh when it is above the highest, which is not spent. -/
theorem row4_unstored (new : ∀ x ∈ (sessOf d n).store, x.counter ≠ p.counter) : row4 body n path p d =
    if (sessOf d n).high < p.counter.toNat ∧ (sessOf d n).high ≠ 0xFFFFFFFFFFFFFFFE then rows5to8 body n path p d
    else plainReply n true path cStale (refusalWord 0 8) p d := by
  have none : (sessOf d n).store.find? (fun x => x.counter == p.counter) = none :=
    List.find?_eq_none.mpr fun x hx => by simpa using new x hx
  unfold row4
  simp only [none]

theorem rows5to8_safe (safe : inSafe d = true) (other : p.opcode ≠ 0x0109 ∧ p.opcode ≠ 0x010A ∧ p.opcode ≠ 0x0501) :
    rows5to8 body n path p d = plainReply n true path cSafeState (refusalWord 0 noField) p d := by
  have notRun : [0x0109, 0x010A, 0x0501].contains p.opcode.toNat = false := by
    obtain ⟨h1, h2, h3⟩ := other
    rw [← BitVec.toNat_ne_iff_ne] at h1 h2 h3
    simpa [and_imp] using ⟨h1, h2, h3⟩
  unfold rows5to8
  simp only [safe, notRun, Bool.not_false, Bool.and_self, if_true]

theorem rows5to8_busy (serves : inSafe d = false) (busy : intakeBusy n p d = true) :
    rows5to8 body n path p d = plainReply n true path cBusy (refusalWord 0 noField) p d := by
  unfold rows5to8
  simp [serves, busy]

end

/-- A full intake, or a unit of a pending change that a command other than a two-phase one names (R320). -/
theorem intakeBusy_of {n : Nat} {p : Packet} {d : Dev}
    (h : (p.opcode.toNat ∉ [0x0204, 0x0205, 0x0206] ∧ namesBusyUnit p d = true) ∨
      (p.opcode.toNat ∈ acceptedOpcodes ∧ (4096 ≤ d.accepted.length ∨ 64 ≤ awaiting d n))) : intakeBusy n p d = true := by
  unfold intakeBusy twoPhase
  rcases h with ⟨other, busy⟩ | ⟨accepts, full | full⟩
  · simp only [List.contains_eq_mem, other, busy]; simp
  · simp [accepts, full]
  · simp [accepts, full]

/-- Confirming a session keeps what row 4 and the rows after it look at. -/
theorem sessOf_confirm {n : Nat} (hn : n ≠ 0) (d : Dev) :
    sessOf (modSess n (fun s => { s with confirmed := true }) d) n = { sessOf d n with confirmed := true } := by
  rw [sessOf_modSess, if_neg hn]

/-- Settles O6, row by row of Table 12.10. -/
theorem packetRows : Obligations.PacketRows := by
  rintro n path p d rfl
  refine ⟨fun bad => ?_, fun unit min max number owner => ?_⟩
  · rw [processPacket_badLength opcodeBody bad]
    cases path <;> rfl
  have formed := processPacket_formed opcodeBody unit min max number owner
  refine ⟨fun closed => ?_, fun isOpen hn wrong => ⟨_, rfl, ?_⟩, fun isOpen right => ⟨_, rfl, ?_⟩⟩
  · rw [formed, closed]; rfl
  · rw [formed]
    simp only [isOpen, Bool.not_true, Bool.false_eq_true, if_false, if_neg hn, if_pos wrong]
    rfl
  · generalize he : (if p.session.toNat = 0 then d else modSess p.session.toNat (fun s => { s with confirmed := true }) d) = e
    have row4 : processPacket opcodeBody path p d = row4 opcodeBody p.session.toNat path p e := by
      rw [formed]
      simp only [isOpen, Bool.not_true, Bool.false_eq_true, if_false]
      by_cases hn : p.session.toNat = 0
      · rw [if_pos hn, ← he, if_pos hn]
      · rw [if_neg hn, if_neg (not_not_intro (right.resolve_left hn)), ← he, if_neg hn]
    have hstore : (sessOf d p.session.toNat).store = (sessOf e p.session.toNat).store := by
      subst he; split
      · rfl
      · next hn => rw [sessOf_confirm hn]
    have hhigh : (sessOf d p.session.toNat).high = (sessOf e p.session.toNat).high := by
      subst he; split
      · rfl
      · next hn => rw [sessOf_confirm hn]
    have hrest : inSafe d = inSafe e ∧ namesBusyUnit p d = namesBusyUnit p e ∧ d.accepted = e.accepted := by
      subst he; split <;> exact ⟨rfl, rfl, rfl⟩
    obtain ⟨hsafe, hbusy, hacc⟩ := hrest
    rw [row4, hstore, hhigh, hsafe, hbusy, hacc]
    refine ⟨fun x found same => row4_stored _ found same, fun x found other => ⟨_, rfl, row4_otherFingerprint _ found other⟩,
      fun new low => ?_, fun new above left safe h1 h2 h3 => ?_, fun new above left serves busy => ?_⟩
    · rw [row4_unstored _ new, if_neg (by omega), plainReply_eq]
    · rw [row4_unstored _ new, if_pos ⟨above, left⟩, rows5to8_safe _ safe ⟨h1, h2, h3⟩, plainReply_eq]
    · rw [row4_unstored _ new, if_pos ⟨above, left⟩, rows5to8_busy _ serves (intakeBusy_of ?_), plainReply_eq]
      unfold awaiting at *
      rw [hacc] at *
      exact busy

end Sys2Proof.Machine
end

section
/-! Doorbells, the mailbox and PAD (12 R303, R304, R308, R309): what a write to BAR0 does to its queue, and how a ring runs over a PAD. -/

namespace Sys2Proof.Machine

open Sys2Proof

/-! ### Writes of the host and of a subject -/

/-- A requester that is bound to no slot is the host. -/
theorem fromHost_unbound {rid : W16} {d : Dev} (f : Dev → Dev) (h0 : (slotOf d 0).requester ≠ some rid)
    (h1 : (slotOf d 1).requester ≠ some rid) : fromHost rid f d = f d := by
  unfold fromHost
  simp [h0, h1]

/-- A write of slot 0's subject is counted there, and R16 discards it. -/
theorem fromHost_slot0 {rid : W16} {d : Dev} (f : Dev → Dev) (h : (slotOf d 0).requester = some rid) :
    fromHost rid f d = foreignWrite 0 rid d := by
  unfold fromHost
  simp [h]

theorem doorbell_host {rid : W16} {d : Dev} (f : Dev → Dev) (h0 : (slotOf d 0).requester ≠ some rid)
    (h1 : (slotOf d 1).requester ≠ some rid) : doorbell rid 8 f d = f d := by
  unfold doorbell
  rw [fromHost_unbound _ h0 h1, if_pos rfl]

theorem doorbell_narrow {rid : W16} {d : Dev} {k : Nat} (f : Dev → Dev) (h0 : (slotOf d 0).requester ≠ some rid)
    (h1 : (slotOf d 1).requester ≠ some rid) (hk : k ≠ 8) : doorbell rid k f d = d := by
  unfold doorbell
  rw [fromHost_unbound _ h0 h1, if_neg hk]

/-- What is done when the function of a command leaves device `e`. -/
theorem onDevA_pump_done {f : Dev → Dev} {s : State} {e : Dev} (h : f s.dev = e) :
    doneAs e s (onDevA (fun d => pump (f d)) s) := h ▸ doneAs_pump (onDevA_spec (fun d => pump (f d)) s)

/-- What a command answers whose function leaves device `e`. -/
theorem next_onDev {f : Dev → Dev} {s : State} {e : Dev} (h : f s.dev = e) :
    (Host.Outcome.next (onDev f s) : Host.Outcome State Fault Refusal) = .next { s with dev := e } := h ▸ rfl

/-- A verdict doorbell that moves forward within its ring frees slots: held records follow. -/
theorem verdictDoorbell_frees {n v : Nat} {d : Dev} (kind : (queueOf d n).kind = 5) (freed : (queueOf d n).consumer ≤ v)
    (within : v ≤ (queueOf d n).producer) : verdictDoorbell n v d =
      closeIfDrained (BitVec.ofNat 32 (queueOf d n).owner) (drainRecords (BitVec.ofNat 32 (queueOf d n).owner)
        (ctxOf d (BitVec.ofNat 32 (queueOf d n).owner)).heldRecords.length (setQueue n { queueOf d n with consumer := v } d)) := by
  unfold verdictDoorbell
  exact if_neg (by omega)

theorem verdictDoorbell_breaks {n v : Nat} {d : Dev}
    (wrong : (queueOf d n).kind ≠ 5 ∨ v < (queueOf d n).consumer ∨ (queueOf d n).producer < v) :
    verdictDoorbell n v d = doorbellFault n d := by
  unfold verdictDoorbell
  exact if_pos wrong

/-! ### Faults of a doorbell -/

/-- A counter that is told counts on without attention; one that is not raises it and is told. -/
theorem countRaise_serial {cls : Nat} {get : Dev → Counter} {put : Counter → Dev → Dev} {n item inst index off : Nat} {d : Dev}
    (hput : ∀ c, (put c d).attn = d.attn) : (countRaise cls get put n item inst index off d).attn.serial =
      if (get d).told then d.attn.serial else d.attn.serial + 1 := by
  unfold countRaise
  dsimp only
  split
  · rw [hput]
  · rw [raiseAttn_serial, hput]

theorem queueOf_raiseAttn (cls cause : Nat) (l : List Byte) (d : Dev) (n : Nat) : queueOf (raiseAttn cls cause l d) n = queueOf d n := rfl

theorem queueOf_doorbellFault (n i : Nat) (d : Dev) : queueOf (doorbellFault n d) i =
    queueOf (modQueue n (fun q => { q with faults := ((queueOf d n).faults.add 1).tell }) d) i := by
  unfold doorbellFault countRaise
  dsimp only
  split
  · rfl
  · exact queueOf_raiseAttn _ _ _ _ _

/-- A faulty doorbell write counts in its queue's descriptor and tells attention. -/
theorem doorbellFault_frame (n : Nat) (d : Dev) : doorbellFault n d =
    { d with queues := { d.queues with table := (doorbellFault n d).queues.table }, attn := (doorbellFault n d).attn } := by
  unfold doorbellFault countRaise
  dsimp only
  split <;> rfl

/-! ### Packets that a doorbell publishes -/

theorem queueOf_modSess (n : Nat) (f : Session → Session) (d : Dev) (q : Nat) : queueOf (modSess n f d) q = queueOf d q := rfl

theorem sessOf_modSess_waiting (n : Nat) (d : Dev) (l : List Packet) :
    (sessOf (modSess n (fun s => { s with waiting := s.waiting ++ l }) d) n).waiting = (sessOf d n).waiting ++ l := by
  rw [sessOf_modSess]
  split <;> rfl

theorem le_publishedTo (exp : Nat) (ps : List Packet) (x : Nat) : x ≤ publishedTo exp x ps := by
  induction ps generalizing x with
  | nil => exact Nat.le_refl x
  | cons p ps ih => exact Nat.le_trans (Nat.le_add_right _ _) (ih _)

/-- A packet that its ring has room for moves the producer over it and waits in the ring owner's session. -/
theorem publish_of_room {n : Nat} {p : Packet} {d : Dev} (kind : (queueOf d n).kind = 1)
    (room : (queueOf d n).producer + ringStep p (queueOf d n).exp (queueOf d n).producer ≤ (queueOf d n).consumer + 2 ^ (queueOf d n).exp) :
    publish n p d = modSess (queueOf d n).owner (fun s => { s with waiting := s.waiting ++ [p] })
      (setQueue n { queueOf d n with
        producer := (queueOf d n).producer + ringStep p (queueOf d n).exp (queueOf d n).producer } d) := by
  unfold publish
  dsimp only
  rw [if_neg (by omega)]

/-- Packets that fit their ring are all published, in order. -/
theorem publishAll {n : Nat} (ps : List Packet) {d : Dev} (kind : (queueOf d n).kind = 1)
    (room : publishedTo (queueOf d n).exp (queueOf d n).producer ps ≤ (queueOf d n).consumer + 2 ^ (queueOf d n).exp) :
    queueOf (ps.foldl (fun d p => publish n p d) d) n =
        { queueOf d n with producer := publishedTo (queueOf d n).exp (queueOf d n).producer ps } ∧
      (sessOf (ps.foldl (fun d p => publish n p d) d) (queueOf d n).owner).waiting =
        (sessOf d (queueOf d n).owner).waiting ++ ps ∧
      ps.foldl (fun d p => publish n p d) d = { d with
        queues := { d.queues with table := (ps.foldl (fun d p => publish n p d) d).queues.table }
        sessions := (ps.foldl (fun d p => publish n p d) d).sessions } := by
  induction ps generalizing d with
  | nil => exact ⟨rfl, (List.append_nil _).symm, rfl⟩
  | cons p ps ih =>
    have first := publish_of_room (p := p) kind (Nat.le_trans (le_publishedTo _ ps _) room)
    generalize he : publish n p d = e at first
    have queue : queueOf e n = { queueOf d n with
        producer := (queueOf d n).producer + ringStep p (queueOf d n).exp (queueOf d n).producer } := by
      rw [first, queueOf_modSess, queueOf_setQueue]
    have waits : (sessOf e (queueOf d n).owner).waiting = (sessOf d (queueOf d n).owner).waiting ++ [p] := by
      rw [first, sessOf_modSess_waiting]; rfl
    have frame : e = { d with queues := { d.queues with table := e.queues.table }, sessions := e.sessions } := by rw [first]; rfl
    obtain ⟨queues, waiting, rest⟩ := ih (d := e) (by rw [queue]; exact kind) (by rw [queue]; exact room)
    rw [List.foldl_cons, he]
    refine ⟨by rw [queues, queue]; rfl, ?_, ?_⟩
    · have owner : (queueOf e n).owner = (queueOf d n).owner := by rw [queue]
      rw [owner] at waiting
      rw [waiting, waits, List.append_assoc, List.singleton_append]
    · rw [rest, frame]

/-! ### PAD -/

/-- A session with the one ring pair that may be taken from, whatever packet waits at the head of it. -/
theorem drainAll_one {n q rq : Nat} {p : Packet} {d : Dev} (body : Body) (h : ringTakes n q rq p d) (up : stewardUp d = true) (x : Queue)
    (running : x.halted = false) :
    drainAll body (modSess n (fun s => { s with waiting := [p] }) (setQueue q x d)) =
      takeFrom body n (modSess n (fun s => { s with waiting := [p] }) (setQueue q x d)) := by
  generalize hd1 : modSess n (fun s => { s with waiting := [p] }) (setQueue q x d) = d1
  have hs1 : sessOf d1 n = { sessOf d n with waiting := [p] } := by
    rw [← hd1, sessOf_modSess]
    split
    · subst_vars; rfl
    · rfl
  have hq1 : queueOf d1 q = x := by rw [← hd1]; exact queueOf_setQueue d q _
  have hqr : queueOf d1 rq = queueOf d rq := by rw [← hd1]; exact queueOf_setQueue_ne d _ h.other
  have count : waitingCount d1 = 1 := by
    rw [← hd1]
    show List.foldl _ 0 (kput d.sessions n _) = 1
    rw [sum_waiting _ _ _ h.empty]; rfl
  have up1 : stewardUp d1 = true := by rw [← hd1]; exact up
  have acc : d1.accepted = d.accepted := by rw [← hd1]; rfl
  have unmirrored : (d1.accepted.any fun a => a.session == n && a.mirror.isSome) = false := by
    rw [acc, List.any_eq_false]
    intro a ha
    by_cases hn : a.session = n
    · simp [h.unmirrored a ha hn]
    · simp [hn]
  have room : replyFree d1 rq ≥ 1 + awaiting d1 n := by
    unfold replyFree awaiting
    rw [hqr, acc]
    exact h.replies
  have fence : (p.flags.getLsbD 0 && decide (awaiting d1 n > 0)) = false := by
    unfold awaiting
    rw [acc]
    rcases h.fence with f | f
    · rw [f]; rfl
    · unfold awaiting at f; rw [f]; simp
  have ready : ringReady d1 n = true := by
    unfold ringReady
    rw [hs1]
    simp only [h.rings, hq1, running, unmirrored, fence, decide_eq_true room]
    rfl
  have pick : pickRing d1 = some n := by
    refine pickRing_only ?_ ready fun k hk => ?_
    · rw [← hd1]
      exact List.mem_cons_of_mem _ (List.mem_map.mpr ⟨_, kput_mem, rfl⟩)
    · have : (sessOf d1 k).waiting = [] := by
        rw [← hd1, sessOf_modSess_ne _ _ hk]; exact waiting_of_empty h.empty k
      unfold ringReady
      simp only [this]
      cases (sessOf d1 k).rings <;> rfl
  unfold drainAll
  rw [count]
  unfold drainRings
  rw [if_pos up1, pick]
  rfl

/-- A PAD at the head of its ring: the consumer runs to the end of the ring (R309). -/
theorem takeFrom_pad {n q rq : Nat} {p : Packet} {d : Dev} (body : Body) (pad : p.opcode = 0) (rings : (sessOf d n).rings = some (q, rq))
    (x : Queue) :
    takeFrom body n (modSess n (fun s => { s with waiting := [p] }) (setQueue q x d)) =
      modSess n (fun s => { s with waiting := [] })
        (setQueue q { x with consumer := x.consumer + (2 ^ x.exp - x.consumer % 2 ^ x.exp) }
          { d with queues := { d.queues with nextRing := q + 1 } }) := by
  generalize hd1 : modSess n (fun s => { s with waiting := [p] }) (setQueue q x d) = d1
  have hs1 : sessOf d1 n = { sessOf d n with waiting := [p] } := by
    rw [← hd1, sessOf_modSess]
    split
    · subst_vars; rfl
    · rfl
  have hq1 : queueOf d1 q = x := by rw [← hd1]; exact queueOf_setQueue d q _
  have emptied : modSess n (fun s => { s with waiting := [] }) d1 =
      { d1 with sessions := kput d1.sessions n { sessOf d n with waiting := [] } } := by
    unfold modSess setSess; rw [hs1]
  unfold takeFrom
  simp only [hs1, rings, if_pos pad, hq1]
  rw [emptied, ← hd1]
  show ({ d with
    sessions := kput (kput d.sessions n _) n _
    queues := { d.queues with table := kput (kput d.queues.table q _) q _, nextRing := q + 1 } } : Dev) = _
  rw [kput_kput, kput_kput]
  rfl

/-- In a session where nothing waits, what is appended is all that waits. -/
theorem modSess_append {n : Nat} (l : List Packet) {d : Dev} (h : (sessOf d n).waiting = []) :
    modSess n (fun s => { s with waiting := s.waiting ++ l }) d = modSess n (fun s => { s with waiting := l }) d := by
  show setSess n { sessOf d n with waiting := (sessOf d n).waiting ++ l } d = _
  rw [h]
  rfl

/-- A PAD published in an empty ring of its own session is taken at once. -/
theorem serveRings_pad {n q rq : Nat} {p : Packet} {d : Dev} (h : ringTakes n q rq p d) (pad : p.opcode = 0) (up : stewardUp d = true)
    (empty : (queueOf d q).producer = (queueOf d q).consumer) {k : Nat}
    (hk : k = 2 ^ (queueOf d q).exp - (queueOf d q).producer % 2 ^ (queueOf d q).exp) :
    serveRings (publish q p d) = modSess n (fun s => { s with waiting := [] })
      (setQueue q { queueOf d q with producer := (queueOf d q).producer + k, consumer := (queueOf d q).consumer + k }
        { d with queues := { d.queues with nextRing := q + 1 } }) := by
  have step : ringStep p (queueOf d q).exp (queueOf d q).producer = k := by unfold ringStep; rw [if_pos pad, hk]
  have published := publish_of_room (p := p) h.kind (by rw [step]; omega)
  have waits : (sessOf d n).waiting = [] := waiting_of_empty h.empty n
  rw [published, step, h.owner, modSess_append _ (d := setQueue q _ d) waits]
  refine (drainAll_one opcodeBody h up _ ?running).trans ((takeFrom_pad opcodeBody pad h.rings _).trans ?_)
  case running => exact h.running
  simp only [← empty, ← hk]

/-! ### O7 -/

/-- Settles O7, by what each write to BAR0 does to its queue and by how a ring takes a PAD. -/
theorem doorbellsAndMailbox : Obligations.DoorbellsAndMailbox := by
  refine ⟨?_, ?_, ?_, ?_, ?_, ?_, ?_, ?_, ?_⟩
  · rintro t rid n v ps s d rfl h0 h1 kind unit ahead room whole
    obtain ⟨queue, waits, frame⟩ := publishAll ps kind (by rw [whole]; exact room)
    rw [whole] at queue
    refine ⟨_, _, rfl, onDevA_pump_done ?_, rfl, queue, waits, frame⟩
    rw [doorbell_host _ h0 h1]
    unfold commandDoorbell
    dsimp only
    rw [if_neg]
    simp only [kind, unit, whole, ne_eq, not_true_eq_false, false_or, or_false]
    omega
  · rintro t rid n v s d rfl h0 h1 kind freed within
    refine ⟨_, rfl, onDevA_pump_done ?_⟩
    rw [doorbell_host _ h0 h1]
    unfold replyDoorbell
    dsimp only
    rw [if_neg (by omega)]
  · rintro t rid n v s d c rfl h0 h1 kind freed within rfl
    have written : doorbell rid 8 (verdictDoorbell n v.toNat) (advance t s.dev) = _ :=
      (doorbell_host _ h0 h1).trans (verdictDoorbell_frees kind freed within)
    refine ⟨_, next_onDev written, rfl, fun none active => ?_⟩
    dsimp only
    rw [none]
    exact if_neg fun h => active h.1
  · rintro t rid n v s d rfl h0 h1 wrong
    have written : doorbell rid 8 (verdictDoorbell n v.toNat) (advance t s.dev) = _ :=
      (doorbell_host _ h0 h1).trans (verdictDoorbell_breaks wrong)
    refine ⟨_, next_onDev written, ?_, ?_, fun i hi => ?_, ?_⟩
    · exact congrArg (fun d => { s with dev := d }) (doorbellFault_frame n _)
    · rw [queueOf_doorbellFault, queueOf_modQueue]
      exact Nat.min_comm _ _
    · rw [queueOf_doorbellFault, queueOf_modQueue_ne _ _ hi]
    · exact countRaise_serial fun _ => rfl
  · intro t rid n v k ps s h0 h1 hk
    have narrow : ∀ f, doorbell rid k f (advance t s.dev) = advance t s.dev := fun f => doorbell_narrow f h0 h1 hk
    exact ⟨next_onDev (narrow _), ⟨_, rfl, onDevA_pump_done (narrow _)⟩,
      ⟨_, rfl, onDevA_pump_done (narrow _)⟩⟩
  · intro t rid n v k s h0
    have foreign : doorbell rid k (verdictDoorbell n v.toNat) (advance t s.dev) = foreignWrite 0 rid (advance t s.dev) :=
      fromHost_slot0 _ h0
    refine ⟨_, next_onDev foreign, rfl, ?_, rfl⟩
    have counted : (slotOf (foreignWrite 0 rid (advance t s.dev)) 0).foreign = (slotOf s.dev 0).foreign.add 1 :=
      congrArg Slot.foreign (slotOf_modSlot (advance t s.dev) 0 fun x => { x with foreign := x.foreign.add 1 })
    rw [counted]
    exact Nat.min_comm _ _
  · rintro n t rid p s d ⟨-, passes, takes, rfl⟩ h0 hs0 hs1
    refine ⟨_, rfl, onDevA_pump_done ?_⟩
    rw [fromHost_unbound (d := advance t s.dev) _ hs0 hs1]
    exact arrive_passes passes takes h0
  · intro t rid p s hs0 hs1 idle
    refine ⟨_, rfl, onDevA_pump_done ?_⟩
    rw [fromHost_unbound (d := advance t s.dev) _ hs0 hs1]
    unfold mailPacket
    refine if_pos ?_
    rcases idle with down | busy
    · have down' : stewardUp (advance t s.dev) = false := down
      rw [down']; rfl
    · rw [advance_front, busy]; exact Bool.or_true _
  · rintro n q rq k t s d rfl takes up hk empty
    exact ⟨_, rfl, onDevA_pump_done (serveRings_pad takes rfl up empty hk)⟩

end Sys2Proof.Machine
end

section
/-! Queue numbers of RING_PAIR_OPEN (12 R305, R335). A closing command keeps its queue numbers until its final reply; O8 counts only the
queues of the table, so it promises an unassigned number in a state where none is left to choose. -/

namespace Sys2Proof.Machine

open Sys2Proof

/-- Where every candidate is in use the scan runs out of fuel and answers the number it stands at. -/
theorem scanFree_exhausted (used : Nat → Bool) {count : Nat} (full : ∀ j, j < count → used j = true) (hc : 0 < count) (fuel i : Nat) :
    scanFree used 0 count fuel i = (i + fuel) % count := by
  induction fuel generalizing i with
  | zero => simp [scanFree]
  | succ fuel ih =>
    have taken : used (0 + i % count) = true := by rw [Nat.zero_add]; exact full _ (Nat.mod_lt i hc)
    unfold scanFree
    rw [if_pos taken, ih, Nat.add_right_comm, Nat.add_assoc]

/-- A first reply in the mailbox carries the result word of its answer. -/
theorem firstReply_result (n : Nat) (p : Packet) (w : W64) (d : Dev) :
    (firstReply n .mailbox p (.ok w, d)).front.mboxReply.result = w := by
  have closing : ∀ e : Dev, (closeMarked n e).front = e.front := fun e => by
    unfold closeMarked
    dsimp only
    split
    · split <;> rfl
    · rfl
  have stands : (firstReply n .mailbox p (.ok w, d)).front = _ := closing _
  rw [stands]
  exact (mkReply_fields n true cOk 2 w p d).2

/-- Two answers of one command in the mailbox have one result word. -/
theorem answeredAs_result {n : Nat} {p : Packet} {d e f : Dev} {w v : W64} {s u : State}
    (h : answeredAs n .mailbox p d (.ok w, e) s u) (k : answeredAs n .mailbox p d (.ok v, f) s u) : w = v := by
  have result : ∀ {w : W64} {e : Dev}, answeredAs n .mailbox p d (.ok w, e) s u → u.dev.front.mboxReply.result = w := fun h => by
    rw [h.1.front]
    exact firstReply_result n p _ _
  exact (result h).symm.trans (result k)

/-- The two queue numbers of a result word. -/
theorem ringPairWord_injective {cq rq a b : Nat} (hcq : cq < 1048576) (ha : a < 1048576)
    (h : BitVec.ofNat 64 (rq * 2 ^ 32 + cq) = BitVec.ofNat 64 (b * 2 ^ 32 + a)) : cq = a := by
  have h' := congrArg BitVec.toNat h
  simp only [BitVec.toNat_ofNat] at h'
  omega

/-- A packet that opens a ring pair of session 0, by the mailbox. -/
def ringPairPacket : Packet :=
  { opcode := 0x0102, length := 128
    payload := [1, 16] ++ List.replicate 7 0 ++ [0x10] ++ List.replicate 6 0 ++ [0xFF, 0xFF] ++ List.replicate 14 0 ++
      [2, 8] ++ List.replicate 7 0 ++ [0x10] ++ List.replicate 6 0 ++ [0xFF, 0xFF] ++ List.replicate 14 0 }

/-- A closing command owes its final reply and keeps the queue numbers `kept`; number `last` is assigned besides. -/
def crowded (kept : List Nat) (last : Nat) : Dev :=
  { front := { state := .ready }
    start := { cold := false, released := true, testsDone := true, resumed := true }
    accepted := [{ session := 1, packet := { opcode := 0x0307 }, path := .mailbox, queues := kept }]
    queues := { table := [(last, { kind := 1, owner := 7 })] } }

theorem ringPairPacket_row7 : row7 0 .mailbox ringPairPacket {} = none := by decide +kernel

theorem crowded_comes (kept : List Nat) (last : Nat) : packetComes 0x0102 0 0 .mailbox ringPairPacket { dev := crowded kept last }
    (packetTaken 0 .mailbox ringPairPacket (advance 0 (crowded kept last))) := by
  refine ⟨rfl, ?_, rfl, rfl⟩
  exact { up := rfl, session := rfl, number := by decide, lengthUnit := by decide, lengthMin := by decide, lengthMax := by decide
          isOpen := rfl, check := .inl rfl, fresh := fun e he => absurd he List.not_mem_nil, above := Nat.one_pos
          highMax := Nat.zero_ne_add_one _, notSafe := .inl rfl, room := fun h => absurd h (by decide), notBusy := .inr rfl
          row7 := (row7_rows (d := {}) rfl).trans ringPairPacket_row7, header := .inr rfl }

/-- Every candidate is in use: the first number drawn is the one at which the scan runs out. -/
theorem crowded_newQueue {kept : List Nat} (all : ∀ j, j < 1048576 → j ∈ kept) (last : Nat) (d : Dev)
    (hq : d.queues = (crowded kept last).queues) (ha : d.accepted = (crowded kept last).accepted) (hf : d.free = 0) :
    (newQueue d).1 = (Config.freeNat 0 % 1048576 + (kept.length + 1)) % 1048576 := by
  have inUse : (d.queues.table.filter fun e => e.2.kind != 0).map (·.1) ++ d.accepted.flatMap (·.queues) = last :: kept := by
    rw [hq, ha]
    exact congrArg (_ :: ·) (List.append_nil kept)
  have full : ∀ j, j < 1048576 → (last :: kept).contains j = true := fun j hj =>
    List.contains_iff_mem.mpr (List.mem_cons_of_mem _ (all j hj))
  unfold newQueue assign fresh
  dsimp only
  rw [inUse, hf, scanFree_exhausted _ full (by decide), List.length_cons]

theorem newQueue_lt (d : Dev) : (newQueue d).1 < 1048576 := by
  unfold newQueue assign fresh
  dsimp only
  exact Nat.lt_of_lt_of_eq (scanFree_range _ 0 1048576 (by decide) _ _).2 (Nat.zero_add _)

/-- What RING_PAIR_OPEN answers whatever it chooses: its first number is the first one drawn. -/
theorem bodyRingPairOpen_word {n : Nat} {path : Path} {p : Packet} {d : Dev}
    (h1 : badSpec p 0 1 12 24 n (· == 0xFF) 0xFF (· % 4096 == 0) = none)
    (h2 : badSpec p 32 2 7 16 n (· == 0xFF) 0xFF (· % 4096 == 0) = none) (h3 : (sessOf d n).rings = none) :
    ∃ rq e, bodyRingPairOpen n path p d = (.ok (BitVec.ofNat 64 (rq * 2 ^ 32 + (newQueue d).1)), e) := by
  unfold bodyRingPairOpen
  simp only [h1, h2, h3, Option.isSome_none, Bool.false_eq_true, if_false]
  exact ⟨_, _, rfl⟩

/-- Refutes O8: where a closing command of session 1 still owes its final reply and keeps all 1,048,576 queue numbers, and one queue
is assigned, RING_PAIR_OPEN answers the assigned number; the statement's premise counts the queues of the table only. -/
theorem not_sessionCommands : ¬ Obligations.SessionCommands := by
  intro h
  obtain ⟨-, ringPairOpen, -⟩ := h
  obtain ⟨kept, all⟩ : ∃ l : List Nat, ∀ j, j < 1048576 → j ∈ l := ⟨List.range 1048576, fun _ => List.mem_range.mpr⟩
  obtain ⟨last, hlast⟩ : ∃ last, last = (Config.freeNat 0 % 1048576 + (kept.length + 1)) % 1048576 := ⟨_, rfl⟩
  have comes := crowded_comes kept last
  generalize hd : packetTaken 0 .mailbox ringPairPacket (advance 0 (crowded kept last)) = d at comes
  have spec1 : badSpec ringPairPacket 0 1 12 24 0 (· == 0xFF) 0xFF (· % 4096 == 0) = none := by decide +kernel
  have spec2 : badSpec ringPairPacket 32 2 7 16 0 (· == 0xFF) 0xFF (· % 4096 == 0) = none := by decide +kernel
  have unpaired : (sessOf d 0).rings = none := by rw [← hd]; rfl
  have queues : d.queues = (crowded kept last).queues := by rw [← hd]; rfl
  have drawn := crowded_newQueue all last d queues (by rw [← hd]; rfl) (by rw [← hd]; rfl)
  obtain ⟨u, cq, rq, e, next, answered, -, unassigned, -⟩ := ringPairOpen 0 0 .mailbox ringPairPacket _ d comes spec1 spec2 unpaired (by
    rw [queues]
    have few : ((crowded kept last).queues.table.filter fun x => x.2.kind != 0).length = 1 := rfl
    rw [few]
    decide)
  obtain ⟨v, next', answered'⟩ := comes_answers comes (by decide)
  cases next.symm.trans next'
  obtain ⟨b, f, body⟩ := bodyRingPairOpen_word (path := .mailbox) spec1 spec2 unpaired
  rw [bodyRingPairOpen_comes comes, body] at answered'
  obtain ⟨hcq, free⟩ := unassigned cq (.inl rfl)
  have same := ringPairWord_injective hcq (newQueue_lt d) (answeredAs_result answered answered')
  refine free ?_
  rw [same, drawn, ← hlast, queues]
  exact List.mem_singleton.mpr rfl

end Sys2Proof.Machine
end

section
/-! Keys, attestation and attention (12 R324, R325; 14 R356, R358, R370): what each opcode answers. -/

namespace Sys2Proof.Machine

open Sys2Proof

/-- A packet that comes is answered as its opcode's meaning says. -/
theorem comes_body {op : W16} {n : Nat} {t : Time} {path : Path} {p : Packet} {s : State} {d : Dev} {x : Answer × Dev}
    (h : packetComes op n t path p s d) (h0 : op ≠ 0) (body : opcodeBody n path p d = x) :
    ∃ u, (Host.Outcome.next (denec op t path p s) : Host.Outcome State Fault Refusal) = .next u ∧ answeredAs n path p d x s u :=
  body ▸ comes_answers h h0

theorem bodyKeyEnrol_of_length {n : Nat} {path : Path} {p : Packet} {d : Dev} (buffer : badBuffer p 0 = none) (length : bufLen p 0 = 192) :
    bodyKeyEnrol n path p d = (.accept 0 { session := n, packet := p, path := path, loaded := false }, d) := by
  unfold bodyKeyEnrol
  simp only [buffer, length, ne_eq, not_true_eq_false, if_false]

theorem bodyAttest_of_buffer {n : Nat} {path : Path} {p : Packet} {d : Dev} (buffer : badBuffer p 0 = none) :
    bodyAttest n path p d = (.accept 0 { session := n, packet := p, path := path }, d) := by
  unfold bodyAttest
  simp only [buffer]

theorem bodyAttnAck_of_mask {n : Nat} {path : Path} {p : Packet} {d : Dev} (mask : inl p 4 1 % 2 = 0) :
    bodyAttnAck n path p d =
      (.ok (BitVec.ofNat 64 (attnMask (ackAttn (inl p 0 4) (inl p 4 1) d))), ackAttn (inl p 0 4) (inl p 4 1) d) := by
  unfold bodyAttnAck
  exact if_neg (by omega)

/-! ### KEY_REVOKE -/

section

variable {n : Nat} {path : Path} {p : Packet} {d : Dev} {id : W128} {inUse : Bool} {root key : Option (Nat × KeyEntry)}
  (hid : id = BitVec.ofNat 128 (beNat (bytesAt p.inl 0 16)))
  (hroot : root = (d.bonnet.authority.find? fun e => e.2.keyId == id && !e.2.revoked))
  (hkey : key = (d.bonnet.keys.find? fun e => e.2.keyId == id))
  (huse : inUse = (d.plans.loaded.any (fun l => l.plan.signer == id) ||
    d.sessions.any (fun e => e.1 != 0 && e.2.isOpen && e.2.keyId == id) ||
    (root.isSome && (d.bonnet.authority.filter fun e => !e.2.revoked).length == 1)))

include hid hroot hkey huse

/-- The conditions of KEY_REVOKE in the order in which they are checked. -/
theorem bodyKeyRevoke_eq : bodyKeyRevoke n path p d =
    if root.isNone ∧ key.isNone then (refuseAt cObject 0x20, d)
    else if inUse then (refuseF cState 9 0x20, d)
    else if root.isSome ∧ !d.bonnet.fuseEn then (refuseF cState 15 0x20, d)
    else if d.bonnet.generation ≥ 128 then (refuseF cState 8 0x20, d)
    else match root, key with
      | some (i, e), _ => (.ok 0, { d with bonnet := { d.bonnet with
          generation := d.bonnet.generation + 1, authority := kput d.bonnet.authority i { e with revoked := true } } })
      | none, some (i, _) => (.ok 0, { d with bonnet := { d.bonnet with
          generation := d.bonnet.generation + 1, keys := kdel d.bonnet.keys i, revokedIds := d.bonnet.revokedIds ++ [id] } })
      | none, none => (.ok 0, { d with bonnet := { d.bonnet with generation := d.bonnet.generation + 1 } }) := by
  subst hid hroot hkey huse
  rfl

theorem bodyKeyRevoke_unknown (r : root = none) (k : key = none) : bodyKeyRevoke n path p d = (refuseAt cObject 0x20, d) := by
  rw [bodyKeyRevoke_eq hid hroot hkey huse, if_pos ⟨by rw [r]; rfl, by rw [k]; rfl⟩]

omit hid hroot hkey huse in
theorem not_isNone_of_isSome (known : root.isSome ∨ key.isSome) : ¬(root.isNone ∧ key.isNone) := by
  rintro ⟨r, k⟩
  simp_all

theorem bodyKeyRevoke_used (known : root.isSome ∨ key.isSome) (used : inUse = true) :
    bodyKeyRevoke n path p d = (refuseF cState 9 0x20, d) := by
  rw [bodyKeyRevoke_eq hid hroot hkey huse, if_neg (not_isNone_of_isSome known), if_pos used]

theorem bodyKeyRevoke_unfused (known : root.isSome) (used : inUse = false) (fuse : d.bonnet.fuseEn = false) :
    bodyKeyRevoke n path p d = (refuseF cState 15 0x20, d) := by
  rw [bodyKeyRevoke_eq hid hroot hkey huse, if_neg (not_isNone_of_isSome (.inl known)), if_neg (by simp [used]),
    if_pos ⟨known, by rw [fuse]; rfl⟩]

/-- A key or a slot that may be revoked, at generation 128 or below it. -/
theorem bodyKeyRevoke_free (known : root.isSome ∨ key.isSome) (used : inUse = false) (fuse : root = none ∨ d.bonnet.fuseEn = true) :
    bodyKeyRevoke n path p d =
      if d.bonnet.generation ≥ 128 then (refuseF cState 8 0x20, d)
      else match root, key with
        | some (i, e), _ => (.ok 0, { d with bonnet := { d.bonnet with
            generation := d.bonnet.generation + 1, authority := kput d.bonnet.authority i { e with revoked := true } } })
        | none, some (i, _) => (.ok 0, { d with bonnet := { d.bonnet with
            generation := d.bonnet.generation + 1, keys := kdel d.bonnet.keys i, revokedIds := d.bonnet.revokedIds ++ [id] } })
        | none, none => (.ok 0, { d with bonnet := { d.bonnet with generation := d.bonnet.generation + 1 } }) := by
  have fused : ¬(root.isSome ∧ !d.bonnet.fuseEn) := by rcases fuse with f | f <;> simp [f]
  rw [bodyKeyRevoke_eq hid hroot hkey huse, if_neg (not_isNone_of_isSome known), if_neg (by simp [used]), if_neg fused]

end

/-! ### O9 -/

/-- Settles O9, by what each opcode answers. -/
theorem keyAndAttentionCommands : Obligations.KeyAndAttentionCommands := by
  refine ⟨?_, ?_, ?_, ?_, ?_⟩
  · intro n t path p s d comes buffer length
    exact comes_body comes (by decide) ((bodyKeyEnrol_comes comes).trans (bodyKeyEnrol_of_length buffer length))
  · intro n t path p s d id inUse root key comes hid hroot hkey huse
    obtain ⟨u, next, answered⟩ := comes_answers comes (by decide)
    rw [bodyKeyRevoke_comes comes] at answered
    refine ⟨u, next, fun r k => ?_, fun known used => ?_, fun known used fuse => ?_, fun known used fuse spent => ?_,
      fun i e r used fuse left => ?_, fun i e r k used left => ?_⟩
    · rwa [bodyKeyRevoke_unknown hid hroot hkey huse r k] at answered
    · rwa [bodyKeyRevoke_used hid hroot hkey huse known used] at answered
    · rwa [bodyKeyRevoke_unfused hid hroot hkey huse known used fuse] at answered
    · rwa [bodyKeyRevoke_free hid hroot hkey huse known used fuse, if_pos spent] at answered
    · rw [bodyKeyRevoke_free hid hroot hkey huse (.inl (by rw [r]; rfl)) used (.inr fuse), if_neg (by omega)] at answered
      subst r
      exact answered
    · rw [bodyKeyRevoke_free hid hroot hkey huse (.inr (by rw [k]; rfl)) used (.inl r), if_neg (by omega)] at answered
      subst r k
      exact answered
  · intro n t path p s d comes buffer
    exact comes_body comes (by decide) ((bodyAttest_comes comes).trans (bodyAttest_of_buffer buffer))
  · intro n t path p s d comes
    exact comes_body comes (by decide) (bodyAttnRead_comes comes)
  · rintro n t path p s d e comes mask rfl
    exact comes_body comes (by decide) ((bodyAttnAck_comes comes).trans (bodyAttnAck_of_mask mask))

end Sys2Proof.Machine
end

section
/-! Plan commands and two-phase commands (13 R337, R338; 10 R241, R243; 09 R235, R236): the memory that an object gives back, what each
opcode answers when its conditions hold, and the change that a two-phase command begins. -/

namespace Sys2Proof.Machine

open Sys2Proof

/-! ### Memory given back (R243) -/

/-- Tags of segments that are given back: not valid, and read by no partition. -/
def clearTags (l : List Nat) (d : Dev) : Dev := l.foldl (fun d g => modSeg g (fun x => { x with valid := false, readMask := 0 }) d) d

theorem release_of_alloc {w : AllocFor} {d : Dev} {a : Alloc} (h : allocOf? d w = some a) : release w d =
    modCtl (fun m => { m with
      allocs := m.allocs.filter (fun b => b.what != w)
      toWrite := m.toWrite.filter fun e => !(decide (segAddr a.first ≤ e.1) && decide (e.1 < segAddr (a.first + a.count))) })
      (clearTags (allocSegs d a) d) := by
  unfold release
  rw [h]
  rfl

theorem release_of_none {w : AllocFor} {d : Dev} (h : allocOf? d w = none) : release w d = d := by
  unfold release
  rw [h]

theorem clearTags_allocs (l : List Nat) (d : Dev) : (clearTags l d).memctl.allocs = d.memctl.allocs := by
  unfold clearTags
  induction l generalizing d with
  | nil => rfl
  | cons g l ih => rw [List.foldl_cons, ih]; rfl

/-- `e` is `d` but for allocations, the writes that wait for them and the tags. -/
def onlyReleased (d e : Dev) : Prop := e = { d with memctl := { d.memctl with
  allocs := e.memctl.allocs, toWrite := e.memctl.toWrite, segs := e.memctl.segs } }

theorem onlyReleased_trans {a b c : Dev} (h : onlyReleased a b) (k : onlyReleased b c) : onlyReleased a c := by
  unfold onlyReleased at *
  rw [h] at k
  exact k

theorem foldl_released {α : Type} (f : Dev → α → Dev) (h : ∀ d a, onlyReleased d (f d a)) (l : List α) (d : Dev) :
    onlyReleased d (l.foldl f d) := by
  induction l generalizing d with
  | nil => rfl
  | cons a l ih => exact onlyReleased_trans (h d a) (ih _)

theorem clearTags_released (l : List Nat) (d : Dev) : onlyReleased d (clearTags l d) := foldl_released _ (fun d g => by exact rfl) l d

theorem release_released (w : AllocFor) (d : Dev) : onlyReleased d (release w d) := by
  cases h : allocOf? d w with
  | none => rw [release_of_none h]; rfl
  | some a => rw [release_of_alloc h]; exact onlyReleased_trans (clearTags_released _ d) rfl

/-- What is released has no memory. -/
theorem allocOf_release_self (w : AllocFor) (d : Dev) : allocOf? (release w d) w = none := by
  cases h : allocOf? d w with
  | none => rw [release_of_none h, h]
  | some a =>
    rw [release_of_alloc h]
    exact List.find?_eq_none.mpr fun a ha => by simpa using (List.mem_filter.mp ha).2

/-- What has no memory gets none by a release. -/
theorem allocOf_release_none {v : AllocFor} (w : AllocFor) {d : Dev} (free : allocOf? d v = none) : allocOf? (release w d) v = none := by
  cases h : allocOf? d w with
  | none => rw [release_of_none h, free]
  | some a =>
    rw [release_of_alloc h]
    refine List.find?_eq_none.mpr fun a ha => List.find?_eq_none.mp free a ?_
    have old : a ∈ (clearTags _ d).memctl.allocs := (List.mem_filter.mp ha).1
    rwa [clearTags_allocs] at old

theorem allocOf_releases_none {α : Type} {v : AllocFor} (f : α → AllocFor) (l : List α) {d : Dev} (h : allocOf? d v = none) :
    allocOf? (l.foldl (fun d b => release (f b) d) d) v = none :=
  foldl_keeps (fun d => allocOf? d v = none) _ (fun _ _ k => allocOf_release_none _ k) l d h

/-- Every object of a list that is released has no memory. -/
theorem allocOf_releases {α : Type} (f : α → AllocFor) {l : List α} {b : α} (hb : b ∈ l) (d : Dev) :
    allocOf? (l.foldl (fun d b => release (f b) d) d) (f b) = none := by
  induction l generalizing d with
  | nil => exact absurd hb List.not_mem_nil
  | cons a l ih =>
    rw [List.foldl_cons]
    rcases List.mem_cons.mp hb with rfl | hb
    · exact allocOf_releases_none f l (allocOf_release_self _ d)
    · exact ih hb _

theorem segOf_clearTags_clear {g : Nat} (l : List Nat) {d : Dev} (h : segOf d g = { segOf d g with valid := false, readMask := 0 }) :
    segOf (clearTags l d) g = segOf d g := by
  unfold clearTags
  induction l generalizing d with
  | nil => rfl
  | cons i l ih =>
    have next : segOf (modSeg i (fun x => { x with valid := false, readMask := 0 }) d) g = segOf d g := by
      by_cases hi : g = i
      · subst hi; rw [segOf_modSeg, ← h]
      · exact segOf_modSeg_ne _ _ hi
    rw [List.foldl_cons, ih (by rw [next]; exact h), next]

theorem segOf_clearTags {l : List Nat} {g : Nat} (hg : g ∈ l) (d : Dev) :
    segOf (clearTags l d) g = { segOf d g with valid := false, readMask := 0 } := by
  induction l generalizing d with
  | nil => exact absurd hg List.not_mem_nil
  | cons i l ih =>
    by_cases hi : g = i
    · subst hi
      exact (segOf_clearTags_clear l (by rw [segOf_modSeg])).trans (segOf_modSeg _ _ _)
    · refine (ih ((List.mem_cons.mp hg).resolve_left hi) _).trans ?_
      rw [segOf_modSeg_ne _ _ hi]

/-- The segments of a released object are not valid, and no partition reads them. -/
theorem release_segOf {w : AllocFor} {d : Dev} {a : Alloc} (ha : allocOf? d w = some a) {g : Nat} (hg : g ∈ allocSegs d a) :
    (segOf (release w d) g).valid = false ∧ (segOf (release w d) g).readMask = 0 := by
  have tag := segOf_clearTags hg d
  rw [release_of_alloc ha]
  exact ⟨congrArg Segment.valid tag, congrArg Segment.readMask tag⟩

/-! ### PLAN_UNLOAD -/

/-- A plan version that leaves: beside the plans and the operations of its golden entries, only memory is given back. -/
theorem dropPlan_frame (id v : W64) (d : Dev) : dropPlan id v d = { d with
    plans := { d.plans with
      loaded := d.plans.loaded.filter fun x => !(x.plan.identifier == id && x.plan.version == v)
      blobs := (d.plans.blobs.map fun b => { b with bound := b.bound.filter (· != (id, v)) }).filter fun b => !b.bound.isEmpty }
    sched := { d.sched with
      queue := d.sched.queue.filter fun o => !ofPlan id v o
      golden := d.sched.golden.filter fun g => !ofPlan id v g.2 }
    memctl := { d.memctl with
      allocs := (dropPlan id v d).memctl.allocs, toWrite := (dropPlan id v d).memctl.toWrite, segs := (dropPlan id v d).memctl.segs } } := by
  have released : onlyReleased d ((d.plans.blobs.filter fun b => (b.bound.filter (· != (id, v))).isEmpty).foldl
      (fun d b => release (.blob b.id b.partition) d) (release (.tensors id v) (release (.plan id v) d))) :=
    onlyReleased_trans (onlyReleased_trans (release_released _ d) (release_released _ _))
      (foldl_released _ (fun d (b : Blob) => release_released (.blob b.id b.partition) d) _ _)
  unfold dropPlan
  dsimp only
  revert released
  generalize List.foldl _ (release (.tensors id v) (release (.plan id v) d)) _ = e
  intro released
  unfold onlyReleased at released
  rw [released]
  rfl

/-- The allocations after a plan version has left are those after the releases. -/
theorem allocOf_dropPlan (id v : W64) (d : Dev) (w : AllocFor) : allocOf? (dropPlan id v d) w =
    allocOf? ((d.plans.blobs.filter fun b => (b.bound.filter (· != (id, v))).isEmpty).foldl
      (fun d b => release (.blob b.id b.partition) d) (release (.tensors id v) (release (.plan id v) d))) w := rfl

theorem bodyPlanUnload_unused {n : Nat} {path : Path} {p : Packet} {d : Dev} {l : LoadedPlan} {id v : W64}
    (hid : id = BitVec.ofNat 64 (inl p 0 8)) (hv : v = BitVec.ofNat 64 (inl p 8 8)) (loaded : planOf? d id v = some l)
    (part : badPart p l.partition = none) (unused : planInUse d id v = false) (active : l.active = true)
    (weights : awaits d [0x0203] (fun q => inl q 0 8 == id.toNat) = false)
    (swaps : awaits d [0x0206] (fun q => pay q 0 8 == id.toNat || pay q 8 8 == id.toNat) = false) :
    bodyPlanUnload n path p d = (.ok 0, dropPlan id v d) := by
  subst hid hv
  unfold bodyPlanUnload
  simp only [loaded, part, unused, active, weights, swaps]
  rfl

/-! ### PLAN_LOAD and WEIGHT_LOAD -/

theorem bodyPlanLoad_defined {n : Nat} {path : Path} {p : Packet} {d : Dev} (buffer : badBuffer p 0 = none) (named : p.partition ≠ 0xFF)
    (defined : (partOf? d p.partition.toNat).isSome = true) :
    bodyPlanLoad n path p d = (.accept 0 { session := n, packet := p, path := path, loaded := false }, d) := by
  unfold bodyPlanLoad
  obtain ⟨q, hq⟩ := Option.isSome_iff_exists.mp defined
  simp only [buffer, if_neg named, hq]
  rfl

theorem bodyWeightLoad_matching {n : Nat} {path : Path} {p : Packet} {d : Dev} {l : LoadedPlan} {r : List LoadedPlan}
    (buffer : badBuffer p 0 = none) (versions : versionsOf d (BitVec.ofNat 64 (inl p 0 8)) = l :: r) (part : badPart p l.partition = none)
    (has : ∃ x ∈ l :: r, x.active = true ∧ ∃ w ∈ x.plan.weightDigests, w.blob = BitVec.ofNat 32 (inl p 8 4) ∧ w.length = bufLen p 0) :
    bodyWeightLoad n path p d = (.accept 0 { session := n, packet := p, path := path, loaded := false }, d) := by
  obtain ⟨x, hx, active, w, hw, blob, length⟩ := has
  have some_active : ¬((l :: r).all fun x => !x.active) = true := fun all => by
    have := List.all_eq_true.mp all x hx
    rw [active] at this
    cases this
  have some_blob : ((l :: r).any fun x => x.active && x.plan.weightDigests.any fun w =>
      w.blob == BitVec.ofNat 32 (inl p 8 4) && w.length == bufLen p 0) = true := by
    refine List.any_eq_true.mpr ⟨x, hx, ?_⟩
    rw [active, Bool.true_and]
    exact List.any_eq_true.mpr ⟨w, hw, by rw [blob, length, beq_self_eq_true, beq_self_eq_true]; rfl⟩
  unfold bodyWeightLoad
  simp only [buffer, versions, part]
  rw [if_neg some_active, some_blob]
  rfl

/-! ### Changes that begin (R235, R236) -/

/-- The change that a two-phase command begins. -/
def begunChange (n : Nat) (p : Packet) (cores : Bool) (named : W64) (plan : W64 × W64) (c : AdmitConfig) (d : Dev) : Change :=
  { id := d.cores.nextChange % 65536, opcode := p.opcode, session := n, counter := p.counter, commitAt := commitInstant p,
    prepareBy := d.geyser.now + us (prepareUs p), named := named, cores := cores, packet := p, plan := plan, config := c }

/-- A two-phase command whose meaning begins a change is accepted, and the change is pending with its record. -/
theorem comes_begins {op : W16} {n : Nat} {t : Time} {path : Path} {p : Packet} {s : State} {d : Dev} {named : W64} {plan : W64 × W64}
    {c : AdmitConfig} {cores : Bool} (h : packetComes op n t path p s d) (h0 : op ≠ 0) (hc : (op == 0x0205) = cores)
    (body : opcodeBody n path p d = beginChange n path p named plan c d) :
    ∃ u e, (Host.Outcome.next (denec op t path p s) : Host.Outcome State Fault Refusal) = .next u ∧
      answeredAs n path p d (.accept 0 { session := n, packet := p, path := path, loaded := false }, e) s u ∧
      e = { d with cores := { d.cores with
        changes := d.cores.changes ++ [begunChange n p cores named plan c d]
        record := changeRecord 0 (begunChange n p cores named plan c d)
        nextChange := e.cores.nextChange } } := by
  obtain ⟨u, next, answered⟩ := comes_body h h0 body
  have opcode : p.opcode = op := h.1
  subst opcode hc
  exact ⟨u, _, next, answered, rfl⟩

theorem foldl_add_le (f : Nat → Nat) (q : Nat → Bool) (l : List Nat) {a b : Nat} (h : a ≤ b) :
    (l.filter q).foldl (fun a c => a + f c) a ≤ l.foldl (fun a c => a + f c) b := by
  induction l generalizing a b with
  | nil => exact h
  | cons c l ih =>
    by_cases hq : q c = true
    · rw [List.filter_cons_of_pos hq]
      exact ih (Nat.add_le_add_right h _)
    · rw [List.filter_cons_of_neg hq]
      exact ih (Nat.le_trans h (Nat.le_add_right _ _))

/-- Whatever tables a change of the device's set names, it names the device's own unit, bit 48. -/
theorem tableUnits_device (q : Nat → Bool) : (tableUnits ((List.range 16).filter q)).getLsbD 48 = true := by
  have low : ((List.range 16).filter q).foldl (fun a c => a + 2 ^ c) 0 ≤ 65535 := foldl_add_le (2 ^ ·) q _ (Nat.le_refl 0)
  have high : ((List.range 16).filter q).foldl (fun a c => a + 2 ^ (20 + c)) 0 ≤ 68718428160 :=
    foldl_add_le (fun c => 2 ^ (20 + c)) q _ (Nat.le_refl 0)
  unfold tableUnits
  generalize ((List.range 16).filter q).foldl (fun a c => a + 2 ^ c) 0 = a at low
  generalize ((List.range 16).filter q).foldl (fun a c => a + 2 ^ (20 + c)) 0 = b at high
  rw [BitVec.getLsbD_ofNat, Nat.testBit_eq_decide_div_mod_eq, decide_eq_true (by decide : 48 < 64), Bool.true_and, decide_eq_true (by omega)]

theorem bodyPartitionSet_admitted {n : Nat} {path : Path} {p : Packet} {d : Dev} {parts : KMap Partition} {c : AdmitConfig}
    (entries : ∀ i, i < (partEntries p).length → badEntry p i = none)
    (free : ∀ i e, (partEntries p)[i]? = some e → entryRefused i e d = none) (hparts : parts = withParts p d.sched.parts)
    (header : p.partition = 0xFF ∨ (partEntries p).any (fun e => e.1 == p.partition.toNat) = true) (agree : clashEntry p parts = none)
    (rows : badTwoPhase p ((partEntries p).filterMap (fun e => partOf? d e.1) ++ (partEntries p).filterMap (·.2)) d = none)
    (admitted : runAdmission { d with sched := { d.sched with parts := parts } } = .ok c) :
    ∃ q, bodyPartitionSet n path p d = beginChange n path p (tableUnits ((List.range 16).filter q)) (0, 0) c d := by
  subst hparts
  have h1 : (List.range (partEntries p).length).findSome? (badEntry p) = none :=
    List.findSome?_eq_none_iff.mpr fun i hi => entries i (List.mem_range.mp hi)
  have h2 : ((partEntries p).zip (List.range (partEntries p).length)).findSome? (fun e => entryRefused e.2 e.1 d) = none := by
    refine List.findSome?_eq_none_iff.mpr fun e he => ?_
    obtain ⟨i, hi⟩ := List.mem_iff_getElem?.mp he
    obtain ⟨he1, he2⟩ := List.getElem?_zip_eq_some.mp hi
    obtain ⟨hlt, place⟩ := List.getElem?_eq_some_iff.mp he2
    rw [List.getElem_range] at place
    exact free _ _ (place ▸ he1)
  have h3 : ¬(p.partition ≠ 0xFF ∧ (!(partEntries p).any fun x => x.1 == p.partition.toNat) = true) := by
    rintro ⟨other, foreign⟩
    rw [header.resolve_left other] at foreign
    cases foreign
  unfold bodyPartitionSet
  simp only [h1, h2, if_neg h3, agree, rows]
  have admitted' : runAdmission (modSched (fun s => { s with parts := withParts p d.sched.parts }) d) = .ok c := admitted
  rw [admitted']
  exact ⟨_, rfl⟩

theorem bodyCoreModeSet_admitted {n : Nat} {path : Path} {p : Packet} {d : Dev} {m : W64} {c : AdmitConfig} (hm : m = modeCores p)
    (some_core : m ≠ 0) (named : modeSplit p &&& ~~~m = 0) (unfenced : ∀ i, i < 64 → m.getLsbD i = true → isFenced d i = false)
    (rows : badTwoPhase p ((d.sched.parts.filter fun e => e.2.mask &&& m != 0).map (·.2)) d = none)
    (paired : ∀ e ∈ partOrder d, e.2.criticality ≤ 1 → e.2.mask &&& modeSplit p = 0) (admitted : runAdmission (withModes p d) = .ok c) :
    bodyCoreModeSet n path p d = beginChange n path p m (0, 0) c d := by
  subst hm
  have h1 : ¬((List.range 64).any fun i => (modeCores p).getLsbD i && isFenced d i) = true := by
    intro h
    obtain ⟨i, hi, fenced⟩ := List.any_eq_true.mp h
    obtain ⟨inMask, fenced⟩ := Bool.and_eq_true_iff.mp fenced
    rw [unfenced i (List.mem_range.mp hi) inMask] at fenced
    cases fenced
  have h2 : (partOrder d).find? (fun e => decide (e.2.criticality ≤ 1) && e.2.mask &&& modeSplit p != 0) = none := by
    refine List.find?_eq_none.mpr fun e he => ?_
    by_cases hc : e.2.criticality ≤ 1
    · simp [paired e he hc]
    · simp [hc]
  unfold bodyCoreModeSet
  simp only [if_neg some_core, named, if_neg h1, rows, h2, admitted]
  rfl

theorem bodyPlanSwap_admitted {n : Nat} {path : Path} {p : Packet} {d : Dev} {l : LoadedPlan} {c : AdmitConfig} {ps : List Nat}
    (min : 1 ≤ pay p 16 2) (max : pay p 16 2 ≤ 256) (old : versionsOf d (BitVec.ofNat 64 (pay p 0 8)) ≠ [])
    (newest : newestPlan? d (BitVec.ofNat 64 (pay p 8 8)) = some l) (new : versionsOf d (BitVec.ofNat 64 (pay p 8 8)) ≠ [])
    (contexts : badSwap p l d = none)
    (free : ∀ e ∈ swapContexts p, awaits d [0x0306, 0x0307, 0x0308] (fun q => q.context == e.1) = false)
    (hps : ps = ((swapContexts p).map fun e => (ctxOf d e.1).partition).eraseDups)
    (rows : badTwoPhase p (ps.filterMap (partOf? d)) d = none)
    (admitted : runAdmission (swapBindings (l.plan.identifier, l.plan.version) p d) = .ok c) :
    ∃ q, bodyPlanSwap n path p d =
      beginChange n path p (tableUnits ((List.range 16).filter q)) (l.plan.identifier, l.plan.version) c d := by
  subst hps
  have h1 : ¬(pay p 16 2 < 1 ∨ pay p 16 2 > 256) := by omega
  have h2 : (swapContexts p).findIdx? (fun e => awaits d [0x0306, 0x0307, 0x0308] fun q => q.context == e.1) = none :=
    List.findIdx?_eq_none_iff.mpr free
  unfold bodyPlanSwap
  simp only [if_neg h1, List.isEmpty_iff, if_neg old, if_neg new, newest, contexts, h2, rows, admitted]
  exact ⟨_, rfl⟩

/-! ### O10 -/

/-- Settles O10, by what each opcode answers and by what a release leaves of the allocations and tags. -/
theorem planCommands : Obligations.PlanCommands := by
  refine ⟨?_, ?_, ?_, ?_, ?_, ?_, ?_⟩
  · intro n t path p s d comes buffer named defined
    exact comes_body comes (by decide) ((bodyPlanLoad_comes comes).trans (bodyPlanLoad_defined buffer named defined))
  · intro n t path p s d id v l comes hid hv loaded part unused active weights swaps
    obtain ⟨u, next, answered⟩ := comes_body comes (by decide) ((bodyPlanUnload_comes comes).trans
      (bodyPlanUnload_unused hid hv loaded part unused active weights swaps))
    have plan := allocOf_release_self (.plan id v) d
    refine ⟨u, dropPlan id v d, next, answered, dropPlan_frame id v d, ?_, ?_, fun b hb only => ?_⟩
    · rw [allocOf_dropPlan]
      exact allocOf_releases_none _ _ (allocOf_release_none _ plan)
    · rw [allocOf_dropPlan]
      exact allocOf_releases_none _ _ (allocOf_release_self _ _)
    · rw [allocOf_dropPlan]
      refine allocOf_releases (fun b : Blob => .blob b.id b.partition) (List.mem_filter.mpr ⟨hb, ?_⟩) _
      rw [List.isEmpty_iff, List.filter_eq_nil_iff]
      intro k hk
      simp [only k hk]
  · exact fun w d a ha => ⟨allocOf_release_self w d, fun g hg => release_segOf ha hg⟩
  · intro n t path p s d l r comes buffer versions part has
    exact comes_body comes (by decide) ((bodyWeightLoad_comes comes).trans (bodyWeightLoad_matching buffer versions part has))
  · intro n t path p s d parts c comes entries free hparts header agree rows admitted
    obtain ⟨q, body⟩ := bodyPartitionSet_admitted (n := n) (path := path) entries free hparts header agree rows admitted
    obtain ⟨u, e, next, answered, frame⟩ := comes_begins comes (by decide) rfl ((bodyPartitionSet_comes comes).trans body)
    exact ⟨u, begunChange n p false _ _ c d, e, next, answered, rfl, tableUnits_device q, frame⟩
  · intro n t path p s d m c comes hm some_core named unfenced rows paired admitted
    have body := bodyCoreModeSet_admitted (n := n) (path := path) hm some_core named unfenced rows paired admitted
    obtain ⟨u, e, next, answered, frame⟩ := comes_begins comes (by decide) rfl ((bodyCoreModeSet_comes comes).trans body)
    exact ⟨u, begunChange n p true _ _ c d, e, next, answered, rfl, frame⟩
  · intro n t path p s d l c ps comes min max old newest new contexts free hps rows admitted
    obtain ⟨q, body⟩ := bodyPlanSwap_admitted (n := n) (path := path) min max old newest new contexts free hps rows admitted
    obtain ⟨u, e, next, answered, frame⟩ := comes_begins comes (by decide) rfl ((bodyPlanSwap_comes comes).trans body)
    exact ⟨u, begunChange n p false _ _ c d, e, next, answered, rfl, tableUnits_device q, frame⟩

end Sys2Proof.Machine
end

section
/-! Subject slots, port roles and tap streams (01 R14, R15; 04 R103, R111; 13 R339): what each opcode answers, and the multicast groups
that a port reports. -/

namespace Sys2Proof.Machine

open Sys2Proof

/-! ### Multicast groups (Table 4.1) -/

/-- Collecting without repetition collects what is there. -/
theorem mem_foldl_distinct {α : Type} [BEq α] [LawfulBEq α] (l : List α) (init : List α) (a : α) :
    a ∈ l.foldl (fun l a => if l.contains a then l else l ++ [a]) init ↔ a ∈ init ∨ a ∈ l := by
  induction l generalizing init with
  | nil => simp
  | cons b l ih =>
    rw [List.foldl_cons, ih]
    split
    next held =>
      have hb : b ∈ init := List.contains_iff_mem.mp held
      constructor
      · rintro (h | h)
        · exact .inl h
        · exact .inr (List.mem_cons_of_mem _ h)
      · rintro (h | h)
        · exact .inl h
        · rcases List.mem_cons.mp h with rfl | h
          · exact .inl hb
          · exact .inr h
    next => simp [or_assoc]

theorem reportGroups_frame (k : Nat) (d : Dev) : reportGroups k d =
    { d with ports := kput d.ports k { portOf d k with groups := (portOf (reportGroups k d) k).groups } } := by
  have written : portOf (reportGroups k d) k = _ := portOf_modPort d k _
  rw [written]
  rfl

/-- A port's groups are the multicast destinations of its streams. -/
theorem mem_reportGroups (k : Nat) (d : Dev) (a : W32) : a ∈ (portOf (reportGroups k d) k).groups ↔
    a.toNat / 2 ^ 28 = 14 ∧ ∃ y ∈ d.streams, y.2.port = k ∧ y.2.dst = a := by
  have written : portOf (reportGroups k d) k = _ := portOf_modPort d k _
  rw [written, mem_foldl_distinct]
  simp only [List.not_mem_nil, false_or, List.mem_map, List.mem_filter, Bool.and_eq_true, beq_iff_eq, isMulticast]
  constructor
  · rintro ⟨y, ⟨hy, port, multicast⟩, rfl⟩
    exact ⟨multicast, y, hy, port, rfl⟩
  · rintro ⟨multicast, y, hy, port, rfl⟩
    exact ⟨y, ⟨hy, port, multicast⟩, rfl⟩

/-! ### What the opcodes answer -/

section

variable {n : Nat} {path : Path} {p : Packet} {d : Dev}

theorem bodySubjectRegister_eq (slot : inl p 0 1 ≤ 1) : bodySubjectRegister n path p d =
    if (slotOf d (inl p 0 1)).requester.isSome then (refuseF cState 9 0x20, d)
    else (.ok 0, { d with
      slots := kput d.slots (inl p 0 1) { slotOf d (inl p 0 1) with requester := some (BitVec.ofNat 16 (inl p 2 2)) } }) := by
  unfold bodySubjectRegister
  exact if_neg (by omega)

theorem bodySubjectRelease_eq (slot : inl p 0 1 ≤ 1) (bound : (slotOf d (inl p 0 1)).requester.isSome) :
    bodySubjectRelease n path p d =
      if d.contexts.any fun e => e.2.state != .closed && e.2.slot == inl p 0 1 then (refuseF cState 9 0x20, d)
      else (.ok 0, { d with slots := kput d.slots (inl p 0 1) { slotOf d (inl p 0 1) with requester := none } }) := by
  unfold bodySubjectRelease
  dsimp only
  rw [if_neg (by omega), if_neg (by simpa using Option.isSome_iff_ne_none.mp bound)]
  rfl

theorem bodyPortRoleSet_once {i r v : Nat} (hi : i = inl p 0 1) (hr : r = inl p 1 1) (hv : v = inl p 2 1) (port : i ≤ 3) (r1 : 1 ≤ r)
    (r3 : r ≤ 3) (v1 : 1 ≤ v) (v2 : v ≤ 2) (unset : (portOf d i).role = .none_)
    (fabric : r ≠ 2 ∨ inFabric d = true ∨ (∀ j, j < 4 → (portOf d j).role ≠ .fabric)) :
    bodyPortRoleSet n path p d = (.ok 0, runBmca { d with
      ports := kput d.ports i { portOf d i with role := if r = 1 then .tap else if r = 2 then .fabric else .out, speed := v }
      geyser := { d.geyser with ports := kput d.geyser.ports i { ptpOf d i with announceAt := d.geyser.now } } }) := by
  subst hi hr hv
  have roleFree : ¬(inl p 1 1 = 2 ∧ !inFabric d ∧ (List.range 4).any fun j => (portOf d j).role == .fabric) := by
    rintro ⟨two, outside, taken⟩
    rcases fabric with f | f | f
    · exact f two
    · rw [f] at outside; cases outside
    · obtain ⟨j, hj, role⟩ := List.any_eq_true.mp taken
      exact f j (List.mem_range.mp hj) (beq_iff_eq.mp role)
  unfold bodyPortRoleSet
  dsimp only
  rw [if_neg (by omega), if_neg (by omega), if_neg (by omega), if_neg (not_not_intro unset), if_neg roleFree]
  rfl

theorem bodyTapStreamOpen_admitted {e : Dev} {x : Stream} {i : Nat} {c : AdmitConfig} (hx : x = streamOfPacket p d.geyser.now)
    (hi : i = pay p 0 2) (grades : x.grades < 4) (fields : badStream p = none) (defined : (partOf? d x.partition).isSome = true)
    (part : badPart p x.partition = none) (tap : (portOf d x.port).role = .tap) (free : streamOf? d i = none)
    (few : (d.streams.filter fun y => y.2.port == x.port).length < 8)
    (other : ∀ y ∈ d.streams, y.2.port = x.port → y.2.dst ≠ x.dst ∨ y.2.udpPort ≠ x.udpPort ∨ y.2.ssrc ≠ x.ssrc)
    (he : e = { d with streams := kput d.streams i x }) (admitted : runAdmission e = .ok c) :
    bodyTapStreamOpen n path p d = (.accept 0
        { session := n, packet := p, path := path, due := boundaryOf (commitsFor e d.geyser.now c (concerned e c [])) },
      allocate (.ring i) x.partition .durable false (x.slots * canonLen (layer0Of x))
        (queueCommits (commitsFor e d.geyser.now c (concerned e c [])) (reportGroups x.port e))) := by
  have reserved : ¬x.grades / 4 ≠ 0 := by omega
  obtain ⟨q, hq⟩ := Option.isSome_iff_exists.mp defined
  have distinct : ((d.streams.filter fun e => e.2.port == x.port).any fun e =>
      e.2.dst == x.dst && e.2.udpPort == x.udpPort && e.2.ssrc == x.ssrc) = false := by
    refine List.any_eq_false.mpr fun y hy => ?_
    obtain ⟨mem, port⟩ := List.mem_filter.mp hy
    simp only [Bool.and_eq_true, beq_iff_eq]
    rintro ⟨⟨h1, h2⟩, h3⟩
    rcases other y mem (beq_iff_eq.mp port) with h | h | h
    · exact h h1
    · exact h h2
    · exact h h3
  have admitted' : runAdmission (setStream i x d) = .ok c := by rw [he] at admitted; exact admitted
  subst hi
  unfold bodyTapStreamOpen
  simp only [← hx, if_neg reserved, fields, hq, part, tap, free, distinct, admitted', ge_iff_le, Nat.not_le.mpr few]
  rw [he]
  rfl

theorem bodyTapStreamClose_free {x : Stream} {i : Nat} (hi : i = inl p 0 2) (named : streamOf? d i = some x)
    (part : badPart p x.partition = none) (unused : ∀ e ∈ d.contexts, e.2.state ≠ .closed → i ∉ e.2.streams) (opened : x.opened = true) :
    bodyTapStreamClose n path p d =
      (.ok 0, release (.ring i) (reportGroups x.port { d with streams := kdel d.streams i })) := by
  subst hi
  have free : ¬(d.contexts.any fun e => e.2.state != .closed && e.2.streams.contains (inl p 0 2)) = true := by
    intro h
    obtain ⟨e, he, used⟩ := List.any_eq_true.mp h
    simp only [Bool.and_eq_true, bne_iff_ne, List.contains_iff_mem] at used
    exact unused e he used.1 used.2
  unfold bodyTapStreamClose
  simp only [named, part, if_neg free, opened]
  rfl

end

/-! ### O11 -/

/-- Settles O11, by what each opcode answers and by the groups that a port reports. -/
theorem subjectPortStreamCommands : Obligations.SubjectPortStreamCommands := by
  refine ⟨?_, ?_, ?_, ?_, ?_, fun k d => ⟨reportGroups_frame k d, mem_reportGroups k d⟩⟩
  · rintro n t path p s d i comes rfl slot
    obtain ⟨u, next, answered⟩ := comes_answers comes (by decide)
    rw [bodySubjectRegister_comes comes, bodySubjectRegister_eq slot] at answered
    refine ⟨u, next, fun bound => ?_, fun free => ?_⟩
    · rwa [if_pos bound] at answered
    · rwa [if_neg (by rw [free]; simp)] at answered
  · rintro n t path p s d i comes rfl slot bound
    obtain ⟨u, next, answered⟩ := comes_answers comes (by decide)
    rw [bodySubjectRelease_comes comes, bodySubjectRelease_eq slot bound] at answered
    refine ⟨u, next, fun used => ?_, fun unused => ?_⟩
    · obtain ⟨e, he, isOpen, same⟩ := used
      rwa [if_pos (List.any_eq_true.mpr ⟨e, he, by simp [isOpen, same]⟩)] at answered
    · rwa [if_neg] at answered
      intro h
      obtain ⟨e, he, used⟩ := List.any_eq_true.mp h
      simp only [Bool.and_eq_true, bne_iff_ne, beq_iff_eq] at used
      exact unused e he used.1 used.2
  · rintro n t path p s d e i r v comes hi hr hv port r1 r3 v1 v2 unset fabric rfl
    exact comes_body comes (by decide) ((bodyPortRoleSet_comes comes).trans
      (bodyPortRoleSet_once hi hr hv port r1 r3 v1 v2 unset fabric))
  · intro n t path p s d e x i c comes hx hi grades fields defined part tap free few other he admitted
    obtain ⟨u, next, answered⟩ := comes_body comes (by decide) ((bodyTapStreamOpen_comes comes).trans
      (bodyTapStreamOpen_admitted hx hi grades fields defined part tap free few other he admitted))
    exact ⟨u, _, next, rfl, answered⟩
  · intro n t path p s d x i comes hi named part unused opened
    exact comes_body comes (by decide) ((bodyTapStreamClose_comes comes).trans (bodyTapStreamClose_free hi named part unused opened))

end Sys2Proof.Machine
end

section
/-! Context commands (02 R29 to R37; 13 R340, R341): the context that CONTEXT_OPEN makes with its queues, and what each opcode answers. -/

namespace Sys2Proof.Machine

open Sys2Proof

/-! ### The new context (R340) -/

/-- A context's three queues begin where its first sequence number says, and it is ADMITTED as its packet names it. -/
structure newlyAdmitted (p : Packet) (o : OpenNames) (x : Context) : Prop where
  state : x.state = .admitted
  planId : x.planId = o.plan.plan.identifier
  planVersion : x.planVersion = o.plan.plan.version
  template : x.template = o.index
  partition : x.partition = o.template.partition
  slot : x.slot = o.slot
  streams : x.streams = o.streams
  outPort : x.outPort = pay p 0xA 1
  unclaimedLimit : x.unclaimedLimit = if pay p 0xB 1 = 0 then 3 else pay p 0xB 1
  activation : x.activation = o.activation
  results : x.results = []
  accepted : x.accepted = openFirst p - 1
  recorded : x.recorded = x.accepted

/-- Taking a place in BAR2 leaves every context. -/
theorem placeIn_contexts {slot len : Nat} {taken : List (Nat × Nat)} {d e : Dev} {x : Option Nat} (h : placeIn slot len taken d = (x, e)) :
    e.contexts = d.contexts := (congrArg (fun y : Option Nat × Dev => y.2.contexts) h).symm

/-- When the half of the slot has room for the blocks, the context stands with its verdict queue at its first sequence number. -/
theorem newContext_placed {p : Packet} {o : OpenNames} {d e : Dev} {ev ch : Nat} (h : newContext p o d = (some (ev, ch), e)) :
    newlyAdmitted p o (ctxOf e p.context) ∧
      (queueOf e (ctxOf e p.context).vQueue).producer = (ctxOf e p.context).accepted ∧
      (queueOf e (ctxOf e p.context).vQueue).consumer = (ctxOf e p.context).accepted ∧
      (queueOf e (ctxOf e p.context).vQueue).kind = 5 ∧ ∀ k, k ≠ p.context → ctxOf e k = ctxOf d k := by
  unfold newContext at h
  dsimp only at h
  split at h
  · cases h
  next ev1 d1 h1 =>
    split at h
    · cases h
    next ch1 d2 h2 =>
      split at h
      · cases h
      next base d3 h3 =>
        have kept : d3.contexts = d.contexts := (placeIn_contexts h3).trans ((placeIn_contexts h2).trans (placeIn_contexts h1))
        cases h
        refine ⟨?_, ?_, ?_, ?_, fun k hk => ?_⟩
        · rw [ctxOf_setCtx]
          exact ⟨rfl, rfl, rfl, rfl, rfl, rfl, rfl, rfl, rfl, rfl, rfl, rfl, rfl⟩
        · rw [ctxOf_setCtx]
          exact congrArg Queue.producer (queueOf_setQueue _ _ _)
        · rw [ctxOf_setCtx]
          exact congrArg Queue.consumer (queueOf_setQueue _ _ _)
        · rw [ctxOf_setCtx]
          exact congrArg Queue.kind (queueOf_setQueue _ _ _)
        · have hk' : k.toNat ≠ p.context.toNat := fun e => hk (BitVec.eq_of_toNat_eq e)
          refine (kget_kput_ne _ _ _ hk').trans ?_
          exact congrArg (kget {} · k.toNat) kept

/-- A first sequence number below 1 is out of its range (R341). -/
theorem openFirst_pos {p : Packet} {o : OpenNames} {d : Dev} (h : openRange p o d = none) : 1 ≤ openFirst p := by
  unfold openRange at h
  dsimp only at h
  split at h
  · cases h
  split at h
  · cases h
  split at h
  · cases h
  next first _ => omega

/-! ### What the opcodes answer -/

section

variable {n : Nat} {path : Path} {p : Packet} {d e : Dev} {c : AdmitConfig} {cs : List PendingCommit}

theorem openAdmit_admitted {o : OpenNames} {ev ch : Nat} (new : newContext p o d = (some (ev, ch), e)) (rings : ringShort o e = none)
    (admitted : runAdmission e = .ok c) (hcs : cs = commitsFor e d.geyser.now c (concerned e c [o.template.partition]))
    (early : boundaryOf cs ≤ o.activation) :
    openAdmit n path p o d = (.accept (placesWord ev ch)
        { session := n, packet := p, path := path, due := o.activation, loaded := false },
      setMasks (allocate (.queues p.context) o.template.partition .durable false (2 ^ pay p 0x31 1 + 64 * 2 ^ pay p 0x51 1)
        (journalCtx p.context (queueCommits cs e)))) := by
  subst hcs
  unfold openAdmit
  simp only [new, rings, admitted, decide_eq_true_eq, if_neg (Nat.not_lt.mpr early)]

theorem bodyContextOpen_admitted {o : OpenNames} {ev ch : Nat} (flags : pay p 0x32 2 < 2 ∧ pay p 0x52 2 < 2 ∧ pay p 0x72 2 < 2)
    (names : openNames p d = .ok o) (closed : (ctxOf d p.context).state = .closed)
    (free : awaits d [0x0307] (fun q => q.context == p.context) = false) (few : d.contexts.length < 65536)
    (range : openRange p o d = none) (state : openState p o d = none) (new : newContext p o d = (some (ev, ch), e))
    (rings : ringShort o e = none) (admitted : runAdmission e = .ok c)
    (hcs : cs = commitsFor e d.geyser.now c (concerned e c [o.template.partition])) (early : boundaryOf cs ≤ o.activation) :
    bodyContextOpen n path p d = (.accept (placesWord ev ch)
        { session := n, packet := p, path := path, due := o.activation, loaded := false },
      setMasks (allocate (.queues p.context) o.template.partition .durable false (2 ^ pay p 0x31 1 + 64 * 2 ^ pay p 0x51 1)
        (journalCtx p.context (queueCommits cs e)))) := by
  obtain ⟨f1, f2, f3⟩ := flags
  have unreserved : [0x30, 0x50, 0x70].find? (fun o => pay p (o + 2) 2 / 2 != 0) = none := by
    refine List.find?_eq_none.mpr fun k hk => ?_
    rcases List.mem_cons.mp hk with rfl | hk
    · simp [Nat.div_eq_of_lt f1]
    rcases List.mem_cons.mp hk with rfl | hk
    · simp [Nat.div_eq_of_lt f2]
    · rw [List.mem_singleton.mp hk]
      simp [Nat.div_eq_of_lt f3]
  unfold bodyContextOpen
  simp only [unreserved, names, closed, free, ge_iff_le, Nat.not_le.mpr few, range, state]
  exact openAdmit_admitted new rings admitted hcs early

/-- A context that is neither closed nor draining and that no command awaits: it closes or drains (Table 2.1, R37). -/
theorem bodyContextClose_open (isOpen : (ctxOf d p.context).state ≠ .closed) (active : (ctxOf d p.context).state ≠ .draining)
    (part : badPart p (ctxOf d p.context).partition = none) (free : ctxPending d p.context = false) :
    bodyContextClose n path p d =
      if (ctxOf d p.context).results = [] ∧ (ctxOf d p.context).heldRecords = [] then
        (.accept 0 { session := n, packet := p, path := path, done := BitVec.ofNat 64 (ctxOf d p.context).recorded },
          if (ctxOf d p.context).state = .admitted then closeContext p.context d
          else closeIfDrained p.context (journalCtx p.context (modCtx p.context (fun x => { x with state := .draining }) d)))
      else (.accept 0 { session := n, packet := p, path := path, loaded := false },
        journalCtx p.context (modCtx p.context (fun x => { x with state := .draining }) d)) := by
  have waits : ¬(ctxPending d p.context || (ctxOf d p.context).state == .draining) = true := by simp [free, active]
  unfold bodyContextClose
  simp only [if_neg isOpen, part, if_neg waits]

theorem bodyContextResume_admitted {q : Partition} {act : Time} (suspended : (ctxOf d p.context).state = .suspended)
    (part : badPart p (ctxOf d p.context).partition = none) (free : ctxPending d p.context = false) (ns : inl p 0 4 < 1000000000)
    (hact : act = ofSecNs (inl p 4 6) (inl p 0 4)) (defined : partOf? d (ctxOf d p.context).partition = some q)
    (boundary : isBoundary q act = true) (later : d.geyser.now < act)
    (admitted : runAdmission (modCtx p.context (fun x => { x with state := .active }) d) = .ok c)
    (hcs : cs = commitsFor d d.geyser.now c
      (concerned (modCtx p.context (fun x => { x with state := .active }) d) c [(ctxOf d p.context).partition]))
    (early : boundaryOf cs ≤ act) :
    bodyContextResume n path p d = (.accept 0 { session := n, packet := p, path := path, due := act, loaded := false },
      modCtx p.context (fun x => { x with activation := act }) (queueCommits cs d)) := by
  subst hact hcs
  unfold bodyContextResume
  simp only [suspended, part, free, ge_iff_le, Nat.not_le.mpr ns, Nat.not_le.mpr later, defined, boundary, admitted,
    Nat.not_lt.mpr early]
  rfl

theorem bodyContextStatus_eq (part : (ctxOf d p.context).state = .closed ∨ badPart p (ctxOf d p.context).partition = none) :
    bodyContextStatus n path p d = (.ok (if (ctxOf d p.context).state = .closed then 0 else ctxStatusWord (ctxOf d p.context)), d) := by
  have allowed : (if (ctxOf d p.context).state = .closed then none else badPart p (ctxOf d p.context).partition) = none := by
    rcases part with h | h
    · exact if_pos h
    · rw [h, ite_self]
  unfold bodyContextStatus
  simp only [allowed]

end

/-! ### O12 -/

/-- Settles O12, by the context that CONTEXT_OPEN makes and by what each opcode answers. -/
theorem contextCommands : Obligations.ContextCommands := by
  refine ⟨?_, ?_, ?_, ?_⟩
  · intro n t path p s d e o ev ch c cs comes flags names closed free few range state new rings admitted hcs early
    obtain ⟨u, next, answered⟩ := comes_body comes (by decide) ((bodyContextOpen_comes comes).trans
      (bodyContextOpen_admitted flags names closed free few range state new rings admitted hcs early))
    obtain ⟨made, producer, consumer, kind, others⟩ := newContext_placed new
    have first : openFirst p - 1 + 1 = pay p 0x10 8 := Nat.sub_add_cancel (openFirst_pos range)
    exact ⟨u, _, next, answered, rfl, made.state, made.planId, made.planVersion, made.template, made.partition, made.slot, made.streams,
      made.outPort, made.unclaimedLimit, made.activation, made.results, made.accepted ▸ first, made.recorded, producer, consumer, kind,
      others⟩
  · rintro n t path p s d e x comes rfl isOpen active part free rfl
    obtain ⟨u, next, answered⟩ := comes_answers comes (by decide)
    rw [bodyContextClose_comes comes, bodyContextClose_open isOpen active part free] at answered
    exact ⟨u, next, fun empty => by rwa [if_pos empty] at answered, fun open_ => by rwa [if_neg open_] at answered⟩
  · rintro n t path p s d x q act c cs comes rfl suspended part free ns hact defined boundary later admitted hcs early
    exact comes_body comes (by decide) ((bodyContextResume_comes comes).trans
      (bodyContextResume_admitted suspended part free ns hact defined boundary later admitted hcs early))
  · rintro n t path p s d x comes rfl part
    exact comes_body comes (by decide) ((bodyContextStatus_comes comes).trans (bodyContextStatus_eq part))

end Sys2Proof.Machine
end

section
/-! Time, fault, watchdog, maintenance and fabric commands (13 R342 to R347): what each opcode answers. -/

namespace Sys2Proof.Machine

open Sys2Proof

/-! ### Time and pulse opcodes (15 R383 to R391, R396, R397) -/

section

variable {n : Nat} {path : Path} {p : Packet} {d : Dev}

/-- The three answers of TIME_SET to a time whose nanoseconds are in range. -/
theorem bodyTimeSet_ranged (range : inl p 0 4 < 1000000000) : bodyTimeSet n path p d =
    if d.geyser.state ≠ .unlocked then (refuseF cState 11 0x20, d)
    else if anyContext d || changePending d then (refuseF cState 9 0x20, d)
    else (.ok 0, applyStep ((ofSecNs (inl p 4 6) (inl p 0 4) : Int) - d.geyser.now) d) :=
  if_neg (Nat.not_le.mpr range)

/-- A record in range, whose mechanisms stand on TAP and FABRIC ports and that names at most one SLAVE, is taken. -/
theorem bodyPtpConfig_taken (flags : pay p 1 1 < 8) (good : badPtp p = none)
    (roles : ∀ i, i < 4 → pay p (8 + 4 * i) 1 ≠ 0 → (portOf d i).role = .tap ∨ (portOf d i).role = .fabric)
    (slaves : ((List.range 4).filter fun i => pay p (10 + 4 * i) 1 == 2).length ≤ 1)
    (free : (pay p 1 1).testBit 1 = true → anyContext d = false ∧ changePending d = false) :
    bodyPtpConfig n path p d = (.ok 0, applyPtp (ptpConfigOf p)
      (if (pay p 1 1).testBit 1 then clockTo .unlocked d.geyser.master d else d)) := by
  have unreserved : pay p 1 1 / 8 = 0 := Nat.div_eq_of_lt flags
  have noPort : (List.range 4).find? (fun i => mechAt p i != 0 && ((portOf d i).role != .tap && (portOf d i).role != .fabric)) =
      none := by
    refine List.find?_eq_none.mpr fun i hi => ?_
    by_cases h : pay p (8 + 4 * i) 1 = 0
    · simp [mechAt, h]
    · rcases roles i (List.mem_range.mp hi) h with h | h <;> simp [h]
  have unheld : ((pay p 1 1).testBit 1 && (anyContext d || changePending d)) = false := by
    cases hb : (pay p 1 1).testBit 1 with
    | false => rfl
    | true => simp [(free hb).1, (free hb).2]
  unfold bodyPtpConfig
  simp only [unreserved, good, noPort, unheld, gt_iff_lt, Nat.not_lt.mpr slaves, ne_eq, not_true_eq_false, if_false,
    Bool.false_eq_true]

/-- An output that does not run takes a one-shot ahead of now, or a periodic pulse with its past occurrences skipped. -/
theorem bodyPulseSet_taken {o mode skip : Nat} {start : Time} {x : Pulse} (ho : o = inl p 0 1) (range : o ≤ 7)
    (hm : mode = inl p 1 1) (modes : mode = 1 ∨ mode = 2) (ns_ : inl p 4 4 < 1000000000)
    (hs : start = ofSecNs (inl p 8 6) (inl p 4 4)) (once : mode = 1 → pay p 0 8 = 0 ∧ d.geyser.now < start)
    (periodic : mode = 2 → 100 ≤ pay p 0 8 ∧ pay p 8 4 < pay p 0 8) (width : 10 ≤ pay p 8 4)
    (idle : pulseRuns (pulseOf d o) = false)
    (hskip : skip = (if mode = 2 ∧ start ≤ d.geyser.now then (d.geyser.now - start) / ns (pay p 0 8) + 1 else 0))
    (hx : x = { mode := mode, run := true, stopped := (pulseOf d o).stopped, start := start, period := ns (pay p 0 8),
                width := ns (pay p 8 4), n := skip }) :
    bodyPulseSet n path p d = (.ok (BitVec.ofNat 64 (if mode = 2 then
      min skip 4294967295 * 2 ^ 32 + (start + skip * ns (pay p 0 8)) / ns 1 % 1000000000 else 0)),
      { d with geyser := { d.geyser with pulses := kput d.geyser.pulses o x } }) := by
  subst ho hm hs
  have noMode : ¬(inl p 1 1 ≠ 1 ∧ inl p 1 1 ≠ 2) := by omega
  have noPeriod : ¬((inl p 1 1 = 1 ∧ pay p 0 8 ≠ 0) ∨ (inl p 1 1 = 2 ∧ pay p 0 8 < 100)) := by
    rintro (⟨h, k⟩ | ⟨h, k⟩)
    · exact k (once h).1
    · exact absurd (periodic h).1 (Nat.not_le.mpr k)
  have noWidth : ¬(pay p 8 4 < 10 ∨ (inl p 1 1 = 2 ∧ pay p 8 4 ≥ pay p 0 8)) := by
    rintro (h | ⟨h, k⟩)
    · omega
    · exact absurd (periodic h).2 (Nat.not_lt.mpr k)
  have notPast : ¬(inl p 1 1 = 1 ∧ ofSecNs (inl p 8 6) (inl p 4 4) ≤ d.geyser.now) :=
    fun h => absurd (once h.1).2 (Nat.not_lt.mpr h.2)
  have skipped : (if inl p 1 1 = 2 then skippedPulses (ofSecNs (inl p 8 6) (inl p 4 4)) (ns (pay p 0 8)) d.geyser.now else 0) =
      skip := by
    rw [hskip]
    by_cases two : inl p 1 1 = 2
    · simp only [two, if_true, true_and]
      rfl
    · rw [if_neg two, if_neg fun h => two h.1]
  unfold bodyPulseSet
  simp only [gt_iff_lt, Nat.not_lt.mpr range, noMode, ge_iff_le, Nat.not_le.mpr ns_, noPeriod, noWidth, idle, notPast, if_false,
    Bool.false_eq_true]
  rw [skipped, ← hx, hx]
  rfl

theorem bodyPulseStop_ranged (range : inl p 0 1 ≤ 7) : bodyPulseStop n path p d =
    (.ok 0, modPulse (inl p 0 1) (fun x => { x with mode := 0, run := false, level := false }) d) :=
  if_neg (Nat.not_lt.mpr range)

end

/-- Settles O13, by what each opcode answers. -/
theorem timeCommands : Obligations.TimeCommands := by
  refine ⟨?_, ?_, ?_, ?_, ?_, ?_⟩
  · intro n t path p s d comes
    exact comes_body comes (by decide) (bodyTimeRead_comes comes)
  · intro n t path p s d comes
    exact comes_body comes (by decide) (bodyTimeStatus_comes comes)
  · intro n t path p s d comes range
    obtain ⟨u, next, answered⟩ := comes_answers comes (by decide)
    rw [bodyTimeSet_comes comes, bodyTimeSet_ranged range] at answered
    refine ⟨u, next, fun locked => ?_, fun unlocked held => ?_, fun unlocked closed none_ => ?_⟩
    · rwa [if_pos locked] at answered
    · rwa [if_neg (not_not_intro unlocked), if_pos ((Bool.or_eq_true _ _).mpr held)] at answered
    · rwa [if_neg (not_not_intro unlocked), if_neg (by simp [closed, none_])] at answered
  · intro n t path p s d comes flags good roles slaves
    obtain ⟨u, next, answered⟩ := comes_answers comes (by decide)
    rw [bodyPtpConfig_comes comes] at answered
    refine ⟨u, next, fun keeps => ?_, fun lost closed none_ => ?_⟩
    · rwa [bodyPtpConfig_taken flags good roles slaves (fun h => absurd h (by simp [keeps])), keeps] at answered
    · rwa [bodyPtpConfig_taken flags good roles slaves (fun _ => ⟨closed, none_⟩), if_pos lost] at answered
  · intro n t path p s d o mode start skip x comes ho range hm modes ns_ hs once periodic width idle hskip hx
    exact comes_body comes (by decide) ((bodyPulseSet_comes comes).trans
      (bodyPulseSet_taken ho range hm modes ns_ hs once periodic width idle hskip hx))
  · rintro n t path p s d o comes rfl range
    exact comes_body comes (by decide) ((bodyPulseStop_comes comes).trans (bodyPulseStop_ranged range))

/-! ### Fault and diagnostic opcodes (16 R409, R413 to R415) -/

section

variable {n : Nat} {path : Path} {p : Packet} {d : Dev}

theorem bodyDiagRead_read {x : DiagItem} {r : List Byte × Nat} (low : 1 ≤ inl p 0 2) (high : inl p 0 2 ≤ 15)
    (item : diagItem? (inl p 0 2) (inl p 2 2) (inl p 4 4) d = some x) (buffer : badBuffer p 0 = none)
    (room : 16 + diagLead (inl p 0 2) ≤ bufLen p 0) (hr : r = diagResponse (inl p 0 2) (inl p 2 2) (inl p 4 4) (bufLen p 0) x) :
    bodyDiagRead n path p d = (.ok (BitVec.ofNat 64 r.1.length),
      diagSeen (inl p 0 2) (inl p 2 2) (inl p 4 4) r.2
        { d with front := { d.front with hostDmaAddr := bufAddr p 0, hostDmaData := r.1 } }) := by
  subst hr
  have range : ¬(inl p 0 2 < 1 ∨ inl p 0 2 > 15) := by omega
  unfold bodyDiagRead
  simp only [range, item, buffer, Nat.not_lt.mpr room, if_false]
  rfl

theorem bodyFaultConfig_ranged (source : inl p 0 2 ≤ 767) (count : 1 ≤ inl p 2 1) (mask : inl p 3 1 ≤ 31)
    (unit : (inl p 3 1).testBit 2 = true → inl p 0 2 < 512 ∨ 766 ≤ inl p 0 2) (low : 1 ≤ inl p 4 4) (high : inl p 4 4 ≤ 60000000)
    (cls : inl p 8 1 ≤ 1) : bodyFaultConfig n path p d =
      if (srcOf d (inl p 0 2)).fixed then (refuseF cState 11 0x20, d)
      else (.ok 0, errUpdate (modSrc (inl p 0 2) (fun x => { x with
        cls := inl p 8 1, mask := inl p 3 1, n := inl p 2 1, w := inl p 4 4 }) d)) := by
  have reset : ¬(inl p 3 1 > 31 ∨ ((inl p 3 1).testBit 2 = true ∧ !hasUnit (inl p 0 2))) := by
    rintro (h | ⟨h, k⟩)
    · omega
    · simp only [hasUnit, Bool.not_eq_true', Bool.or_eq_false_iff, decide_eq_false_iff_not] at k
      have := unit h
      omega
  have window : ¬(inl p 4 4 < 1 ∨ inl p 4 4 > 60000000) := by omega
  unfold bodyFaultConfig
  simp only [gt_iff_lt, Nat.not_lt.mpr source, Nat.not_lt.mpr count, reset, window, Nat.not_lt.mpr cls, if_false]

theorem bodyFaultTest_free (source : inl p 0 2 ≤ 767) (low : 1 ≤ inl p 4 4) (high : inl p 4 4 ≤ 50)
    (free : ∀ y ∈ d.cal.src, y.2.force = false) :
    bodyFaultTest n path p d =
      (.ok (faultTestWord (srcOf (pump (forceClear (inl p 0 2)
          (advance (d.geyser.now + us (inl p 4 4)) (forceSet (inl p 0 2) d)))) (inl p 0 2))),
        pump (forceClear (inl p 0 2) (advance (d.geyser.now + us (inl p 4 4)) (forceSet (inl p 0 2) d)))) := by
  have long : ¬(inl p 4 4 < 1 ∨ inl p 4 4 > 50) := by omega
  have none_ : d.cal.src.any (fun e => e.2.force) = false :=
    List.any_eq_false.mpr fun y hy => by simp [free y hy]
  have kept : (forceSet (inl p 0 2) d).geyser.now = d.geyser.now := by
    unfold forceSet
    exact apply_ite (fun e : Dev => e.geyser.now) _ _ _ |>.trans (ite_self _)
  unfold bodyFaultTest
  simp only [gt_iff_lt, Nat.not_lt.mpr source, long, none_, if_false, Bool.false_eq_true, kept]

/-- The packet of HOLD and of RELEASE_HOLD names its operation in the first inline byte (Table 13.10). -/
theorem errPacket_op (op : Byte) (p : Packet) : inl (errPacket op p) 0 1 = op.toNat := by
  simp [inl, errPacket, fieldAt, bytesAt, leNat]

theorem bodyErrControl_hold (op : inl p 0 1 = 1) : bodyErrControl n path p d = (.ok 1, holdErrN d) := by
  unfold bodyErrControl
  simp only [if_pos op]
  rfl

theorem bodyErrControl_release (op : inl p 0 1 = 2) : bodyErrControl n path p d = (.ok (errWord (releaseHold d)), releaseHold d) := by
  have other : inl p 0 1 ≠ 1 := by omega
  unfold bodyErrControl
  simp only [if_pos op, if_neg other]

end

/-- Settles O14, by what each opcode answers. -/
theorem faultCommands : Obligations.FaultCommands := by
  refine ⟨?_, ?_, ?_, ?_, ?_⟩
  · rintro n t path p s d item inst index x r comes rfl rfl rfl low high hx buffer room hr
    exact comes_body comes (by decide) ((bodyDiagRead_comes comes).trans (bodyDiagRead_read low high hx buffer room hr))
  · rintro n t path p s d i comes rfl source count mask unit low high cls
    obtain ⟨u, next, answered⟩ := comes_answers comes (by decide)
    rw [bodyFaultConfig_comes comes, bodyFaultConfig_ranged source count mask unit low high cls] at answered
    exact ⟨u, next, fun fixed => by rwa [if_pos fixed] at answered, fun open_ => by rwa [if_neg (by simp [open_])] at answered⟩
  · rintro n t path p s d e i comes rfl source low high free rfl
    exact comes_body comes (by decide) ((bodyFaultTest_comes comes).trans (bodyFaultTest_free source low high free))
  · rintro n t path p x s d rfl comes
    exact comes_body (t := t) comes (by decide) ((bodyErrControl_comes comes).trans (bodyErrControl_hold (errPacket_op 1 p)))
  · rintro n t path p x s d e rfl comes rfl
    exact comes_body (t := t) comes (by decide) ((bodyErrControl_comes comes).trans (bodyErrControl_release (errPacket_op 2 p)))

/-! ### Watchdog, monitor and maintenance opcodes (06 R149, R150; 11 R292; 14 R369, R375; 17 R429, R434) -/

section

variable {n : Nat} {path : Path} {p : Packet} {d : Dev}

theorem bodyWatchdogSet_ranged (low : 1000 ≤ inl p 0 4) (high : inl p 0 4 ≤ 10000000) (opens : 1 ≤ inl p 4 4)
    (window : inl p 4 4 + 500 ≤ inl p 0 4) : bodyWatchdogSet n path p d =
      if d.watch.dwd.enabled then (refuseF cState 11 0x20, d)
      else (.ok 0, modDwd (fun w => { w with
        enabled := true, state := .running, periodUs := inl p 0 4, openUs := inl p 4 4, last := d.geyser.now,
        next := 0x00005AA5 }) d) := by
  have period : ¬(inl p 0 4 < 1000 ∨ inl p 0 4 > 10000000) := by omega
  have open_ : ¬(inl p 4 4 < 1 ∨ inl p 4 4 + 500 > inl p 0 4) := by omega
  exact (if_neg period).trans (if_neg open_)

theorem bodyMonitorSet_ranged (number : pay p 0 2 ≤ 4095) (low : 1 ≤ pay p 2 1) (high : pay p 2 1 ≤ 2) (short : 1000 ≤ pay p 4 4)
    (long : pay p 4 4 ≤ 60000000) (some_ : 1 ≤ pay p 10 2) (ordered : pay p 8 2 ≤ pay p 10 2) : bodyMonitorSet n path p d =
      if (kfind? d.watch.monitors (pay p 0 2)).isSome then (refuseF cState 11 0x40, d)
      else (.ok 0, { d with watch := { d.watch with monitors := kput d.watch.monitors (pay p 0 2) {
        kind := pay p 2 1, windowUs := pay p 4 4, minimum := pay p 8 2, maximum := pay p 10 2, start := d.geyser.now } } }) := by
  have kind : ¬(pay p 2 1 < 1 ∨ pay p 2 1 > 2) := by omega
  have window : ¬(pay p 4 4 < 1000 ∨ pay p 4 4 > 60000000) := by omega
  have counts : ¬(pay p 10 2 < 1 ∨ pay p 10 2 < pay p 8 2) := by omega
  exact (if_neg (Nat.not_lt.mpr number)).trans ((if_neg kind).trans ((if_neg window).trans (if_neg counts)))

theorem bodyCheckin_found {x : Monitor} (number : inl p 0 2 ≤ 4095) (found : kfind? d.watch.monitors (inl p 0 2) = some x) :
    bodyCheckin n path p d =
      if x.kind = 2 then (refuseF cState 10 0x20, d) else (.ok 0, countCheckin (inl p 0 2) d) := by
  unfold bodyCheckin
  simp only [gt_iff_lt, Nat.not_lt.mpr number, found, if_false]

theorem bodyScrubPeriod_admitted {c : AdmitConfig} (low : 10 ≤ inl p 0 2) (high : inl p 0 2 ≤ 600)
    (admitted : runAdmission { d with memctl := { d.memctl with passSec := inl p 0 2 } } = .ok c) :
    bodyScrubPeriod n path p d =
      (.accept 0 { session := n, packet := p, path := path, due := boundaryOf (commitsFor d d.geyser.now c (concerned d c [])) },
        queueCommits (commitsFor d d.geyser.now c (concerned d c [])) d) := by
  have range : ¬(inl p 0 2 < 10 ∨ inl p 0 2 > 600) := by omega
  unfold bodyScrubPeriod
  simp only [scrubSeconds, range, if_false]
  rw [show runAdmission (modCtl (fun m => { m with passSec := inl p 0 2 }) d) = .ok c from admitted]

theorem bodyPaceConfig_fixed (mode : inl p 0 1 = 1) (guard : inl p 1 1 = 0) (low : 720 ≤ inl p 2 2) (high : inl p 2 2 ≤ 900)
    (steps : inl p 2 2 % 5 = 0) : bodyPaceConfig n path p d = (.ok 0, modPace (fun x => { x with
      track := false, setpoint := inl p 2 2, target := inl p 2 2, stopped := false, failures := 0 }) d) := by
  have range : ¬(inl p 2 2 < 720 ∨ inl p 2 2 > 900 ∨ inl p 2 2 % 5 ≠ 0) := by omega
  exact (if_pos mode).trans ((if_neg (not_not_intro guard)).trans (if_neg range))

theorem bodyPaceConfig_track (mode : inl p 0 1 = 2) (low : 2 ≤ inl p 1 1) (high : inl p 1 1 ≤ 20) (unused : inl p 2 2 = 0) :
    bodyPaceConfig n path p d = (.ok 0, modPace (fun x => { x with
      track := true, guardPct := inl p 1 1, stopped := false, failures := 0 }) d) := by
  have other : inl p 0 1 ≠ 1 := by omega
  have range : ¬(inl p 1 1 < 2 ∨ inl p 1 1 > 20) := by omega
  exact (if_neg other).trans ((if_pos mode).trans ((if_neg range).trans (if_neg (not_not_intro unused))))

theorem bodyFirmwareStage_buffer (buffer : badBuffer p 0 = none) :
    bodyFirmwareStage n path p d = (.accept 0 { session := n, packet := p, path := path, loaded := false }, d) := by
  unfold bodyFirmwareStage
  simp only [buffer]

theorem bodyWarmReset_magic (magic : inl p 0 4 = 0x5741524D) :
    bodyWarmReset n path p d = (.ok 0, modStart (fun s => { s with commandedAt := some d.geyser.now }) d) :=
  if_neg (not_not_intro magic)

theorem bodyFieldLock_magic (magic : inl p 0 8 = 0x4649454C444C4F43) : bodyFieldLock n path p d =
    if !d.bonnet.fuseEn then (refuseF cState 15 0x20, d)
    else if fieldLocked d then (refuseF cState 11 0x20, d)
    else (.accept 0 { session := n, packet := p, path := path }, d) :=
  if_neg (not_not_intro magic)

end

/-- Settles O15, by what each opcode answers. -/
theorem watchAndMaintenanceCommands : Obligations.WatchAndMaintenanceCommands := by
  refine ⟨?_, ?_, ?_, ?_, ?_, ?_, ?_, ?_, ?_⟩
  · intro n t path p s d comes low high opens window
    obtain ⟨u, next, answered⟩ := comes_answers comes (by decide)
    rw [bodyWatchdogSet_comes comes, bodyWatchdogSet_ranged low high opens window] at answered
    exact ⟨u, next, fun on => by rwa [if_pos on] at answered, fun off => by rwa [if_neg (by simp [off])] at answered⟩
  · rintro n t path p s d m comes rfl number low high short long some_ ordered
    obtain ⟨u, next, answered⟩ := comes_answers comes (by decide)
    rw [bodyMonitorSet_comes comes, bodyMonitorSet_ranged number low high short long some_ ordered] at answered
    exact ⟨u, next, fun set => by rwa [if_pos set] at answered, fun new => by rwa [if_neg (by simp [new])] at answered⟩
  · rintro n t path p s d m x comes rfl number found
    obtain ⟨u, next, answered⟩ := comes_answers comes (by decide)
    rw [bodyCheckin_comes comes, bodyCheckin_found number found] at answered
    exact ⟨u, next, fun kind => by rwa [if_pos kind] at answered, fun kind => by rwa [if_neg kind] at answered⟩
  · rintro n t path p s d v c comes rfl low high admitted
    obtain ⟨u, next, answered⟩ := comes_body comes (by decide) ((bodyScrubPeriod_comes comes).trans
      (bodyScrubPeriod_admitted low high admitted))
    exact ⟨u, _, next, rfl, answered⟩
  · rintro n t path p s d mv comes rfl mode guard low high steps
    exact comes_body comes (by decide) ((bodyPaceConfig_comes comes).trans (bodyPaceConfig_fixed mode guard low high steps))
  · intro n t path p s d comes mode low high unused
    exact comes_body comes (by decide) ((bodyPaceConfig_comes comes).trans (bodyPaceConfig_track mode low high unused))
  · intro n t path p s d comes buffer
    exact comes_body comes (by decide) ((bodyFirmwareStage_comes comes).trans (bodyFirmwareStage_buffer buffer))
  · intro n t path p s d comes magic
    exact comes_body comes (by decide) ((bodyWarmReset_comes comes).trans (bodyWarmReset_magic magic))
  · intro n t path p s d comes magic
    obtain ⟨u, next, answered⟩ := comes_answers comes (by decide)
    rw [bodyFieldLock_comes comes, bodyFieldLock_magic magic] at answered
    refine ⟨u, next, fun off => ?_, fun on locked => ?_, fun on free => ?_⟩
    · rwa [if_pos (by simp [off])] at answered
    · rwa [if_neg (by simp [on]), if_pos locked] at answered
    · rwa [if_neg (by simp [on]), if_neg (by simp [free])] at answered

/-! ### Fabric opcodes (19 R460 to R463, R485, R486) -/

section

variable {n : Nat} {path : Path} {p : Packet} {d : Dev}

/-- A device outside any fabric, with no context and a port of the role FABRIC, takes the join; a manager founds the fabric. -/
theorem bodyFabricJoin_taken (ports : joinPorts p < 16) (good : badJoin p = none) (outside : inFabric d = false)
    (closed : anyContext d = false) (first : joining? d = none)
    (port : ∃ i, i < 4 ∧ (joinPorts p).testBit i = true ∧ (portOf d i).role = .fabric) :
    bodyFabricJoin n path p d =
      if pay p 8 1 = 1 then
        (.accept 0 { session := n, packet := p, path := path, due := d.geyser.now, done := BitVec.ofNat 64 (pay p 9 1) },
          setMaster (journalAdd 0 (.member (pay p 9 1) 1 true Config.serial) { d with fabric := joinState 1 p d.fabric }))
      else
        (.accept 0 { session := n, packet := p, path := path, due := d.geyser.now, done := BitVec.ofNat 64 (pay p 9 1),
                     loaded := false }, { d with fabric := joinState 0 p d.fabric }) := by
  obtain ⟨i, hi, hbit, hrole⟩ := port
  have found : ((List.range 4).any fun i => (joinPorts p).testBit i && (portOf d i).role == .fabric) = true :=
    List.any_eq_true.mpr ⟨i, List.mem_range.mpr hi, by simp [hbit, hrole]⟩
  have unreserved : joinPorts p / 16 = 0 := Nat.div_eq_of_lt ports
  unfold bodyFabricJoin
  simp only [unreserved, good, outside, closed, first, found, ne_eq, not_true_eq_false, if_false, Bool.false_eq_true, or_self,
    Option.isSome_none, Bool.not_true]
  rfl

theorem bodyFabricLeave_free (member : inFabric d = true) (unmapped : mappedHere d = false)
    (last : d.fabric.role ≠ 1 ∨ othersInService d = false) : bodyFabricLeave n path p d =
      (.accept 0 { session := n, packet := p, path := path, due := d.geyser.now }, d) := by
  have free : (mappedHere d || (d.fabric.role == 1 && othersInService d)) = false := by
    rcases last with h | h <;> simp [unmapped, h]
  unfold bodyFabricLeave
  simp only [member, free, Bool.not_true, if_false, Bool.false_eq_true]

theorem bodyFabricStatus_eq : bodyFabricStatus n path p d =
    if inFabric d then (.ok (fabricStatusWord d), d) else (.refuse cNotMember (refusalWord 0 noField), d) := rfl

/-- A remap at the manager, of a context that this device, the map or the unplaced list names, to a sibling in service that
fits. -/
theorem bodyContextRemap_taken {e : Dev} {own moves : Bool} (member : inFabric d = true) (manager : d.fabric.role = 1)
    (range : inl p 0 1 ≤ 63) (hown : own = ((ctxOf d p.context).state != .closed))
    (hmoves : moves = (own && inl p 0 1 != d.fabric.device))
    (known : own = true ∨ (kfind? d.fabric.map p.context.toNat).isSome ∨ p.context ∈ d.fabric.unplaced)
    (free : own = true → badPart p (ctxOf d p.context).partition = none ∧ ctxPending d p.context = false ∧
      (ctxOf d p.context).state ≠ .draining ∧ awaits d [0x0703] (fun q => q.context == p.context) = false)
    (serves : ∃ m, kfind? d.fabric.members (inl p 0 1) = some m ∧ m.inService = true) (fits : (siblingFits d).1 = true)
    (he : e = { d with
      free := d.free + 1, fabric := { d.fabric with unplaced := d.fabric.unplaced.filter (· != p.context) } }) :
    bodyContextRemap n path p d = (.accept 0 {
        session := n, packet := p, path := path, due := d.geyser.now, loaded := !moves, done := BitVec.ofNat 64 (inl p 0 1) },
      if moves then scheduleRemap p.context (inl p 0 1) e else e) := by
  obtain ⟨m, found, service⟩ := serves
  have part : (if own then badPart p (ctxOf d p.context).partition else none) = none := by
    split
    next h => exact (free h).1
    · rfl
  have object : (!own && (kfind? d.fabric.map p.context.toNat).isNone && !d.fabric.unplaced.contains p.context) = false := by
    rcases known with h | h | h
    · simp [h]
    · obtain ⟨v, hv⟩ := Option.isSome_iff_exists.mp h
      simp [hv]
    · simp [h]
  have unheld : (own && (ctxPending d p.context || (ctxOf d p.context).state == .draining ||
      awaits d [0x0703] (fun q => q.context == p.context))) = false := by
    cases own with
    | false => rfl
    | true =>
      obtain ⟨-, a, b, c⟩ := free rfl
      simp [a, b, c]
  have fits' : Config.freeNat (fresh d).1 % 2 == 1 := fits
  subst hmoves hown
  unfold bodyContextRemap
  simp only [member, manager, gt_iff_lt, Nat.not_lt.mpr range, object, part, unheld, found, service, siblingFits, fits', ne_eq,
    not_true_eq_false, if_false, Bool.false_eq_true, Bool.not_true, Option.map_some, Option.getD_some, Bool.or_self]
  subst he
  rfl

end

/-- Settles O16, by what each opcode answers. -/
theorem fabricCommands : Obligations.FabricCommands := by
  refine ⟨?_, ?_, ?_, ?_, ?_⟩
  · rintro n t path p s d a comes ports good outside closed first port rfl
    obtain ⟨u, next, answered⟩ := comes_answers comes (by decide)
    rw [bodyFabricJoin_comes comes, bodyFabricJoin_taken ports good outside closed first port] at answered
    refine ⟨u, next, fun manager => ?_, fun other => ?_⟩
    · rw [if_pos manager] at answered
      rwa [decide_eq_true manager]
    · rw [if_neg other] at answered
      rwa [decide_eq_false other]
  · rintro r p f g rfl
    exact ⟨rfl, rfl, rfl, rfl, rfl, rfl, rfl, rfl, rfl, rfl⟩
  · intro n t path p s d comes member unmapped last
    exact comes_body comes (by decide) ((bodyFabricLeave_comes comes).trans (bodyFabricLeave_free member unmapped last))
  · rintro n t path p s d e target own moves comes rfl member manager range hown hmoves known free serves fits he
    exact comes_body comes (by decide) ((bodyContextRemap_comes comes).trans
      (bodyContextRemap_taken member manager range hown hmoves known free serves fits he))
  · intro n t path p s d comes
    obtain ⟨u, next, answered⟩ := comes_answers comes (by decide)
    rw [bodyFabricStatus_comes comes, bodyFabricStatus_eq] at answered
    exact ⟨u, next, fun outside => by rwa [if_neg (by simp [outside])] at answered,
      fun member => by rwa [if_pos member] at answered⟩

end Sys2Proof.Machine
end

section
/-! The work behind a command (12 R317; 13 R329, R332, R337, R338): its final reply, and what a bulk transfer brings. -/

namespace Sys2Proof.Machine

open Sys2Proof

/-! ### What DONE brings (R329) -/

section

variable {a : Accepted} {d : Dev} {o : W16 × W64}

/-- A decided outcome other than DONE brings nothing. -/
theorem finalWork_decided (ho : o = a.outcome.getD (cDone, a.done)) (other : o.1 ≠ cDone) : finalWork a d = (o, d) := by
  subst ho
  exact if_pos other

/-- DONE brings what its opcode says; the word of every opcode but ATTEST was decided before. -/
theorem finalWork_done (ho : o = a.outcome.getD (cDone, a.done)) (done : o.1 = cDone) :
    finalWork a d = match a.packet.opcode.toNat with
      | 0x0108 => attestNow a d
      | 0x0201 => (o, match a.plan with
          | some (i, v) => modPlans (fun x => { x with loaded := x.loaded.map fun l =>
              if l.plan.identifier == i && l.plan.version == v then { l with active := true } else l }) d
          | none => d)
      | 0x0203 => (o, blobUsable a.packet d)
      | 0x0304 => (o, streamOpened a.packet d)
      | 0x0601 => (o, periodSet a.packet d)
      | 0x0702 => (o, leaveFabric d)
      | 0x0804 => (o, lockFuse d)
      | _ => (o, d) := by
  subst ho
  exact (if_neg (not_not_intro done)).trans rfl

theorem finalWork_result (ho : o = a.outcome.getD (cDone, a.done)) (done : o.1 = cDone) (other : a.packet.opcode ≠ 0x0108) :
    (finalWork a d).1 = o := by
  rw [finalWork_done ho done]
  split
  · exact absurd (BitVec.eq_of_toNat_eq (y := (0x0108 : W16)) ‹_›) other
  all_goals rfl

theorem finalWork_plain (ho : o = a.outcome.getD (cDone, a.done)) (done : o.1 = cDone)
    (other : a.packet.opcode.toNat ∉ [0x0108, 0x0201, 0x0203, 0x0304, 0x0601, 0x0702, 0x0804]) : (finalWork a d).2 = d := by
  rw [finalWork_done ho done]
  split
  case h_8 => rfl
  all_goals exact absurd (by simp [‹a.packet.opcode.toNat = _›]) other

theorem length_leBytes (n v : Nat) : (leBytes n v).length = n := by
  induction n generalizing v with
  | zero => rfl
  | succ n ih => exact congrArg (· + 1) (ih _)

theorem length_beBytes (n v : Nat) : (beBytes n v).length = n := List.length_reverse.trans (length_leBytes n v)

/-- A report that fits the buffer is written there and signed (R358). -/
theorem attestNow_fits {b : List Byte} (hb : b = attestBody (bytesAt a.packet.inl 0 16) d) (fits : b.length + 64 ≤ bufLen a.packet 0) :
    attestNow a d = ((cDone, BitVec.ofNat 64 (b.length + 64)),
      hostWrite (bufAddr a.packet 0) (b ++ beBytes 64 (Config.sm2Sign b d.free).toNat) { d with free := d.free + 1 }) := by
  unfold attestNow
  rw [← hb]
  have short : ¬b.length + 64 > bufLen a.packet 0 := Nat.not_lt.mpr fits
  have long : (b ++ beBytes 64 (Config.sm2Sign b d.free).toNat).length = b.length + 64 := by
    rw [List.length_append, length_beBytes]
  exact (if_neg short).trans (by rw [← long]; rfl)

end

/-! ### Final replies (R317) -/

/-- An accepted command's session and counter are those it was looked up by. -/
theorem acceptedOf?_names {n : Nat} {c : W64} {a : Accepted} {d : Dev} (found : acceptedOf? d n c = some a) :
    a.session = n ∧ a.packet.counter = c := by
  have h := List.find?_some found
  simpa using h

theorem commandFinal_ready {n : Nat} {c : W64} {a : Accepted} {d : Dev} (found : acceptedOf? d n c = some a) (loaded : a.loaded = true)
    (mirror : a.mirror = none) (due : a.due ≤ d.geyser.now) (up : stewardUp d = true) :
    commandFinal n c d = serveRings (finalReply a (finalWork a d).1.1 (finalWork a d).1.2 (finalWork a d).2) := by
  unfold commandFinal
  simp only [found, loaded, mirror, up, Bool.not_true, Option.isSome_none, Bool.or_false, Bool.false_or, decide_eq_true_eq,
    if_neg (Nat.not_lt.mpr due)]

theorem commandFinal_waits {n : Nat} {c : W64} {a : Accepted} {d : Dev} (found : acceptedOf? d n c = some a)
    (waits : a.loaded = false ∨ a.mirror.isSome ∨ d.geyser.now < a.due ∨ stewardUp d = false) : commandFinal n c d = d := by
  have held : (!a.loaded || a.mirror.isSome || decide (d.geyser.now < a.due) || !stewardUp d) = true := by
    rcases waits with h | h | h | h <;> simp [h]
  unfold commandFinal
  simp only [found, if_pos held]

/-- What the final reply does before it goes to its ring: the command is no longer accepted, and its entry of the replay store holds
the reply. -/
def repliedIn (a : Accepted) (r : Reply) (d : Dev) : Dev :=
  modSess a.session (fun s => { s with store := s.store.map fun e =>
      if e.counter == a.packet.counter then { e with reply := r, waiting := false } else e })
    (journalAdd a.packet.context (.final a.packet.session r)
      { d with accepted := d.accepted.filter fun b => !(b.session == a.session && b.packet.counter == a.packet.counter) })

theorem repliedIn_sessOf (a : Accepted) (r : Reply) (d : Dev) : sessOf (repliedIn a r d) a.session =
    { sessOf d a.session with store := (sessOf d a.session).store.map fun e =>
      if e.counter == a.packet.counter then { e with reply := r, waiting := false } else e } := by
  refine (sessOf_modSess _ a.session _).trans ?_
  split
  next h => rw [h]; rfl
  · rfl

/-- The final reply by whether the session has a ring pair (R335). -/
theorem finalReply_eq (a : Accepted) (code : W16) (w : W64) (d : Dev) : finalReply a code w d =
    match (sessOf (repliedIn a (mkReply a.session true code 2 w a.packet d) d) a.session).rings with
    | some (_, rq) => closeMarked a.session (writeSlot rq (mkReply a.session true code 2 w a.packet d)
        (repliedIn a (mkReply a.session true code 2 w a.packet d) d))
    | none => modSess a.session (fun s => { s with held := s.held ++ [mkReply a.session true code 2 w a.packet d] })
        (repliedIn a (mkReply a.session true code 2 w a.packet d) d) := rfl

theorem finalReply_ring {a : Accepted} {code : W16} {w : W64} {d : Dev} {q rq : Nat} (rings : (sessOf d a.session).rings = some (q, rq))
    (stays : (sessOf d a.session).closing = false) :
    finalReply a code w d = writeSlot rq (mkReply a.session true code 2 w a.packet d)
      (repliedIn a (mkReply a.session true code 2 w a.packet d) d) := by
  rw [finalReply_eq, repliedIn_sessOf, rings]
  refine closeMarked_unmarked ?_
  have kept := congrArg Session.closing (repliedIn_sessOf a (mkReply a.session true code 2 w a.packet d) d)
  exact kept.trans stays

theorem finalReply_held {a : Accepted} {code : W16} {w : W64} {d : Dev} (rings : (sessOf d a.session).rings = none) :
    finalReply a code w d = modSess a.session (fun s => { s with held := s.held ++ [mkReply a.session true code 2 w a.packet d] })
      (repliedIn a (mkReply a.session true code 2 w a.packet d) d) := by
  rw [finalReply_eq, repliedIn_sessOf, rings]

/-- No accepted command of the session with the counter is left. -/
theorem acceptedOf?_repliedIn (a : Accepted) (r : Reply) (d : Dev) :
    acceptedOf? (repliedIn a r d) a.session a.packet.counter = none := by
  refine List.find?_eq_none.mpr fun x hx h => ?_
  have kept := (List.mem_filter.mp hx).2
  rw [h] at kept
  exact absurd kept Bool.false_ne_true

/-- The fields of a final reply that name its command. -/
theorem finalReply_names (a : Accepted) (code : W16) (w : W64) (d : Dev) :
    (mkReply a.session true code 2 w a.packet d).flags = 2 ∧
      (mkReply a.session true code 2 w a.packet d).counter = a.packet.counter ∧
      (mkReply a.session true code 2 w a.packet d).tag = a.packet.tag ∧
      (mkReply a.session true code 2 w a.packet d).opcode = a.packet.opcode := by
  unfold mkReply
  dsimp only
  split <;> exact ⟨rfl, rfl, rfl, rfl⟩

/-- Settles O17, by what DONE brings for each opcode and by where the final reply goes. -/
theorem finalReplies : Obligations.FinalReplies := by
  refine ⟨?_, ?_, ?_, ?_⟩
  · rintro t n c s d a o rfl found ho loaded mirror due up
    obtain ⟨u, next, done⟩ := exists_pumpA (fun d => commandFinal n c (advance t d)) s
    rw [commandFinal_ready found loaded mirror due up] at done
    refine ⟨u, _, _, next, done, fun other => ?_, fun done_ other => finalWork_result ho done_ other,
      fun done_ other => finalWork_plain ho done_ other, fun done_ op i v plan => ?_, fun done_ op => ?_, fun done_ op => ?_,
      fun done_ op => ?_, fun done_ op => ?_, fun done_ op => ?_, fun done_ op b hb fits => ?_⟩
    · rw [finalWork_decided ho other]
      exact ⟨rfl, rfl⟩
    · rw [finalWork_done ho done_, op]
      show (match a.plan with | some (i, v) => _ | none => _) = _
      rw [plan]
      rfl
    · rw [finalWork_done ho done_, op]
      rfl
    · rw [finalWork_done ho done_, op]
      rfl
    · rw [finalWork_done ho done_, op]
      rfl
    · rw [finalWork_done ho done_, op]
      rfl
    · rw [finalWork_done ho done_, op]
      exact ⟨rfl, rfl⟩
    · have signed : finalWork a (advance t s.dev) = attestNow a (advance t s.dev) := by
        rw [finalWork_done ho done_, op]
        rfl
      rw [signed, attestNow_fits hb fits]
      exact ⟨rfl, rfl, rfl⟩
  · rintro t n c s d a rfl found waits
    obtain ⟨u, next, done⟩ := exists_pumpA (fun d => commandFinal n c (advance t d)) s
    rw [commandFinal_waits found waits] at done
    exact ⟨u, next, done⟩
  · rintro a code w d u q rq rings stays rfl
    obtain ⟨status, result⟩ := mkReply_fields a.session true code 2 w a.packet d
    obtain ⟨flags, counter, tag, op⟩ := finalReply_names a code w d
    rw [finalReply_ring rings stays]
    refine ⟨⟨_, kfind?_kput_self _ _ _, status, result, flags, counter, tag, op, fun e he same => ?_⟩, acceptedOf?_repliedIn a (mkReply a.session true code 2 w a.packet d) d⟩
    have kept : (sessOf (writeSlot rq (mkReply a.session true code 2 w a.packet d)
        (repliedIn a (mkReply a.session true code 2 w a.packet d) d)) a.session).store = _ :=
      congrArg Session.store (repliedIn_sessOf a (mkReply a.session true code 2 w a.packet d) d)
    rw [kept] at he
    obtain ⟨x, -, rfl⟩ := List.mem_map.mp he
    by_cases h : x.counter == a.packet.counter
    · rw [if_pos h]
      exact ⟨rfl, rfl⟩
    · rw [if_neg h] at same
      exact absurd (beq_iff_eq.mpr same) h
  · rintro a code w d u rings rfl
    obtain ⟨status, result⟩ := mkReply_fields a.session true code 2 w a.packet d
    rw [finalReply_held rings]
    refine ⟨_, ?_, status, result, rfl⟩
    have held := congrArg Session.held (sessOf_modSess (repliedIn a (mkReply a.session true code 2 w a.packet d) d) a.session
      (fun s => { s with held := s.held ++ [mkReply a.session true code 2 w a.packet d] }))
    refine held.trans ((apply_ite Session.held _ _ _).trans ((ite_self _).trans ?_))
    rw [repliedIn_sessOf]

/-! ### Bulk transfers (R332) -/

section

variable {a : Accepted} {d : Dev} {b : List Byte} {k : Nat}

/-- A transfer that a host-side channel has carried for a command whose object has not been read yet. -/
theorem bulkComplete_carried {n : Nat} {c : W64} (found : acceptedOf? d n c = some a)
    (op : a.packet.opcode.toNat ∈ [0x0106, 0x0201, 0x0203, 0x0802]) (loaded : a.loaded = false) (open_ : a.outcome = none)
    (mirror : a.mirror = none) (up : stewardUp d = true) (link : d.board.linkUp = true) (channel : (hostChannel? d).isSome = true) :
    bulkComplete n c b k d = transferDone a b k d := by
  have carried : ([0x0106, 0x0201, 0x0203, 0x0802].contains a.packet.opcode.toNat && !a.loaded && a.outcome.isNone &&
      a.mirror.isNone && stewardUp d && d.board.linkUp && (hostChannel? d).isSome) = true := by
    rw [List.contains_iff_mem.mpr op, loaded, open_, mirror, up, link, channel]
    rfl
  unfold bulkComplete
  simp only [found]
  exact if_pos carried

theorem transferDone_failed (failed : 3 ≤ k) : transferDone a b k d =
    reloadAttn (transferIds a.packet).1 0 (transferIds a.packet).2 0 (decide_ a cPoisoned 0 d.geyser.now d) :=
  if_pos failed

theorem transferDone_object (whole : k < 3) : transferDone a b k d = match a.packet.opcode.toNat with
    | 0x0106 => decide_ a (enrolLoaded a b d).1.1 (enrolLoaded a b d).1.2 d.geyser.now (enrolLoaded a b d).2
    | 0x0201 => planLoaded a b d
    | 0x0203 => weightsLoaded a b d
    | _ => imageLoaded a b d :=
  (if_neg (Nat.not_le.mpr whole)).trans rfl

theorem enrolLoaded_refused {r : W16 × W64} (refused : enrolCheck (sessOf d a.session).provisioning b d = some r) :
    enrolLoaded a b d = (r, d) := by
  unfold enrolLoaded
  simp only [refused]

theorem enrolLoaded_enrolled (good : enrolCheck (sessOf d a.session).provisioning b d = none)
    (normal : (sessOf d a.session).provisioning = false) :
    enrolLoaded a b d = ((cDone, BitVec.ofNat 64 (enrolKey false b d).1), (enrolKey false b d).2) := by
  rw [normal] at good
  unfold enrolLoaded
  simp only [normal, good, Bool.false_eq_true, if_false]

theorem planLoaded_length (wrong : b.length ≠ bufLen a.packet 0 ∨ bufLen a.packet 0 ≠ (readPlan b).totalLength + 128) :
    planLoaded a b d = decide_ a cLayout (refusalWord 6 0x48) d.geyser.now d :=
  if_pos wrong

theorem planLoaded_whole (length : b.length = bufLen a.packet 0) (total : bufLen a.packet 0 = (readPlan b).totalLength + 128) :
    planLoaded a b d = match planBroken (readPlan b) d with
      | some r => decide_ a r.1 r.2 d.geyser.now d
      | none => match planOf? d (readPlan b).identifier (readPlan b).version with
        | some old => repairPlan a (readPlan b) old d
        | none => newPlan a (readPlan b) d := by
  have right : ¬(b.length ≠ bufLen a.packet 0 ∨ bufLen a.packet 0 ≠ (readPlan b).totalLength + 128) := by omega
  exact (if_neg right).trans rfl

theorem imageLoaded_good (length : bufLen a.packet 0 = b.length) (good : imageBroken b d = none) :
    imageLoaded a b d = decide_ a cDone (BitVec.ofNat 64 (fieldAt b 8 4)) d.geyser.now
      (modBonnet (fun x => { x with staged := some (BitVec.ofNat 32 (fieldAt b 8 4), fieldAt b 6 2) }) d) := by
  unfold imageLoaded
  simp only [if_neg (not_not_intro length), good]

/-- The plans with a new version behind the others (R243). -/
def withPlan (a : Accepted) (p : Plan) (d : Dev) : Dev :=
  modPlans (fun x => { x with
    loaded := x.loaded ++ [{ plan := p, partition := a.packet.partition.toNat, order := d.plans.nextOrder, digest := planDigest p,
                             since := d.geyser.now + ms 1 }]
    nextOrder := x.nextOrder + 1 }) d

theorem newPlan_admitted {p : Plan} {c : AdmitConfig} (admitted : runAdmission (withPlan a p d) = .ok c) :
    newPlan a p d = modAccepted a.session a.packet.counter (fun x => { x with plan := some (p.identifier, p.version) })
      (decide_ a cDone (BitVec.ofNat 64 (bufLen a.packet 0))
        (boundaryOf (commitsFor (withPlan a p d) d.geyser.now c (concerned (withPlan a p d) c (p.golden.map (·.partition)))))
        (queueCommits (commitsFor (withPlan a p d) d.geyser.now c (concerned (withPlan a p d) c (p.golden.map (·.partition))))
          (setMasks (storeBytes
            (allocBase (allocate (.tensors p.identifier p.version) a.packet.partition.toNat .ephemeral false (scratchBytes p)
              (land (.plan p.identifier p.version) a.packet.partition.toNat (p.totalLength + 128) (withPlan a p d)))
              (.plan p.identifier p.version)) a.packet.partition.toNat p.raw
            (allocate (.tensors p.identifier p.version) a.packet.partition.toNat .ephemeral false (scratchBytes p)
              (land (.plan p.identifier p.version) a.packet.partition.toNat (p.totalLength + 128) (withPlan a p d))))))) := by
  unfold withPlan at admitted ⊢
  unfold newPlan
  dsimp only
  rw [admitted]

theorem newPlan_refused {p : Plan} {f : Shortfall} (short : runAdmission (withPlan a p d) = .error f) :
    newPlan a p d = decide_ a f.code (shortfallWord f) d.geyser.now d := by
  unfold withPlan at short
  unfold newPlan
  dsimp only
  rw [short]

/-- A blob that no resident blob has the identity of is bound and stored when a version names it (R338). -/
theorem weightsLoaded_new {id : W64} {blob : W32} {l : LoadedPlan} {r : List LoadedPlan} (hid : id = BitVec.ofNat 64 (inl a.packet 0 8))
    (hblob : blob = BitVec.ofNat 32 (inl a.packet 8 4)) (versions : versionsOf d id = l :: r) (length : bufLen a.packet 0 = b.length)
    (new : ∀ x ∈ d.plans.blobs, x.id ≠ blob) : weightsLoaded a b d =
      if matching d id blob b.length (Config.sm3 b) = [] then decide_ a cLayout (refusalWord 2 noField) d.geyser.now d
      else decide_ a cDone (BitVec.ofNat 64 (lineCount b.length)) d.geyser.now (modPlans (fun p => { p with
          blobs := p.blobs ++ [{ id := blob, digest := Config.sm3 b, bytes := b, partition := l.partition,
                                 bound := matching d id blob b.length (Config.sm3 b) }] })
        (storeBytes (allocBase (land (.blob blob l.partition) l.partition b.length d) (.blob blob l.partition)) l.partition b
          (land (.blob blob l.partition) l.partition b.length d))) := by
  have absent : ∀ digest : Option W256, d.plans.blobs.find? (fun x => x.id == blob && x.bytes.length == b.length &&
      x.bound.any (fun e => e.1 == id) && digest.all (· == x.digest)) = none := fun digest =>
    List.find?_eq_none.mpr fun x hx => by simp [new x hx]
  subst hid hblob
  unfold weightsLoaded
  simp only [if_neg (not_not_intro length), absent, versions, List.isEmpty_iff]
  rfl

end

/-- Settles O18, by what each object brings once its transfer has ended. -/
theorem bulkTransfers : Obligations.BulkTransfers := by
  refine ⟨?_, ?_, ?_, ?_, ?_, ?_⟩
  · rintro t n c b k s d a rfl found op loaded open_ mirror up link channel
    have carried := bulkComplete_carried (b := b) (k := k) found op loaded open_ mirror up link channel
    have next : exec (.bulkTransferComplete t n c b k) s = .next (landed { s with dev := transferDone a b k (advance t s.dev) }) := by
      rw [← carried]
      rfl
    obtain ⟨rfl, -⟩ := acceptedOf?_names found
    refine ⟨_, _, next, rfl, exec_lasts (lasting_queue s.pending) next rfl,
      fun failed => ?_, fun whole enrol r refused => ?_, fun whole enrol good normal => ?_, ?_, fun whole weights => ?_,
      fun whole image length good => ?_⟩
    · rw [transferDone_failed failed]
      exact ⟨rfl, rfl⟩
    · rw [transferDone_object whole, enrol]
      show decide_ a (enrolLoaded a b _).1.1 (enrolLoaded a b _).1.2 _ (enrolLoaded a b _).2 = _
      rw [enrolLoaded_refused refused]
    · rw [transferDone_object whole, enrol]
      show decide_ a (enrolLoaded a b _).1.1 (enrolLoaded a b _).1.2 _ (enrolLoaded a b _).2 = _
      rw [enrolLoaded_enrolled good normal]
    · rintro whole plan p rfl
      have isPlan : transferDone a b k (advance t s.dev) = planLoaded a b (advance t s.dev) := by
        rw [transferDone_object whole, plan]
        rfl
      rw [isPlan]
      refine ⟨planLoaded_length, fun length total => ?_⟩
      rw [planLoaded_whole length total]
      refine ⟨fun r broken => ?_, fun good new => ?_, fun l good old => ?_⟩
      · rw [broken]
      · rw [good, new]
      · rw [good, old]
    · rw [transferDone_object whole, weights]
      rfl
    · rw [transferDone_object whole, image]
      exact imageLoaded_good length good
  · rintro a p d c part e g rfl rfl admitted rfl
    exact ⟨_, rfl, newPlan_admitted admitted⟩
  · intro a p d f short
    exact newPlan_refused short
  · intro a p l d
    refine ⟨fun inactive => ?_, fun active other => ?_⟩
    · exact if_pos (by simp [inactive])
    · exact (if_neg (by simp [active])).trans (if_pos other)
  · rintro a b d id blob part l r hid hblob versions rfl
    refine ⟨fun wrong => if_pos wrong, fun length new => ?_⟩
    rw [weightsLoaded_new hid hblob versions length new]
    exact ⟨fun none_ => if_pos none_, fun some_ => ⟨_, rfl, if_neg some_⟩⟩
  · intro a code w due d
    rfl

end Sys2Proof.Machine
end

section
/-! The subject's writes (01 R15, R16; 03 R74 to R77, R541; 10 R265; 17 R435, R438): ingress tokens, control blocks, check-ins, BAR2. -/

namespace Sys2Proof.Machine

open Sys2Proof

/-! ### Ingress tokens (R265) -/

section

variable {slot size : Nat} {d : Dev}

theorem takeIngress_paid (paid : size * sec 1 ≤ ingressAt (slotOf d slot) d.geyser.now) : takeIngress slot size d =
    (true, modSlot slot (fun k => { k with
      ingressLevel := ingressAt (slotOf d slot) d.geyser.now - size * sec 1, ingressAt := d.geyser.now }) d) :=
  if_neg (Nat.not_lt.mpr paid)

/-- A write that finds too few tokens is discarded and counted, with attention at the first. -/
def discardWrite (slot : Nat) (d : Dev) : Dev :=
  countRaise 1 (fun d => (slotOf d slot).discards) (fun k => modSlot slot fun s => { s with discards := k }) 1 10 (0x0200 + slot) 0 0 d

theorem takeIngress_short (short : ingressAt (slotOf d slot) d.geyser.now < size * sec 1) :
    takeIngress slot size d = (false, discardWrite slot d) :=
  if_pos short

theorem discardWrite_frame (slot : Nat) (d : Dev) :
    discardWrite slot d = { d with slots := (discardWrite slot d).slots, attn := (discardWrite slot d).attn } ∧
      (slotOf (discardWrite slot d) slot).discards.n = ((slotOf d slot).discards.add 1).n ∧
      (slotOf (discardWrite slot d) slot).ingressLevel = (slotOf d slot).ingressLevel := by
  have counted : slotOf (modSlot slot (fun s => { s with discards := ((slotOf d slot).discards.add 1).tell }) d) slot =
      { slotOf d slot with discards := ((slotOf d slot).discards.add 1).tell } := slotOf_modSlot ..
  have level := congrArg Slot.ingressLevel counted
  have count := congrArg (fun s : Slot => s.discards.n) counted
  unfold discardWrite countRaise
  dsimp only
  split
  · exact ⟨rfl, count, level⟩
  · exact ⟨rfl, count, level⟩

end

/-! ### Writes to a control block (R75 to R77, R541) -/

section

variable {who : W16} {c : W32} {size : Nat} {f : Dev → Dev} {d : Dev}

theorem viaIngress_foreign (isOpen : (ctxOf d c).state ≠ .closed) (foreign : boundTo d (ctxOf d c).slot who = false) :
    viaIngress who c size f d = foreignWrite (ctxOf d c).slot who d :=
  (if_neg isOpen).trans (if_pos (by rw [foreign]; rfl))

theorem viaIngress_bound (isOpen : (ctxOf d c).state ≠ .closed) (bound : boundTo d (ctxOf d c).slot who = true) :
    viaIngress who c size f d = match takeIngress (ctxOf d c).slot size d with
      | (paid, e) => if paid then f e else e :=
  (if_neg isOpen).trans (if_neg (by rw [bound]; exact Bool.false_ne_true))

theorem viaIngress_short (isOpen : (ctxOf d c).state ≠ .closed) (bound : boundTo d (ctxOf d c).slot who = true)
    (short : ingressAt (slotOf d (ctxOf d c).slot) d.geyser.now < size * sec 1) :
    viaIngress who c size f d = discardWrite (ctxOf d c).slot d := by
  rw [viaIngress_bound isOpen bound, takeIngress_short short]
  rfl

theorem viaIngress_paid (isOpen : (ctxOf d c).state ≠ .closed) (bound : boundTo d (ctxOf d c).slot who = true)
    (paid : size * sec 1 ≤ ingressAt (slotOf d (ctxOf d c).slot) d.geyser.now) :
    viaIngress who c size f d = f (modSlot (ctxOf d c).slot (fun k => { k with
      ingressLevel := ingressAt (slotOf d (ctxOf d c).slot) d.geyser.now - size * sec 1, ingressAt := d.geyser.now }) d) := by
  rw [viaIngress_bound isOpen bound, takeIngress_paid paid]
  rfl

/-- Paying a write leaves who the slot is bound to. -/
theorem boundTo_paid (slot : Nat) (l : Nat) (t : Time) (d : Dev) (who : W16) :
    boundTo (modSlot slot (fun k => { k with ingressLevel := l, ingressAt := t }) d) slot who = boundTo d slot who := by
  unfold boundTo
  rw [slotOf_modSlot]

variable {v : Nat} {boundary relaxed : Bool} {x : Context} {q : Queue}

theorem producerUpdate_batch (hx : ctxOf d c = x) (hq : queueOf d x.evQueue = q) (isOpen : x.state ≠ .closed)
    (bound : boundTo d x.slot who = true) (one : size = 8) (whole : boundary = true) (strict : relaxed = false) (lines : v % 64 = 0)
    (ahead : q.producer < v) (within : v ≤ q.consumer + 2 ^ q.exp) :
    producerUpdate who c v size boundary relaxed d = modCtx c (fun x => { x with batches := x.batches ++ [(v, d.geyser.now)] })
      (modQueue x.evQueue (fun q => { q with producer := v }) d) := by
  subst hx hq
  exact (if_neg isOpen).trans ((if_neg (by rw [bound]; exact Bool.false_ne_true)).trans
    (if_pos ⟨one, lines, ahead, within, whole, strict⟩))

theorem producerUpdate_malformed (hx : ctxOf d c = x) (hq : queueOf d x.evQueue = q) (isOpen : x.state ≠ .closed)
    (bound : boundTo d x.slot who = true) (bad : size ≠ 8 ∨ boundary = false ∨ relaxed = true ∨ v % 64 ≠ 0 ∨ v ≤ q.producer ∨
      q.consumer + 2 ^ q.exp < v) : producerUpdate who c v size boundary relaxed d = evMalformed c d := by
  subst hx hq
  refine (if_neg isOpen).trans ((if_neg (by rw [bound]; exact Bool.false_ne_true)).trans (if_neg ?_))
  rintro ⟨one, lines, ahead, within, whole, strict⟩
  rcases bad with h | h | h | h | h | h
  · exact h one
  · exact Bool.false_ne_true (h.symm.trans whole)
  · exact Bool.false_ne_true (strict.symm.trans h)
  · exact h lines
  · exact Nat.not_lt.mpr h ahead
  · exact Nat.not_lt.mpr within h

/-- A batch moves the producer of its evidence queue and stands last among the batches of its context. -/
theorem batch_ends (hx : ctxOf d c = x) (hq : queueOf d x.evQueue = q) (t : Time) :
    queueOf (modCtx c (fun x => { x with batches := x.batches ++ [(v, t)] })
      (modQueue x.evQueue (fun q => { q with producer := v }) d)) x.evQueue = { q with producer := v } ∧
    ctxOf (modCtx c (fun x => { x with batches := x.batches ++ [(v, t)] })
      (modQueue x.evQueue (fun q => { q with producer := v }) d)) c = { x with batches := x.batches ++ [(v, t)] } := by
  subst hx hq
  have moved := queueOf_modQueue d (ctxOf d c).evQueue (fun q => { q with producer := v })
  exact ⟨moved, ctxOf_modCtx _ c _⟩

theorem challengeConsumer_taken (hx : ctxOf d c = x) (hq : queueOf d x.chQueue = q) (isOpen : x.state ≠ .closed)
    (bound : boundTo d x.slot who = true) (low : q.consumer ≤ v) (high : v ≤ q.producer) :
    challengeConsumer who c v d = drainEntries c x.heldEntries.length (modQueue x.chQueue (fun q => { q with consumer := v }) d) := by
  subst hx hq
  exact (if_neg isOpen).trans ((if_neg (by rw [bound]; exact Bool.false_ne_true)).trans (if_pos ⟨low, high⟩))

theorem challengeConsumer_malformed (hx : ctxOf d c = x) (hq : queueOf d x.chQueue = q) (isOpen : x.state ≠ .closed)
    (bound : boundTo d x.slot who = true) (bad : v < q.consumer ∨ q.producer < v) :
    challengeConsumer who c v d = evMalformed c d := by
  subst hx hq
  refine (if_neg isOpen).trans ((if_neg (by rw [bound]; exact Bool.false_ne_true)).trans (if_neg ?_))
  omega

end

/-! ### Check-ins (R435, R436, R438) -/

section

variable {who : W16} {slot offset size : Nat} {v : W32} {d : Dev}

theorem checkinWrite_foreign (foreign : boundTo d slot who = false) :
    checkinWrite who slot offset v size d = foreignWrite slot who d :=
  if_pos (by rw [foreign]; rfl)

theorem checkinWrite_bound (bound : boundTo d slot who = true) : checkinWrite who slot offset v size d =
    match kfind? d.watch.monitors (v.toNat % 65536) with
    | some x =>
      if offset = 0 ∧ size = 4 ∧ v.toNat / 65536 = 65535 - v.toNat % 65536 ∧ x.kind = 2 ∧ v.toNat % 65536 / 2048 = slot then
        countCheckin (v.toNat % 65536) d
      else securityAttn 4 slot who.toNat 0 (modSlot slot (fun s => { s with checkinRefused := s.checkinRefused.add 1 }) d)
    | none => securityAttn 4 slot who.toNat 0 (modSlot slot (fun s => { s with checkinRefused := s.checkinRefused.add 1 }) d) :=
  (if_neg (by rw [bound]; exact Bool.false_ne_true)).trans rfl

theorem checkinWrite_refused (bound : boundTo d slot who = true) (bad : ∀ x, kfind? d.watch.monitors (v.toNat % 65536) = some x →
      offset ≠ 0 ∨ v.toNat / 65536 ≠ 65535 - v.toNat % 65536 ∨ x.kind ≠ 2 ∨ v.toNat % 65536 / 2048 ≠ slot) :
    checkinWrite who slot offset v size d =
      securityAttn 4 slot who.toNat 0 (modSlot slot (fun s => { s with checkinRefused := s.checkinRefused.add 1 }) d) := by
  rw [checkinWrite_bound bound]
  split
  next x found =>
    refine if_neg ?_
    rintro ⟨at_, -, word, kind, page⟩
    rcases bad x found with h | h | h | h
    · exact h at_
    · exact h word
    · exact h kind
    · exact h page
  · rfl

theorem checkinWrite_counted {x : Monitor} (bound : boundTo d slot who = true)
    (found : kfind? d.watch.monitors (v.toNat % 65536) = some x) (at_ : offset = 0) (four : size = 4)
    (word : v.toNat / 65536 = 65535 - v.toNat % 65536) (kind : x.kind = 2) (page : v.toNat % 65536 / 2048 = slot) :
    checkinWrite who slot offset v size d = countCheckin (v.toNat % 65536) d := by
  rw [checkinWrite_bound bound, found]
  exact if_pos ⟨at_, four, word, kind, page⟩

end

section

variable {m : Nat} {d : Dev} {x : Monitor}

/-- The windows of a monitor that have closed and have not been concluded. -/
def dueWindowsOf (now : Time) (x : Monitor) : Nat := (now - x.start) / max 1 (us x.windowUs) - x.index

/-- A function that is repeated without its number begins with one use of it. -/
theorem foldl_range_succ {α : Type} (f : α → α) (n : Nat) (a : α) :
    (List.range (n + 1)).foldl (fun a _ => f a) a = (List.range n).foldl (fun a _ => f a) (f a) := by
  rw [List.range_succ_eq_map, List.foldl_cons, List.foldl_map]

theorem foldl_range_fixed {α : Type} {f : α → α} {a : α} (fixed : f a = a) (n : Nat) : (List.range n).foldl (fun a _ => f a) a = a := by
  induction n with
  | zero => rfl
  | succ n ih => rw [foldl_range_succ, fixed, ih]

theorem closeDue_found (found : kfind? d.watch.monitors m = some x) :
    closeDue m d = (List.range (dueWindowsOf d.geyser.now x)).foldl (fun d _ => monitorClose m d) d := by
  unfold closeDue
  rw [found]
  rfl

theorem monitorClose_suspended (found : kfind? d.watch.monitors m = some x) (held : x.suspended = true) : monitorClose m d = d := by
  unfold monitorClose
  simp only [found, if_pos held]

theorem countIn_suspended (found : kfind? d.watch.monitors m = some x) (held : x.suspended = true) : countIn m d = d := by
  unfold countIn
  simp only [found, if_pos held]

theorem countCheckin_suspended (found : kfind? d.watch.monitors m = some x) (held : x.suspended = true) : countCheckin m d = d := by
  unfold countCheckin
  rw [closeDue_found found, foldl_range_fixed (monitorClose_suspended found held), countIn_suspended found held]

theorem countIn_running (found : kfind? d.watch.monitors m = some x) (runs : x.suspended = false) :
    countIn m d = if x.count = x.maximum
      then monitorAttn m 2 { x with count := x.count + 1 } (signal 743 { d with watch := { d.watch with
        monitors := kput d.watch.monitors m { x with count := x.count + 1 } } })
      else { d with watch := { d.watch with monitors := kput d.watch.monitors m { x with count := x.count + 1 } } } := by
  unfold countIn
  simp only [found, runs, Bool.false_eq_true, if_false, Nat.add_right_cancel_iff]

/-- Before the end of its window no window of the monitor is due. -/
theorem dueWindowsOf_zero {now : Time} (early : now < x.start + (x.index + 1) * us x.windowUs) : dueWindowsOf now x = 0 := by
  have length : (x.index + 1) * us x.windowUs ≤ (x.index + 1) * max 1 (us x.windowUs) :=
    Nat.mul_le_mul_left _ (Nat.le_max_right _ _)
  have positive : 0 < (x.index + 1) * max 1 (us x.windowUs) :=
    Nat.mul_pos (Nat.succ_pos _) (Nat.lt_of_lt_of_le Nat.one_pos (Nat.le_max_left _ _))
  have bound : now - x.start < (x.index + 1) * max 1 (us x.windowUs) := by
    rcases Nat.lt_or_ge now x.start with before | after
    · rwa [Nat.sub_eq_zero_of_le (Nat.le_of_lt before)]
    · exact Nat.sub_lt_left_of_lt_add after (Nat.lt_of_lt_of_le early (Nat.add_le_add_left length _))
  exact Nat.sub_eq_zero_of_le (Nat.lt_succ_iff.mp (Nat.div_lt_of_lt_mul ((Nat.mul_comm _ _) ▸ bound)))

/-- A window that has closed: one fewer is due once it is concluded. -/
theorem dueWindowsOf_succ {now : Time} (some_ : 0 < x.windowUs) (late : x.start + (x.index + 1) * us x.windowUs ≤ now) :
    dueWindowsOf now x = dueWindowsOf now { x with index := x.index + 1, count := 0 } + 1 := by
  have positive : 1 ≤ us x.windowUs := by
    exact Nat.mul_pos (by decide) (Nat.mul_pos some_ (by decide))
  have passed : x.index + 1 ≤ (now - x.start) / max 1 (us x.windowUs) := by
    rw [Nat.max_eq_right positive]
    exact (Nat.le_div_iff_mul_le positive).mpr (Nat.le_sub_of_add_le' late)
  unfold dueWindowsOf
  dsimp only
  omega

/-- Concluding a window that has closed by now moves no time, and the monitor's next window begins. -/
theorem monitorClose_late (found : kfind? d.watch.monitors m = some x) (runs : x.suspended = false)
    (late : x.start + (x.index + 1) * us x.windowUs ≤ d.geyser.now) :
    (monitorClose m d).geyser = d.geyser ∧
      kfind? (monitorClose m d).watch.monitors m = some { x with index := x.index + 1, count := 0 } := by
  have now : (advance (x.start + (x.index + 1) * us x.windowUs) d).geyser = d.geyser := by
    rw [advance_geyser, Nat.max_eq_left late]
  unfold monitorClose
  simp only [found, runs, Bool.false_eq_true, if_false]
  refine ⟨?_, kfind?_kput_self _ _ _⟩
  split
  · exact (signal_geyser 742 _).trans now
  · exact now

theorem countCheckin_late (found : kfind? d.watch.monitors m = some x) (runs : x.suspended = false) (some_ : 0 < x.windowUs)
    (late : x.start + (x.index + 1) * us x.windowUs ≤ d.geyser.now) : countCheckin m d = countCheckin m (monitorClose m d) := by
  obtain ⟨time, next⟩ := monitorClose_late found runs late
  unfold countCheckin
  rw [closeDue_found found, closeDue_found next, dueWindowsOf_succ some_ late, foldl_range_succ, time]

end

/-! ### BAR2 (R15, R16, R76) -/

section

variable {who : W16} {off size : Nat} {v : W64} {boundary relaxed : Bool} {d : Dev}

theorem bar2_foreign (inside : off < 0x100000000) (foreign : boundTo d (off / 0x80000000) who = false) :
    bar2 who off size v boundary relaxed d = foreignWrite (off / 0x80000000) who d :=
  (if_neg (Nat.not_le.mpr inside)).trans (if_pos (by rw [foreign]; rfl))

theorem bar2_page (inside : off < 0x100000000) (bound : boundTo d (off / 0x80000000) who = true)
    (page : 0x7FFFF000 ≤ off % 0x80000000) : bar2 who off size v boundary relaxed d =
      checkinWrite who (off / 0x80000000) (off % 0x80000000 - 0x7FFFF000) (v.setWidth 32) size d :=
  (if_neg (Nat.not_le.mpr inside)).trans ((if_neg (by rw [bound]; exact Bool.false_ne_true)).trans (if_pos page))

/-- What a paid write below the check-in page does. -/
def bar2Paid (who : W16) (off size : Nat) (v : W64) (boundary relaxed : Bool) (d : Dev) : Dev :=
  match controlAt? d off, ringAt? d off with
  | some (c, _, true, o), _ => if o = 0 then producerUpdate who c v.toNat size boundary relaxed d else evMalformed c d
  | some (c, _, false, o), _ => if o = 8 ∧ size = 8 then challengeConsumer who c v.toNat d else evMalformed c d
  | none, some (_, x) =>
    let q := queueOf d x.evQueue
    let n := 2 ^ q.exp
    let at_ := (off - q.base.toNat + n - q.consumer % n) % n
    if q.producer > q.consumer ∧ (at_ < q.producer - q.consumer ∨ at_ + size > n) then strayWrite (off / 0x80000000) d else d
  | none, none => strayWrite (off / 0x80000000) d

theorem bar2_below {paid : Bool} {e : Dev} (inside : off < 0x100000000) (bound : boundTo d (off / 0x80000000) who = true)
    (below : off % 0x80000000 < 0x7FFFF000) (taken : takeIngress (off / 0x80000000) size d = (paid, e)) :
    bar2 who off size v boundary relaxed d = if !paid then e else bar2Paid who off size v boundary relaxed e := by
  unfold bar2
  extract_lets slot
  have taken' : takeIngress slot size d = (paid, e) := taken
  rw [taken']
  exact (if_neg (Nat.not_le.mpr inside)).trans ((if_neg (by rw [bound]; exact Bool.false_ne_true)).trans
    (if_neg (Nat.not_le.mpr below)))

theorem bar2Paid_stray (control : controlAt? d off = none) (ring : ringAt? d off = none) :
    bar2Paid who off size v boundary relaxed d = strayWrite (off / 0x80000000) d := by
  unfold bar2Paid
  rw [control, ring]

theorem bar2Paid_ring {c : W32} {x : Context} (control : controlAt? d off = none) (ring : ringAt? d off = some (c, x)) {q : Queue}
    {at_ : Nat} (hq : q = queueOf d x.evQueue)
    (hat : at_ = (off - q.base.toNat + 2 ^ q.exp - q.consumer % 2 ^ q.exp) % 2 ^ q.exp) :
    bar2Paid who off size v boundary relaxed d =
      if q.producer > q.consumer ∧ (at_ < q.producer - q.consumer ∨ at_ + size > 2 ^ q.exp)
      then strayWrite (off / 0x80000000) d else d := by
  subst hq hat
  unfold bar2Paid
  rw [control, ring]

theorem bar2Paid_evidence {c : W32} {x : Context} {o : Nat} (control : controlAt? d off = some (c, x, true, o)) :
    bar2Paid who off size v boundary relaxed d =
      if o = 0 then producerUpdate who c v.toNat size boundary relaxed d else evMalformed c d := by
  unfold bar2Paid
  rw [control]

theorem bar2Paid_challenge {c : W32} {x : Context} {o : Nat} (control : controlAt? d off = some (c, x, false, o)) :
    bar2Paid who off size v boundary relaxed d =
      if o = 8 ∧ size = 8 then challengeConsumer who c v.toNat d else evMalformed c d := by
  unfold bar2Paid
  rw [control]

end

/-! ### O19 -/

/-- A write that pays leaves the contexts, the queues, the time, and who the slot is bound to. -/
theorem paid_frame {slot size : Nat} {d e : Dev} (he : e = modSlot slot (fun k => { k with
      ingressLevel := ingressAt (slotOf d slot) d.geyser.now - size * sec 1, ingressAt := d.geyser.now }) d) :
    ctxOf e = ctxOf d ∧ queueOf e = queueOf d ∧ controlAt? e = controlAt? d ∧ ringAt? e = ringAt? d ∧ e.geyser = d.geyser ∧
      ∀ who, boundTo e slot who = boundTo d slot who := by
  generalize ingressAt (slotOf d slot) d.geyser.now - size * sec 1 = l at he
  subst he
  exact ⟨rfl, rfl, rfl, rfl, rfl, boundTo_paid slot l _ d⟩

/-- Settles O19, by what a write pays and by what each place of BAR2 makes of it. -/
theorem subjectWrites : Obligations.SubjectWrites := by
  refine ⟨?_, ?_, ?_, ?_, ?_⟩
  · rintro t who c v size b relaxed s d e x q rfl rfl rfl isOpen he
    obtain ⟨ctx, queue, -, -, now, own⟩ := paid_frame he
    have taken : ∀ f, boundTo s.dev (ctxOf s.dev c).slot who = true →
        size * sec 1 ≤ ingressAt (slotOf (advance t s.dev) (ctxOf s.dev c).slot) (advance t s.dev).geyser.now →
        viaIngress who c size f (advance t s.dev) = f e := fun f bound paid =>
      (viaIngress_paid (d := advance t s.dev) isOpen bound paid).trans (congrArg f he.symm)
    refine ⟨fun foreign => ?_, fun bound short => ?_, fun bound paid => ⟨fun one whole strict lines ahead within => ?_, fun bad => ?_⟩⟩
    · exact next_onDev (viaIngress_foreign (d := advance t s.dev) isOpen foreign)
    · have lost := discardWrite_frame (ctxOf s.dev c).slot (advance t s.dev)
      exact ⟨_, next_onDev (viaIngress_short (d := advance t s.dev) isOpen bound short), congrArg (fun e => { s with dev := e }) lost.1,
        lost.2⟩
    · have ends := batch_ends (v := v.toNat) (congrFun ctx c) (congrFun queue _) e.geyser.now
      rw [now] at ends
      refine ⟨_, next_onDev ((taken _ bound paid).trans
        (producerUpdate_batch (congrFun ctx c) (congrFun queue _) isOpen ((own who).trans bound) one whole strict lines ahead within)),
        rfl, ?_⟩
      rw [now]
      exact ends
    · exact next_onDev ((taken _ bound paid).trans
        (producerUpdate_malformed (congrFun ctx c) (congrFun queue _) isOpen ((own who).trans bound) bad))
  · rintro t who c v s d e x q rfl rfl rfl isOpen bound paid he
    obtain ⟨ctx, queue, -, -, -, own⟩ := paid_frame he
    have taken : ∀ f, viaIngress who c 8 f (advance t s.dev) = f e := fun f =>
      (viaIngress_paid (d := advance t s.dev) isOpen bound paid).trans (congrArg f he.symm)
    refine ⟨fun low high => ?_, fun bad => ?_⟩
    · refine ⟨_, next_onDev ((taken _).trans (challengeConsumer_taken (congrFun ctx c) (congrFun queue _) isOpen ((own who).trans bound)
        low high)), rfl, rfl, fun empty => ?_⟩
      rw [show (ctxOf (advance t s.dev) c).heldEntries = [] from empty]
      exact (queueOf_modQueue e _ _).trans (congrArg (fun q : Queue => { q with consumer := v.toNat }) (congrFun queue _))
    · exact next_onDev ((taken _).trans
        (challengeConsumer_malformed (congrFun ctx c) (congrFun queue _) isOpen ((own who).trans bound) bad))
  · rintro t who k off v s d m rfl rfl
    refine ⟨fun foreign => ?_, fun bound bad => ⟨_, rfl, ?_⟩, fun x found bound at_ word kind page => ?_⟩
    · exact next_onDev (checkinWrite_foreign (d := advance t s.dev) foreign)
    · exact next_onDev (checkinWrite_refused (d := advance t s.dev) bound bad)
    · exact next_onDev (checkinWrite_counted (d := advance t s.dev) bound found at_ rfl word kind page)
  · intro m d x found
    refine ⟨countCheckin_suspended found, fun runs early => ⟨_, rfl, ?_⟩, countCheckin_late found⟩
    unfold countCheckin
    rw [closeDue_found found, dueWindowsOf_zero early]
    exact countIn_running found runs
  · rintro t who off size v b relaxed s d e k rfl rfl inside he
    refine ⟨fun foreign => ?_, fun bound page => ?_, fun bound below short => ?_, fun bound below paid => ?_⟩
    · exact next_onDev (bar2_foreign (d := advance t s.dev) inside foreign)
    · exact next_onDev (bar2_page (d := advance t s.dev) inside bound page)
    · have lost := discardWrite_frame (off / 0x80000000) (advance t s.dev)
      exact ⟨_, next_onDev ((bar2_below (d := advance t s.dev) inside bound below (takeIngress_short short)).trans rfl),
        congrArg (fun e => { s with dev := e }) lost.1, lost.2⟩
    · obtain ⟨-, queue, control, ring, -, -⟩ := paid_frame he
      have taken := (bar2_below (d := advance t s.dev) (v := v) (boundary := b) (relaxed := relaxed) inside bound below
        (takeIngress_paid paid)).trans (congrArg (bar2Paid who off size v b relaxed) he.symm)
      have control : controlAt? e off = controlAt? s.dev off := congrFun control off
      have ring : ringAt? e off = ringAt? s.dev off := congrFun ring off
      refine ⟨_, next_onDev taken, rfl, fun none_ noRing => ?_, fun c x q at_ none_ some_ hq hat => ?_, fun c x some_ => ?_,
        fun c x some_ one => ?_, fun c x ev o some_ evidence challenge => ?_⟩
      · exact bar2Paid_stray (control.trans none_) (ring.trans noRing)
      · have here := bar2Paid_ring (who := who) (size := size) (v := v) (boundary := b) (relaxed := relaxed) (control.trans none_)
          (ring.trans some_) (hq.trans (congrFun queue _).symm) hat
        exact ⟨fun some_ inside => here.trans (if_pos ⟨some_, Or.inl inside⟩), fun far fits => here.trans (if_neg (by omega))⟩
      · exact (bar2Paid_evidence (control.trans some_)).trans (if_pos rfl)
      · exact (bar2Paid_challenge (control.trans some_)).trans (if_pos ⟨rfl, one⟩)
      · cases ev with
        | true => exact (bar2Paid_evidence (control.trans some_)).trans (if_neg (evidence rfl))
        | false =>
          refine (bar2Paid_challenge (control.trans some_)).trans (if_neg fun h => ?_)
          rcases challenge rfl with k | k
          · exact k h.1
          · exact k h.2

end Sys2Proof.Machine
end

section
/-! Evidence records (03 R33 to R37, R77 to R79, R92, R96 to R100): how a record leaves its queue, and how a result opens. -/

namespace Sys2Proof.Machine

open Sys2Proof

/-! ### Records leave their queue (R77 to R79, R100) -/

section

variable {c : W32} {type : Byte} {r : Record} {d : Dev} {end_ : Nat} {arr : Time} {rest : List (Nat × Time)}

theorem takeRecord_waits (h : serving d = false ∨ d.fabric.isolated = true ∨ (ctxOf d c).state = .closed) :
    takeRecord c type r d = d := by
  refine if_pos ?_
  rcases h with h | h | h
  · exact Or.inr (Or.inl (by rw [h]; rfl))
  · exact Or.inr (Or.inr h)
  · exact Or.inl h

theorem takeRecord_comes (comes : recordComes c end_ arr rest d) : takeRecord c type r d = consumeRecord c type r false d := by
  have serves : ¬((ctxOf d c).state = .closed ∨ (!serving d) = true ∨ d.fabric.isolated = true) := by
    rintro (h | h | h)
    · exact comes.isOpen h
    · rw [comes.serves] at h
      exact absurd h Bool.false_ne_true
    · rw [comes.member] at h
      exact absurd h Bool.false_ne_true
  have free : (ctxOf d c).blocked.isEmpty = true := by rw [comes.free]; rfl
  exact (if_neg serves).trans (if_pos free)

/-- A batch whose record fails its check is gone. -/
def batchLost (c : W32) (end_ : Nat) (rest : List (Nat × Time)) (d : Dev) : Dev :=
  modCtx c (fun x => { x with batches := rest }) (modQueue (ctxOf d c).evQueue (fun q => { q with consumer := end_ }) d)

theorem consumeRecord_crcFail (comes : recordComes c end_ arr rest d) (fails : crc32c (recordBody type r) ≠ r.trailer) :
    consumeRecord c type r false d = evCrcFail c (batchLost c end_ rest d) := by
  unfold consumeRecord
  simp only [comes.batch, if_pos fails]
  rfl

theorem consumeRecord_whole {framed : Bool} (comes : recordComes c end_ arr rest d) (whole : crc32c (recordBody type r) = r.trailer)
    (hf : framed = framingOk type r (queueOf d (ctxOf d c).evQueue).consumer (2 ^ (queueOf d (ctxOf d c).evQueue).exp))
    (direct : mustMirror c type r framed d = false) :
    consumeRecord c type r false d = handleRecord c type r arr framed (recordConsumed c r end_ rest d) := by
  subst hf
  unfold consumeRecord
  simp only [comes.batch, if_neg (not_not_intro whole), direct, Bool.false_and, Bool.false_eq_true, if_false]
  rfl

end

/-- Every record command takes its record, and zeroes what ended kernels leave. -/
theorem exec_record {t : Time} {c : W32} {type : Byte} {r : Record} {i : Instr} {s : State}
    (h : (i, type) ∈ [(.commit t c r, 0x01), (.crcList t c r, 0x02), (.opening t c r, 0x03), (.depTile t c r, 0x04),
      (.tensor t c r, 0x05), (.abandon t c r, 0x06), (.evidencePad t c 0x0F r, (0x0F : Byte))]) :
    ∃ u, exec i s = .next u ∧ onlyLaunches (takeRecord c type r (advance t s.dev)) u.dev ∧ onlyZeroed s.mem u.mem ∧
      u.pending = s.pending := by
  simp only [List.mem_cons, Prod.mk.injEq, List.not_mem_nil, or_false] at h
  rcases h with ⟨rfl, rfl⟩ | ⟨rfl, rfl⟩ | ⟨rfl, rfl⟩ | ⟨rfl, rfl⟩ | ⟨rfl, rfl⟩ | ⟨rfl, rfl⟩ | ⟨rfl, rfl⟩
  case inr.inr.inr.inr.inr.inr => exact ⟨_, rfl, onlyLaunches_refl _, onlyZeroed_refl _, rfl⟩
  all_goals exact exists_onDevZ (fun d => takeRecord c _ r (advance t d)) s

/-! ### Which records are malformed, late or taken (R35, R36, R98, R99) -/

section

variable {c : W32} {type : Byte} {r : Record} {arr : Time} {framed : Bool} {d : Dev}

/-- A context in which nothing has come due stays as it is. -/
theorem expireDue_idle (idle : ∀ x ∈ (ctxOf d c).results, isDue d x = false ∧ dueWindows d x = x) : expireDue c d = d := by
  have none_ : (ctxOf d c).results.filter (fun r => isDue d r || decide (dueWindows d r ≠ r)) = [] :=
    List.filter_eq_nil_iff.mpr fun x hx => by simp [(idle x hx).1, (idle x hx).2]
  unfold expireDue
  rw [none_]
  rfl

theorem handleRecord_foreign (other : r.context ≠ c) : handleRecord c type r arr framed d = evMalformed c (expireDue c d) :=
  if_pos other

theorem handleRecord_pad (own : r.context = c) (pad : type = 0x0F) :
    handleRecord c type r arr framed d = if framed then expireDue c d else evMalformed c (expireDue c d) :=
  (if_neg (not_not_intro own)).trans (if_pos pad)

theorem handleRecord_known {res : Result} (own : r.context = c) (type_ : type ≠ 0x0F)
    (known : resultOf? (ctxOf (expireDue c d) c) r.seq.toNat = some res) :
    handleRecord c type r arr framed d = knownRecord c type r arr framed res (expireDue c d) := by
  refine (if_neg (not_not_intro own)).trans ((if_neg type_).trans ?_)
  rw [known]

theorem handleRecord_old (own : r.context = c) (type_ : type ≠ 0x0F)
    (unknown : resultOf? (ctxOf (expireDue c d) c) r.seq.toNat = none) (old : r.seq.toNat ≤ (ctxOf (expireDue c d) c).accepted) :
    handleRecord c type r arr framed d =
      if r.seq.toNat ∈ (ctxOf (expireDue c d) c).skipped ∨ r.seq.toNat < (ctxOf (expireDue c d) c).firstSeq
      then evMalformed c (expireDue c d) else evLate c (expireDue c d) := by
  refine (if_neg (not_not_intro own)).trans ((if_neg type_).trans ?_)
  rw [unknown]
  simp only [if_pos old, List.contains_iff_mem]

/-- What a record of a sequence beyond the accepted ones meets. -/
theorem handleRecord_beyond (own : r.context = c) (type_ : type ≠ 0x0F)
    (unknown : resultOf? (ctxOf (expireDue c d) c) r.seq.toNat = none) (beyond : (ctxOf (expireDue c d) c).accepted < r.seq.toNat) :
    handleRecord c type r arr framed d =
      match planOf? (expireDue c d) (ctxOf (expireDue c d) c).planId (ctxOf (expireDue c d) c).planVersion,
        templateOf? (expireDue c d) (ctxOf (expireDue c d) c).planId (ctxOf (expireDue c d) c).planVersion
          (ctxOf (expireDue c d) c).template with
      | some l, some t =>
        if mayAccept (ctxOf (expireDue c d) c) type r framed l.plan t then acceptRecord c type r arr t (expireDue c d)
        else evMalformed c (expireDue c d)
      | _, _ => evMalformed c (expireDue c d) := by
  refine (if_neg (not_not_intro own)).trans ((if_neg type_).trans ?_)
  rw [unknown]
  exact if_neg (Nat.not_le.mpr beyond)

/-- A sequence more than 64 ahead is not accepted (R35). -/
theorem mayAccept_far {x : Context} {p : Plan} {t : Template} (far : x.accepted + 64 < r.seq.toNat) :
    mayAccept x type r framed p t = false := by
  unfold mayAccept
  simp [Nat.not_le.mpr far]

theorem handleRecord_far (own : r.context = c) (type_ : type ≠ 0x0F)
    (unknown : resultOf? (ctxOf (expireDue c d) c) r.seq.toNat = none)
    (far : (ctxOf (expireDue c d) c).accepted + 64 < r.seq.toNat) :
    handleRecord c type r arr framed d = evMalformed c (expireDue c d) := by
  rw [handleRecord_beyond own type_ unknown (by omega)]
  split
  · exact if_neg (by rw [mayAccept_far far]; exact Bool.false_ne_true)
  · rfl

theorem knownRecord_withheld {res : Result} (withheld : res.withheld = true) : knownRecord c type r arr framed res d = evLate c d :=
  if_pos withheld

theorem knownRecord_unframed {res : Result} (open_ : res.withheld = false) (bad : framed = false) :
    knownRecord c type r arr framed res d = malformedOn c res.seq (recKey type r) d :=
  (if_neg (by simp [open_])).trans (if_pos (by rw [bad]; rfl))

theorem knownRecord_abandon {res : Result} (open_ : res.withheld = false) (good : framed = true) (abandon : type = 0x06) :
    knownRecord c type r arr framed res d = concludeResult c res.seq (modResult c res.seq (addReason rEvidenceMissing) d) :=
  (if_neg (by simp [open_])).trans ((if_neg (by simp [good])).trans (if_pos abandon))

end

/-- Settles O20, by the ways a record can leave its queue and what each makes of it. -/
theorem recordsAreTaken : Obligations.RecordsAreTaken := by
  refine ⟨?_, ?_⟩
  · rintro t c type r i s d framed rfl kind hf
    obtain ⟨u, next, launches, zeroed, pending⟩ := exec_record (s := s) kind
    refine ⟨fun waits => ⟨u, next, ?_, zeroed, pending⟩, fun end_ arr rest comes fails => ⟨u, batchLost c end_ rest (advance t s.dev),
      next, ?_, ?_, ?_, rfl, zeroed, pending⟩, fun end_ arr rest comes whole direct => ⟨u, next, ?_, zeroed, pending⟩⟩
    · rwa [takeRecord_waits waits] at launches
    · rwa [takeRecord_comes comes, consumeRecord_crcFail comes fails] at launches
    · exact ctxOf_modCtx _ c _
    · have moved := queueOf_modQueue (advance t s.dev) (ctxOf (advance t s.dev) c).evQueue (fun q => { q with consumer := end_ })
      exact moved
    · rwa [takeRecord_comes comes, consumeRecord_whole comes whole hf direct] at launches
  · rintro c type r arr framed d0 d rfl
    exact ⟨expireDue_idle, handleRecord_foreign, handleRecord_pad, handleRecord_old, handleRecord_far, fun res own type_ known =>
      ⟨fun withheld => (handleRecord_known own type_ known).trans (knownRecord_withheld withheld),
        fun open_ bad => (handleRecord_known own type_ known).trans (knownRecord_unframed open_ bad),
        fun open_ good abandon => (handleRecord_known own type_ known).trans (knownRecord_abandon open_ good abandon)⟩⟩

/-! ### Results open (R33 to R37, R92, R96, R97, R263, R264) -/

theorem modCtx_modCtx (c : W32) (f g : Context → Context) (d : Dev) : modCtx c f (modCtx c g d) = modCtx c (fun x => f (g x)) d := by
  unfold modCtx
  rw [ctxOf_setCtx]
  exact congrArg (fun m => { d with contexts := m }) (kput_kput d.contexts c.toNat _ _)

section

variable {c : W32} {type : Byte} {r : Record} {arr : Time} {d : Dev} {x : Context} {t : Template}

/-- A record that would need more tokens than the slot's bucket holds opens nothing (R264). -/
theorem acceptRecord_short (hx : x = ctxOf d c) (held : x.heldRecords.length < 256)
    (short : uncheckedAt (slotOf d x.slot) d.geyser.now <
      (r.seq.toNat - x.accepted - 1 + if rateLevelAt x t arr < 1000 * sec 1 then 1 else 0) * sec 1) :
    acceptRecord c type r arr t d = evMalformed c (modSlot x.slot (fun s => { s with unchecked := s.unchecked.add 1 }) d) := by
  subst hx
  have cost : uncheckedAt (slotOf d (ctxOf d c).slot) d.geyser.now < uncheckedCost (ctxOf d c) r.seq.toNat
      (decide (rateLevelAt (ctxOf d c) t arr < 1000 * sec 1)) * sec 1 := by
    unfold uncheckedCost
    simp only [decide_eq_true_eq]
    exact short
  unfold acceptRecord
  generalize sec 1 = token at cost ⊢
  exact (if_neg (Nat.not_le.mpr held)).trans (if_pos cost)

/-- Nothing lies between the accepted results and the next sequence. -/
theorem recordSkipped_next {g seq : Nat} (next : seq = (ctxOf d c).accepted + 1) : recordSkipped c g seq d = d := by
  subst next
  unfold recordSkipped
  dsimp only
  rw [Nat.add_sub_cancel_left]
  rfl

theorem recordSkipped_one (g : Nat) (hx : x = ctxOf d c) : recordSkipped c g (x.accepted + 2) d =
    concludeResult c (x.accepted + 1) (modCtx c (fun x => { x with
      results := x.results ++ [addReason rNoEvidence (newResult x g (x.accepted + 1) 0 0 d.geyser.now 0)]
      accepted := x.accepted + 1
      skipped := (x.accepted + 1) :: x.skipped }) d) := by
  subst hx
  unfold recordSkipped
  dsimp only
  rw [Nat.add_sub_cancel_left]
  rfl

/-- What a slot's bucket of unchecked verdicts is after a result above the rate. -/
def payUnchecked (slot : Nat) (d : Dev) : Dev :=
  modSlot slot (fun s => { s with uncheckedLevel := uncheckedAt (slotOf d slot) d.geyser.now - sec 1, uncheckedAt := d.geyser.now }) d

/-- The context's rate bucket at a level, and its next result opened. -/
def openResult (c : W32) (type : Byte) (r : Record) (arr : Time) (t : Template) (level : Nat) (fast : Bool) (dead : Time) (why : W32)
    (d : Dev) : Dev :=
  modCtx c (fun x => { x with
      results := x.results ++ [{ newResult x t.grade r.seq.toNat (captureOf type r) dead d.geyser.now t.checkCount with
        reasons := why, overRate := fast }]
      accepted := r.seq.toNat })
    (modCtx c (fun x => { x with rateLevel := level, rateAt := arr }) d)

theorem openResult_eq (level : Nat) (fast : Bool) (dead : Time) (why : W32) :
    openResult c type r arr t level fast dead why d = modCtx c (fun x => { x with
      rateLevel := level
      rateAt := arr
      results := x.results ++ [{ newResult x t.grade r.seq.toNat (captureOf type r) dead d.geyser.now t.checkCount with
        reasons := why, overRate := fast }]
      accepted := r.seq.toNat }) d :=
  modCtx_modCtx c _ _ d

/-- The next sequence opens its result, whose reasons conclude it at once or whose first record is then handled. -/
def openedBy (c : W32) (type : Byte) (r : Record) (arr : Time) (why : W32) (e : Dev) : Dev :=
  if why ≠ 0 then concludeResult c r.seq.toNat e
  else match resultOf? (ctxOf e c) r.seq.toNat with
    | some res => knownRecord c type r arr true res e
    | none => e

theorem acceptRecord_slow {dead : Time} (hx : x = ctxOf d c) (held : x.heldRecords.length < 256) (next : r.seq.toNat = x.accepted + 1)
    (slow : 1000 * sec 1 ≤ rateLevelAt x t arr) (hdead : dead = if type = tAbandon then 0 else captureOf type r + us t.deadlineUs) :
    acceptRecord c type r arr t d = openedBy c type r arr (firstReasons x type false dead d.geyser.now)
      (openResult c type r arr t (rateLevelAt x t arr - 1000 * sec 1) false dead (firstReasons x type false dead d.geyser.now) d) := by
  subst hx
  have fast : decide (rateLevelAt (ctxOf d c) t arr < 1000 * sec 1) = false := decide_eq_false (Nat.not_lt.mpr slow)
  have cost : uncheckedCost (ctxOf d c) r.seq.toNat false = 0 := by simp [uncheckedCost, next]
  have skipped : ∀ l : Nat, recordSkipped c t.grade r.seq.toNat (modCtx c (fun x => { x with rateLevel := l, rateAt := arr }) d) =
      modCtx c (fun x => { x with rateLevel := l, rateAt := arr }) d := fun l =>
    recordSkipped_next (next.trans (by rw [ctxOf_modCtx]))
  unfold acceptRecord
  generalize sec 1 = token at fast ⊢
  dsimp only
  rw [if_neg (Nat.not_le.mpr held), fast, cost, Nat.zero_mul, if_neg (Nat.not_lt_zero _), if_pos rfl,
    if_neg Bool.false_ne_true, skipped, ← hdead, modCtx_geyser]
  rfl

theorem acceptRecord_fast {dead : Time} (hx : x = ctxOf d c) (held : x.heldRecords.length < 256) (next : r.seq.toNat = x.accepted + 1)
    (above : rateLevelAt x t arr < 1000 * sec 1) (paid : sec 1 ≤ uncheckedAt (slotOf d x.slot) d.geyser.now)
    (hdead : dead = if type = tAbandon then 0 else captureOf type r + us t.deadlineUs) :
    acceptRecord c type r arr t d = openedBy c type r arr (firstReasons x type true dead d.geyser.now)
      (openResult c type r arr t (rateLevelAt x t arr) true dead (firstReasons x type true dead d.geyser.now)
        (payUnchecked x.slot d)) := by
  subst hx
  have fast : decide (rateLevelAt (ctxOf d c) t arr < 1000 * sec 1) = true := decide_eq_true above
  have cost : uncheckedCost (ctxOf d c) r.seq.toNat true = 1 := by simp [uncheckedCost, next]
  have skipped : recordSkipped c t.grade r.seq.toNat (modCtx c (fun x => { x with
      rateLevel := rateLevelAt (ctxOf d c) t arr, rateAt := arr }) (payUnchecked (ctxOf d c).slot d)) =
      modCtx c (fun x => { x with rateLevel := rateLevelAt (ctxOf d c) t arr, rateAt := arr }) (payUnchecked (ctxOf d c).slot d) :=
    recordSkipped_next (next.trans (by rw [ctxOf_modCtx]; rfl))
  unfold acceptRecord
  unfold payUnchecked at skipped ⊢
  generalize sec 1 = token at fast paid skipped ⊢
  dsimp only
  rw [if_neg (Nat.not_le.mpr held), fast, cost, Nat.one_mul, if_neg (Nat.not_lt.mpr paid), if_neg Nat.one_ne_zero, if_pos rfl,
    skipped, ← hdead, modCtx_geyser, modSlot_geyser]
  rfl

/-- A result above the rate has a reason that says so. -/
theorem firstReasons_fast (x : Context) (type : Byte) (dead now : Time) : firstReasons x type true dead now ≠ 0 := by
  intro h
  unfold firstReasons at h
  rw [if_pos rfl] at h
  exact absurd (BitVec.or_eq_zero_iff.mp (BitVec.or_eq_zero_iff.mp h).1).1 (by decide)

/-- An ACTIVE context's COMMIT within the rate and before its deadline has no reason to conclude. -/
theorem firstReasons_none {dead now : Time} (active : x.state = .active) (commit : type = tCommit) (early : now < dead) :
    firstReasons x type false dead now = 0 := by
  have alive : x.state ≠ .suspended := by rw [active]; decide
  have other : type ≠ tAbandon := by rw [commit]; decide
  unfold firstReasons
  rw [if_neg Bool.false_ne_true, if_neg alive, if_neg other, if_neg (fun h => Nat.not_le.mpr early h.1)]
  rfl

theorem openedBy_concludes {why : W32} (some_ : why ≠ 0) (e : Dev) : openedBy c type r arr why e = concludeResult c r.seq.toNat e :=
  if_pos some_

/-- The result that a record opens is found when no earlier one had its sequence. -/
theorem resultOf?_openResult {level : Nat} {fast : Bool} {dead : Time} {why : W32} (new : ∀ q ∈ (ctxOf d c).results, q.seq ≠ r.seq.toNat) :
    resultOf? (ctxOf (openResult c type r arr t level fast dead why d) c) r.seq.toNat =
      some { newResult (ctxOf d c) t.grade r.seq.toNat (captureOf type r) dead d.geyser.now t.checkCount with
        reasons := why, overRate := fast } := by
  have absent : (ctxOf d c).results.find? (fun q => q.seq == r.seq.toNat) = none :=
    List.find?_eq_none.mpr fun q hq => by simp [new q hq]
  rw [openResult_eq, ctxOf_modCtx]
  unfold resultOf?
  dsimp only
  rw [List.find?_append, absent]
  simp [newResult]

end

/-- Two changes of a context that agree on it as it stands. -/
theorem modCtx_congr {c : W32} {f g : Context → Context} {d : Dev} (h : f (ctxOf d c) = g (ctxOf d c)) : modCtx c f d = modCtx c g d :=
  congrArg (setCtx c · d) h

/-- Settles O21, by what the first record of a sequence pays and by the reasons its result opens with. -/
theorem resultsOpen : Obligations.ResultsOpen := by
  refine ⟨?_, ?_, ?_, ?_, ?_⟩
  · rintro c type r arr d0 d x l t rfl rfl own type_ beyond unknown plan template
    have here := handleRecord_beyond (arr := arr) (framed := true) own type_ unknown beyond
    rw [plan, template] at here
    exact ⟨fun refused => here.trans (if_neg (by simp [refused])), fun taken => here.trans (if_pos taken)⟩
  · rintro c type r arr d e f x t res rfl held next slow active commit early rfl new rfl
    have deadline : (if type = tAbandon then 0 else captureOf type r + us t.deadlineUs) = captureOf type r + us t.deadlineUs :=
      if_neg (by rw [commit]; decide)
    rw [acceptRecord_slow rfl held next slow deadline.symm, firstReasons_none active commit early]
    refine (if_neg (not_not_intro rfl)).trans ?_
    rw [resultOf?_openResult new, openResult_eq]
    refine congrArg (knownRecord c type r arr true _) (modCtx_congr ?_)
    generalize rateLevelAt (ctxOf d c) t arr - 1000 * sec 1 = level
    rfl
  · rintro c type r arr d e x t dead why rfl held beyond
    refine ⟨acceptRecord_short rfl held, fun next slow hdead hwhy some_ he => ?_, fun next above paid hdead hwhy he => ?_⟩
    · rw [acceptRecord_slow rfl held next slow hdead, ← hwhy, openedBy_concludes some_, openResult_eq, he]
      refine congrArg (concludeResult c _) (modCtx_congr ?_)
      dsimp only
      generalize rateLevelAt (ctxOf d c) t arr - 1000 * sec 1 = level
      rfl
    · rw [acceptRecord_fast rfl held next above paid hdead, ← hwhy,
        openedBy_concludes fun none_ => firstReasons_fast (ctxOf d c) type dead _ (hwhy.symm.trans none_), openResult_eq, he]
      unfold payUnchecked
      generalize uncheckedAt (slotOf d (ctxOf d c).slot) d.geyser.now - sec 1 = left
      exact congrArg (concludeResult c _) (modCtx_congr rfl)
  · intro x type fast dead now
    rfl
  · intro c g d x hx
    exact recordSkipped_one g hx

end Sys2Proof.Machine
end

section
/-! Geyser (15 R382 to R386, R389, R396 to R399): the increment, steps, pulse outputs and PPS_IN. -/

namespace Sys2Proof.Machine

open Sys2Proof

/-! ### The increment (R382, R389) -/

/-- The increment that a written value becomes. -/
def clampedIncr (v : Nat) : Nat := max incrLow (min incrHigh v)

theorem clampedIncr_bounds (v : Nat) : incrLow ≤ clampedIncr v ∧ clampedIncr v ≤ incrHigh := by
  unfold clampedIncr incrLow incrHigh
  omega

/-- Everything a written increment does to the clock. -/
theorem writeIncr_geyser (v : Nat) (d : Dev) : (writeIncr v d).geyser = { d.geyser with
    incr := BitVec.ofNat 40 (clampedIncr v)
    clamped := d.geyser.clamped || clampedIncr v != v
    limitSince := if clampedIncr v == incrLow || clampedIncr v == incrHigh then some (d.geyser.limitSince.getD d.geyser.now) else none
    limitTold := d.geyser.limitTold && (clampedIncr v == incrLow || clampedIncr v == incrHigh) } := by
  have noted : ∀ b : Bool, (if b = true then hwSet .geyCtrl (2 ^ 29) d else d).geyser = d.geyser := fun b => by cases b <;> rfl
  unfold writeIncr
  dsimp only [modGey]
  rw [noted]
  rfl

theorem toNat_clampedIncr (v : Nat) : (BitVec.ofNat 40 (clampedIncr v)).toNat = clampedIncr v := by
  have := clampedIncr_bounds v
  unfold incrLow incrHigh at this
  rw [BitVec.toNat_ofNat]
  exact Nat.mod_eq_of_lt (by omega)

/-- The clamp changes exactly the values outside the limits. -/
theorem clampedIncr_ne (v : Nat) : (clampedIncr v != v) = decide (v < 0x06663C74FC ∨ 0x06669057D1 < v) := by
  unfold clampedIncr incrLow incrHigh
  rw [Bool.eq_iff_iff, bne_iff_ne, decide_eq_true_eq]
  omega

/-- The hold at a limit is told once (R389). -/
theorem limitHold_due {d : Dev} {k : Time} (since : d.geyser.limitSince = some k) (late : k + sec 1 ≤ d.geyser.now)
    (untold : d.geyser.limitTold = false) :
    limitHold d = timeAttn 3 (clockCode d.geyser.state) (clockCode d.geyser.state) d.geyser.master d.geyser.offset
      (modGey (fun g => { g with limitTold := true }) d) := by
  unfold limitHold
  rw [since]
  exact if_pos ⟨late, by rw [untold]; rfl⟩

theorem limitHold_quiet {d : Dev} (h : d.geyser.limitTold = true ∨ d.geyser.limitSince = none ∨
      (∃ k, d.geyser.limitSince = some k ∧ d.geyser.now < k + sec 1)) : limitHold d = d := by
  unfold limitHold
  split
  next t since =>
    refine if_neg fun k => ?_
    rcases h with told | none_ | ⟨j, at_, early⟩
    · rw [told] at k
      exact absurd k.2 (by decide)
    · rw [none_] at since
      cases since
    · rw [at_] at since
      cases since
      exact Nat.not_lt.mpr k.1 early
  · rfl

/-- Settles O37, by what a written increment does to the clock and by when the hold is told. -/
theorem incrementIsClamped : Obligations.IncrementIsClamped := by
  refine ⟨?_, ?_, ?_⟩
  · intro t v s
    have clock := writeIncr_geyser v.toNat (advance t s.dev)
    have kept : writeIncr v.toNat (advance t s.dev) = { s.dev with
        geyser := (writeIncr v.toNat (advance t s.dev)).geyser, hwSets := (writeIncr v.toNat (advance t s.dev)).hwSets
        hwAt := (writeIncr v.toNat (advance t s.dev)).hwAt } := by
      rw [writeIncr_frame]
      rfl
    have incr : (writeIncr v.toNat (advance t s.dev)).geyser.incr.toNat = clampedIncr v.toNat := by
      rw [clock]
      exact toNat_clampedIncr _
    refine ⟨_, rfl, congrArg (fun d => { s with dev := d }) kept, ?_, ?_, incr, ?_, ?_⟩
    · exact congrArg Geyser.now clock
    · refine (congrArg Geyser.limitSince clock).trans ?_
      show (if (clampedIncr v.toNat == incrLow || clampedIncr v.toNat == incrHigh) = true then _ else _) = 
        if (writeIncr v.toNat (advance t s.dev)).geyser.incr.toNat = _ ∨ (writeIncr v.toNat (advance t s.dev)).geyser.incr.toNat = _
        then _ else _
      rw [incr]
      simp only [Bool.or_eq_true, beq_iff_eq]
      rfl
    · refine (congrArg Geyser.clamped clock).trans ?_
      rw [← clampedIncr_ne]
      rfl
    · exact ⟨(congrArg Geyser.state clock).trans rfl, (congrArg Geyser.pulses clock).trans rfl,
        (congrArg Geyser.ports clock).trans rfl, (congrArg Geyser.cfg clock).trans rfl⟩
  · intro t s k since late untold
    exact ⟨_, next_onDev (limitHold_due (d := advance t s.dev) since late untold), rfl, rfl, rfl, kfind?_kput_self _ _ _⟩
  · intro t s quiet
    exact ⟨_, next_onDev (limitHold_quiet (d := advance t s.dev) quiet), rfl, rfl⟩

/-! ### Steps (R383 to R386) -/

/-- How far a step of `a` moves time: a time that would be negative becomes zero. -/
def stepMade (a : Int) (d : Dev) : Int := (shiftBy a (d.geyser.now + d.geyser.incr.toNat) : Int) - (d.geyser.now + d.geyser.incr.toNat : Nat)

/-- The device after a step, but for the attention and the register sets that tell of it. -/
def steppedTo (a : Int) (d : Dev) : Dev :=
  modGey (fun g => { g with
      now := shiftBy a (d.geyser.now + d.geyser.incr.toNat), stepped := true, good := 0
      pulses := kmapv (fun _ p => stopPulse p) g.pulses })
    (shiftIntervals (stepMade a d) d)

theorem applyStep_unlocked {a : Int} {d : Dev} (unlocked : d.geyser.state = .unlocked) : ∃ sets at_, applyStep a d =
    timeAttn 2 0 0 0xFF ((stepMade a d).tdiv 4294967296) { steppedTo a d with hwSets := sets, hwAt := at_ } := by
  have step : applyStep a d = timeAttn 2 0 0 0xFF ((stepMade a d).tdiv 4294967296) ((steppedTo a d).geyser.pulses.foldl
      (fun d e => if e.2.stopped then hwSet (.pulseCtrl (Fin.ofNat 8 e.1)) (2 ^ 28) d else d) (hwSet .geyCtrl (2 ^ 27) (steppedTo a d))) :=
    (if_neg (not_not_intro unlocked)).trans rfl
  rw [step, stoppedSets_frame]
  exact ⟨_, _, rfl⟩

theorem applyStep_locked {a : Int} {d : Dev} (locked : d.geyser.state ≠ .unlocked) :
    applyStep a d = hwSet .geyCtrl (2 ^ 28) (modGey (fun g => { g with stepRefused := true }) d) :=
  if_pos locked

/-- A start that stays at or above zero moves by the step. -/
theorem shiftBy_eq {a : Int} {t : Time} (h : 0 ≤ (t : Int) + a) : (shiftBy a t : Int) = t + a := Int.toNat_of_nonneg h

/-- A programmed output goes idle at a step. -/
theorem stopPulse_programmed {p : Pulse} (h : p.mode ≠ 0) :
    (stopPulse p).mode = 0 ∧ (stopPulse p).run = false ∧ (stopPulse p).level = false := by
  have runs : pulseRuns p = true := bne_iff_ne.mpr h
  unfold stopPulse
  rw [if_pos runs]
  exact ⟨rfl, rfl, rfl⟩

theorem pulseOf_steppedTo (a : Int) (d : Dev) (o : Nat) : pulseOf (steppedTo a d) o = stopPulse (pulseOf d o) :=
  kget_kmapv (fun _ p => stopPulse p) {} d.geyser.pulses o rfl

/-- Every entry of a table whose starts move is found again, moved. -/
theorem kfind?_shifted {α : Type} {f : Nat → α → α} {m : KMap α} {k : Nat} {x : α} (h : kfind? m k = some x) :
    kfind? (kmapv f m) k = some (f k x) := by
  rw [kfind?_kmapv, h]
  rfl

section

variable (a : Int) (d : Dev)

/-! The tables whose entries hold an interval (R385). -/

theorem steppedTo_contexts : (steppedTo a d).contexts = kmapv (fun _ x => { x with
    rateAt := shiftBy (stepMade a d) x.rateAt
    results := x.results.map fun r => { r with windows := r.windows.map fun e => (e.1, shiftBy (stepMade a d) e.2) } }) d.contexts := rfl

theorem steppedTo_uwd : (steppedTo a d).watch.uwd = kmapv (fun _ w => { w with
    last := shiftBy (stepMade a d) w.last, graceFrom := shiftBy (stepMade a d) w.graceFrom }) d.watch.uwd := rfl

theorem steppedTo_monitors : (steppedTo a d).watch.monitors =
    kmapv (fun _ m => { m with start := shiftBy (stepMade a d) m.start }) d.watch.monitors := rfl

theorem steppedTo_src : (steppedTo a d).cal.src = kmapv (fun _ x => { x with
    opens := shiftBy (stepMade a d) x.opens, forcedAt := shiftBy (stepMade a d) x.forcedAt
    asserted := x.asserted.map (shiftBy (stepMade a d)), lastEvent := x.lastEvent.map (shiftBy (stepMade a d)) }) d.cal.src := rfl

theorem steppedTo_hbm : (steppedTo a d).sched.hbm =
    kmapv (fun _ b => { b with at_ := shiftBy (stepMade a d) b.at_ }) d.sched.hbm := rfl

/-- What a step leaves of the parts that hold no interval, and of those that hold some. -/
theorem steppedTo_frame :
    (steppedTo a d).sched = { d.sched with
      hbm := (steppedTo a d).sched.hbm, mesh := (steppedTo a d).sched.mesh, requests := (steppedTo a d).sched.requests } ∧
    (steppedTo a d).cores = { d.cores with core := (steppedTo a d).cores.core, dma := (steppedTo a d).cores.dma } ∧
    (∀ k x, kfind? d.contexts k = some x → ∃ y, kfind? (steppedTo a d).contexts k = some y ∧
      y = { x with rateAt := y.rateAt, results := y.results }) ∧
    (steppedTo a d).ports = d.ports ∧ (steppedTo a d).queues = d.queues ∧ (steppedTo a d).plans = d.plans ∧
    (steppedTo a d).front = d.front ∧ (steppedTo a d).pace = d.pace := by
  refine ⟨rfl, rfl, fun k x found => ?_, rfl, rfl, rfl, rfl, rfl⟩
  rw [steppedTo_contexts]
  exact ⟨_, kfind?_shifted found, rfl⟩

/-- What a step does to the clock: time moves, and a negative time becomes zero. -/
theorem steppedTo_clock :
    ((steppedTo a d).geyser.now : Int) = max 0 ((d.geyser.now : Int) + d.geyser.incr.toNat + a) ∧
    (steppedTo a d).geyser.stepped = true ∧ (steppedTo a d).geyser.state = d.geyser.state ∧
    (steppedTo a d).geyser.incr = d.geyser.incr ∧ (steppedTo a d).geyser.ppsOut = d.geyser.ppsOut ∧
    (steppedTo a d).attn = d.attn := by
  refine ⟨?_, rfl, rfl, rfl, rfl, rfl⟩
  show ((((d.geyser.now + d.geyser.incr.toNat : Nat) : Int) + a).toNat : Int) = _
  omega

/-- The starts of the intervals that R385 names move with a step. -/
theorem steppedTo_intervals {step : Int} (hstep : step = stepMade a d) :
    (∀ k w, kfind? d.watch.uwd k = some w → 0 ≤ w.last + step →
      ∃ w', kfind? (steppedTo a d).watch.uwd k = some w' ∧ (w'.last : Int) = w.last + step) ∧
    (0 ≤ d.watch.dwd.last + step → ((steppedTo a d).watch.dwd.last : Int) = d.watch.dwd.last + step) ∧
    (∀ k m, kfind? d.watch.monitors k = some m → 0 ≤ m.start + step →
      ∃ m', kfind? (steppedTo a d).watch.monitors k = some m' ∧ (m'.start : Int) = m.start + step) ∧
    (∀ k x, kfind? d.cal.src k = some x → 0 ≤ x.opens + step →
      ∃ x', kfind? (steppedTo a d).cal.src k = some x' ∧ (x'.opens : Int) = x.opens + step) ∧
    (∀ k b, kfind? d.sched.hbm k = some b → 0 ≤ b.at_ + step →
      ∃ b', kfind? (steppedTo a d).sched.hbm k = some b' ∧ (b'.at_ : Int) = b.at_ + step) := by
  subst hstep
  rw [steppedTo_uwd, steppedTo_monitors, steppedTo_src, steppedTo_hbm]
  exact ⟨fun _ _ found h => ⟨_, kfind?_shifted found, shiftBy_eq h⟩, shiftBy_eq, fun _ _ found h => ⟨_, kfind?_shifted found, shiftBy_eq h⟩,
    fun _ _ found h => ⟨_, kfind?_shifted found, shiftBy_eq h⟩, fun _ _ found h => ⟨_, kfind?_shifted found, shiftBy_eq h⟩⟩

end

/-- A write of GEY_STEP, taken. -/
def stepWritten (t : Time) (n : BitVec 48) (f : W16) (s : State) : Dev :=
  modGey (fun g => { g with stepNs := n, stepFrac := f }) (advance t s.dev)

theorem exec_stepWrite {t : Time} {n : BitVec 48} {f : W16} {s : State} (unlocked : s.dev.geyser.state = .unlocked) :
    ∃ sets at_ k, exec (.geyStepWrite t n f) s = .next {
      s with dev := timeAttn 2 0 0 0xFF k {
        steppedTo (n.toInt * 4294967296 + f.toNat * 65536) (stepWritten t n f s) with hwSets := sets, hwAt := at_ } } := by
  obtain ⟨sets, at_, e⟩ := applyStep_unlocked (a := n.toInt * 4294967296 + f.toNat * 65536) (d := stepWritten t n f s) unlocked
  exact ⟨sets, at_, _, next_onDev e⟩

/-- A set noted for a register changes nothing but the sets of the present instant. -/
theorem hwSet_frame (r : Reg) (b : Nat) (d : Dev) :
    hwSet r b d = { d with hwSets := (hwSet r b d).hwSets, hwAt := (hwSet r b d).hwAt } := rfl

theorem stepMade_eq (a : Int) (d : Dev) :
    stepMade a d = (steppedTo a d).geyser.now - ((d.geyser.now : Int) + d.geyser.incr.toNat) :=
  congrArg (fun x : Int => (steppedTo a d).geyser.now - x) (Int.natCast_add _ _)

/-- Settles O38, by what a step makes of the clock and of each interval in progress. -/
theorem stepOnlyInUnlocked : Obligations.StepOnlyInUnlocked := by
  refine ⟨?_, ?_, ?_⟩
  · intro t n f s locked
    refine ⟨_, next_onDev (applyStep_locked (d := stepWritten t n f s) locked), ?_⟩
    exact congrArg (fun d => { s with dev := d }) (hwSet_frame _ _ _)
  · intro t n f s unlocked
    obtain ⟨sets, at_, k, next⟩ := exec_stepWrite (t := t) (n := n) (f := f) unlocked
    generalize hd : n.toInt * 4294967296 + (f.toNat : Int) * 65536 = a at next
    obtain ⟨now, stepped, state, incr, pps, attn⟩ := steppedTo_clock a (stepWritten t n f s)
    obtain ⟨sched, cores, contexts, ports, queues, plans, front, pace⟩ := steppedTo_frame a (stepWritten t n f s)
    refine ⟨_, next, ?_⟩
    refine ⟨?_, stepped, state.trans unlocked, incr, pps, fun o _ programmed => ?_, ?_, ?_, rfl, rfl, sched, cores, contexts, ports,
      queues, plans, front, pace⟩
    · refine now.trans ?_
      rw [← hd, ← Int.add_assoc]
      rfl
    · have stopped := pulseOf_steppedTo a (stepWritten t n f s) o
      have idle := stopPulse_programmed programmed
      exact ⟨(congrArg Pulse.mode stopped).trans idle.1, (congrArg Pulse.run stopped).trans idle.2.1,
        (congrArg Pulse.level stopped).trans idle.2.2⟩
    · exact congrArg (fun x : Attention => x.serial + 1) attn
    · exact Option.isSome_iff_exists.mpr ⟨_, kfind?_kput_self _ _ _⟩
  · intro t n f s u step unlocked next hstep
    obtain ⟨sets, at_, k, e⟩ := exec_stepWrite (t := t) (n := n) (f := f) unlocked
    generalize n.toInt * 4294967296 + (f.toNat : Int) * 65536 = a at e
    obtain rfl := Host.Outcome.next.inj (e.symm.trans next)
    exact steppedTo_intervals a (stepWritten t n f s) (hstep.trans (stepMade_eq a _).symm)

/-! ### Pulse outputs (R396, R398) -/

/-- An output that runs rises at its occurrence. -/
theorem pulseRise_running {o : Nat} {d : Dev} (runs : (pulseOf d o).run = true) :
    pulseRise o d = modPulse o (fun p => { p with level := true, n := p.n + 1, run := p.mode == 2 })
      (advance ((pulseOf d o).start + (pulseOf d o).n * (pulseOf d o).period) d) :=
  if_pos runs

/-- An output that is high falls at the occurrence plus its width. -/
theorem pulseDrop_high {o : Nat} {d : Dev} (high : (pulseOf d o).level = true) :
    pulseDrop o d = modPulse o (fun p => { p with level := false, mode := if p.mode = 1 then 0 else p.mode })
      (advance ((pulseOf d o).start + ((pulseOf d o).n - 1) * (pulseOf d o).period + (pulseOf d o).width) d) :=
  if_pos high

/-- The whole second at or next after an instant. -/
def nextSecond (now : Time) : Time := if now % sec 1 = 0 then now else nextMultiple (sec 1) now

/-- The multiple of `m` after `t` is the first one above it. -/
theorem nextMultiple_spec {m : Nat} (positive : 0 < m) (t : Nat) :
    nextMultiple m t % m = 0 ∧ t ≤ nextMultiple m t ∧ nextMultiple m t ≤ t / m * m + m := by
  have grown : nextMultiple m t = t / m * m + m := Nat.succ_mul _ _
  have whole : nextMultiple m t % m = 0 := Nat.mul_mod_left _ _
  exact ⟨whole, grown ▸ Nat.le_of_lt (Nat.lt_div_mul_add positive), Nat.le_of_eq grown⟩

theorem nextSecond_spec (now : Nat) : nextSecond now % sec 1 = 0 ∧ now ≤ nextSecond now ∧ nextSecond now < now + sec 1 := by
  have positive : 0 < sec 1 := by decide
  unfold nextSecond
  generalize sec 1 = m at positive ⊢
  split
  next h => exact ⟨h, Nat.le_refl _, Nat.lt_add_of_pos_right positive⟩
  next h =>
    obtain ⟨whole, after, within⟩ := nextMultiple_spec positive now
    have floor : now / m * m < now := by
      have parts := Nat.div_add_mod' now m
      have rest := Nat.pos_of_ne_zero h
      generalize now % m = r at rest parts
      omega
    exact ⟨whole, after, Nat.lt_of_le_of_lt within (Nat.add_lt_add_right floor m)⟩

theorem ppsDrive_rise {d : Dev} (low : d.geyser.ppsOut = false) :
    ppsDrive true d = modGey (fun g => { g with ppsOut := true }) (advance (nextSecond d.geyser.now) d) := by
  unfold ppsDrive
  dsimp only
  rw [if_pos rfl, low, if_neg Bool.false_ne_true]
  rfl

theorem ppsDrive_fall {d : Dev} (high : d.geyser.ppsOut = true) : ppsDrive false d = modGey (fun g => { g with ppsOut := false })
    (advance (d.geyser.now / sec 1 * sec 1 + us d.geyser.cfg.ppsWidthUs) d) := by
  unfold ppsDrive
  dsimp only
  rw [if_neg Bool.false_ne_true, high, if_pos rfl]

/-- Settles O40, by what each edge does to its output. -/
theorem pulseOutputs : Obligations.PulseOutputs := by
  refine ⟨?_, ?_, ?_, ?_⟩
  · intro o s runs
    exact ⟨_, next_onDev (pulseRise_running runs), rfl, rfl, pulseOf_modPulse _ o.val _, fun k other => pulseOf_modPulse_ne _ _ other⟩
  · intro o s high _
    have fallen := pulseOf_modPulse (advance ((pulseOf s.dev o.val).start + ((pulseOf s.dev o.val).n - 1) * (pulseOf s.dev o.val).period +
      (pulseOf s.dev o.val).width) s.dev) o.val (fun p => { p with level := false, mode := if p.mode = 1 then 0 else p.mode })
    exact ⟨_, next_onDev (pulseDrop_high high), rfl, rfl, congrArg Pulse.level fallen, congrArg Pulse.mode fallen,
      fun k other => pulseOf_modPulse_ne _ _ other⟩
  · intro s low
    obtain ⟨whole, after, within⟩ := nextSecond_spec s.dev.geyser.now
    have now : max s.dev.geyser.now (nextSecond s.dev.geyser.now) = nextSecond s.dev.geyser.now := Nat.max_eq_right after
    refine ⟨_, next_onDev (ppsDrive_rise low), rfl, ?_⟩
    show max _ (nextSecond _) % _ = 0 ∧ _ ≤ max _ (nextSecond _) ∧ max _ (nextSecond _) < _
    rw [now]
    exact ⟨whole, after, within⟩
  · intro s high
    exact ⟨_, next_onDev (ppsDrive_fall high), rfl, rfl⟩

/-! ### PPS_IN (R399) -/

/-- The clock alone has changed, with the attention and the register sets that tell of it and the free values taken. -/
def onlyClock (d e : Dev) : Prop :=
  e = { d with geyser := e.geyser, attn := e.attn, free := e.free, hwSets := e.hwSets, hwAt := e.hwAt }

theorem onlyClock_trans {d e f : Dev} (first_ : onlyClock d e) (then_ : onlyClock e f) : onlyClock d f := by
  unfold onlyClock at first_ then_ ⊢
  rw [then_, first_]

theorem onlyClock_ite {p : Prop} [Decidable p] {d a b : Dev} (yes : onlyClock d a) (no : onlyClock d b) : onlyClock d (if p then a else b) := by
  split
  · exact yes
  · exact no

theorem onlyClock_of {d e : Dev} {g : Geyser} {a : Attention} {n : Nat} {sets : List HwSet} {at_ : Time}
    (h : e = { d with geyser := g, attn := a, free := n, hwSets := sets, hwAt := at_ }) : onlyClock d e := by
  subst h
  rfl

theorem onlyClock_modGey (g : Geyser → Geyser) (d : Dev) : onlyClock d (modGey g d) := rfl

theorem onlyClock_fresh (d : Dev) : onlyClock d (fresh d).2 := rfl

theorem onlyClock_clockTo (c : ClockState) (p : Nat) (d : Dev) : onlyClock d (clockTo c p d) := onlyClock_of (clockTo_frame c p d)

theorem onlyClock_writeIncr (v : Nat) (d : Dev) : onlyClock d (writeIncr v d) := onlyClock_of (writeIncr_frame v d)

/-- Without leave to step, a measurement changes the clock only. -/
theorem servo_noStep {off : Int} {port : Nat} {d : Dev} (may : mayStep d = false) : onlyClock d (servo off port d) := by
  simp only [servo]
  split
  next step => exact absurd (Bool.and_eq_true_iff.mp step).1 (Bool.eq_false_iff.mp may)
  · refine onlyClock_trans ?_ (onlyClock_writeIncr _ _)
    refine onlyClock_trans (onlyClock_trans (onlyClock_trans ?_ (onlyClock_fresh _)) (onlyClock_fresh _)) (onlyClock_modGey _ _)
    have counted {f g : Geyser → Geyser} : onlyClock d (modGey g (modGey f d)) := onlyClock_modGey _ _
    exact onlyClock_ite (onlyClock_trans counted (onlyClock_clockTo _ _ _)) counted

theorem ppsEdge_off {d : Dev} (off : d.geyser.cfg.ppsIn = 0) : ppsEdge d = d := if_pos off

theorem ppsEdge_stamped {d : Dev} (stamped : d.geyser.cfg.ppsIn = 1) : ppsEdge d = modGey (fun g => { g with ppsStamp := g.now }) d := by
  have used : d.geyser.cfg.ppsIn ≠ 0 := stamped ▸ Nat.one_ne_zero
  have other : ppsReference (modGey (fun g => { g with ppsStamp := g.now }) d) = false :=
    Bool.and_eq_false_imp.mpr fun two => by
      have : d.geyser.cfg.ppsIn = 2 := beq_iff_eq.mp two
      omega
  exact (if_neg used).trans (if_pos (by rw [other]; rfl))

/-- The reference is the input's setting 2. -/
theorem ppsIn_of_reference {d : Dev} (ref : ppsReference d = true) : d.geyser.cfg.ppsIn ≠ 0 := by
  have two : d.geyser.cfg.ppsIn = 2 := beq_iff_eq.mp (Bool.and_eq_true_iff.mp ref).1
  omega

theorem ppsEdge_measured {d : Dev} (ref : ppsReference d = true)
    (near : ¬(d.geyser.state ≠ .unlocked ∧ (ppsOffset d.geyser.now).natAbs > ms 100)) : ppsEdge d =
      servo (ppsOffset d.geyser.now) 0xFF (modGey (fun g => { g with ppsStamp := g.now, ppsMissing := 0 }) d) := by
  have ref' : ppsReference (modGey (fun g => { g with ppsStamp := g.now }) d) = true := ref
  refine (if_neg (ppsIn_of_reference ref)).trans ((if_neg ?_).trans (if_neg near))
  rw [ref']
  exact Bool.false_ne_true

/-- The second missing edge in a row ends LOCKED. -/
theorem ppsMissed_again {d : Dev} (again : 1 ≤ d.geyser.ppsMissing) :
    ppsMissed d = freeRun 0xFF (modGey (fun g => { g with ppsMissing := g.ppsMissing + 1 }) d) :=
  if_pos (Nat.succ_le_succ again)

theorem ppsMissed_first {d : Dev} (first_ : d.geyser.ppsMissing = 0) : ppsMissed d = modGey (fun g => { g with ppsMissing := 1 }) d := by
  have few : ¬(modGey (fun g => { g with ppsMissing := g.ppsMissing + 1 }) d).geyser.ppsMissing ≥ 2 := by
    show ¬d.geyser.ppsMissing + 1 ≥ 2
    omega
  refine (if_neg few).trans ?_
  have counted : d.geyser.ppsMissing + 1 = 1 := by rw [first_]
  exact congrArg (fun n => modGey (fun g => { g with ppsMissing := n }) d) counted

theorem exec_ppsInMissing {t : Time} {s : State} (ref : ppsReference s.dev = true) :
    exec (.ppsInMissing t) s = .next { s with dev := ppsMissed (advance t s.dev) } :=
  next_onDev (f := fun d => let d := advance t d; if ppsReference d then ppsMissed d else d) (if_pos ref)

/-- Settles O41, by what the servo and FREE_RUN may change. -/
theorem ppsInput : Obligations.PpsInput := by
  refine ⟨?_, ?_, ?_, ?_, ?_⟩
  · intro t s ref near
    have next : exec (.ppsIn t) s = .next { s with dev := _ } := next_onDev (ppsEdge_measured (d := advance t s.dev) ref near)
    generalize hd : modGey (fun g => { g with ppsStamp := g.now, ppsMissing := 0 }) (advance t s.dev) = d at next
    obtain ⟨offset, stamp, missing⟩ := servo_geyser (ppsOffset (advance t s.dev).geyser.now) 0xFF d
    have frame := servo_frame (ppsOffset (advance t s.dev).geyser.now) 0xFF d
    have quiet := fun may => servo_noStep (off := ppsOffset (advance t s.dev).geyser.now) (port := 0xFF) (d := d) may
    refine ⟨_, next, stamp.trans (by rw [← hd]; rfl), missing.trans (by rw [← hd]; rfl), offset, rfl, rfl,
      (congrArg Dev.ports frame).trans (by rw [← hd]; rfl), fun may => ?_⟩
    refine congrArg (fun d => { s with dev := d }) ((quiet (by rw [← hd]; exact may)).trans ?_)
    generalize servo _ _ d = e
    rw [← hd]
    rfl
  · intro t s off
    exact next_onDev (ppsEdge_off (d := advance t s.dev) off)
  · intro t s stamped
    exact ⟨_, next_onDev (ppsEdge_stamped (d := advance t s.dev) stamped), rfl⟩
  · intro t s ref locked again
    refine ⟨_, exec_ppsInMissing ref, ?_⟩
    rw [ppsMissed_again (d := advance t s.dev) again]
    have frame := freeRun_frame 0xFF (modGey (fun g => { g with ppsMissing := g.ppsMissing + 1 }) (advance t s.dev))
    obtain ⟨state, -, -, -, -, -, missing, -⟩ := freeRun_geyser 0xFF (modGey (fun g => { g with ppsMissing := g.ppsMissing + 1 }) (advance t s.dev))
    exact ⟨state.trans (if_pos locked), missing, congrArg (fun d => { s with dev := d }) (frame.trans rfl)⟩
  · intro t s ref first_
    refine ⟨_, exec_ppsInMissing ref, ?_⟩
    rw [ppsMissed_first (d := advance t s.dev) first_]
    rfl

end Sys2Proof.Machine
end

section
/-! PTP messages heard and sent (15 R388, R390, R393): one equation per message for a port that hears it, and O42. -/

namespace Sys2Proof.Machine

open Sys2Proof

section
variable {port : Nat} {m : PtpMessage} {d : Dev}

/-- A port that hears a message has a PTP role, with its link up. -/
theorem heard_port (hears : ptpHears d port m = true) : (portOf d port).link = true ∧ ptpRoles.contains (portOf d port).role = true := by
  have up := (Bool.and_eq_true_iff.mp hears).1
  simp only [ptpUp, Bool.and_eq_true] at up
  exact ⟨up.1.2, up.1.1.2⟩

theorem portHears_carried {carries : List PortRole} {f : Dev → Dev} (link : (portOf d port).link = true)
    (carried : carries.contains (portOf d port).role = true) : portHears port carries f d = f d :=
  (if_neg (by rw [link]; exact Bool.false_ne_true)).trans (if_pos carried)

theorem portHears_ptp {f : Dev → Dev} (hears : ptpHears d port m = true) : portHears port ptpRoles f d = f d :=
  portHears_carried (heard_port hears).1 (heard_port hears).2

theorem portHears_none {f : Dev → Dev} (link : (portOf d port).link = true) (role : (portOf d port).role = .none_) :
    portHears port ptpRoles f d = modPort port (fun p => { p with unsupported := p.unsupported.add 1 }) d := by
  unfold portHears
  dsimp only
  rw [link, role]
  rfl

theorem portHears_out {f : Dev → Dev} (link : (portOf d port).link = true) (role : (portOf d port).role = .out) :
    portHears port ptpRoles f d = modPort port (fun p => { p with outReceived := p.outReceived.add 1 }) d := by
  unfold portHears
  dsimp only
  rw [link, role]
  rfl

/-- What a message of the followed master meets. -/
theorem followed (hears : ptpHears d port m = true) (from_ : fromMaster d port m = true) :
    ¬((!ptpHears d port m || !fromMaster d port m) = true) := by
  rw [hears, from_]
  exact Bool.false_ne_true

theorem ptpSync_oneStep (hears : ptpHears d port m = true) (from_ : fromMaster d port m = true) (one : m.twoStep = false) :
    ptpSync port m d = servoMeasure port m.stamp d.geyser.now (corrOf m) d :=
  (if_neg (followed hears from_)).trans (if_neg (by rw [one]; exact Bool.false_ne_true))

theorem ptpSync_twoStep (hears : ptpHears d port m = true) (from_ : fromMaster d port m = true) (two : m.twoStep = true) :
    ptpSync port m d = modPtp port (fun p => { p with syncRx := some (m.sequenceId, d.geyser.now, corrOf m) }) d :=
  (if_neg (followed hears from_)).trans (if_pos two)

theorem ptpFollowUp_awaited {t2 : Time} {c : Int} (hears : ptpHears d port m = true) (from_ : fromMaster d port m = true)
    (awaited : (ptpOf d port).syncRx = some (m.sequenceId, t2, c)) :
    ptpFollowUp port m d = servoMeasure port m.stamp t2 (c + corrOf m) d := by
  refine (if_neg (followed hears from_)).trans ?_
  rw [awaited]
  exact if_pos rfl

theorem ptpDelayReq_master (hears : ptpHears d port m = true) (mech : mechOf d port = 1) (state : (ptpOf d port).state = .master) :
    ptpDelayReq port m d = sendPtp port 9 m.sequenceId d.geyser.now (corrOf m) d :=
  if_pos (by rw [hears, mech, state]; rfl)

theorem ptpDelayResp_awaited {t1 t2 t3 : Time} (hears : ptpHears d port m = true) (from_ : fromMaster d port m = true)
    (mech : mechOf d port = 1) (sent : (ptpOf d port).delayTx = some (m.sequenceId, t3))
    (synced : (ptpOf d port).syncPair = some (t1, t2)) : ptpDelayResp port m d = modPtp port (fun p => { p with
      meanDelay := (((t2 : Int) - t1) + ((m.stamp : Int) - corrOf m - t3)) / 2, delayTx := none }) d := by
  refine (if_neg (by rw [hears, from_, mech]; exact Bool.false_ne_true)).trans ?_
  rw [sent, synced]
  exact if_pos rfl

/-- What a message of the peer delay mechanism meets. -/
theorem peered (hears : ptpHears d port m = true) (mech : mechOf d port = 2) : ¬((!ptpHears d port m || mechOf d port != 2) = true) := by
  rw [hears, mech]
  exact Bool.false_ne_true

theorem ptpPdelayReq_twoStep (hears : ptpHears d port m = true) (mech : mechOf d port = 2) (two : twoStepOf d port = true) :
    ptpPdelayReq port m d = sendPtp port 3 m.sequenceId d.geyser.now (corrOf m) d :=
  (if_neg (peered hears mech)).trans (if_pos two)

theorem ptpPdelayReq_oneStep (hears : ptpHears d port m = true) (mech : mechOf d port = 2) (one : twoStepOf d port = false) :
    ptpPdelayReq port m d = sendPtp port 3 m.sequenceId 0 (corrOf m + (Config.freeWord d.free).toNat) { d with free := d.free + 1 } :=
  (if_neg (peered hears mech)).trans (if_neg (by rw [one]; exact Bool.false_ne_true))

theorem ptpPdelayResp_oneStep {t1 : Time} (hears : ptpHears d port m = true) (mech : mechOf d port = 2)
    (sent : (ptpOf d port).pdelayTx = some (m.sequenceId, t1)) (one : m.twoStep = false) : ptpPdelayResp port m d =
      modPtp port (fun p => { p with
        meanDelay := ((d.geyser.now : Int) - t1 - (corrOf m + asymOf d port)) / 2, pdelayTx := none }) d := by
  refine (if_neg (peered hears mech)).trans ?_
  rw [sent]
  exact (if_neg (not_not_intro rfl)).trans (if_neg (by rw [one]; exact Bool.false_ne_true))

theorem ptpPdelayResp_twoStep {t1 : Time} (hears : ptpHears d port m = true) (mech : mechOf d port = 2)
    (sent : (ptpOf d port).pdelayTx = some (m.sequenceId, t1)) (two : m.twoStep = true) : ptpPdelayResp port m d =
      modPtp port (fun p => { p with pdelayResp := some (m.sequenceId, d.geyser.now, m.stamp, corrOf m + asymOf d port) }) d := by
  refine (if_neg (peered hears mech)).trans ?_
  rw [sent]
  exact (if_neg (not_not_intro rfl)).trans (if_pos two)

theorem ptpPdelayFollowUp_awaited {t1 t2 t4 : Time} {c : Int} (hears : ptpHears d port m = true) (mech : mechOf d port = 2)
    (sent : (ptpOf d port).pdelayTx = some (m.sequenceId, t1))
    (answered : (ptpOf d port).pdelayResp = some (m.sequenceId, t4, t2, c)) : ptpPdelayFollowUp port m d =
      modPtp port (fun p => { p with
        meanDelay := (((t4 : Int) - t1) - ((m.stamp : Int) - t2) - c - corrOf m) / 2, pdelayTx := none, pdelayResp := none }) d := by
  refine (if_neg (peered hears mech)).trans ?_
  rw [sent, answered]
  exact if_pos ⟨rfl, rfl⟩

/-- A measurement keeps the memory and the ports; without leave to step it changes the clock only. -/
theorem servoMeasure_effect (origin receipt : Time) (corr : Int) (d : Dev) :
    (servoMeasure port origin receipt corr d).geyser.offset =
      ((receipt : Int) - ((origin : Int) + corr + asymOf d port) - (ptpOf d port).meanDelay).tdiv 4294967296 ∧
    (servoMeasure port origin receipt corr d).ports = d.ports ∧
    (mayStep d = false → onlyClock d (servoMeasure port origin receipt corr d)) := by
  unfold servoMeasure
  extract_lets t1 off
  generalize hd : modPtp port (fun p => { p with syncRx := none, syncPair := some (t1.toNat, receipt) }) d = d'
  have marked : onlyClock d d' := by rw [← hd]; rfl
  refine ⟨(servo_geyser off port d').1, (congrArg Dev.ports (servo_frame off port d')).trans (by rw [← hd]; rfl), fun may => ?_⟩
  exact onlyClock_trans marked (servo_noStep (by rw [← hd]; exact may))

/-- What a port that is not bound to PTP makes of every message. -/
theorem ptpSend_may {type : Nat} (may : maySend d port type = true) : ptpSend port type d =
    sendPtp port type ((ptpOf d port).seqId + 1) (if type = 0 ∧ twoStepOf d port = false then d.geyser.now else 0) 0
      (modPtp port (fun p => { p with seqId := (ptpOf d port).seqId + 1 }) d) := by
  simp only [ptpSend, may, if_true, Bool.not_eq_true']

theorem ptpOf_freeRun (p k : Nat) (d : Dev) : ptpOf (freeRun p d) k = ptpOf d k := by
  unfold ptpOf
  rw [(freeRun_geyser p d).2.1]

/-- The clock alone has changed, with the attention and the register sets that tell of it. -/
def onlyClockTold (d e : Dev) : Prop := e = { d with geyser := e.geyser, attn := e.attn, hwSets := e.hwSets, hwAt := e.hwAt }

theorem onlyClockTold_trans {d e f : Dev} (first_ : onlyClockTold d e) (then_ : onlyClockTold e f) : onlyClockTold d f := by
  unfold onlyClockTold at first_ then_ ⊢
  rw [then_, first_]

theorem onlyClockTold_ite {p : Prop} [Decidable p] {d a b : Dev} (yes : onlyClockTold d a) (no : onlyClockTold d b) :
    onlyClockTold d (if p then a else b) := by
  split
  · exact yes
  · exact no

theorem onlyClockTold_modPtp (n : Nat) (f : PtpPort → PtpPort) (d : Dev) : onlyClockTold d (modPtp n f d) := rfl

/-- The first foreign master that a port hears is kept. -/
theorem ptpAnnounce_first {a : AnnounceData} (hears : ptpHears d port m = true) (internal : d.geyser.cfg.external = false)
    (none_ : (ptpOf d port).foreign = none) : ∃ e, ptpAnnounce port m a d = runBmca e ∧
      (ptpOf e port).foreign = some a ∧ (ptpOf e port).announceAt = d.geyser.now ∧ onlyClockTold d e := by
  have kept := ptpOf_modPtp (d := d) port (fun p => { p with foreign := some a, announceAt := d.geyser.now })
  unfold ptpAnnounce
  rw [if_neg (by rw [hears, internal]; exact Bool.false_ne_true), none_]
  extract_lets keep before port0 d1 d2
  have held : ptpOf d2 port = ptpOf d1 port := by
    by_cases h : port0 = port ∧ before ≠ masterId d1
    · exact (congrArg (ptpOf · port) (if_pos h)).trans (ptpOf_freeRun _ _ _)
    · exact congrArg (ptpOf · port) (if_neg h)
  refine ⟨d2, if_pos rfl, held ▸ congrArg PtpPort.foreign kept, held ▸ congrArg PtpPort.announceAt kept,
    onlyClockTold_trans (onlyClockTold_modPtp _ _ _) (onlyClockTold_ite (freeRun_frame _ _) rfl)⟩

theorem announceTimeout_master (up : ptpUp d port = true) (internal : d.geyser.cfg.external = false)
    (master : d.geyser.master = port) (locked : d.geyser.state = .locked) : ∃ e, announceTimeout port d = runBmca e ∧
      (ptpOf e port).foreign = none ∧ e.geyser.state = .freeRun ∧ onlyClockTold d e := by
  unfold announceTimeout
  rw [if_neg (by rw [up, internal]; exact Bool.false_ne_true)]
  extract_lets g d1 d2 d3 d4
  have free : d2 = freeRun port d1 := if_pos master
  have ran : d3.geyser.state = .freeRun := by
    show d2.geyser.state = .freeRun
    rw [free]
    exact (freeRun_geyser port d1).1.trans (if_pos locked)
  have forgotten : (ptpOf d3 port).foreign = none := congrArg PtpPort.foreign (ptpOf_modPtp (d := d2) _ _)
  have told : onlyClockTold d d3 := onlyClockTold_trans (e := d2)
    (onlyClockTold_trans (e := d1) rfl (free ▸ freeRun_frame port d1)) (onlyClockTold_modPtp _ _ _)
  refine ⟨d4, rfl, ?_, ?_, onlyClockTold_trans told (onlyClockTold_ite (onlyClockTold_modPtp _ _ _) rfl)⟩
  · by_cases h : (g.masterCapable && (bestForeign d3).isNone) = true
    · rw [show d4 = _ from if_pos h]
      exact (congrArg PtpPort.foreign (ptpOf_modPtp (d := d3) _ _)).trans forgotten
    · rw [show d4 = _ from if_neg h]
      exact forgotten
  · by_cases h : (g.masterCapable && (bestForeign d3).isNone) = true
    · rw [show d4 = _ from if_pos h]
      exact ran
    · rw [show d4 = _ from if_neg h]
      exact ran

end

/-- A frame at a port, taken at its arrival. -/
theorem next_heard {port : Fin 4} {f : Dev → Dev} {m : PtpMessage} {t : Time} {s : State} {e : Dev}
    (hears : ptpHears s.dev port.val m = true) (h : f (advance t s.dev) = e) :
    .next (onDev (fun d => portHears port.val ptpRoles f (advance t d)) s) = (.next { s with dev := e } : Host.Outcome State Fault Refusal) :=
  next_onDev ((portHears_ptp (d := advance t s.dev) hears).trans h)

/-- One offset measurement at a port: what O42 says of a Sync and of a Follow_Up. -/
theorem measured_effect {port : Nat} {origin receipt t : Time} {corr : Int} {s : State} {e : Dev}
    (he : servoMeasure port origin receipt corr (advance t s.dev) = e) :
    e.geyser.offset = ((receipt : Int) - (origin + corr + asymOf s.dev port) - (ptpOf s.dev port).meanDelay).tdiv 4294967296 ∧
    e.ports = s.dev.ports ∧
    (mayStep s.dev = false → ({ s with dev := e } : State) = { s with dev := { s.dev with
      geyser := e.geyser, attn := e.attn, free := e.free, hwSets := e.hwSets, hwAt := e.hwAt } }) := by
  obtain ⟨offset, ports, quiet⟩ := servoMeasure_effect (port := port) origin receipt corr (advance t s.dev)
  rw [he] at offset ports quiet
  exact ⟨offset, ports, fun may => congrArg (fun d => { s with dev := d }) (quiet may)⟩

/-- A port that carries no PTP makes the same of every message. -/
theorem next_unheard {port : Fin 4} {f : Dev → Dev} {t : Time} {s u : State} (link : (portOf s.dev port.val).link = true)
    (counted : (portOf s.dev port.val).role = .none_ ∧
        u = { s with dev := modPort port.val (fun p => { p with unsupported := p.unsupported.add 1 }) (advance t s.dev) } ∨
      (portOf s.dev port.val).role = .out ∧
        u = { s with dev := modPort port.val (fun p => { p with outReceived := p.outReceived.add 1 }) (advance t s.dev) }) :
    .next (onDev (fun d => portHears port.val ptpRoles f (advance t d)) s) = (.next u : Host.Outcome State Fault Refusal) := by
  obtain ⟨role, rfl⟩ | ⟨role, rfl⟩ := counted
  · exact next_onDev (portHears_none (d := advance t s.dev) link role)
  · exact next_onDev (portHears_out (d := advance t s.dev) link role)

/-- Settles O42, by the equation of each message. -/
theorem ptpMessages : Obligations.PtpMessages := by
  refine ⟨?_, ?_, ?_, ?_, ?_, ?_, ?_, ?_, ?_, ?_, ?_, ?_, ?_, ?_⟩
  · intro t port m s hears from_ one
    have next : exec (.ptpSync t port m) s = .next { s with dev := _ } :=
      next_heard hears (ptpSync_oneStep (d := advance t s.dev) hears from_ one)
    obtain ⟨offset, ports, quiet⟩ := measured_effect (s := s) (t := t) (port := port.val) (origin := m.stamp)
      (receipt := (advance t s.dev).geyser.now) (corr := corrOf m) rfl
    exact ⟨_, next, offset, rfl, rfl, ports, quiet⟩
  · intro t port m s t2 c hears from_ awaited
    have next : exec (.ptpFollowUp t port m) s = .next { s with dev := _ } :=
      next_heard hears (ptpFollowUp_awaited (d := advance t s.dev) hears from_ awaited)
    obtain ⟨offset, ports, quiet⟩ := measured_effect (s := s) (t := t) (port := port.val) (origin := m.stamp)
      (receipt := t2) (corr := c + corrOf m) rfl
    exact ⟨_, next, offset, rfl, rfl, ports, quiet⟩
  · intro t port m s hears mech state
    exact ⟨_, next_heard hears (ptpDelayReq_master (d := advance t s.dev) hears mech state), rfl,
      ptpOf_modPtp (d := advance t s.dev) _ _⟩
  · intro t port m s t1 t2 t3 hears from_ mech sent synced
    exact ⟨_, next_heard hears (ptpDelayResp_awaited (d := advance t s.dev) hears from_ mech sent synced), rfl,
      ptpOf_modPtp (d := advance t s.dev) _ _⟩
  · intro t port m s hears mech
    by_cases two : twoStepOf s.dev port.val = true
    · exact ⟨_, next_heard hears (ptpPdelayReq_twoStep (d := advance t s.dev) hears mech two), rfl,
        fun _ => ptpOf_modPtp (d := advance t s.dev) _ _, fun one => absurd (one.symm.trans two) Bool.false_ne_true⟩
    · exact ⟨_, next_heard hears (ptpPdelayReq_oneStep (d := advance t s.dev) hears mech (Bool.eq_false_iff.mpr two)), rfl,
        fun h => absurd h two, fun _ => ⟨_, ptpOf_modPtp (d := { advance t s.dev with free := s.dev.free + 1 }) _ _⟩⟩
  · intro t port m s t1 hears mech sent one
    exact ⟨_, next_heard hears (ptpPdelayResp_oneStep (d := advance t s.dev) hears mech sent one), rfl,
      ptpOf_modPtp (d := advance t s.dev) _ _⟩
  · intro t port m s t1 hears mech sent two
    exact next_heard hears (ptpPdelayResp_twoStep (d := advance t s.dev) hears mech sent two)
  · intro t port m s hears from_ two
    exact next_heard hears (ptpSync_twoStep (d := advance t s.dev) hears from_ two)
  · intro t port m a s u link counted
    exact ⟨next_unheard link counted, next_unheard link counted, next_unheard link counted, next_unheard link counted,
      next_unheard link counted, next_unheard link counted, next_unheard link counted, next_unheard link counted,
      next_unheard link counted⟩
  · intro t port m s t1 t2 t4 c hears mech sent answered
    exact ⟨_, next_heard hears (ptpPdelayFollowUp_awaited (d := advance t s.dev) hears mech sent answered), rfl,
      ptpOf_modPtp (d := advance t s.dev) _ _⟩
  · intro t port s link role below
    have carried : ptpRoles.contains (portOf s.dev port.val).role = true := List.contains_iff_mem.mpr role
    refine ⟨_, next_onDev (portHears_carried (d := advance t s.dev) link carried), rfl, ?_⟩
    refine (congrArg (fun p : Port => p.management.n) (portOf_modPort (d := advance t s.dev) _ _)).trans ?_
    exact Nat.min_eq_left below
  · intro t port ty s may
    have next : exec (.ptpMessageSend t port ty) s = .next { s with dev := _ } :=
      next_onDev (ptpSend_may (d := advance t s.dev) (type := ty.toNat) may)
    have sent := fun (q : W16) (stamp : Time) => (ptpOf_modPtp (d := modPtp port.val (fun p => { p with seqId := q }) (advance t s.dev)) port.val
      (fun p => { p with sent := some (ty.toNat, q, stamp, 0) })).trans
      (congrArg (fun p : PtpPort => { p with sent := some (ty.toNat, q, stamp, 0) }) (ptpOf_modPtp (d := advance t s.dev) _ _))
    exact ⟨_, next, rfl, congrArg PtpPort.seqId (sent _ _), congrArg PtpPort.sent (sent _ _)⟩
  · intro t port m a s hears internal none_
    obtain ⟨e, ran, kept, at_, told⟩ := ptpAnnounce_first (d := advance t s.dev) (a := a) hears internal none_
    obtain ⟨foreign, announceAt⟩ := runBmca_foreign e port.val
    refine ⟨_, next_heard hears ran, foreign.trans kept, announceAt.trans at_, ?_⟩
    exact congrArg (fun d => { s with dev := d }) (onlyClockTold_trans (e := advance t s.dev) rfl
      (onlyClockTold_trans told (runBmca_frame e)))
  · intro port s up internal master locked
    obtain ⟨e, ran, forgotten, state, told⟩ := announceTimeout_master (d := s.dev) up internal master locked
    refine ⟨_, next_onDev ran, (runBmca_foreign e port.val).1.trans forgotten,
      (runBmca_freeRun e (by rw [state]; decide)).trans state, ?_⟩
    exact congrArg (fun d => { s with dev := d }) (onlyClockTold_trans told (runBmca_frame e))

end Sys2Proof.Machine
end

section
/-! Events on Caldera's source wires (16 R401 to R407, R413 to R417): one event's effect on its source's registers, and O43, O45, O46
and O47. -/

namespace Sys2Proof.Machine

open Sys2Proof

/-! ### An event that is counted, held or kept pending -/

section
variable {n ch : Nat} {d : Dev}

theorem signalCh_muted (mute : (srcOf d n).mute = true) : signalCh n ch d = keepPending n ch d := if_pos mute

/-- Up to 15 events wait at their origin; more set OVERRUN. -/
theorem srcOf_keepPending : srcOf (keepPending n ch d) n = { srcOf d n with
    waiting := if (srcOf d n).waiting.length < 15 then (srcOf d n).waiting ++ [ch] else (srcOf d n).waiting
    overrun := (srcOf d n).overrun || decide (15 ≤ (srcOf d n).waiting.length) } := by
  unfold keepPending
  split
  next h =>
    have few : decide (15 ≤ (srcOf d n).waiting.length) = false := decide_eq_false (Nat.not_le.mpr h)
    rw [srcOf_modSrc, few, Bool.or_false]
  next h =>
    have full : decide (15 ≤ (srcOf d n).waiting.length) = true := decide_eq_true (Nat.not_lt.mp h)
    rw [srcOf_hwSet, srcOf_modSrc, full, Bool.or_true]

/-- What an event that is not under test may change of its source. -/
def onlyCounted (x y : Source) : Prop := y = { x with
  sticky := y.sticky, opens := y.opens, count := y.count, severe := y.severe, waiting := y.waiting, overrun := y.overrun }

theorem onlyCounted_trans {x y z : Source} (first_ : onlyCounted x y) (then_ : onlyCounted y z) : onlyCounted x z := by
  unfold onlyCounted at *
  rw [then_, first_]

theorem signalCh_onlyCounted (untested : (srcOf d n).force = false) : onlyCounted (srcOf d n) (srcOf (signalCh n ch d) n) := by
  by_cases mute : (srcOf d n).mute = true
  · rw [signalCh_muted mute, srcOf_keepPending]
    rfl
  · rw [signalCh_srcOf n ch d (Bool.eq_false_iff.mpr mute) untested, countEvent_eq]
    rfl

/-- An event delivered adds nothing to what waits at the origin. -/
theorem signalCh_delivered (unmuted : (srcOf d n).mute = false) :
    (srcOf (signalCh n ch d) n).mute = false ∧ (srcOf (signalCh n ch d) n).waiting = (srcOf d n).waiting := by
  by_cases tested : (srcOf d n).force = true
  · rw [signalCh_held n ch d unmuted tested, srcOf_modSrc]
    exact ⟨unmuted, rfl⟩
  · rw [signalCh_srcOf n ch d unmuted (Bool.eq_false_iff.mpr tested), countEvent_eq]
    exact ⟨unmuted, rfl⟩

theorem signalCh_sticky (unmuted : (srcOf d n).mute = false) (untested : (srcOf d n).force = false) :
    (srcOf (signalCh n ch d) n).sticky = true := by
  rw [signalCh_srcOf n ch d unmuted untested, countEvent_eq]

end

/-! ### Events one after the other -/

section
variable {n : Nat} {l : List Nat} {d : Dev}

theorem signalAll_srcOf_ne {k : Nat} (other : k ≠ n) : srcOf (l.foldl (fun d ch => signalCh n ch d) d) k = srcOf d k := by
  induction l generalizing d with
  | nil => rfl
  | cons ch l ih => exact ih.trans (signalCh_srcOf_ne n ch d other)

theorem signalAll_onlyCounted (untested : (srcOf d n).force = false) :
    onlyCounted (srcOf d n) (srcOf (l.foldl (fun d ch => signalCh n ch d) d) n) := by
  induction l generalizing d with
  | nil => rfl
  | cons ch l ih =>
    have one := signalCh_onlyCounted (ch := ch) untested
    exact onlyCounted_trans one (ih ((congrArg Source.force one).trans untested))

theorem signalAll_delivered (unmuted : (srcOf d n).mute = false) :
    (srcOf (l.foldl (fun d ch => signalCh n ch d) d) n).mute = false ∧
    (srcOf (l.foldl (fun d ch => signalCh n ch d) d) n).waiting = (srcOf d n).waiting := by
  induction l generalizing d with
  | nil => exact ⟨unmuted, rfl⟩
  | cons ch l ih =>
    obtain ⟨still, kept⟩ := signalCh_delivered (ch := ch) unmuted
    exact ⟨(ih still).1, (ih still).2.trans kept⟩

theorem signalCh_geyser (n ch : Nat) (d : Dev) : (signalCh n ch d).geyser = d.geyser :=
  (signalCh_reactions n ch d).geyser

theorem signalAll_geyser : (l.foldl (fun d ch => signalCh n ch d) d).geyser = d.geyser := by
  induction l generalizing d with
  | nil => rfl
  | cons ch l ih => exact ih.trans (signalCh_geyser n ch d)

/-- Sticky once an event has been counted, and for good. -/
theorem signalAll_sticky (some_ : l ≠ []) (unmuted : (srcOf d n).mute = false) (untested : (srcOf d n).force = false) :
    (srcOf (l.foldl (fun d ch => signalCh n ch d) d) n).sticky = true := by
  induction l generalizing d with
  | nil => exact absurd rfl some_
  | cons ch l ih =>
    have one := signalCh_onlyCounted (ch := ch) untested
    by_cases more : l = []
    · subst more
      exact signalCh_sticky unmuted untested
    · exact ih more (signalCh_delivered unmuted).1 ((congrArg Source.force one).trans untested)

end

/-! ### O43 -/

section
variable {t : Time} {n ch : Nat} {d : Dev}

/-- An origin without an effect of its own has one event: what it remembers of a lasting condition goes, and the event arrives. -/
theorem sourceEvent_one (plain : n ≠ 747) (outside : n < 660 ∨ 679 < n) : sourceEvent n ch false 1 d =
    pump (signalCh n ch (modSrc n (fun x => { x with asserted := none, lastEvent := none }) d)) := by
  have effect : originEffect n d = d := (if_neg plain).trans (if_neg fun h => by
    have low : 660 ≤ n := h.1
    have high : n ≤ 679 := h.2
    omega)
  show pump (signalMany n ch 1 (modSrc n (fun x => { x with asserted := none, lastEvent := none }) (originEffect n d))) = _
  rw [effect]
  rfl

/-- The sets noted for a counted event are of its instant. -/
theorem signalCh_hwAt (unmuted : (srcOf d n).mute = false) (untested : (srcOf d n).force = false) :
    (signalCh n ch d).hwAt = d.geyser.now := by
  rw [signalCh_eq n ch d unmuted untested]
  split
  · exact (severeNow_reactions _ _ _).hwAt
  · rfl

theorem signalMany_overrun {k : Nat} (many : 15 < k) : signalMany n ch k d =
    signalMany n ch 15 (hwSet (srcReg n) (2 ^ 25) (modSrc n (fun x => { x with overrun := true }) d)) := by
  unfold signalMany
  dsimp only
  rw [if_pos many, if_neg (Nat.lt_irrefl 15), Nat.min_eq_right (Nat.le_of_lt many), Nat.min_self]

end

/-- A function that ends in launches, under `onDevZ`, by the device it launches from. -/
theorem exists_onDevZ_pump {f : Dev → Dev} {s : State} {e : Dev} (h : f s.dev = pump e) :
    ∃ u, (Host.Outcome.next (onDevZ f s) : Host.Outcome State Fault Refusal) = .next u ∧ onlyLaunches e u.dev ∧
      onlyZeroed s.mem u.mem ∧ u.pending = s.pending := by
  obtain ⟨u, next, launches, mem, pending⟩ := exists_onDevZ f s
  exact ⟨u, next, onlyLaunches_trans (h ▸ pump_launches e) launches, mem, pending⟩

theorem srcOf_launches {d e : Dev} (h : onlyLaunches d e) (k : Nat) : srcOf e k = srcOf d k :=
  srcOf_of_cal (congrArg Caldera.src h.cal) k

/-- What a counted event leaves of its source. -/
theorem srcOf_counted {n ch : Nat} {d : Dev} {x : Source} {opens severe : Bool} {c : Nat} (hx : x = srcOf d n)
    (unmuted : x.mute = false) (untested : x.force = false)
    (hopens : opens = decide (x.count = 0 ∨ x.opens + us x.w ≤ d.geyser.now))
    (hc : c = min ((if opens then 0 else x.count) + 1) 255) (hsevere : severe = decide (x.cls = 1 ∨ x.n ≤ c)) :
    (countEvent d.geyser.now x).2 = severe ∧ srcOf (signalCh n ch d) n = { x with
      sticky := true, severe := x.severe || severe, count := if x.cls ≠ 1 ∧ x.n ≤ c then 0 else c
      opens := if opens then d.geyser.now else x.opens } := by
  have window : opensAt d.geyser.now x = opens := by
    rw [hopens, Bool.decide_or]
    rfl
  have count : countAt d.geyser.now x = c := by
    rw [hc, countAt, window]
  have counted : countEvent d.geyser.now x = ({ x with
      sticky := true, opens := if opens then d.geyser.now else x.opens
      count := if x.cls ≠ 1 ∧ x.n ≤ c then 0 else c }, severe) := by
    rw [countEvent_eq, window, count, ← hsevere]
  refine ⟨congrArg Prod.snd counted, ?_⟩
  rw [signalCh_srcOf n ch d (hx ▸ unmuted) (hx ▸ untested), ← hx, counted]

/-- What an event that is not severe changes. -/
theorem signalCh_mild {n ch : Nat} {d : Dev} (unmuted : (srcOf d n).mute = false) (untested : (srcOf d n).force = false)
    (mild : (countEvent d.geyser.now (srcOf d n)).2 = false) : signalCh n ch d = { d with
      cal := { d.cal with src := (signalCh n ch d).cal.src }, hwSets := (signalCh n ch d).hwSets, hwAt := d.geyser.now } := by
  rw [signalCh_eq n ch d unmuted untested, if_neg (by rw [mild]; exact Bool.false_ne_true)]
  rfl

/-- What a severe event is sure to do. -/
theorem signalCh_severe {n ch : Nat} {d : Dev} {m : Nat} (unmuted : (srcOf d n).mute = false) (untested : (srcOf d n).force = false)
    (severe : (countEvent d.geyser.now (srcOf d n)).2 = true) (hm : m = (srcOf d n).mask) :
    (m % 2 = 1 → (signalCh n ch d).cal.errN = true ∧ (signalCh n ch d).cal.assertedAt = d.geyser.now) ∧
    (m % 2 = 0 → (signalCh n ch d).cal.errN = d.cal.errN) ∧
    (m / 2 % 2 = 1 → m / 8 % 2 = 0 → (signalCh n ch d).cal.safeOut = true) ∧
    (m / 8 % 2 = 1 → (signalCh n ch d).cal.chipSafe = true) ∧
    (m / 2 % 2 = 1 ∨ m / 8 % 2 = 1 → (signalCh n ch d).gnt.forced = true ∧ (d.start.wireTest = false →
      (signalCh n ch d).front.state = .safeState ∨ (signalCh n ch d).front.state = .chipFailed)) ∧
    (m / 16 % 2 = 1 → m / 8 % 2 = 0 → procUp 1 d = true → (kfind? (signalCh n ch d).attn.pending 1).isSome = true) := by
  rw [signalCh_eq n ch d unmuted untested, if_pos severe]
  refine severeNow_effect n ch (hwSet (stickyReg n) (2 ^ (n % 32)) (setSrc n (countEvent d.geyser.now (srcOf d n)).1 d)) m ?_
  rw [srcOf_hwSet, srcOf_setSrc, countEvent_eq, hm]

/-- A device whose sources' registers and noted sets alone have changed, twice over. -/
theorem registers_frame {d e : Dev} {src : KMap Source} {sets : List HwSet} {at_ : Time}
    (frame : e = { d with cal := { d.cal with src := e.cal.src } }) :
    ({ e with cal := { e.cal with src := src }, hwSets := sets, hwAt := at_ } : Dev) =
      { d with cal := { d.cal with src := src }, hwSets := sets, hwAt := at_ } := by
  rw [frame]

/-- Settles O43, by the counting of one event and what its severity brings. -/
theorem eventIsCounted : Obligations.EventIsCounted := by
  refine ⟨?_, ?_, ?_, fun n ch k d many => signalMany_overrun many, fun t x passed => congrArg Source.count (if_pos passed)⟩
  · rintro t n ch s x e opens severe c plain outside rfl untested unmuted rfl hopens hc hsevere
    obtain ⟨u, next, launches, mem, pending⟩ := exists_onDevZ_pump (s := s)
      (f := fun d => sourceEvent n.val ch.val false 1 (advance t d)) (sourceEvent_one (d := advance t s.dev) plain outside)
    have cleared_ := srcOf_modSrc n.val (fun x => { x with asserted := none, lastEvent := none }) (advance t s.dev)
    have others := fun k (other : k ≠ n.val) =>
      srcOf_modSrc_ne (fun x : Source => { x with asserted := none, lastEvent := none }) (advance t s.dev) other
    have frame : modSrc n.val (fun x => { x with asserted := none, lastEvent := none }) (advance t s.dev) = { advance t s.dev with
      cal := { s.dev.cal with src := (modSrc n.val (fun x => { x with asserted := none, lastEvent := none }) (advance t s.dev)).cal.src } } := rfl
    generalize modSrc n.val (fun x => { x with asserted := none, lastEvent := none }) (advance t s.dev) = d at *
    have now : d.geyser.now = arrival t s := by rw [frame]; rfl
    have unmuted' : (srcOf d n.val).mute = false := by rw [cleared_]; exact unmuted
    have untested' : (srcOf d n.val).force = false := by rw [cleared_]; exact untested
    rw [← now] at hopens ⊢
    obtain ⟨severity, counted⟩ := srcOf_counted (ch := ch.val) rfl unmuted' untested' (opens := opens) (severe := severe) (c := c)
      (by rw [cleared_]; exact hopens) (by rw [cleared_]; exact hc) (by rw [cleared_]; exact hsevere)
    have hwAt : u.dev.hwAt = d.geyser.now := launches.hwAt.trans (signalCh_hwAt unmuted' untested')
    have src : u.dev.cal.src = (signalCh n.val ch.val d).cal.src := congrArg Caldera.src launches.cal
    have effect := fun severe_ : severe = true => signalCh_severe (n := n.val) (ch := ch.val) unmuted' untested'
      (severity.trans severe_) (m := (srcOf s.dev n.val).mask) (by rw [cleared_]; rfl)
    simp only [imp_and] at effect
    obtain ⟨⟨errN, assertedAt⟩, stays, safeOut, chipSafe, ⟨forced, state⟩, attn⟩ := effect
    refine ⟨u, _, next, rfl, (srcOf_launches launches _).trans (counted.trans (by rw [cleared_]; rfl)), fun k other => ?_, fun mild => ?_,
      ?_, ?_, ?_, ?_, ?_, ?_, ?_, mem, pending⟩
    · exact (srcOf_launches launches k).trans ((signalCh_srcOf_ne _ _ _ other).trans (others k other))
    · have same := (signalCh_mild (ch := ch.val) unmuted' untested' (severity.trans mild)).trans (registers_frame frame)
      rw [src, launches.hwSets]
      exact same ▸ launches
    · exact fun severe_ bit => ⟨(congrArg Caldera.errN launches.cal).trans (errN severe_ bit),
        (congrArg Caldera.assertedAt launches.cal).trans (assertedAt severe_ bit)⟩
    · exact fun severe_ bit => (congrArg Caldera.errN launches.cal).trans ((stays severe_ bit).trans (by rw [frame]))
    · exact fun severe_ bit no => (congrArg Caldera.safeOut launches.cal).trans (safeOut severe_ bit no)
    · exact fun severe_ bit => (congrArg Caldera.chipSafe launches.cal).trans (chipSafe severe_ bit)
    · intro severe_ bits
      rw [launches.gnt, launches.front]
      exact ⟨forced severe_ bits, fun quiet => state severe_ bits (by rw [frame]; exact quiet)⟩
    · intro severe_ bit no up
      rw [launches.attn]
      exact attn severe_ bit no (by rw [frame]; exact up)
    · refine ⟨_, ?_, launches⟩
      have reactions := signalCh_reactions n.val ch.val d
      rw [registers_frame frame, signalCh_hwAt unmuted' untested'] at reactions
      rw [src, launches.hwSets]
      exact reactions
  · rintro t n ch lasting k s d rfl
    exact exists_onDevZ_pump (s := s) (f := fun d => sourceEvent n.val ch.val lasting k (advance t d)) rfl
  · rintro t n ch s x plain outside rfl muted
    obtain ⟨u, next, launches, mem, pending⟩ := exists_onDevZ_pump (s := s)
      (f := fun d => sourceEvent n.val ch.val false 1 (advance t d)) (sourceEvent_one (d := advance t s.dev) plain outside)
    have muted' : (srcOf (modSrc n.val (fun x => { x with asserted := none, lastEvent := none }) (advance t s.dev)) n.val).mute = true := by
      rw [srcOf_modSrc]; exact muted
    refine ⟨u, next, (srcOf_launches launches _).trans ?_, fun k other => ?_, ?_, mem, pending⟩
    · rw [signalCh_muted muted', srcOf_keepPending, srcOf_modSrc]
      rfl
    · exact (srcOf_launches launches k).trans ((signalCh_srcOf_ne _ _ _ other).trans (srcOf_modSrc_ne _ _ other))
    · rw [signalCh_muted muted', keepPending_frame] at launches
      rw [launches.cal, launches.hwSets, launches.hwAt]
      exact launches

/-! ### O45 -/

/-- A mask without a safe reaction leaves the latches of safe state. -/
theorem applyMask_unsafe {m n ch : Nat} {d : Dev} (out : m / 2 % 2 = 0) (chip : m / 8 % 2 = 0) :
    (applyMask m n ch d).cal.chipSafe = d.cal.chipSafe := by
  have attention : ∀ (b : Bool) (e : Dev), (if b then sourceAttn n ch e else e).cal = e.cal := fun b e => by cases b <;> rfl
  have reset : ∀ e : Dev, (if m / 4 % 2 = 1 then unitReset n ch e else e).cal = e.cal := fun e => by
    split
    · exact unitReset_cal _ _ _
    · rfl
  unfold applyMask
  dsimp only
  rw [attention, out, chip, if_neg (by decide), if_neg (by decide), reset]
  split <;> rfl

/-- The device at which a rail disagreement's reactions begin. -/
def wireNoted (n : Nat) (d : Dev) : Dev :=
  hwSet (srcReg n) (2 ^ 30) (modSrc n (fun x => { x with wire := true, mute := true }) d)

theorem srcOf_wireNoted (n : Nat) (d : Dev) : srcOf (wireNoted n d) n = { srcOf d n with wire := true, mute := true } :=
  srcOf_modSrc n (fun x => { x with wire := true, mute := true }) d

theorem srcOf_wireNoted_ne {n k : Nat} (d : Dev) (other : k ≠ n) : srcOf (wireNoted n d) k = srcOf d k :=
  srcOf_modSrc_ne (fun x => { x with wire := true, mute := true }) d other

/-- The reactions of a rail disagreement. -/
def wireMask (n : Nat) : Nat := if n < 512 then 0b10101 else 0b11001

theorem wireMask_low {n : Nat} (low : n < 512) : wireMask n = 0b10101 := if_pos low
theorem wireMask_high {n : Nat} (high : 512 ≤ n) : wireMask n = 0b11001 := if_neg (Nat.not_lt.mpr high)
theorem wireMask_errN (n : Nat) : wireMask n % 2 = 1 := by
  unfold wireMask
  split <;> rfl

/-- A lasting condition's next event, 10 µs after its last. -/
theorem conditionRepeat_lasting {n : Nat} {d : Dev} {a e : Time} (asserted : (srcOf d n).asserted = some a)
    (last : (srcOf d n).lastEvent = some e) : conditionRepeat n d =
      pump (signal n (modSrc n (fun x => { x with lastEvent := some (e + us 10) }) (advance (e + us 10) d))) := by
  unfold conditionRepeat
  rw [asserted, last]

/-- No event changes when the condition last signalled. -/
theorem signalCh_lastEvent (n ch : Nat) (d : Dev) : (srcOf (signalCh n ch d) n).lastEvent = (srcOf d n).lastEvent := by
  by_cases untested : (srcOf d n).force = false
  · exact (congrArg Source.lastEvent (signalCh_onlyCounted (ch := ch) untested)).trans rfl
  · by_cases muted : (srcOf d n).mute = true
    · rw [signalCh_muted muted, srcOf_keepPending]
    · rw [signalCh_held n ch d (Bool.eq_false_iff.mpr muted) (Bool.of_not_eq_false untested), srcOf_modSrc]

/-- Settles O45, by the reactions of the two wire masks and the delivery of what the origin kept. -/
theorem signalledEvents : Obligations.SignalledEvents := by
  refine ⟨?_, ?_, ?_, ?_, ?_⟩
  · intro t n s
    obtain ⟨u, next, launches, mem, pending⟩ := exists_onDevZ_pump (s := s)
      (f := fun d => if (⟨n, false⟩ : WireChange).ended then railsAgree n.val (advance t d) else railDisagreement n.val (advance t d))
      (e := applyMask (wireMask n.val) n.val 0 (wireNoted n.val (advance t s.dev))) rfl
    have reactions := applyMask_reactions (wireMask n.val) n.val 0 (wireNoted n.val (advance t s.dev))
    have registers := fun k => (srcOf_launches launches k).trans (onlyReactions_srcOf reactions k)
    refine ⟨u, next, launches, (registers _).trans (srcOf_wireNoted _ _), fun k other => (registers k).trans (srcOf_wireNoted_ne _ other),
      ?_, fun high => ?_, fun low => ⟨?_, fun up => ?_⟩, mem, pending⟩
    · rw [launches.cal]
      exact ((applyMask_errN _ n.val 0 _).1 (wireMask_errN _)).1
    · rw [launches.cal, launches.gnt, wireMask_high high]
      exact applyMask_chipSafe _ _ _ _ rfl
    · rw [launches.cal, wireMask_low low]
      exact applyMask_unsafe rfl rfl
    · rw [launches.attn, wireMask_low low]
      exact applyMask_attn _ _ _ _ rfl rfl up
  · intro t n s
    obtain ⟨u, next, launches, mem, pending⟩ := exists_onDevZ_pump (s := s)
      (f := fun d => if (⟨n, true⟩ : WireChange).ended then railsAgree n.val (advance t d) else railDisagreement n.val (advance t d))
      (e := (srcOf s.dev n.val).waiting.foldl (fun d ch => signalCh n.val ch d)
        (modSrc n.val (fun x => { x with mute := false, waiting := [] }) (advance t s.dev))) rfl
    have opened := srcOf_modSrc n.val (fun x => { x with mute := false, waiting := [] }) (advance t s.dev)
    obtain ⟨unmuted, kept⟩ := signalAll_delivered (l := (srcOf s.dev n.val).waiting) (congrArg Source.mute opened)
    refine ⟨u, next, launches, ?_, ?_, fun k other => ?_, mem, pending⟩
    · rw [srcOf_launches launches]
      exact unmuted
    · rw [srcOf_launches launches]
      exact kept.trans (congrArg Source.waiting opened)
    · rw [srcOf_launches launches, signalAll_srcOf_ne other, srcOf_modSrc_ne _ _ other]
      rfl
  · intro n s a e asserted last
    obtain ⟨u, next, launches, mem, pending⟩ := exists_onDevZ_pump (s := s) (conditionRepeat_lasting asserted last)
    refine ⟨u, next, launches, ?_, ?_, mem, pending⟩
    · rw [launches.geyser, signal_geyser]
      rfl
    · rw [srcOf_launches launches]
      exact (signalCh_lastEvent _ _ _).trans (congrArg Source.lastEvent (srcOf_modSrc _ _ _))
  · exact fun t c high s => exists_pump _ _
  · exact fun t s => exists_pump _ _

/-! ### O46 -/

/-- The end of a test, as the events that it applies. -/
theorem forceClear_tested {n : Nat} {d : Dev} {x : Source} {l : List Nat} (hx : x = srcOf d n) (tested : x.force = true)
    (hl : l = if x.held = [] ∧ x.asserted ≠ none then [0] else x.held) : forceClear n d =
      l.foldl (fun d ch => signalCh n ch d) (setSrc n { x with force := false, held := [], replayed := decide (l ≠ []) } d) := by
  have events : heldEvents x = l := by
    rw [hl]
    unfold heldEvents
    refine ite_of_iff ?_
    rw [Bool.and_eq_true, Option.isSome_iff_ne_none, List.isEmpty_iff, and_comm]
  have some_ : (!l.isEmpty) = decide (l ≠ []) := by cases l <;> rfl
  unfold forceClear
  dsimp only
  rw [← hx, if_pos tested, events, some_]

/-- What the events that the end of a test applies leave of their source. -/
theorem srcOf_forceClear {n : Nat} {d : Dev} {x : Source} {l : List Nat} {r : Bool} :
    onlyCounted { x with force := false, held := [], replayed := r }
      (srcOf (l.foldl (fun d ch => signalCh n ch d) (setSrc n { x with force := false, held := [], replayed := r } d)) n) := by
  have set_ := srcOf_setSrc n { x with force := false, held := [], replayed := r } d
  have counted := signalAll_onlyCounted (l := l) (congrArg Source.force set_)
  rw [set_] at counted
  exact counted

/-! ### O47 -/

/-- When ERR_N follows its conditions, what it shows and whether a RELEASE waits. -/
theorem errUpdate_shows (d : Dev) : errUpdate d = { d with cal := { d.cal with
    errN := d.cal.errN && !errMayRelease d, releasePending := d.cal.releasePending && !(d.cal.errN && errMayRelease d) } } := by
  unfold errUpdate
  split
  next h =>
    obtain ⟨err, may⟩ := Bool.and_eq_true_iff.mp h
    rw [err, may, Bool.and_true, Bool.not_true, Bool.and_false, Bool.and_false]
    rfl
  next h =>
    have still : (d.cal.errN && !errMayRelease d) = d.cal.errN := by
      cases err : d.cal.errN
      · rfl
      · rw [err, Bool.true_and] at h
        rw [Bool.eq_false_iff.mpr h]
        rfl
    rw [still, Bool.eq_false_iff.mpr h, Bool.not_false, Bool.and_true]

theorem errMayRelease_iff (d : Dev) : errMayRelease d = true ↔ d.cal.assertedAt + us 25 ≤ d.geyser.now ∧ d.cal.released = true ∧
    d.cal.hold = false ∧ errSticky d = false := by
  simp only [errMayRelease, Bool.and_eq_true, decide_eq_true_eq, Bool.not_eq_true', ge_iff_le, and_assoc]

theorem and_not_eq_true (a b : Bool) : (a && !b) = true ↔ a = true ∧ ¬b = true := by
  rw [Bool.and_eq_true, Bool.not_eq_true', Bool.not_eq_true]

/-- A fault of the collector itself: what its reactions leave in Caldera. -/
theorem selfFault_cal (d : Dev) : (selfFault d).cal.selfFault = true ∧ (selfFault d).cal.errN = true ∧
    (selfFault d).cal.assertedAt = d.geyser.now ∧ (selfFault d).cal.chipSafe = true := by
  have verdicts := onlyVerdicts_cal (expireAll_verdicts (assertErrN (modCal (fun c => { c with selfFault := true }) d)))
  have latches := (enterSafe_latches true 0xFFFF (assertErrN (modCal (fun c => { c with selfFault := true }) d))).1
  unfold selfFault
  rw [latches]
  generalize expireAll _ = e at verdicts ⊢
  refine ⟨?_, ?_, ?_, Bool.or_true _⟩
  · exact (congrArg Caldera.selfFault verdicts).trans rfl
  · exact (congrArg Caldera.errN verdicts).trans rfl
  · exact (congrArg Caldera.assertedAt verdicts).trans rfl

theorem selfFault_reactions (d : Dev) : onlyReactions (modCal (fun c => { c with selfFault := true }) d) (selfFault d) :=
  onlyReactions_trans (assertErrN_reactions _) (enterSafe_reactions _ _ _)

/-- Settles O47, by the conditions of R413 and the reactions of a collector fault. -/
theorem errNRelease : Obligations.ErrNRelease := by
  refine ⟨?_, ?_, ?_, ?_, ?_, ?_⟩
  · intro t s down
    exact next_onDev (f := fun d => calRelease (advance t d)) (if_pos (by
      show (!procUp 1 s.dev) = true
      rw [down]
      rfl))
  · intro t s up
    have written : calRelease (advance t s.dev) = _ := (if_neg (by
      show ¬(!procUp 1 s.dev) = true
      rw [up]
      exact Bool.false_ne_true)).trans (errUpdate_shows _)
    refine ⟨_, next_onDev (f := fun d => calRelease (advance t d)) written, rfl, ?_, ?_⟩
    · refine (and_not_eq_true _ _).trans (and_congr_right fun _ => not_congr ((errMayRelease_iff _).trans ?_))
      exact and_congr_right fun _ => and_iff_right rfl
    · refine (and_not_eq_true _ _).trans ⟨fun ⟨waits, _⟩ => ?_, fun ⟨err, within⟩ => ⟨?_, fun released => ?_⟩⟩
      · obtain ⟨err, within⟩ := Bool.and_eq_true_iff.mp waits
        exact ⟨err, of_decide_eq_true within⟩
      · exact Bool.and_eq_true_iff.mpr ⟨err, decide_eq_true within⟩
      · obtain ⟨past, -⟩ := (errMayRelease_iff _).mp (Bool.and_eq_true_iff.mp released).2
        exact Nat.not_lt.mpr past within
  · intro s low
    exact next_onDev (f := errMinimumEnd) (if_neg (Bool.eq_false_iff.mp low))
  · intro s asserted
    have ended : errMinimumEnd s.dev = _ := (if_pos asserted).trans (errUpdate_shows _)
    refine ⟨_, next_onDev (f := errMinimumEnd) ended, rfl, ?_⟩
    refine (and_not_eq_true _ _).trans ((and_iff_right asserted).trans (not_congr ((errMayRelease_iff _).trans ?_)))
    exact and_iff_right (Nat.le_max_right _ _)
  · intro t s
    obtain ⟨u, next, launches, mem, pending⟩ := exists_onDevZ (fun d => calSelfTest true (advance t d)) s
    obtain ⟨fault, err, at_, chip⟩ := selfFault_cal (advance t s.dev)
    have reactions := selfFault_reactions (advance t s.dev)
    refine ⟨u, next, ?_, ?_, ?_, ?_, ?_, fun k => ?_, ⟨_, reactions, launches⟩, mem, pending⟩
    · exact (congrArg Caldera.selfFault launches.cal).trans fault
    · exact (congrArg Caldera.errN launches.cal).trans err
    · exact (congrArg Caldera.assertedAt launches.cal).trans at_
    · exact (congrArg Caldera.chipSafe launches.cal).trans chip
    · exact (congrArg Gauntlet.forced launches.gnt).trans (enterSafe_forced _ _ _)
    · exact (srcOf_launches launches k).trans (onlyReactions_srcOf reactions k)
  · exact fun t s => exists_onDevZ (fun d => calSelfTest false (advance t d)) s

end Sys2Proof.Machine

namespace Sys2Proof

open Machine

/-- Settles O46, by what each event leaves of a source under test and of one whose test has ended. -/
theorem forceTest : Obligations.ForceTest := by
  refine ⟨?_, ?_, ?_, ?_, ?_, ?_⟩
  · intro t n s busy
    exact next_onDev (f := fun d => forceSet n.val (advance t d)) (if_pos busy)
  · intro t n s idle
    refine ⟨_, next_onDev (f := fun d => forceSet n.val (advance t d)) (if_neg (Bool.eq_false_iff.mp idle)), rfl, ?_, fun k other => ?_⟩
    · exact srcOf_modSrc n.val _ (advance t s.dev)
    · exact srcOf_modSrc_ne _ (advance t s.dev) other
  · intro t n ch s plain outside tested unmuted
    obtain ⟨u, next, launches, mem, pending⟩ := exists_onDevZ_pump (s := s)
      (f := fun d => sourceEvent n.val ch.val false 1 (advance t d)) (sourceEvent_one (d := advance t s.dev) plain outside)
    have cleared_ := srcOf_modSrc n.val (fun x => { x with asserted := none, lastEvent := none }) (advance t s.dev)
    rw [signalCh_held n.val ch.val _ (by rw [cleared_]; exact unmuted) (by rw [cleared_]; exact tested)] at launches
    refine ⟨u, next, ?_, (srcOf_launches launches _).trans ?_, fun k other => ?_, mem, pending⟩
    · rw [launches.cal]
      exact launches
    · rw [srcOf_modSrc, cleared_]
      rfl
    · rw [srcOf_launches launches, srcOf_modSrc_ne _ _ other, srcOf_modSrc_ne _ _ other]
      rfl
  · intro t n s untested
    exact exists_onDevZ_pump (s := s) (f := fun d => pump (forceClear n.val (advance t d)))
      (congrArg pump (if_neg (by rw [srcOf_of_cal rfl]; exact Bool.eq_false_iff.mp untested)))
  · intro t n s x l hx tested hl
    obtain ⟨u, next, launches, mem, pending⟩ := exists_onDevZ_pump (s := s) (f := fun d => pump (forceClear n.val (advance t d)))
      (congrArg pump (forceClear_tested (d := advance t s.dev) hx tested hl))
    have after := srcOf_launches launches n.val
    have counted := srcOf_forceClear (n := n.val) (d := advance t s.dev) (x := x) (l := l) (r := decide (l ≠ []))
    rw [← after] at counted
    refine ⟨u, next, launches, (congrArg Source.force counted).trans rfl, (congrArg Source.held counted).trans rfl,
      (congrArg Source.replayed counted).trans rfl, fun none_ => ?_, fun some_ unmuted => ?_, fun k other => ?_, mem, pending⟩
    · have unheld : x.held = [] := by
        rw [hl] at none_
        split at none_
        · exact absurd none_ (List.cons_ne_nil _ _)
        · exact none_
      subst none_
      have none_ : decide (([] : List Nat) ≠ []) = false := rfl
      rw [after, List.foldl_nil, srcOf_setSrc, none_, ← unheld]
    · rw [after]
      exact signalAll_sticky some_ ((congrArg Source.mute (srcOf_setSrc _ _ _)).trans unmuted)
        (congrArg Source.force (srcOf_setSrc _ _ _))
    · rw [srcOf_launches launches, signalAll_srcOf_ne other, srcOf_setSrc_ne _ _ other]
      rfl
  · intro s n x l found hx hl
    have tested : x.force = true := List.find?_some (p := fun e : Nat × Source => e.2.force) found
    have begun : forceExpiry s.dev = pump (forceClear n (advance (x.forcedAt + us 50) s.dev)) := by
      unfold forceExpiry
      rw [found]
    obtain ⟨u, next, launches, mem, pending⟩ := exists_onDevZ_pump (s := s)
      (begun.trans (congrArg pump (forceClear_tested (d := advance (x.forcedAt + us 50) s.dev) hx.symm tested hl)))
    have after := srcOf_launches launches n
    have counted := srcOf_forceClear (n := n) (d := advance (x.forcedAt + us 50) s.dev) (x := x) (l := l) (r := decide (l ≠ []))
    rw [← after] at counted
    refine ⟨u, next, ?_, launches, (congrArg Source.force counted).trans rfl, fun k other => ?_, mem, pending⟩
    · rw [launches.geyser, signalAll_geyser]
      rfl
    · rw [srcOf_launches launches, signalAll_srcOf_ne other, srcOf_setSrc_ne _ _ other]
      rfl

end Sys2Proof
end

section
/-! Pace (06 R146 to R151) and the SAFE pairs (18 R444 to R449): O48, O49, O50 and O51. -/

namespace Sys2Proof.Machine

open Sys2Proof

/-! ### Gauge windows -/

/-- A gauge's registers after a window. -/
def windowGauge (a b : Nat) (below differ : Bool) (g : Gauge) : Gauge :=
  { g with
    countA := BitVec.ofNat 16 a, countB := BitVec.ofNat 16 b, valid := true, below := g.below || below
    disagree := g.disagree || differ, min := BitVec.ofNat 16 (min (min a b) g.min.toNat) }

/-- The device once a window's counts are in its gauge's registers. -/
def gaugeTaken (c a b : Nat) (armed below differ : Bool) (d : Dev) : Dev :=
  let noted := hwSet (.gaugeStatus (Fin.ofNat 16 c)) (bit 30 below + bit 29 differ) (modGauge c (windowGauge a b below differ) d)
  modPace (fun p => { p with testArmed := p.testArmed && !armed }) noted

/-- One event on each source whose condition holds. -/
def gaugeSignals (c : Nat) (below differ : Bool) (d : Dev) : Dev :=
  if differ then signal (512 + 4 * c + 1) (if below then signal (512 + 4 * c) d else d)
  else if below then signal (512 + 4 * c) d else d

theorem lower_min (low : Nat) (old : W16) : (if low < old.toNat then BitVec.ofNat 16 low else old) = BitVec.ofNat 16 (min low old.toNat) := by
  split
  next h => rw [Nat.min_eq_left (Nat.le_of_lt h)]
  next h => rw [Nat.min_eq_right (Nat.not_lt.mp h), BitVec.ofNat_toNat, BitVec.setWidth_eq]

theorem disarm_if (armed : Bool) (d : Dev) : (if armed = true then modPace (fun p => { p with testArmed := false }) d else d) =
    modPace (fun p => { p with testArmed := p.testArmed && !armed }) d := by
  cases armed
  · exact congrArg (fun b => modPace (fun p => { p with testArmed := b }) d) (Bool.and_true d.pace.testArmed).symm
  · exact congrArg (fun b => modPace (fun p => { p with testArmed := b }) d) (Bool.and_false d.pace.testArmed).symm

theorem gaugeCompare_eq {c a b low : Nat} {d : Dev} {armed below differ : Bool}
    (harmed : armed = (d.pace.testArmed && d.pace.testCluster == c)) (hlow : low = min a b)
    (hbelow : below = decide (low < if armed then 0xFFFF else 10 * d.pace.f))
    (hdiffer : differ = decide (3 * max a b < 100 * (max a b - low))) :
    gaugeCompare c a b d = gaugeSignals c below differ (gaugeTaken c a b armed below differ d) := by
  subst hlow
  rw [Nat.mul_comm 100] at hdiffer
  unfold gaugeCompare
  dsimp only
  rw [← harmed, ← hbelow, show decide ((max a b - min a b) * 100 > 3 * max a b) = differ from hdiffer.symm]
  simp only [lower_min]
  rw [disarm_if]
  rfl

theorem gaugeTaken_gauges (c a b : Nat) (armed below differ : Bool) (d : Dev) :
    gaugeOf (gaugeTaken c a b armed below differ d) c = windowGauge a b below differ (gaugeOf d c) ∧
    ∀ k, k ≠ c → gaugeOf (gaugeTaken c a b armed below differ d) k = gaugeOf d k :=
  ⟨gaugeOf_modGauge d c (windowGauge a b below differ), fun _ other => gaugeOf_modGauge_ne d (windowGauge a b below differ) other⟩

/-- `onDevZ` answers the state whose marked cores are zeroed. -/
theorem next_cleared {f : Dev → Dev} {s : State} {e : Dev} (h : f s.dev = e) :
    .next (onDevZ f s) = (.next (cleared s e) : Host.Outcome State Fault Refusal) :=
  h ▸ rfl

/-- Settles O48, by the counts that a window leaves and the sources whose conditions hold. -/
theorem gaugeWindowSignals : Obligations.GaugeWindowSignals := by
  refine ⟨?_, ?_, ?_⟩
  · intro t c a b s low armed below differ whole released after harmed hlow hbelow hdiffer
    have compared : gaugeWindow c.val a.toNat b.toNat (advance t s.dev) =
        pump (gaugeSignals c.val below differ (gaugeTaken c.val a.toNat b.toNat armed below differ (advance t s.dev))) :=
      (if_pos ⟨whole, released, after⟩).trans (congrArg pump (gaugeCompare_eq harmed hlow hbelow
        (hdiffer.trans (by rw [hlow]))))
    obtain ⟨u, next, launches, mem, pending⟩ := exists_onDevZ_pump (s := s)
      (f := fun d => gaugeWindow c.val a.toNat b.toNat (advance t d)) compared
    obtain ⟨own, others⟩ := gaugeTaken_gauges c.val a.toNat b.toNat armed below differ (advance t s.dev)
    refine ⟨u, gaugeTaken c.val a.toNat b.toNat armed below differ (advance t s.dev), next, rfl, ?_, others, launches, mem, pending⟩
    rw [own, windowGauge, ← hlow, BitVec.ofNat_toNat, BitVec.ofNat_toNat, BitVec.setWidth_eq, BitVec.setWidth_eq]
    rfl
  · intro t c a b s other
    refine next_cleared (f := fun d => gaugeWindow c.val a.toNat b.toNat (advance t d)) (if_neg ?_)
    rintro ⟨whole, released, after⟩
    obtain off | held | early := other
    · exact off whole
    · exact Bool.false_ne_true (held.symm.trans released)
    · exact Nat.not_lt.mpr after early
  · decide

/-! ### TRACK, FIXED and AVSBus -/

theorem gaugeOf_rearm (d : Dev) (k : Nat) : gaugeOf (rearm d) k = { gaugeOf d k with min := 0xFFFF } :=
  kget_kmapv (fun _ (g : Gauge) => { g with min := 0xFFFF }) {} d.pace.gauges k rfl

/-- The lower of what a scan of gauges has found and a gauge's MIN. -/
def lowerOf (d : Dev) (a : Nat × Nat) (c : Nat) : Nat × Nat :=
  if (gaugeOf d c).min.toNat < a.1 then ((gaugeOf d c).min.toNat, c) else a

/-- A scan finds a value that is no higher than its start and than each gauge's MIN, and that one of them has. -/
theorem lowerOf_scan (d : Dev) (l : List Nat) (a : Nat × Nat) :
    (l.foldl (lowerOf d) a).1 ≤ a.1 ∧ (∀ c ∈ l, (l.foldl (lowerOf d) a).1 ≤ (gaugeOf d c).min.toNat) ∧
    ((l.foldl (lowerOf d) a).1 = a.1 ∨ ∃ c ∈ l, (l.foldl (lowerOf d) a).1 = (gaugeOf d c).min.toNat) := by
  induction l generalizing a with
  | nil => exact ⟨Nat.le_refl _, fun c h => absurd h List.not_mem_nil, .inl rfl⟩
  | cons c l ih =>
    obtain ⟨below, each, one⟩ := ih (lowerOf d a c)
    have start : (lowerOf d a c).1 ≤ a.1 ∧ (lowerOf d a c).1 ≤ (gaugeOf d c).min.toNat ∧
        ((lowerOf d a c).1 = a.1 ∨ (lowerOf d a c).1 = (gaugeOf d c).min.toNat) := by
      unfold lowerOf
      split
      next h => exact ⟨Nat.le_of_lt h, Nat.le_refl _, .inr rfl⟩
      next h => exact ⟨Nat.le_refl _, Nat.not_lt.mp h, .inl rfl⟩
    obtain ⟨under, first_, either⟩ := start
    refine ⟨Nat.le_trans below under, fun k mem => ?_, ?_⟩
    · obtain rfl | mem := List.mem_cons.mp mem
      · exact Nat.le_trans below first_
      · exact each k mem
    · obtain same | ⟨k, mem, same⟩ := one
      · obtain old | new := either
        · exact .inl (same.trans old)
        · exact .inr ⟨c, List.mem_cons_self, same.trans new⟩
      · exact .inr ⟨k, List.mem_cons_of_mem _ mem, same⟩

/-- The lowest MIN over the 16 clusters. -/
theorem lowestMin_eq {d : Dev} {m : Nat} (least : ∀ c, c < 16 → m ≤ (gaugeOf d c).min.toNat)
    (has : ∃ c, c < 16 ∧ (gaugeOf d c).min.toNat = m) : (lowestMin d).1 = m := by
  obtain ⟨below, each, one⟩ := lowerOf_scan d (List.range 16) ((gaugeOf d 0).min.toNat, 0)
  obtain ⟨c, inside, hc⟩ := has
  refine Nat.le_antisymm (hc ▸ each c (List.mem_range.mpr inside)) ?_
  obtain same | ⟨k, mem, same⟩ := one
  · exact Nat.le_trans (least 0 (by decide)) (Nat.le_of_eq same.symm)
  · exact Nat.le_trans (least k (List.mem_range.mp mem)) (Nat.le_of_eq same.symm)

/-- The target that TRACK wants, from the lowest MIN and ten times F and the guard. -/
def trackTarget (low g target : Nat) : Nat :=
  if 100 * low < g then min 900 (target + 5) else if 104 * g < 10000 * low then max 720 (target - 5) else target

/-- TRACK's step, without its attention. -/
def trackMoved (low g : Nat) (lost : Bool) (d : Dev) : Dev :=
  rearm (modPace (fun p => { p with
    target := if p.stopped then p.target else trackTarget low g p.target
    marginTold := lost || (p.marginTold && decide (100 * low ≤ g)) }) d)

theorem retarget_if (d : Dev) (v : Nat) : (if d.pace.stopped = true then d else modPace (fun p => { p with target := v }) d) =
    modPace (fun p => { p with target := if p.stopped then p.target else v }) d := by
  by_cases stopped : d.pace.stopped = true
  · have same : (if d.pace.stopped = true then d.pace.target else v) = d.pace.target := if_pos stopped
    exact (if_pos stopped).trans (congrArg (fun n => modPace (fun p => { p with target := n }) d) same.symm)
  · have new : (if d.pace.stopped = true then d.pace.target else v) = v := if_neg stopped
    exact (if_neg stopped).trans (congrArg (fun n => modPace (fun p => { p with target := n }) d) new.symm)

/-- Attention raised on a condition is one more entry of the log where it holds. -/
theorem paceAttn_if (p : Prop) [Decidable p] (cls event c low : Nat) (d : Dev) :
    ∃ a, (if p then paceAttn cls event c low d else d) = { d with attn := a } ∧
      a.serial = (if p then d.attn.serial + 1 else d.attn.serial) := by
  by_cases h : p
  · exact ⟨_, if_pos h, (if_pos h).symm⟩
  · exact ⟨_, if_neg h, (if_neg h).symm⟩

theorem marginTold_eq (lost told : Bool) (a g : Nat) :
    (if lost = true then true else if a > g then false else told) = (lost || (told && decide (a ≤ g))) := by
  cases lost
  · by_cases above : a > g
    · have past : decide (a ≤ g) = false := decide_eq_false (Nat.not_le.mpr above)
      rw [if_neg Bool.false_ne_true, if_pos above, past, Bool.and_false]
      rfl
    · have within : decide (a ≤ g) = true := decide_eq_true (Nat.not_lt.mp above)
      rw [if_neg Bool.false_ne_true, if_neg above, within, Bool.and_true]
      rfl
  · rfl

theorem trackStep_eq {low g : Nat} {lost : Bool} {d : Dev} (hlow : (lowestMin d).1 = low)
    (hg : g = 10 * d.pace.f * (100 + d.pace.guardPct)) (hlost : lost = decide (100 * low < g ∧ 900 ≤ d.pace.target)) :
    ∃ a, trackStep d = { trackMoved low g lost d with attn := a } ∧
      a.serial = (if lost = true ∧ d.pace.marginTold = false then d.attn.serial + 1 else d.attn.serial) := by
  rcases lowest : lowestMin d with ⟨low', c⟩
  obtain rfl : low' = low := by rw [← hlow, lowest]
  have below : (decide (100 * low' < g) && decide (d.pace.target ≥ 900)) = lost := by rw [hlost, Bool.decide_and]
  obtain ⟨a, told, serial⟩ := paceAttn_if (lost = true ∧ d.pace.marginTold = false) 1 1 c low'
    (modPace (fun p => { p with target := if p.stopped then p.target else trackTarget low' g p.target }) d)
  refine ⟨a, ?_, serial⟩
  unfold trackStep
  rw [lowest]
  dsimp only
  rw [← hg, Nat.mul_comm low' 100, Nat.mul_comm low' 10000, below]
  simp only [decide_eq_true_eq, marginTold_eq]
  rw [retarget_if]
  refine (congrArg (fun e => rearm (modPace (fun p => { p with
    marginTold := lost || (p.marginTold && decide (100 * low' ≤ g)) }) e)) ((ite_of_iff ?_).trans told)).trans rfl
  rw [Bool.and_eq_true, Bool.not_eq_true']
  exact Iff.rfl

/-- The next boundary of a series is not past. -/
theorem nextBeat_after {m : Nat} (positive : 0 < m) (done : Option Time) (t : Nat) : t ≤ nextBeat m done t := by
  unfold nextBeat
  split
  · exact Nat.le_refl t
  · exact (nextMultiple_spec positive t).2.1

/-- The device at the boundary of an adjustment. -/
def trackBegun (next : Time) (d : Dev) : Dev := modPace (fun p => { p with trackAt := some next }) (advance next d)

theorem trackBegun_eq {next : Time} {d : Dev} (after : d.geyser.now ≤ next) : trackBegun next d =
    { d with geyser := { d.geyser with now := next }, pace := { d.pace with trackAt := some next } } := by
  unfold trackBegun advance
  rw [Nat.max_eq_right after]
  rfl

theorem trackAdjust_track {next : Time} {d : Dev} (hnext : next = nextBeat (ms 1) d.pace.trackAt d.geyser.now)
    (released : d.start.released = true) (up : stewardUp d = true) (track : d.pace.track = true) :
    trackAdjust d = trackStep (trackBegun next d) := by
  have makes : (d.start.released && stewardUp d) = true := by rw [released, up]; rfl
  subst hnext
  exact (if_neg (by show ¬(!(d.start.released && stewardUp d)) = true; rw [makes]; exact Bool.false_ne_true)).trans (if_pos track)

/-- Without TRACK the setpoint is written, by a Steward that runs and while no failure has stopped its writes. -/
theorem trackAdjust_fixed {next : Time} {d : Dev} (hnext : next = nextBeat (ms 1) d.pace.trackAt d.geyser.now)
    (fixed : d.pace.track = false ∨ d.start.released = false ∨ stewardUp d = false) :
    trackAdjust d = modPace (fun p => { p with
      target := if d.start.released = true ∧ stewardUp d = true ∧ p.stopped = false then p.setpoint else p.target })
        (trackBegun next d) := by
  subst hnext
  by_cases makes : (d.start.released && stewardUp d) = true
  · obtain ⟨released, up⟩ := Bool.and_eq_true_iff.mp makes
    have plain : d.pace.track = false := by
      obtain plain | held | down := fixed
      · exact plain
      · exact absurd (held.symm.trans released) Bool.false_ne_true
      · exact absurd (down.symm.trans up) Bool.false_ne_true
    refine (if_neg (by show ¬(!(d.start.released && stewardUp d)) = true; rw [makes]; exact Bool.false_ne_true)).trans
      ((if_neg (by show ¬d.pace.track = true; rw [plain]; exact Bool.false_ne_true)).trans ?_)
    by_cases stopped : d.pace.stopped = true
    · have same : (if d.start.released = true ∧ stewardUp d = true ∧ d.pace.stopped = false then d.pace.setpoint else d.pace.target) =
          d.pace.target := if_neg fun h => Bool.false_ne_true (h.2.2.symm.trans stopped)
      exact (if_pos stopped).trans (congrArg (fun n => modPace (fun p => { p with target := n }) (trackBegun _ d)) same.symm)
    · have set_ : (if d.start.released = true ∧ stewardUp d = true ∧ d.pace.stopped = false then d.pace.setpoint else d.pace.target) =
          d.pace.setpoint := if_pos ⟨released, up, Bool.eq_false_iff.mpr stopped⟩
      exact (if_neg stopped).trans (congrArg (fun n => modPace (fun p => { p with target := n }) (trackBegun _ d)) set_.symm)
  · have same : (if d.start.released = true ∧ stewardUp d = true ∧ d.pace.stopped = false then d.pace.setpoint else d.pace.target) =
        d.pace.target := if_neg fun h => makes (by rw [h.1, h.2.1]; rfl)
    refine (if_pos (by show (!(d.start.released && stewardUp d)) = true; rw [Bool.eq_false_iff.mpr makes]; rfl)).trans ?_
    exact congrArg (fun n => modPace (fun p => { p with target := n }) (trackBegun _ d)) same.symm

/-- The readback after a target write fails. -/
def readbackBad (error fault : Bool) (target readback : Nat) : Bool :=
  error || fault || decide (target + 10 < readback) || decide (readback + 10 < target)

theorem avsbusEnd_effect {e f bad : Bool} {r : Nat} {st : W16} {d : Dev} (writes : d.pace.stopped = false)
    (released : d.start.released = true) (hbad : bad = readbackBad e f d.pace.target r) :
    ∃ a, avsbusEnd e r st f d = { d with attn := a, pace := { d.pace with
        readback := if e then d.pace.readback else r
        status := if e then d.pace.status else st
        failures := if bad then d.pace.failures + 1 else 0
        stopped := bad && decide (2 ≤ d.pace.failures) } } ∧
      a.serial = if bad = true ∧ 2 ≤ d.pace.failures then d.attn.serial + 1 else d.attn.serial := by
  have begun : ¬(d.pace.stopped || !d.start.released) = true := by
    rw [writes, released]
    exact Bool.false_ne_true
  have third : ((if bad then d.pace.failures + 1 else 0) ≥ 3) ↔ (bad = true ∧ 2 ≤ d.pace.failures) := by
    split
    next h => exact ⟨fun k => ⟨h, by omega⟩, fun k => by omega⟩
    next h => exact iff_of_false (by omega) fun k => h k.1
  unfold avsbusEnd
  rw [if_neg begun]
  extract_lets t' bad' d'
  have hb : bad' = bad := hbad.symm
  have taken : d' = modPace (fun p => { p with
      readback := if e then p.readback else r, status := if e then p.status else st, failures := if bad then p.failures + 1 else 0 }) d := by
    rw [← hb]
  clear_value d'
  subst taken
  by_cases stops : bad = true ∧ 2 ≤ d.pace.failures
  · have stopped : (bad && decide (2 ≤ d.pace.failures)) = true := by rw [stops.1, decide_eq_true stops.2]; rfl
    rw [if_pos stops, stopped]
    exact ⟨_, if_pos (third.mpr stops), rfl⟩
  · have writing : (bad && decide (2 ≤ d.pace.failures)) = d.pace.stopped := by
      rw [writes]
      exact Bool.eq_false_iff.mpr fun h => stops ⟨(Bool.and_eq_true_iff.mp h).1, of_decide_eq_true (Bool.and_eq_true_iff.mp h).2⟩
    rw [if_neg stops, writing]
    exact ⟨_, if_neg fun h => stops (third.mp h), rfl⟩

/-- Settles O49, by the step of TRACK, the write of FIXED and the count of failures. -/
theorem paceControl : Obligations.PaceControl := by
  refine ⟨?_, ?_, ?_, ?_, ?_⟩
  · intro t s
    exact ⟨_, rfl, rfl, gaugeOf_rearm (advance t s.dev)⟩
  · intro t c s
    exact ⟨_, rfl, rfl⟩
  · intro s m next g lost track released up least has hnext hg hlost
    have begun := trackBegun_eq (d := s.dev) (next := next) (by rw [hnext]; exact nextBeat_after (by decide) _ _)
    obtain ⟨a, stepped, serial⟩ := trackStep_eq (d := trackBegun next s.dev) (lowestMin_eq least has) hg hlost
    refine ⟨_, next_onDev ((trackAdjust_track hnext released up track).trans stepped), ?_, rfl, gaugeOf_rearm _, serial⟩
    rw [begun]
    rfl
  · intro s next fixed hnext
    refine (next_onDev (f := trackAdjust) (trackAdjust_fixed hnext fixed)).trans ?_
    rw [trackBegun_eq (by rw [hnext]; exact nextBeat_after (by decide) _ _)]
    rfl
  · intro t e r st f s bad writes released hbad
    obtain ⟨a, ended, serial⟩ := avsbusEnd_effect (st := st) (d := advance t s.dev) writes released hbad
    exact ⟨_, next_onDev ended, rfl, serial⟩

/-! ### The SAFE pairs -/

theorem forceTest_armed {pins : Byte} {d : Dev} (armed : d.gnt.armed = true) : forceTest pins d = d := if_pos armed

theorem forceTest_kept {pins : Byte} {d : Dev} (disarmed : d.gnt.armed = false) (ok : pins = 0 ∨ d.start.resumed = true) :
    forceTest pins d = modGnt (fun g => { g with testPassed := pins == 0, readDiff := pins }) d :=
  (if_neg (Bool.eq_false_iff.mp disarmed)).trans (if_pos ok)

theorem forceTest_failed {pins : Byte} {d : Dev} (disarmed : d.gnt.armed = false) (pin : pins ≠ 0) (start : d.start.resumed = false) :
    forceTest pins d = chipFailed (modGnt (fun g => { g with testPassed := false, readDiff := pins }) d) := by
  have failed : (pins == 0) = false := beq_eq_false_iff_ne.mpr pin
  refine (if_neg (Bool.eq_false_iff.mp disarmed)).trans ((if_neg ?_).trans ?_)
  · rintro (none_ | resumed)
    · exact pin none_
    · exact Bool.false_ne_true (start.symm.trans resumed)
  · rw [failed]

/-- ARM, in one equation. -/
theorem gntArm_eq (d : Dev) : gntArm d = { d with gnt :=
    if d.gnt.testPassed = true ∧ d.gnt.forced = false ∧ d.front.state ≠ .chipFailed ∧ d.watch.dwd.failover = false
    then { d.gnt with armed := true, testPassed := false, readDiff := 0 } else d.gnt } := by
  have asked : (d.gnt.testPassed && !d.gnt.forced && d.front.state != .chipFailed && !d.watch.dwd.failover) = true ↔
      d.gnt.testPassed = true ∧ d.gnt.forced = false ∧ d.front.state ≠ .chipFailed ∧ d.watch.dwd.failover = false := by
    simp only [Bool.and_eq_true, Bool.not_eq_true', bne_iff_ne, and_assoc]
  unfold gntArm
  by_cases h : d.gnt.testPassed = true ∧ d.gnt.forced = false ∧ d.front.state ≠ .chipFailed ∧ d.watch.dwd.failover = false
  · rw [if_pos (asked.mpr h), if_pos h]
    rfl
  · rw [if_neg fun k => h (asked.mp k), if_neg h]

theorem cvuInject_kept {working : Bool} {d : Dev} (ok : working = true ∨ d.start.resumed = true) :
    cvuInject working d = modGnt (fun g => { g with cvuDetected := working }) d :=
  if_pos ((Bool.or_eq_true _ _).mpr ok)

/-- DRIVE, from which pairs are active, without a test pulse. -/
def steadyDrive (active : Nat → Bool) : Byte :=
  BitVec.ofNat 8 ((List.range 4).foldl (fun a i => if active i then a + bit (2 * i) true + bit (2 * i + 1) false else a) 0)

theorem gntDrive_steady {d : Dev} (steady : d.gnt.pulses = []) : gntDrive d = steadyDrive (pairActive d) := by
  have still : ∀ k, pulsing d k = false := fun k => by
    unfold pulsing
    rw [steady]
    rfl
  unfold gntDrive steadyDrive
  simp only [still, Bool.not_false]

/-- An active pair is driven to (1, 0). -/
theorem steadyDrive_active {active : Nat → Bool} (i : Fin 4) (h : active i.val = true) :
    (steadyDrive active).getLsbD (2 * i.val) = true ∧ (steadyDrive active).getLsbD (2 * i.val + 1) = false := by
  have table : ∀ (a b c e : Bool) (i : Fin 4), [a, b, c, e][i.val]'i.isLt = true →
      (BitVec.ofNat 8 ([(0, a), (1, b), (2, c), (3, e)].foldl
        (fun n (x : Nat × Bool) => if x.2 then n + bit (2 * x.1) true + bit (2 * x.1 + 1) false else n) 0)).getLsbD (2 * i.val) = true ∧
      (BitVec.ofNat 8 ([(0, a), (1, b), (2, c), (3, e)].foldl
        (fun n (x : Nat × Bool) => if x.2 then n + bit (2 * x.1) true + bit (2 * x.1 + 1) false else n) 0)).getLsbD (2 * i.val + 1) = false := by
    decide
  refine table (active 0) (active 1) (active 2) (active 3) i ?_
  match i, h with
  | 0, h | 1, h | 2, h | 3, h => exact h

/-- No pair is active: no pin is driven. -/
theorem gntDrive_inactive {d : Dev} (off : d.gnt.forced = true ∨ d.gnt.armed = false) : gntDrive d = 0 := by
  have none_ : ∀ i, pairActive d i = false := fun i => by
    unfold pairActive
    obtain forced | disarmed := off
    · rw [forced, Bool.not_true, Bool.and_false, Bool.false_and]
    · rw [disarmed, Bool.false_and, Bool.false_and]
  unfold gntDrive
  simp only [none_, Bool.false_eq_true, if_false]
  rfl

/-- Settles O50, by the tests that ARM asks for and the drive of an active pair. -/
theorem safePairsArm : Obligations.SafePairsArm := by
  refine ⟨?_, ?_, ?_, ?_, ?_, fun d off => gntDrive_inactive off, ?_⟩
  · intro t pins s armed
    exact ⟨_, next_onDev (f := fun d => forceTest pins (advance t d)) (forceTest_armed (d := advance t s.dev) armed), rfl⟩
  · intro t pins s disarmed ok
    exact ⟨_, next_onDev (f := fun d => forceTest pins (advance t d)) (forceTest_kept (d := advance t s.dev) disarmed ok), rfl⟩
  · intro t pins s disarmed pin start
    refine ⟨_, next_onDev (f := fun d => forceTest pins (advance t d)) (forceTest_failed (d := advance t s.dev) disarmed pin start), ?_⟩
    exact ⟨chipFailed_state _, rfl, rfl, chipFailed_reactions _⟩
  · intro t s
    exact ⟨_, next_onDev (f := fun d => gntArm (advance t d)) (gntArm_eq (advance t s.dev)), rfl⟩
  · intro t w s ok
    exact ⟨_, next_onDev (f := fun d => cvuInject w (advance t d)) (cvuInject_kept (d := advance t s.dev) ok), rfl⟩
  · intro d i armed unforced role steady
    rw [gntDrive_steady steady]
    refine steadyDrive_active i ?_
    unfold pairActive
    rw [armed, unforced, role]
    rfl

/-! ### Test pulses and readback -/

theorem safeTestPulse_followed {pair : Nat} {pin : SafePin} {d : Dev} (active : pairActive d pair = true)
    (slot : d.geyser.now % ms 20 = pulseOffset pair pin) : safeTestPulse pair pin true d =
      modGnt (fun g => { g with pulses := kput g.pulses (pinBit pair pin) d.geyser.now }) d := by
  refine (if_pos ?_).trans (if_pos rfl)
  rw [active, slot, beq_self_eq_true]
  rfl

/-- Settles O51, by the pulse's instant and the readback against the drive. -/
theorem safePinReadback : Obligations.SafePinReadback := by
  refine ⟨?_, ?_, ?_, fun p => ⟨rfl, rfl, rfl, rfl⟩⟩
  · intro t p pin s active slot
    obtain ⟨u, next, launches, mem, pending⟩ := exists_onDevZ (fun d => safeTestPulse p.val pin true (advance t d)) s
    rw [safeTestPulse_followed (d := advance t s.dev) active slot] at launches
    have started : kfind? u.dev.gnt.pulses (pinBit p.val pin) = some (arrival t s) := by
      rw [launches.gnt]
      exact kfind?_kput_self _ _ _
    refine ⟨u, next, ?_, started, ?_, fun k other => ?_, mem, pending⟩
    · rw [launches.gnt]
      exact launches
    · unfold pulsing
      rw [started, launches.geyser]
      exact decide_eq_true (Nat.lt_add_of_pos_right (by decide))
    · rw [launches.gnt]
      exact kfind?_kput_ne _ _ other
  · intro t p pin level s b hb same
    subst hb
    obtain ⟨u, next, launches, mem, pending⟩ := exists_onDevZ (fun d => safeReadback p.val pin level (advance t d)) s
    rw [safeReadback, if_pos same] at launches
    exact ⟨u, next, launches, mem, pending⟩
  · intro t p pin level s b hb other
    subst hb
    exact exists_onDevZ_pump (s := s) (f := fun d => safeReadback p.val pin level (advance t d)) (if_neg other)

end Sys2Proof.Machine
end

section
/-! Unit watchdogs and the device watchdog (17 R420 to R433): one equation per case of a service, and O52, O53 and O54. -/

namespace Sys2Proof.Machine

open Sys2Proof

/-! ### Configuration and service of a unit watchdog -/

section
variable {n : Nat} {d : Dev}

theorem uwdOf_hwSet (r : Reg) (b : Nat) (d : Dev) (k : Nat) : uwdOf (hwSet r b d) k = uwdOf d k := rfl

theorem uwdOf_launches {d e : Dev} (h : onlyLaunches d e) (k : Nat) : uwdOf e k = uwdOf d k := by
  unfold uwdOf
  rw [h.watch]

/-- What a write of UWD_CFG leaves of its watchdog. -/
def configured (n v : Nat) (now : Time) (w : UnitWd) : UnitWd :=
  if w.enabled then w
  else if uwdRange v then
    { w with
      enabled := true, state := .running, graceUs := v / 2 ^ 48 % 32768, periodUs := v / 2 ^ 24 % 16777216
      openUs := v % 16777216, last := now, test := n == 66, testDone := false }
  else { w with cfgErr := true }

theorem uwdCfg_cases (n v : Nat) (d : Dev) :
    uwdCfg n v d = hwSet (.uwdStatus (Fin.ofNat 67 n)) (2 ^ 26) (modUwd n (configured n v d.geyser.now) d) ∨
    uwdCfg n v d = modUwd n (configured n v d.geyser.now) d := by
  by_cases wrong : (uwdOf (modUwd n (configured n v d.geyser.now) d) n).cfgErr = true
  · exact .inl (if_pos wrong)
  · exact .inr (if_neg wrong)

theorem uwdOf_uwdCfg (n v : Nat) (d : Dev) : uwdOf (uwdCfg n v d) n = configured n v d.geyser.now (uwdOf d n) ∧
    (∀ k, k ≠ n → uwdOf (uwdCfg n v d) k = uwdOf d k) ∧ uwdCfg n v d = { d with
      watch := { d.watch with uwd := (uwdCfg n v d).watch.uwd }, hwSets := (uwdCfg n v d).hwSets, hwAt := (uwdCfg n v d).hwAt } := by
  have own := uwdOf_modUwd (d := d) n (configured n v d.geyser.now)
  have others := fun k (other : k ≠ n) => uwdOf_modUwd_ne (d := d) (configured n v d.geyser.now) other
  obtain noted | plain := uwdCfg_cases n v d
  · rw [noted]
    exact ⟨own, others, rfl⟩
  · rw [plain]
    exact ⟨own, others, rfl⟩

theorem configured_enabled {v : Nat} {now : Time} {w : UnitWd} (enabled : w.enabled = true) : configured n v now w = w := if_pos enabled

theorem uwdRange_iff (v : Nat) : uwdRange v = true ↔ (5 ≤ v / 2 ^ 48 % 32768 ∧ v / 2 ^ 48 % 32768 ≤ 10000 ∧
    100 ≤ v / 2 ^ 24 % 16777216 ∧ v / 2 ^ 24 % 16777216 ≤ 10000000 ∧ 1 ≤ v % 16777216 ∧
    v % 16777216 + 10 ≤ v / 2 ^ 24 % 16777216) := by
  simp only [uwdRange, Bool.and_eq_true, decide_eq_true_eq, and_assoc]

theorem uwdCounts_iff (w : UnitWd) : uwdCounts w = true ↔ w.state = .running ∨ w.state = .grace := by
  simp only [uwdCounts, Bool.or_eq_true, beq_iff_eq]

theorem uwdServe_off {fuel : Nat} (off : uwdCounts (uwdOf d n) = false) : uwdServe n fuel d = d := by
  cases fuel with
  | zero => rfl
  | succ fuel => exact if_pos (by rw [off]; rfl)

/-- A watchdog that counts is served within its period. -/
theorem uwdServe_within {fuel : Nat} (counts : uwdCounts (uwdOf d n) = true)
    (within : d.geyser.now < (uwdOf d n).last + us (uwdOf d n).periodUs) : uwdServe n (fuel + 1) d =
      if d.geyser.now < (uwdOf d n).last + us (uwdOf d n).openUs then uwdExpire n true d.geyser.now d
      else modUwd n (fun w => { w with last := d.geyser.now }) d :=
  (if_neg (by rw [counts]; exact Bool.false_ne_true)).trans (if_neg (Nat.not_le.mpr within))

/-- The registers of a watchdog once it has expired at `x`. -/
def expiredAt (n : Nat) (early : Bool) (x : Time) (w : UnitWd) : UnitWd :=
  { w with
    last := x, expiries := min (w.expiries + 1) 65535, expired := w.expired || !early, early := w.early || early
    state := if n = 66 then w.state else .grace, graceFrom := x }

theorem expiredAt_early (n : Nat) (x : Time) : expiredAt n true x = fun w => { w with
    last := x, expiries := min (w.expiries + 1) 65535, early := true, state := if n = 66 then w.state else .grace, graceFrom := x } := by
  funext w
  rw [expiredAt, Bool.not_true, Bool.or_false, Bool.or_true]

theorem expiredAt_late (n : Nat) (x : Time) : expiredAt n false x = fun w => { w with
    last := x, expiries := min (w.expiries + 1) 65535, expired := true, state := if n = 66 then w.state else .grace, graceFrom := x } := by
  funext w
  rw [expiredAt, Bool.not_false, Bool.or_false, Bool.or_true]

theorem uwdExpire_signals {early : Bool} {x : Time} (tells : ¬(n = 66 ∧ (uwdOf d n).test = true)) : uwdExpire n early x d =
    pump (signal (uwdSource n) (hwSet (.uwdStatus (Fin.ofNat 67 n)) (if early then 2 ^ 28 else 2 ^ 29) (modUwd n (expiredAt n early x) d))) :=
  if_neg tells

theorem uwdExpire_test {early : Bool} {x : Time} (test : (uwdOf d 66).test = true) : uwdExpire 66 early x d =
    hwSet (.uwdStatus (Fin.ofNat 67 66)) (if early then 2 ^ 28 else 2 ^ 29) (modUwd 66 (expiredAt 66 early x) d) :=
  if_pos ⟨rfl, test⟩

theorem uwdExpiry_counts (counts : uwdCounts (uwdOf d n) = true) : uwdExpiry n d =
    uwdExpire n false ((uwdOf d n).last + us (uwdOf d n).periodUs) (advance ((uwdOf d n).last + us (uwdOf d n).periodUs) d) :=
  if_pos counts

end

/-- A processor's own watchdog, and the spare that processor 1 serves. -/
theorem uwdService_up {i : Fin 3} {d : Dev} (up : procUp (if i.val = 0 then 0 else 1) d = true) : uwdService (64 + i.val) d =
    uwdServe (64 + i.val) ((d.geyser.now - (uwdOf d (64 + i.val)).last) / max 1 (us (uwdOf d (64 + i.val)).periodUs) + 1) d := by
  have own : (if 64 + i.val = 64 then 0 else 1) = if i.val = 0 then 0 else 1 := ite_of_iff (by omega)
  unfold uwdService
  dsimp only
  rw [own, up]
  exact if_neg Bool.false_ne_true

theorem uwdService_down {i : Fin 3} {d : Dev} (down : procUp (if i.val = 0 then 0 else 1) d = false) : uwdService (64 + i.val) d = d := by
  have own : (if 64 + i.val = 64 then 0 else 1) = if i.val = 0 then 0 else 1 := ite_of_iff (by omega)
  unfold uwdService
  dsimp only
  rw [own, down]
  exact if_pos rfl

theorem sequencerService_kept {n : Nat} {answered : Bool} {d : Dev} (kept : answered = false ∨ d.geyser.now % ms 1 ≠ 0 ∨
    uwdCounts (uwdOf d n) = false ∨ d.geyser.now < (uwdOf d n).last + us (uwdOf d n).openUs) : sequencerService n answered d = d := by
  refine if_pos ?_
  rw [Bool.or_eq_true, Bool.or_eq_true, Bool.or_eq_true, Bool.not_eq_true', Bool.not_eq_true', bne_iff_ne, decide_eq_true_eq]
  obtain h | h | h | h := kept
  · exact .inl (.inl (.inl h))
  · exact .inl (.inl (.inr h))
  · exact .inl (.inr h)
  · exact .inr h

theorem sequencerService_served {n : Nat} {d : Dev} (beat : d.geyser.now % ms 1 = 0) (counts : uwdCounts (uwdOf d n) = true)
    (after : (uwdOf d n).last + us (uwdOf d n).openUs ≤ d.geyser.now) : sequencerService n true d = uwdServe n 1 d := by
  refine if_neg ?_
  rw [counts, beat, decide_eq_false (Nat.not_lt.mpr after)]
  decide

theorem uwdSource_proc (i : Fin 3) : uwdSource (64 + i.val) = if i.val < 2 then 738 + i.val else 741 := by
  revert i
  decide

/-- Settles O52, by the cases of a service and of an expiry. -/
theorem unitWatchdogWindow : Obligations.UnitWatchdogWindow := by
  refine ⟨?_, ?_, ?_, ?_, ?_, ?_, ?_, ?_, ?_⟩
  · intro t n v s
    obtain ⟨own, others, frame⟩ := uwdOf_uwdCfg n.val v.toNat (advance t s.dev)
    refine ⟨_, rfl, congrArg (fun d => { s with dev := d }) frame, others, fun enabled => own.trans (configured_enabled enabled), ?_, ?_⟩
    · intro disabled g1 g2 p1 p2 o1 o2
      exact own.trans ((if_neg (Bool.eq_false_iff.mp disabled)).trans (if_pos ((uwdRange_iff _).mpr ⟨g1, g2, p1, p2, o1, o2⟩)))
    · intro disabled outside
      exact own.trans ((if_neg (Bool.eq_false_iff.mp disabled)).trans (if_neg fun h => outside ((uwdRange_iff _).mp h)))
  · rintro t i s w rfl counts up after within
    have served := (uwdService_up (d := advance t s.dev) up).trans ((uwdServe_within (d := advance t s.dev)
      ((uwdCounts_iff _).mpr counts) within).trans (if_neg (Nat.not_lt.mpr after)))
    exact next_cleared (f := fun d => uwdService (64 + i.val) (advance t d)) served
  · intro t i s idle
    refine next_cleared (f := fun d => uwdService (64 + i.val) (advance t d)) ?_
    by_cases up : procUp (if i.val = 0 then 0 else 1) s.dev = true
    · refine (uwdService_up (d := advance t s.dev) up).trans (uwdServe_off (Bool.eq_false_iff.mpr fun h => ?_))
      obtain down | ⟨notRunning, notGrace⟩ := idle
      · exact Bool.false_ne_true (down.symm.trans up)
      · obtain running | grace := (uwdCounts_iff _).mp h
        · exact notRunning running
        · exact notGrace grace
    · exact uwdService_down (d := advance t s.dev) (Bool.eq_false_iff.mpr up)
  · rintro t i s w rfl counts up early within tells
    have tells' : ¬(64 + i.val = 66 ∧ (uwdOf (advance t s.dev) (64 + i.val)).test = true) := fun h => tells ⟨by omega, h.2⟩
    have served := (uwdService_up (d := advance t s.dev) up).trans ((uwdServe_within (d := advance t s.dev)
      ((uwdCounts_iff _).mpr counts) within).trans ((if_pos early).trans (uwdExpire_signals tells')))
    obtain ⟨u, next, launches, mem, pending⟩ := exists_onDevZ_pump (s := s) (f := fun d => uwdService (64 + i.val) (advance t d)) served
    have spare : ∀ w : UnitWd, (if 64 + i.val = 66 then w.state else WdState.grace) = if i.val = 2 then w.state else .grace :=
      fun w => ite_of_iff (by omega)
    rw [uwdSource_proc, expiredAt_early] at launches
    simp only [spare] at launches
    exact ⟨u, next, launches, mem, pending⟩
  · rintro n s w x rfl counts rfl tells
    have served := (uwdExpiry_counts ((uwdCounts_iff _).mpr counts)).trans
      (uwdExpire_signals (n := n.val) (early := false) (x := (uwdOf s.dev n.val).last + us (uwdOf s.dev n.val).periodUs)
        (d := advance ((uwdOf s.dev n.val).last + us (uwdOf s.dev n.val).periodUs) s.dev) tells)
    obtain ⟨u, next, launches, mem, pending⟩ := exists_onDevZ_pump (s := s) (f := uwdExpiry n.val) served
    rw [expiredAt_late] at launches
    exact ⟨u, next, launches, mem, pending⟩
  · rintro s w rfl running test
    have served := (uwdExpiry_counts ((uwdCounts_iff _).mpr (.inl running))).trans
      (uwdExpire_test (early := false) (x := (uwdOf s.dev 66).last + us (uwdOf s.dev 66).periodUs)
        (d := advance ((uwdOf s.dev 66).last + us (uwdOf s.dev 66).periodUs) s.dev) test)
    obtain ⟨u, next, launches, mem, pending⟩ := exists_onDevZ (uwdExpiry 66) s
    rw [served, expiredAt_late] at launches
    refine ⟨u, next, ?_, fun k other => ?_, ?_, mem, pending⟩
    · rw [uwdOf_launches launches]
      exact uwdOf_modUwd (d := advance ((uwdOf s.dev 66).last + us (uwdOf s.dev 66).periodUs) s.dev) 66 (fun w : UnitWd => { w with
        last := (uwdOf s.dev 66).last + us (uwdOf s.dev 66).periodUs, expiries := min (w.expiries + 1) 65535, expired := true
        graceFrom := (uwdOf s.dev 66).last + us (uwdOf s.dev 66).periodUs })
    · rw [uwdOf_launches launches, uwdOf_hwSet, uwdOf_modUwd_ne _ _ other]
      rfl
    · rw [launches.watch, launches.hwSets, launches.hwAt]
      exact launches
  · rintro t c s w rfl counts beat after within
    have served := (sequencerService_served (d := advance t s.dev) beat ((uwdCounts_iff _).mpr counts) after).trans
      ((uwdServe_within (d := advance t s.dev) ((uwdCounts_iff _).mpr counts) within).trans (if_neg (Nat.not_lt.mpr after)))
    exact next_cleared (f := fun d => sequencerService c.val true (advance t d)) served
  · rintro t c answered s w rfl kept
    refine next_cleared (f := fun d => sequencerService c.val answered (advance t d)) (sequencerService_kept ?_)
    obtain h | h | ⟨notRunning, notGrace⟩ | h := kept
    · exact .inl h
    · exact .inr (.inl h)
    · refine .inr (.inr (.inl (Bool.eq_false_iff.mpr fun h => ?_)))
      obtain running | grace := (uwdCounts_iff _).mp h
      · exact notRunning running
      · exact notGrace grace
    · exact .inr (.inr (.inr h))
  · intro t s test
    refine ⟨_, rfl, rfl, ?_, fun k other => uwdOf_modUwd_ne (d := advance t s.dev) _ other⟩
    exact (uwdOf_modUwd (d := advance t s.dev) 66 (fun w : UnitWd => if w.test then { w with test := false, testDone := true } else w)).trans
      (if_pos test)

/-! ### Acknowledgement and the grace time -/

/-- A Steward processor's watchdog once it has acknowledged: RUNNING, with a crash record. -/
theorem unitAck_proc {i : Fin 2} {d : Dev} (grace : (uwdOf d (64 + i.val)).state = .grace) : unitAck (64 + i.val) d =
    { modUwd (64 + i.val) (fun w => { w with state := if w.state = .grace then .running else w.state, graceFrom := 0 }) d with
      watch := { d.watch with
        uwd := (modUwd (64 + i.val) (fun w => { w with state := if w.state = .grace then .running else w.state, graceFrom := 0 }) d).watch.uwd
        crash := d.watch.crash ++ [i.val] } } := by
  have unit : 64 + i.val - 64 = i.val := Nat.add_sub_cancel_left 64 i.val
  refine (if_neg (by omega)).trans ((if_neg (by omega)).trans ((if_pos (.inl grace)).trans ?_))
  rw [unit]
  rfl

/-- A core's acknowledgement with no kernel: the trap is captured. -/
theorem unitAck_core {c : Fin 64} {d : Dev} (grace : (uwdOf d c.val).state = .grace) (idle : runOn? d c.val = none) :
    unitAck c.val d = captureTrap c.val { kind := tWatchdog } false 0 (modUwd c.val (fun w => { w with state := .running }) d) := by
  have idle' : runOn? (modUwd c.val (fun w => { w with state := .running }) d) c.val = none := idle
  refine (if_pos c.isLt).trans ((if_pos grace).trans ?_)
  unfold coreAck
  dsimp only
  rw [idle']

/-- A count below 256 has no bit of the field KIND. -/
theorem kind_of_count {count : W32} (low : count.toNat < 256) : count &&& 0x3F000000 = 0 := by
  have field : (0x3F000000 : W32).toNat = 0x3F0000 * 2 ^ 8 := rfl
  refine BitVec.eq_of_toNat_eq (Nat.eq_of_testBit_eq fun i => ?_)
  rw [BitVec.toNat_and, field, Nat.testBit_and, Nat.testBit_mul_two_pow]
  by_cases high : 8 ≤ i
  · rw [Nat.testBit_lt_two_pow (Nat.lt_of_lt_of_le low (Nat.pow_le_pow_right (by decide) high : 2 ^ 8 ≤ 2 ^ i)), Bool.false_and]
    exact (Nat.zero_testBit i).symm
  · rw [decide_eq_false high, Bool.false_and, Bool.and_false]
    exact (Nat.zero_testBit i).symm

/-- COUNT stays within its eight bits. -/
theorem count_low (old : W32) : (if old &&& 0xFF = 0xFF then 0xFF else (old &&& 0xFF) + 1 : W32).toNat < 256 := by
  have field : (old &&& 0xFF).toNat ≤ 255 := by
    rw [BitVec.toNat_and]
    exact Nat.and_le_right
  split
  · decide
  · rw [BitVec.toNat_add]
    generalize hx : old &&& 0xFF = x at *
    have notFull : x.toNat ≠ 255 := fun h => ‹¬_› (BitVec.eq_of_toNat_eq h)
    have one : (1 : W32).toNat = 1 := rfl
    rw [one]
    omega

/-- What TRAP_STATUS takes of a watchdog's trap, when it is free: VALID, and the kind WATCHDOG. -/
theorem captureWord_watchdog {old : W32} (free : old &&& 0x80000000 = 0) :
    captureWord old 0x0C03F000 &&& 0x3F000000 = 0x0C000000 ∧ (captureWord old 0x0C03F000).getLsbD 31 = true := by
  have low := count_low old
  unfold captureWord
  extract_lets count
  rw [if_pos free]
  constructor
  · have more : old &&& 0x40000000 &&& 0x3F000000 = 0 := by
      rw [BitVec.and_assoc]
      exact BitVec.and_zero
    rw [BitVec.and_or_distrib_right, BitVec.and_or_distrib_right, BitVec.and_or_distrib_right, more, kind_of_count low]
    decide
  · rw [BitVec.getLsbD_or, BitVec.getLsbD_or, BitVec.getLsbD_or]
    simp only [show (0x80000000 : W32).getLsbD 31 = true from by decide, Bool.true_or]

/-- A capture noted changes nothing but the sets of the present instant. -/
theorem noteCapture_frame (r : Reg) (old body : W32) (addr : W64) (d : Dev) : noteCapture r old body addr d = { d with
    hwSets := (noteCapture r old body addr d).hwSets, hwAt := (noteCapture r old body addr d).hwAt } := by
  unfold noteCapture
  split
  · rfl
  · split
    · rfl
    · split <;> rfl

/-- A watchdog's trap: kind 0x0C of the whole bundle, with no address. -/
theorem captureTrap_watchdog (n : Nat) (d : Dev) : captureTrap n { kind := tWatchdog } false 0 d = modCore n (fun k => { k with
    trapStatus := captureWord k.trapStatus 0x0C03F000
    trapAddr := if k.trapStatus &&& 0x80000000 = 0 then 0 else k.trapAddr })
      (noteCapture (.trapStatus (Fin.ofNat 64 n)) (coreOf d n).trapStatus 0x0C03F000 0 d) := by
  have body : trapBody { kind := tWatchdog } false = 0x0C03F000 := by decide
  have place : trapPlace { kind := tWatchdog } 0 = 0 := by decide
  unfold captureTrap
  rw [body, place]

theorem graceExpiry_proc {i : Fin 2} {d : Dev} (grace : (uwdOf d (64 + i.val)).state = .grace) : graceExpiry (64 + i.val) d =
    modProc i.val (fun p => { p with held := true }) (hwSet (.uwdStatus (Fin.ofNat 67 (64 + i.val))) (2 ^ 27)
      (modUwd (64 + i.val) (fun w => { w with state := .held, hard := true })
        (advance ((uwdOf d (64 + i.val)).graceFrom + us (uwdOf d (64 + i.val)).graceUs) d))) := by
  have unit : 64 + i.val - 64 = i.val := Nat.add_sub_cancel_left 64 i.val
  refine (if_pos grace).trans ((if_neg (by omega)).trans ?_)
  rw [unit]

theorem graceExpiry_core {c : Fin 64} {d : Dev} (grace : (uwdOf d c.val).state = .grace) : graceExpiry c.val d =
    pump (fenceCore c.val (hwSet (.uwdStatus (Fin.ofNat 67 c.val)) (2 ^ 27) (modUwd c.val (fun w => { w with state := .held, hard := true })
      (advance ((uwdOf d c.val).graceFrom + us (uwdOf d c.val).graceUs) d)))) :=
  (if_pos grace).trans (if_pos c.isLt)

/-- Settles O53, by what an acknowledgement and the end of the grace time leave. -/
theorem watchdogGrace : Obligations.WatchdogGrace := by
  refine ⟨?_, ?_, ?_, ?_⟩
  · intro t i s grace
    obtain ⟨u, next, launches, mem, pending⟩ := exists_onDevZ (fun d => unitAck (64 + i.val) (advance t d)) s
    rw [unitAck_proc (d := advance t s.dev) grace] at launches
    refine ⟨u, next, ?_, congrArg Watch.crash launches.watch, ?_, mem, pending⟩
    · rw [uwdOf_launches launches]
      refine (uwdOf_modUwd (d := advance t s.dev) (64 + i.val)
        (fun w : UnitWd => { w with state := if w.state = .grace then .running else w.state, graceFrom := 0 })).trans ?_
      have running : (if (uwdOf s.dev (64 + i.val)).state = .grace then WdState.running else (uwdOf s.dev (64 + i.val)).state) = .running :=
        if_pos grace
      exact congrArg (fun x => { uwdOf s.dev (64 + i.val) with state := x, graceFrom := 0 }) running
    · rw [launches.watch]
      exact launches
  · intro t c s grace idle
    obtain ⟨u, next, launches, mem, pending⟩ := exists_onDevZ (fun d => unitAck c.val (advance t d)) s
    rw [unitAck_core (d := advance t s.dev) grace idle, captureTrap_watchdog] at launches
    refine ⟨u, next, ?_, fun free => ?_, launches, mem, pending⟩
    · have own := uwdOf_modUwd (d := advance t s.dev) c.val (fun w : UnitWd => { w with state := .running })
      rw [uwdOf_launches launches, noteCapture_frame]
      exact congrArg UnitWd.state own
    · have trap : (coreOf u.dev c.val).trapStatus = captureWord (coreOf s.dev c.val).trapStatus 0x0C03F000 := by
        rw [launches.2.1 c.val, coreOf_modCore, noteCapture_frame]
        rfl
      rw [trap]
      exact captureWord_watchdog free
  · rintro i s w rfl grace
    obtain ⟨u, next, launches, mem, pending⟩ := exists_onDevZ (graceExpiry (64 + i.val)) s
    rw [graceExpiry_proc grace] at launches
    refine ⟨u, next, ?_, ?_, ?_, ?_, mem, pending⟩
    · exact (uwdOf_launches launches _).trans (uwdOf_modUwd
        (d := advance ((uwdOf s.dev (64 + i.val)).graceFrom + us (uwdOf s.dev (64 + i.val)).graceUs) s.dev) (64 + i.val)
        (fun w : UnitWd => { w with state := .held, hard := true }))
    · unfold procOf
      rw [launches.cores_proc]
      exact congrArg Processor.held (procOf_modProc _ i.val (fun p : Processor => { p with held := true }))
    · rw [launches.geyser]
      rfl
    · rw [launches.watch, launches.hwSets, launches.hwAt, launches.cores_proc]
      exact launches
  · rintro c s w rfl grace wired
    exact exists_onDevZ_pump (s := s) (graceExpiry_core grace)

/-! ### The device watchdog -/

/-- The device once its watchdog has expired at `x`, before the reactions. -/
def dwdExpired (c : DwdCause) (x : Time) (d : Dev) : Dev :=
  { d with
    watch := { d.watch with dwd := { d.watch.dwd with
      state := .expired, late := decide (c = .late), early := decide (c = .early), badValue := decide (c = .badValue)
      failover := true, pwrCut := true, expiredAt := x } }
    board := { d.board with failoverN := false, pwrCutN := false } }

theorem dwdExpire_eq (c : DwdCause) (x : Time) (d : Dev) : dwdExpire c x d = signal 740 (forceSafe (dwdExpired c x d)) := rfl

theorem dwdService_valid {v : W32} {d : Dev} (up : procUp 1 d = true) (value : v = d.watch.dwd.next)
    (inside : d.watch.dwd.state = .running ∧ d.geyser.now < d.watch.dwd.last + us d.watch.dwd.periodUs ∧
        d.watch.dwd.last + us d.watch.dwd.openUs ≤ d.geyser.now ∨
      d.watch.dwd.state = .restart ∧ d.geyser.now < d.watch.dwd.last + ms 500) :
    dwdService v d = modDwd (fun w => { w with state := .running, last := d.geyser.now, next := ~~~v }) d := by
  have asks : ¬((d.watch.dwd.state ≠ .running ∧ d.watch.dwd.state ≠ .restart) ∨ (!procUp 1 d) = true) := by
    rintro (⟨notRunning, notRestart⟩ | down)
    · obtain ⟨running, -⟩ | ⟨restart, -⟩ := inside
      · exact notRunning running
      · exact notRestart restart
    · rw [up] at down
      exact Bool.false_ne_true down
  have inTime : ¬d.geyser.now ≥ dwdEnd d.watch.dwd := by
    unfold dwdEnd
    obtain ⟨running, before, -⟩ | ⟨restart, before⟩ := inside
    · rw [if_neg (by rw [running]; decide)]
      exact Nat.not_le.mpr before
    · rw [if_pos restart]
      exact Nat.not_le.mpr before
  have opened : ¬(d.watch.dwd.state = .running ∧ d.geyser.now < d.watch.dwd.last + us d.watch.dwd.openUs) := by
    rintro ⟨running, early⟩
    obtain ⟨-, -, after⟩ | ⟨restart, -⟩ := inside
    · exact Nat.not_le.mpr early after
    · rw [restart] at running
      exact WdState.noConfusion running
  exact (if_neg asks).trans ((if_neg inTime).trans ((if_neg (not_not_intro value)).trans (if_neg opened)))

/-- A service that is late, wrong or early is the one expiry, with the cause that says which. -/
theorem dwdService_expires {v : W32} {d : Dev} {late early bad : Bool} {end_ : Time} (up : procUp 1 d = true)
    (counts : d.watch.dwd.state = .running ∨ d.watch.dwd.state = .restart) (hend : end_ = dwdEnd d.watch.dwd)
    (hlate : late = decide (end_ ≤ d.geyser.now)) (hbad : bad = (!late && decide (v ≠ d.watch.dwd.next)))
    (hearly : early = (!late && !bad && decide (d.watch.dwd.state = .running ∧ d.geyser.now < d.watch.dwd.last + us d.watch.dwd.openUs)))
    (one : late = true ∨ bad = true ∨ early = true) :
    ∃ c, dwdService v d = dwdExpire c (if late then end_ else d.geyser.now) d ∧
      decide (c = .late) = late ∧ decide (c = .early) = early ∧ decide (c = .badValue) = bad := by
  have asks : ¬((d.watch.dwd.state ≠ .running ∧ d.watch.dwd.state ≠ .restart) ∨ (!procUp 1 d) = true) := by
    rintro (⟨notRunning, notRestart⟩ | down)
    · exact counts.elim notRunning notRestart
    · rw [up] at down
      exact Bool.false_ne_true down
  subst hend
  unfold dwdService
  dsimp only
  rw [if_neg asks]
  by_cases isLate : dwdEnd d.watch.dwd ≤ d.geyser.now
  · obtain rfl : late = true := hlate.trans (decide_eq_true isLate)
    obtain rfl : bad = false := hbad
    obtain rfl : early = false := hearly
    exact ⟨.late, if_pos isLate, rfl, rfl, rfl⟩
  · obtain rfl : late = false := hlate.trans (decide_eq_false isLate)
    rw [if_neg isLate]
    by_cases wrong : v ≠ d.watch.dwd.next
    · obtain rfl : bad = true := hbad.trans (decide_eq_true wrong)
      obtain rfl : early = false := hearly
      exact ⟨.badValue, if_pos wrong, rfl, rfl, rfl⟩
    · obtain rfl : bad = false := hbad.trans (decide_eq_false wrong)
      obtain never | never | isEarly := one
      · exact absurd never Bool.false_ne_true
      · exact absurd never Bool.false_ne_true
      · subst isEarly
        exact ⟨.early, (if_neg wrong).trans (if_pos (of_decide_eq_true hearly.symm)), rfl, rfl, rfl⟩

theorem dwdExpiry_counts {d : Dev} (counts : d.watch.dwd.state = .running ∨ d.watch.dwd.state = .restart) :
    dwdExpiry d = dwdExpire .late (dwdEnd d.watch.dwd) (advance (dwdEnd d.watch.dwd) d) := if_pos counts

theorem dwdService_kept {v : W32} {d : Dev}
    (kept : d.watch.dwd.state = .expired ∨ d.watch.dwd.state = .off ∨ procUp 1 d = false) : dwdService v d = d := by
  refine if_pos ?_
  obtain expired | off | down := kept
  · exact .inl (by rw [expired]; decide)
  · exact .inl (by rw [off]; decide)
  · exact .inr (by rw [down]; rfl)

/-- What the one expiry leaves. -/
theorem cleared_expired (s : State) (d : Dev) : (cleared s (signal 740 (forceSafe d))).dev.gnt.forced = true ∧
    (cleared s (signal 740 (forceSafe d))).dev.watch.dwd = d.watch.dwd ∧ (cleared s (signal 740 (forceSafe d))).dev.board = d.board ∧
    (cleared s (signal 740 (forceSafe d))).dev.geyser = d.geyser ∧
    srcOf (cleared s (signal 740 (forceSafe d))).dev 740 = srcOf (signal 740 (forceSafe d)) 740 := by
  have launches := (zeroCores_spec { s with dev := signal 740 (forceSafe d) }).1
  have reactions := signalCh_reactions 740 0 (forceSafe d)
  refine ⟨?_, ?_, ?_, ?_, srcOf_launches launches _⟩
  · exact (congrArg Gauntlet.forced launches.gnt).trans (signalCh_forced 740 0 _ rfl)
  · exact (congrArg Watch.dwd launches.watch).trans reactions.watch_dwd
  · exact launches.board.trans reactions.board
  · exact launches.geyser.trans reactions.geyser

/-- An event that is neither under test nor on a wire whose rails disagree makes its source sticky. -/
theorem signalCh_sticky_eq (n ch : Nat) (d : Dev) :
    (srcOf (signalCh n ch d) n).sticky = ((!(srcOf d n).force && !(srcOf d n).mute) || (srcOf d n).sticky) := by
  by_cases muted : (srcOf d n).mute = true
  · rw [signalCh_muted muted, srcOf_keepPending, muted, Bool.not_true, Bool.and_false, Bool.false_or]
  · have unmuted := Bool.eq_false_iff.mpr muted
    by_cases tested : (srcOf d n).force = true
    · rw [signalCh_held n ch d unmuted tested, srcOf_modSrc, tested, Bool.not_true, Bool.false_and, Bool.false_or]
    · rw [signalCh_sticky unmuted (Bool.eq_false_iff.mpr tested), unmuted, Bool.eq_false_iff.mpr tested]
      rfl

/-- Settles O54, by the cases of a service of the device watchdog. -/
theorem deviceWatchdog : Obligations.DeviceWatchdog := by
  refine ⟨?_, ?_, ?_, ?_, ?_⟩
  · rintro t v s w rfl up value inside
    exact next_cleared (f := fun d => dwdService v (advance t d)) (dwdService_valid (d := advance t s.dev) up value inside)
  · rintro t v s w late early bad end_ rfl up counts hend hlate hbad hearly one
    obtain ⟨c, expires, isLate, isEarly, isBad⟩ := dwdService_expires (d := advance t s.dev) up counts hend hlate hbad hearly one
    obtain ⟨forced, dwd, board, -, registers⟩ := cleared_expired s
      (dwdExpired c (if late then end_ else (advance t s.dev).geyser.now) (advance t s.dev))
    refine ⟨_, dwdExpired c (if late then end_ else (advance t s.dev).geyser.now) (advance t s.dev),
      next_cleared (f := fun d => dwdService v (advance t d)) expires, ?_, rfl, forced, dwd, board, ?_⟩
    · unfold dwdExpired
      rw [isLate, isEarly, isBad]
      rfl
    · exact (congrArg Source.sticky registers).trans (signalCh_sticky_eq 740 0 _)
  · rintro s w x rfl counts rfl
    have expires := dwdExpiry_counts counts
    obtain ⟨forced, dwd, board, geyser, -⟩ := cleared_expired s (dwdExpired .late (dwdEnd s.dev.watch.dwd) (advance (dwdEnd s.dev.watch.dwd) s.dev))
    exact ⟨_, _, next_cleared (f := dwdExpiry) expires, rfl, rfl, forced, dwd, board, congrArg Geyser.now geyser⟩
  · intro t v s kept
    exact next_cleared (f := fun d => dwdService v (advance t d)) (dwdService_kept (d := advance t s.dev) kept)
  · intro s cut
    exact next_onDev (f := pwrCutRelease) (if_pos cut)

end Sys2Proof.Machine
end

section
/-! Monitors and self-test sweeps (17 R435, R436; 20 R501 to R503): O55. -/

namespace Sys2Proof.Machine

open Sys2Proof

/-! ### Monitors -/

section
variable {m : Nat} {d : Dev} {x : Monitor}

/-- A monitor's window closes: a count below the minimum is told, and the next window begins. -/
theorem monitorClose_running (found : kfind? d.watch.monitors m = some x) (runs : x.suspended = false) : monitorClose m d =
    (fun d : Dev => { d with watch := { d.watch with monitors := kput d.watch.monitors m { x with index := x.index + 1, count := 0 } } })
      (if x.count < x.minimum then monitorAttn m 1 x (signal 742 (advance (x.start + (x.index + 1) * us x.windowUs) d))
      else advance (x.start + (x.index + 1) * us x.windowUs) d) := by
  unfold monitorClose
  rw [found]
  exact if_neg (Bool.eq_false_iff.mp runs)

theorem monitorClose_none (off : ∀ x, kfind? d.watch.monitors m = some x → x.suspended = true) : monitorClose m d = d := by
  unfold monitorClose
  split
  · rfl
  next x found => exact if_pos (off x found)

end

/-! ### The test of a source in a sweep -/

/-- A source's registers after its test with no event held. -/
def testedSource (now : Time) (x : Source) : Source :=
  { x with
    force := false, rawSeen := false, testSticky := true, testSevere := true, replayed := false, heldMask := x.mask, held := []
    forcedAt := now }

/-- A property of no listed entry but perhaps the one put. -/
theorem any_kput_false {α : Type} {p : Nat × α → Bool} {m : KMap α} {n : Nat} {v : α} (others : m.any p = false) (own : p (n, v) = false) :
    (kput m n v).any p = false := by
  induction m with
  | nil => simp [kput, own]
  | cons e m ih =>
    obtain ⟨k, w⟩ := e
    rw [List.any_cons, Bool.or_eq_false_iff] at others
    unfold kput
    split
    · rw [List.any_cons, own, others.2]
      rfl
    · split
      · rw [List.any_cons, own, List.any_cons, others.1, others.2]
        rfl
      · rw [List.any_cons, others.1, ih others.2]
        rfl

theorem setSrc_setSrc (n : Nat) (x y : Source) (d : Dev) : setSrc n y (setSrc n x d) = setSrc n y d :=
  congrArg (fun src => modCal (fun c => { c with src := src }) d) (kput_kput d.cal.src n x y)

/-- FORCE set and cleared with no event between leaves the test bits. -/
theorem forceClear_forceSet {n : Nat} {d : Dev} (idle : (d.cal.src.any fun e => e.2.force) = false) (quiet : (srcOf d n).asserted = none) :
    forceClear n (forceSet n d) = setSrc n (testedSource d.geyser.now (srcOf d n)) d := by
  have set_ : forceSet n d = modSrc n (fun x => { x with
      force := true, rawSeen := false, testSticky := true, testSevere := true, replayed := false, heldMask := x.mask, held := []
      forcedAt := d.geyser.now }) d := if_neg (Bool.eq_false_iff.mp idle)
  rw [set_, forceClear_tested (l := []) (srcOf_modSrc n _ d).symm rfl (by rw [if_neg]; rintro ⟨-, asserted⟩; exact asserted quiet)]
  exact setSrc_setSrc n _ _ d

/-- A change of one source's registers, after launches and before them. -/
theorem setSrc_launches {n : Nat} {x : Source} {d e : Dev} (h : onlyLaunches d e) :
    onlyLaunches (setSrc n x d) (setSrc n x e) := by
  obtain ⟨frame, bundles, transfers⟩ := h
  refine ⟨?_, bundles, transfers⟩
  unfold setSrc modCal
  rw [frame]

/-- One source of a slice: tested, and kernels launched. -/
def testStep (d : Dev) (i : Nat) : Dev :=
  let n := (8 * kget 0 d.start.sweepDone 341 + i) % 768
  pump (forceClear n (forceSet n d))

/-- What a slice's sources hold once the first `k` of it are tested: the device but for launches, and no source under test. -/
structure testedUpTo (done k : Nat) (d e : Dev) : Prop where
  launches : onlyLaunches { d with cal := { d.cal with src := e.cal.src } } e
  idle : (e.cal.src.any fun x => x.2.force) = false
  tested : ∀ n, 8 * done ≤ n → n < 8 * done + k → srcOf e n = testedSource d.geyser.now (srcOf d n)
  others : ∀ n, ¬(8 * done ≤ n ∧ n < 8 * done + k) → srcOf e n = srcOf d n

theorem testedUpTo_zero {done : Nat} {d : Dev} (idle : (d.cal.src.any fun x => x.2.force) = false) : testedUpTo done 0 d d :=
  ⟨onlyLaunches_refl d, idle, fun _ low high => absurd high (Nat.not_lt.mpr low), fun _ _ => rfl⟩

theorem testedUpTo_step {done k : Nat} {d e : Dev} (hdone : done = kget 0 d.start.sweepDone 341) (few : done + 1 < 96) (within : k < 8)
    (quiet : (srcOf d (8 * done + k)).asserted = none) (h : testedUpTo done k d e) : testedUpTo done (k + 1) d (testStep e k) := by
  have number : (8 * kget 0 e.start.sweepDone 341 + k) % 768 = 8 * done + k := by
    rw [h.launches.start, ← hdone]
    exact Nat.mod_eq_of_lt (by omega)
  have own : srcOf e (8 * done + k) = srcOf d (8 * done + k) := h.others _ (by omega)
  have now : e.geyser.now = d.geyser.now := congrArg Geyser.now h.launches.geyser
  have stepped : testStep e k = pump (setSrc (8 * done + k) (testedSource d.geyser.now (srcOf d (8 * done + k))) e) := by
    unfold testStep
    rw [number]
    dsimp only
    rw [forceClear_forceSet h.idle (by rw [own]; exact quiet), own, now]
  have after := stepped ▸ pump_launches (setSrc (8 * done + k) (testedSource d.geyser.now (srcOf d (8 * done + k))) e)
  refine ⟨?_, ?_, fun n low high => ?_, fun n outside => ?_⟩
  · rw [after.cal]
    exact onlyLaunches_trans (setSrc_launches h.launches) after
  · rw [after.cal]
    exact any_kput_false h.idle rfl
  · rw [srcOf_launches after]
    by_cases newest : n = 8 * done + k
    · rw [newest, srcOf_setSrc]
    · rw [srcOf_setSrc_ne _ _ newest]
      exact h.tested n low (by omega)
  · rw [srcOf_launches after, srcOf_setSrc_ne _ _ (by omega)]
    exact h.others n (by omega)

/-- The eight sources of a slice. -/
theorem testedUpTo_slice {done k : Nat} {d : Dev} (hdone : done = kget 0 d.start.sweepDone 341) (few : done + 1 < 96) (within : k ≤ 8)
    (idle : (d.cal.src.any fun x => x.2.force) = false) (quiet : ∀ i, i < 8 → (srcOf d (8 * done + i)).asserted = none) :
    testedUpTo done k d ((List.range k).foldl testStep d) := by
  induction k with
  | zero => exact testedUpTo_zero idle
  | succ k ih =>
    rw [List.range_succ, List.foldl_append]
    exact testedUpTo_step hdone few within (quiet k within) (ih (Nat.le_of_succ_le within))

/-! ### Slices -/

section
variable {slice unit : Nat} {passed : Bool} {d : Dev}

/-- A slice of a core is deferred where the core has no room for it. -/
theorem selftestSlice_deferred {n : Nat} (core : sliceCore? slice unit = some n) (full : sliceFits n (sliceUs slice) d = false) :
    selftestSlice slice unit passed d =
      modSched (fun s => { s with deferred := kmod 0 s.deferred (sweepKey slice unit) (· + 1) }) d := by
  refine if_pos ?_
  rw [core]
  show (!sliceFits n (sliceUs slice) d) = true
  rw [full]
  rfl

/-- A sweep has one more slice, or begins anew. -/
def sliceDone (key : Nat) (d : Dev) : Dev :=
  if kget 0 d.start.sweepDone key + 1 ≥ sweepSize key then
    modStart (fun s => { s with
      sweepDone := kset 0 s.sweepDone key 0
      sweepStart := kput s.sweepStart key d.geyser.now }) d
  else modStart (fun s => { s with sweepDone := kset 0 s.sweepDone key (kget 0 d.start.sweepDone key + 1) }) d

/-- A slice off the cores runs at once. -/
theorem selftestSlice_off (off : sliceCore? slice unit = none) : selftestSlice slice unit passed d = sliceDone (sweepKey slice unit)
    (if passed then sliceTraces slice unit passed d else sliceFail slice unit (sliceTraces slice unit passed d)) := by
  unfold selftestSlice
  rw [off]
  rfl

theorem sliceCore?_off (h : 2 ≤ slice) : sliceCore? slice unit = none := by
  obtain ⟨n, rfl⟩ := Nat.exists_eq_add_of_le' h
  rfl

theorem sliceFail_off (h : 2 ≤ slice) : sliceFail slice unit d = chipFailed d := by
  unfold sliceFail
  rw [sliceCore?_off h]

theorem sliceDone_front (key : Nat) (d : Dev) : (sliceDone key d).front = d.front := by
  unfold sliceDone
  split <;> rfl

theorem sliceDone_last {key : Nat} (last : kget 0 d.start.sweepDone key + 1 ≥ sweepSize key) : sliceDone key d =
    modStart (fun s => { s with sweepDone := kset 0 s.sweepDone key 0, sweepStart := kput s.sweepStart key d.geyser.now }) d :=
  if_pos last

theorem sliceDone_more {key : Nat} (more : kget 0 d.start.sweepDone key + 1 < sweepSize key) : sliceDone key d =
    modStart (fun s => { s with sweepDone := kset 0 s.sweepDone key (kget 0 d.start.sweepDone key + 1) }) d :=
  if_neg (Nat.not_le.mpr more)

end

/-- A change of the start's registers, after launches and before them. -/
theorem modStart_launches {f : Start → Start} {d e : Dev} (h : onlyLaunches d e) : onlyLaunches (modStart f d) (modStart f e) := by
  obtain ⟨frame, bundles, transfers⟩ := h
  refine ⟨?_, bundles, transfers⟩
  unfold modStart
  rw [frame]

theorem srcOf_modStart (f : Start → Start) (d : Dev) (k : Nat) : srcOf (modStart f d) k = srcOf d k := rfl

/-- A memory stop's sweep is one slice. -/
theorem sweepSize_memory (unit : Nat) : sweepSize (320 + unit % 21) = 1 := by
  have below := Nat.mod_lt unit (by decide : 0 < 21)
  exact (if_neg (by omega)).trans (if_neg (by omega))

/-- The end of a sweep's interval, at `e`. -/
theorem sweepExpiry_eq {key : Nat} {d : Dev} {e : Time} (he : e = kget d.start.serviceAt d.start.sweepStart key + ms (sweepMs key)) :
    sweepExpiry key d = pump (signal 754 (modStart (fun s => { s with
      sweepDone := kset 0 s.sweepDone key 0, sweepStart := kput s.sweepStart key e }) (advance e d))) := by
  subst he
  rfl

/-- Settles O55, by the close of a monitor's window and the slices of each kind. -/
theorem monitorsAndSweeps : Obligations.MonitorsAndSweeps := by
  refine ⟨?_, ?_, ?_, ?_, ?_, ?_, ?_, ?_⟩
  · intro m s x found runs enough
    have closed := (monitorClose_running found runs).trans
      (congrArg (fun d : Dev => { d with watch := { d.watch with monitors := kput d.watch.monitors m.val { x with index := x.index + 1, count := 0 } } })
        (if_neg (Nat.not_lt.mpr enough)))
    exact ⟨_, next_onDev closed, rfl, kfind?_kput_self _ _ _, fun k other => kfind?_kput_ne _ _ other⟩
  · intro m s off
    exact next_onDev (monitorClose_none off)
  · rintro m s x e found runs few rfl
    have closed := (monitorClose_running found runs).trans
      (congrArg (fun d : Dev => { d with watch := { d.watch with monitors := kput d.watch.monitors m.val { x with index := x.index + 1, count := 0 } } })
        (if_pos few))
    refine ⟨_, _, next_onDev closed, rfl, rfl, rfl, rfl, kfind?_kput_self _ _ _, fun k other => (kfind?_kput_ne _ _ other).trans ?_⟩
    exact congrArg (fun l => kfind? l k) (signalCh_reactions 742 0 _).watch_monitors
  · rintro t unit s key rfl
    obtain ⟨u, next, launches, mem, pending⟩ := exists_onDevZ (fun d => selftestSlice 2 unit true (advance t d)) s
    rw [selftestSlice_off rfl, if_pos rfl, show sliceTraces 2 unit true (advance t s.dev) = advance t s.dev from rfl,
      show sweepKey 2 unit = 320 + unit % 21 from rfl,
      sliceDone_last (by rw [sweepSize_memory]; exact Nat.le_add_left 1 _)] at launches
    refine ⟨u, next, congrArg Start.sweepDone launches.start, ?_, ?_, mem, pending⟩
    · rw [launches.start]
      exact kfind?_kput_self _ _ _
    · rw [launches.start]
      exact launches
  · rintro t unit s done hdone few idle quiet
    have slice := testedUpTo_slice (d := advance t s.dev) (k := 8) hdone few (Nat.le_refl 8) idle quiet
    obtain ⟨u, next, launches, mem, pending⟩ := exists_onDevZ (fun d => selftestSlice 3 unit true (advance t d)) s
    have number : kget 0 ((List.range 8).foldl testStep (advance t s.dev)).start.sweepDone 341 = done := by
      rw [slice.launches.start]
      exact hdone.symm
    rw [selftestSlice_off rfl, if_pos rfl, show sliceTraces 3 unit true (advance t s.dev) = (List.range 8).foldl testStep (advance t s.dev) from rfl,
      show sweepKey 3 unit = 341 from rfl, sliceDone_more (by rw [number]; exact few), number] at launches
    generalize (List.range 8).foldl testStep (advance t s.dev) = e at slice number launches
    have registers : ∀ k, srcOf u.dev k = srcOf e k := fun k =>
      (srcOf_launches launches k).trans (srcOf_modStart _ _ k)
    have before : ∀ k, srcOf (advance t s.dev) k = srcOf s.dev k := fun _ => rfl
    refine ⟨u, next, ?_, fun k inside => (registers k).trans ((slice.tested k inside.1 inside.2).trans (congrArg (testedSource (arrival t s)) (before k))),
      fun k outside => (registers k).trans (slice.others k outside), mem, pending⟩
    rw [launches.cal]
    exact onlyLaunches_trans (modStart_launches (f := fun s => { s with sweepDone := kset 0 s.sweepDone 341 (done + 1) }) slice.launches)
      launches
  · intro t slice unit s off
    obtain ⟨u, next, launches, mem, pending⟩ := exists_onDevZ (fun d => selftestSlice slice unit false (advance t d)) s
    rw [selftestSlice_off (sliceCore?_off off), if_neg Bool.false_ne_true, sliceFail_off off] at launches
    refine ⟨u, next, ?_, pending⟩
    rw [launches.front, sliceDone_front]
    exact chipFailed_state _
  · intro t slice unit core key passed s hcore hkey full
    have either : slice.val = 0 ∨ slice.val = 1 := by omega
    have unitCore : sliceCore? slice.val unit = some core := by
      rw [hcore]
      rcases either with e | e <;> rw [e] <;> rfl
    have length : (if slice.val = 0 then 200 else 60) = sliceUs slice.val := by
      rcases either with e | e <;> rw [e] <;> rfl
    have sweep : sweepKey slice.val unit = key := by
      rw [hkey]
      rcases either with e | e <;> rw [e] <;> rfl
    rw [length] at full
    have kept := selftestSlice_deferred (passed := passed) unitCore full
    rw [sweep] at kept
    exact next_cleared (f := fun d => selftestSlice slice.val unit passed (advance t d)) kept
  · intro key s e he
    obtain ⟨u, next, launches, mem, pending⟩ := exists_onDevZ_pump (s := s) (sweepExpiry_eq he)
    exact ⟨u, _, next, rfl, launches, mem, pending⟩

end Sys2Proof.Machine
end

section
/-! Ports, links and messages (05 R138; 18 R450 to R457; 22 R523 to R529): O36. -/

namespace Sys2Proof.Machine

open Sys2Proof

/-! ### Frames at an Ethernet port -/

/-- What a frame leaves of its port. -/
def portAfterFrame (size drained : Nat) (ok : Bool) (x : Port) : Port :=
  if x.link = false then x
  else if x.role = .out then { x with outReceived := x.outReceived.add 1 }
  else if x.role ≠ .tap ∧ x.role ≠ .fabric then { x with unsupported := x.unsupported.add 1 }
  else if 262144 < x.rxBytes - drained + size then { x with rxBytes := x.rxBytes - drained, overruns := x.overruns.add 1 }
  else if ok = false then { x with rxBytes := x.rxBytes - drained + size, headerFail := x.headerFail.add 1 }
  else { x with rxBytes := x.rxBytes - drained + size, unsupported := x.unsupported.add 1 }

/-- A port with one of its fields changed, or none. -/
def onlyPort (k : Nat) (y : Port) (d e : Dev) : Prop :=
  e = { d with ports := e.ports } ∧ portOf e k = y ∧ ∀ j, j ≠ k → portOf e j = portOf d j

theorem onlyPort_modPort {k : Nat} {f : Port → Port} {y : Port} {d e : Dev} (he : e = modPort k f d) (hy : y = f (portOf d k)) :
    onlyPort k y d e := by
  subst he hy
  exact ⟨rfl, portOf_modPort d k f, fun _ other => portOf_modPort_ne d f other⟩

theorem modPort_modPort (k : Nat) (f g : Port → Port) (d : Dev) : modPort k g (modPort k f d) = modPort k (fun p => g (f p)) d := by
  unfold modPort portOf
  simp only [kget, kfind?_kput_self, Option.getD_some, kput_kput]

theorem ethTake_bad (k : Nat) (d : Dev) : ethTake k false d = modPort k (fun p => { p with headerFail := p.headerFail.add 1 }) d := rfl
theorem ethTake_whole (k : Nat) (d : Dev) : ethTake k true d = modPort k (fun p => { p with unsupported := p.unsupported.add 1 }) d := rfl

/-- What a port that takes frames makes of one. -/
theorem portBuffers_onlyPort {k size drained : Nat} {ok : Bool} {d : Dev} {x : Port} (hx : x = portOf d k) (link : x.link ≠ false)
    (role : x.role = .tap ∨ x.role = .fabric) :
    onlyPort k (portAfterFrame size drained ok x) d (portBuffers k size drained (ethTake k ok) d) := by
  have carried : x.role ≠ .out := by obtain h | h := role <;> rw [h] <;> decide
  have taken : ¬(x.role ≠ .tap ∧ x.role ≠ .fabric) := fun h => role.elim h.1 h.2
  unfold portBuffers portAfterFrame
  rw [if_neg link, if_neg carried, if_neg taken]
  subst hx
  dsimp only
  split
  · exact onlyPort_modPort rfl rfl
  · cases ok
    · rw [ethTake_bad]
      exact onlyPort_modPort (modPort_modPort k _ _ d) rfl
    · rw [ethTake_whole]
      exact onlyPort_modPort (modPort_modPort k _ _ d) rfl

theorem ethFrame_onlyPort {k size drained : Nat} {ok : Bool} {d : Dev} {x : Port} (hx : x = portOf d k) :
    onlyPort k (portAfterFrame size drained ok x) d (ethFrame k size ok drained d) := by
  by_cases down : x.link = false
  · have lost : ethFrame k size ok drained d = d := if_pos (by rw [← hx, down]; rfl)
    rw [lost, show portAfterFrame size drained ok x = x from if_pos down]
    exact ⟨rfl, hx.symm, fun _ _ => rfl⟩
  · have up : ¬(!(portOf d k).link) = true := by rw [← hx, eq_true_of_ne_false down]; decide
    cases role : x.role
    case out =>
      refine onlyPort_modPort ((if_neg up).trans ((if_neg ?_).trans (if_pos ?_))) (((if_neg down).trans (if_pos role)).trans (by rw [hx]))
      · rw [← hx, role]; decide
      · rw [← hx, role]
    case none_ =>
      refine onlyPort_modPort ((if_neg up).trans ((if_neg ?_).trans (if_neg ?_)))
        (((if_neg down).trans ((if_neg ?_).trans (if_pos ?_))).trans (by rw [hx]))
      · rw [← hx, role]; decide
      · rw [← hx, role]; decide
      · rw [role]; decide
      · rw [role]; decide
    case tap =>
      have taken : ethFrame k size ok drained d = portBuffers k size drained (ethTake k ok) d :=
        (if_neg up).trans (if_pos (by rw [← hx, role]; decide))
      exact taken ▸ portBuffers_onlyPort hx down (.inl role)
    case fabric =>
      have taken : ethFrame k size ok drained d = portBuffers k size drained (ethTake k ok) d :=
        (if_neg up).trans (if_pos (by rw [← hx, role]; decide))
      exact taken ▸ portBuffers_onlyPort hx down (.inr role)

/-! ### Links and segments -/

/-- A port whose link has gone down, with the attention that tells of it. -/
def linkLost (k : Nat) (d : Dev) : Dev :=
  modPort k (fun p => { p with link := false, rxBytes := 0, linkLosses := p.linkLosses.add 1, out := [], outWait := [] }) (raiseAttn 1 14 [] d)

theorem linkDown_down {k : Nat} {d : Dev} (down : (portOf d k).link = false) : linkDown k d = d := by
  refine if_pos ?_
  rw [down]
  rfl

theorem linkDown_up {k : Nat} {d : Dev} (up : (portOf d k).link = true) : linkDown k d =
    if (portOf d k).role = .out ∧ (portOf d k).out.length + (portOf d k).outWait.length > 0
    then refuseOut k ((portOf d k).out.length + (portOf d k).outWait.length) (linkLost k d) else linkLost k d := by
  refine if_neg ?_
  rw [up]
  exact Bool.false_ne_true

theorem segmentTransmit_none {k : Nat} {d : Dev} (held : (portOf d k).out = [] ∨ d.gnt.forced = true ∨ (portOf d k).link = false ∨
    (portOf d k).role ≠ .out) : segmentTransmit k d = d := by
  unfold segmentTransmit
  dsimp only
  split
  · rfl
  next m rest out =>
    refine if_pos ?_
    rw [Bool.or_eq_true, Bool.or_eq_true, Bool.not_eq_true', bne_iff_ne]
    obtain h | h | h | h := held
    · rw [h] at out
      exact absurd out (List.cons_ne_nil m rest).symm
    · exact .inl (.inl h)
    · exact .inl (.inr h)
    · exact .inr h

theorem segmentTransmit_next {k : Nat} {d : Dev} {m : OutMsg} {rest : List OutMsg} (out : (portOf d k).out = m :: rest)
    (free : d.gnt.forced = false) (link : (portOf d k).link = true) (role : (portOf d k).role = .out) :
    segmentTransmit k d = modPort k (fun p => { p with
      lastSegment := segmentFrame k m m.nextSeg
      out := if segCount m.payload.length ≤ m.nextSeg + 1 then rest else { m with nextSeg := m.nextSeg + 1 } :: rest }) d := by
  unfold segmentTransmit
  dsimp only
  rw [out]
  dsimp only
  rw [free, link, role, if_neg (by decide)]
  simp only [ge_iff_le, decide_eq_true_eq]

theorem length_segmentHeader (m : OutMsg) (index count len : Nat) : (segmentHeader m index count len).length = 60 := by
  simp [segmentHeader, timeBytes, length_leBytes]

/-! ### PCIe -/

theorem mem_slotPartitions (d : Dev) (p : Nat) : p ∈ slotPartitions d ↔ ∃ e ∈ d.contexts, e.2.partition = p := by
  unfold slotPartitions
  rw [mem_foldl_distinct, or_iff_right List.not_mem_nil, List.mem_map]

/-- A new rate or width withdraws the admission of each partition that has a context. -/
theorem mem_withdrawn (d : Dev) (p : Nat) :
    p ∈ d.sched.withdrawn ++ (slotPartitions d).filter (fun p => !d.sched.withdrawn.contains p) ↔
      p ∈ d.sched.withdrawn ∨ ∃ e ∈ d.contexts, e.2.partition = p := by
  rw [List.mem_append, List.mem_filter, mem_slotPartitions, Bool.not_eq_true', List.contains_eq_mem, decide_eq_false_iff_not]
  constructor
  · rintro (old | ⟨new, -⟩)
    · exact .inl old
    · exact .inr new
  · rintro (old | new)
    · exact .inl old
    · by_cases old : p ∈ d.sched.withdrawn
      · exact .inl old
      · exact .inr ⟨new, old⟩

theorem drainAllRecords_verdicts (d : Dev) : onlyVerdicts d (drainAllRecords d) :=
  foldl_verdicts _ (fun d _ => onlyVerdicts_trans (drainRecords_verdicts _ _ d) (closeIfDrained_verdicts _ _)) _ d

theorem retrain_same {gen width : Nat} {d : Dev} (same : d.board.linkUp = false ∨ gen = d.board.gen ∧ width = d.board.width) :
    retrain gen width d = modBoard (fun b => { b with gen := gen, width := width }) d := by
  refine if_pos ?_
  rw [Bool.or_eq_true, Bool.not_eq_true', Bool.and_eq_true, beq_iff_eq, beq_iff_eq]
  exact same

theorem retrain_new {gen width : Nat} {d : Dev} (up : d.board.linkUp = true) (new : gen ≠ d.board.gen ∨ width ≠ d.board.width) :
    retrain gen width d = modSched (fun s => { s with
      withdrawn := s.withdrawn ++ (slotPartitions d).filter fun p => !s.withdrawn.contains p
      readmit := s.readmit.or (some (4, 0xFF)) }) (raiseAttn 1 14 [] (modBoard (fun b => { b with gen := gen, width := width }) d)) := by
  refine if_neg ?_
  rw [Bool.or_eq_true, Bool.not_eq_true', Bool.and_eq_true, beq_iff_eq, beq_iff_eq]
  rintro (down | ⟨hgen, hwidth⟩)
  · exact Bool.false_ne_true (down.symm.trans up)
  · exact new.elim (fun h => h hgen) (fun h => h hwidth)

/-- Settles O36, by the port that each frame, link or segment changes. -/
theorem portsAndLinks : Obligations.PortsAndLinks := by
  refine ⟨?_, ?_, fun t k s => ⟨_, rfl, rfl⟩, ?_, ?_, fun t s => ⟨_, rfl, rfl⟩, ?_, ?_, fun t b s => ⟨_, rfl, rfl⟩⟩
  · intro t k size drained ok s x hx
    obtain ⟨frame, own, others⟩ := ethFrame_onlyPort (k := k.val) (size := size) (drained := drained) (ok := ok) (d := advance t s.dev) hx
    exact ⟨_, rfl, congrArg (fun d => { s with dev := d }) frame, own, others⟩
  · rintro t k s x e rfl rfl
    refine ⟨fun down => ?_, fun up => ?_, ?_⟩
    · exact next_onDev (f := fun d => linkDown k.val (advance t d)) (linkDown_down (d := advance t s.dev) down)
    · exact next_onDev (f := fun d => linkDown k.val (advance t d)) (linkDown_up (d := advance t s.dev) up)
    · exact Option.isSome_iff_exists.mpr ⟨_, kfind?_kput_self _ _ _⟩
  · rintro t k s x rfl
    refine ⟨fun held => ?_, fun m rest out free link role => ?_⟩
    · exact ⟨_, next_onDev (f := fun d => segmentTransmit k.val (advance t d)) (segmentTransmit_none (d := advance t s.dev) held), rfl⟩
    · obtain ⟨frame, own, others⟩ := onlyPort_modPort (d := advance t s.dev) (segmentTransmit_next (d := advance t s.dev) out free link role) rfl
      exact ⟨_, rfl, congrArg (fun d => { s with dev := d }) frame, own, others⟩
  · intro m i
    refine ⟨rfl, ?_⟩
    show (segmentHeader m i _ _ ++ leBytes 4 _ ++ (m.payload.drop (8192 * i)).take 8192).length = _
    rw [List.length_append, List.length_append, length_segmentHeader, length_leBytes, List.length_take, List.length_drop]
  · intro t s
    refine ⟨_, rfl, ?_, rfl, rfl, rfl⟩
    exact congrArg Dev.board (drainAllRecords_verdicts (modBoard (fun b => { b with linkUp := true }) (advance t s.dev)))
  · intro t gen width s
    by_cases same : s.dev.board.linkUp = false ∨ gen = s.dev.board.gen ∧ width = s.dev.board.width
    · refine ⟨_, next_onDev (f := fun d => retrain gen width (advance t d)) (retrain_same (d := advance t s.dev) same), rfl, rfl, rfl,
        fun _ => rfl, fun up new => ?_⟩
      obtain down | ⟨hgen, hwidth⟩ := same
      · exact absurd (down.symm.trans up) Bool.false_ne_true
      · exact absurd new (not_or.mpr ⟨not_not_intro hgen, not_not_intro hwidth⟩)
    · obtain ⟨up, new⟩ := not_or.mp same
      have new' : gen ≠ s.dev.board.gen ∨ width ≠ s.dev.board.width := Classical.not_and_iff_not_or_not.mp new
      refine ⟨_, next_onDev (f := fun d => retrain gen width (advance t d)) (retrain_new (d := advance t s.dev)
        (eq_true_of_ne_false up) new'), rfl, rfl, rfl, fun h => absurd h same, fun _ _ => ⟨rfl, ?_, mem_withdrawn (advance t s.dev)⟩⟩
      exact Option.isSome_iff_exists.mpr ⟨_, kfind?_kput_self _ _ _⟩

end Sys2Proof.Machine
end

section
/-! Camera packets, frames and notices (04 R102 to R114): what a packet makes of its port and its stream, and O35. -/

namespace Sys2Proof.Machine

open Sys2Proof

/-! ### A stream and its changes -/

theorem streamOf_setStream_self (n : Nat) (y : Stream) (d : Dev) : streamOf? (setStream n y d) n = some y :=
  kfind?_kput_self ..

theorem setStream_setStream (n : Nat) (y z : Stream) (d : Dev) : setStream n z (setStream n y d) = setStream n z d := by
  unfold setStream
  rw [kput_kput]

section
variable {n : Nat} {y : Stream} {d : Dev}

theorem modStream_found (f : Stream → Stream) (h : streamOf? d n = some y) : modStream n f d = setStream n (f y) d := by
  unfold modStream
  rw [h]

theorem modStream_setStream (f : Stream → Stream) : modStream n f (setStream n y d) = setStream n (f y) d :=
  (modStream_found f (streamOf_setStream_self n y d)).trans (setStream_setStream n y (f y) d)

theorem failFrame_found {rtp : W32} {cap : Time} {k : FailCause} (h : streamOf? d n = some y) :
    failFrame n rtp cap k d = progressStream n (noticeFrame n 1 rtp cap (setStream n
      (countFail k { y with frames := y.frames.filter fun f => !(f.rtp == rtp && f.status == .assembling) }) d)) :=
  congrArg (fun e => progressStream n (noticeFrame n 1 rtp cap e)) (modStream_found _ h)

end

/-! ### A camera packet at its port -/

section
variable {port : Nat} {p : TapPacket} {d : Dev} {n : Nat} {y : Stream}

theorem tapReceive_down (link : (portOf d port).link = false) : tapReceive port p d = d :=
  if_pos (by rw [link]; rfl)

theorem tapReceive_out (link : (portOf d port).link = true) (role : (portOf d port).role = .out) :
    tapReceive port p d = modPort port (fun p => { p with outReceived := p.outReceived.add 1 }) d := by
  unfold tapReceive portHears
  dsimp only
  rw [link, role]
  rfl

theorem tapReceive_uncarried (link : (portOf d port).link = true)
    (role : (portOf d port).role = .none_ ∨ (portOf d port).role = .fabric) :
    tapReceive port p d = modPort port (fun p => { p with unsupported := p.unsupported.add 1 }) d := by
  unfold tapReceive portHears
  dsimp only
  rw [link]
  obtain role | role := role <;> rw [role] <;> rfl

theorem tapReceive_tap (link : (portOf d port).link = true) (role : (portOf d port).role = .tap) :
    tapReceive port p d = if !tapUp d then d else portBuffers port p.size p.drained (tapTake port p) d :=
  portHears_carried link (by rw [role]; rfl)

theorem tapReceive_stopped (link : (portOf d port).link = true) (role : (portOf d port).role = .tap)
    (stopped : d.start.resumed = false) : tapReceive port p d = d :=
  (tapReceive_tap link role).trans (if_pos (by unfold tapUp; rw [stopped]; rfl))

/-- A TAP port of a running tap buffers the packet, or counts an overrun. -/
theorem tapReceive_running (link : (portOf d port).link = true) (role : (portOf d port).role = .tap)
    (running : d.start.resumed = true) : tapReceive port p d = portBuffers port p.size p.drained (tapTake port p) d :=
  (tapReceive_tap link role).trans (if_neg (by unfold tapUp; rw [running]; decide))

theorem portBuffers_full {size drained : Nat} {f : Dev → Dev} (full : 262144 < (portOf d port).rxBytes - drained + size) :
    portBuffers port size drained f d =
      modPort port (fun y => { y with rxBytes := (portOf d port).rxBytes - drained, overruns := y.overruns.add 1 }) d :=
  if_pos full

theorem portBuffers_room {size drained : Nat} {f : Dev → Dev} (room : (portOf d port).rxBytes - drained + size ≤ 262144) :
    portBuffers port size drained f d =
      f (modPort port (fun y => { y with rxBytes := (portOf d port).rxBytes - drained + size }) d) :=
  if_neg (Nat.not_lt.mpr room)

theorem tapTake_bad (bad : p.fcsOk = false ∨ p.ipOk = false) :
    tapTake port p d = modPort port (fun p => { p with headerFail := p.headerFail.add 1 }) d :=
  if_pos (by obtain h | h := bad <;> simp [h])

/-- A packet whose frame check and header hold goes to the stream that it names. -/
theorem tapTake_whole (fcs : p.fcsOk = true) (ip : p.ipOk = true) : tapTake port p d =
    match exactStream? d port p with
    | some (n, s) =>
      if !p.udpOk then modStream n (fun s => { s with checksum := s.checksum.add 1 }) d
      else if formOk s p then validPacket n p d
      else modStream n (fun s => { s with unmatched := s.unmatched.add 1 }) d
    | none =>
      match nearStream? d port p with
      | some (n, _) =>
        if p.udpOk then modStream n (fun s => { s with unmatched := s.unmatched.add 1 }) d else countUnsupported port d
      | none => countUnsupported port d :=
  if_neg (by rw [fcs, ip]; decide)

section
variable (fcs : p.fcsOk = true) (ip : p.ipOk = true)
include fcs ip

theorem tapTake_unclaimed (exact_ : exactStream? d port p = none) (near : nearStream? d port p = none ∨ p.udpOk = false) :
    tapTake port p d = modPort port (fun p => { p with unsupported := p.unsupported.add 1 }) d := by
  rw [tapTake_whole fcs ip, exact_]
  obtain none_ | bad := near
  · rw [none_]
    rfl
  · cases nearStream? d port p with
    | none => rfl
    | some e => exact if_neg (by rw [bad]; exact Bool.false_ne_true)

theorem tapTake_near (exact_ : exactStream? d port p = none) (near : nearStream? d port p = some (n, y)) (udp : p.udpOk = true) :
    tapTake port p d = modStream n (fun s => { s with unmatched := s.unmatched.add 1 }) d := by
  rw [tapTake_whole fcs ip, exact_, near]
  exact if_pos udp

theorem tapTake_checksum (found : exactStream? d port p = some (n, y)) (udp : p.udpOk = false) :
    tapTake port p d = modStream n (fun s => { s with checksum := s.checksum.add 1 }) d := by
  rw [tapTake_whole fcs ip, found]
  exact if_pos (by rw [udp]; rfl)

theorem tapTake_unmatched (found : exactStream? d port p = some (n, y)) (udp : p.udpOk = true) (form : formOk y p = false) :
    tapTake port p d = modStream n (fun s => { s with unmatched := s.unmatched.add 1 }) d := by
  rw [tapTake_whole fcs ip, found]
  exact (if_neg (by rw [udp]; decide)).trans (if_neg (by rw [form]; exact Bool.false_ne_true))

theorem tapTake_valid (found : exactStream? d port p = some (n, y)) (udp : p.udpOk = true) (form : formOk y p = true) :
    tapTake port p d = validPacket n p d := by
  rw [tapTake_whole fcs ip, found]
  exact (if_neg (by rw [udp]; decide)).trans (if_pos form)

end
end

/-! ### A valid packet and its frame -/

section
variable {n : Nat} {p : TapPacket} {d e : Dev} {y : Stream}

/-- The device whose frames that are due have failed or left, with the packet noted in its stream. -/
def notePacket (n : Nat) (p : TapPacket) (d : Dev) : Dev :=
  modStream n (fun s => { noteSeq p.seq s with lastValid := (expireFrames n d).geyser.now, silent := false }) (expireFrames n d)

theorem validPacket_found (he : e = notePacket n p d) (found : streamOf? e n = some y) : validPacket n p d =
    match y.frames.find? fun f => f.rtp == p.rtp && f.status == .assembling with
    | some f => framePacket n y f p e
    | none =>
      match y.newest with
      | some k => if newer p.rtp k then openFrame n p e else modStream n (fun s => { s with latePackets := s.latePackets.add 1 }) e
      | none => openFrame n p e := by
  unfold validPacket
  unfold notePacket at he
  dsimp only
  rw [← he, found] <;> rfl

theorem validPacket_opens (he : e = notePacket n p d) (found : streamOf? e n = some y)
    (fresh : y.frames.find? (fun f => f.rtp == p.rtp && f.status == .assembling) = none)
    (new : y.newest = none ∨ ∃ k, y.newest = some k ∧ newer p.rtp k = true) : validPacket n p d = openFrame n p e := by
  rw [validPacket_found he found, fresh]
  obtain first | ⟨k, last, later⟩ := new
  · rw [first]
  · rw [last]
    exact if_pos later

/-- A new frame while at most one other is in assembly. -/
theorem openFrame_calm (found : streamOf? e n = some y) (few : (y.frames.filter (·.status == .assembling)).length ≤ 1) :
    openFrame n p e =
      if y.frames.length ≥ y.slots then
        progressStream n (noticeFrame n 1 p.rtp (ns (nsOf e.geyser.now))
          (setStream n { y with newest := some p.rtp, ringFull := y.ringFull.add 1 } e))
      else framePacket n { y with newest := some p.rtp }
        { rtp := p.rtp, capture := ns (nsOf e.geyser.now), slot := freeSlot y } p
        (setStream n { y with
          newest := some p.rtp
          frames := y.frames ++ [{ rtp := p.rtp, capture := ns (nsOf e.geyser.now), slot := freeSlot y }] } e) := by
  have noted : modStream n (fun s => { s with newest := some p.rtp }) e = setStream n { y with newest := some p.rtp } e :=
    modStream_found _ found
  unfold openFrame
  dsimp only
  rw [noted, streamOf_setStream_self]
  dsimp only
  generalize y.frames.filter (·.status == .assembling) = asm at few ⊢
  obtain _ | ⟨f, _ | ⟨g, rest⟩⟩ := asm
  case cons.cons => exact absurd few (by simp)
  all_goals
    dsimp only
    rw [streamOf_setStream_self]
    dsimp only
    rw [modStream_setStream, setStream_setStream]
    rfl

section
variable {s : Stream} {f : Frame}

theorem framePacket_duplicate (dup : (f.written.any fun e => e.2 == p.seq) = true) :
    framePacket n s f p d = modStream n (fun s => { s with dupPackets := s.dupPackets.add 1 }) d := if_pos dup

variable (new : (f.written.any fun e => e.2 == p.seq) = false)
include new

theorem framePacket_geometry (outside : (p.segments.all (segmentOk s)) = false) :
    framePacket n s f p d = failFrame n f.rtp f.capture .geometry d :=
  (if_neg (by rw [new]; exact Bool.false_ne_true)).trans (if_pos (by rw [outside]; rfl))

variable (within : (p.segments.all (segmentOk s)) = true)
include within

theorem framePacket_overlap (twice : ((packetGroups s p).any fun g => (kfind? f.written g.1).isSome) = true) :
    framePacket n s f p d = failFrame n f.rtp f.capture .overlap d :=
  (if_neg (by rw [new]; exact Bool.false_ne_true)).trans ((if_neg (by rw [within]; decide)).trans (if_pos twice))

variable {g : Frame} (once : ((packetGroups s p).any fun g => (kfind? f.written g.1).isSome) = false) (hg : g = writeGroups s p f)
include once hg

theorem framePacket_completes (marker : g.marker = true) (all_ : g.written.length = groupCount s) : framePacket n s f p d =
    frameStore n s { g with status := .complete, doneAt := d.geyser.now } (modStream n (fun s => { s with
      frames := s.frames.map fun x => if x.rtp == f.rtp && x.status == .assembling
        then { g with status := .complete, doneAt := d.geyser.now } else x
      complete := s.complete.add 1 }) d) := by
  have whole : (g.marker && g.written.length == groupCount s) = true := by rw [marker, all_]; simp
  unfold framePacket
  rw [new, within, once, ← hg]
  dsimp only
  rw [whole]
  rfl

theorem framePacket_goes_on (more : g.marker = false ∨ g.written.length ≠ groupCount s) : framePacket n s f p d =
    modStream n (fun s => { s with
      frames := s.frames.map fun x => if x.rtp == f.rtp && x.status == .assembling then g else x }) d := by
  have part_ : (g.marker && g.written.length == groupCount s) = false := by
    obtain open_ | short := more
    · rw [open_]
      rfl
    · simp [short]
  unfold framePacket
  rw [new, within, once, ← hg]
  dsimp only
  rw [part_]
  rfl

end
end

/-! ### Digests, limits and holds of a frame -/

section
variable {n : Nat} {rtp : W32} {d : Dev} {y : Stream} {f : Frame}

theorem digestComplete_found (found : streamOf? d n = some y)
    (frame : y.frames.find? (fun f => f.rtp == rtp && f.status == .complete && f.secure.isNone && f.fault.isNone) = some f) :
    digestComplete n rtp d = progressStream n (noticeFrame n 0 rtp f.capture
      (setStream n { y with frames := y.frames.map fun g => if g.rtp == rtp && g.status == .complete
        then { g with
          secure := if y.grades % 2 = 1 then some (secureRoot (frameTiles f)) else none
          fault := if y.grades / 2 % 2 = 1 then some (listDigest ((frameTiles f).map crc64)) else none } else g } d)) := by
  unfold digestComplete
  rw [found]
  dsimp only
  rw [frame]

theorem assemblyTimeout_found (found : streamOf? d n = some y)
    (frame : y.frames.find? (fun f => f.rtp == rtp && f.status == .assembling) = some f) :
    assemblyTimeout n rtp d = progressStream n (noticeFrame n 1 rtp f.capture
      (setStream n { y with
        timeout := y.timeout.add 1
        frames := y.frames.filter fun g => !(g.rtp == rtp && g.status == .assembling) } (advance (f.capture + us y.limitUs) d))) := by
  unfold assemblyTimeout
  rw [found]
  dsimp only
  rw [frame]
  exact failFrame_found (d := advance (f.capture + us y.limitUs) d) found

theorem slotRelease_found (found : streamOf? d n = some y)
    (frame : y.frames.find? (fun f => f.rtp == rtp && f.status == .complete) = some f) :
    slotRelease n rtp d = setStream n { y with frames := y.frames.filter fun g => !(g.rtp == rtp && g.status == .complete) }
      (advance (f.capture + us (holdUs d n y)) d) := by
  unfold slotRelease
  rw [found]
  dsimp only
  rw [frame]
  exact modStream_found (d := advance (f.capture + us (holdUs d n y)) d) _ found

end

/-! ### Silence and unclaimed frames -/

section
variable {n : Nat} {d : Dev} {y : Stream}

theorem streamSilence_quiet (found : streamOf? d n = some y) (other : y.silenceUs = 0 ∨ y.silent = true ∨ serving d = false) :
    streamSilence n d = d := by
  unfold streamSilence
  rw [found]
  exact if_pos (other.imp_right (Or.imp_right fun h => by rw [h]; rfl))

theorem streamSilence_told (found : streamOf? d n = some y) (limit : y.silenceUs ≠ 0) (heard : y.silent = false)
    (serves : serving d = true) : ∃ detail, streamSilence n d = raiseAttn 1 3 detail
      (setStream n { y with silent := true, silences := y.silences.add 1 } (advance (y.lastValid + us y.silenceUs) d)) := by
  refine ⟨counterDetail 10 n 0 0x30 (y.silences.add 1).n, ?_⟩
  unfold streamSilence
  rw [found]
  refine if_neg ?_
  rw [heard, serves]
  rintro (h | h | h)
  · exact limit h
  · exact Bool.false_ne_true h
  · exact Bool.false_ne_true h

end

section
variable {c : W32} {cap : Time} {d : Dev} {x : Context} {t : Template} {y : Stream} {f : Frame}

/-- A stream and its context once the frame of a capture time counts as unclaimed. -/
def noteUnclaimed (c : W32) (cap : Time) (n run : Nat) (y : Stream) (d : Dev) : Dev :=
  modCtx c (fun x => { x with unclaimedRun := run, claims := x.claims.filter fun q => decide (cap < q) })
    (setStream n { y with
      unclaimed := y.unclaimed.add 1
      frames := y.frames.map fun g => if g.capture == cap then { g with judged := c :: g.judged } else g } d)

section
variable (hx : x = ctxOf d c) (template : templateOf? d x.planId x.planVersion x.template = some t)
  (found : streamOf? d (streamNo x 0) = some y)
  (frame : y.frames.find? (fun f => f.capture == cap && f.status == .complete) = some f)
include hx template found frame

theorem unclaimedFrame_kept (other : c ∈ f.claimedBy ∨ serving d = false ∨ x.state = .draining) : unclaimedFrame c cap d = d := by
  subst hx
  unfold unclaimedFrame
  dsimp only
  rw [template, found]
  dsimp only
  rw [frame]
  refine if_pos ?_
  obtain claimed | rest | draining := other
  · simp [claimed]
  · simp [rest]
  · simp [draining]

theorem unclaimedFrame_counted {run : Nat} (unclaimed : c ∉ f.claimedBy) (unjudged : c ∉ f.judged) (serves : serving d = true)
    (state : x.state = .active ∨ x.state = .suspended)
    (hrun : run = if (x.claims.any fun q => decide (q < cap)) then 1 else x.unclaimedRun + 1) :
    ∃ detail e, e = noteUnclaimed c cap (streamNo x 0) run y (advance (cap + us t.deadlineUs) d) ∧
      unclaimedFrame c cap d = if run = (ctxOf d c).unclaimedLimit then raiseAttn 1 3 detail e else e := by
  refine ⟨counterDetail 10 (streamNo x 0) 0 0x2C (y.unclaimed.add 1).n, _, rfl, ?_⟩
  subst hx hrun
  unfold unclaimedFrame
  dsimp only
  rw [template, found]
  dsimp only
  rw [frame]
  refine if_neg ?_
  obtain state | state := state <;> simp [state, unclaimed, unjudged, serves]

end
end

/-- Settles O35: each way of a packet by the equation of its case, and the timed events of a frame and of a stream. -/
theorem tapFrames : Obligations.TapFrames := by
  refine ⟨?_, ?_, ?_, ?_, ?_, ?_, ?_, ?_⟩
  · intro t k p s d x hd hx
    subst hd hx
    have answers {e : Dev} (h : tapReceive k.val p (advance t s.dev) = e) :
        ∃ u, exec (.tapPacket t k p) s = .next u ∧ u = cleared s e :=
      ⟨_, next_cleared (f := fun d => tapReceive k.val p (advance t d)) h, rfl⟩
    refine ⟨fun link => answers (tapReceive_down link), fun link role => answers (tapReceive_out link role),
      fun link role => answers (tapReceive_uncarried link role),
      fun link role stopped => answers (tapReceive_stopped link role stopped), ?_⟩
    intro held e link role running hheld he
    subst hheld
    have buffers := tapReceive_running (p := p) (d := advance t s.dev) link role running
    have taken {e' : Dev} (room : (portOf s.dev k.val).rxBytes - p.drained + p.size ≤ 262144) (h : tapTake k.val p e = e') :
        ∃ u, exec (.tapPacket t k p) s = .next u ∧ u = cleared s e' :=
      answers (buffers.trans ((portBuffers_room (d := advance t s.dev) room).trans (he ▸ h)))
    have exact_ : exactStream? e k.val p = exactStream? s.dev k.val p := by rw [he]; rfl
    have near_ : nearStream? e k.val p = nearStream? s.dev k.val p := by rw [he]; rfl
    refine ⟨fun full => answers (buffers.trans (portBuffers_full (d := advance t s.dev) full)),
      fun room bad => taken room (tapTake_bad bad), ?_, ?_⟩
    · intro room fcs ip none_
      refine ⟨fun near => taken room (tapTake_unclaimed fcs ip (exact_.trans none_) (near_ ▸ near)), ?_⟩
      exact fun n y near udp => taken room (tapTake_near fcs ip (exact_.trans none_) (near_.trans near) udp)
    · intro n y room fcs ip found
      have found' := exact_.trans found
      exact ⟨fun udp => taken room (tapTake_checksum fcs ip found' udp),
        fun udp form => taken room (tapTake_unmatched fcs ip found' udp form),
        fun udp form => taken room (tapTake_valid fcs ip found' udp form)⟩
  · intro n p d e y he found
    refine ⟨fun f frame => by rw [validPacket_found he found, frame], fun fresh => ⟨?_, ?_⟩⟩
    · intro k last old
      rw [validPacket_found he found, fresh, last]
      exact if_neg (by rw [old]; exact Bool.false_ne_true)
    · intro new few
      have opens := (validPacket_opens he found fresh new).trans (openFrame_calm found few)
      exact ⟨fun room => opens.trans (if_neg (Nat.not_le.mpr room)), fun full => opens.trans (if_pos full)⟩
  · intro n s f p d
    exact ⟨framePacket_duplicate, framePacket_geometry, framePacket_overlap, fun g new within once hg =>
      ⟨framePacket_completes new within once hg, framePacket_goes_on new within once hg⟩⟩
  · intro t k rtp s y f d hd found frame
    subst hd
    exact ⟨_, next_cleared (f := fun d => digestComplete k.val rtp (advance t d))
      (digestComplete_found (d := advance t s.dev) found frame), rfl⟩
  · intro k rtp s y f d found frame hd
    subst hd
    exact ⟨_, next_cleared (assemblyTimeout_found found frame), rfl⟩
  · intro k rtp s y f found frame
    exact ⟨_, next_onDev (slotRelease_found found frame), rfl, rfl⟩
  · intro k s y found
    refine ⟨fun other => ⟨_, next_onDev (streamSilence_quiet found other), rfl⟩, fun limit heard serves => ?_⟩
    obtain ⟨detail, told⟩ := streamSilence_told found limit heard serves
    refine ⟨_, next_onDev told, streamOf_setStream_self .., rfl, rfl, ?_, rfl⟩
    rw [raiseAttn_pending, kfind?_kput_self]
    rfl
  · intro c cap s x t y f run hx template found frame unjudged hrun
    refine ⟨fun other => ⟨_, next_onDev (unclaimedFrame_kept hx template found frame other), rfl⟩, ?_⟩
    intro unclaimed serves state
    obtain ⟨detail, e, he, counted⟩ :=
      unclaimedFrame_counted hx template found frame unclaimed unjudged serves state hrun
    have own : (ctxOf e c).unclaimedRun = run := by
      rw [he, noteUnclaimed, ctxOf_modCtx]
    have stream : (streamOf? e (streamNo x 0)).map (·.unclaimed) = some (y.unclaimed.add 1) := by
      subst he
      exact congrArg (Option.map Stream.unclaimed) (streamOf_setStream_self ..)
    have clock : e.geyser.now = max s.dev.geyser.now (cap + us t.deadlineUs) := by rw [he]; rfl
    have attn : e.attn = s.dev.attn := by rw [he]; rfl
    have rest : ∀ a, { e with attn := a } = { advance (cap + us t.deadlineUs) s.dev with
        streams := e.streams, contexts := e.contexts, attn := a } := by
      intro a
      rw [he]
      rfl
    subst hx
    by_cases limit : run = (ctxOf s.dev c).unclaimedLimit
    · refine ⟨_, next_onDev (counted.trans (if_pos limit)), own, stream, clock, fun _ => ?_, fun h => absurd limit h, ?_⟩
      · exact (raiseAttn_serial ..).trans (by rw [attn])
      · exact congrArg (fun d => { s with dev := d }) (rest _)
    · exact ⟨_, next_onDev (counted.trans (if_neg limit)), own, stream, clock, fun h => absurd h limit, fun _ => attn,
        congrArg (fun d => { s with dev := d }) (rest e.attn)⟩

end Sys2Proof.Machine
end

section
/-! Two-phase changes (09 R235 to R239): acknowledgement, abort and commit, what each writes, and O28. -/

namespace Sys2Proof.Machine

open Sys2Proof

/-! ### Acknowledgements (R236) -/

section
variable {unit : Nat} {ok : Bool} {c : Change} {d : Dev}

/-- The change that a unit's acknowledgement is for. -/
def awaiting? (unit : Nat) (d : Dev) : Option Change :=
  d.cores.changes.find? fun c => pendingChange c && c.named.getLsbD unit && !c.acked.getLsbD unit

theorem prepareAck_none (none_ : awaiting? unit d = none) : prepareAck unit ok d = d := by
  unfold awaiting? at none_
  unfold prepareAck
  rw [none_]

theorem prepareAck_late (found : awaiting? unit d = some c) (late : c.prepareBy ≤ d.geyser.now) : prepareAck unit ok d = d := by
  unfold awaiting? at found
  unfold prepareAck
  rw [found]
  exact if_pos late

/-- An acknowledgement in time is what the unit answers. -/
theorem prepareAck_asks (found : awaiting? unit d = some c) (soon : d.geyser.now < c.prepareBy) {yes : Bool} {e : Dev}
    (answers : (if c.cores then ackCore unit c ok d else (true, d)) = (yes, e)) :
    prepareAck unit ok d = if yes then setChange { c with acked := c.acked ||| BitVec.twoPow 64 unit } 0 e else e := by
  unfold awaiting? at found
  unfold prepareAck
  rw [found]
  refine (if_neg (Nat.not_le.mpr soon)).trans ?_
  rw [answers]

/-- A core that is fenced, or that holds bundles and would enter PAIRED, does not answer. -/
theorem ackCore_silent
    (other : isFenced d unit = true ∨ (modeSplit c.packet).getLsbD unit = false ∧ resident unit d = true) :
    ackCore unit c ok d = (false, d) := by
  unfold ackCore
  dsimp only
  cases fenced : isFenced d unit with
  | true => rfl
  | false =>
    obtain ⟨paired, held⟩ := other.resolve_left (by rw [fenced]; exact Bool.false_ne_true)
    rw [paired, held]
    rfl

variable (live : isFenced d unit = false)
include live

theorem ackCore_split (split : (modeSplit c.packet).getLsbD unit = true) :
    ackCore unit c ok d = (true, modCore unit (fun x => { x with prepared := true, pendingSplit := true }) d) := by
  unfold ackCore
  dsimp only
  rw [live, split]
  rfl

theorem ackCore_paired (paired : (modeSplit c.packet).getLsbD unit = false) (empty : resident unit d = false) :
    ackCore unit c ok d =
      if ok then (true, modCore unit (fun x => { x with prepared := true, pendingSplit := false }) (modInject unit (afterTest true) d))
      else (false, pump (fenceCore unit (modInject unit (afterTest false) d))) := by
  unfold ackCore
  dsimp only
  rw [live, paired, empty]
  cases ok <;> rfl

end

/-! ### The comparator test (R226) -/

theorem length_testWrites : testWrites.length = 257 := by
  simp [testWrites]

/-- A comparator that works reports each comparison of its test as it should, and one that does not reports the opposite. -/
theorem injectWord_reports {v : W32} (armed : v.getLsbD 31 = true) (working : Bool) :
    (injectWord 0 v working).getLsbD (if v.getLsbD 29 then 0 else 1) = working := by
  unfold injectWord
  rw [if_pos armed]
  cases v.getLsbD 29 <;> cases working <;> simp

theorem testWrites_armed {v : W32} (h : v ∈ testWrites) : v.getLsbD 31 = true := by
  have low : ∀ i < 128, (BitVec.ofNat 32 (0x80000000 + 0x10000 * i)).getLsbD 31 = true := by decide
  have high : ∀ i < 128, (BitVec.ofNat 32 (0xC0000000 + 0x10000 * i)).getLsbD 31 = true := by decide
  simp only [testWrites, List.mem_append, List.mem_map, List.mem_range, List.mem_singleton] at h
  obtain (⟨i, small, rfl⟩ | ⟨i, small, rfl⟩) | rfl := h
  · exact low i small
  · exact high i small
  · decide

theorem testPasses_eq (working : Bool) : testPasses working = working := by
  cases working
  · refine List.all_eq_false.mpr ⟨0xA0000000, List.mem_append_right _ List.mem_cons_self, ?_⟩
    decide
  · exact List.all_eq_true.mpr fun v mem => injectWord_reports (testWrites_armed mem) true

/-- The last comparison of the test decides what PAIR_INJECT reads after it. -/
theorem afterTest_eq (working : Bool) (w : W32) : afterTest working w = injectWord 0 0xA0000000 working := by
  unfold afterTest testWrites
  rw [List.foldl_append]
  rfl

/-! ### The earliest change -/

theorem earliest_mem {key : Change → Time} {l : List Change} {c : Change} (h : earliest key l = some c) : c ∈ l := by
  have kept : ∀ (l : List Change) (a : Option Change), l.foldl (fun a c => match a with
      | none => some c
      | some b => if key c < key b then some c else some b) a = some c → a = some c ∨ c ∈ l := by
    intro l
    induction l with
    | nil => exact fun a h => .inl h
    | cons x l ih =>
      intro a h
      obtain first | later := ih _ h
      · cases a with
        | none => exact .inr (List.mem_cons.mpr (.inl (Option.some.inj first).symm))
        | some b =>
          dsimp only at first
          split at first
          · exact .inr (List.mem_cons.mpr (.inl (Option.some.inj first).symm))
          · exact .inl first
      · exact .inr (List.mem_cons.mpr (.inr later))
  exact (kept l none h).resolve_left nofun

/-! ### Aborts (R237) -/

section
variable {c : Change} {d : Dev}

theorem abortOne_pending (pending : pendingChange c = true) (outcome : Nat) : abortOne outcome c d =
    let d := setChange { c with aborted := true } outcome d
    if c.cores then { d with cores := { d.cores with core := kmapv (fun n k =>
      if c.named.getLsbD n then { k with prepared := false } else k) d.cores.core } }
    else d := if_pos pending

theorem abortOne_frame (outcome : Nat) : abortOne outcome c d = { d with cores := { d.cores with
    changes := (abortOne outcome c d).cores.changes
    record := (abortOne outcome c d).cores.record
    core := (abortOne outcome c d).cores.core } } := by
  unfold abortOne
  dsimp only
  split
  · split <;> rfl
  · rfl

variable (pending : pendingChange c = true) (outcome : Nat)
include pending

theorem abortOne_record : (abortOne outcome c d).cores.record = changeRecord outcome { c with aborted := true } := by
  rw [abortOne_pending pending]
  dsimp only
  split <;> rfl

theorem abortOne_changes : (abortOne outcome c d).cores.changes =
    d.cores.changes.map fun x => if x.id == c.id then { c with aborted := true } else x := by
  rw [abortOne_pending pending]
  dsimp only
  split <;> rfl

theorem coreOf_abortOne (cores : c.cores = true) (n : Nat) : coreOf (abortOne outcome c d) n =
    if c.named.getLsbD n then { coreOf d n with prepared := false } else coreOf d n := by
  rw [abortOne_pending pending]
  dsimp only
  rw [if_pos cores]
  exact kget_kmapv (fun n k => if c.named.getLsbD n then { k with prepared := false } else k) ({} : Core) d.cores.core n (ite_self _)

theorem coreOf_abortOne_kept {n : Nat} (other : c.cores = false ∨ c.named.getLsbD n = false) :
    coreOf (abortOne outcome c d) n = coreOf d n := by
  cases cores : c.cores with
  | false =>
    rw [abortOne_pending pending]
    dsimp only
    rw [cores]
    rfl
  | true =>
    rw [coreOf_abortOne pending outcome cores, other.resolve_left (by rw [cores]; decide)]
    rfl

theorem coreOf_abortOne_named {n : Nat} (cores : c.cores = true) (named : c.named.getLsbD n = true) :
    coreOf (abortOne outcome c d) n = { coreOf d n with prepared := false } :=
  (coreOf_abortOne pending outcome cores n).trans (if_pos named)

end

/-! ### Parts of a commit that leave the cores (R238, R249) -/

/-- A device that differs in what the memory controller holds. -/
def onlyCtl (d e : Dev) : Prop := e = { d with memctl := e.memctl }

theorem onlyCtl_trans {a b c : Dev} (h : onlyCtl a b) (k : onlyCtl b c) : onlyCtl a c := by
  unfold onlyCtl at *
  rw [k, h]

theorem foldl_ctl {α : Type} {f : Dev → α → Dev} (h : ∀ d a, onlyCtl d (f d a)) (l : List α) (d : Dev) : onlyCtl d (l.foldl f d) := by
  induction l generalizing d with
  | nil => rfl
  | cons a l ih => exact onlyCtl_trans (h d a) (ih _)

theorem tagSegs_ctl (p : Nat) (mode : SegMode) (reloadable : Bool) (gs : List Nat) (d : Dev) :
    onlyCtl d (tagSegs p mode reloadable gs d) := by
  refine foldl_ctl (fun e g => ?_) gs d
  dsimp only
  split <;> rfl

theorem allocateSram_ctl (cluster p n : Nat) (d : Dev) : onlyCtl d (allocateSram cluster p n d) := by
  unfold allocateSram
  dsimp only
  split
  · rfl
  · split
    · exact onlyCtl_trans (by rfl) (tagSegs_ctl _ _ _ _ _)
    · rfl

theorem installScratch_ctl (c : AdmitConfig) (f : Nat → Bool) (d : Dev) : onlyCtl d (installScratch c f d) := by
  refine foldl_ctl (fun e x => ?_) _ d
  split
  · exact allocateSram_ctl _ _ _ e
  · rfl

theorem setReadMask_ctl (w : AllocFor) (mask : W16) (d : Dev) : onlyCtl d (setReadMask w mask d) := by
  unfold setReadMask
  split
  · rfl
  · exact foldl_ctl (fun e g => show onlyCtl e (modSeg g _ e) from rfl) _ d

theorem setMasks_ctl (d : Dev) : onlyCtl d (setMasks d) := by
  refine foldl_ctl (fun e a => ?_) _ d
  split
  · exact setReadMask_ctl _ _ e
  · exact setReadMask_ctl _ _ e
  · rfl

theorem activateGolden_frame (p : Nat) (d : Dev) : activateGolden p d = { d with plans := (activateGolden p d).plans } := by
  unfold activateGolden
  split <;> rfl

/-- A device that differs in neither its cores nor its partitions. -/
def keepsCoresParts (d e : Dev) : Prop := e.cores = d.cores ∧ e.sched.parts = d.sched.parts

theorem keepsCoresParts_trans {a b c : Dev} (h : keepsCoresParts a b) (k : keepsCoresParts b c) : keepsCoresParts a c :=
  ⟨k.1.trans h.1, k.2.trans h.2⟩

theorem foldl_coresParts {α : Type} {f : Dev → α → Dev} (h : ∀ d a, keepsCoresParts d (f d a)) (l : List α) (d : Dev) :
    keepsCoresParts d (l.foldl f d) := by
  induction l generalizing d with
  | nil => exact ⟨rfl, rfl⟩
  | cons a l ih => exact keepsCoresParts_trans (h d a) (ih _)

theorem onlyCtl.coresParts {d e : Dev} (h : onlyCtl d e) : keepsCoresParts d e := by
  rw [h]
  exact ⟨rfl, rfl⟩

theorem swapBindings_coresParts (plan : W64 × W64) (p : Packet) (d : Dev) : keepsCoresParts d (swapBindings plan p d) := by
  unfold swapBindings
  refine foldl_coresParts (fun e x => ?_) _ d
  exact ⟨rfl, rfl⟩

theorem activateGolden_coresParts (p : Nat) (d : Dev) : keepsCoresParts d (activateGolden p d) := by
  rw [activateGolden_frame]
  exact ⟨rfl, rfl⟩

theorem commitParts_coresParts (packet : Packet) (d : Dev) :
    keepsCoresParts (modSched (fun s => { s with parts := withParts packet s.parts }) d) (commitParts packet d) := by
  refine foldl_coresParts (fun e q => ?_) _ _
  split <;> exact ⟨rfl, rfl⟩

/-! ### A core takes its mode (R238) -/

/-- What a wipe leaves of a core. -/
def wipedCore (k : Core) : Core :=
  { k with bundles := [], store := [], forwards := [], posts := [], loadConst := [], engines := [], mustZero := true }

theorem coreOf_wipeCore (n : Nat) (d : Dev) : coreOf (wipeCore n d) n = wipedCore (coreOf d n) := by
  have cleared_ : coreOf (clearCore n d) n =
      { coreOf d n with bundles := [], store := [], forwards := [], posts := [], loadConst := [] } :=
    coreOf_modCore d n fun k => { k with bundles := [], store := [], forwards := [], posts := [], loadConst := [] }
  unfold wipeCore
  dsimp only
  rw [coreOf_modCore, cleared_]
  rfl

theorem coreOf_wipeCore_ne {n m : Nat} (d : Dev) (other : m ≠ n) : coreOf (wipeCore n d) m = coreOf d m :=
  (coreOf_modCore_ne _ _ other).trans
    (coreOf_modCore_ne d (fun k => { k with bundles := [], store := [], forwards := [], posts := [], loadConst := [] }) other)

theorem coreOf_applyMode (n : Nat) (c : Change) (d : Dev) : coreOf (applyMode n c d) n =
    { wipedCore (coreOf d n) with split := (coreOf d n).pendingSplit, prepared := false, changeId := c.id } := by
  unfold applyMode
  dsimp only
  rw [coreOf_modCore, coreOf_wipeCore]
  rfl

theorem coreOf_applyMode_ne {n m : Nat} (c : Change) (d : Dev) (other : m ≠ n) : coreOf (applyMode n c d) m = coreOf d m :=
  (coreOf_modCore_ne _ _ other).trans (coreOf_wipeCore_ne d other)

/-- Each of some different cores takes its mode, and no other core does. -/
theorem coreOf_applyModes {c : Change} {n : Nat} {l : List Nat} {d : Dev} (different : l.Nodup) :
    coreOf (l.foldl (fun d n => applyMode n c d) d) n =
      if n ∈ l then { wipedCore (coreOf d n) with split := (coreOf d n).pendingSplit, prepared := false, changeId := c.id }
      else coreOf d n := by
  induction l generalizing d with
  | nil => rfl
  | cons m l ih =>
    obtain ⟨fresh, rest⟩ := List.nodup_cons.mp different
    refine (ih rest).trans ?_
    by_cases same : n = m
    · subst same
      rw [if_neg fresh, if_pos List.mem_cons_self, coreOf_applyMode]
    · rw [coreOf_applyMode_ne c d same]
      simp only [List.mem_cons, same, false_or]

theorem applyMode_sched (n : Nat) (c : Change) (d : Dev) : (applyMode n c d).sched = d.sched := rfl

theorem applyModes_sched (c : Change) (l : List Nat) (d : Dev) : (l.foldl (fun d n => applyMode n c d) d).sched = d.sched := by
  induction l generalizing d with
  | nil => rfl
  | cons n l ih => exact (ih _).trans (applyMode_sched n c d)

/-! ### What a commit does (R238) -/

/-- The part of a commit that is the change's own: modes, partitions or bindings. -/
def ownPart (c : Change) (units : W64) (d : Dev) : Dev :=
  if c.cores then ((List.range 64).filter fun n => units.getLsbD n).foldl (fun d n => applyMode n c d) d
  else if units.getLsbD 48 then
    if c.opcode = 0x0204 then commitParts c.packet d
    else setMasks (swapBindings c.plan c.packet d)
  else d

theorem installUnits_coresParts (units : W64) (c : AdmitConfig) (d : Dev) : keepsCoresParts d (installUnits units c d) := ⟨rfl, rfl⟩

/-- Frame tables, buckets, scratch and golden starts leave cores and partitions. -/
theorem applyChange_coresParts (c : Change) (units : W64) (d : Dev) :
    keepsCoresParts (ownPart c units d) (applyChange c units d) := by
  unfold applyChange ownPart
  refine keepsCoresParts_trans ?_ (foldl_coresParts (fun e p => activateGolden_coresParts p e) _ _)
  refine keepsCoresParts_trans ?_ (foldl_coresParts (fun _ _ => ⟨rfl, rfl⟩) [0, 1] _)
  exact keepsCoresParts_trans (installUnits_coresParts _ _ _) (installScratch_ctl _ _ _).coresParts

theorem coreOf_applyChange (c : Change) (units : W64) (d : Dev) (n : Nat) :
    coreOf (applyChange c units d) n = coreOf (ownPart c units d) n := by
  unfold coreOf
  rw [(applyChange_coresParts c units d).1]

theorem ownPart_cores_same {c : Change} (units : W64) (d : Dev) (other : c.cores = false) : (ownPart c units d).cores = d.cores := by
  unfold ownPart
  rw [other, if_neg Bool.false_ne_true]
  split
  · split
    · exact (commitParts_coresParts c.packet d).1
    · exact (keepsCoresParts_trans (swapBindings_coresParts c.plan c.packet d) (setMasks_ctl _).coresParts).1
  · rfl

theorem coreOf_ownPart {c : Change} {units : W64} {n : Nat} (d : Dev) (cores : c.cores = true) (small : n < 64) :
    coreOf (ownPart c units d) n = if units.getLsbD n
      then { wipedCore (coreOf d n) with split := (coreOf d n).pendingSplit, prepared := false, changeId := c.id }
      else coreOf d n := by
  unfold ownPart
  rw [if_pos cores, coreOf_applyModes (List.nodup_range.filter _)]
  simp only [List.mem_filter, List.mem_range, small, true_and]

/-- A unit that does not apply keeps its core's mode. -/
theorem applyChange_split_kept {c : Change} {units : W64} {n : Nat} (d : Dev) (small : n < 64)
    (other : c.cores = false ∨ units.getLsbD n = false) :
    (coreOf (applyChange c units d) n).split = (coreOf d n).split := by
  rw [coreOf_applyChange]
  cases cores : c.cores with
  | false =>
    unfold coreOf
    rw [ownPart_cores_same units d cores]
  | true =>
    rw [coreOf_ownPart d cores small, other.resolve_left (by rw [cores]; decide)]
    rfl

theorem applyChange_parts {c : Change} {units : W64} (d : Dev) (other : c.cores = false) (steward : units.getLsbD 48 = true)
    (set : c.opcode = 0x0204) : (applyChange c units d).sched.parts = withParts c.packet d.sched.parts := by
  rw [(applyChange_coresParts c units d).2]
  unfold ownPart
  rw [other, if_neg Bool.false_ne_true, if_pos steward, if_pos set]
  exact (commitParts_coresParts c.packet d).2

section
variable {applied : W64} {c : Change} {d : Dev}

theorem changeCommit_none (none_ : d.cores.changes.filter pendingChange = []) : changeCommit applied d = d := by
  unfold changeCommit
  rw [none_]
  rfl

theorem changeCommit_aborts (found : earliest (·.commitAt) (d.cores.changes.filter pendingChange) = some c)
    (missing : c.acked ≠ c.named) : changeCommit applied d = abortOne 2 c (advance c.commitAt d) := by
  unfold changeCommit
  rw [found]
  exact if_pos missing

theorem changeCommit_applies (found : earliest (·.commitAt) (d.cores.changes.filter pendingChange) = some c)
    (whole : c.acked = c.named) : changeCommit applied d = pump (setChange { c with committed := true, applied := c.acked &&& applied } 1
      (applyChange c (c.acked &&& applied) (advance c.commitAt d))) := by
  unfold changeCommit
  rw [found]
  exact if_neg fun h => h whole

theorem prepareTimeout_none (whole : ∀ c, c ∈ d.cores.changes → pendingChange c = true → c.acked = c.named) :
    prepareTimeout d = d := by
  have none_ : (d.cores.changes.filter fun c => pendingChange c && c.acked != c.named) = [] := by
    refine List.filter_eq_nil_iff.mpr fun c mem => ?_
    cases pending : pendingChange c with
    | false => exact Bool.false_ne_true
    | true => simp [whole c mem pending]
  unfold prepareTimeout
  rw [none_]
  rfl

theorem prepareTimeout_aborts
    (found : earliest (·.prepareBy) (d.cores.changes.filter fun c => pendingChange c && c.acked != c.named) = some c) :
    prepareTimeout d = abortOne 2 c (advance c.prepareBy d) := by
  unfold prepareTimeout
  rw [found]

end

/-! ### O28 -/

/-- A launch leaves the mode of a core. -/
theorem onlyBundles.mode {a b : Core} (h : onlyBundles a b) :
    b.split = a.split ∧ b.prepared = a.prepared ∧ b.changeId = a.changeId := by
  unfold onlyBundles at h
  rw [h]
  exact ⟨rfl, rfl, rfl⟩

/-- What a device after an allocating step keeps of a core's mode. -/
theorem doneAs.mode {d : Dev} {s u : State} (h : doneAs d s u) (n : Nat) : (coreOf u.dev n).split = (coreOf d n).split ∧
    (coreOf u.dev n).prepared = (coreOf d n).prepared ∧ (coreOf u.dev n).changeId = (coreOf d n).changeId :=
  (h.1.2.1 n).mode

/-- Settles O28, by what an acknowledgement answers, what an abort writes and what a commit leaves of each core. -/
theorem twoPhaseChanges : Obligations.TwoPhaseChanges := by
  refine ⟨?_, ?_, ?_, ?_, ?_, ?_, ?_⟩
  · intro t k ok s d hd
    subst hd
    have answers {e : Dev} (h : prepareAck k.val ok (advance t s.dev) = e) :
        exec (.unitPrepareAck t k ok) s = .next (cleared s e) :=
      next_cleared (f := fun d => prepareAck k.val ok (advance t d)) h
    refine ⟨fun none_ => answers (prepareAck_none none_), fun c found => ⟨fun late => answers (prepareAck_late found late), ?_⟩⟩
    have acknowledged {e : Dev} (soon : (advance t s.dev).geyser.now < c.prepareBy) (cores : c.cores = true)
        (h : ackCore k.val c ok (advance t s.dev) = (true, e)) :
        exec (.unitPrepareAck t k ok) s = .next (cleared s (setChange { c with acked := c.acked ||| BitVec.twoPow 64 k.val } 0 e)) :=
      answers ((prepareAck_asks found soon ((if_pos cores).trans h)).trans (if_pos rfl))
    have unanswered {e : Dev} (soon : (advance t s.dev).geyser.now < c.prepareBy) (cores : c.cores = true)
        (h : ackCore k.val c ok (advance t s.dev) = (false, e)) : exec (.unitPrepareAck t k ok) s = .next (cleared s e) :=
      answers ((prepareAck_asks found soon ((if_pos cores).trans h)).trans (if_neg Bool.false_ne_true))
    refine ⟨?_, ?_, ?_, ?_⟩
    · intro soon other
      exact answers (prepareAck_asks found soon (if_neg (by rw [other]; exact Bool.false_ne_true)))
    · exact fun soon cores other => unanswered soon cores (ackCore_silent other)
    · exact fun soon cores live split => acknowledged soon cores (ackCore_split live split)
    · intro soon cores live paired empty
      have tested := ackCore_paired (ok := ok) live paired empty
      cases passes : ok
      · rw [passes, if_neg Bool.false_ne_true] at tested
        rw [if_neg Bool.false_ne_true, ← passes]
        exact unanswered soon cores (passes ▸ tested)
      · rw [passes, if_pos rfl] at tested
        rw [if_pos rfl, ← passes]
        exact acknowledged soon cores (passes ▸ tested)
  · refine ⟨length_testWrites, testPasses_eq true, testPasses_eq false, fun w => ⟨?_, ?_⟩⟩
    · rw [afterTest_eq]
      decide
    · rw [afterTest_eq]
      decide
  · exact fun s whole => next_onDev (prepareTimeout_none whole)
  · intro s c found
    obtain ⟨mem, missing⟩ := List.mem_filter.mp (earliest_mem found)
    have pending := (Bool.and_eq_true_iff.mp missing).1
    refine ⟨_, next_onDev (prepareTimeout_aborts found), abortOne_record pending 2, ?_, ?_, ?_, ?_, ?_⟩
    · intro x here same
      rw [show _ = _ from abortOne_changes (d := advance c.prepareBy s.dev) pending 2] at here
      obtain ⟨y, -, rfl⟩ := List.mem_map.mp here
      by_cases own : (y.id == c.id) = true
      · exact if_pos own
      · rw [if_neg own] at same
        exact absurd (beq_iff_eq.mpr same) own
    · intro x here other
      rw [show _ = _ from abortOne_changes (d := advance c.prepareBy s.dev) pending 2]
      exact List.mem_map.mpr ⟨x, here, if_neg fun h => other (beq_iff_eq.mp h)⟩
    · exact fun cores n named => coreOf_abortOne_named (d := advance c.prepareBy s.dev) pending 2 cores named
    · exact fun n other => coreOf_abortOne_kept (d := advance c.prepareBy s.dev) pending 2 other
    · exact congrArg (fun d => { s with dev := d }) (abortOne_frame (d := advance c.prepareBy s.dev) 2)
  · intro applied s none_
    have empty : s.dev.cores.changes.filter pendingChange = [] :=
      List.filter_eq_nil_iff.mpr fun c mem => by rw [none_ c mem]; exact Bool.false_ne_true
    obtain ⟨u, next, done⟩ := exists_onDevA (changeCommit applied) s
    exact ⟨u, next, changeCommit_none (applied := applied) empty ▸ done⟩
  · intro applied s c found
    obtain ⟨u, next, done⟩ := exists_onDevA (changeCommit applied) s
    refine ⟨fun missing => ⟨u, next, changeCommit_aborts (applied := applied) found missing ▸ done⟩, fun whole => ?_⟩
    rw [changeCommit_applies (applied := applied) found whole] at done
    replace done := doneAs_pump done
    refine ⟨u, next, done, done.1.cores_record, ?_, ?_, ?_⟩
    · intro cores n small bit
      obtain ⟨split, prepared, id⟩ := done.mode n
      have own : coreOf (applyChange c (c.acked &&& applied) (advance c.commitAt s.dev)) n = _ :=
        (coreOf_applyChange _ _ _ n).trans ((coreOf_ownPart _ cores small).trans (if_pos bit))
      exact ⟨split.trans (congrArg Core.split own), prepared.trans (congrArg Core.prepared own), id.trans (congrArg Core.changeId own)⟩
    · exact fun n small other => (done.mode n).1.trans (applyChange_split_kept (advance c.commitAt s.dev) small other)
    · exact fun other steward set => done.1.sched_parts.trans (applyChange_parts (advance c.commitAt s.dev) other steward set)
  · intro n c d _
    rw [coreOf_applyMode]
    exact ⟨rfl, rfl, rfl, rfl, rfl⟩

end Sys2Proof.Machine
end

section
/-! Changes that conclude, commits of an admission, re-admission and activation (09 R238, 10 R249 to R269, 02 R32): O29 to O32. -/

namespace Sys2Proof.Machine

open Sys2Proof

/-! ### Fences and what keeps them (R225, R238) -/

/-- Every core is fenced in one device as in the other. -/
def keepsFences (d e : Dev) : Prop := ∀ n, isFenced e n = isFenced d n

theorem keepsFences_trans {a b c : Dev} (h : keepsFences a b) (k : keepsFences b c) : keepsFences a c :=
  fun n => (k n).trans (h n)

theorem keepsFences_of_cores {d e : Dev} (h : e.cores = d.cores) : keepsFences d e := fun n => by
  unfold isFenced coreOf
  rw [h]

theorem foldl_fences {α : Type} {f : Dev → α → Dev} (h : ∀ d a, keepsFences d (f d a)) (l : List α) (d : Dev) :
    keepsFences d (l.foldl f d) := by
  induction l generalizing d with
  | nil => exact fun _ => rfl
  | cons a l ih => exact keepsFences_trans (h d a) (ih _)

theorem onlyLaunches.fences {d e : Dev} (h : onlyLaunches d e) : keepsFences d e := fun n => by
  have same := h.2.1 n
  unfold onlyBundles at same
  unfold isFenced
  rw [same]

theorem abortOne_fences (outcome : Nat) (c : Change) (d : Dev) : keepsFences d (abortOne outcome c d) := fun n => by
  unfold isFenced
  cases pending : pendingChange c with
  | false => rw [show abortOne outcome c d = d from if_neg (by rw [pending]; exact Bool.false_ne_true)]
  | true =>
    by_cases named : c.cores = true ∧ c.named.getLsbD n = true
    · rw [coreOf_abortOne_named pending outcome named.1 named.2]
    · rw [coreOf_abortOne_kept pending outcome ((Classical.not_and_iff_not_or_not.mp named).imp eq_false_of_ne_true eq_false_of_ne_true)]

theorem chipFailed_fences (d : Dev) : keepsFences d (chipFailed d) := by
  have before : keepsFences d (withholdAll (expireAll d)) :=
    keepsFences_of_cores (by rw [onlyVerdicts_trans (expireAll_verdicts d) (withholdAll_verdicts _)])
  have aborted : keepsFences d (forceSafe (abortChange 3 (withholdAll (expireAll d)))) :=
    keepsFences_trans before (foldl_fences (fun d c => abortOne_fences 3 c d) _ _)
  unfold chipFailed
  split
  · exact fun _ => rfl
  · dsimp only
    split
    · exact aborted
    · exact keepsFences_trans aborted (keepsFences_of_cores (by rw [show _ = _ from recordWithheld_verdicts _]; rfl))

theorem wipeCore_fences (n : Nat) (d : Dev) : keepsFences d (wipeCore n d) := (wipeCore_launches n d).fences

theorem requeueFront_fences (r : Run_) (d : Dev) : keepsFences d (requeueFront r d) := by
  unfold requeueFront
  split <;> exact fun _ => rfl

theorem stopRunsOn_fences (n : Nat) (d : Dev) : keepsFences d (stopRunsOn n d) := by
  have requeued : ∀ (l : List Run_) (e : Dev), keepsFences e
      (l.foldr (fun r d => requeueFront r (r.cores.foldl (fun d m => wipeCore m d) d)) e) := by
    intro l e
    induction l with
    | nil => exact fun _ => rfl
    | cons r l ih =>
      exact keepsFences_trans ih (keepsFences_trans (foldl_fences (fun d m => wipeCore_fences m d) r.cores _) (requeueFront_fences r _))
  exact keepsFences_trans (fun _ => rfl) (requeued _ _)

/-- A fence, once its core has stopped. -/
theorem fenceCore_isFenced {n : Nat} {d : Dev} (live : ¬(d.start.wireTest || isFenced d n) = true) (m : Nat) :
    isFenced (fenceCore n d) m = if m = n then true else isFenced d m := by
  have own : ∀ e, isFenced (modCore n (fun c => { c with fenced := true, prepared := false, window := none }) e) m =
      if m = n then true else isFenced e m := by
    intro e
    unfold isFenced
    split
    · next same =>
      subst same
      rw [coreOf_modCore]
    · next other => rw [coreOf_modCore_ne _ _ other]
  have stopped : isFenced (stopRunsOn n (clearCore n d)) m = isFenced d m :=
    (stopRunsOn_fences n _ m).trans ((clearCore_launches n d).fences m)
  unfold fenceCore
  rw [if_neg live]
  dsimp only
  split
  · exact (chipFailed_fences _ m).trans ((own _).trans (by rw [stopped]))
  · exact (own _).trans (by rw [stopped])

theorem fenceCore_self {n : Nat} {d : Dev} (wired : d.start.wireTest = false) : isFenced (fenceCore n d) n = true := by
  by_cases fenced : isFenced d n = true
  · rw [show fenceCore n d = d from if_pos (by rw [fenced, Bool.or_true])]
    exact fenced
  · exact (fenceCore_isFenced (by simp [wired, fenced]) n).trans (if_pos rfl)

theorem fenceCore_mono {n m : Nat} {d : Dev} (fenced : isFenced d m = true) : isFenced (fenceCore n d) m = true := by
  by_cases live : (d.start.wireTest || isFenced d n) = true
  · rw [show fenceCore n d = d from if_pos live]
    exact fenced
  · refine (fenceCore_isFenced live m).trans ?_
    rw [fenced]
    exact ite_self _

theorem fenceCores_isFenced {l : List Nat} {n : Nat} {d : Dev} (wired : d.start.wireTest = false)
    (h : n ∈ l ∨ isFenced d n = true) : isFenced (l.foldl (fun d n => fenceCore n d) d) n = true := by
  induction l generalizing d with
  | nil => exact h.resolve_left List.not_mem_nil
  | cons m l ih =>
    refine ih (Eq.trans (congrArg (fun e : Dev => e.start.wireTest) (fenceCore_reactions m d)) wired) ?_
    obtain here | fenced := h
    · obtain rfl | later := List.mem_cons.mp here
      · exact .inr (fenceCore_self wired)
      · exact .inl later
    · exact .inr (fenceCore_mono fenced)

/-! ### A change that concludes (R238, R329) -/

section
variable {c : Change} {d e : Dev} {failed : W64}

theorem failApply_none (other : c.committed = false ∨ c.acked &&& ~~~c.applied = 0 ∨ c.failed ≠ 0) : failApply c d = d := by
  refine if_pos ?_
  obtain h | h | h := other
  · simp [h]
  · simp [h]
  · simp only [decide_eq_true h, Bool.or_true]

variable (hfailed : failed = c.acked &&& ~~~c.applied)
  (he : e = setChange { c with failed := failed } 1 (advance (c.commitAt + us 20) d))
  (committed : c.committed = true) (some_ : failed ≠ 0) (first : c.failed = 0)
include hfailed he committed some_ first

theorem failApply_fails : failApply c d =
    if c.cores then pump (((List.range 64).filter fun n => failed.getLsbD n).foldl (fun d n => fenceCore n d) e)
    else enterSafe true 0xFFFF e := by
  subst hfailed he
  refine if_neg ?_
  rw [committed, first]
  simpa using some_

theorem failApply_cores (cores : c.cores = true) :
    failApply c d = pump (((List.range 64).filter fun n => failed.getLsbD n).foldl (fun d n => fenceCore n d) e) :=
  (failApply_fails hfailed he committed some_ first).trans (if_pos cores)

theorem failApply_unit (other : c.cores = false) : failApply c d = enterSafe true 0xFFFF e :=
  (failApply_fails hfailed he committed some_ first).trans (if_neg (by rw [other]; exact Bool.false_ne_true))

end

/-- Chip safe state latches its reaction. -/
theorem enterSafe_chipSafe (n : Nat) (d : Dev) : (enterSafe true n d).cal.chipSafe = true := by
  rw [(enterSafe_latches true n d).1]
  exact Bool.or_true _

section
variable {c : Change} {d : Dev}

/-- The device once a concluded change has left. -/
def dropChange (c : Change) (d : Dev) : Dev :=
  { d with cores := { d.cores with changes := d.cores.changes.filter fun x => x.id != c.id } }

theorem changeDone_none (none_ : d.cores.changes.find? (fun c => c.committed || c.aborted) = none) : changeDone d = d := by
  unfold changeDone
  rw [none_]

theorem changeDone_found (found : d.cores.changes.find? (fun c => c.committed || c.aborted) = some c) : changeDone d =
    match acceptedOf? (dropChange c (failApply c d)) c.session c.counter with
    | some a => finalReply a cDone c.applied (dropChange c (failApply c d))
    | none => dropChange c (failApply c d) := by
  unfold changeDone
  rw [found]
  rfl

end

/-- Settles O29, by the fences that a missed apply leaves and the change that concludes. -/
theorem changesConclude : Obligations.ChangesConclude := by
  refine ⟨fun s => rfl, ?_, ?_, ?_⟩
  · intro d c failed e hfailed he
    refine ⟨fun other => failApply_none (hfailed ▸ other), ?_, ?_⟩
    · intro committed some_ first cores
      have fences := failApply_cores hfailed he committed some_ first cores
      refine ⟨fences, fun wired n small bit => ?_⟩
      have wired' : e.start.wireTest = false := by rw [he]; exact wired
      rw [fences, (pump_launches _).fences n]
      exact fenceCores_isFenced wired' (.inl (List.mem_filter.mpr ⟨List.mem_range.mpr small, bit⟩))
    · intro committed some_ first other
      have safe := failApply_unit hfailed he committed some_ first other
      refine ⟨safe, ?_, ?_⟩ <;> rw [safe]
      · exact enterSafe_chipSafe _ _
      · exact enterSafe_forced _ _ _
  · intro s c found
    obtain ⟨u, next, done⟩ := exists_pumpA (fun d => serveRings (changeDone d)) s
    rw [show changeDone s.dev = _ from changeDone_found found] at done
    refine ⟨u, _, dropChange c (failApply c s.dev), next, rfl, rfl, fun none_ => ?_, fun a accepted => ?_⟩
    · rw [none_] at done
      exact done
    · rw [accepted] at done
      exact done
  · intro s none_
    have empty : s.dev.cores.changes.find? (fun c => c.committed || c.aborted) = none :=
      List.find?_eq_none.mpr fun c mem => by rw [(none_ c mem).1, (none_ c mem).2]; exact Bool.false_ne_true
    obtain ⟨u, next, done⟩ := exists_pumpA (fun d => serveRings (changeDone d)) s
    exact ⟨u, next, changeDone_none empty ▸ done⟩

/-! ### The commit of an admission (R249, R329) -/

theorem mem_put {w x : Window} {l : List Window} : x ∈ byStart.put w l ↔ x = w ∨ x ∈ l := by
  induction l with
  | nil => simp [byStart.put]
  | cons y l ih =>
    unfold byStart.put
    split
    · simp
    · simp only [List.mem_cons, ih]
      exact or_left_comm

theorem mem_byStart {x : Window} {l : List Window} : x ∈ byStart l ↔ x ∈ l := by
  induction l with
  | nil => rfl
  | cons w l ih => simp only [byStart, mem_put, ih, List.mem_cons]

theorem kget_foldl_kput {α : Type} (x : α) (f : Nat → α) (l : List Nat) (m : KMap α) (k : Nat) :
    kget x (l.foldl (fun m k => kput m k (f k)) m) k = if k ∈ l then f k else kget x m k := by
  induction l generalizing m with
  | nil => rfl
  | cons n l ih =>
    refine (ih _).trans ?_
    by_cases same : k = n
    · subst same
      simp
    · simp only [List.mem_cons, same, false_or, kget_kput_ne x m (f n) same]

/-- The windows that a partition's commit leaves in a cluster's frame table: the others' old ones, and its own new ones. -/
theorem mem_installPart {p k : Nat} {c : AdmitConfig} {d : Dev} {w : Window} (small : k < 16) (plain : w.partition ≠ 0xFF) :
    w ∈ kget [] (installPart p c d).sched.tables k ↔
      (w ∈ kget [] d.sched.tables k ∧ w.partition ≠ p) ∨ (w ∈ kget [] c.windows k ∧ w.partition = p) := by
  unfold installPart modSched
  dsimp only
  rw [kget_foldl_kput, if_pos (List.mem_range.mpr small), mem_byStart]
  have untested : ∀ b : Bool, w ∉ (if b then [] else (kget [] c.windows k).filter (·.partition == 0xFF)) := by
    intro b mem
    cases b
    · exact plain (beq_iff_eq.mp (List.mem_filter.mp mem).2)
    · exact List.not_mem_nil mem
  simp only [List.mem_append, untested, or_false, List.mem_filter, beq_iff_eq, Bool.and_eq_true, bne_iff_ne, ne_eq,
    Bool.or_eq_true, plain, not_false_eq_true, true_or, and_true]

section
variable {p : Nat} {c : PendingCommit} {d : Dev}

/-- The device from which a commit is made: at its due instant, without the commit that waited. -/
def commitDue (c : PendingCommit) (d : Dev) : Dev :=
  modSched (fun x => { x with commits := x.commits.erase c }) (advance c.due d)

theorem admissionCommit_none {q : Option Nat} (none_ : d.sched.commits.find? (fun c => c.partition == q) = none) :
    admissionCommit q d = d := by
  unfold admissionCommit
  rw [none_]

theorem admissionCommit_part (found : d.sched.commits.find? (fun c => c.partition == some p) = some c) :
    admissionCommit (some p) d =
      pump (activateGolden p (installScratch c.config (· == p) (installPart p c.config (commitDue c d)))) := by
  have matches_ := List.find?_some found
  have part : c.partition = some p := beq_iff_eq.mp matches_
  unfold admissionCommit applyCommit
  rw [found]
  dsimp only
  rw [part]
  rfl

theorem admissionCommit_device (found : d.sched.commits.find? (fun c => c.partition == none) = some c) :
    admissionCommit none d = pump (admissionRecord c (installDevice c.config (commitDue c d))) := by
  have matches_ := List.find?_some found
  have part : c.partition = none := beq_iff_eq.mp matches_
  unfold admissionCommit applyCommit
  rw [found]
  dsimp only
  rw [part]
  rfl

/-- Scratch and golden starts leave what the frame tables took. -/
theorem installPart_sched (p : Nat) (c : AdmitConfig) (d : Dev) :
    (activateGolden p (installScratch c (· == p) (installPart p c d))).sched = (installPart p c d).sched := by
  rw [activateGolden_frame, installScratch_ctl]

end

theorem admissionCommit_role (q : Option Nat) (d : Dev) : (admissionCommit q d).fabric = d.fabric := by
  unfold admissionCommit
  split
  · rfl
  · next c _ =>
    dsimp only
    rw [(pump_launches _).fabric]
    have applied : ∀ e, (applyCommit c e).fabric = e.fabric := by
      intro e
      unfold applyCommit
      split
      · rw [activateGolden_frame, installScratch_ctl]
        rfl
      · rfl
    split
    · exact applied _
    · exact applied _

theorem exec_admissionCommit {q : Option (Fin 16)} {s : State} {m : Dev} (h : admissionCommit (q.map (·.val)) s.dev = m) :
    exec (.admissionCommit q) s = .next (zeroSegs (cleared s (if s.dev.fabric.role = 1 then retryUnplaced m else m))) := by
  have role : m.fabric = s.dev.fabric := h ▸ admissionCommit_role _ _
  subst h
  rw [← role]
  rfl

/-- The bucket of a slot after the device's commit. -/
theorem slotOf_installDevice {c : AdmitConfig} {d : Dev} {i : Nat} {r : Nat × Nat} (here : c.ingress[i]? = some r) (small : i < 2) :
    (slotOf (installDevice c d) i).ingressRate = r.1 ∧ (slotOf (installDevice c d) i).ingressDepth = r.2 := by
  have set_ : ∀ now x, (setIngress now r.1 r.2 x).ingressRate = r.1 ∧ (setIngress now r.1 r.2 x).ingressDepth = r.2 := by
    intro now x
    unfold setIngress
    dsimp only
    split <;> exact ⟨rfl, rfl⟩
  unfold installDevice
  simp only [List.foldl_cons, List.foldl_nil]
  obtain rfl | rfl : i = 0 ∨ i = 1 := by omega
  · rw [slotOf_modSlot_ne _ _ (by decide), slotOf_modSlot, here]
    exact set_ _ _
  · rw [slotOf_modSlot, here]
    exact set_ _ _

section
variable {t : Time} {rate depth : Nat} {b : Bucket}

theorem setBucket_made (made : b.made = true) : setBucket t rate depth b = { refill t b with
    rate := rate, depth := depth
    level := if depth ≥ b.depth then (refill t b).level + 4294967296 * (depth - b.depth)
      else min (refill t b).level (4294967296 * depth) } := if_pos made

theorem setBucket_new (new : b.made = false) : setBucket t rate depth b =
    { rate := rate, depth := depth, level := 4294967296 * depth, at_ := t, made := true } :=
  if_neg (by rw [new]; exact Bool.false_ne_true)

theorem setBucket_shape : (setBucket t rate depth b).rate = rate ∧ (setBucket t rate depth b).depth = depth := by
  unfold setBucket
  split <;> exact ⟨rfl, rfl⟩

/-- A refilled bucket keeps its level, gains what its depth gains, and never holds more than its depth. -/
theorem setBucket_level {level : Nat} (hlevel : level = min (4294967296 * b.depth) (b.level + b.rate * (t - b.at_) / 1000))
    (made : b.made = true) :
    (b.depth ≤ depth → (setBucket t rate depth b).level = level + 4294967296 * (depth - b.depth)) ∧
    (depth < b.depth → (setBucket t rate depth b).level = min level (4294967296 * depth)) ∧
    (setBucket t rate depth b).level ≤ 4294967296 * depth := by
  have refilled : (refill t b).level = level := hlevel.symm
  have bounded : level ≤ 4294967296 * b.depth := hlevel ▸ Nat.min_le_left _ _
  rw [setBucket_made made, refilled]
  refine ⟨fun more => if_pos more, fun less => if_neg (Nat.not_le.mpr less), ?_⟩
  dsimp only
  split
  · omega
  · exact Nat.min_le_right _ _

end

/-- Settles O30, by what a commit of each part installs and how a bucket takes its new rate and depth. -/
theorem admissionCommits : Obligations.AdmissionCommits := by
  refine ⟨?_, ?_, ?_, ?_⟩
  · intro q s none_ role
    refine ⟨_, exec_admissionCommit (admissionCommit_none none_), ?_⟩
    rw [if_neg role]
    exact onDevA_spec (fun d => d) s
  · intro p s c found
    refine ⟨admissionCommit (some p.val) s.dev, exec_admissionCommit (q := some p) rfl, ?_⟩
    have commit := admissionCommit_part found
    have launched := commit ▸ pump_launches _
    have sched := installPart_sched p.val c.config (commitDue c s.dev)
    refine ⟨?_, launched, ?_, ?_, fun k small w plain => ?_⟩
    · refine (congrArg Geyser.now launched.geyser).trans ?_
      rw [activateGolden_frame, installScratch_ctl]
      rfl
    · exact launched.sched_commits.trans (congrArg Sched.commits sched)
    · rw [launched.sched_withdrawn, sched]
      exact fun mem => bne_iff_ne.mp (List.mem_filter.mp mem).2 rfl
    · rw [launched.sched_tables, sched]
      exact mem_installPart small plain
  · intro s c found
    refine ⟨admissionCommit none s.dev, exec_admissionCommit (q := none) rfl, ?_⟩
    have launched := admissionCommit_device found ▸ pump_launches _
    refine ⟨launched.sched_tables, launched, ?_, ?_, launched.cores_nextChange, fun i r here small => ?_⟩
    · rw [launched.cores_record]
      rfl
    · rw [launched.cores_record]
      rfl
    · unfold slotOf
      rw [launched.slots]
      exact slotOf_installDevice here small
  · intro t rate depth level b
    refine ⟨setBucket_shape.1, setBucket_shape.2, fun new => ?_, setBucket_level⟩
    rw [setBucket_new new]

/-! ### Re-admission (R267 to R269) -/

section
variable {cause unit : Nat} {d e : Dev}

/-- What a re-admission starts from: the request taken, fenced cores left out of every partition, draining contexts not counted. -/
def readmitSet (d : Dev) : Dev :=
  let clear := (List.range 64).foldl (fun (m : W64) n => if isFenced d n then m &&& ~~~((1 : W64) <<< n) else m) (~~~(0 : W64))
  let g := modSched (fun x => { x with readmit := none, parts := kmapv (fun _ q => { q with mask := q.mask &&& clear }) x.parts }) d
  { g with contexts := kmapv (fun _ x => if x.state = .draining then { x with uncounted := true } else x) g.contexts }

/-- The contexts that a re-admission of a set sheds. -/
def readmitShed (e : Dev) : List Nat := keepFitting e (shedUntil e ((shedOrder e).map (·.1)) [])

/-- A set with the contexts that it sheds shed, and attention raised. -/
def readmitTold (cause unit : Nat) (e : Dev) : Dev :=
  let why : Shortfall := match runAdmission e with
    | .error s => s
    | .ok _ => { code := 0, term := 0, condition := 0, amount := 0 }
  let d := (readmitShed e).foldl (fun d c => shedCtx cause unit why (BitVec.ofNat 32 c) d) e
  if cause = 4 then d else raiseAttn 1 14 [] d

theorem readmission_none (other : d.sched.readmit = none ∨ d.front.state = .chipFailed ∨ stewardUp d = false) : readmission d = d := by
  unfold readmission
  cases asked : d.sched.readmit with
  | none => rfl
  | some r =>
    refine if_pos ?_
    obtain h | h | h := other
    · rw [asked] at h
      exact absurd h nofun
    · simp [h]
    · simp [h]

theorem readmission_runs (asked : d.sched.readmit = some (cause, unit)) (state : d.front.state ≠ .chipFailed)
    (up : stewardUp d = true) (he : e = readmitSet d) : readmission d =
      match runAdmission (without_ (readmitShed e) e) with
      | .error _ => readmitTold cause unit e
      | .ok c => queueCommits (commitsFor (readmitTold cause unit e) (readmitTold cause unit e).geyser.now c
          (concerned (readmitTold cause unit e) c
            (e.sched.withdrawn ++ (readmitShed e).map fun c => (ctxOf e (BitVec.ofNat 32 c)).partition))) (readmitTold cause unit e) := by
  subst he
  unfold readmission
  rw [asked]
  refine (if_neg ?_).trans rfl
  simp [state, up]

/-- A set that passes sheds nothing. -/
theorem shedUntil_fits {c : AdmitConfig} (fits : runAdmission e = .ok c) (l : List Nat) : shedUntil e l [] = [] := by
  cases l with
  | nil => rfl
  | cons n l =>
    unfold shedUntil
    rw [show without_ [] e = e from rfl, fits]

theorem readmitShed_fits {c : AdmitConfig} (fits : runAdmission e = .ok c) : readmitShed e = [] := by
  unfold readmitShed
  rw [shedUntil_fits fits]
  rfl

theorem readmitTold_fits {c : AdmitConfig} (fits : runAdmission e = .ok c) :
    readmitTold cause unit e = if cause = 4 then e else raiseAttn 1 14 [] e := by
  unfold readmitTold
  rw [readmitShed_fits fits]
  rfl

theorem readmitTold_sheds {why : Shortfall} (short : runAdmission e = .error why) : readmitTold cause unit e =
    (if cause = 4 then id else raiseAttn 1 14 [])
      ((readmitShed e).foldl (fun d c => shedCtx cause unit why (BitVec.ofNat 32 c) d) e) := by
  unfold readmitTold
  rw [short]
  dsimp only
  split <;> rfl

theorem keepFitting_fits {out : List Nat} (fits : ∃ c, runAdmission (without_ out d) = .ok c) :
    ∃ c, runAdmission (without_ (keepFitting d out) d) = .ok c := by
  unfold keepFitting
  generalize out.reverse = l
  induction l generalizing out with
  | nil => exact fits
  | cons n l ih =>
    refine ih ?_
    dsimp only
    cases trial : runAdmission (without_ (out.filter (· != n)) d) with
    | ok c => exact ⟨c, trial⟩
    | error _ => exact fits

/-- Shedding ends where the rest admits, or with every context shed. -/
theorem shedUntil_ends (l out : List Nat) : (∃ c, runAdmission (without_ (shedUntil d l out) d) = .ok c) ∨ shedUntil d l out = out ++ l := by
  induction l generalizing out with
  | nil => exact .inr (List.append_nil out).symm
  | cons n l ih =>
    unfold shedUntil
    cases rest : runAdmission (without_ out d) with
    | ok c => exact .inl ⟨c, rest⟩
    | error _ =>
      refine (ih (out ++ [n])).imp_right fun all_ => all_.trans ?_
      rw [List.append_assoc]
      rfl

/-- The order of R268: `a` is not shed after `b`. -/
def shedNotAfter (d : Dev) (a b : Nat × Context) : Prop :=
  criticalityOf d b.2 < criticalityOf d a.2 ∨ criticalityOf d b.2 = criticalityOf d a.2 ∧ b.2.order ≤ a.2.order

theorem shedNotAfter_trans {a b c : Nat × Context} (h : shedNotAfter d a b) (k : shedNotAfter d b c) : shedNotAfter d a c := by
  unfold shedNotAfter at *
  omega

theorem shedNotAfter_of_before {a b : Nat × Context} (h : shedBefore d a b = true) : shedNotAfter d a b := by
  unfold shedBefore at h
  simp only [Bool.or_eq_true, Bool.and_eq_true, decide_eq_true_eq, beq_iff_eq] at h
  unfold shedNotAfter
  omega

theorem shedNotAfter_of_not_before {a b : Nat × Context} (h : ¬shedBefore d a b = true) : shedNotAfter d b a := by
  unfold shedBefore at h
  simp only [Bool.or_eq_true, Bool.and_eq_true, decide_eq_true_eq, beq_iff_eq] at h
  unfold shedNotAfter
  omega

theorem mem_insertShed {a x : Nat × Context} {l : List (Nat × Context)} : x ∈ insertShed d a l ↔ x = a ∨ x ∈ l := by
  induction l with
  | nil => simp [insertShed]
  | cons b l ih =>
    unfold insertShed
    split
    · simp
    · simp only [List.mem_cons, ih]
      exact or_left_comm

theorem insertShed_sorted {a : Nat × Context} {l : List (Nat × Context)} (sorted : l.Pairwise (shedNotAfter d)) :
    (insertShed d a l).Pairwise (shedNotAfter d) := by
  induction l with
  | nil => exact List.pairwise_singleton _ a
  | cons b l ih =>
    obtain ⟨first, rest⟩ := List.pairwise_cons.mp sorted
    unfold insertShed
    split
    · next before =>
      have ab := shedNotAfter_of_before before
      refine List.pairwise_cons.mpr ⟨fun x mem => ?_, sorted⟩
      obtain rfl | later := List.mem_cons.mp mem
      · exact ab
      · exact shedNotAfter_trans ab (first x later)
    · next after =>
      refine List.pairwise_cons.mpr ⟨fun x mem => ?_, ih rest⟩
      obtain rfl | later := mem_insertShed.mp mem
      · exact shedNotAfter_of_not_before after
      · exact first x later

theorem shedOrder_sorted (d : Dev) : (shedOrder d).Pairwise (shedNotAfter d) := by
  unfold shedOrder
  generalize (countedCtx d).filter (·.2.state != .draining) = l
  induction l with
  | nil => exact List.Pairwise.nil
  | cons a l ih => exact insertShed_sorted ih

/-- A context that no sibling can take is SUSPENDED. -/
theorem shedCtx_alone {why : Shortfall} {c : W32} (alone_ : inFabric d = false ∨ siblings d = []) :
    shedCtx cause unit why c d = suspendCtx cause unit why c d := by
  have none_ : (if inFabric d then siblings d else []) = [] := by
    obtain h | h := alone_
    · rw [h]
      rfl
    · rw [h, ite_self]
  unfold shedCtx
  rw [none_]

theorem suspendCtx_told (why : Shortfall) (c : W32) : (kfind? (suspendCtx cause unit why c d).attn.pending 1).isSome := by
  unfold suspendCtx contextAttn
  rw [raiseAttn_pending, kfind?_kput_self]
  rfl

end

/-- Settles O31, by what a re-admission starts from, what it sheds and what it queues. -/
theorem readmissions : Obligations.Readmissions := by
  refine ⟨?_, ?_, fun _ _ => keepFitting_fits, fun _ l => shedUntil_ends l [], fun _ l _ fits => shedUntil_fits fits l,
    shedOrder_sorted, ?_⟩
  · intro t s other
    obtain ⟨u, next, rest⟩ := exists_pump (fun d => readmission (advance t d)) s
    exact ⟨u, next, readmission_none (d := advance t s.dev) other ▸ rest⟩
  · intro t s e g cause unit clear asked state up hclear hg he
    have he' : e = readmitSet (advance t s.dev) := by
      subst hclear hg he
      rfl
    have withdrawn : e.sched.withdrawn = s.dev.sched.withdrawn := by
      subst he'
      rfl
    obtain ⟨u, next, rest, mem, pending⟩ := exists_pump (fun d => readmission (advance t d)) s
    rw [show readmission (advance t s.dev) = _ from readmission_runs (d := advance t s.dev) asked state up he'] at rest
    refine ⟨fun cfg fits => ?_, fun why out f short hout hf => ?_⟩
    · refine ⟨u, _, next, rfl, ?_, mem, pending⟩
      rw [readmitShed_fits fits, readmitTold_fits fits, show without_ [] e = e from rfl, fits, withdrawn, List.map_nil,
        List.append_nil] at rest
      exact rest
    · have told : readmitTold cause unit e = f := by
        subst hf hout
        exact readmitTold_sheds short
      have shed : readmitShed e = out := hout.symm
      rw [told, shed, withdrawn] at rest
      refine ⟨u, next, mem, pending, fun bad fails => ?_, fun cfg fits => ?_⟩
      · rw [fails] at rest
        exact rest
      · rw [fits] at rest
        exact rest
  · intro cause unit why c d alone_
    refine ⟨shedCtx_alone alone_, ?_⟩
    rw [shedCtx_alone alone_]
    exact suspendCtx_told why c

/-! ### Activation (R263) -/

section
variable {c : W32} {d : Dev} {x : Context} {a : Accepted}

theorem activate_safe (safe : inSafe d = true) : activate c d = d := if_pos safe

/-- The command that a context's activation answers. -/
def opening? (c : W32) (d : Dev) : Option Accepted :=
  d.accepted.find? fun a => (a.packet.opcode == 0x0306 || a.packet.opcode == 0x0308) && a.packet.context == c

theorem activate_unsafe (unsafe_ : inSafe d = false) (hx : x = ctxOf d c) : activate c d =
    match opening? c d with
    | none => if x.state = .admitted then concludeOld c (queueWord x) (becomeActive c d) else d
    | some a =>
      if a.mirror.isSome || a.outcome.isSome then d
      else if !(a.packet.opcode == 0x0308) && x.state == .suspended then
        finalReply a cDone (activationWord a x) (advance x.activation d)
      else if x.state ≠ (if a.packet.opcode == 0x0308 then CtxState.suspended else CtxState.admitted) then d
      else finalReply a cDone (activationWord a x) (becomeActive c d) := by
  subst hx
  refine (if_neg (by rw [unsafe_]; exact Bool.false_ne_true)).trans ?_
  rfl

theorem activate_takenOver (unsafe_ : inSafe d = false) (state : (ctxOf d c).state = .admitted) (none_ : opening? c d = none) :
    activate c d = concludeOld c (queueWord (ctxOf d c)) (becomeActive c d) := by
  rw [activate_unsafe unsafe_ rfl, none_]
  exact if_pos state

variable (unsafe_ : inSafe d = false) (hx : x = ctxOf d c) (found : opening? c d = some a)
  (confirmed : a.mirror = none) (undecided : a.outcome = none)
include unsafe_ hx found confirmed undecided

theorem activate_shed (state : x.state = .suspended) (opens : a.packet.opcode = 0x0306) :
    activate c d = finalReply a cDone (queueWord x) (advance x.activation d) := by
  have word : activationWord a x = queueWord x := if_pos opens
  rw [activate_unsafe unsafe_ hx, found]
  dsimp only
  rw [confirmed, undecided, word, opens, state]
  rfl

theorem activate_active (state : x.state = if a.packet.opcode = 0x0308 then CtxState.suspended else .admitted) :
    activate c d = finalReply a cDone (activationWord a x) (becomeActive c d) := by
  rw [activate_unsafe unsafe_ hx, found]
  dsimp only
  rw [confirmed, undecided]
  by_cases resume : a.packet.opcode = 0x0308
  · rw [if_pos resume] at state
    rw [state, beq_iff_eq.mpr resume]
    rfl
  · rw [if_neg resume] at state
    rw [state, beq_eq_false_iff_ne.mpr resume]
    rfl

end

theorem ctxOf_journalCtx (c k : W32) (d : Dev) : ctxOf (journalCtx c d) k = ctxOf d k := rfl

/-- Settles O32, by the equation of each case of an activation. -/
theorem contextActivation : Obligations.ContextActivation := by
  refine ⟨?_, ?_, ?_, ?_⟩
  · intro c s x a e hx unsafe_ found confirmed undecided he
    subst he
    obtain ⟨u, next, done⟩ := exists_pumpA (fun d => serveRings (activate c d)) s
    refine ⟨fun state => ⟨u, next, ?_⟩, fun state opens => ⟨u, next, ?_⟩⟩
    · rw [show activate c s.dev = _ from activate_active unsafe_ hx found confirmed undecided state] at done
      exact done
    · rw [show activate c s.dev = _ from activate_shed unsafe_ hx found confirmed undecided state opens] at done
      exact done
  · intro c d x e hx he
    subst hx he
    refine ⟨?_, rfl⟩
    generalize hfull : 2 * (1000 * sec 1) = full
    unfold becomeActive
    rw [hfull]
    dsimp only
    rw [ctxOf_journalCtx, ctxOf_modCtx]
    rfl
  · intro c s unsafe_ state none_
    obtain ⟨u, next, done⟩ := exists_pumpA (fun d => serveRings (activate c d)) s
    exact ⟨u, next, activate_takenOver unsafe_ state none_ ▸ done⟩
  · intro c s safe
    obtain ⟨u, next, done⟩ := exists_pumpA (fun d => serveRings (activate c d)) s
    exact ⟨u, next, activate_safe safe ▸ done⟩

end Sys2Proof.Machine
end

section
/-! Accesses of the memory (05 R123 to R126, 10 R242 to R248, 11 R272 to R291): the checks before one, its tokens, what a read
gives and a write leaves, and O33. -/

namespace Sys2Proof.Machine

open Sys2Proof

/-! ### Tokens (R247) -/

/-- A device that differs in its buckets and in what the hardware notes of them. -/
def onlyTokens (d e : Dev) : Prop :=
  e = { d with sched := { d.sched with hbm := e.sched.hbm, mesh := e.sched.mesh }, hwSets := e.hwSets, hwAt := e.hwAt }

theorem onlyTokens_trans {a b c : Dev} (h : onlyTokens a b) (k : onlyTokens b c) : onlyTokens a c := by
  unfold onlyTokens at *
  rw [k, h]

theorem chargeHbm_tokens (stop b t cost : Nat) (d : Dev) : onlyTokens d (chargeHbm stop b t cost d).2 := by
  unfold chargeHbm
  dsimp only
  split <;> rfl

theorem chargeMesh_tokens (stop p t : Nat) (d : Dev) : onlyTokens d (chargeMesh stop p t d).2 := by
  unfold chargeMesh
  dsimp only
  split <;> rfl

theorem takeTokens_tokens (who : Accessor) (key : Key) (addr cost : Nat) (d : Dev) : onlyTokens d (takeTokens who key addr cost d).2 := by
  have injected : ∀ i : Option Nat, onlyTokens d (match key, i with
      | .partition p, some i =>
        if (localCore? (reach d key addr)).isNone && stopAt? (reach d key addr) != some i then chargeMesh i p.val d.geyser.now d
        else (some d.geyser.now, d)
      | _, _ => (some d.geyser.now, d)).2 := by
    intro i
    split
    · split
      · exact chargeMesh_tokens _ _ _ d
      · rfl
    · rfl
  unfold takeTokens
  dsimp only
  split
  · exact onlyTokens_trans (injected _) (chargeHbm_tokens _ _ _ _ _)
  · exact injected _

section
variable {d e : Dev} (h : onlyTokens d e)
include h

theorem onlyTokens.keyOf (who : Accessor) : keyOf e who = keyOf d who := by
  rw [h]
  rfl

theorem onlyTokens.reach (key : Key) (addr : Nat) : reach e key addr = reach d key addr := by
  rw [h]
  rfl

theorem onlyTokens.gate (who : Accessor) (key : Key) (addr : Nat) (write : Bool) : gate who key addr write e = gate who key addr write d := by
  rw [h]
  rfl

theorem onlyTokens.modeAt (k : Nat) : modeAt e k = modeAt d k := by
  rw [h]
  rfl

theorem onlyTokens.onlyInjected {k : Nat} {s : State} (hd : d = s.dev) : onlyInjected k { s with dev := e } = onlyInjected k s := by
  rw [h, hd]
  rfl

end

/-! ### The checks before an access (R125, R244, R246) -/

section
variable {d : Dev} {who : Accessor} {key : Key} {addr : Nat} {write : Bool}

theorem gate_unmapped (out : mapped d who (reach d key addr) = false) : gate who key addr write d = .refused :=
  if_pos (by rw [out]; rfl)

theorem gate_mapped (here : mapped d who (reach d key addr) = true) : gate who key addr write d =
    match (generalizing := false) (stopAt? (reach d key addr)).bind fun st => if (stopOf d st).tagsDisagree then some st else none with
    | some st => .tags st
    | none => if keyOpens d key (reach d key addr) write then .go else .refused :=
  if_neg (by rw [here]; exact Bool.false_ne_true)

theorem gate_key (here : mapped d who (reach d key addr) = true)
    (agree : ∀ st, stopAt? (reach d key addr) = some st → (stopOf d st).tagsDisagree = false) :
    gate who key addr write d = if keyOpens d key (reach d key addr) write then .go else .refused := by
  rw [gate_mapped here]
  cases stop : stopAt? (reach d key addr) with
  | none => rfl
  | some st =>
    dsimp only [Option.bind_some]
    rw [agree st stop]
    rfl

theorem gate_tags {st : Nat} (here : mapped d who (reach d key addr) = true) (stop : stopAt? (reach d key addr) = some st)
    (disagree : (stopOf d st).tagsDisagree = true) : gate who key addr write d = .tags st := by
  rw [gate_mapped here, stop]
  dsimp only [Option.bind_some]
  rw [disagree]
  rfl

/-- A gate that finds the tags apart has found its address mapped. -/
theorem mapped_of_tags {st : Nat} (tags : gate who key addr write d = .tags st) : mapped d who (reach d key addr) = true := by
  refine eq_true_of_ne_false fun out => ?_
  rw [gate_unmapped out] at tags
  cases tags

theorem mapped_local {n : Nat} (home : localCore? addr = some n) : mapped d who addr = true ↔ isFenced d n = false ∧
    ((∃ c : Fin 64, who = .core c ∧ c.val = n) ∨ ∃ ch, who = .dma ch ∧ ch < 256 ∧ n / 4 = ch / 16) := by
  unfold mapped
  rw [home]
  cases who with
  | core c => simp
  | dma ch => simp
  | fumarole => simp
  | device => simp

theorem keyOpens_partition {p : Fin 16} {g : Nat} (segment : segmentAt? addr = some g) :
    keyOpens d (.partition p) addr write = true ↔ (segOf d g).valid = true ∧ (segOf d g).device = false ∧
      ((segOf d g).owner = p.val ∨ write = false ∧ (segOf d g).readMask.getLsbD p.val = true) := by
  unfold keyOpens
  rw [segment]
  simp [and_assoc]

end

/-! ### A request at its stop -/

section
variable {r : Request} {s : State} {key : Key} {u : Option Time} {e : Dev}

theorem ask_stopped {g : Gate} (closed : gate r.who (keyOf s.dev r.who) r.addr r.data.isSome s.dev = g) (stop : g ≠ .go) :
    ask r s = onDev (gateStop g r.who r.addr) s := by
  unfold ask
  dsimp only
  rw [closed]
  cases g with
  | go => exact absurd rfl stop
  | refused => rfl
  | tags st => rfl

/-- What a request costs. -/
def costOf (r : Request) (d : Dev) : Nat :=
  match r.data with
  | some b => writeCost d r.addr b.length
  | none => 1

theorem ask_opens (hkey : key = keyOf s.dev r.who) (opens : gate r.who key r.addr r.data.isSome s.dev = .go) : ask r s =
    let x := takeTokens r.who key r.addr (costOf r s.dev) s.dev
    match x.1 with
    | some t =>
      if t ≤ x.2.geyser.now then perform { r with bucket := bucketNo key } { s with dev := x.2 }
      else onDev (modSched fun y => { y with requests := y.requests ++ [{ r with bucket := bucketNo key, due := t }] }) { s with dev := x.2 }
    | none => { s with dev := x.2 } := by
  subst hkey
  unfold ask costOf
  dsimp only
  rw [opens] <;> rfl

section
variable (hkey : key = keyOf s.dev r.who) (opens : gate r.who key r.addr r.data.isSome s.dev = .go)
  (tokens : takeTokens r.who key r.addr (costOf r s.dev) s.dev = (u, e))
include hkey opens tokens

theorem ask_blocked (none_ : u = none) : ask r s = { s with dev := e } := by
  rw [ask_opens hkey opens, tokens, none_]

theorem ask_waits {v : Time} (some_ : u = some v) (later : e.geyser.now < v) : ask r s =
    { s with dev := modSched (fun x => { x with requests := x.requests ++ [{ r with bucket := bucketNo key, due := v }] }) e } := by
  rw [ask_opens hkey opens, tokens, some_]
  exact if_neg (Nat.not_le.mpr later)

theorem ask_performs {v : Time} (some_ : u = some v) (come : v ≤ e.geyser.now) :
    ask r s = perform { r with bucket := bucketNo key } { s with dev := e } := by
  rw [ask_opens hkey opens, tokens, some_]
  exact if_pos come

end
end

/-! ### The two commands -/

section
variable {t : Time} {who : Accessor} {addr : Nat} {s a b : State} {v : List Byte}

/-- The device's own accesses, and the scrub engine's. -/
def stops (who : Accessor) : Prop := who = .device ∨ who = .fumarole

/-- The request of a read. -/
def readRequest (who : Accessor) (addr : Nat) : Request := { who := who, addr := addr, bucket := 16, due := 0 }

theorem exec_read (ha : a = onDev (modCtl fun m => { m with lastRead := none }) (atMem t s)) :
    exec (.memoryRead t who (addr / 64) (addr % 64)) s = match who, mapped a.dev who addr with
      | .device, false => .fault (.unmapped addr)
      | .fumarole, false => .fault (.unmapped addr)
      | _, _ => .next (zeroCores (ask (readRequest who addr) a)) := by
  subst ha
  show execMemoryRead t who (addr / 64) (addr % 64) s = _
  unfold execMemoryRead
  rw [Nat.div_add_mod]
  rfl

theorem exec_write (hb : b = atMem t s) : exec (.memoryWrite t who (addr / 64) (addr % 64) v) s = match who, mapped b.dev who addr with
      | .device, false => .fault (.unmapped addr)
      | .fumarole, false => .fault (.unmapped addr)
      | _, _ => .next (zeroCores ((cutLines (v.length / 64 + 2) addr v).foldl (fun s e =>
          ask { readRequest who e.1 with data := some e.2 } s) b)) := by
  subst hb
  show execMemoryWrite t who (addr / 64) (addr % 64) v s = _
  unfold execMemoryWrite
  rw [Nat.div_add_mod]
  rfl

theorem exec_read_fault (who_ : stops who) (out : mapped (atMem t s).dev who addr = false) :
    exec (.memoryRead t who (addr / 64) (addr % 64)) s = .fault (.unmapped addr) := by
  have out' : mapped (onDev (modCtl fun m => { m with lastRead := none }) (atMem t s)).dev who addr = false := out
  rw [exec_read rfl, out']
  obtain rfl | rfl := who_ <;> rfl

theorem exec_write_fault (who_ : stops who) (out : mapped (atMem t s).dev who addr = false) :
    exec (.memoryWrite t who (addr / 64) (addr % 64) v) s = .fault (.unmapped addr) := by
  rw [exec_write rfl, out]
  obtain rfl | rfl := who_ <;> rfl

/-- An access that does not stop. -/
def runs (who : Accessor) (addr : Nat) (d : Dev) : Prop := stops who → mapped d who addr = true

theorem exec_read_runs (ha : a = onDev (modCtl fun m => { m with lastRead := none }) (atMem t s)) (runs_ : runs who addr a.dev) :
    exec (.memoryRead t who (addr / 64) (addr % 64)) s = .next (zeroCores (ask (readRequest who addr) a)) := by
  rw [exec_read ha]
  cases who with
  | core n => rfl
  | dma ch => rfl
  | fumarole => rw [runs_ (.inr rfl)]
  | device => rw [runs_ (.inl rfl)]

/-- A write within one line is one request. -/
theorem cutLines_one (within : addr % 64 + v.length ≤ 64) (some_ : v ≠ []) : cutLines (v.length / 64 + 2) addr v = [(addr, v)] := by
  have short : v.length ≤ 64 - addr % 64 := by omega
  have filled : v.isEmpty = false := by simpa using some_
  unfold cutLines
  rw [filled]
  dsimp only
  rw [List.take_of_length_le short, List.drop_eq_nil_of_le short]
  rfl

theorem exec_write_runs (hb : b = atMem t s) (within : addr % 64 + v.length ≤ 64) (some_ : v ≠ []) (runs_ : runs who addr b.dev) :
    exec (.memoryWrite t who (addr / 64) (addr % 64) v) s =
      .next (zeroCores (ask { readRequest who addr with data := some v } b)) := by
  rw [exec_write hb, cutLines_one within some_]
  cases who with
  | core n => rfl
  | dma ch => rfl
  | fumarole => rw [runs_ (.inr rfl)]; rfl
  | device => rw [runs_ (.inl rfl)]; rfl

theorem runs_core (n : Fin 64) (addr : Nat) (d : Dev) : runs (.core n) addr d := by
  rintro (h | h) <;> cases h

theorem runs_dma (ch addr : Nat) (d : Dev) : runs (.dma ch) addr d := by
  rintro (h | h) <;> cases h

theorem runs_of_tags {d : Dev} {write : Bool} {st : Nat} (tags : gate who (keyOf d who) addr write d = .tags st) : runs who addr d := by
  have here := mapped_of_tags tags
  rintro (rfl | rfl)
  · exact here
  · exact here

end

/-! ### What a performed read gives (R273 to R278, R287) -/

section
variable {who : Accessor} {key : Key} {addr k : Nat} {a : State} {e : Dev}

/-- The words of a memory whose device has taken tokens read as before. -/
structure readReady (who : Accessor) (key : Key) (addr k : Nat) (a : State) (e : Dev) : Prop where
  tokens : onlyTokens a.dev e
  held : key = keyOf a.dev who
  place : k = reach a.dev key addr / 8
  opens : gate who key addr false a.dev = .go

theorem perform_read {r : Request} {s : State} {v : Option W64} {g : State} (read : r.data = none)
    (h : accessRead r.who (keyOf s.dev r.who) r.addr s = (v, g)) :
    perform r s = onDev (modCtl fun m => { m with lastRead := v }) g := by
  unfold perform
  dsimp only
  rw [read]
  dsimp only
  rw [h]

theorem accessRead_opens (opens : gate who key addr false a.dev = .go) (place : k = reach a.dev key addr / 8) :
    accessRead who key addr a =
      let x := readWord (readerOf who) k a
      match x.1 with
      | .ok w => (some w, x.2.2)
      | .error y => (none, if x.2.1 then x.2.2 else onDev (meetUnusable who (reach a.dev key addr) y) x.2.2) := by
  subst place
  unfold accessRead
  rw [opens] <;> rfl

section
variable (ready : readReady who key addr k a e) {inj : Bool} {g : State}
include ready

theorem readReady.access : accessRead who (keyOf e who) addr { a with dev := e } =
      let x := readWord (readerOf who) k { a with dev := e }
      match x.1 with
      | .ok w => (some w, x.2.2)
      | .error y => (none, if x.2.1 then x.2.2 else onDev (meetUnusable who (reach a.dev key addr) y) x.2.2) := by
  obtain ⟨tokens, held, place, opens⟩ := ready
  rw [tokens.keyOf, ← held, ← tokens.reach]
  exact accessRead_opens ((tokens.gate ..).trans opens) (place.trans (by rw [tokens.reach]))

/-- A read that gives its word. -/
theorem perform_word {w : W64} (word : readWord (readerOf who) k { a with dev := e } = (.ok w, inj, g)) :
    perform { readRequest who addr with bucket := bucketNo key } { a with dev := e } =
      onDev (modCtl fun m => { m with lastRead := some w }) g := by
  refine perform_read (r := { readRequest who addr with bucket := bucketNo key }) rfl (ready.access.trans ?_)
  rw [word]

/-- A read that meets unusable data. -/
theorem perform_unusable {x : Nat} (word : readWord (readerOf who) k { a with dev := e } = (.error x, false, g)) :
    perform { readRequest who addr with bucket := bucketNo key } { a with dev := e } =
      onDev (modCtl fun m => { m with lastRead := none }) (onDev (meetUnusable who (reach a.dev key addr) x) g) := by
  refine perform_read (r := { readRequest who addr with bucket := bucketNo key }) rfl (ready.access.trans ?_)
  rw [word]
  rfl

end

theorem wordValue_clean {m : Mem} (clean : syndAt m k = 0) : wordValue? m k = some (wordAt m k) := by
  unfold wordValue?
  rw [clean]
  rfl

/-- The word code gives the word as stored, or with one bit of it changed. -/
theorem wordValue_near {m : Mem} {w : W64} (value : wordValue? m k = some w) :
    w = wordAt m k ∨ ∃ i < 64, w = wordAt m k ^^^ BitVec.twoPow 64 i := by
  unfold wordValue? at value
  split at value
  · exact .inl (Option.some.inj value).symm
  · exact .inl (Option.some.inj value).symm
  · next i found =>
    refine .inr ⟨i, ?_, (Option.some.inj value).symm⟩
    unfold readSyndrome at found
    split at found
    · cases found
    · split at found
      · cases found
      · split at found
        · next j index =>
          obtain rfl : j = i := WordRead.dataBit.inj found
          exact (List.findIdx?_eq_some_iff_getElem.mp index).1
        · cases found
  · cases value

section
variable {s : State} {reader : Nat}

theorem readWord_check (mode : modeAt s.dev k = .check) (clean : lineClean s.mem (k / 8) = true) :
    readWord reader k s = (.ok (wordAt s.mem k), false, s) := by
  unfold readWord
  dsimp only
  rw [mode]
  exact if_pos clean

/-- Outside CHECK segments the word code answers. -/
theorem readWord_code (mode : modeAt s.dev k ≠ .check) : readWord reader k s =
    match (generalizing := false) wordValue? s.mem k with
    | some w =>
      if syndAt s.mem k = 0 then (.ok w, false, s)
      else if onlyInjected k s then (.ok w, true, onDev (foundInjection k true) s)
      else (.ok w, false, onDev (correctedWord k) s)
    | none =>
      if modeAt s.dev k = .durable then
        let g := decodePage reader k (onlyInjected k s) s
        match wordValue? g.mem k with
        | some w => (.ok w, onlyInjected k s, g)
        | none => (.error (if linePoisoned s.mem (k / 8) then 3 else 2), onlyInjected k s, g)
      else
        let r := if linePoisoned s.mem (k / 8) then 3 else 2
        (.error r, onlyInjected k s, onDev (meetBad r reader k (syndAt s.mem k) (onlyInjected k s)) s) := by
  unfold readWord
  dsimp only
  cases h : modeAt s.dev k with
  | check => exact absurd h mode
  | durable => rfl
  | ephemeral => rfl

theorem readWord_clean (mode : modeAt s.dev k ≠ .check) (clean : syndAt s.mem k = 0) :
    readWord reader k s = (.ok (wordAt s.mem k), false, s) := by
  rw [readWord_code mode, wordValue_clean clean]
  exact if_pos clean

theorem readWord_corrected {w : W64} (mode : modeAt s.dev k ≠ .check) (value : wordValue? s.mem k = some w) (dirty : syndAt s.mem k ≠ 0) :
    readWord reader k s = (.ok w, onlyInjected k s,
      onDev (if onlyInjected k s then foundInjection k true else correctedWord k) s) := by
  rw [readWord_code mode, value]
  refine (if_neg dirty).trans ?_
  cases onlyInjected k s <;> rfl

theorem readWord_decoded {w : W64} {g : State} (mode : modeAt s.dev k = .durable) (lost : wordValue? s.mem k = none)
    (hg : g = decodePage reader k (onlyInjected k s) s) (value : wordValue? g.mem k = some w) :
    readWord reader k s = (.ok w, onlyInjected k s, g) := by
  subst hg
  rw [readWord_code (by rw [mode]; decide), lost]
  refine (if_pos mode).trans ?_
  dsimp only
  rw [value]

theorem readWord_lost {r : Nat} (mode : modeAt s.dev k = .ephemeral) (lost : wordValue? s.mem k = none)
    (real : onlyInjected k s = false) (hr : r = if linePoisoned s.mem (k / 8) then 3 else 2) :
    readWord reader k s = (.error r, false, onDev (meetBad r reader k (syndAt s.mem k) false) s) := by
  subst hr
  rw [readWord_code (by rw [mode]; decide), lost, real]
  exact if_neg (by rw [mode]; decide)

end
end

/-! ### Bytes of a word -/

theorem leNat_byte (l : List Byte) (j : Nat) : leNat l / 256 ^ j % 256 = (l.getD j 0).toNat := by
  induction l generalizing j with
  | nil => simp [leNat]
  | cons b l ih =>
    have small := b.isLt
    cases j with
    | zero =>
      simp only [leNat, Nat.pow_zero, Nat.div_one, List.getD_cons_zero]
      omega
    | succ j =>
      rw [List.getD_cons_succ, ← ih j, Nat.pow_succ', ← Nat.div_div_eq_div_mul]
      simp only [leNat]
      congr 2
      omega

theorem byteOf_toNat (w : W64) (j : Nat) : (byteOf w j).toNat = w.toNat / 256 ^ j % 256 := by
  simp [byteOf, Nat.shiftRight_eq_div_pow, Nat.pow_mul]

/-- A byte of the word that eight bytes spell. -/
theorem byteOf_leNat (l : List Byte) {j : Nat} (small : j < 8) : byteOf (BitVec.ofNat 64 (leNat l)) j = l.getD j 0 := by
  refine BitVec.eq_of_toNat_eq ?_
  rw [byteOf_toNat, ← leNat_byte l j, BitVec.toNat_ofNat]
  generalize leNat l = x
  obtain rfl | rfl | rfl | rfl | rfl | rfl | rfl | rfl : j = 0 ∨ j = 1 ∨ j = 2 ∨ j = 3 ∨ j = 4 ∨ j = 5 ∨ j = 6 ∨ j = 7 := by omega
  all_goals omega

/-! ### What a write leaves of its line (R284) -/

section
variable {m : Mem} {k l o : Nat} {mask : List Bool} {data b : List Byte}

theorem getD_inside {α : Type} {l : List α} {i : Nat} {a : α} (inside : i < l.length) : l.getD i a = l[i] := by
  rw [List.getD_eq_getElem?_getD, List.getElem?_eq_getElem inside]
  rfl

/-- A word of a usable line merges, and its bytes are the new ones where they are written. -/
theorem mergeWord_bytes (clean : syndAt m k = 0) (whole : mask.length = 8) : ∃ w, mergeWord k true m mask data = some w ∧
    ∀ j < 8, byteOf w j = if mask.getD j false then data.getD j 0 else byteOf (wordAt m k) j := by
  have value := wordValue_clean clean
  unfold mergeWord
  split
  · next all_ =>
    refine ⟨_, rfl, fun j small => ?_⟩
    have written : mask.getD j false = true := by
      rw [getD_inside (by omega)]
      exact List.all_eq_true.mp all_ _ (List.getElem_mem _)
    rw [written, byteOf_leNat data small]
    rfl
  · split
    · next none_ =>
      refine ⟨wordAt m k, value, fun j small => ?_⟩
      have kept : mask.getD j false = false := by
        rw [getD_inside (by omega)]
        simpa using List.all_eq_true.mp none_ _ (List.getElem_mem (by omega : j < mask.length))
      rw [kept]
      rfl
    · refine ⟨_, (if_neg (by decide)).trans (by rw [value]; rfl), fun j small => ?_⟩
      rw [byteOf_leNat _ small]
      simp [List.getD_eq_getElem?_getD, small]

/-- Which bytes of word `i` of a line a write covers, and with what. -/
def writeMask (o n i : Nat) : List Bool := (List.range 8).map fun j => decide (o ≤ 8 * i + j) && decide (8 * i + j < o + n)
def writeData (o : Nat) (b : List Byte) (i : Nat) : List Byte := (List.range 8).map fun j => b.getD (8 * i + j - o) 0

/-- Word `i` of a line once a write is merged into it. -/
def mergedWord (l o : Nat) (b : List Byte) (m : Mem) (i : Nat) : W64 :=
  (mergeWord (8 * l + i) true m (writeMask o b.length i) (writeData o b i)).getD 0

section
variable {i : Nat} (clean : syndAt m (8 * l + i) = 0)
include clean

theorem mergedWord_eq : mergeWord (8 * l + i) true m (writeMask o b.length i) (writeData o b i) = some (mergedWord l o b m i) := by
  obtain ⟨w, merges, -⟩ := mergeWord_bytes (mask := writeMask o b.length i) (data := writeData o b i) clean (by simp [writeMask])
  unfold mergedWord
  rw [merges]
  rfl

theorem mergedWord_bytes {j : Nat} (small : j < 8) : byteOf (mergedWord l o b m i) j =
    if o ≤ 8 * i + j ∧ 8 * i + j < o + b.length then b.getD (8 * i + j - o) 0 else byteOf (wordAt m (8 * l + i)) j := by
  obtain ⟨w, merges, bytes⟩ := mergeWord_bytes (mask := writeMask o b.length i) (data := writeData o b i) clean (by simp [writeMask])
  have same : mergedWord l o b m i = w := by
    unfold mergedWord
    rw [merges]
    rfl
  rw [same, bytes j small]
  simp [writeMask, writeData, List.getD_eq_getElem?_getD, small]

end

theorem mem_lineWords : k ∈ lineWords l ↔ 8 * l ≤ k ∧ k < 8 * l + 8 := by
  simp only [lineWords, List.mem_map, List.mem_range]
  constructor
  · rintro ⟨i, small, rfl⟩
    omega
  · rintro ⟨low, high⟩
    exact ⟨k - 8 * l, by omega, by omega⟩

/-- Words that all merge make a line. -/
theorem foldr_merged {f : Nat → Option W64} {g : Nat → W64} {l : List Nat} (merges : ∀ i ∈ l, f i = some (g i)) :
    l.foldr (fun i acc => match f i, acc with
      | some w, some ws => some (w :: ws)
      | _, _ => none) (some []) = some (l.map g) := by
  induction l with
  | nil => rfl
  | cons i l ih =>
    rw [List.foldr_cons, ih fun i mem => merges i (List.mem_cons_of_mem _ mem), merges i List.mem_cons_self]
    rfl

/-- A clean line takes every write. -/
theorem mergeLine_clean (clean : ∀ k ∈ lineWords l, syndAt m k = 0) (check : Bool) :
    mergeLine l o b check m = some ((List.range 8).map (mergedWord l o b m)) := by
  have usable : (!check || lineClean m l) = true := by
    have line : lineClean m l = true := List.all_eq_true.mpr fun k mem => beq_iff_eq.mpr (clean k mem)
    rw [line, Bool.or_true]
  unfold mergeLine
  dsimp only
  rw [usable]
  refine foldr_merged (f := fun i => mergeWord (8 * l + i) true m (writeMask o b.length i) (writeData o b i)) fun i mem => ?_
  have small := List.mem_range.mp mem
  exact mergedWord_eq (clean _ (mem_lineWords.mpr ⟨by omega, by omega⟩))

/-- The first words of a line stored. -/
def putWords (l : Nat) (g : Nat → W64) (n : Nat) (m : Mem) : Mem :=
  (List.range n).foldl (fun m i => putWord (8 * l + i) (g i) 0 m) m

theorem putLine_eq (l : Nat) (g : Nat → W64) (m : Mem) : putLine l ((List.range 8).map g) m = putWords l g 8 m := by
  unfold putLine putWords lineWords
  rw [List.zip_map', List.foldl_map]

theorem putWords_succ (l : Nat) (g : Nat → W64) (n : Nat) (m : Mem) :
    putWords l g (n + 1) m = putWord (8 * l + n) (g n) 0 (putWords l g n m) := by
  unfold putWords
  rw [List.range_succ, List.foldl_append]
  rfl

theorem putWords_wf (g : Nat → W64) (n : Nat) (form : m.wf = true) : (putWords l g n m).wf = true := by
  induction n with
  | zero => exact form
  | succ n ih =>
    rw [putWords_succ]
    exact putWord_wf _ _ _ ih

theorem putWords_parity (g : Nat → W64) (n : Nat) :
    (putWords l g n m).parity = m.parity ∧ (putWords l g n m).psynd = m.psynd := by
  induction n with
  | zero => exact ⟨rfl, rfl⟩
  | succ n ih =>
    rw [putWords_succ]
    exact ih

theorem wordAt_putWord (k n : Nat) (w : W64) (s : Byte) (form : m.wf = true) :
    wordAt (putWord n w s m) k = if k = n then w else wordAt m k :=
  kget_kset 0 m.words n k w ((Mem.wf_iff m).mp form).1

theorem syndAt_putWord (k n : Nat) (w : W64) (s : Byte) (form : m.wf = true) :
    syndAt (putWord n w s m) k = if k = n then s else syndAt m k :=
  kget_kset 0 m.synd n k s ((Mem.wf_iff m).mp form).2.1

theorem wordAt_putWords (g : Nat → W64) (n k : Nat) (form : m.wf = true) :
    wordAt (putWords l g n m) k = if 8 * l ≤ k ∧ k < 8 * l + n then g (k - 8 * l) else wordAt m k := by
  induction n with
  | zero => exact (if_neg (by omega)).symm
  | succ n ih =>
    rw [putWords_succ, wordAt_putWord _ _ _ _ (putWords_wf g n form), ih]
    by_cases last : k = 8 * l + n
    · rw [if_pos last, if_pos (by omega), last, Nat.add_sub_cancel_left]
    · rw [if_neg last]
      exact ite_of_iff (by omega)

theorem syndAt_putWords (g : Nat → W64) (n k : Nat) (form : m.wf = true) :
    syndAt (putWords l g n m) k = if 8 * l ≤ k ∧ k < 8 * l + n then 0 else syndAt m k := by
  induction n with
  | zero => exact (if_neg (by omega)).symm
  | succ n ih =>
    rw [putWords_succ, syndAt_putWord _ _ _ _ (putWords_wf g n form), ih]
    by_cases last : k = 8 * l + n
    · rw [if_pos last, if_pos (by omega)]
    · rw [if_neg last]
      exact ite_of_iff (by omega)

end

section
variable {reader l o : Nat} {b : List Byte} {s : State}

/-- A write into a clean line outside DURABLE segments. -/
theorem writeLine_clean (mode : modeAt s.dev (8 * l) ≠ .durable) (clean : ∀ k ∈ lineWords l, syndAt s.mem k = 0) :
    writeLine reader l o b s = (none,
      { s with mem := putWords l (mergedWord l o b s.mem) 8 s.mem, dev := endInjection l (clearMark l s.dev) }) := by
  have nothing : ∀ p : Nat → Bool, (lineWords l).filter (fun k => syndAt s.mem k != 0 && p k) = [] := by
    intro p
    refine List.filter_eq_nil_iff.mpr fun k mem => ?_
    rw [clean k mem]
    exact Bool.false_ne_true
  have fixed : (if modeAt s.dev (8 * l) = .check then [] else (lineWords l).filter fun k =>
      syndAt s.mem k != 0 && !isBad s.mem k && (modeAt s.dev (8 * l) == .durable || b.length < 64)) = [] := by
    split
    · rfl
    · have none_ := nothing fun k => !isBad s.mem k && (modeAt s.dev (8 * l) == .durable || b.length < 64)
      simpa only [Bool.and_assoc] using none_
  unfold writeLine
  dsimp only
  rw [if_neg mode, fixed]
  dsimp only [onDev, List.foldl_nil]
  rw [mergeLine_clean clean]
  dsimp only
  rw [if_neg mode, putLine_eq]

end

theorem placeNow_mod (d : Dev) (addr : Nat) : placeNow d addr % 64 = addr % 64 := by
  unfold placeNow
  split <;> omega

theorem reach_mod (d : Dev) (key : Key) (addr : Nat) : reach d key addr % 64 = addr % 64 := by
  cases key with
  | partition p => exact placeNow_mod d addr
  | device => rfl

/-- A write into a clean line is performed. -/
theorem perform_write {who : Accessor} {key : Key} {addr l : Nat} {b : List Byte} {a : State} {e : Dev} (tokens : onlyTokens a.dev e)
    (held : key = keyOf a.dev who) (line : l = reach a.dev key addr / 64) (opens : gate who key addr true a.dev = .go)
    (mode : modeAt a.dev (8 * l) ≠ .durable) (clean : ∀ k ∈ lineWords l, syndAt a.mem k = 0) :
    perform { readRequest who addr with data := some b, bucket := bucketNo key } { a with dev := e } =
      { a with mem := putWords l (mergedWord l (addr % 64) b a.mem) 8 a.mem, dev := endInjection l (clearMark l e) } := by
  have written := writeLine_clean (reader := readerOf who) (o := addr % 64) (b := b) (s := { a with dev := e })
    (by rw [tokens.modeAt]; exact mode) clean
  show (accessWrite who (keyOf e who) addr b { a with dev := e }).2 = _
  unfold accessWrite
  dsimp only
  rw [tokens.keyOf, ← held, tokens.gate, opens]
  dsimp only
  rw [tokens.reach, reach_mod, ← line, written]

/-! ### Buckets and the order of service (R242, R247) -/

section
variable {t cost : Nat} {b x : Bucket} (past : b.at_ ≤ t) (hx : x = refill t b)
include past hx

theorem chargeBucket_refilled : chargeBucket t cost b =
    if x.level ≥ 4294967296 * cost then ({ x with level := x.level - 4294967296 * cost }, some t)
    else if b.rate = 0 ∨ b.depth < cost then ({ x with waited := true }, none)
    else ({ x with level := 0, at_ := t + ceilDiv ((4294967296 * cost - x.level) * 1000) b.rate, waited := true },
      some (t + ceilDiv ((4294967296 * cost - x.level) * 1000) b.rate)) := by
  have now : x.at_ = t := by rw [hx]; rfl
  have rate : x.rate = b.rate := by rw [hx]; rfl
  have depth : x.depth = b.depth := by rw [hx]; rfl
  have idle : (x.waited || decide (t < x.at_)) = x.waited := by
    rw [now, decide_eq_false (Nat.lt_irrefl t), Bool.or_false]
  unfold chargeBucket
  rw [if_neg (Nat.not_lt.mpr past), ← hx]
  dsimp only
  rw [idle, now, rate, depth]

end

section
variable {d : Dev} {r q : Request}

/-- The instant at which a request has its tokens, as a number. -/
def dueOf (r : Request) : Nat := r.due

/-- One request is served no later than another. -/
def servedNoLater (d : Dev) (a b : Request) : Prop := dueOf a < dueOf b ∨ dueOf a = dueOf b ∧ serveRank d a ≤ serveRank d b

theorem servedBefore_iff : servedBefore d r q = true ↔ dueOf r < dueOf q ∨ dueOf r = dueOf q ∧ serveRank d r < serveRank d q := by
  unfold servedBefore
  simp only [Bool.or_eq_true, Bool.and_eq_true, decide_eq_true_eq, beq_iff_eq]
  rfl

theorem servedNoLater_of_before (h : servedBefore d r q = true) : servedNoLater d r q := by
  rw [servedBefore_iff] at h
  unfold servedNoLater
  omega

theorem servedNoLater_of_not_before (h : ¬servedBefore d q r = true) : servedNoLater d r q := by
  rw [servedBefore_iff] at h
  unfold servedNoLater
  omega

theorem servedNoLater_trans {p : Request} (h : servedNoLater d p q) (k : servedNoLater d q r) : servedNoLater d p r := by
  unfold servedNoLater at *
  omega

theorem nextRequest_first (next : nextRequest? d = some r) : (r ∈ d.sched.requests ∧ r.due ≤ d.geyser.now) ∧
    ∀ q ∈ d.sched.requests, q.due ≤ d.geyser.now → servedNoLater d r q := by
  have first : ∀ (l : List Request) (a : Option Request), l.foldl (fun a r => match a with
      | none => some r
      | some b => if servedBefore d r b then some r else some b) a = some r →
      (r ∈ l ∨ a = some r) ∧ ∀ q, q ∈ l ∨ a = some q → servedNoLater d r q := by
    intro l
    induction l with
    | nil =>
      intro a found
      obtain rfl : a = some r := found
      refine ⟨.inr rfl, fun q here => ?_⟩
      obtain rfl := Option.some.inj (here.resolve_left List.not_mem_nil)
      exact .inr ⟨rfl, Nat.le_refl _⟩
    | cons p l ih =>
      intro a found
      obtain ⟨from_, least⟩ := ih _ found
      cases a with
      | none =>
        refine ⟨.inl ?_, fun q here => ?_⟩
        · exact from_.elim (List.mem_cons_of_mem _) fun h => List.mem_cons.mpr (.inl (Option.some.inj h).symm)
        · obtain here | none_ := here
          · obtain rfl | later := List.mem_cons.mp here
            · exact least q (.inr rfl)
            · exact least q (.inl later)
          · cases none_
      | some b =>
        dsimp only at from_ least
        split at from_
        · next before =>
          rw [if_pos before] at least
          have rp := least p (.inr rfl)
          have pb := servedNoLater_of_before before
          refine ⟨from_.elim (fun h => .inl (List.mem_cons_of_mem _ h)) fun h => .inl (List.mem_cons.mpr (.inl (Option.some.inj h).symm)),
            fun q here => ?_⟩
          obtain here | same := here
          · obtain rfl | later := List.mem_cons.mp here
            · exact rp
            · exact least q (.inl later)
          · obtain rfl := Option.some.inj same
            exact servedNoLater_trans rp pb
        · next after =>
          rw [if_neg after] at least
          have rb := least b (.inr rfl)
          refine ⟨from_.imp_left (List.mem_cons_of_mem _), fun q here => ?_⟩
          obtain here | same := here
          · obtain rfl | later := List.mem_cons.mp here
            · exact servedNoLater_trans rb (servedNoLater_of_not_before after)
            · exact least q (.inl later)
          · exact least q (.inr same)
  obtain ⟨from_, least⟩ := first _ none next
  obtain ⟨mem, come⟩ := List.mem_filter.mp (from_.resolve_right nofun)
  exact ⟨⟨mem, of_decide_eq_true come⟩, fun q here due => least q (.inl (List.mem_filter.mpr ⟨here, decide_eq_true due⟩))⟩

theorem serveRank_device (bucket : r.bucket = 16) : serveRank d r = 0 := if_pos bucket

theorem serveRank_partition (bucket : r.bucket ≠ 16) : ∃ c m, c = ((partOf? d r.bucket).map (·.criticality)).getD 3 ∧ m < 16 ∧
    serveRank d r = 1 + 16 * c + m :=
  ⟨_, (r.bucket + 15 - kget 15 d.sched.turn ((stopAt? r.addr).getD 24)) % 16, rfl, Nat.mod_lt _ (by decide), if_neg bucket⟩

/-- The device's requests are served first, then those of the lowest criticality number. -/
theorem serveRank_order (le : serveRank d r ≤ serveRank d q) : (q.bucket = 16 → r.bucket = 16) ∧
    ∀ x y, r.bucket ≠ 16 → q.bucket ≠ 16 → partOf? d r.bucket = some x → partOf? d q.bucket = some y → x.criticality ≤ y.criticality := by
  refine ⟨fun device => ?_, fun x y rp qp hx hy => ?_⟩
  · refine Decidable.byContradiction fun rp => ?_
    obtain ⟨c, m, -, -, rank⟩ := serveRank_partition (d := d) rp
    rw [serveRank_device device] at le
    omega
  · obtain ⟨c, m, hc, hm, rank⟩ := serveRank_partition (d := d) rp
    obtain ⟨c', m', hc', hm', rank'⟩ := serveRank_partition (d := d) qp
    rw [hx] at hc
    rw [hy] at hc'
    dsimp only [Option.map_some, Option.getD_some] at hc hc'
    omega

end

/-! ### Halts and refusals (R125, R291) -/

theorem haltChannel_halted {ch reason addr : Nat} {d : Dev} (halted : (dmaOf d ch).halted = true) : haltChannel ch reason addr d = d :=
  if_pos halted

theorem haltChannel_halts {ch reason addr : Nat} {d e : Dev} (runs_ : (dmaOf d ch).halted = false)
    (he : e = modDma ch (fun c => { c with halted := true, reason := reason, haltAddr := addr, busy := false }) d) :
    haltChannel ch reason addr d = if (dmaOf d ch).busy = true ∧ ch < 256
      then trapOn (dmaOf d ch).core { kind := if reason = 1 then 5 else 4, addr := addr } e else e := by
  subst he
  refine (if_neg (by rw [runs_]; exact Bool.false_ne_true)).trans ?_
  exact ite_of_iff (by rw [Bool.and_eq_true, decide_eq_true_eq])

/-! ### O33 -/

section
variable {t : Time} {who : Accessor} {addr : Nat} {s a b : State} {v : List Byte}

/-- A read that its gate stops. -/
theorem read_stopped {g : Gate} (ha : a = onDev (modCtl fun m => { m with lastRead := none }) (atMem t s)) (runs_ : runs who addr a.dev)
    (closed : gate who (keyOf a.dev who) addr false a.dev = g) (stop : g ≠ .go) :
    exec (.memoryRead t who (addr / 64) (addr % 64)) s = .next (cleared a (gateStop g who addr a.dev)) :=
  (exec_read_runs ha runs_).trans (by rw [ask_stopped (r := readRequest who addr) closed stop]; rfl)

/-- A write within one line that its gate stops. -/
theorem write_stopped {g : Gate} (hb : b = atMem t s) (within : addr % 64 + v.length ≤ 64) (some_ : v ≠ []) (runs_ : runs who addr b.dev)
    (closed : gate who (keyOf b.dev who) addr true b.dev = g) (stop : g ≠ .go) :
    exec (.memoryWrite t who (addr / 64) (addr % 64) v) s = .next (cleared b (gateStop g who addr b.dev)) :=
  (exec_write_runs hb within some_ runs_).trans
    (by rw [ask_stopped (r := { readRequest who addr with data := some v }) closed stop]; rfl)

end

/-- Settles O33: the checks, then what a request with its tokens reads or writes, then the buckets and the order of service. -/
theorem memoryAccess : Obligations.MemoryAccess := by
  refine ⟨?_, ?_, ?_, ?_, ?_, ?_, ?_, ?_, ?_, ?_⟩
  · exact fun t who addr s stops_ out => ⟨exec_read_fault stops_ out, fun b => exec_write_fault stops_ out⟩
  · exact fun d who key addr write => ⟨gate_unmapped, gate_key, fun st here stop disagree => gate_tags here stop disagree,
      fun n home => mapped_local home⟩
  · exact fun d p addr write g segment => ⟨keyOpens_partition segment, rfl⟩
  · intro t n addr s a b v hb within some_ ha
    have ha' : a = onDev (modCtl fun m => { m with lastRead := none }) (atMem t s) := hb ▸ ha
    refine ⟨fun closed => read_stopped ha' (runs_core _ _ _) closed nofun, fun closed => write_stopped hb within some_ (runs_core _ _ _) closed nofun,
      fun ch closed => read_stopped ha' (runs_dma _ _ _) closed nofun, fun ch closed => write_stopped hb within some_ (runs_dma _ _ _) closed nofun,
      fun who st closed => read_stopped ha' (runs_of_tags closed) closed nofun,
      fun who st closed => write_stopped hb within some_ (runs_of_tags closed) closed nofun⟩
  · exact fun ch reason addr d => ⟨haltChannel_halted, fun runs_ e he => haltChannel_halts runs_ he⟩
  · intro t who addr k key s a u e ha hkey hk here opens tokens
    have step := exec_read_runs (who := who) ha fun _ => here
    subst hkey
    have kept : onlyTokens a.dev e := by
      have h := takeTokens_tokens who (keyOf a.dev who) addr 1 a.dev
      rwa [tokens] at h
    have ready : readReady who (keyOf a.dev who) addr k a e := ⟨kept, rfl, hk, opens⟩
    refine ⟨fun none_ => ?_, fun v some_ later => ?_, fun v some_ come => ?_⟩
    · rw [step, ask_blocked (r := readRequest who addr) rfl opens tokens none_]
      rfl
    · rw [step, ask_waits (r := readRequest who addr) rfl opens tokens some_ later]
      rfl
    · have answers {g : State} (h : perform { readRequest who addr with bucket := bucketNo (keyOf a.dev who) } { a with dev := e } = g) :
          exec (.memoryRead t who (addr / 64) (addr % 64)) s = .next (zeroCores g) :=
        step.trans (congrArg (fun g => Host.Outcome.next (zeroCores g))
          ((ask_performs (r := readRequest who addr) rfl opens tokens some_ come).trans h))
      have mode := kept.modeAt k
      have injected := kept.onlyInjected (k := k) rfl
      refine ⟨?_, fun w other value dirty => ?_, fun w g durable lost hg value => ?_, fun r ephemeral lost real hr => ?_⟩
      · rintro (⟨other, clean⟩ | ⟨check, clean⟩)
        · exact answers (perform_word ready (readWord_clean (by rw [mode]; exact other) clean))
        · exact answers (perform_word ready (readWord_check (by rw [mode]; exact check) clean))
      · have word := readWord_corrected (reader := readerOf who) (s := { a with dev := e }) (by rw [mode]; exact other) value dirty
        rw [injected] at word
        refine (answers (perform_word ready word)).trans ?_
        cases onlyInjected k a <;> rfl
      · exact answers (perform_word ready (readWord_decoded (by rw [mode]; exact durable) lost (by rw [injected]; exact hg) value))
      · exact answers (perform_unusable ready (readWord_lost (by rw [mode]; exact ephemeral) lost (injected.trans real) hr))
  · exact fun m k => ⟨wordValue_clean, fun w => wordValue_near⟩
  · intro t who addr o l b key s a u e ha hkey hl ho here some_ within opens tokens
    subst hkey ho
    have step := exec_write_runs (who := who) ha within some_ fun _ => here
    have kept : onlyTokens a.dev e := by
      have h := takeTokens_tokens who (keyOf a.dev who) addr (writeCost a.dev addr b.length) a.dev
      rwa [tokens] at h
    refine ⟨fun none_ => ?_, fun v some_ later => ?_, fun v some_ come mode clean form => ?_⟩
    · rw [step, ask_blocked (r := { readRequest who addr with data := some b }) rfl opens tokens none_]
      rfl
    · rw [step, ask_waits (r := { readRequest who addr with data := some b }) rfl opens tokens some_ later]
      rfl
    · refine ⟨putWords l (mergedWord l (addr % 64) b a.mem) 8 a.mem, ?_, fun k out => ?_, fun k mem => ?_,
        (putWords_parity _ 8).1, (putWords_parity _ 8).2, fun i small j small' => ?_⟩
      · exact step.trans (congrArg (fun g => Host.Outcome.next (zeroCores g))
          ((ask_performs (r := { readRequest who addr with data := some b }) rfl opens tokens some_ come).trans
            (perform_write kept rfl hl opens mode clean)))
      · have outside := (not_congr mem_lineWords).mp out
        exact ⟨(wordAt_putWords _ 8 k form).trans (if_neg outside), (syndAt_putWords _ 8 k form).trans (if_neg outside)⟩
      · exact (syndAt_putWords _ 8 k form).trans (if_pos (mem_lineWords.mp mem))
      · rw [wordAt_putWords _ 8 _ form, if_pos (by omega), Nat.add_sub_cancel_left]
        exact mergedWord_bytes (clean _ (mem_lineWords.mpr ⟨by omega, by omega⟩)) small'
  · intro t cost b x past hx
    have charged := chargeBucket_refilled (cost := cost) past hx
    refine ⟨fun enough => charged.trans (if_pos enough), fun short never => ?_, fun due short rate depth hdue => ?_⟩
    · exact (charged.trans (if_neg (Nat.not_le.mpr short))).trans (if_pos never)
    · subst hdue
      exact (charged.trans (if_neg (Nat.not_le.mpr short))).trans (if_neg (not_or.mpr ⟨rate, Nat.not_lt.mpr depth⟩))
  · intro d r next
    obtain ⟨here, first⟩ := nextRequest_first next
    refine ⟨here.1, here.2, fun q mem due => ⟨?_, fun same => ?_⟩⟩
    · exact (first q mem due).elim Nat.le_of_lt fun h => Nat.le_of_eq h.1
    · obtain before | ⟨-, rank⟩ := first q mem due
      · exact absurd same (Nat.ne_of_lt before)
      · exact serveRank_order rank

end Sys2Proof.Machine
end

section
/-! Windows of the frame tables and runs of kernels (08 R204 to R210, 10 R252 to R255, 04 R117 to R121): O24. -/

namespace Sys2Proof.Machine

open Sys2Proof

/-! ### A window opens on its cores (R252, R427) -/

/-- What a core holds of a window that opens. -/
def openedWindow (w : Window) (opens : Time) (d : Dev) : CoreWindow :=
  { partition := w.partition, kind := w.kind, opens := opens, closes := opens + ns w.length, ready := afterSteps d opens 1024,
    donate := w.donate }

/-- A window opens on one core. -/
def openOn (w : Window) (opens : Time) (d : Dev) (c : Nat) : Dev :=
  if isFenced d c then d
  else
    let d := releaseWd c (wipeCore c (closeCore c d))
    modCore c (fun k => { k with window := some (openedWindow w opens d) }) d

/-- The cores of a cluster that a window names. -/
def windowCores (cluster : Nat) (w : Window) : List Nat := ((List.range 4).filter fun i => w.mask.testBit i).map (4 * cluster + ·)

theorem windowCores_nodup (cluster : Nat) (w : Window) : (windowCores cluster w).Nodup :=
  List.pairwise_map.mpr ((List.Pairwise.filter _ List.nodup_range).imp fun apart same => apart (Nat.add_left_cancel same))

/-- A device on whose cores a window has opened. -/
def onlyOpens (d e : Dev) : Prop := e = { d with
  cores := { d.cores with core := e.cores.core, signals := e.cores.signals }, watch := { d.watch with uwd := e.watch.uwd } }

theorem onlyOpens_trans {a b c : Dev} (h : onlyOpens a b) (k : onlyOpens b c) : onlyOpens a c := by
  unfold onlyOpens at *
  rw [k, h]

theorem releaseWd_opens (c : Nat) (d : Dev) : onlyOpens d (releaseWd c d) := by
  unfold releaseWd
  dsimp only
  split <;> rfl

theorem coreOf_releaseWd (c n : Nat) (d : Dev) : coreOf (releaseWd c d) n = coreOf d n := by
  unfold releaseWd
  dsimp only
  split <;> rfl

theorem uwdOf_releaseWd {c : Nat} {d : Dev} (held : (uwdOf d c).state = .held) :
    uwdOf (releaseWd c d) c = { uwdOf d c with state := .running, last := d.geyser.now } := by
  unfold releaseWd
  rw [if_pos held, uwdOf_modUwd]

theorem uwdOf_releaseWd_ne {c n : Nat} (d : Dev) (other : n ≠ c) : uwdOf (releaseWd c d) n = uwdOf d n := by
  unfold releaseWd
  dsimp only
  split
  · exact uwdOf_modUwd_ne d _ other
  · rfl

section
variable {w : Window} {opens : Time} {d : Dev} {c : Nat}

theorem openOn_fenced (fenced : isFenced d c = true) : openOn w opens d c = d := if_pos fenced

theorem closeCore_none (none_ : (coreOf d c).window = none) : closeCore c d = d := by
  unfold closeCore
  rw [none_]

theorem openOn_live (live : isFenced d c = false) (none_ : (coreOf d c).window = none) : openOn w opens d c =
    modCore c (fun k => { k with window := some (openedWindow w opens (releaseWd c (wipeCore c d))) }) (releaseWd c (wipeCore c d)) := by
  unfold openOn
  rw [live, closeCore_none none_]
  rfl

theorem openOn_opens (none_ : (coreOf d c).window = none) : onlyOpens d (openOn w opens d c) := by
  cases live : isFenced d c with
  | true =>
    rw [openOn_fenced live]
    rfl
  | false =>
    rw [openOn_live live none_]
    exact onlyOpens_trans (by rfl) (onlyOpens_trans (releaseWd_opens c (wipeCore c d)) (by rfl))

theorem coreOf_openOn (live : isFenced d c = false) (none_ : (coreOf d c).window = none) :
    coreOf (openOn w opens d c) c = { wipedCore (coreOf d c) with window := some (openedWindow w opens d) } := by
  have pace : (releaseWd c (wipeCore c d)).pace = d.pace := by
    rw [releaseWd_opens c (wipeCore c d)]
    rfl
  rw [openOn_live live none_, coreOf_modCore, coreOf_releaseWd, coreOf_wipeCore]
  unfold openedWindow afterSteps
  rw [pace]

theorem coreOf_openOn_ne {n : Nat} (none_ : (coreOf d c).window = none) (other : n ≠ c) : coreOf (openOn w opens d c) n = coreOf d n := by
  cases live : isFenced d c with
  | true => rw [openOn_fenced live]
  | false => rw [openOn_live live none_, coreOf_modCore_ne _ _ other, coreOf_releaseWd, coreOf_wipeCore_ne d other]

theorem uwdOf_openOn (live : isFenced d c = false) (none_ : (coreOf d c).window = none) (held : (uwdOf d c).state = .held) :
    uwdOf (openOn w opens d c) c = { uwdOf d c with state := .running, last := d.geyser.now } := by
  rw [openOn_live live none_]
  exact uwdOf_releaseWd (d := wipeCore c d) held

theorem uwdOf_openOn_ne {n : Nat} (none_ : (coreOf d c).window = none) (other : n ≠ c) : uwdOf (openOn w opens d c) n = uwdOf d n := by
  cases live : isFenced d c with
  | true => rw [openOn_fenced live]
  | false =>
    rw [openOn_live live none_]
    exact uwdOf_releaseWd_ne (wipeCore c d) other

end

/-- What a window leaves once it has opened on some different cores without a window. -/
structure opened (w : Window) (opens : Time) (l : List Nat) (d e : Dev) : Prop where
  frame : onlyOpens d e
  live : ∀ c ∈ l, isFenced d c = false → coreOf e c = { wipedCore (coreOf d c) with window := some (openedWindow w opens d) }
  kept : ∀ c, c ∉ l ∨ isFenced d c = true → coreOf e c = coreOf d c
  released : ∀ c ∈ l, isFenced d c = false → (uwdOf d c).state = .held →
    uwdOf e c = { uwdOf d c with state := .running, last := d.geyser.now }
  other : ∀ c, c ∉ l → uwdOf e c = uwdOf d c

theorem opened_foldl {w : Window} {opens : Time} {l : List Nat} {d : Dev} (different : l.Nodup)
    (none_ : ∀ c ∈ l, (coreOf d c).window = none) : opened w opens l d (l.foldl (openOn w opens) d) := by
  induction l generalizing d with
  | nil => exact ⟨rfl, fun _ here => absurd here List.not_mem_nil, fun _ _ => rfl, fun _ here => absurd here List.not_mem_nil, fun _ _ => rfl⟩
  | cons m l ih =>
    obtain ⟨fresh, rest⟩ := List.nodup_cons.mp different
    have first := none_ m List.mem_cons_self
    have core {n : Nat} (other : n ≠ m) : coreOf (openOn w opens d m) n = coreOf d n := coreOf_openOn_ne first other
    have fence {n : Nat} (other : n ≠ m) : isFenced (openOn w opens d m) n = isFenced d n := congrArg Core.fenced (core other)
    have apart {n : Nat} (here : n ∈ l) : n ≠ m := fun h => fresh (h ▸ here)
    have frame := openOn_opens (w := w) (opens := opens) first
    have then_ := ih (d := openOn w opens d m) rest fun c here => by
      rw [core (apart here)]
      exact none_ c (List.mem_cons_of_mem _ here)
    have window : openedWindow w opens (openOn w opens d m) = openedWindow w opens d := by
      unfold openedWindow afterSteps
      rw [frame]
    have now : (openOn w opens d m).geyser.now = d.geyser.now := by rw [frame]
    refine ⟨onlyOpens_trans frame then_.frame, fun c here live => ?_, fun c out => ?_, fun c here live held => ?_, fun c out => ?_⟩
    · obtain rfl | later := List.mem_cons.mp here
      · exact (then_.kept c (.inl fresh)).trans (coreOf_openOn live first)
      · have h := then_.live c later ((fence (apart later)).trans live)
        rw [core (apart later), window] at h
        exact h
    · by_cases same : c = m
      · subst same
        have fenced := out.resolve_left fun h => h List.mem_cons_self
        refine (then_.kept c (.inl fresh)).trans ?_
        rw [openOn_fenced fenced]
      · exact (then_.kept c (out.imp (fun h k => h (List.mem_cons_of_mem _ k)) (fence same).trans)).trans (core same)
    · obtain rfl | later := List.mem_cons.mp here
      · exact (then_.other c fresh).trans (uwdOf_openOn live first held)
      · have uwd := uwdOf_openOn_ne (w := w) (opens := opens) first (apart later)
        have h := then_.released c later ((fence (apart later)).trans live) (by rw [uwd]; exact held)
        rw [uwd, now] at h
        exact h
    · obtain ⟨same, later⟩ := not_or.mp ((not_congr List.mem_cons).mp out)
      exact (then_.other c later).trans (uwdOf_openOn_ne first same)

section
variable {cluster i : Nat} {w : Window} {q : Partition} {frame : Int} {d : Dev}

theorem openWindow_eq (w : Window) (q : Partition) (frame : Int) (d : Dev) {opens : Time}
    (hopens : opens = ((q.epoch : Int) + frame * us q.majorUs + ns w.start).toNat) : openWindow cluster w q frame d =
      let e := (windowCores cluster w).foldl (openOn w opens) (advance opens d)
      pump (if w.kind = .golden then dueAll w.partition q frame (windowCores cluster w) (starvedAll e) else e) := by
  subst hopens
  rfl

variable (listed : (kget [] d.sched.tables cluster)[i]? = some w) (part : framePart? d cluster w = some q)
include listed part

theorem windowStart_found : windowStart cluster i frame d =
    if !serving d ∨ (d.geyser.now : Int) ≥ q.epoch + frame * us q.majorUs + ns (w.start + w.length) then d
    else openWindow cluster w q frame d := by
  unfold windowStart
  rw [listed]
  dsimp only
  rw [part]

theorem windowStart_closed (other : serving d = false ∨
      (q.epoch : Int) + frame * us q.majorUs + ns (w.start + w.length) ≤ d.geyser.now) : windowStart cluster i frame d = d :=
  (windowStart_found listed part).trans (if_pos (other.imp_left fun h => by rw [h]; rfl))

theorem windowStart_opens (serves : serving d = true)
    (before : (d.geyser.now : Int) < q.epoch + frame * us q.majorUs + ns (w.start + w.length)) :
    windowStart cluster i frame d = openWindow cluster w q frame d := by
  refine (windowStart_found listed part).trans (if_neg ?_)
  rintro (idle | passed)
  · rw [serves] at idle
    exact Bool.false_ne_true idle
  · exact absurd passed (Int.not_le.mpr before)

end

/-! ### A window closes (R207, R252) -/

section
variable {n : Nat} {w : CoreWindow} {d : Dev} (window : (coreOf d n).window = some w)
include window

theorem closeCore_found : closeCore n d = modCore n (fun c => { c with window := none }) (missWaiting n
    (match runOn? d n with
      | some r => overrun r (advance w.closes d)
      | none => advance w.closes d)) := by
  unfold closeCore
  rw [window] <;> rfl

theorem closeCore_idle (none_ : runOn? d n = none) :
    closeCore n d = modCore n (fun c => { c with window := none }) (missWaiting n (advance w.closes d)) := by
  rw [closeCore_found window, none_]

theorem closeCore_overruns {r : Run_} (run : runOn? d n = some r) :
    closeCore n d = modCore n (fun c => { c with window := none }) (missWaiting n (overrun r (advance w.closes d))) := by
  rw [closeCore_found window, run]

end

/-! ### A kernel completes, or is run once more (R204, R205, R252) -/

section
variable {n : Nat} {x : RunUpset} {d : Dev} {r : Run_} {k : Kernel} (run : runOn? d n = some r) (kernel : opKernel? d r.op = some k)
include run kernel

theorem completeOn_found : completeOn n x d = if r.stopped || !runComplete d r k then d
    else match (coreOf d n).window with
      | some w => if runEnds d r w then overrun r d else pump (finishRun r x d)
      | none => pump (finishRun r x d) := by
  unfold completeOn
  rw [run]
  dsimp only
  rw [kernel] <;> rfl

theorem completeOn_unfinished (other : r.stopped = true ∨ runComplete d r k = false) : completeOn n x d = d := by
  rw [completeOn_found run kernel]
  refine if_pos ?_
  obtain h | h := other
  · rw [h]
    rfl
  · rw [h, Bool.not_false, Bool.or_true]

section
variable (runs_ : r.stopped = false) (complete : runComplete d r k = true)
include runs_ complete

theorem completeOn_whole : completeOn n x d = match (coreOf d n).window with
      | some w => if runEnds d r w then overrun r d else pump (finishRun r x d)
      | none => pump (finishRun r x d) := by
  rw [completeOn_found run kernel]
  refine (if_neg ?_).trans rfl
  rw [runs_, complete]
  decide

theorem completeOn_finishes (time : ∀ w, (coreOf d n).window = some w →
      (if r.donated then afterSteps d d.geyser.now 1024 else d.geyser.now) < w.closes) :
    completeOn n x d = pump (finishRun r x d) := by
  rw [completeOn_whole run kernel runs_ complete]
  cases window : (coreOf d n).window with
  | none => rfl
  | some w =>
    refine if_neg fun ends => ?_
    exact absurd (of_decide_eq_true ends) (Nat.not_le.mpr (time w window))

theorem completeOn_overruns {w : CoreWindow} (window : (coreOf d n).window = some w)
    (late : w.closes ≤ (if r.donated then afterSteps d d.geyser.now 1024 else d.geyser.now)) : completeOn n x d = overrun r d := by
  rw [completeOn_whole run kernel runs_ complete, window]
  exact if_pos (decide_eq_true late)

end

theorem rerunOn_starts (stopped : r.stopped = true) (first : r.rerun = false) (serves : serving d = true) : rerunOn n d =
    startRun k { r with stopped := false, rerun := true, outcome := none, nextGroup := 0 }
      (r.cores.foldl (fun d m => modCore m (fun c => { c with
        window := c.window.map fun w => { w with rerunUsed := true } }) d) (endRun { r with donated := false } d)) := by
  unfold rerunOn
  rw [run]
  dsimp only
  rw [kernel]
  refine if_neg ?_
  rw [stopped, first, serves]
  decide

end

theorem runComplete_iff (d : Dev) (r : Run_) (k : Kernel) : runComplete d r k = true ↔ gridGroups k ≤ r.nextGroup ∧
    (∀ n ∈ r.cores, (coreOf d n).bundles = [] ∧ (coreOf d n).store = [] ∧ (coreOf d n).posts = [] ∧
      ∀ e ∈ (coreOf d n).engines, e.2.op = none) ∧
    ∀ e ∈ d.cores.dma, e.2.busy = true → e.2.core ∉ r.cores := by
  unfold runComplete
  simp only [Bool.and_eq_true, decide_eq_true_eq, List.all_eq_true, List.isEmpty_iff, Option.isNone_iff_eq_none,
    Bool.not_eq_true', Bool.and_eq_false_imp, List.contains_eq_mem, decide_eq_false_iff_not, and_assoc]

theorem finishRun_check {r : Run_} {c : W32} {q i : Nat} (work : r.op.work = .check c q i) (x : RunUpset) (d : Dev) :
    finishRun r x d = useOutput c q i x (endRun r d) := by
  unfold finishRun
  rw [work]

theorem finishRun_golden {r : Run_} {i v : W64} {g port : Nat} (work : r.op.work = .golden i v g port) (x : RunUpset) (d : Dev) :
    finishRun r x d = goldenResult i v g r.rerun x (endRun r d) := by
  unfold finishRun
  rw [work]

/-! ### Golden results (R118, R120) -/

section
variable {i v : W64} {ix : Nat} {p : Plan} {g : GoldenEntry} {d : Dev}

/-- A miss that clears leaves the plans' golden entries. -/
theorem goldenEntry_clearMiss : goldenEntry? (clearMiss i v ix d) i v ix = goldenEntry? d i v ix := by
  have found : planOf? (clearMiss i v ix d) i v = (planOf? d i v).map fun l =>
      if l.plan.identifier == i && l.plan.version == v then { l with misses := kput l.misses ix 0 } else l := by
    unfold clearMiss planOf? modPlans
    dsimp only
    rw [List.find?_map]
    refine congrArg (fun f => Option.map _ (d.plans.loaded.find? f)) (funext fun l => ?_)
    dsimp only [Function.comp]
    split <;> rfl
  unfold goldenEntry?
  rw [found]
  cases planOf? d i v with
  | none => rfl
  | some l =>
    dsimp only [Option.map_some, Option.bind_some]
    split <;> rfl

variable {again : Bool} {x : RunUpset} {e : Dev} {stored : List Byte} {root : W256}
  (found : goldenEntry? d i v ix = some (p, g)) (he : e = clearMiss i v ix d)
include found he

theorem goldenResult_found : goldenResult i v ix again x d =
    let e := if again then e else goldenInput i v ix x.root e
    if goldenDigest e p g x = g.outputDigest then e else signal 753 e := by
  subst he
  unfold goldenResult
  rw [found]

variable (hstored : stored = ((blobOf? d i v g.inputBlob.toNat).map (·.bytes)).getD [])
  (hroot : root = x.root.getD (secureRoot (tilesOf (stored.length / 4096 + 1) stored)))
include hstored hroot

theorem goldenInput_found : goldenInput i v ix x.root e = if root = g.inputRoot then e else signal 752 e := by
  have entry : goldenEntry? e i v ix = some (p, g) := by
    rw [he, goldenEntry_clearMiss, found]
  have blob : blobOf? e i v g.inputBlob.toNat = blobOf? d i v g.inputBlob.toNat := by
    rw [he]
    rfl
  unfold goldenInput
  rw [entry]
  dsimp only
  rw [blob, ← hstored, ← hroot]

theorem goldenResult_input (good : again = true ∨ root = g.inputRoot) : goldenResult i v ix again x d =
    if goldenDigest e p g x = g.outputDigest then e else signal 753 e := by
  rw [goldenResult_found found he]
  cases again with
  | true => rfl
  | false =>
    have same := good.resolve_left Bool.false_ne_true
    rw [if_neg Bool.false_ne_true, goldenInput_found found he hstored hroot, if_pos same]

theorem goldenResult_wrongInput (first : again = false) (bad : root ≠ g.inputRoot)
    (output : goldenDigest (signal 752 e) p g x = g.outputDigest) : goldenResult i v ix again x d = signal 752 e := by
  rw [goldenResult_found found he, first, if_neg Bool.false_ne_true, goldenInput_found found he hstored hroot, if_neg bad]
  exact if_pos output

end

/-- Settles O24, by what an opening window leaves of each core and the equation of each end of a run. -/
theorem windowsAndRuns : Obligations.WindowsAndRuns := by
  refine ⟨?_, ?_, ?_, runComplete_iff, ?_, ?_, ?_⟩
  · intro k i frame s w q opens here listed part hopens hhere
    refine ⟨fun other => next_cleared (windowStart_closed listed part other), fun serves before none_ => ?_⟩
    have nodup := windowCores_nodup k.val w
    rw [show windowCores k.val w = here from hhere.symm] at nodup
    have result := opened_foldl (w := w) (opens := opens) (d := advance opens s.dev) nodup none_
    have window := openWindow_eq (cluster := k.val) w q frame s.dev hopens
    rw [show windowCores k.val w = here from hhere.symm] at window
    generalize here.foldl (openOn w opens) (advance opens s.dev) = e at result window
    obtain ⟨shape, live, kept, released, -⟩ := result
    have now : e.geyser = (advance opens s.dev).geyser := by rw [shape]
    refine ⟨_, e, next_cleared ((windowStart_opens listed part serves before).trans window), rfl, ?_, ?_, ?_, ?_, live, kept, ?_⟩
    · rw [now]
      rfl
    · rw [shape]
      rfl
    · rw [shape]
      rfl
    · rw [shape]
      rfl
    · intro c mem unfenced held
      rw [now]
      exact released c mem unfenced held
  · intro k c s n w hn window
    subst hn
    exact ⟨fun none_ => next_cleared (closeCore_idle window none_), fun r run => next_cleared (closeCore_overruns window run)⟩
  · intro t n x s d r k hd run kernel
    subst hd
    have answers {e : Dev} (h : completeOn n.val x (advance t s.dev) = e) : exec (.kernelComplete t n x) s = .next (cleared s e) :=
      next_cleared (f := fun d => completeOn n.val x (advance t d)) h
    exact ⟨fun other => answers (completeOn_unfinished run kernel other),
      fun runs_ complete time => answers (completeOn_finishes run kernel runs_ complete time),
      fun w runs_ complete window late => answers (completeOn_overruns run kernel runs_ complete window late)⟩
  · exact fun r x d => ⟨fun c q i work => finishRun_check work x d, fun i v g port work => finishRun_golden work x d⟩
  · intro i v ix again p g x d e stored root found he hstored hi hv hroot
    rw [← hi, ← hv] at hstored
    refine ⟨fun good same => ?_, fun good wrong => ?_, goldenResult_wrongInput found he hstored hroot⟩
    · exact (goldenResult_input found he hstored hroot good).trans (if_pos same)
    · exact (goldenResult_input found he hstored hroot good).trans (if_neg wrong)
  · intro t n s d r k hd run kernel stopped first serves
    subst hd
    exact next_cleared (f := fun d => rerunOn n.val (advance t d)) (rerunOn_starts run kernel stopped first serves)

end Sys2Proof.Machine
end

section
/-! Signal objects and DMA channels (08 R196 to R199, 09 R215 to R218, 11 R291): what a ready bundle's operation does, and O26. -/

namespace Sys2Proof.Machine

open Sys2Proof

/-! ### The site of a ready bundle -/

/-- What a ready site is: the bundle of its core and slot, which waits for nothing. -/
structure siteAt (core : Fin 64) (slot : Nat) (d : Dev) (x : Site) : Prop where
  atCore : x.core = core
  atSlot : x.slot = slot
  bundle : bundleOf? d core.val slot = some x.bundle
  split : x.split = (coreOf d core.val).split
  waiting : x.bundle.waiting = false

theorem readySite_siteAt {core : Fin 64} {slot : Nat} {d : Dev} {x : Site} (ready : readySite? core slot d = some x) :
    siteAt core slot d x := by
  simp only [readySite?, residentSite?, Option.bind_eq_bind, Option.bind_eq_some_iff] at ready
  obtain ⟨y, ⟨b, bundle, r, run, k, kernel, resident⟩, waits⟩ := ready
  split at resident
  · cases resident
  · split at waits
    · cases waits
    · next free =>
      obtain rfl := Option.some.inj waits
      obtain rfl := Option.some.inj resident
      refine ⟨rfl, rfl, bundle, rfl, eq_false_of_ne_true fun h => free ?_⟩
      have h' : b.waiting = true := h
      simp [h']

/-! ### Retirement -/

section
variable {n slot : Nat} {b : Bundle} {its : List W128} {act : Option Act} {d : Dev}

theorem retireQuiet_split (closing : Bool) : retireQuiet n slot true b its closing act d =
    setBundle n slot b (modCore n (fun c => { c with retired := c.retired + 1 }) d) := rfl

/-- A bundle's window with one more retired instruction. -/
def foldedSig (b : Bundle) (its : List W128) : SigWindow :=
  { b.sig with sig := its.foldl foldItem b.sig.sig, retired := b.sig.retired + 1 }

theorem retireQuiet_closes : retireQuiet n slot false b its true act d =
    closeSig n slot (if b.passB then none else act) { b with sig := foldedSig b its }
      (modCore n (fun c => { c with retired := c.retired + 1 }) d) := rfl

theorem retireQuiet_folds (open_ : b.sig.retired + 1 < 4096) : retireQuiet n slot false b its false act d =
    setBundle n slot { b with sig := foldedSig b its } (modCore n (fun c => { c with retired := c.retired + 1 }) d) :=
  if_neg fun h => Nat.not_le.mpr open_ (of_decide_eq_true ((Bool.false_or _).symm.trans h))

end

section
variable {x : Site} {b : Bundle} {its : List W128} {closing : Bool} {d : Dev}

theorem retireInstr_act {a : Act} (split : x.split = true) : retireInstr x b its closing (some a) d =
    doAct x a (retireQuiet x.core.val x.slot true b its closing (some a) d) := by
  unfold retireInstr
  rw [split]
  rfl

theorem retireInstr_none : retireInstr x b its closing none d = retireQuiet x.core.val x.slot x.split b its closing none d := by
  unfold retireInstr
  rw [ite_self]

theorem retireInstr_paired {act : Option Act} (paired : x.split = false) :
    retireInstr x b its closing act d = retireQuiet x.core.val x.slot false b its closing act d := by
  unfold retireInstr
  rw [paired]
  rfl

theorem mayRetire_split (split : x.split = true) : mayRetire x closing d = true := by
  unfold mayRetire
  rw [split]
  rfl

theorem mayRetire_open (open_ : x.bundle.sig.retired + 1 < 4096) : mayRetire x false d = true := by
  unfold mayRetire
  rw [decide_eq_false (Nat.not_le.mpr open_)]
  simp

theorem mayRetire_room (room : storeRoom (coreOf d x.core.val) x.bundle = true) : mayRetire x closing d = true := by
  unfold mayRetire
  rw [room, Bool.or_true]

end

/-! ### Posts (R197, R199) -/

section
variable {obj k : Nat} {d : Dev}

theorem postSignal_takes (room : (signalOf d obj).count + k ≤ 4294967295) : postSignal obj k d =
    (true, serveSignal obj (signalOf d obj).waiters.length (setSignal obj { signalOf d obj with count := (signalOf d obj).count + k } d)) :=
  if_neg (Nat.not_lt.mpr room)

theorem postSignal_over (over_ : 4294967295 < (signalOf d obj).count + k) : postSignal obj k d = (false, d) := if_pos over_

theorem postNow_takes {core slot : Nat} (room : (signalOf d obj).count + k ≤ 4294967295) : postNow core slot obj k d =
    serveSignal obj (signalOf d obj).waiters.length (setSignal obj { signalOf d obj with count := (signalOf d obj).count + k } d) := by
  unfold postNow
  rw [postSignal_takes room]
  rfl

theorem postNow_over {core slot : Nat} (over_ : 4294967295 < (signalOf d obj).count + k) :
    postNow core slot obj k d = trapOn core { kind := tSignalRange, slot := slot } d := by
  unfold postNow
  rw [postSignal_over over_]
  rfl

theorem serveSignal_serves {fuel n slot : Nat} {rest : List (Nat × Nat × Nat)}
    (waiters : (signalOf d obj).waiters = (n, slot, k) :: rest) (enough : k ≤ (signalOf d obj).count) :
    serveSignal obj (fuel + 1) d =
      serveSignal obj fuel (releaseWaiter n slot obj k (setSignal obj { count := (signalOf d obj).count - k, waiters := rest } d)) := by
  conv => lhs; unfold serveSignal
  dsimp only
  rw [waiters]
  exact if_pos enough

theorem serveSignal_stops {fuel n slot : Nat} {rest : List (Nat × Nat × Nat)}
    (waiters : (signalOf d obj).waiters = (n, slot, k) :: rest) (short : (signalOf d obj).count < k) :
    serveSignal obj (fuel + 1) d = d := by
  unfold serveSignal
  dsimp only
  rw [waiters]
  exact if_neg (Nat.not_le.mpr short)

theorem releaseWaiter_split {n slot : Nat} {b : Bundle} (found : bundleOf? d n slot = some b) (split : (coreOf d n).split = true) :
    releaseWaiter n slot obj k d = setBundle n slot { b with waiting := false, ordinal := b.ordinal + 1 }
      (modCore n (fun c => { c with retired := c.retired + 1 }) d) := by
  unfold releaseWaiter
  rw [found]
  dsimp only
  rw [split]
  rfl

end

/-! ### The operations of a ready bundle -/

section
variable {n : Fin 64} {slot obj k : Nat} {op : SignalOp} {d : Dev} {x : Site}

theorem signalOp_unready (none_ : readySite? n slot d = none) : signalOp n slot obj op d = d := by
  unfold signalOp
  rw [none_]

theorem signalOp_ready (ready : readySite? n slot d = some x) : signalOp n slot obj op d = issueSignal x obj op d := by
  unfold signalOp
  rw [ready]

theorem issueSignal_outside (out : x.kernel.signals ≤ obj) : issueSignal x obj op d = trapAt x tSignalRange d := if_pos out

section
variable (inside : obj < x.kernel.signals)
include inside

theorem issueSignal_post : issueSignal x obj (.post k) d = if k = 0 ∨ k > 65536 then trapAt x tIllegal d
    else if mayRetire x true d then
      retireInstr x x.bundle (signalItems x.bundle 1 obj k 0) true (some (.post (objectOf x obj) k)) d
    else d := if_neg (Nat.not_le.mpr inside)

theorem issueSignal_wait (passA : x.bundle.passB = false) : issueSignal x obj (.wait k) d = if k = 0 ∨ k > 65536 then trapAt x tIllegal d
    else if !mayRetire x false d then d else waitSignal x (objectOf x obj) k d := by
  refine (if_neg (Nat.not_le.mpr inside)).trans ?_
  dsimp only
  rw [passA]
  rfl

theorem issueSignal_amount (amount : k = 0 ∨ 65536 < k) :
    issueSignal x obj (.post k) d = trapAt x tIllegal d ∧ issueSignal x obj (.wait k) d = trapAt x tIllegal d :=
  ⟨(if_neg (Nat.not_le.mpr inside)).trans (if_pos amount), (if_neg (Nat.not_le.mpr inside)).trans (if_pos amount)⟩

section
variable (least : 1 ≤ k) (most : k ≤ 65536)
include least most

theorem issueSignal_retires (may : mayRetire x true d = true) : issueSignal x obj (.post k) d =
    retireInstr x x.bundle (signalItems x.bundle 1 obj k 0) true (some (.post (objectOf x obj) k)) d :=
  (issueSignal_post inside).trans ((if_neg (by omega)).trans (if_pos may))

theorem issueSignal_waits (passA : x.bundle.passB = false) (may : mayRetire x false d = true) :
    issueSignal x obj (.wait k) d = waitSignal x (objectOf x obj) k d :=
  (issueSignal_wait inside passA).trans ((if_neg (by omega)).trans (if_neg (by rw [may]; decide)))

end

/-- A test of pass A reads the count, and forwards it. -/
theorem issueSignal_test {dst : Fin 64} {v : W32} (may : mayRetire x false d = true) (passA : x.bundle.passB = false)
    (hv : v = BitVec.ofNat 32 (signalOf d (objectOf x obj)).count) : issueSignal x obj (.test dst) d =
    retireReg x (putReg dst (fun _ => v) (bump x.bundle)) dst (signalItems x.bundle 3 obj 0 v.toNat) (forward x [v] d) := by
  subst hv
  refine (if_neg (Nat.not_le.mpr inside)).trans ?_
  dsimp only
  rw [may, passA]
  rfl

/-- A test of pass B takes what pass A read. -/
theorem issueSignal_testB {dst : Fin 64} {v : W32} {l : List W32} {e : Dev} (may : mayRetire x false d = true)
    (passB : x.bundle.passB = true) (taken : takeForward? x d = some (l, e)) (hv : v = l.headD 0) :
    issueSignal x obj (.test dst) d =
    retireReg x (putReg dst (fun _ => v) (bump x.bundle)) dst (signalItems x.bundle 3 obj 0 v.toNat) e := by
  subst hv
  refine (if_neg (Nat.not_le.mpr inside)).trans ?_
  dsimp only
  rw [may, passB, taken]
  rfl

end
end

section
variable {n : Fin 64} {slot obj o k : Nat} {d e : Dev} {x : Site} (ready : readySite? n slot d = some x)
  (inside : obj < x.kernel.signals) (least : 1 ≤ k) (most : k ≤ 65536)
include ready inside least most

/-- A post of a SPLIT core retires, then acts. -/
theorem signalOp_post (he : e = setBundle n.val slot x.bundle (modCore n.val (fun c => { c with retired := c.retired + 1 }) d))
    (split : x.split = true) : signalOp n slot obj (.post k) d = doAct x (.post (objectOf x obj) k) e := by
  obtain ⟨atCore, atSlot, -, -, -⟩ := readySite_siteAt ready
  subst he
  rw [signalOp_ready ready, issueSignal_retires inside least most (mayRetire_split split), retireInstr_act split, atCore, atSlot]
  rfl

/-- A post of a PAIRED core closes its window, and waits there for the comparison. -/
theorem signalOp_postPaired (paired : x.split = false) (room : storeRoom (coreOf d n.val) x.bundle = true) :
    signalOp n slot obj (.post k) d = closeSig n.val slot (if x.bundle.passB then none else some (.post (objectOf x obj) k))
      { x.bundle with sig := foldedSig x.bundle (signalItems x.bundle 1 obj k 0) }
      (modCore n.val (fun c => { c with retired := c.retired + 1 }) d) := by
  obtain ⟨atCore, atSlot, -, -, -⟩ := readySite_siteAt ready
  rw [signalOp_ready ready, issueSignal_retires inside least most (mayRetire_room (by rw [atCore]; exact room)),
    retireInstr_paired paired, retireQuiet_closes, atCore, atSlot]

variable (passA : x.bundle.passB = false)
include passA

/-- A wait that cannot be served joins the tail. -/
theorem signalOp_joins (ho : o = objectOf x obj) (may : x.split = true ∨ x.bundle.sig.retired + 1 < 4096)
    (later : (signalOf d o).waiters ≠ [] ∨ (signalOf d o).count < k) : signalOp n slot obj (.wait k) d =
      setBundle n.val slot { x.bundle with waiting := true }
        (setSignal o { signalOf d o with waiters := (signalOf d o).waiters ++ [(n.val, slot, k)] } d) := by
  obtain ⟨atCore, atSlot, bundle, -, -⟩ := readySite_siteAt ready
  have retires : mayRetire x false d = true := may.elim mayRetire_split mayRetire_open
  have refused : ¬((signalOf d o).waiters.isEmpty && decide (k ≤ (signalOf d o).count)) = true := by
    rw [Bool.and_eq_true, List.isEmpty_iff, decide_eq_true_iff]
    rintro ⟨none_, enough⟩
    exact later.elim (fun h => h none_) (Nat.not_lt.mpr enough)
  rw [signalOp_ready ready, issueSignal_waits inside least most passA retires, ← ho]
  refine (if_neg refused).trans ?_
  rw [atCore, atSlot]
  unfold modBundle
  rw [show bundleOf? (setSignal o { signalOf d o with waiters := (signalOf d o).waiters ++ [(n.val, slot, k)] } d) n.val slot = _
    from bundle]

/-- A wait of a SPLIT core that can be served goes on at once. -/
theorem signalOp_goes_on (ho : o = objectOf x obj) (split : x.split = true) (none_ : (signalOf d o).waiters = [])
    (enough : k ≤ (signalOf d o).count) : signalOp n slot obj (.wait k) d = setBundle n.val slot (bump x.bundle)
        (modCore n.val (fun c => { c with retired := c.retired + 1 })
          (setSignal o { signalOf d o with count := (signalOf d o).count - k } d)) := by
  obtain ⟨atCore, atSlot, bundle, sameSplit, free⟩ := readySite_siteAt ready
  rw [signalOp_ready ready, issueSignal_waits inside least most passA (mayRetire_split split), ← ho]
  refine (if_pos ?_).trans ?_
  · rw [none_, decide_eq_true enough]
    rfl
  · rw [atCore, atSlot, releaseWaiter_split (b := x.bundle)
      (d := setSignal o { signalOf d o with count := (signalOf d o).count - k } d) bundle (sameSplit.symm.trans split), ← free]
    rfl

end

section
variable {n dst : Fin 64} {slot obj : Nat} {d e : Dev} {x : Site} {v : W32} {b : Bundle} (ready : readySite? n slot d = some x)
  (inside : obj < x.kernel.signals) (hb : b = putReg dst (fun _ => v) (bump x.bundle))
include ready inside hb

theorem signalOp_test (split : x.split = true) (passA : x.bundle.passB = false)
    (hv : v = BitVec.ofNat 32 (signalOf d (objectOf x obj)).count) : signalOp n slot obj (.test dst) d =
      setBundle n.val slot b (modCore n.val (fun c => { c with retired := c.retired + 1 }) d) := by
  obtain ⟨atCore, atSlot, -, -, -⟩ := readySite_siteAt ready
  have kept : forward x [v] d = d := if_pos split
  subst hb
  rw [signalOp_ready ready, issueSignal_test inside (mayRetire_split split) passA hv, kept]
  unfold retireReg
  rw [retireInstr_none, split, retireQuiet_split, atCore, atSlot]

/-- On a PAIRED core pass A forwards the count that it reads, and pass B takes it. -/
theorem signalOp_testPaired (paired : x.split = false) (open_ : x.bundle.sig.retired + 1 < 4096)
    (source : x.bundle.passB = false ∧ v = BitVec.ofNat 32 (signalOf d (objectOf x obj)).count ∧
        e = modCore n.val (fun c => { c with
          forwards := c.forwards ++ [(x.bundle.group, x.bundle.index, x.bundle.ordinal, [v])] }) d ∨
      x.bundle.passB = true ∧ ∃ l, takeForward? x d = some (l, e) ∧ v = l.headD 0) :
    signalOp n slot obj (.test dst) d = setBundle n.val slot
      { b with sig := foldedSig x.bundle (signalItems x.bundle 3 obj 0 v.toNat ++ regItems b dst) }
      (modCore n.val (fun c => { c with retired := c.retired + 1 }) e) := by
  obtain ⟨atCore, atSlot, -, -, -⟩ := readySite_siteAt ready
  have read : issueSignal x obj (.test dst) d = retireReg x b dst (signalItems x.bundle 3 obj 0 v.toNat) e := by
    subst hb
    obtain ⟨passA, hv, he⟩ | ⟨passB, l, taken, hv⟩ := source
    · have sent : forward x [v] d = e := by
        rw [he, ← atCore]
        exact if_neg (by rw [paired]; exact Bool.false_ne_true)
      rw [issueSignal_test inside (mayRetire_open open_) passA hv, sent]
    · exact issueSignal_testB inside (mayRetire_open open_) passB taken hv
  rw [signalOp_ready ready, read]
  unfold retireReg
  rw [retireInstr_paired paired, retireQuiet_folds (by rw [hb]; exact open_), atCore, atSlot, hb]
  rfl

end

/-! ### DMA channels (R135, R291) -/

/-- The post that the end of a transfer makes. -/
def transferPost (c : DmaChannel) (d : Dev) : Dev :=
  match c.post with
  | some (obj, n) =>
    if (postSignal obj n d).1 then (postSignal obj n d).2 else trapOn c.core { kind := tSignalRange } (postSignal obj n d).2
  | none => d

/-- What waited for a transfer goes on. -/
def afterTransfer (c : DmaChannel) (d : Dev) : Dev := if c.core < 64 then openBarriers c.core (flushPosts c.core d) else d

section
variable {ch : Nat} {a e : State} {c : DmaChannel} {u : Option Time} {g f : Dev}

theorem dmaComplete_idle (hc : c = dmaOf a.dev ch) (idle : c.busy = false ∨ c.halted = true) : dmaComplete ch a = a := by
  subst hc
  refine if_pos ?_
  obtain h | h := idle
  · rw [h]
    rfl
  · rw [h, Bool.or_true]

variable (hc : c = dmaOf a.dev ch) (busy : c.busy = true) (runs_ : c.halted = false)
  (tokens : dmaTokens ch (keyOf a.dev (.dma ch)) a.dev = (u, g))
include hc busy runs_ tokens

theorem dmaComplete_busy : dmaComplete ch a = if !u.any (fun t => decide (t ≤ g.geyser.now)) then { a with dev := g }
    else
      let r := dmaLines ch (keyOf a.dev (.dma ch)) c.lines c.src c.dst { a with dev := g }
      if !r.1 then r.2
      else
        let s := onDev (modDma ch fun c => { c with busy := false, post := none, served := none }) r.2
        let s := match c.post with
          | some (obj, n) => onDev (fun d =>
              let (ok, d) := postSignal obj n d
              if ok then d else trapOn c.core { kind := tSignalRange } d) s
          | none => s
        onDev (fun d => if c.core < 64 then openBarriers c.core (flushPosts c.core d) else d) s := by
  subst hc
  unfold dmaComplete
  dsimp only
  rw [if_neg (by rw [busy, runs_]; decide), tokens] <;> rfl

theorem dmaComplete_waits (waits : u = none ∨ ∃ w, u = some w ∧ g.geyser.now < w) : dmaComplete ch a = { a with dev := g } := by
  rw [dmaComplete_busy hc busy runs_ tokens]
  refine if_pos ?_
  obtain h | ⟨w, h, later⟩ := waits
  · rw [h]
    rfl
  · rw [h]
    simpa using later

variable {w : Time} {ok : Bool} (some_ : u = some w) (come : w ≤ g.geyser.now)
  (lines : dmaLines ch (keyOf a.dev (.dma ch)) c.lines c.src c.dst { a with dev := g } = (ok, e))
  (hf : f = modDma ch (fun c => { c with busy := false, post := none, served := none }) e.dev)
include some_ come lines hf

/-- A transfer whose lines have their tokens moves them; its completion posts once. -/
theorem dmaComplete_moves : dmaComplete ch a = if !ok then e else { e with dev := afterTransfer c (transferPost c f) } := by
  subst hf
  rw [dmaComplete_busy hc busy runs_ tokens]
  refine (if_neg ?_).trans ?_
  · rw [some_]
    simpa using come
  · rw [lines]
    unfold transferPost
    cases c.post <;> rfl

end

/-- Settles O26, by the equation of each signal operation and of each way that a transfer ends. -/
theorem signalsAndDma : Obligations.SignalsAndDma := by
  refine ⟨?_, ?_, ?_, fun n slot obj k b d found split => releaseWaiter_split found split, ?_, ?_, ?_, ?_, ?_⟩
  · intro t n slot obj k s d hd none_
    subst hd
    have unready (op : SignalOp) : signalOp n slot.val obj op (advance t s.dev) = advance t s.dev := signalOp_unready none_
    exact ⟨next_cleared (f := fun d => signalOp n slot.val obj (.post k) (advance t d)) (unready _),
      next_cleared (f := fun d => signalOp n slot.val obj (.wait k) (advance t d)) (unready _),
      fun dst => next_cleared (f := fun d => signalOp n slot.val obj (.test dst) (advance t d)) (unready _)⟩
  · intro t n slot obj k s d e x o hd ready ho he
    subst hd
    have post {f : Dev} (h : signalOp n slot.val obj (.post k) (advance t s.dev) = f) :
        exec (.signalPost t n slot obj k) s = .next (cleared s f) :=
      next_cleared (f := fun d => signalOp n slot.val obj (.post k) (advance t d)) h
    have wait {f : Dev} (h : signalOp n slot.val obj (.wait k) (advance t s.dev) = f) :
        exec (.signalWait t n slot obj k) s = .next (cleared s f) :=
      next_cleared (f := fun d => signalOp n slot.val obj (.wait k) (advance t d)) h
    have issues (op : SignalOp) := signalOp_ready (obj := obj) (op := op) ready
    have place := readySite_siteAt ready
    have same : signalOf e o = signalOf (advance t s.dev) o := by rw [he]; rfl
    have moves : transferring e x.core.val x.bundle.group x.bundle.index =
        transferring (advance t s.dev) n.val x.bundle.group x.bundle.index := by
      rw [he, place.atCore]
      rfl
    refine ⟨fun out => ⟨post ((issues _).trans (issueSignal_outside out)), wait ((issues _).trans (issueSignal_outside out)), fun dst =>
        next_cleared (f := fun d => signalOp n slot.val obj (.test dst) (advance t d)) ((issues _).trans (issueSignal_outside out))⟩,
      fun inside amount => ⟨post ((issues _).trans (issueSignal_amount inside amount).1),
        wait ((issues _).trans (issueSignal_amount inside amount).2)⟩, ?_, ?_, ?_⟩
    · intro inside least most split still
      have acts := signalOp_post ready inside least most he split
      rw [← ho] at acts
      have now : doAct x (.post o k) e = postNow x.core.val x.slot o k e :=
        if_neg (by rw [moves, still]; exact Bool.false_ne_true)
      refine ⟨fun room => ?_, fun over_ => ?_⟩
      · refine post (acts.trans (now.trans ((postNow_takes (by rw [same]; exact room)).trans ?_)))
        rw [same]
      · exact post (acts.trans (now.trans ((postNow_over (by rw [same]; exact over_)).trans rfl)))
    · intro inside least most split under
      have acts := signalOp_post ready inside least most he split
      rw [← ho] at acts
      refine post (acts.trans ((if_pos (by rw [moves, under])).trans ?_))
      rw [place.atCore, place.atSlot]
    · intro inside least most paired room
      have closes := signalOp_postPaired ready inside least most paired room
      rw [← ho] at closes
      exact post closes
  · intro obj fuel n slot k rest d waiters
    exact ⟨serveSignal_serves waiters, serveSignal_stops waiters⟩
  · intro t n slot obj k s d x o hd ready passA inside least most ho
    subst hd
    have wait {f : Dev} (h : signalOp n slot.val obj (.wait k) (advance t s.dev) = f) :
        exec (.signalWait t n slot obj k) s = .next (cleared s f) :=
      next_cleared (f := fun d => signalOp n slot.val obj (.wait k) (advance t d)) h
    exact ⟨fun may later => wait (signalOp_joins ready inside least most passA ho may later),
      fun split none_ enough => wait (signalOp_goes_on ready inside least most passA ho split none_ enough)⟩
  · intro t n slot obj dst s d x v b hd ready inside hb
    subst hd
    have test {f : Dev} (h : signalOp n slot.val obj (.test dst) (advance t s.dev) = f) :
        exec (.signalTest t n slot obj dst) s = .next (cleared s f) :=
      next_cleared (f := fun d => signalOp n slot.val obj (.test dst) (advance t d)) h
    refine ⟨fun split passA hv => test (signalOp_test ready inside hb split passA hv), fun w e paired open_ source hw => ?_⟩
    subst hw
    exact test (signalOp_testPaired ready inside hb paired open_ source)
  · intro t ch s a c ha hc
    have step {g : State} (h : dmaComplete ch.val a = g) : exec (.dmaComplete t ch) s = .next (zeroCores g) := by
      subst ha h
      rfl
    refine ⟨fun idle => step (dmaComplete_idle hc idle), fun u g busy runs_ tokens =>
      ⟨fun waits => step (dmaComplete_waits hc busy runs_ tokens waits), fun w ok e f some_ come lines hf => ?_⟩⟩
    have moves := dmaComplete_moves hc busy runs_ tokens some_ come lines hf
    refine ⟨fun failed => ?_, fun done none_ => ?_, fun o k h done post hh => ?_⟩
    · rw [failed] at moves
      exact step moves
    · rw [done] at moves
      have posted : transferPost c f = f := by
        unfold transferPost
        rw [none_]
      rw [posted] at moves
      exact step moves
    · rw [done] at moves
      have posted : transferPost c f = h := by
        unfold transferPost
        rw [post, hh]
        dsimp only
        by_cases room : (signalOf f o).count + k ≤ 4294967295
        · rw [postSignal_takes room, if_pos room]
          rfl
        · rw [postSignal_over (Nat.not_le.mp room), if_neg room]
          rfl
      rw [posted] at moves
      exact step moves
  · intro ch fuel src dst key s e ok line
    conv => lhs; unfold dmaLines
    rw [line]
  · intro t ch s c hc
    subst hc
    exact ⟨_, rfl, dmaOf_modDma (d := advance t s.dev) _ _, fun k other => dmaOf_modDma_ne (advance t s.dev) _ other, rfl⟩

end Sys2Proof.Machine
end

section
/-! Issue of bundle instructions (08 R184 to R210, 09 R214 to R224): registers, masks, the candidates of an issue step, what each
instruction does, traps, and O25. -/

namespace Sys2Proof.Machine

open Sys2Proof

/-! ### Registers of the active lanes (R185, R189) -/

section
variable {b : Bundle} {l : Nat}

theorem mem_activeLanes : l ∈ activeLanes b ↔ l < 64 ∧ (activeMask b).getLsbD l = true := by
  simp [activeLanes]

theorem physLane_lt (small : l < 64) : physLane b l < 64 := by
  unfold physLane
  split <;> omega

theorem physLane_inj {k : Nat} (hl : l < 64) (hk : k < 64) (same : physLane b l = physLane b k) : l = k := by
  unfold physLane at same
  split at same <;> omega

theorem physBank_lt (r : Fin 64) : physBank b r < 2 := by
  unfold physBank
  split <;> omega

theorem physBank_inj {r q : Fin 64} (same : physBank b r = physBank b q) : r.val / 32 = q.val / 32 := by
  unfold physBank at same
  split at same <;> omega

theorem regKey_inj {k : Nat} {r q : Fin 64} (hl : l < 64) (hk : k < 64) (same : regKey b l r = regKey b k q) : l = k ∧ r = q := by
  have bankR := physBank_lt (b := b) r
  have bankQ := physBank_lt (b := b) q
  unfold regKey at same
  have bank := physBank_inj (b := b) (r := r) (q := q) (by omega)
  have lane : physLane b l = physLane b k := by omega
  exact ⟨physLane_inj hl hk lane, Fin.ext (by omega)⟩

theorem kget_foldl_regKey (r : Fin 64) (v : Nat → W32) {ls : List Nat} (small : ∀ k ∈ ls, k < 64) (hl : l < 64) (q : Fin 64) :
    ∀ m : KMap W32, kget 0 (ls.foldl (fun m l => kput m (regKey b l r) (v l)) m) (regKey b l q) =
      if q = r ∧ l ∈ ls then v l else kget 0 m (regKey b l q) := by
  induction ls with
  | nil => simp
  | cons k ks ih =>
    intro m
    rw [List.foldl_cons, ih (fun j hj => small j (List.mem_cons_of_mem _ hj))]
    by_cases same : q = r ∧ l = k
    · obtain ⟨rfl, rfl⟩ := same
      simp
    · have key : regKey b l q ≠ regKey b k r := fun h =>
        same (And.comm.mp (regKey_inj hl (small k List.mem_cons_self) h))
      rw [kget_kput_ne _ _ _ key]
      simp only [List.mem_cons]
      congr 1
      exact propext ⟨fun ⟨hq, h⟩ => ⟨hq, .inr h⟩, fun ⟨hq, h⟩ => ⟨hq, h.resolve_left fun h => same ⟨hq, h⟩⟩⟩

/-- A register write changes that register in the active lanes and nothing else. -/
theorem regAt_putReg (r : Fin 64) (v : Nat → W32) (hl : l < 64) (q : Fin 64) : regAt (putReg r v b) l q =
    if q = r ∧ (activeMask b).getLsbD l = true then v l else regAt b l q := by
  refine (kget_foldl_regKey r v (fun k hk => (mem_activeLanes.mp hk).1) hl q b.regs).trans ?_
  simp only [mem_activeLanes, hl, true_and]
  rfl

/-- The bundle with words of what its lanes have read in `n` registers from `dst` on. -/
def loadedBundle (dst : Fin 64) (vs : List (Nat × List Byte)) (n : Nat) (b : Bundle) : Bundle :=
  (List.range n).foldl (fun b i => putReg (Fin.ofNat 64 (dst.val + i)) (fun l => wordOf (bytesOf vs l) i) b) b

variable (dst : Fin 64) (vs : List (Nat × List Byte))

theorem loadedBundle_succ (n : Nat) (b : Bundle) : loadedBundle dst vs (n + 1) b =
    putReg (Fin.ofNat 64 (dst.val + n)) (fun l => wordOf (bytesOf vs l) n) (loadedBundle dst vs n b) := by
  unfold loadedBundle
  rw [List.range_succ, List.foldl_append]
  rfl

theorem loadedBundle_frame (n : Nat) (b : Bundle) : loadedBundle dst vs n b =
    { b with regs := (loadedBundle dst vs n b).regs, badParity := (loadedBundle dst vs n b).badParity } := by
  induction n with
  | zero => rfl
  | succ n ih =>
    rw [loadedBundle_succ, ih]
    rfl

theorem activeMask_loadedBundle (n : Nat) : activeMask (loadedBundle dst vs n b) = activeMask b := by
  rw [loadedBundle_frame]
  rfl

theorem loadedBundle_one : loadedBundle dst vs 1 b = putReg dst (fun l => wordOf (bytesOf vs l) 0) b := by
  have whole : Fin.ofNat 64 (dst.val + 0) = dst := Fin.ext (Nat.mod_eq_of_lt dst.isLt)
  rw [loadedBundle_succ, whole]
  rfl

theorem regAt_loadedBundle {n : Nat} (hl : l < 64) (q : Fin 64) (within : dst.val + n ≤ 64) :
    regAt (loadedBundle dst vs n b) l q = if dst.val ≤ q.val ∧ q.val < dst.val + n ∧ (activeMask b).getLsbD l = true
      then wordOf (bytesOf vs l) (q.val - dst.val) else regAt b l q := by
  induction n with
  | zero => exact (if_neg fun h => absurd h.2.1 (by omega)).symm
  | succ n ih =>
    rw [loadedBundle_succ, regAt_putReg _ _ hl, ih (by omega), activeMask_loadedBundle]
    have place : q = Fin.ofNat 64 (dst.val + n) ↔ q.val = dst.val + n := by
      rw [Fin.ext_iff, Fin.val_ofNat, Nat.mod_eq_of_lt (by omega)]
    by_cases active : (activeMask b).getLsbD l = true
    · simp only [place, active, and_true]
      by_cases last : q.val = dst.val + n
      · rw [if_pos last, if_pos (by omega), last, Nat.add_sub_cancel_left]
      · rw [if_neg last]
        congr 1
        exact propext (by omega)
    · rw [if_neg fun h => active h.2, if_neg fun h => active h.2.2, if_neg fun h => active h.2.2]

end

/-! ### Branches (R189) -/

section
variable {p : Fin 64} {b : Bundle}

/-- The lanes of a list whose register is not zero. -/
def takenLanes (p : Fin 64) (b : Bundle) (ls : List Nat) : W64 :=
  ls.foldl (fun m l => if regAt b l p ≠ 0 then m ||| BitVec.twoPow 64 l else m) 0

theorem getLsbD_taken (k : Nat) (hk : k < 64) (ls : List Nat) : ∀ m : W64,
    (ls.foldl (fun m l => if regAt b l p ≠ 0 then m ||| BitVec.twoPow 64 l else m) m).getLsbD k =
      (m.getLsbD k || decide (k ∈ ls) && decide (regAt b k p ≠ 0)) := by
  induction ls with
  | nil => simp
  | cons j js ih =>
    intro m
    rw [List.foldl_cons, ih]
    by_cases same : k = j
    · subst same
      by_cases zero : regAt b k p = 0
      · rw [if_neg (not_not_intro zero), decide_eq_false (not_not_intro zero), Bool.and_false, Bool.and_false]
      · rw [if_pos zero, decide_eq_true zero]
        simp [hk]
    · have other : (BitVec.twoPow 64 j).getLsbD k = false := by
        rw [BitVec.getLsbD_twoPow, decide_eq_false (Ne.symm same), Bool.and_false]
      have later : decide (k ∈ j :: js) = decide (k ∈ js) := by simp [same]
      rw [later]
      by_cases zero : regAt b j p = 0
      · rw [if_neg (not_not_intro zero)]
      · rw [if_pos zero, BitVec.getLsbD_or, other, Bool.or_false]

theorem getLsbD_takenLanes {k : Nat} (hk : k < 64) : (takenLanes p b (activeLanes b)).getLsbD k =
    ((activeMask b).getLsbD k && decide (regAt b k p ≠ 0)) := by
  refine (getLsbD_taken k hk _ 0).trans ?_
  simp [mem_activeLanes, hk]

theorem getLsbD_otherLanes {k : Nat} (hk : k < 64) : (activeMask b &&& ~~~takenLanes p b (activeLanes b)).getLsbD k =
    ((activeMask b).getLsbD k && decide (regAt b k p = 0)) := by
  rw [BitVec.getLsbD_and, BitVec.getLsbD_not, getLsbD_takenLanes hk]
  cases (activeMask b).getLsbD k with
  | false => rfl
  | true => by_cases zero : regAt b k p = 0 <;> simp [zero, hk]

theorem branchOn_splits (some_ : takenLanes p b (activeLanes b) ≠ 0)
    (others : activeMask b &&& ~~~takenLanes p b (activeLanes b) ≠ 0) : branchOn p b =
      { b with mask := takenLanes p b (activeLanes b),
               paths := { other := activeMask b &&& ~~~takenLanes p b (activeLanes b), after := b.mask } :: b.paths } :=
  if_neg (not_or.mpr ⟨some_, others⟩)

theorem rejoin_other {q : PathEntry} {r : List PathEntry} (paths : b.paths = q :: r) (other : q.other ≠ 0) :
    rejoin b = { b with mask := q.other, paths := { q with other := 0 } :: r } := by
  unfold rejoin
  rw [paths]
  exact if_neg other

theorem rejoin_all {q : PathEntry} {r : List PathEntry} (paths : b.paths = q :: r) (none_ : q.other = 0) :
    rejoin b = { b with mask := q.after, paths := r } := by
  unfold rejoin
  rw [paths]
  exact if_pos none_

theorem ne_zero_of_getLsbD {m : W64} {k : Nat} (set : m.getLsbD k = true) : m ≠ 0 := by
  rintro rfl
  simp at set

end

/-! ### The candidates of an issue step (R188) -/

section
variable {n : Fin 64} {p q : Candidate} {d : Dev} {a : State}

/-- A candidate whose bundle or whose instruction is not ready changes nothing. -/
theorem issueInstr_stalls {x : Site} {i : BundleInstr} (whole : parityLane? x.bundle (regsRead i) = none)
    (stalls : operandsReady x i a.dev = false) : issueInstr x i a = a := by
  unfold issueInstr
  dsimp only
  rw [whole]
  exact if_pos (by rw [stalls]; rfl)

theorem issueOne_ready {x : Site} (ready : readySite? n p.slot.val a.dev = some x) (plain : p.fault = none) :
    issueOne n p a = issueInstr x p.instr a := by
  unfold issueOne
  rw [ready, plain]

theorem issueOne_stalls (plain : p.fault = none) (stalls : mayIssue n a.dev p = false) : issueOne n p a = a := by
  cases ready : readySite? n p.slot.val a.dev with
  | none =>
    unfold issueOne
    rw [ready]
  | some x =>
    unfold mayIssue at stalls
    simp only [ready, plain, Bool.or_eq_false_iff, Option.isSome_eq_false_iff, Option.isNone_iff_eq_none] at stalls
    obtain ⟨whole, stalls⟩ := stalls
    rw [issueOne_ready ready plain, issueInstr_stalls whole stalls]

theorem chosen_none {next : List Candidate} (stalls : ∀ c ∈ next, mayIssue n d c = false) : chosen n next d = [] := by
  have can : ((indexed next).filter fun e => mayIssue n d e.2 && !((next.take e.1).any fun c => c.slot == e.2.slot)) = [] := by
    refine List.filter_eq_nil_iff.mpr fun e he => ?_
    rw [stalls e.2 (List.of_mem_zip he).2]
    exact Bool.false_ne_true
  unfold chosen
  rw [can]
  rfl

theorem chosen_one (may : mayIssue n d p = true) : chosen n [p] d = [p] := by
  have can : ((indexed [p]).filter fun e => mayIssue n d e.2 && !(([p].take e.1).any fun c => c.slot == e.2.slot)) = [(0, p)] := by
    simp [indexed, may]
  unfold chosen
  rw [can]
  cases vector : vectorClass p.instr <;> simp [oldest, vector]

/-- What an issue step chooses of two bundles that can issue. -/
def chosenOfTwo (n : Fin 64) (p q : Candidate) (d : Dev) : List Candidate :=
  match oldest n.val d ([p, q].filter fun c => vectorClass c.instr), oldest n.val d ([p, q].filter fun c => !vectorClass c.instr) with
  | some a, some b => if a.slot.val ≤ b.slot.val then [a, b] else [b, a]
  | some a, none => [a]
  | none, some b => [b]
  | none, none => []

theorem chosen_two (slots : p.slot < q.slot) (mayP : mayIssue n d p = true) (mayQ : mayIssue n d q = true) :
    chosen n [p, q] d = chosenOfTwo n p q d := by
  have other : p.slot ≠ q.slot := Fin.ne_of_lt slots
  have can : ((indexed [p, q]).filter fun e => mayIssue n d e.2 && !(([p, q].take e.1).any fun c => c.slot == e.2.slot)) =
      [(0, p), (1, q)] := by
    simp [indexed, mayP, mayQ, other, List.range_succ]
  unfold chosen
  rw [can]
  rfl

theorem chosenOfTwo_classes (slots : p.slot < q.slot) (classes : vectorClass p.instr ≠ vectorClass q.instr) :
    chosenOfTwo n p q d = [p, q] := by
  have first : p.slot.val ≤ q.slot.val := Nat.le_of_lt slots
  have last : ¬q.slot.val ≤ p.slot.val := Nat.not_le.mpr slots
  unfold chosenOfTwo
  cases vp : vectorClass p.instr with
  | true =>
    have vq : vectorClass q.instr = false := by simpa [vp] using classes.symm
    simp [oldest, vp, vq, first]
  | false =>
    have vq : vectorClass q.instr = true := by simpa [vp] using classes.symm
    simp [oldest, vp, vq, last]

theorem oldest_two {b c : Bundle} (hb : bundleOf? d n.val p.slot.val = some b) (hc : bundleOf? d n.val q.slot.val = some c) :
    oldest n.val d [p, q] = some (if c.order < b.order then q else p) := by
  simp only [oldest, List.foldl_cons, List.foldl_nil, hb, hc, Option.map_some, Option.getD_some]
  exact (apply_ite some _ _ _).symm

/-- Of two of one class the older issues. -/
theorem chosenOfTwo_older {b c : Bundle} (same : vectorClass p.instr = vectorClass q.instr)
    (hb : bundleOf? d n.val p.slot.val = some b) (hc : bundleOf? d n.val q.slot.val = some c) :
    chosenOfTwo n p q d = [if c.order < b.order then q else p] := by
  unfold chosenOfTwo
  cases vp : vectorClass p.instr with
  | true =>
    have vq : vectorClass q.instr = true := same.symm.trans vp
    rw [List.filter_eq_self.mpr (by simp [vp, vq]), List.filter_eq_nil_iff.mpr (by simp [vp, vq]), oldest_two hb hc]
    rfl
  | false =>
    have vq : vectorClass q.instr = false := same.symm.trans vp
    rw [List.filter_eq_nil_iff.mpr (by simp [vp, vq]), List.filter_eq_self.mpr (by simp [vp, vq]), oldest_two hb hc]
    rfl

theorem coreIssue_alone (plain : p.fault = none) : coreIssue n [p] a = issueOne n p a := by
  unfold coreIssue
  cases may : mayIssue n a.dev p with
  | true =>
    rw [chosen_one may]
    rfl
  | false =>
    have none_ : ∀ c ∈ [p], mayIssue n a.dev c = false := fun c hc => (List.mem_singleton.mp hc) ▸ may
    rw [chosen_none none_, issueOne_stalls plain may]
    rfl

end

/-! ### What an instruction of a ready bundle does -/

/-- The register that an instruction writes in the active lanes, and its value by lane. -/
def writtenValue (x : Site) : BundleInstr → Option (Fin 64 × (Nat → W32))
  | .vec op dst p q r => some (dst, fun l => vecEval op (regAt x.bundle l p) (regAt x.bundle l q) (regAt x.bundle l r))
  | .special fn dst p q => some (dst, fun l => specialEval fn (regAt x.bundle l p) (regAt x.bundle l q))
  | .imm dst v => some (dst, fun _ => v)
  | .argument dst k high =>
    some (dst, fun _ => (if high then (x.run.args.getD k.val 0) >>> 32 else x.run.args.getD k.val 0).setWidth 32)
  | .laneReduceAdd dst p float => some (dst, fun _ => treeAdd float 6 ((List.range 64).map fun l =>
      if (activeMask x.bundle).getLsbD l then regAt x.bundle l p else Config.idleLane (activeMask x.bundle) l))
  | .lanePermute dst p q => some (dst, fun l => regAt x.bundle ((regAt x.bundle l q).toNat % 64) p)
  | _ => none

/-- The bundle after an instruction that touches nothing else. -/
def quietBundle (b : Bundle) : BundleInstr → Option Bundle
  | .branch p => some (branchOn p b)
  | .rejoin => some (rejoin b)
  | .setMask m => some { b with mask := m &&& b.lanes }
  | .engineWait _ => some b
  | .dmaWait _ => some b
  | _ => none

section
variable {x : Site} {i : BundleInstr} {s : State} {d : Dev}

theorem issueInstr_parity {l : Nat} (bad : parityLane? x.bundle (regsRead i) = some l) :
    issueInstr x i s = onDev (laneTrap x l tRegParity 0) s := by
  unfold issueInstr
  dsimp only
  rw [bad]

theorem issueInstr_writes {dst : Fin 64} {v : Nat → W32} (whole : parityLane? x.bundle (regsRead i) = none)
    (ready : operandsReady x i s.dev = true) (writes : writtenValue x i = some (dst, v)) :
    issueInstr x i s = onDev (retireReg x (putReg dst v x.bundle) dst []) s := by
  unfold issueInstr
  dsimp only
  rw [whole]
  dsimp only
  rw [ready]
  cases i <;> cases writes <;> rfl

theorem issueInstr_quiet {b : Bundle} (whole : parityLane? x.bundle (regsRead i) = none) (ready : operandsReady x i s.dev = true)
    (quiet : quietBundle x.bundle i = some b) : issueInstr x i s = onDev (retireInstr x b [] false none) s := by
  unfold issueInstr
  dsimp only
  rw [whole]
  dsimp only
  rw [ready]
  cases i <;> cases quiet <;> rfl

theorem operandsReady_writes {w : Fin 64 × (Nat → W32)} (writes : writtenValue x i = some w) :
    operandsReady x i d = mayRetire x false d := by
  cases i <;> cases writes <;> exact Bool.and_true _

theorem parityLane_none (b : Bundle) : parityLane? b [] = none := by simp [parityLane?]

end

section
variable {t : Time} {n slot : Fin 64} {s a : State} {x : Site} {i : BundleInstr}
variable (ha : a = atMem t s) (ready : readySite? n slot.val a.dev = some x)
include ha ready

theorem exec_issue : exec (.coreIssue t n slot { instr := i } []) s = .next (zeroCores (issueInstr x i a)) := by
  have alone := (coreIssue_alone (n := n) (a := a) (p := { instr := i, slot := slot }) rfl).trans (issueOne_ready ready rfl)
  subst ha
  exact congrArg (fun g => Host.Outcome.next (zeroCores g)) alone

/-- An instruction that reads no register of its lanes, and whose other operands have come. -/
theorem exec_issue_effect {f : Dev → Dev} (effect : issueInstr x i a = onDev f a) :
    exec (.coreIssue t n slot { instr := i } []) s = .next (cleared a (f a.dev)) := by
  rw [exec_issue ha ready, effect]
  rfl

theorem exec_issue_fault {f : IssueFault} {e : State} (may : mayIssue n a.dev { instr := i, fault := some f, slot := slot } = true)
    (issue : issueOne n { instr := i, fault := some f, slot := slot } a = e) :
    exec (.coreIssue t n slot { instr := i, fault := some f } []) s = .next (zeroCores e) := by
  have alone : coreIssue n [{ instr := i, fault := some f, slot := slot }] a = e := by
    unfold coreIssue
    rw [chosen_one may]
    exact issue
  subst ha
  exact congrArg (fun g => Host.Outcome.next (zeroCores g)) alone

end

/-- A retirement on a SPLIT core: the count and the bundle. -/
theorem retires_split {x : Site} {b : Bundle} {its : List W128} {d : Dev} (split : x.split = true) :
    retireInstr x b its false none d =
      setBundle x.core.val x.slot b (modCore x.core.val (fun c => { c with retired := c.retired + 1 }) d) := by
  rw [retireInstr_none, split, retireQuiet_split]

/-! ### Register writes (R184, R222 to R224) -/

section
variable {t : Time} {n slot dst : Fin 64} {s a : State} {x : Site} {i : BundleInstr} {v : Nat → W32}
variable (ha : a = atMem t s) (ready : readySite? n slot.val a.dev = some x)
  (whole : parityLane? x.bundle (regsRead i) = none) (writes : writtenValue x i = some (dst, v))
include ha ready whole writes

theorem exec_issue_writes (may : mayRetire x false a.dev = true) : exec (.coreIssue t n slot { instr := i } []) s =
    .next (cleared a (retireReg x (putReg dst v x.bundle) dst [] a.dev)) := by
  rw [exec_issue ha ready, issueInstr_writes whole ((operandsReady_writes writes).trans may) writes]
  rfl

theorem exec_issue_writes_full (full : mayRetire x false a.dev = false) :
    exec (.coreIssue t n slot { instr := i } []) s = .next (zeroCores a) := by
  rw [exec_issue ha ready, issueInstr_stalls whole ((operandsReady_writes writes).trans full)]

theorem exec_issue_writes_split (split : x.split = true) : exec (.coreIssue t n slot { instr := i } []) s = .next (cleared a
    (setBundle n.val slot.val (putReg dst v x.bundle) (modCore n.val (fun c => { c with retired := c.retired + 1 }) a.dev))) := by
  obtain ⟨hn, hs, -, -, -⟩ := readySite_siteAt ready
  rw [exec_issue_writes ha ready whole writes (mayRetire_split split), ← hn, ← hs]
  exact congrArg (fun d => Host.Outcome.next (cleared a d)) (retires_split split)

theorem exec_issue_writes_folds (paired : x.split = false) (open_ : x.bundle.sig.retired + 1 < 4096) :
    exec (.coreIssue t n slot { instr := i } []) s = .next (cleared a (setBundle n.val slot.val
      { putReg dst v x.bundle with sig := foldedSig (putReg dst v x.bundle) (regItems (putReg dst v x.bundle) dst) }
      (modCore n.val (fun c => { c with retired := c.retired + 1 }) a.dev))) := by
  obtain ⟨hn, hs, -, -, -⟩ := readySite_siteAt ready
  have retires : retireReg x (putReg dst v x.bundle) dst [] a.dev = setBundle n.val slot.val
      { putReg dst v x.bundle with sig := foldedSig (putReg dst v x.bundle) (regItems (putReg dst v x.bundle) dst) }
      (modCore n.val (fun c => { c with retired := c.retired + 1 }) a.dev) := by
    refine (retireInstr_paired paired).trans ((retireQuiet_folds (b := putReg dst v x.bundle) open_).trans ?_)
    rw [hn, hs]
    rfl
  rw [exec_issue_writes ha ready whole writes (mayRetire_open open_), retires]

theorem exec_issue_writes_closes (paired : x.split = false) (last : x.bundle.sig.retired + 1 = 4096)
    (room : storeRoom (coreOf a.dev n.val) x.bundle = true) :
    exec (.coreIssue t n slot { instr := i } []) s = .next (cleared a (closeSig n.val slot.val none
      { putReg dst v x.bundle with sig := foldedSig (putReg dst v x.bundle) (regItems (putReg dst v x.bundle) dst) }
      (modCore n.val (fun c => { c with retired := c.retired + 1 }) a.dev))) := by
  obtain ⟨hn, hs, -, -, -⟩ := readySite_siteAt ready
  have closing : (false || decide ((putReg dst v x.bundle).sig.retired + 1 ≥ 4096)) = true := by
    rw [show (putReg dst v x.bundle).sig.retired + 1 = 4096 from last]
    rfl
  have retires : retireReg x (putReg dst v x.bundle) dst [] a.dev = closeSig n.val slot.val none
      { putReg dst v x.bundle with sig := foldedSig (putReg dst v x.bundle) (regItems (putReg dst v x.bundle) dst) }
      (modCore n.val (fun c => { c with retired := c.retired + 1 }) a.dev) := by
    refine (retireInstr_paired paired).trans ((if_pos closing).trans ?_)
    rw [hn, hs, ite_self]
    rfl
  rw [exec_issue_writes ha ready whole writes (mayRetire_room (hn ▸ room)), retires]

theorem exec_issue_writes_waits (paired : x.split = false) (last : x.bundle.sig.retired + 1 = 4096)
    (full : storeRoom (coreOf a.dev n.val) x.bundle = false) :
    exec (.coreIssue t n slot { instr := i } []) s = .next (zeroCores a) := by
  obtain ⟨hn, -, -, -, -⟩ := readySite_siteAt ready
  refine exec_issue_writes_full ha ready whole writes ?_
  unfold mayRetire
  rw [paired, hn, full, last]
  rfl

end

/-- The 4,096th instruction of a window closes it. -/
theorem closeSig_last {n slot : Nat} {act : Option Act} {b : Bundle} {its : List W128} {d : Dev} (last : b.sig.retired + 1 = 4096) :
    closeSig n slot act { b with sig := foldedSig b its } d = modCore n (fun c => { c with store := c.store ++ [{
      group := b.group, index := b.index, window := b.sig.window, passB := b.passB
      sig := (items (headerItem 0x0F 0 (activeMask b)) (leBytes 4 b.sig.window ++ leBytes 2 4096)).foldl foldItem
        (its.foldl foldItem b.sig.sig)
      act := act }] }) (setBundle n slot { b with sig := { window := b.sig.window + 1 } } d) := by
  unfold closeSig foldedSig
  rw [last]
  rfl

/-! ### Other instructions on a SPLIT core -/

theorem setBundle_setBundle (n slot : Nat) (b c : Bundle) (d : Dev) : setBundle n slot c (setBundle n slot b d) = setBundle n slot c d := by
  simp [setBundle, modCore, setCore, coreOf]

theorem modBundle_setBundle (n slot : Nat) (f : Bundle → Bundle) (b : Bundle) (d : Dev) :
    modBundle n slot f (setBundle n slot b d) = setBundle n slot (f b) d := by
  have found : bundleOf? (setBundle n slot b d) n slot = some b := by
    unfold bundleOf? setBundle
    rw [coreOf_modCore]
    exact kfind?_kput_self _ _ _
  unfold modBundle
  rw [found]
  exact setBundle_setBundle n slot b (f b) d

section
variable {t : Time} {n slot : Fin 64} {s a : State} {x : Site} {i : BundleInstr}
variable (ha : a = atMem t s) (ready : readySite? n slot.val a.dev = some x) (split : x.split = true)
include ha ready split

theorem exec_issue_quiet {b : Bundle} (whole : parityLane? x.bundle (regsRead i) = none) (may : operandsReady x i a.dev = true)
    (quiet : quietBundle x.bundle i = some b) : exec (.coreIssue t n slot { instr := i } []) s = .next (cleared a
      (setBundle n.val slot.val b (modCore n.val (fun c => { c with retired := c.retired + 1 }) a.dev))) := by
  obtain ⟨hn, hs, -, -, -⟩ := readySite_siteAt ready
  rw [exec_issue ha ready, issueInstr_quiet whole may quiet, ← hn, ← hs]
  exact congrArg (fun d => Host.Outcome.next (cleared a d)) (retires_split split)

end

section
variable {x : Site} {s : State} {d : Dev}

theorem operandsReady_open {i : BundleInstr} (split : x.split = true)
    (open_ : (∃ m, i = .setMask m) ∨ i = .rejoin ∨ i = .barrier ∨ i = .finish ∨ ∃ p, i = .branch p) : operandsReady x i d = true := by
  have may (closing : Bool) := mayRetire_split (d := d) (closing := closing) split
  obtain ⟨m, rfl⟩ | rfl | rfl | rfl | ⟨p, rfl⟩ := open_ <;> simp [operandsReady, may]

theorem operandsReady_engine {e : Fin 4} (split : x.split = true) (idle : (engineOf (coreOf d x.core.val) e.val).op = none) :
    operandsReady x (.engineWait e) d = true := by
  simp [operandsReady, mayRetire_split split, idle]

theorem operandsReady_tensor {e : Fin 4} {op : EngineOp} (split : x.split = true) (passA : x.bundle.passB = false)
    (idle : (engineOf (coreOf d x.core.val) e.val).op = none) : operandsReady x (.tensorStart e op) d = true := by
  simp [operandsReady, mayRetire_split split, passA, idle]

theorem operandsReady_channel {ch c : Nat} (split : x.split = true) (found : channelOf? d x.core.val ch = some c)
    (idle : (dmaOf d c).busy = false) : operandsReady x (.dmaWait ch) d = true ∧
      ∀ src dst lines post, operandsReady x (.dmaStart ch src dst lines post) d = true := by
  simp [operandsReady, mayRetire_split split, found, idle]

theorem issueInstr_barrier (may : operandsReady x .barrier s.dev = true) : issueInstr x .barrier s =
    onDev (fun d => atBarrier x (retireInstr x x.bundle [] false none d)) s := by
  unfold issueInstr
  dsimp only [regsRead]
  rw [parityLane_none, may]
  rfl

theorem issueInstr_finish (may : operandsReady x .finish s.dev = true) : issueInstr x .finish s =
    onDev (fun d => afterEnd x (retireInstr x x.bundle [] true none d)) s := by
  unfold issueInstr
  dsimp only [regsRead]
  rw [parityLane_none, may]
  rfl

theorem issueInstr_signal {obj : Nat} {op : SignalOp} (may : operandsReady x (.signal obj op) s.dev = true) :
    issueInstr x (.signal obj op) s = onDev (issueSignal x obj op) s := by
  unfold issueInstr
  dsimp only [regsRead]
  rw [parityLane_none, may]
  rfl

theorem issueInstr_dma {ch lines : Nat} {src dst : DmaPlace} {post : Option (Nat × Nat)}
    (may : operandsReady x (.dmaStart ch src dst lines post) s.dev = true) :
    issueInstr x (.dmaStart ch src dst lines post) s = onDev (issueDma x ch src dst lines post) s := by
  unfold issueInstr
  dsimp only [regsRead]
  rw [parityLane_none, may]
  rfl

theorem issueInstr_tensor {e : Fin 4} {op : EngineOp} (may : operandsReady x (.tensorStart e op) s.dev = true) :
    issueInstr x (.tensorStart e op) s = issueTensor x e op s := by
  unfold issueInstr
  dsimp only [regsRead]
  rw [parityLane_none, may]
  rfl

/-- A tensor instruction of pass A starts its idle engine (R215). -/
theorem issueTensor_starts {e : Fin 4} {op : EngineOp} (passA : x.bundle.passB = false)
    (idle : (engineOf (coreOf s.dev x.core.val) e.val).op = none) (fits : ∃ p, pairInfo? op.pair = some p ∧ opOk p op = true)
    (inside : ∀ r ∈ opReads op ++ opWrites op, inView x.kernel r.1 r.2 = true) : issueTensor x e op s =
      onDev (fun d => retireInstr x (bump x.bundle) (tensorItems x.bundle op) false none
        (setEngine x.core.val e.val { engineOf (coreOf s.dev x.core.val) e.val with
          op := some op, slot := x.slot, base := x.bundle.base
          owner := some (x.bundle.group, x.bundle.index, x.bundle.ordinal) } d)) s := by
  obtain ⟨p, pair, ok⟩ := fits
  have valid : ((pairInfo? op.pair).map fun p => opOk p op).getD false = true := by
    rw [pair]
    exact ok
  have view : ((opReads op ++ opWrites op).all fun r => inView x.kernel r.1 r.2) = true := List.all_eq_true.mpr inside
  unfold issueTensor
  dsimp only
  rw [valid, view, passA, idle]
  rfl

end

/-! ### DMA channels of a cluster (R140, R197) -/

section
variable {d : Dev} {core ch c : Nat}

/-- A channel of the cluster that takes the work of a channel has a number of its own in the cluster, and carries its own work while
it is in service. -/
theorem channelOf_place (found : channelOf? d core ch = some c) : ∃ i, i < 16 ∧ c = 16 * (core / 4) + i := by
  unfold channelOf? at found
  dsimp only at found
  split at found
  · cases found
  · split at found
    · exact ⟨ch, by omega, (Option.some.inj found).symm⟩
    · have member := List.mem_of_getElem? found
      rw [List.mem_filter, List.mem_map] at member
      obtain ⟨⟨i, inside, rfl⟩, -⟩ := member
      exact ⟨i, List.mem_range.mp (List.mem_reverse.mp inside), rfl⟩

theorem channelOf_self {i : Nat} (small : i < 16) (here : (dmaOf d (16 * (core / 4) + i)).out = false) :
    channelOf? d core i = some (16 * (core / 4) + i) := by
  unfold channelOf?
  dsimp only
  rw [if_neg (by omega)]
  refine if_pos ?_
  simp [here]

theorem channelOf_carrier (found : channelOf? d core ch = some c) (here : (dmaOf d c).out = false) :
    channelOf? d core (c % 16) = some c := by
  obtain ⟨i, small, rfl⟩ := channelOf_place found
  have own : (16 * (core / 4) + i) % 16 = i := by omega
  rw [own]
  exact channelOf_self small here

end

theorem modDma_congr {c : Nat} {f g : DmaChannel → DmaChannel} {d : Dev} (same : f (dmaOf d c) = g (dmaOf d c)) :
    modDma c f d = modDma c g d := by
  unfold modDma
  rw [same]

/-- A transfer starts on the channel that carries it, which is in service. -/
theorem startDma_carried {x : Site} {c src dst lines : Nat} {post : Option (Nat × Nat)} {d : Dev}
    (carrier : channelOf? d x.core.val (c % 16) = some c) (runs_ : (dmaOf d c).halted = false) (here : (dmaOf d c).out = false) :
    startDma x c src dst lines post d = modDma c (fun c => { c with
      busy := true, served := none, src := src, dst := dst, lines := lines, linesDone := 0, core := x.core.val
      owner := (x.bundle.group, x.bundle.index), partition := x.run.op.partition, post := post }) d := by
  have serves : ¬((dmaOf d c).halted || (dmaOf d c).out) = true := by
    rw [runs_, here]
    exact Bool.false_ne_true
  unfold startDma
  rw [carrier]
  exact modDma_congr (if_neg serves)

theorem issueDma_starts {x : Site} {ch c lines : Nat} {src dst : DmaPlace} {post : Option (Nat × Nat)} {d : Dev} (split : x.split = true)
    (within : ch < x.kernel.dmaChannels) (found : channelOf? d x.core.val ch = some c) (idle : (dmaOf d c).busy = false)
    (runs_ : (dmaOf d c).halted = false) (here : (dmaOf d c).out = false) (reads : dmaReach x lines false src = true)
    (writes : dmaReach x lines true dst = true) (posts : ∀ e, post = some e → e.1 < x.kernel.signals) :
    issueDma x ch src dst lines post d = modDma c (fun c => { c with
      busy := true, served := none, src := dmaAddr x src, dst := dmaAddr x dst, lines := lines, linesDone := 0, core := x.core.val
      owner := (x.bundle.group, x.bundle.index), partition := x.run.op.partition
      post := post.map fun e => (objectOf x e.1, e.2) })
        (setBundle x.core.val x.slot x.bundle (modCore x.core.val (fun c => { c with retired := c.retired + 1 }) d)) := by
  have inside : ¬(ch ≥ x.kernel.dmaChannels ∨ (!dmaReach x lines false src) = true ∨ (!dmaReach x lines true dst) = true) := by
    rw [reads, writes]
    simp [within]
  have free : ((dmaOf d c).busy || !mayRetire x true d) = false := by
    rw [idle, mayRetire_split split]
    rfl
  unfold issueDma
  dsimp only
  rw [if_neg inside]
  refine (if_neg ?_).trans ?_
  · cases post with
    | none => exact Bool.false_ne_true
    | some e => simp [posts e rfl]
  rw [found]
  dsimp only
  rw [free, if_neg Bool.false_ne_true, retireInstr_act split]
  exact startDma_carried (channelOf_carrier found here) runs_ here

/-! ### Memory accesses of lanes (R195, R203, R247) -/

section
variable {x : Site} {s e : State} {vs : List (Nat × List Byte)} {w : Nat}

theorem finishLoad_split {dst : Fin 64} {its : List W128} (split : x.split = true) : finishLoad x dst w (some vs) its e =
    onDev (fun d => setBundle x.core.val x.slot (loadedBundle dst vs ((w + 3) / 4) x.bundle)
      (modCore x.core.val (fun c => { c with retired := c.retired + 1 }) d)) e :=
  congrArg (fun g : Dev => { e with dev := g }) (retires_split (d := e.dev) split)

theorem widthOk_of {r : Fin 64} (some_ : 1 ≤ w) (within : r.val + (w + 3) / 4 ≤ 64) : widthOk r w = true := by
  simp [widthOk, some_, within]

/-- The requests of a device access of `x` in `a` have their tokens in `g`. -/
def tokensCome (x : Site) (lines : List (Nat × Nat)) (write : Bool) (a g : State) : Prop :=
  x.bundle.served.isSome = true ∧ g = a ∨ x.bundle.served = none ∧ ∃ u, g = { a with dev := g.dev } ∧ u ≤ g.dev.geyser.now ∧
    claimAll (.core x.core) (coreKey a.dev x.core.val) (lines.takeWhile fun e =>
      gate (.core x.core) (coreKey a.dev x.core.val) e.1 write a.dev == .go) a.dev = (some u, g.dev)

/-- The site of a bundle that waits for no tokens any more. -/
def tokensTaken (x : Site) : Site := { x with bundle := { x.bundle with served := none } }

/-- Once its requests have their tokens, a device access goes on in the state in which they were taken. -/
theorem withTokens_goes {lines : List (Nat × Nat)} {write : Bool} {f : Site → State → State} {a g : State}
    (tokens : tokensCome x lines write a g) : withTokens x lines write f a = f (tokensTaken x) g := by
  unfold withTokens
  dsimp only
  obtain ⟨served, rfl⟩ | ⟨unserved, u, hg, come, claimed⟩ := tokens
  · obtain ⟨u, served⟩ := Option.isSome_iff_exists.mp served
    rw [served]
    rfl
  · rw [unserved, claimed]
    dsimp only
    rw [if_pos come, ← hg]
    rfl

section
variable {dst src addr operand : Fin 64} {const : Bool} {op : AtomicOp} {base : DevBase}

/-- The classes that wait for nothing but room in the signature store, on a SPLIT core or in pass A. -/
theorem operandsReady_access {i : BundleInstr} (split : x.split = true) (passA : x.bundle.passB = false)
    (access : (∃ dst addr const w, i = .loadLocal dst addr const w) ∨ (∃ src addr const w, i = .storeLocal src addr const w) ∨
      (∃ op dst addr operand, i = .atomicLocal op dst addr operand) ∨ (∃ dst base addr w, i = .loadDevice dst base addr w) ∨
      (∃ src base addr w, i = .storeDevice src base addr w) ∨ ∃ op dst base addr operand, i = .atomicDevice op dst base addr operand)
    (d : Dev) : operandsReady x i d = true := by
  have may : mayRetire x false d = true := mayRetire_split split
  obtain ⟨_, _, _, _, rfl⟩ | ⟨_, _, _, _, rfl⟩ | ⟨_, _, _, _, rfl⟩ | ⟨_, _, _, _, rfl⟩ | ⟨_, _, _, _, rfl⟩ | ⟨_, _, _, _, _, rfl⟩ :=
    access <;> simp [operandsReady, may, passA]

theorem issueInstr_loadLocal (whole : parityLane? x.bundle [addr] = none)
    (may : operandsReady x (.loadLocal dst addr const w) s.dev = true) (width : widthOk dst w = true)
    (lanes : lanesDo (activeLanes x.bundle) (localRead x const addr w) s = (some vs, e)) :
    issueInstr x (.loadLocal dst addr const w) s = finishLoad x dst w (some vs) [] e := by
  unfold issueInstr
  dsimp only [regsRead]
  rw [whole]
  dsimp only
  rw [may, width, lanes]
  rfl

theorem issueInstr_storeLocal (whole : parityLane? x.bundle (regsRead (.storeLocal src addr const w)) = none)
    (may : operandsReady x (.storeLocal src addr const w) s.dev = true) (width : widthOk src w = true)
    (lanes : lanesDo (activeLanes x.bundle) (fun l s => localWrite x const addr l (regBytes x.bundle l src w) s) s = (some vs, e)) :
    issueInstr x (.storeLocal src addr const w) s = onDev (retireInstr x x.bundle
      (storeItems 0x02 w x.bundle (fun l => leBytes 4 (regAt x.bundle l addr).toNat) (regBytes x.bundle · src w)) false none) e := by
  unfold issueInstr
  dsimp only
  rw [whole]
  dsimp only
  rw [may, width, lanes]
  rfl

theorem issueInstr_atomicLocal (whole : parityLane? x.bundle [addr, operand] = none)
    (may : operandsReady x (.atomicLocal op dst addr operand) s.dev = true) :
    issueInstr x (.atomicLocal op dst addr operand) s = issueAtomicLocal x op dst addr operand s := by
  unfold issueInstr
  dsimp only [regsRead]
  rw [whole]
  dsimp only
  rw [may]
  rfl

theorem issueInstr_loadDevice {g : State} (whole : parityLane? x.bundle [addr] = none)
    (may : operandsReady x (.loadDevice dst base addr w) s.dev = true) (width : widthOk dst w = true)
    (tokens : tokensCome x (deviceLines x base addr w false s.dev) false s g)
    (lanes : lanesDo (activeLanes x.bundle) (deviceRead (tokensTaken x) base addr w) g = (some vs, e)) :
    issueInstr x (.loadDevice dst base addr w) s = finishLoad (tokensTaken x) dst w (some vs) [] e := by
  unfold issueInstr
  dsimp only [regsRead]
  rw [whole]
  dsimp only
  rw [may, width]
  refine (if_neg Bool.false_ne_true).trans ((if_pos rfl).trans ((withTokens_goes tokens).trans ?_))
  rw [lanes]

theorem issueInstr_storeDevice {g : State} (whole : parityLane? x.bundle (regsRead (.storeDevice src base addr w)) = none)
    (may : operandsReady x (.storeDevice src base addr w) s.dev = true) (width : widthOk src w = true) (passA : x.bundle.passB = false)
    (tokens : tokensCome x (deviceLines x base addr w true s.dev) true s g)
    (lanes : lanesDo (activeLanes x.bundle) (fun l s => deviceWrite (tokensTaken x) base addr l (regBytes x.bundle l src w) s) g =
      (some vs, e)) :
    issueInstr x (.storeDevice src base addr w) s = onDev (retireInstr (tokensTaken x) (tokensTaken x).bundle (storeItems 0x03 w x.bundle
      (fun l => leBytes 8 (devAddr x base addr l)) (regBytes x.bundle · src w)) false none) e := by
  unfold issueInstr
  dsimp only
  rw [whole]
  dsimp only
  rw [may, width, passA]
  refine (if_neg Bool.false_ne_true).trans ((if_neg Bool.false_ne_true).trans ((if_neg Bool.false_ne_true).trans
    ((withTokens_goes tokens).trans ?_)))
  rw [lanes]

theorem issueInstr_atomicDevice (whole : parityLane? x.bundle [addr, operand] = none)
    (may : operandsReady x (.atomicDevice op dst base addr operand) s.dev = true) :
    issueInstr x (.atomicDevice op dst base addr operand) s = issueAtomicDevice x op dst base addr operand s := by
  unfold issueInstr
  dsimp only [regsRead]
  rw [whole]
  dsimp only
  rw [may]
  rfl

/-- What a lane of an atomic does: it reads the old value and leaves the new one. -/
def atomicStep (x : Site) (op : AtomicOp) (operand : Fin 64) (read : Nat → State → Option (List Byte) × State)
    (write : Nat → List Byte → State → Option (List Byte) × State) (l : Nat) (s : State) : Option (List Byte) × State :=
  match read l s with
  | (some old, s) => match write l (leBytes 4 (atomicNew op (wordOf old 0) (regAt x.bundle l operand)).toNat) s with
    | (some _, s) => (some old, s)
    | (none, s) => (none, s)
  | (none, s) => (none, s)

theorem atomicStep_eq (read : Nat → State → Option (List Byte) × State)
    (write : Nat → List Byte → State → Option (List Byte) × State) (l : Nat) (s : State) :
    (match (read l s).1 with
      | some old =>
        ((write l (leBytes 4 (atomicNew op (wordOf old 0) (regAt x.bundle l operand)).toNat) (read l s).2).1.map fun _ => old,
          (write l (leBytes 4 (atomicNew op (wordOf old 0) (regAt x.bundle l operand)).toNat) (read l s).2).2)
      | none => (none, (read l s).2)) = atomicStep x op operand read write l s := by
  unfold atomicStep
  obtain ⟨o, s⟩ := read l s
  cases o with
  | none => rfl
  | some old =>
    dsimp only
    obtain ⟨w, s⟩ := write l (leBytes 4 (atomicNew op (wordOf old 0) (regAt x.bundle l operand)).toNat) s
    cases w <;> rfl

theorem lanesDo_congr {f g : Nat → State → Option (List Byte) × State} (same : ∀ l s, f l s = g l s) (ls : List Nat) (s : State) :
    lanesDo ls f s = lanesDo ls g s := by
  rw [funext fun l => funext fun s => same l s]

theorem issueAtomicLocal_swaps (lanes : lanesDo (activeLanes x.bundle)
      (atomicStep x op operand (localRead x false addr 4) (fun l => localWrite x false addr l)) s = (some vs, e)) :
    issueAtomicLocal x op dst addr operand s = finishLoad x dst 4 (some vs) (atomicItems op x.bundle
      (fun l => (regAt x.bundle l addr).toNat) (regAt x.bundle · operand) fun l => wordOf (bytesOf vs l) 0) e := by
  unfold issueAtomicLocal
  dsimp only
  rw [lanesDo_congr (g := atomicStep x op operand (localRead x false addr 4) (fun l => localWrite x false addr l)) (fun l s => ?_), lanes]
  exact atomicStep_eq _ _ l s

theorem issueAtomicDevice_swaps {g : State} (split : x.split = true) (passA : x.bundle.passB = false)
    (tokens : tokensCome x (deviceLines x base addr 4 true s.dev) true s g)
    (lanes : lanesDo (activeLanes x.bundle) (atomicStep x op operand (deviceRead (tokensTaken x) base addr 4)
      (fun l => deviceWrite (tokensTaken x) base addr l)) g = (some vs, e)) :
    issueAtomicDevice x op dst base addr operand s = finishLoad { x with bundle := bump (tokensTaken x).bundle } dst 4
      (some vs) (atomicItems op x.bundle (devAddr x base addr) (regAt x.bundle · operand) fun l => wordOf (bytesOf vs l) 0) e := by
  have unforwarded (v : List W32) (d : Dev) : forward (tokensTaken x) v d = d := if_pos split
  unfold issueAtomicDevice
  dsimp only
  rw [passA]
  refine (if_neg Bool.false_ne_true).trans ((withTokens_goes tokens).trans ?_)
  rw [lanesDo_congr (g := atomicStep x op operand (deviceRead (tokensTaken x) base addr 4)
    (fun l => deviceWrite (tokensTaken x) base addr l)) (fun l s => ?_), lanes]
  · dsimp only
    rw [show onDev (forward (tokensTaken x) (vs.map fun e => wordOf e.2 0)) e = e from congrArg (fun d => { e with dev := d })
      (unforwarded _ _)]
    rfl
  · exact atomicStep_eq _ _ l s

end

end

/-! ### Traps (R205 to R210) -/

theorem more_bits (i : Fin 32) (t c : Bool) :
    (((t || (0x80000000 : W32).getLsbD i) && (0xFFFFFF00 : W32).getLsbD i || (0x40000000 : W32).getLsbD i ||
        (c && (0xFF : W32).getLsbD i)) && (t || (0x7FFFFFFF : W32).getLsbD i)) =
      ((t && (0xFFFFFF00 : W32).getLsbD i || (c && (0xFF : W32).getLsbD i)) || (0x40000000 : W32).getLsbD i) := by
  revert i t c
  decide

/-- A status word with COUNT `c` and MORE, whose VALID stays as it was. -/
theorem more_word (t c : W32) :
    ((t ||| 0x80000000) &&& 0xFFFFFF00 ||| 0x40000000 ||| (c &&& 0xFF)) &&& (t ||| 0x7FFFFFFF) =
      (t &&& 0xFFFFFF00 ||| (c &&& 0xFF)) ||| 0x40000000 := by
  refine BitVec.eq_of_getLsbD_eq fun i hi => ?_
  simp only [BitVec.getLsbD_and, BitVec.getLsbD_or]
  exact more_bits ⟨i, hi⟩ (t.getLsbD i) (c.getLsbD i)

theorem valid_set (t : W32) : (t ||| 0x80000000) &&& 0x80000000 ≠ 0 := by
  intro h
  have bit := congrArg (fun w : W32 => w.getLsbD 31) h
  simp at bit

theorem count_valid (t : W32) : (t ||| 0x80000000) &&& 0xFF = t &&& 0xFF := by
  rw [BitVec.and_or_distrib_right]
  exact BitVec.or_zero

/-- COUNT of a status word counts up in its low byte while it is not full. -/
theorem count_up {t : W32} (room : t &&& 0xFF ≠ 0xFF) : ((t &&& 0xFF) + 1) &&& 0xFF = (t &&& 0xFF) + 1 ∧
    t + 1 = t &&& 0xFFFFFF00 ||| ((t &&& 0xFF) + 1) := by
  have field : (t &&& 0xFF).toNat ≤ 255 := by
    rw [BitVec.toNat_and]
    exact Nat.and_le_right
  have short : (t &&& 0xFF).toNat ≠ 255 := fun h => room (BitVec.eq_of_toNat_eq h)
  have low : ((t &&& 0xFF) + 1) &&& 0xFF = (t &&& 0xFF) + 1 := by
    have small : ((t &&& 0xFF) + 1).toNat < 2 ^ 8 := by
      rw [BitVec.toNat_add, show (1 : W32).toNat = 1 from rfl]
      omega
    refine BitVec.eq_of_toNat_eq ?_
    rw [BitVec.toNat_and]
    exact Nat.and_two_pow_sub_one_of_lt_two_pow small
  have apart (c : W32) : t &&& 0xFFFFFF00 &&& (c &&& 0xFF) = 0 := by
    rw [BitVec.and_assoc, BitVec.and_comm c, ← BitVec.and_assoc 0xFFFFFF00]
    exact (congrArg (t &&& ·) BitVec.zero_and).trans BitVec.and_zero
  have parts : t = (t &&& 0xFFFFFF00) + (t &&& 0xFF) := by
    rw [BitVec.add_eq_or_of_and_eq_zero _ _ (apart t), ← BitVec.and_or_distrib_left]
    exact BitVec.and_allOnes.symm
  have sum : (t &&& 0xFFFFFF00) + ((t &&& 0xFF) + 1) = t &&& 0xFFFFFF00 ||| ((t &&& 0xFF) + 1) := by
    rw [← low]
    exact BitVec.add_eq_or_of_and_eq_zero _ _ (apart _)
  refine ⟨low, Eq.trans ?_ sum⟩
  rw [← BitVec.add_assoc, ← parts]

theorem captureWord_more (t : W32) : captureWord (t ||| 0x80000000) 0 &&& (t ||| 0x7FFFFFFF) =
    (if t &&& 0xFF = 0xFF then t else t + 1) ||| 0x40000000 := by
  unfold captureWord
  extract_lets count
  rw [if_neg (valid_set t)]
  by_cases full : t &&& 0xFF = 0xFF
  · have all : count = 0xFF &&& 0xFF := if_pos ((count_valid t).trans full)
    rw [if_pos full, all, more_word]
    have whole : t &&& 0xFFFFFF00 ||| t &&& 0xFF = t := by
      rw [← BitVec.and_or_distrib_left]
      exact BitVec.and_allOnes
    rw [show (0xFF &&& 0xFF : W32) = t &&& 0xFF from full.symm, whole]
  · obtain ⟨low, sum⟩ := count_up full
    have next : count = ((t &&& 0xFF) + 1) &&& 0xFF := by
      refine (if_neg (count_valid t ▸ full)).trans ?_
      rw [count_valid, low]
    rw [if_neg full, next, more_word, low, sum]

theorem coreOf_noteCapture (r : Reg) (old body : W32) (addr : W64) (k : Nat) (d : Dev) :
    coreOf (noteCapture r old body addr d) k = coreOf d k := by
  rw [noteCapture_frame]
  rfl

theorem geyser_stopIssue (r : Run_) (d : Dev) : (stopIssue r d).geyser = d.geyser := by
  unfold stopIssue
  induction r.cores generalizing d with
  | nil => rfl
  | cons n ns ih => exact ih (clearCore n d)

theorem geyser_captureTrap (n k : Nat) (i : TrapInfo) (rerun : Bool) (d : Dev) : (captureTrap n i rerun k d).geyser = d.geyser := by
  unfold captureTrap
  dsimp only
  rw [noteCapture_frame]
  rfl

theorem coreOf_captureTrap (n k : Nat) (i : TrapInfo) (rerun : Bool) (d : Dev) : coreOf (captureTrap n i rerun k d) n =
    { coreOf d n with
      trapStatus := captureWord (coreOf d n).trapStatus (trapBody i rerun)
      trapAddr := if (coreOf d n).trapStatus &&& 0x80000000 = 0 then trapPlace i k else (coreOf d n).trapAddr } := by
  unfold captureTrap
  dsimp only
  rw [coreOf_modCore, coreOf_noteCapture]

theorem trapOn_stopped {n : Nat} {i : TrapInfo} {r : Run_} {d : Dev} (run : runOn? d n = some r) (stopped : r.stopped = true) :
    trapOn n i d = moreTrap n d := by
  unfold trapOn
  rw [run]
  exact if_pos stopped

theorem coreOf_moreTrap (n : Nat) (d : Dev) : coreOf (moreTrap n d) n = { coreOf d n with
    trapStatus := (if (coreOf d n).trapStatus &&& 0xFF = 0xFF then (coreOf d n).trapStatus else (coreOf d n).trapStatus + 1) |||
      0x40000000 } := by
  rw [← captureWord_more]
  exact coreOf_modCore d n (fun c : Core => { c with
    trapStatus := captureWord (c.trapStatus ||| 0x80000000) 0 &&& (c.trapStatus ||| 0x7FFFFFFF) })

/-- The kinds of trap that are an event on the core's own source, and end nothing but a re-run. -/
theorem trapOn_captures {n : Nat} {i : TrapInfo} {r : Run_} {d : Dev} (run : runOn? d n = some r) (runs_ : r.stopped = false)
    (kind : i.kind ∈ [1, 3, 5, 6, 8, 9]) {e : Dev}
    (he : e = trapInput r i.kind (signal (8 * n + 3) (modRun n (fun r => { r with
      stopped := true, stoppedAt := d.geyser.now, outcome := some i.kind }) (stopIssue r (captureTrap n i r.rerun r.op.kernel d))))) :
    trapOn n i d = if r.rerun then pump (fenceCore n e) else e := by
  have source : i.kind = tIllegal ∨ i.kind = tLocal ∨ i.kind = tAddress ∨ i.kind = tRegParity ∨ i.kind = tEngineLimit ∨
      i.kind = tSignalRange := by
    unfold tIllegal tLocal tAddress tRegParity tEngineLimit tSignalRange
    simp only [List.mem_cons, List.not_mem_nil, or_false] at kind
    omega
  have usable : ¬(i.kind = tFetch ∨ i.kind = tPoisoned) := by
    unfold tFetch tPoisoned
    simp only [List.mem_cons, List.not_mem_nil, or_false] at kind
    omega
  have timely : i.kind ≠ tOverrun := by
    unfold tOverrun
    simp only [List.mem_cons, List.not_mem_nil, or_false] at kind
    omega
  unfold trapOn
  rw [run]
  dsimp only
  rw [if_neg (ne_true_of_eq_false runs_), if_neg usable, if_neg timely, geyser_stopIssue, geyser_captureTrap, he]
  unfold trapSource
  rw [if_pos source]
  rfl

/-- The two faults of a fetch, which a trap takes at once. -/
theorem exec_fetch_fault {t : Time} {n slot : Fin 64} {i : BundleInstr} {s a : State} {x : Site} (ha : a = atMem t s)
    (ready : readySite? n slot.val a.dev = some x) (off : Nat) :
    exec (.coreIssue t n slot { instr := i, fault := some (.illegal off) } []) s =
      .next (cleared a (trapOn n.val { kind := 1, slot := slot.val, addr := off } a.dev)) ∧
    exec (.coreIssue t n slot { instr := i, fault := some (.fetchUncorrectable off) } []) s =
      .next (cleared a (trapOn n.val { kind := 2, slot := slot.val, addr := off } a.dev)) := by
  obtain ⟨-, hs, -, -, -⟩ := readySite_siteAt ready
  constructor
  · have may : mayIssue n a.dev { instr := i, fault := some (.illegal off), slot := slot } = true := by
      unfold mayIssue
      rw [ready]
    have issue : issueOne n { instr := i, fault := some (.illegal off), slot := slot } a =
        onDev (trapOn n.val { kind := 1, slot := slot.val, addr := off }) a := by
      unfold issueOne
      rw [ready]
      dsimp only
      rw [hs]
      rfl
    exact exec_issue_fault ha ready may issue
  · have may : mayIssue n a.dev { instr := i, fault := some (.fetchUncorrectable off), slot := slot } = true := by
      unfold mayIssue
      rw [ready]
    have issue : issueOne n { instr := i, fault := some (.fetchUncorrectable off), slot := slot } a =
        onDev (trapOn n.val { kind := 2, slot := slot.val, addr := off }) a := by
      unfold issueOne
      rw [ready]
      dsimp only
      rw [hs]
      rfl
    exact exec_issue_fault ha ready may issue

/-! ### The obligation -/

/-- The written value of one of the six forms, from what the statement says of each lane. -/
theorem writtenValue_of {x : Site} {i : BundleInstr} {dst : Fin 64} {v : Nat → W32}
    (form : (∃ op p q r, i = .vec op dst p q r ∧ ∀ l, v l = vecEval op (regAt x.bundle l p) (regAt x.bundle l q) (regAt x.bundle l r)) ∨
      (∃ fn p q, i = .special fn dst p q ∧ ∀ l, v l = specialEval fn (regAt x.bundle l p) (regAt x.bundle l q)) ∨
      (i = .imm dst (v 0) ∧ ∀ l, v l = v 0) ∨
      (∃ k high, i = .argument dst k high ∧
        ∀ l, v l = (if high then (x.run.args.getD k.val 0) >>> 32 else x.run.args.getD k.val 0).setWidth 32) ∨
      (∃ p float, i = .laneReduceAdd dst p float ∧ ∀ l, v l = treeAdd float 6 ((List.range 64).map fun l =>
        if (activeMask x.bundle).getLsbD l then regAt x.bundle l p else Config.idleLane (activeMask x.bundle) l)) ∨
      (∃ p q, i = .lanePermute dst p q ∧ ∀ l, v l = regAt x.bundle ((regAt x.bundle l q).toNat % 64) p)) :
    writtenValue x i = some (dst, v) := by
  have same {u : Nat → W32} (h : ∀ l, v l = u l) : some (dst, u) = some (dst, v) := congrArg (fun u => some (dst, u)) (funext h).symm
  obtain ⟨_, _, _, _, rfl, h⟩ | ⟨_, _, _, rfl, h⟩ | ⟨hi, h⟩ | ⟨_, _, rfl, h⟩ | ⟨_, _, rfl, h⟩ | ⟨_, _, rfl, h⟩ := form
  · exact same h
  · exact same h
  · rw [hi]
    exact same h
  · exact same h
  · exact same h
  · exact same h

/-- Settles O25, by the candidates that an issue step chooses and what `issueInstr` does for each form of instruction. -/
theorem bundlesIssue : Obligations.BundlesIssue := by
  unfold Obligations.BundlesIssue
  refine ⟨?_, ?_, ?_, ?_, ?_, ?_, ?_⟩
  · rintro t n slot i others next s a rfl hnext
    have run : exec (.coreIssue t n slot i others) s = .next (zeroCores (coreIssue n next (atMem t s))) := by
      rw [hnext]
      rfl
    refine ⟨fun stalls => ?_, fun p one may => ?_, fun p q two slots mayP mayQ => ⟨fun classes => ?_, fun b c same hb hc => ?_⟩⟩
    · rw [run, coreIssue, chosen_none stalls]
      rfl
    · rw [run, one, coreIssue, chosen_one may]
      rfl
    · rw [run, two, coreIssue, chosen_two slots mayP mayQ, chosenOfTwo_classes slots classes]
      rfl
    · rw [run, two, coreIssue, chosen_two slots mayP mayQ, chosenOfTwo_older same hb hc]
      rfl
  · rintro t n slot i dst v b2 s a d x ha ready rfl whole form rfl
    have writes := writtenValue_of form
    refine ⟨fun l r hl => regAt_putReg dst v hl r, fun split => exec_issue_writes_split ha ready whole writes split, ?_⟩
    rintro w paired rfl
    refine ⟨fun open_ => exec_issue_writes_folds ha ready whole writes paired open_, fun last room => ?_,
      fun last full => exec_issue_writes_waits ha ready whole writes paired last full⟩
    rw [exec_issue_writes_closes ha ready whole writes paired last room]
    exact congrArg (fun d => Host.Outcome.next (cleared a d)) (closeSig_last (b := putReg dst v x.bundle) last)
  · rintro t n slot s a d x ha ready rfl split
    obtain ⟨hn, hs, -, -, -⟩ := readySite_siteAt ready
    have quiet (i : BundleInstr) (b : Bundle) := exec_issue_quiet (i := i) (b := b) ha ready split
    refine ⟨fun p whole => ?_, ?_, fun m => ?_, ?_, fun engine op passA idle fits inside => ?_, fun engine idle => ?_,
      fun ch c src dst lines post within found idle runs_ here reads writes posts => ?_, fun ch c found idle => ?_, ?_,
      fun obj op may => ?_⟩
    · exact quiet _ _ whole (operandsReady_open split (.inr (.inr (.inr (.inr ⟨p, rfl⟩))))) rfl
    · exact quiet _ _ (parityLane_none _) (operandsReady_open split (.inr (.inl rfl))) rfl
    · exact quiet _ _ (parityLane_none _) (operandsReady_open split (.inl ⟨m, rfl⟩)) rfl
    · rw [exec_issue_effect ha ready (issueInstr_barrier (operandsReady_open split (.inr (.inr (.inl rfl)))))]
      rw [retires_split split, hn, hs]
      unfold atBarrier
      rw [hn, hs, modBundle_setBundle]
    · rw [← hn] at idle
      rw [exec_issue_effect ha ready ((issueInstr_tensor (operandsReady_tensor split passA idle)).trans
        (issueTensor_starts passA idle fits inside)), retires_split split, hn, hs]
    · rw [← hn] at idle
      exact quiet _ _ (parityLane_none _) (operandsReady_engine split idle) rfl
    · rw [← hn] at found
      rw [exec_issue_effect ha ready (issueInstr_dma ((operandsReady_channel split found idle).2 src dst lines post)),
        issueDma_starts split within found idle runs_ here reads writes posts, hn, hs]
    · rw [← hn] at found
      exact quiet _ _ (parityLane_none _) (operandsReady_channel split found idle).1 rfl
    · rw [exec_issue_effect ha ready (issueInstr_finish (operandsReady_open split (.inr (.inr (.inr (.inl rfl)))))),
        retireInstr_none, split, retireQuiet_split, hn, hs]
    · exact exec_issue_effect ha ready (issueInstr_signal may)
  · rintro p b ⟨l, hl, active, taken⟩ ⟨k, hk, active', zero⟩
    have some_ : takenLanes p b (activeLanes b) ≠ 0 := ne_zero_of_getLsbD (k := l) (by
      rw [getLsbD_takenLanes hl, active, decide_eq_true taken]
      rfl)
    have others : activeMask b &&& ~~~takenLanes p b (activeLanes b) ≠ 0 := ne_zero_of_getLsbD (k := k) (by
      rw [getLsbD_otherLanes hk, active', decide_eq_true zero]
      rfl)
    rw [branchOn_splits some_ others, rejoin_other rfl others]
    exact ⟨fun l hl => ⟨getLsbD_takenLanes hl, getLsbD_otherLanes hl⟩, (rejoin_all rfl rfl).trans rfl⟩
  · rintro t n slot s a g e x y w vs write lines ha ready split passA rfl one
    obtain ⟨hn, hs, -, -, -⟩ := readySite_siteAt ready
    refine ⟨fun dst addr const width whole lanes => ?_, fun src addr const width whole lanes => ?_,
      fun op dst addr operand whole lanes => ?_, fun tokens => ?_⟩
    · have ready' := operandsReady_access split passA (.inl ⟨dst, addr, const, w, rfl⟩) a.dev
      refine ⟨loadedBundle dst vs ((w + 3) / 4) x.bundle, ?_, ?_, loadedBundle_frame dst vs _ _,
        fun l r hl => regAt_loadedBundle dst vs hl r width⟩
      · rw [exec_issue ha ready, issueInstr_loadLocal whole ready' (widthOk_of one width) lanes]
      · rw [finishLoad_split split, hn, hs]
    · have ready' := operandsReady_access split passA (.inr (.inl ⟨src, addr, const, w, rfl⟩)) a.dev
      rw [exec_issue ha ready, issueInstr_storeLocal whole ready' (widthOk_of one width) lanes, ← hn, ← hs]
      exact congrArg (fun d => Host.Outcome.next (cleared e d)) (retires_split split)
    · have ready' := operandsReady_access split passA (.inr (.inr (.inl ⟨op, dst, addr, operand, rfl⟩))) a.dev
      rw [exec_issue ha ready, issueInstr_atomicLocal whole ready', issueAtomicLocal_swaps lanes, finishLoad_split split,
        loadedBundle_one, hn, hs]
      rfl
    · rw [← hn] at tokens
      have taken : tokensCome x lines write a g := tokens
      refine ⟨fun dst base addr width whole hw hl lanes => ?_, fun src base addr width whole hw hl lanes => ?_,
        fun op dst base addr operand whole hw hl lanes => ?_⟩
      · subst hw hl
        have ready' := operandsReady_access split passA (.inr (.inr (.inr (.inl ⟨dst, base, addr, w, rfl⟩)))) a.dev
        rw [exec_issue ha ready, issueInstr_loadDevice whole ready' (widthOk_of one width) taken lanes]
        rfl
      · subst hw hl
        have ready' := operandsReady_access split passA (.inr (.inr (.inr (.inr (.inl ⟨src, base, addr, w, rfl⟩))))) a.dev
        rw [exec_issue ha ready, issueInstr_storeDevice whole ready' (widthOk_of one width) passA taken lanes, ← hn, ← hs]
        exact congrArg (fun d => Host.Outcome.next (cleared e d)) (retires_split (x := tokensTaken x) split)
      · subst hw hl
        have ready' := operandsReady_access split passA (.inr (.inr (.inr (.inr (.inr ⟨op, dst, base, addr, operand, rfl⟩))))) a.dev
        rw [exec_issue ha ready, issueInstr_atomicDevice whole ready', issueAtomicDevice_swaps split passA taken lanes, ← hn, ← hs]
        refine (congrArg (fun g => Host.Outcome.next (zeroCores g))
          (finishLoad_split (x := { x with bundle := bump (tokensTaken x).bundle }) split)).trans ?_
        rw [loadedBundle_one]
        rfl
  · intro t n slot i s a x ha ready
    obtain ⟨hn, hs, -, -, -⟩ := readySite_siteAt ready
    refine ⟨fun off => (exec_fetch_fault ha ready off).1, fun off => (exec_fetch_fault ha ready off).2, fun l bad => ?_⟩
    rw [exec_issue_effect ha ready (issueInstr_parity bad)]
    unfold laneTrap
    rw [hn, hs]
    rfl
  · intro n i r d e run
    refine ⟨fun stopped => ?_, fun runs_ kind he => ?_⟩
    · rw [trapOn_stopped run stopped]
      exact ⟨coreOf_moreTrap n d, rfl, rfl⟩
    · have trap := trapOn_captures run runs_ kind he
      rw [coreOf_captureTrap]
      refine ⟨?_, rfl, fun first => trap.trans (if_neg (ne_true_of_eq_false first)), fun again => trap.trans (if_pos again)⟩
      rfl

end Sys2Proof.Machine
end

section
/-! Tensor engines, comparators and injections (07 R157 to R182, 09 R224 to R230): what an operation's end, a drain and a comparison
do, and O27. -/

namespace Sys2Proof.Machine

open Sys2Proof

/-! ### The end of an operation (R157, R159, R177) -/

section
variable {n : Fin 64} {engine : Nat} {us : List EngineUpset} {op : EngineOp} {p : PairInfo} {a g : State} {e : Engine}
variable (he : e = engineOf (coreOf a.dev n.val) engine)
include he

theorem engineEnd_idle (idle : e.op = none ∨ isFenced a.dev n.val = true) : engineEnd n engine us a = a := by
  unfold engineEnd
  dsimp only
  rw [← he]
  obtain none_ | fenced := idle
  · rw [none_]
    rfl
  · cases found : e.op.bind fun op => (pairInfo? op.pair).map fun p => (op, p) with
    | none => rfl
    | some o => exact if_pos fenced

variable (some_ : e.op = some op) (pair : pairInfo? op.pair = some p) (live : isFenced a.dev n.val = false)
include some_ pair live

theorem engineEnd_limit (over_ : p.limit < (if op.start then 0 else e.k) + op.k) : engineEnd n engine us a =
    onDev (trapOn n.val { kind := tEngineLimit, slot := e.slot, engine := engine })
      (onDev (setEngine n.val engine { e with op := none }) a) := by
  have found : (e.op.bind fun op => (pairInfo? op.pair).map fun p => (op, p)) = some (op, p) := by
    rw [some_, Option.bind_some, pair]
    rfl
  unfold engineEnd
  dsimp only
  rw [← he, found]
  dsimp only
  rw [live]
  exact if_pos over_

variable (within : (if op.start then 0 else e.k) + op.k ≤ p.limit)
include within

theorem engineEnd_trapped
    (read : readOperands n engine e.slot e.base op (onDev (setEngine n.val engine { e with op := none }) a) = (none, g)) :
    engineEnd n engine us a = g := by
  have found : (e.op.bind fun op => (pairInfo? op.pair).map fun p => (op, p)) = some (op, p) := by
    rw [some_, Option.bind_some, pair]
    rfl
  unfold engineEnd
  dsimp only
  rw [← he, found]
  dsimp only
  rw [live]
  refine (if_neg Bool.false_ne_true).trans ((if_neg (Nat.not_lt.mpr within)).trans ?_)
  rw [read]

theorem engineEnd_accumulates {x : Operands} {h : Engine}
    (read : readOperands n engine e.slot e.base op (onDev (setEngine n.val engine { e with op := none }) a) = (some x, g))
    (hh : h = upsetEngine p us (accumulate p op.start x { e with op := none })) :
    engineEnd n engine us a = match op.drain with
      | none => onDev (setEngine n.val engine h) g
      | some o => drain n engine p op o us h
          (((runOn? (setEngine n.val engine { e with op := none } a.dev) n.val).map (·.stopped)).getD true)
          (onDev (setEngine n.val engine h) g) := by
  have found : (e.op.bind fun op => (pairInfo? op.pair).map fun p => (op, p)) = some (op, p) := by
    rw [some_, Option.bind_some, pair]
    rfl
  unfold engineEnd
  dsimp only
  rw [← he, found]
  dsimp only
  rw [live]
  refine (if_neg Bool.false_ne_true).trans ((if_neg (Nat.not_lt.mpr within)).trans ?_)
  rw [read, hh]
  rfl

end

/-! ### The cells (R158, R160) -/

/-- A table that lists every number below a bound. -/
theorem kfind_listed {α : Type} (f : Nat → α) {m k : Nat} (below : k < m) (first : Nat) :
    kfind? ((List.range' first m).map fun n => (n, f n)) (first + k) = some (f (first + k)) := by
  induction m generalizing first k with
  | zero => omega
  | succ m ih =>
    rw [List.range'_succ, List.map_cons]
    cases k with
    | zero => simp [kfind?]
    | succ k =>
      have later := ih (k := k) (by omega) (first + 1)
      rw [show first + 1 + k = first + (k + 1) by omega] at later
      exact (if_neg (by omega)).trans ((if_neg (by omega)).trans later)

theorem kfind_cells (f : Nat → Cell) {k : Nat} (below : k < 1089) : kfind? (cellKeys.map fun n => (n, f n)) k = some (f k) := by
  have listed := kfind_listed f below 0
  rw [Nat.zero_add, ← List.range_eq_range'] at listed
  exact listed

theorem cellAt_accumulate (p : PairInfo) (start : Bool) (x : Operands) (e : Engine) {i j : Nat} (hi : i < 33) (hj : j < 33) :
    cellAt (accumulate p start x e) i j = stepCell p x i j (if start then {} else cellAt e i j) := by
  have row : (33 * i + j) / 33 = i := by omega
  have col : (33 * i + j) % 33 = j := by omega
  have fresh : cellAt (if start then { e with cells := [], k := 0 } else e) i j = if start then {} else cellAt e i j := by
    cases start <;> rfl
  rw [← fresh]
  unfold accumulate
  dsimp only
  generalize (if start then { e with cells := [], k := 0 } else e) = e'
  unfold cellAt kget
  rw [kfind_cells _ (by omega), row, col]
  rfl

/-! ### Drains (R173 to R182) -/

section
variable {n : Fin 64} {engine : Nat} {p : PairInfo} {op : EngineOp} {o : Byte} {us : List EngineUpset} {e : Engine}
  {stopped : Bool} {s g : State}
variable (hg : g = onDev (modCore n.val fun c => { c with exempt := min (c.exempt + exemptCount p o op.saturate op.mag e) 4294967295 }) s)
include hg

theorem drain_passes (free : injectWaits (coreOf s.dev n.val) engine = false) (passes : failures p op o us e = []) :
    drain n engine p op o us e stopped s = if stopped then g else writeDrain n p op o e g := by
  unfold drain
  dsimp only
  rw [free, ← hg, passes]
  rfl

theorem drain_fails {u : EngineFail} {l : List EngineFail} (free : injectWaits (coreOf s.dev n.val) engine = false)
    (fails : failures p op o us e = u :: l) :
    drain n engine p op o us e stopped s = onDev (engineFail n.val engine e.slot op.pair u) g := by
  unfold drain
  dsimp only
  rw [free, ← hg, fails]
  rfl

/-- A drain that carries an injection, when every failure is the injection's own. -/
theorem drain_injected {j : Injection} (hj : j = injection (coreOf s.dev n.val).engInject)
    (waits : injectWaits (coreOf s.dev n.val) engine = true) (own : ∀ u ∈ failures p op o us e, injectMeets j u = true) :
    drain n engine p op o us e stopped s =
      onDev (applyInject n.val (decide (failures p op o us e ≠ []) || injectSeen p op o e j)) g := by
  have real : (failures p op o us e).filter (fun u => !injectMeets j u) = [] :=
    List.filter_eq_nil_iff.mpr fun u hu => by simp [own u hu]
  have seen : (failures p op o us e).any (injectMeets j) = decide (failures p op o us e ≠ []) := by
    cases all : failures p op o us e with
    | nil => rfl
    | cons u l =>
      rw [all] at own
      simp [own u List.mem_cons_self]
  unfold drain
  dsimp only
  rw [waits, ← hg, ← hj, seen]
  simp only [if_true, real]
  rfl

end

/-! ### A failing engine, and ENG_INJECT (R177 to R182) -/

section
variable {n engine slot pair : Nat} {u : EngineFail} {body : W32} {d : Dev}

theorem coreOf_captureEng (first : engCaptured n d = false) :
    (coreOf (captureEng n body d) n).engErr = captureWord (coreOf d n).engErr body := by
  unfold captureEng
  dsimp only
  rw [coreOf_modCore, first]
  rfl

theorem engineFail_first (first : engCaptured n d = false) : engineFail n engine slot pair u d =
    signal (sCore n (engineSource u.kind)) (trapOn n { kind := tEngineFault, slot := slot, engine := engine }
      (captureEng n (engErrBody engine pair u) d)) := by
  unfold engineFail
  dsimp only
  rw [first]
  rfl

end

/-! ### The comparator (R224 to R230) -/

section
variable {k group bundle window slot : Nat} {up : Bool} {d e : Dev} {a b : Option StoredSig}
variable (ha : (coreOf d k).store.find? (fun x => x.group == group && x.index == bundle && x.window == window && !x.passB) = a)
  (hb : (coreOf d k).store.find? (fun x => x.group == group && x.index == bundle && x.window == window && x.passB) = b)
include ha hb

theorem compareCore_alone (alone : a = none ∨ b = none) : compareCore k group bundle window up d = d := by
  unfold compareCore
  dsimp only
  rw [ha, hb]
  obtain rfl | rfl := alone
  · rfl
  · cases a <;> rfl

variable (he : e = modCore k (fun c => { c with store := c.store.filter fun x =>
    !(x.group == group && x.index == bundle && x.window == window) }) d)
  (hs : slot = (((coreOf d k).bundles.find? fun x => x.2.group == group && x.2.index == bundle && !x.2.passB).map (·.1)).getD 0)
variable {x y : StoredSig} (hx : a = some x) (hy : b = some y)
include he hs hx hy

theorem compareCore_equal (same : x.sig = y.sig) (sound : up = false) :
    compareCore k group bundle window up d = match x.act, runOn? e k with
      | some act, some r => match opKernel? e r.op with
        | some kern => doAct { core := Fin.ofNat 64 k, slot := slot, run := r, kernel := kern
                               bundle := { group := group, index := bundle }, split := false } act e
        | none => e
      | _, _ => e := by
  unfold compareCore
  dsimp only
  rw [ha, hb, hx, hy, ← he, ← hs]
  exact if_pos ⟨same, by rw [sound]; rfl⟩

theorem compareCore_differs (differs : x.sig ≠ y.sig ∨ up = true) :
    compareCore k group bundle window up d = pairMismatch k 0 group bundle window slot e := by
  unfold compareCore
  dsimp only
  rw [ha, hb, hx, hy, ← he, ← hs]
  refine if_neg fun h => ?_
  obtain ⟨same, sound⟩ := h
  obtain other | wrong := differs
  · exact other same
  · simp [wrong] at sound

end

theorem coreOf_capturePair {n kind group bundle window : Nat} {r : Run_} {d : Dev} (run : runOn? d n = some r) :
    coreOf (capturePair n kind group bundle window d) n = { coreOf d n with
      pairErr := captureWord (coreOf d n).pairErr (BitVec.ofNat 32
        (bit 29 r.rerun + kind * 2 ^ 27 + bundle % 64 * 2 ^ 21 + min window 8191 * 2 ^ 8))
      pairLoc := if (coreOf d n).pairErr &&& 0x80000000 = 0 then BitVec.ofNat 64 (r.op.kernel % 65536 * 2 ^ 48 + group % 2 ^ 32)
        else (coreOf d n).pairLoc } := by
  unfold capturePair
  rw [run]
  dsimp only
  rw [coreOf_modCore, coreOf_noteCapture]
  rfl

/-! ### PAIR_ERR of the Steward's processors through the reactions of a source -/

/-- Each processor's PAIR_ERR is the same in one device as in the other. -/
def keepsPairErr (d e : Dev) : Prop := ∀ p, (procOf e p).pairErr = (procOf d p).pairErr

theorem keepsPairErr_of_proc {d e : Dev} (h : e.cores.proc = d.cores.proc) : keepsPairErr d e := fun p => by
  unfold procOf
  rw [h]

theorem keepsPairErr_trans {a b c : Dev} (h : keepsPairErr a b) (k : keepsPairErr b c) : keepsPairErr a c :=
  fun p => (k p).trans (h p)

theorem stopAll_pairErr (d : Dev) : keepsPairErr d (stopAll d) := fun p => by
  unfold procOf stopAll
  dsimp only
  by_cases one : p = 1
  · subst one
    rw [kget_kput_self]
    rfl
  · rw [kget_kput_ne _ _ _ one]
    by_cases zero : p = 0
    · subst zero
      rw [kget_kput_self]
      rfl
    · rw [kget_kput_ne _ _ _ zero]

theorem enterSafe_pairErr (chip : Bool) (source : Nat) (d : Dev) : keepsPairErr d (enterSafe chip source d) := by
  cases chip with
  | false => exact keepsPairErr_of_proc (enterSafe_proc source d)
  | true =>
    have expired := onlyVerdicts_proc (expireAll_verdicts d)
    have latched : (latchSafe true source (expireAll d)).cores.proc = d.cores.proc := expired
    have safe : (toSafeState (latchSafe true source (expireAll d))).cores.proc = d.cores.proc := by
      unfold toSafeState
      dsimp only
      split <;> exact (abortChange_proc 3 _).trans latched
    unfold enterSafe
    dsimp only
    split
    · exact keepsPairErr_of_proc latched
    · exact keepsPairErr_trans (keepsPairErr_of_proc safe) (stopAll_pairErr _)

theorem applyMask_pairErr (mask source channel : Nat) (d : Dev) : keepsPairErr d (applyMask mask source channel d) := by
  have err : keepsPairErr d (if mask % 2 = 1 then assertErrN d else d) := by split <;> exact fun _ => rfl
  have unit (e : Dev) : keepsPairErr e (if mask / 4 % 2 = 1 then unitReset source channel e else e) := by
    split
    · exact keepsPairErr_of_proc (unitReset_proc source channel e)
    · exact fun _ => rfl
  have safe (e : Dev) : keepsPairErr e (if mask / 8 % 2 == 1 then enterSafe true source e
      else if mask / 2 % 2 == 1 then enterSafe false source e else e) := by
    split
    · exact enterSafe_pairErr true source e
    · split
      · exact enterSafe_pairErr false source e
      · exact fun _ => rfl
  have attn (b : Bool) (e : Dev) : keepsPairErr e (if b then sourceAttn source channel e else e) := by
    cases b <;> exact fun _ => rfl
  exact keepsPairErr_trans (keepsPairErr_trans (keepsPairErr_trans err (unit _)) (safe _)) (attn _ _)

theorem stewardAction_pairErr (source : Nat) (d : Dev) : keepsPairErr d (stewardAction source d) := by
  unfold stewardAction
  split
  · split
    · exact fun _ => rfl
    · exact keepsPairErr_of_proc (chipFailed_proc _)
  · exact fun _ => rfl

theorem severeNow_pairErr (source channel : Nat) (d : Dev) : keepsPairErr d (severeNow source channel d) := by
  have set : keepsPairErr d (hwSet (srcReg source) (2 ^ 31) (modSrc source (fun x => { x with severe := true }) d)) := fun _ => rfl
  exact keepsPairErr_trans (keepsPairErr_trans set (applyMask_pairErr _ source channel _)) (stewardAction_pairErr source _)

theorem signal_pairErr (source : Nat) (d : Dev) : keepsPairErr d (signal source d) := by
  unfold signal signalCh
  dsimp only
  split
  · rw [keepPending_frame]
    exact fun _ => rfl
  · split
    · exact fun _ => rfl
    · split
      · exact keepsPairErr_trans (fun _ => rfl) (severeNow_pairErr _ _ _)
      · exact fun _ => rfl

theorem procOf_stewardMismatch (p bundle window : Nat) (d : Dev) : (procOf (stewardMismatch p bundle window d) p).pairErr =
    captureWord (procOf d p).pairErr (BitVec.ofNat 32 (bundle % 64 * 2 ^ 21 + min window 8191 * 2 ^ 8)) := by
  unfold stewardMismatch
  dsimp only
  rw [signal_pairErr, procOf_modProc, noteCapture_frame]
  rfl

/-! ### Difference injection (R226, R227) -/

section
variable {unit : Nat} {v w : W32} {works rail : Bool} {d : Dev}

theorem injectWord_unarmed (off : v.getLsbD 31 = false) : injectWord w v works = (v &&& 0x607F0000) ||| (w &&& 7) := by
  unfold injectWord
  dsimp only
  rw [off]
  rfl

theorem injectWord_armed (on : v.getLsbD 31 = true) : injectWord w v works =
    (v &&& 0x607F0000) ||| 4 ||| (if (!v.getLsbD 29) == works then 2 else 1) := by
  unfold injectWord
  dsimp only
  rw [on]
  rfl

theorem disarmed_bit (v : W32) : (v &&& 0x7FFFFFFF).getLsbD 31 = false := by
  rw [BitVec.getLsbD_and]
  exact Bool.and_false _

theorem disarmed_fields (v : W32) : v &&& 0x7FFFFFFF &&& 0x607F0000 = v &&& 0x607F0000 := by
  rw [BitVec.and_assoc]
  rfl

theorem pairInject_unarmed (off : v.getLsbD 31 = false ∨ unit < 64 ∧ resident unit d = true) :
    pairInject unit v works rail d = modInject unit (fun w => (v &&& 0x607F0000) ||| (w &&& 7)) d := by
  have arm : (v.getLsbD 31 && !(decide (unit < 64) && resident unit d)) = false := by
    obtain off | ⟨core, here⟩ := off
    · rw [off]
      rfl
    · rw [decide_eq_true core, here]
      exact Bool.and_false _
  have word (w : W32) : injectWord w (v &&& 0x7FFFFFFF) works = (v &&& 0x607F0000) ||| (w &&& 7) := by
    rw [injectWord_unarmed (disarmed_bit v), disarmed_fields]
  unfold pairInject
  dsimp only
  rw [arm]
  simp only [Bool.false_eq_true, if_false, word]
  rfl

variable (on : v.getLsbD 31 = true) (free : unit < 64 → resident unit d = false)
include on free

theorem pairInject_armed : pairInject unit v works rail d =
    if rail then pump (railFault unit (modInject unit (fun _ => v &&& 0x607F0000) d))
    else
      let e := modInject unit (fun _ => (v &&& 0x607F0000) ||| 4 ||| (if (!v.getLsbD 29) == works then 2 else 1)) d
      if works then e else if unit < 64 then pump (fenceCore unit e) else chipFailed e := by
  have arm : (v.getLsbD 31 && !(decide (unit < 64) && resident unit d)) = true := by
    rw [on]
    by_cases core : unit < 64
    · rw [free core, Bool.and_false]
      rfl
    · rw [decide_eq_false core]
      rfl
  have word (w : W32) : injectWord w v works = (v &&& 0x607F0000) ||| 4 ||| (if (!v.getLsbD 29) == works then 2 else 1) :=
    injectWord_armed on
  unfold pairInject
  dsimp only
  rw [arm]
  simp only [if_true, word]
  cases rail <;> rfl

end

/-! ### The obligation -/

theorem exec_engineEnd {t : Time} {n : Fin 64} {engine : Fin 4} {ms ds : List EngineUpset} {s e : State}
    (h : engineEnd n engine.val (ms ++ ds) { s with dev := advance t s.dev } = e) :
    exec (.engineOperationEnd t n engine ms ds) s = .next (zeroCores e) :=
  congrArg (fun g => Host.Outcome.next (zeroCores g)) h

theorem exec_compare {t : Time} {k : Fin 66} {group bundle window : Nat} {up rail : Bool} {s : State} {d e : Dev} (hd : d = advance t s.dev)
    (h : signatureCompare k.val group bundle window up rail d = e) :
    exec (.signatureCompare t k group bundle window up rail) s = .next (cleared s e) := by
  subst hd
  exact next_cleared (f := fun d => signatureCompare k.val group bundle window up rail (advance t d)) h

theorem exec_pairInject {t : Time} {k : Fin 66} {v : W32} {works rail : Bool} {s : State} {d e : Dev} (hd : d = advance t s.dev)
    (h : pairInject k.val v works rail d = e) : exec (.pairInjectArm t k v ⟨works, rail⟩) s = .next (cleared s e) := by
  subst hd
  exact next_cleared (f := fun d => pairInject k.val v works rail (advance t d)) h

theorem signatureCompare_core {k group bundle window : Nat} {up : Bool} {d : Dev} (core : k < 64) (live : isFenced d k = false) :
    signatureCompare k group bundle window up false d = compareCore k group bundle window up d := by
  unfold signatureCompare
  rw [if_pos core, if_neg Bool.false_ne_true, if_neg (ne_true_of_eq_false live)]

theorem injected_works (b : Bool) : (if ((!b) == true) = true then 2 else 1 : W32) = if b then 1 else 2 := by cases b <;> rfl

theorem injected_fails (b : Bool) : (if ((!b) == false) = true then 2 else 1 : W32) = if b then 2 else 1 := by cases b <;> rfl

theorem railFault_eq (k : Nat) (d : Dev) : railFault k d = signal (if k < 64 then 8 * k + 6 else 672 + k) d := by
  unfold railFault
  split
  · rfl
  · next proc => rw [show 736 + (k - 64) = 672 + k by omega]

/-- A write of ENG_INJECT, whose ARM is not written where a window of the core holds a kernel of criticality 0 or 1. -/
theorem writeEngInject_eq {n : Nat} {v : W32} {d : Dev} : writeEngInject n v d = modCore n (fun c => { c with
    engInject := if v.getLsbD 31 = true ∧ highKernel n d = false then v &&& 0xFFFFFFF0
      else (v &&& 0x7FFFFFF0) ||| (c.engInject &&& 0x8000000C) }) d := by
  unfold writeEngInject
  simp only [Bool.and_eq_true, Bool.not_eq_eq_eq_not, Bool.not_true]

/-- What an injection leaves of ENG_INJECT, with its two flags. -/
theorem injected_flags (found : List EngineFail) (seen : Bool) :
    (if (decide (found ≠ []) || seen) = true then 4 else 0 : W32) = if found ≠ [] ∨ seen = true then 4 else 0 := by
  simp only [Bool.or_eq_true, decide_eq_true_eq]

/-- Settles O27, clause by clause: the end of an operation, its cells, its drain, the comparator and the injections. -/
theorem enginesAndPairs : Obligations.EnginesAndPairs := by
  unfold Obligations.EnginesAndPairs
  refine ⟨?_, ?_, ?_, ?_, ?_, ?_, ?_, procOf_stewardMismatch, ?_, ?_⟩
  · rintro t n engine ms ds us s d f e rfl rfl he rfl
    refine ⟨fun idle => exec_engineEnd (engineEnd_idle (a := { s with dev := advance t s.dev }) he idle), fun op p some_ pair live => ⟨fun over_ => ?_, fun g within read => ?_,
      fun x g h within read hh => ?_⟩⟩
    · exact exec_engineEnd (engineEnd_limit (a := { s with dev := advance t s.dev }) he some_ pair live over_)
    · exact exec_engineEnd (engineEnd_trapped (a := { s with dev := advance t s.dev }) he some_ pair live within read)
    · have ends := engineEnd_accumulates (a := { s with dev := advance t s.dev }) he some_ pair live within read hh
      refine ⟨fun none_ => ?_, fun o drains => ?_⟩
      · rw [none_] at ends
        exact exec_engineEnd ends
      · rw [drains] at ends
        exact exec_engineEnd ends
  · rintro p start x e f rfl
    refine ⟨by cases start <;> rfl, fun i j hi hj => cellAt_accumulate p start x e hi hj⟩
  · rintro n engine p op o us e stopped s g j hj hg
    refine ⟨fun free => ⟨drain_passes hg free, fun u l => drain_fails hg free⟩, fun waits own => ?_⟩
    rw [drain_injected hg hj waits own]
    unfold applyInject
    rw [injected_flags]
  · intro n engine slot pair u d first
    exact ⟨coreOf_captureEng first, engineFail_first first⟩
  · intro t n v s
    refine ⟨{ s with dev := writeEngInject n.val v (advance t s.dev) }, rfl, ?_, fun k other => ?_, ?_⟩
    · rw [writeEngInject_eq]
      exact coreOf_modCore (advance t s.dev) n.val _
    · exact coreOf_modCore_ne (d := advance t s.dev) _ other
    · rfl
  · intro t k group bundle window up rail s d hd
    refine ⟨fun core violated => ?_, fun proc violated => ?_, fun proc sound => ?_, fun core sound fenced => ?_,
      fun a b e slot core sound live ha hb he hs => ?_⟩
    · refine exec_compare hd ?_
      unfold signatureCompare
      rw [if_pos core, if_pos violated]
      rfl
    · refine exec_compare hd ?_
      unfold signatureCompare
      rw [if_neg (Nat.not_lt.mpr proc), if_pos violated, show 736 + (k.val - 64) = 672 + k.val by omega]
    · refine exec_compare hd ?_
      unfold signatureCompare
      rw [if_neg (Nat.not_lt.mpr proc), sound, if_neg Bool.false_ne_true]
    · refine exec_compare hd ?_
      unfold signatureCompare
      rw [if_pos core, sound, if_neg Bool.false_ne_true, if_pos fenced]
    · subst sound
      have compares {e : Dev} (h : compareCore k.val group bundle window up d = e) :=
        exec_compare hd ((signatureCompare_core core live).trans h)
      refine ⟨fun alone => compares (compareCore_alone ha hb alone), fun x y hx hy same sound quiet => ?_,
        fun x y act r kern hx hy same sound releases run kernel => ?_, fun x y hx hy differs => ?_⟩
      · have equal := compareCore_equal ha hb he hs hx hy same sound
        rw [quiet] at equal
        exact compares equal
      · have equal := compareCore_equal ha hb he hs hx hy same sound
        have run' : runOn? e k.val = some r := he ▸ run
        have kernel' : opKernel? e r.op = some kern := he ▸ kernel
        rw [releases, run'] at equal
        dsimp only at equal
        rw [kernel'] at equal
        exact compares equal
      · exact compares (compareCore_differs ha hb he hs hx hy differs)
  · rintro n kind group bundle window r d e run rfl
    rw [coreOf_capturePair run]
    exact ⟨rfl, rfl⟩
  · intro t k v works rail s d hd
    refine ⟨fun off => exec_pairInject hd (pairInject_unarmed off), fun on free => ?_⟩
    have armed := pairInject_armed (works := works) (rail := rail) on free
    refine ⟨fun hw hr => ?_, fun hr => ?_, fun hw hr core => ?_, fun hw hr proc => ?_⟩
    · subst hw hr
      refine exec_pairInject hd (armed.trans ?_)
      rw [injected_works]
      rfl
    · subst hr
      refine exec_pairInject hd (armed.trans ?_)
      rw [railFault_eq]
      rfl
    · subst hw hr
      refine exec_pairInject hd (armed.trans ?_)
      rw [injected_fails]
      exact if_pos core
    · subst hw hr
      refine exec_pairInject hd (armed.trans ?_)
      rw [injected_fails]
      exact if_neg (Nat.not_lt.mpr proc)
  · intro n d wired
    exact ⟨((pump_launches _).fences n).trans (fenceCore_self wired), chipFailed_state d⟩

end Sys2Proof.Machine
end

section
/-! The roster of the watch fabric (19 R461 to R485): the members, and the roles of the manager and of this device, through everything that
the evidence and the verdicts of a context do. -/

namespace Sys2Proof.Machine

open Sys2Proof

/-! ### What the roster is, and what leaves it -/

/-- The members of a fabric, with the role and number of this device and the number of the manager. -/
def fabRoster (f : Fabric) : KMap Member × Nat × Nat × Nat := (f.members, f.role, f.manager, f.device)

/-- The roster of a device's fabric, and its clock. -/
def rosterOf (d : Dev) : Geyser × KMap Member × Nat × Nat × Nat := (d.geyser, fabRoster d.fabric)

section
variable {d e : Dev}

theorem members_of_roster (h : rosterOf e = rosterOf d) : e.fabric.members = d.fabric.members := congrArg (fun r => r.2.1) h
theorem role_of_roster (h : rosterOf e = rosterOf d) : e.fabric.role = d.fabric.role := congrArg (fun r => r.2.2.1) h
theorem manager_of_roster (h : rosterOf e = rosterOf d) : e.fabric.manager = d.fabric.manager := congrArg (fun r => r.2.2.2.1) h
theorem device_of_roster (h : rosterOf e = rosterOf d) : e.fabric.device = d.fabric.device := congrArg (fun r => r.2.2.2.2) h
theorem geyser_of_roster (h : rosterOf e = rosterOf d) : e.geyser = d.geyser := congrArg Prod.fst h

end

theorem foldl_roster {α : Type} {f : Dev → α → Dev} (h : ∀ d a, rosterOf (f d a) = rosterOf d) (l : List α) (d : Dev) :
    rosterOf (l.foldl f d) = rosterOf d := by
  induction l generalizing d with
  | nil => rfl
  | cons a l ih => exact (ih _).trans (h d a)

theorem framesOut_roster (t : Time) (l : List (Nat × Nat × List Byte)) (f : Fabric) : fabRoster (framesOut t l f) = fabRoster f := by
  unfold framesOut
  induction l generalizing f with
  | nil => rfl
  | cons x l ih => exact (ih _).trans rfl

theorem modFab_roster {g : Fabric → Fabric} (d : Dev) (h : ∀ f, fabRoster (g f) = fabRoster f) : rosterOf (modFab g d) = rosterOf d :=
  congrArg (fun r => (d.geyser, r)) (h d.fabric)

section
variable (d : Dev)

@[simp] theorem setCtx_roster (c : W32) (x : Context) : rosterOf (setCtx c x d) = rosterOf d := rfl
@[simp] theorem modCtx_roster (c : W32) (f : Context → Context) : rosterOf (modCtx c f d) = rosterOf d := rfl
@[simp] theorem modResult_roster (c : W32) (q : Nat) (f : Result → Result) : rosterOf (modResult c q f d) = rosterOf d := rfl
@[simp] theorem setQueue_roster (q : Nat) (x : Queue) : rosterOf (setQueue q x d) = rosterOf d := rfl
@[simp] theorem modQueue_roster (q : Nat) (f : Queue → Queue) : rosterOf (modQueue q f d) = rosterOf d := rfl
@[simp] theorem modPort_roster (n : Nat) (f : Port → Port) : rosterOf (modPort n f d) = rosterOf d := rfl
@[simp] theorem modSlot_roster (n : Nat) (f : Slot → Slot) : rosterOf (modSlot n f d) = rosterOf d := rfl
@[simp] theorem setStream_roster (n : Nat) (x : Stream) : rosterOf (setStream n x d) = rosterOf d := rfl
@[simp] theorem raiseAttn_roster (a b : Nat) (l : List Byte) : rosterOf (raiseAttn a b l d) = rosterOf d := rfl
@[simp] theorem addOp_roster (o : Operation) : rosterOf (addOp o d) = rosterOf d := rfl
@[simp] theorem pump_roster : rosterOf (pump d) = rosterOf d := by
  unfold rosterOf
  rw [(pump_launches d).geyser, (pump_launches d).fabric]

@[simp] theorem journalAdd_roster (c : W32) (b : JournalBody) : rosterOf (journalAdd c b d) = rosterOf d := by
  refine modFab_roster d fun f => ?_
  dsimp only
  split
  · rfl
  · exact framesOut_roster _ _ _

theorem countRaise_roster {get : Dev → Counter} {put : Counter → Dev → Dev} (h : ∀ c d, rosterOf (put c d) = rosterOf d)
    (cls n item i j o : Nat) : rosterOf (countRaise cls get put n item i j o d) = rosterOf d := by
  unfold countRaise
  dsimp only
  split <;> simp [h]

/-! ### Verdicts -/

@[simp] theorem drainEntries_roster (c : W32) (fuel : Nat) : rosterOf (drainEntries c fuel d) = rosterOf d := by
  induction fuel generalizing d with
  | zero => rfl
  | succ n ih =>
    unfold drainEntries
    dsimp only
    split
    · rfl
    · split
      · rfl
      · exact (ih _).trans rfl

@[simp] theorem postEntry_roster (c : W32) (r : Nat) (b : EntryBody) : rosterOf (postEntry c r b d).2 = rosterOf d :=
  drainEntries_roster _ c _

@[simp] theorem storeRecord_roster (c : W32) (r : VerdictRecord) : rosterOf (storeRecord c r d).2 = rosterOf d := by
  unfold storeRecord
  dsimp only
  split
  · rfl
  · simp [apply_ite rosterOf]

@[simp] theorem concludeOld_roster (c : W32) (w : W64) : rosterOf (concludeOld c w d) = rosterOf d := by
  unfold concludeOld
  refine (foldl_roster (fun _ _ => ?_) _ _).trans ?_ <;> rfl

@[simp] theorem handOver_roster (c : W32) : rosterOf (handOver c d) = rosterOf d := by
  unfold handOver
  split
  · rfl
  · exact congrArg (Prod.mk d.geyser) (framesOut_roster ..)

@[simp] theorem release_roster (w : AllocFor) : rosterOf (release w d) = rosterOf d := by
  unfold release
  split
  · rfl
  · refine Eq.trans (b := rosterOf (List.foldl _ d _)) rfl (foldl_roster (fun _ _ => ?_) _ _)
    rfl

@[simp] theorem setMasks_roster : rosterOf (setMasks d) = rosterOf d := by
  have mask (w : AllocFor) (m : W16) (e : Dev) : rosterOf (setReadMask w m e) = rosterOf e := by
    unfold setReadMask
    split
    · rfl
    · refine foldl_roster (fun _ _ => ?_) _ _
      rfl
  unfold setMasks
  refine foldl_roster (fun e a => ?_) _ _
  split
  · exact mask _ _ e
  · exact mask _ _ e
  · rfl

@[simp] theorem releaseContext_roster (c : W32) (x : Context) : rosterOf (releaseContext c x d) = rosterOf d :=
  (setMasks_roster _).trans (release_roster _ _)

@[simp] theorem closeIfDrained_roster (c : W32) : rosterOf (closeIfDrained c d) = rosterOf d := by
  unfold closeIfDrained closeContext
  dsimp only
  split <;> simp

@[simp] theorem refuseOut_roster (port n : Nat) : rosterOf (refuseOut port n d) = rosterOf d := by
  refine countRaise_roster d (fun _ _ => ?_) ..
  rfl

@[simp] theorem cancelOpen_roster (c : W32) (r : Result) : rosterOf (cancelOpen c r d) = rosterOf d := by
  unfold cancelOpen
  split <;> simp

@[simp] theorem recordResult_roster (c : W32) (r : Result) : rosterOf (recordResult c r d) = rosterOf d := by
  have queued (port : Nat) (held : Bool) (m : OutMsg) (e : Dev) : rosterOf (queueMessage port held m e) = rosterOf e := by
    unfold queueMessage
    split <;> rfl
  have taken (q : Nat) (sends : Bool) (e : Dev) : rosterOf (takeResult c q sends e) = rosterOf e := rfl
  unfold recordResult
  dsimp only
  split <;> simp [queued, taken, apply_ite rosterOf]

@[simp] theorem issueVerdict_roster (c : W32) (q : Nat) : rosterOf (issueVerdict c q d) = rosterOf d := by
  have dropped (e : Dev) : rosterOf (dropChecks c q e) = rosterOf e := rfl
  unfold issueVerdict
  split
  · rfl
  · split <;> simp [dropped]

@[simp] theorem concludeResult_roster (c : W32) (q : Nat) : rosterOf (concludeResult c q d) = rosterOf d :=
  (issueVerdict_roster _ c q).trans (foldl_roster (fun _ _ => by simp) _ _)

@[simp] theorem settle_roster (c : W32) (q : Nat) : rosterOf (settle c q d) = rosterOf d := by
  unfold settle
  split
  · rfl
  · split
    · rfl
    · unfold expireResult
      dsimp only
      split
      · simp
      · split
        · simp
        · split
          · split
            · split <;> simp
            · simp
          · simp

@[simp] theorem expireDue_roster (c : W32) : rosterOf (expireDue c d) = rosterOf d := foldl_roster (fun _ _ => settle_roster _ _ _) _ _

/-! ### Evidence -/

@[simp] theorem evMalformed_roster (c : W32) : rosterOf (evMalformed c d) = rosterOf d := by
  refine countRaise_roster d (fun _ _ => ?_) ..
  rfl

@[simp] theorem evCrcFail_roster (c : W32) : rosterOf (evCrcFail c d) = rosterOf d := by
  refine countRaise_roster d (fun _ _ => ?_) ..
  rfl

@[simp] theorem evLate_roster (c : W32) : rosterOf (evLate c d) = rosterOf d := rfl
@[simp] theorem evDup_roster (c : W32) : rosterOf (evDup c d) = rosterOf d := rfl

@[simp] theorem triggerCheck_roster (c : W32) (q i : Nat) (p : Plan) (t : Template) (e : CheckEntry) (at_ : Time) :
    rosterOf (triggerCheck c q i p t e at_ d) = rosterOf d := by
  unfold triggerCheck
  split
  · dsimp only
    split <;> simp
  · rfl

@[simp] theorem progressCheck_roster (c : W32) (q : Nat) (p : Plan) (t : Template) (i : Nat) (e : CheckEntry) :
    rosterOf (progressCheck c q p t i e d) = rosterOf d := by
  unfold progressCheck
  dsimp only
  split
  · rfl
  · split
    · rfl
    · split <;> simp [apply_ite rosterOf]

@[simp] theorem progress_roster (c : W32) (q : Nat) : rosterOf (progress c q d) = rosterOf d := by
  unfold progress
  dsimp only
  split
  · simp
  · split
    · rw [pump_roster, settle_roster, foldl_roster (fun _ _ => progressCheck_roster _ _ _ _ _ _ _), settle_roster]
    · simp

@[simp] theorem drawTiles_roster (k t : Nat) : rosterOf (drawTiles k t d).2 = rosterOf d := by
  unfold drawTiles
  split <;> rfl

@[simp] theorem postChallenge_roster (c : W32) (seq layer check number tile : Nat) (runs : List Run) (deadline : Time) (last : Bool) :
    rosterOf (postChallenge c seq layer check number tile runs deadline last d) = rosterOf d := by
  unfold postChallenge
  dsimp only
  refine (foldl_roster (fun _ _ => ?_) _ _).trans ?_ <;> simp

@[simp] theorem challengeLayer_roster (c : W32) (seq layer : Nat) (k0 : Time) (p : Plan) (t : Template) :
    rosterOf (challengeLayer c seq layer k0 p t d) = rosterOf d := by
  unfold challengeLayer
  dsimp only
  split
  · rfl
  · refine (foldl_roster (fun e a => ?_) _ _).trans (modResult_roster _ _ _ _)
    exact (foldl_roster (fun _ _ => postChallenge_roster _ _ _ _ _ _ _ _ _ _) _ _).trans (drawTiles_roster _ _ _)

@[simp] theorem acceptCommit_roster (c : W32) (seq layer : Nat) (k0 : Time) (p : Plan) (t : Template) :
    rosterOf (acceptCommit c seq layer k0 p t d) = rosterOf d := by
  unfold acceptCommit
  simp

@[simp] theorem tryList_roster (c : W32) (seq layer : Nat) (p : Plan) (t : Template) : rosterOf (tryList c seq layer p t d) = rosterOf d := by
  unfold tryList
  dsimp only
  split
  · rfl
  · split
    · rfl
    · split <;> simp

@[simp] theorem claimFrame_roster (c : W32) (stream : Nat) (cap arr : Time) (t : Template) :
    rosterOf (claimFrame c stream cap arr t d) = rosterOf d := by
  unfold claimFrame
  dsimp only
  split
  · rfl
  · split
    · split <;> rfl
    · rfl

section
variable (c : W32) (seq : Nat) (r : Record) (arr : Time) (p : Plan) (t : Template)

@[simp] theorem takeCommit_roster : rosterOf (takeCommit c seq r arr p t d).2 = rosterOf d := by
  unfold takeCommit
  split
  · rfl
  · extract_lets layer stream value alone m e1 e2 e3
    have kept : rosterOf e3 = rosterOf d := by simp [e3, e2, e1, apply_ite rosterOf]
    split
    · rfl
    · split
      · exact apply_ite (fun x : Taken × Dev => rosterOf x.2) _ _ _ |>.trans (ite_self _)
      · exact kept

@[simp] theorem takeCrcList_roster : rosterOf (takeCrcList c seq r arr p t d).2 = rosterOf d := by
  unfold takeCrcList
  dsimp only
  split
  · rfl
  · simp [apply_ite Prod.snd, apply_ite rosterOf]

@[simp] theorem takeOpening_roster : rosterOf (takeOpening c seq r arr p t d).2 = rosterOf d := by
  unfold takeOpening
  dsimp only
  split
  · rfl
  · split
    · simp [apply_ite Prod.snd, apply_ite rosterOf]
    · rfl

@[simp] theorem takeDepTile_roster : rosterOf (takeDepTile c seq r arr p t d).2 = rosterOf d := by
  unfold takeDepTile
  dsimp only
  split
  · rfl
  · split
    · rfl
    · split
      · rfl
      · simp [apply_ite Prod.snd, apply_ite rosterOf]

@[simp] theorem takeTensor_roster : rosterOf (takeTensor c seq r arr p t d).2 = rosterOf d := by
  unfold takeTensor
  dsimp only
  split
  · rfl
  · split
    · simp [apply_ite Prod.snd, apply_ite rosterOf]
    · rfl

end

@[simp] theorem knownRecord_roster (c : W32) (type : Byte) (r : Record) (arr : Time) (framed : Bool) (res : Result) :
    rosterOf (knownRecord c type r arr framed res d) = rosterOf d := by
  unfold knownRecord
  dsimp only
  split
  · rfl
  · split
    · simp
    · split
      · simp
      · split
        · split
          · simp
          · split
            · simp
            · split <;> simp [apply_ite Prod.snd, apply_ite rosterOf]
        · simp

@[simp] theorem recordSkipped_roster (c : W32) (grade seq : Nat) : rosterOf (recordSkipped c grade seq d) = rosterOf d :=
  foldl_roster (fun _ _ => by simp) _ _

@[simp] theorem acceptRecord_roster (c : W32) (type : Byte) (r : Record) (arr : Time) (t : Template) :
    rosterOf (acceptRecord c type r arr t d) = rosterOf d := by
  unfold acceptRecord
  extract_lets x seq level fast cost have_ e1 e2 e3 cap deadline why e4
  have open_ : rosterOf e4 = rosterOf d := by simp [e4, e3, e2, e1, apply_ite rosterOf]
  split
  · rfl
  · split
    · simp
    · split
      · exact (concludeResult_roster e4 c seq).trans open_
      · split
        · exact (knownRecord_roster e4 ..).trans open_
        · exact open_

@[simp] theorem handleRecord_roster (c : W32) (type : Byte) (r : Record) (arr : Time) (framed : Bool) :
    rosterOf (handleRecord c type r arr framed d) = rosterOf d := by
  unfold handleRecord
  dsimp only
  split
  · simp
  · split
    · simp [apply_ite rosterOf]
    · split
      · simp
      · split
        · simp [apply_ite rosterOf]
        · split
          · simp [apply_ite rosterOf]
          · simp

@[simp] theorem consumeRecord_roster (c : W32) (type : Byte) (r : Record) (confirmed : Bool) :
    rosterOf (consumeRecord c type r confirmed d) = rosterOf d := by
  unfold consumeRecord
  dsimp only
  split
  · rfl
  · split
    · simp
    · split
      · simp [apply_ite rosterOf]
      · simp

@[simp] theorem drainBlocked_roster (c : W32) (fuel : Nat) (confirmed : Bool) : rosterOf (drainBlocked c fuel confirmed d) = rosterOf d := by
  induction fuel generalizing d confirmed with
  | zero => rfl
  | succ n ih =>
    unfold drainBlocked
    dsimp only
    split
    · rfl
    · split
      · rfl
      · simp [ih]

@[simp] theorem drainAllBlocked_roster : rosterOf (drainAllBlocked d) = rosterOf d :=
  foldl_roster (fun _ _ => drainBlocked_roster _ _ _ _) _ _

/-! ### The fabric's own steps -/

@[simp] theorem releaseMessages_roster : rosterOf (releaseMessages d) = rosterOf d := rfl

theorem reRing_roster (f : Dev → Dev) : rosterOf (reRing f d) = rosterOf (f d) := by
  unfold reRing
  dsimp only
  split
  · rfl
  · split
    · rfl
    · rw [drainAllBlocked_roster, releaseMessages_roster]
      rfl

@[simp] theorem fabricAttn_roster (event n : Nat) (c : W32) : rosterOf (fabricAttn event n c d) = rosterOf d := rfl

@[simp] theorem memberRecord_roster (n : Nat) : rosterOf (memberRecord n d) = rosterOf d := by
  unfold memberRecord
  refine (modFab_roster _ fun f => ?_).trans (journalAdd_roster d _ _)
  exact framesOut_roster _ _ _

@[simp] theorem mapRecord_roster (c : W32) (n : Nat) : rosterOf (mapRecord c n d) = rosterOf d := by
  unfold mapRecord
  refine (modFab_roster _ fun f => ?_).trans (journalAdd_roster d _ _)
  exact framesOut_roster _ _ _

@[simp] theorem chooseSibling_roster (l : List Nat) : rosterOf (chooseSibling l d).2 = rosterOf d := by
  induction l generalizing d with
  | nil => rfl
  | cons t l ih =>
    unfold chooseSibling
    dsimp only
    split
    · rfl
    · exact (ih _).trans rfl

@[simp] theorem sendSlice_roster (n : Nat) (c : W32) (target : Nat) : rosterOf (sendSlice n c target d) = rosterOf d :=
  modFab_roster d fun _ => framesOut_roster _ _ _

@[simp] theorem placeContext_roster (failed dom : Nat) (c : W32) : rosterOf (placeContext failed dom c d) = rosterOf d := by
  have chosen := chooseSibling_roster d (inDomain dom d)
  unfold placeContext
  split
  · next t e found =>
    rw [found] at chosen
    rw [sendSlice_roster]
    have unplaced (e : Dev) : rosterOf (modFab (fun f => { f with unplaced := f.unplaced.filter (· != c) }) e) = rosterOf e := rfl
    split
    · exact (unplaced _).trans ((mapRecord_roster _ _ _).trans chosen)
    · exact (modFab_roster _ fun _ => framesOut_roster _ _ _).trans ((unplaced _).trans ((mapRecord_roster _ _ _).trans chosen))
  · next e found =>
    rw [found] at chosen
    dsimp only
    split <;> exact chosen

@[simp] theorem retryUnplaced_roster : rosterOf (retryUnplaced d) = rosterOf d := foldl_roster (fun _ _ => placeContext_roster _ _ _ _) _ _

@[simp] theorem concludeLost_roster (n : Nat) : rosterOf (concludeLost n d) = rosterOf d := by
  unfold concludeLost
  refine foldl_roster (fun _ _ => ?_) _ _
  rfl

end

end Sys2Proof.Machine
end

section
/-! Members that fail and managers that follow one another: what a declaration of failure, the appointment of a deputy and a promotion leave
of the fabric's roster (19 R468, R483, R485). -/

namespace Sys2Proof.Machine

open Sys2Proof

/-! ### The seat of a device: its clock, its role and its manager -/

/-- The instant of a device, its role and number in its fabric, and its manager. -/
def seatOf (d : Dev) : Time × Nat × Nat × Nat := (d.geyser.now, d.fabric.role, d.fabric.manager, d.fabric.device)

theorem seat_of_roster {d e : Dev} (h : rosterOf e = rosterOf d) : seatOf e = seatOf d := by
  unfold seatOf
  rw [geyser_of_roster h, role_of_roster h, manager_of_roster h, device_of_roster h]

theorem modMember_seat (n : Nat) (f : Member → Member) (d : Dev) : seatOf (modMember n f d) = seatOf d := rfl

/-- What is written and told of a change of the members leaves the members that the change made. -/
theorem changeTold_roster (event n : Nat) (f : Dev → Dev) (d : Dev) :
    rosterOf (fabricAttn event n 0 (memberRecord n (reRing f d))) = rosterOf (f d) :=
  (fabricAttn_roster ..).trans ((memberRecord_roster ..).trans (reRing_roster d f))

theorem appointDeputy_seat (d : Dev) : seatOf (appointDeputy d) = seatOf d := by
  unfold appointDeputy
  split
  · exact (seat_of_roster (changeTold_roster ..)).trans (modMember_seat _ _ d)
  · rfl

theorem declareFailed_seat (n : Nat) (d : Dev) : seatOf (declareFailed n d) = seatOf d := by
  unfold declareFailed
  split
  · rfl
  · split
    · rfl
    · dsimp only
      have tail (m : Member) (l : List Nat) (e : Dev) : seatOf (retryUnplaced (concludeLost n
          (l.foldl (fun d c => placeContext n m.hostDomain (BitVec.ofNat 32 c) d) e))) = seatOf e :=
        seat_of_roster ((retryUnplaced_roster _).trans ((concludeLost_roster _ n).trans (foldl_roster (fun _ _ => placeContext_roster ..) _ _)))
      rw [tail, appointDeputy_seat]
      exact (seat_of_roster (changeTold_roster ..)).trans (modMember_seat _ _ d)

theorem runBmca_seat (d : Dev) : seatOf (runBmca d) = seatOf d := by
  have fabric : (runBmca d).fabric = d.fabric := by rw [runBmca_frame]
  have freed (p : Nat) (e : Dev) : (freeRun p e).geyser.now = e.geyser.now := by
    obtain ⟨-, -, -, -, -, now, -⟩ := freeRun_geyser p e
    exact now
  have now : (runBmca d).geyser.now = d.geyser.now := by
    unfold runBmca
    dsimp only
    split
    · rw [freed, portStates_frame]
      rfl
    · rw [portStates_frame]
      rfl
  unfold seatOf
  rw [fabric, now]

theorem setMaster_seat (d : Dev) : seatOf (setMaster d) = seatOf d := by
  unfold setMaster
  split
  · rfl
  · exact runBmca_seat _

/-- The deputy that the time of its manager's silence makes manager. -/
theorem promote_seat {d : Dev} (deputy : d.fabric.role = 2) (up : fabricUp d = true) :
    seatOf (promote d) = (max d.geyser.now (d.fabric.managerInstant + ms 20), 1, d.fabric.device, d.fabric.device) := by
  unfold promote
  rw [if_neg (by rw [deputy, up]; decide)]
  dsimp only
  rw [setMaster_seat, appointDeputy_seat, declareFailed_seat]
  rw [seat_of_roster (foldl_roster (fun _ _ => mapRecord_roster ..) _ _), seat_of_roster (fabricAttn_roster ..),
    seat_of_roster (foldl_roster (fun _ _ => memberRecord_roster ..) _ _), seat_of_roster (reRing_roster _ _)]
  rfl

/-! ### Members in and out of service -/

/-- Member `n` is known, and whether it is in service. -/
def memberServes (n : Nat) (serves : Bool) (d : Dev) : Prop := ∃ m, kfind? d.fabric.members n = some m ∧ m.inService = serves

theorem memberServes_roster {d e : Dev} {n : Nat} {b : Bool} (h : rosterOf e = rosterOf d) (out : memberServes n b d) : memberServes n b e := by
  unfold memberServes
  rwa [members_of_roster h]

theorem kfind_modMember (n : Nat) (f : Member → Member) (d : Dev) {k : Nat} :
    kfind? (modMember n f d).fabric.members k =
      if k = n then some (f (kget { role := 0, inService := false } d.fabric.members n)) else kfind? d.fabric.members k := kfind?_kput ..

theorem kfind_modMember_self (n : Nat) (f : Member → Member) (d : Dev) : kfind? (modMember n f d).fabric.members n =
    some (f (kget { role := 0, inService := false } d.fabric.members n)) := kfind?_kput_self ..

theorem modMember_found {n : Nat} {f : Member → Member} {d : Dev} {m : Member} (found : kfind? d.fabric.members n = some m) :
    kfind? (modMember n f d).fabric.members n = some (f m) := by
  rw [kfind_modMember_self]
  unfold kget
  rw [found]
  rfl

/-- A change of a member's role, key or instants leaves who is in service. -/
theorem modMember_serves {k n : Nat} {b : Bool} {f : Member → Member} {d : Dev} (keeps : ∀ m, (f m).inService = m.inService)
    (out : memberServes n b d) : memberServes n b (modMember k f d) := by
  obtain ⟨m, found, off⟩ := out
  by_cases same : n = k
  · subst same
    exact ⟨f m, modMember_found found, (keeps m).trans off⟩
  · exact ⟨m, by rw [kfind_modMember, if_neg same, found], off⟩

theorem appointDeputy_serves {n : Nat} {b : Bool} {d : Dev} (out : memberServes n b d) : memberServes n b (appointDeputy d) := by
  unfold appointDeputy
  split
  · exact memberServes_roster (changeTold_roster ..) (modMember_serves (fun _ => rfl) out)
  · exact out

/-- A member in service that the manager declares failed is out of service. -/
theorem declareFailed_out {n : Nat} {d : Dev} {m : Member} (manager : d.fabric.role = 1) (other : n ≠ d.fabric.device)
    (found : kfind? d.fabric.members n = some m) (serves : m.inService = true) : memberServes n false (declareFailed n d) := by
  unfold declareFailed
  rw [found]
  dsimp only
  rw [if_neg (by rw [serves]; exact fun h => h.elim (fun h => h manager) (fun h => h.elim other (by decide)))]
  refine memberServes_roster ((retryUnplaced_roster _).trans ((concludeLost_roster _ n).trans (foldl_roster (fun _ _ => placeContext_roster ..) _ _)))
    (appointDeputy_serves (memberServes_roster (changeTold_roster ..) ?_))
  exact ⟨_, modMember_found found, rfl⟩

end Sys2Proof.Machine
end

section
/-! What the watch fabric does in time (19 R466 to R486): heartbeats, leases, declarations, journal frames, checkpoints, moves and takeovers. -/

namespace Sys2Proof.Machine

open Sys2Proof

/-- What a command answers whose function leaves device `e`, once what it has allocated is zeroed. -/
theorem next_settled {f : Dev → Dev} {s : State} {e : Dev} (h : f s.dev = e) :
    (Host.Outcome.next (onDevA f s) : Host.Outcome State Fault Refusal) = .next (settled s e) := h ▸ rfl

/-! ### Frames sent -/

/-- Of a table that keeps its 64 newest entries, the last is the one that came last. -/
theorem newest_last {α : Type} (l : List α) (a : α) : ((l ++ [a]).drop ((l ++ [a]).length - 64)).getLast? = some a := by
  rw [List.getLast?_drop, if_neg, List.getLast?_concat]
  rw [List.length_append, List.length_singleton]
  omega

theorem framesOut_frame (t : Time) (l : List (Nat × Nat × List Byte)) (f : Fabric) :
    framesOut t l f = { f with frameSeq := f.frameSeq + l.length, outFrames := (framesOut t l f).outFrames } := by
  induction l generalizing f with
  | nil => rfl
  | cons x l ih =>
    have count : f.frameSeq + 1 + l.length = f.frameSeq + (x :: l).length := by rw [List.length_cons]; omega
    refine (ih (frameOut t x f)).trans ?_
    rw [← count]
    rfl

theorem framesOut_last (t : Time) (l : List (Nat × Nat × List Byte)) (x : Nat × Nat × List Byte) (f : Fabric) :
    (framesOut t (l ++ [x]) f).outFrames.getLast? =
      some (x.1, x.2.1, frameImage t f (f.frameSeq + l.length + 1) x.1 x.2.1 x.2.2) := by
  have step : framesOut t (l ++ [x]) f = frameOut t x (framesOut t l f) := List.foldl_append
  rw [step, framesOut_frame t l f]
  exact newest_last _ _

/-! ### Heartbeats (R466) -/

theorem nextBeat_spec {m : Nat} (positive : 0 < m) (done : Option Time) (t : Nat) :
    nextBeat m done t % m = 0 ∧ t ≤ nextBeat m done t ∧ nextBeat m done t ≤ t + m := by
  unfold nextBeat
  split
  · next now => exact ⟨now.1, Nat.le_refl t, Nat.le_add_right t m⟩
  · obtain ⟨whole, after, soon⟩ := nextMultiple_spec positive t
    exact ⟨whole, after, Nat.le_trans soon (Nat.add_le_add_right (Nat.div_mul_le_self t m) m)⟩

/-- The device at the boundary of its next heartbeat. -/
def beatBegun (d : Dev) : Dev :=
  modFab (fun f => { f with beatAt := some (nextBeat (ms 1) d.fabric.beatAt d.geyser.now) })
    (advance (nextBeat (ms 1) d.fabric.beatAt d.geyser.now) d)

/-- The members that a heartbeat goes to. -/
def beatPeers (d : Dev) : List Nat :=
  if d.fabric.role = 1 then [0xFF] else (d.fabric.manager :: (deputyOf d.fabric).toList).filter (· != d.fabric.device)

/-- The fabric once heartbeats have left, with the sequences under which they did. -/
def beatsSent (peers : List Nat) (d : Dev) (f : Fabric) : Fabric :=
  let l := f.sent ++ (List.range peers.length).map fun i => (f.frameSeq + 1 + i, d.geyser.now)
  { framesOut d.geyser.now (peers.map fun n => (1, n, heartbeatPayload d)) f with sent := l.drop (l.length - 64) }

theorem heartbeatSend_quiet {d : Dev} (quiet : (beatBegun d).fabric.role = 0 ∨ fabricUp (beatBegun d) = false) :
    heartbeatSend d = beatBegun d := by
  have stays : (!inFabric (beatBegun d) || !fabricUp (beatBegun d)) = true := by
    obtain alone_ | down := quiet
    · rw [show inFabric (beatBegun d) = false from bne_eq_false_iff_eq.mpr alone_]
      rfl
    · rw [down, Bool.not_false, Bool.or_true]
  exact if_pos stays

theorem heartbeatSend_sent {d : Dev} (member : (beatBegun d).fabric.role ≠ 0) (up : fabricUp (beatBegun d) = true) :
    heartbeatSend d = modFab (beatsSent (beatPeers (beatBegun d)) (beatBegun d)) (beatBegun d) := by
  have sends : ¬ (!inFabric (beatBegun d) || !fabricUp (beatBegun d)) = true := by
    rw [show inFabric (beatBegun d) = true from bne_iff_ne.mpr member, up]
    decide
  exact if_neg sends

theorem beatsSent_seq (peers : List Nat) (d : Dev) (f : Fabric) : (beatsSent peers d f).frameSeq = f.frameSeq + peers.length := by
  refine (congrArg Fabric.frameSeq (framesOut_frame d.geyser.now (peers.map fun n => (1, n, heartbeatPayload d)) f)).trans ?_
  exact congrArg (f.frameSeq + ·) (List.length_map _)

theorem beatsSent_lease (peers : List Nat) (d : Dev) (f : Fabric) : (beatsSent peers d f).lease = f.lease := by
  unfold beatsSent
  rw [framesOut_frame]

/-- The last heartbeat that left, and what is kept of it for its echo. -/
theorem beatsSent_last (l : List Nat) (p : Nat) (d : Dev) (f : Fabric) :
    (beatsSent (l ++ [p]) d f).outFrames.getLast? =
      some (1, p, frameImage d.geyser.now f (f.frameSeq + (l ++ [p]).length) 1 p (heartbeatPayload d)) ∧
    (beatsSent (l ++ [p]) d f).sent.getLast? = some (f.frameSeq + (l ++ [p]).length, d.geyser.now) := by
  have count : (l ++ [p]).length = l.length + 1 := by rw [List.length_append, List.length_singleton]
  constructor
  · refine (congrArg (fun x => (framesOut d.geyser.now x f).outFrames.getLast?) List.map_append).trans ?_
    refine (framesOut_last ..).trans ?_
    rw [List.length_map, count]
    rfl
  · unfold beatsSent
    dsimp only
    rw [count, List.range_succ, List.map_append, ← List.append_assoc]
    refine (newest_last _ _).trans (congrArg (fun n => some (n, d.geyser.now)) ?_)
    omega

/-! ### Leases (R467) -/

theorem isolate_lasts {d : Dev} (already : d.fabric.isolated = true) : isolate d = d := if_pos already

/-- The device whose lease ends. -/
def leaseEnded (d : Dev) : Dev :=
  forceSafe (modFab (fun f => { f with isolated := true, isolatedAt := f.lease }) (advance d.fabric.lease d))

theorem isolate_eq {d : Dev} (holds : d.fabric.isolated = false) : isolate d = leaseEnded d :=
  if_neg (by rw [holds]; exact Bool.false_ne_true)

theorem forceSafe_pinsLow (d : Dev) : pinsLow (forceSafe d) := gntDrive_inactive (.inl rfl)

theorem forceSafe_ports (d : Dev) (p : Nat) : (portOf (forceSafe d) p).out = [] ∧ (portOf (forceSafe d) p).outWait = [] := by
  have emptied : portOf (forceSafe d) p = { portOf d p with out := [], outWait := [] } :=
    kget_kmapv (fun _ (p : Port) => { p with out := [], outWait := [] }) {} d.ports p rfl
  rw [emptied]
  exact ⟨rfl, rfl⟩

/-! ### Declarations (R468) -/

/-- Before 20 ms after the member's newest send instant, or by a device that may not, no failure is declared. -/
theorem failureDeclared_kept {n : Nat} {m : Member} {d : Dev} (found : kfind? d.fabric.members n = some m)
    (kept : d.geyser.now < m.lastSend + ms 20 ∨ fabricUp d = false ∨ d.fabric.role ≠ 1 ∨ n = d.fabric.device ∨ m.inService = false) :
    failureDeclared n d = d := by
  unfold failureDeclared
  rw [found]
  dsimp only
  split
  · rfl
  · next open_ =>
    have standing : d.fabric.role ≠ 1 ∨ n = d.fabric.device ∨ m.inService = false := by
      obtain early | down | standing := kept
      · exact absurd ((Bool.or_eq_true _ _).mpr (.inr (decide_eq_true early))) open_
      · exact absurd ((Bool.or_eq_true _ _).mpr (.inl (by rw [down]; rfl))) open_
      · exact standing
    unfold declareFailed
    rw [found]
    refine if_pos ?_
    obtain other | self | out := standing
    · exact .inl other
    · exact .inr (.inl self)
    · exact .inr (.inr (by rw [out]; rfl))

theorem failureDeclared_eq {n : Nat} {m : Member} {d : Dev} (found : kfind? d.fabric.members n = some m)
    (silent : m.lastSend + ms 20 ≤ d.geyser.now) (up : fabricUp d = true) : failureDeclared n d = declareFailed n d := by
  unfold failureDeclared
  rw [found]
  refine if_neg ?_
  rw [up, decide_eq_false (Nat.not_lt.mpr silent)]
  decide

theorem promote_kept {d : Dev} (h : d.fabric.role ≠ 2 ∨ fabricUp d = false) : promote d = d := by
  refine if_pos ?_
  obtain other | down := h
  · exact (Bool.or_eq_true _ _).mpr (.inl (decide_eq_true other))
  · exact (Bool.or_eq_true _ _).mpr (.inr (by rw [down]; rfl))

/-! ### Journal frames (R476) -/

section
variable {d : Dev}

theorem journalResend_none (none_ : unconfirmed? d = none) : journalResend d = d := by
  unfold journalResend
  rw [none_]

theorem mirrorTimeout_none (none_ : unconfirmed? d = none) : mirrorTimeout d = d := by
  unfold mirrorTimeout
  rw [none_]

/-- The device once the oldest unconfirmed record has left again. -/
def resent (r : JournalRecord) (m : Nat) (d : Dev) : Dev :=
  modFab (fun f => framesOut (max d.geyser.now (d.fabric.sentAt + us 20)) [(3, m, journalImage r)]
    { f with sentAt := max d.geyser.now (d.fabric.sentAt + us 20), resent := f.resent + 1 }) (advance (d.fabric.sentAt + us 20) d)

theorem journalResend_eq {r : JournalRecord} {m : Nat} (oldest : unconfirmed? d = some r) (peer : mirrorPeer? d.fabric = some m) :
    journalResend d = resent r m d := by
  unfold journalResend
  rw [oldest, peer]
  rfl

theorem mirrorTimeout_eq {r : JournalRecord} (oldest : unconfirmed? d = some r) : mirrorTimeout d =
    modFab (fun f => { f with unmirrored := true }) (advance (max d.fabric.confirmedAt r.instant + us 500) d) := by
  unfold mirrorTimeout
  rw [oldest]

theorem copyComplete_kept (h : mirrorPeer? d.fabric = none ∨ d.fabric.copied = true) : copyComplete d = d := by
  refine if_pos ?_
  obtain none_ | copied := h
  · exact (Bool.or_eq_true _ _).mpr (.inl (Option.isNone_iff_eq_none.mpr none_))
  · exact (Bool.or_eq_true _ _).mpr (.inr copied)

theorem copyComplete_eq (peer : (mirrorPeer? d.fabric).isSome = true) (open_ : d.fabric.copied = false) : copyComplete d =
    afterConfirm (modFab (fun f => { f with
      copied := true, unmirrored := false, confirmed := f.nextSeq - 1, confirmedAt := d.geyser.now }) d) := by
  refine if_neg ?_
  rw [open_, Option.isNone_eq_false_iff.mpr peer]
  decide

/-! ### Commands that wait for a confirmation (R473) -/

variable {n : Nat} {k : W64} {a : Accepted} {q : Nat}

theorem commandMirrorTimeout_confirmed (waits : acceptedOf? d n k = some a) (mirror : a.mirror = some q) (has : q ≤ d.fabric.confirmed) :
    commandMirrorTimeout n k d = d := by
  unfold commandMirrorTimeout
  rw [waits]
  dsimp only
  rw [mirror]
  exact if_pos has

theorem commandMirrorTimeout_refused (waits : acceptedOf? d n k = some a) (mirror : a.mirror = some q) (late : d.fabric.confirmed < q) :
    commandMirrorTimeout n k d = refuseMirrored a cMirrorFailed d := by
  unfold commandMirrorTimeout
  rw [waits]
  dsimp only
  rw [mirror]
  exact if_neg (Nat.not_le.mpr late)

theorem peerTimeout_mirrored (waits : acceptedOf? d n k = some a) (mirror : a.mirror = some q) :
    peerTimeout n k d = if a.map then d else refuseMirrored a cUnreachable d := by
  unfold peerTimeout
  rw [waits]
  dsimp only
  rw [mirror]
  exact if_pos rfl

end

/-! ### Checkpoints (R471) -/

/-- The record that a device appends to its journal. -/
def ownRecord (c : W32) (b : JournalBody) (d : Dev) : JournalRecord :=
  { origin := d.fabric.device, context := c, seq := d.fabric.nextSeq, instant := d.geyser.now, body := b }

/-- What a record appended leaves of the fabric: the frame that carries it aside. -/
theorem journalAdd_fabric (c : W32) (b : JournalBody) (d : Dev) : (journalAdd c b d).fabric.journal = d.fabric.journal ++ [ownRecord c b d] ∧
    (journalAdd c b d).fabric.nextSeq = d.fabric.nextSeq + 1 ∧ (journalAdd c b d).fabric.checkpointFrom = d.fabric.checkpointFrom := by
  unfold journalAdd modFab
  dsimp only
  split
  · exact ⟨rfl, rfl, rfl⟩
  · rw [framesOut_frame]
    exact ⟨rfl, rfl, rfl⟩

/-- The device at the boundary of its next checkpoint. -/
def checkpointBegun (d : Dev) : Dev :=
  modFab (fun f => { f with checkpointAt := some (nextBeat (ms 100) d.fabric.checkpointAt d.geyser.now) })
    (advance (nextBeat (ms 100) d.fabric.checkpointAt d.geyser.now) d)

/-- A CONTEXT record stands for every context. -/
def contextsJournaled (d : Dev) : Dev := d.contexts.foldl (fun d e => journalCtx (BitVec.ofNat 32 e.1) d) d

/-- The records that the checkpoint before made dead are freed. -/
def journalFreed (d : Dev) : Dev :=
  modFab (fun f => { f with journal := d.fabric.journal.filter (keptRecord d d.fabric.checkpointFrom), checkpointFrom := f.nextSeq }) d

theorem contextsJournaled_frame (d : Dev) : contextsJournaled d = { d with fabric := (contextsJournaled d).fabric } := by
  have each (l : KMap Context) : ∀ d : Dev, l.foldl (fun d e => journalCtx (BitVec.ofNat 32 e.1) d) d =
      { d with fabric := (l.foldl (fun d e => journalCtx (BitVec.ofNat 32 e.1) d) d).fabric } := by
    induction l with
    | nil => exact fun d => rfl
    | cons e l ih => exact fun d => (ih (journalCtx (BitVec.ofNat 32 e.1) d)).trans rfl
  exact each d.contexts d

theorem checkpoint_down {d : Dev} (down : fabricUp (checkpointBegun d) = false) : checkpoint d = checkpointBegun d :=
  if_pos (show (!fabricUp (checkpointBegun d)) = true by rw [down]; rfl)

theorem checkpoint_up {d : Dev} (up : fabricUp (checkpointBegun d) = true) :
    ∃ o, checkpoint d = journalAdd 0 (.checkpoint o) (journalFreed (contextsJournaled (checkpointBegun d))) :=
  ⟨_, if_neg (show ¬ (!fabricUp (checkpointBegun d)) = true by rw [up]; decide)⟩

/-- Without a context or a command that waits, a checkpoint frees everything older than the one before. -/
theorem keptRecord_recent {d : Dev} {cut : Nat} {r : JournalRecord} (contexts : d.contexts = []) (accepted : d.accepted = [])
    (kept : keptRecord d cut r = true) : cut ≤ r.seq := by
  have none_ : (ctxOf d r.context).heldRecords = [] := by
    unfold ctxOf
    rw [contexts]
    rfl
  unfold keptRecord at kept
  rw [accepted, none_] at kept
  obtain recent | other := (Bool.or_eq_true _ _).mp kept
  · exact of_decide_eq_true recent
  · split at other <;> cases other

/-! ### Moves and takeovers (R478 to R486) -/

section
variable {c : W32} {d : Dev}

theorem remapBoundary_none (none_ : d.fabric.remaps.find? (fun e => e.1 == c) = none) : remapBoundary c d = d := by
  unfold remapBoundary
  rw [none_]

theorem remapBoundary_drains {e : W32 × Nat × Time} (planned : d.fabric.remaps.find? (fun e => e.1 == c) = some e)
    (open_ : (ctxOf (advance e.2.2 d) c).state ≠ .closed) : remapBoundary c d =
      closeIfDrained c (journalCtx c (modCtx c (fun x => { x with state := .draining }) (advance e.2.2 d))) := by
  unfold remapBoundary
  rw [planned]
  exact if_neg open_

theorem takeoverReadback_kept {bell : Nat} {slots : List RingSlot}
    (kept : takeoverOf? d c = none ∨ muted d = true ∨ fabricUp d = false ∨ (ctxOf d c).state ≠ .closed) :
    takeoverReadback c bell slots d = d := by
  unfold takeoverReadback
  split
  · rfl
  · next t found =>
    refine if_pos ?_
    obtain none_ | silent | down | open_ := kept
    · rw [none_] at found
      cases found
    · rw [silent]
      rfl
    · rw [down, Bool.not_false, Bool.or_true]
      rfl
    · exact (Bool.or_eq_true _ _).mpr (.inr (bne_iff_ne.mpr open_))

theorem takeoverReadback_eq {k : Takeover} {bell : Nat} {slots : List RingSlot} (found : takeoverOf? d c = some k) (speaks : muted d = false)
    (up : fabricUp d = true) (closed : (ctxOf d c).state = .closed) (known : k.sliced = true ∨ k.handed.isSome = true) :
    takeoverReadback c bell slots d = takeOver k bell slots d := by
  unfold takeoverReadback
  rw [found]
  refine if_neg ?_
  rw [speaks, up, closed, (Bool.or_eq_true _ _).mpr known]
  decide

end

theorem lastWritten_next {slots : List RingSlot} {l q : Nat} (fuel w : Nat)
    (valid : ∃ x ∈ slots, x.index = q % l ∧ slotOk x = true ∧ slotSeq x = q) :
    lastWritten slots l (fuel + 1) q w = lastWritten slots l fuel (q + 1) q := by
  obtain ⟨x, mem, place, ok, seq⟩ := valid
  refine if_pos (List.any_eq_true.mpr ⟨x, mem, ?_⟩)
  rw [place, ok, seq, beq_self_eq_true, beq_self_eq_true]
  rfl

theorem lastWritten_ends {slots : List RingSlot} {l q : Nat} (fuel w : Nat)
    (end_ : ∀ x ∈ slots, ¬ (x.index = q % l ∧ slotOk x = true ∧ slotSeq x = q)) : lastWritten slots l (fuel + 1) q w = w := by
  refine if_neg fun any => ?_
  obtain ⟨x, mem, valid⟩ := List.any_eq_true.mp any
  rw [Bool.and_eq_true, Bool.and_eq_true, beq_iff_eq, beq_iff_eq] at valid
  obtain ⟨⟨place, ok⟩, seq⟩ := valid
  exact end_ x mem ⟨place, ok, seq⟩

/-- The record of a sequence that no HELD record has. -/
theorem takeoverRecord_withheld {l : List JournalRecord} {q : Nat} (c : W32) (grade : Nat) (d : Dev)
    (none_ : ∀ r ∈ l, ∀ v, r.body = .held v → v.seq ≠ q) : ∃ cap, takeoverRecord c grade l q d =
      { context := c, verdict := 6, grade := grade, seq := q, reasons := rSafeState, device := d.fabric.device, capture := cap,
        instant := d.geyser.now } := by
  unfold takeoverRecord
  dsimp only
  split
  · next v held =>
    obtain ⟨r, mem, this_⟩ := List.exists_of_findSome?_eq_some held
    split at this_
    · next w body =>
      split at this_
      · next seq => exact absurd seq (none_ r mem w body)
      · cases this_
    · cases this_
  · exact ⟨_, rfl⟩

/-- The record of a sequence that a HELD record has. -/
theorem takeoverRecord_held {l : List JournalRecord} {q : Nat} (c : W32) (grade : Nat) (d : Dev)
    (has : ∃ r ∈ l, ∃ v, r.body = .held v ∧ v.seq = q) :
    ∃ r ∈ l, r.body = .held (takeoverRecord c grade l q d) ∧ (takeoverRecord c grade l q d).seq = q := by
  unfold takeoverRecord
  dsimp only
  split
  · next v held =>
    obtain ⟨r, mem, this_⟩ := List.exists_of_findSome?_eq_some held
    split at this_
    · next w body =>
      split at this_
      · next seq =>
        cases this_
        exact ⟨r, mem, body, seq⟩
      · cases this_
    · cases this_
  · next held =>
    obtain ⟨r, mem, v, body, seq⟩ := has
    have missed := List.findSome?_eq_none_iff.mp held r mem
    rw [body] at missed
    exact absurd ((if_pos seq).symm.trans missed) (Option.some_ne_none v)

end Sys2Proof.Machine
end

section
/-! The statement about what the watch fabric does in time (19 R466 to R486). -/

namespace Sys2Proof.Machine

open Sys2Proof

/-- Heartbeats (R466). -/
theorem heartbeatSend_effect (s : State) (b : Time) (d : Dev) (hb : b = nextBeat (ms 1) s.dev.fabric.beatAt s.dev.geyser.now)
    (hd : d = modFab (fun f => { f with beatAt := some b }) (advance b s.dev)) :
    b % ms 1 = 0 ∧ s.dev.geyser.now ≤ b ∧ b ≤ s.dev.geyser.now + ms 1 ∧
    (d.fabric.role = 0 ∨ fabricUp d = false → exec .heartbeatSend s = .next { s with dev := d }) ∧
    (∀ peers : List Nat, d.fabric.role ≠ 0 → fabricUp d = true → peers = beatPeers d →
      ∃ u, exec .heartbeatSend s = .next u ∧ u = { s with dev := { d with fabric := u.dev.fabric } } ∧
        u.dev.fabric.frameSeq = d.fabric.frameSeq + peers.length ∧
        (∀ l p, peers = l ++ [p] →
          u.dev.fabric.outFrames.getLast? = some (1, p, frameImage d.geyser.now d.fabric (d.fabric.frameSeq + peers.length) 1 p
            (heartbeatPayload d)) ∧
          u.dev.fabric.sent.getLast? = some (d.fabric.frameSeq + peers.length, d.geyser.now)) ∧
        u.dev.fabric.lease = d.fabric.lease) := by
  obtain ⟨whole, after, soon⟩ := nextBeat_spec (m := ms 1) (by decide) s.dev.fabric.beatAt s.dev.geyser.now
  have begun : d = beatBegun s.dev := by rw [hd, hb]; rfl
  refine ⟨hb ▸ whole, hb ▸ after, hb ▸ soon, fun quiet => ?_, fun peers member up to_ => ?_⟩
  · rw [begun] at quiet ⊢
    exact next_onDev (heartbeatSend_quiet quiet)
  · rw [begun] at member up to_ ⊢
    rw [to_]
    refine ⟨_, next_onDev (heartbeatSend_sent member up), rfl, beatsSent_seq .., fun l p ends => ?_, beatsSent_lease ..⟩
    rw [ends]
    have last := beatsSent_last l p (beatBegun s.dev) (beatBegun s.dev).fabric
    rw [← ends] at last ⊢
    exact last

/-- A checkpoint (R471). -/
theorem checkpoint_effect {s : State} (up : fabricUp (checkpointBegun s.dev) = true) :
    ∃ u r o, exec .checkpoint s = .next u ∧ u.dev.fabric.journal.getLast? = some r ∧ r.body = .checkpoint o ∧
      r.instant = (checkpointBegun s.dev).geyser.now ∧ r.seq + 1 = u.dev.fabric.nextSeq ∧ u.dev.fabric.checkpointFrom = r.seq ∧
      u = { s with dev := { checkpointBegun s.dev with fabric := u.dev.fabric } } ∧
      ((checkpointBegun s.dev).contexts = [] → (checkpointBegun s.dev).accepted = [] →
        ∀ x ∈ u.dev.fabric.journal, x.seq ≥ (checkpointBegun s.dev).fabric.checkpointFrom ∨ x = r) := by
  obtain ⟨o, eq⟩ := checkpoint_up up
  have frame := contextsJournaled_frame (checkpointBegun s.dev)
  have now : (journalFreed (contextsJournaled (checkpointBegun s.dev))).geyser.now = (checkpointBegun s.dev).geyser.now :=
    (congrArg (fun d : Dev => d.geyser.now) frame :)
  obtain ⟨journal, nextSeq, from_⟩ := journalAdd_fabric 0 (.checkpoint o) (journalFreed (contextsJournaled (checkpointBegun s.dev)))
  refine ⟨_, ownRecord 0 (.checkpoint o) (journalFreed (contextsJournaled (checkpointBegun s.dev))), o, next_onDev eq, ?_, rfl, now,
    nextSeq.symm, from_, ?_, fun contexts accepted x mem => ?_⟩
  · exact (congrArg List.getLast? journal).trans List.getLast?_concat
  · exact (congrArg (fun d : Dev => ({ s with dev :=
      { d with fabric := (journalAdd 0 (.checkpoint o) (journalFreed (contextsJournaled (checkpointBegun s.dev)))).fabric } } : State)) frame :)
  · obtain kept | new_ := List.mem_append.mp (journal ▸ mem)
    · have plain : contextsJournaled (checkpointBegun s.dev) = checkpointBegun s.dev := by
        unfold contextsJournaled
        rw [contexts]
        rfl
      rw [plain] at kept
      obtain ⟨-, alive⟩ := List.mem_filter.mp kept
      exact .inl (keptRecord_recent contexts accepted alive)
    · exact .inr (List.mem_singleton.mp new_)

/-- Settles O57, event by event: each is the equation of its function, and what the roster keeps through a declaration and a promotion. -/
theorem fabricEvents : Obligations.FabricEvents := by
  refine ⟨heartbeatSend_effect, ?_, ?_, ?_, ?_, ?_, ?_, ?_, ?_, ?_, ?_, ?_⟩
  · rintro s d rfl
    refine ⟨fun role holds => ?_, fun stays => ?_, fun role others holds => ?_, fun stays => ?_⟩
    · exact ⟨_, next_onDev ((if_pos role).trans (isolate_eq holds)), rfl, rfl, rfl, forceSafe_pinsLow _, forceSafe_ports _, rfl⟩
    · refine ⟨_, next_onDev ?_, rfl⟩
      split
      · next role =>
        refine isolate_lasts (stays.resolve_left fun low => ?_)
        omega
      · rfl
    · exact ⟨_, next_onDev ((if_pos ⟨role, others⟩).trans (isolate_eq holds)), rfl, forceSafe_pinsLow _⟩
    · refine ⟨_, next_onDev (if_neg fun h => ?_), rfl⟩
      obtain ⟨role, others⟩ := h
      obtain other | none_ := stays
      · exact other role
      · exact Bool.false_ne_true (none_.symm.trans others)
  · rintro t n m s d rfl found
    refine ⟨fun kept => ⟨_, next_onDev (failureDeclared_kept (d := advance t s.dev) found kept), rfl⟩, fun silent up manager other serves => ?_⟩
    obtain ⟨m', found', out⟩ := declareFailed_out (d := advance t s.dev) manager other found serves
    exact ⟨_, m', next_onDev (failureDeclared_eq (d := advance t s.dev) found silent up), found', out, rfl, rfl⟩
  · intro s
    refine ⟨fun kept => ⟨_, next_onDev (promote_kept kept), rfl⟩, fun deputy up => ?_⟩
    have seat := promote_seat deputy up
    exact ⟨_, rfl, congrArg (fun x => x.2.1) seat, congrArg (fun x => x.2.2.1) seat, congrArg Prod.fst seat, rfl, rfl⟩
  · intro s
    refine ⟨fun none_ => ⟨⟨_, next_onDev (journalResend_none none_), rfl⟩, ⟨_, next_onDev (mirrorTimeout_none none_), rfl⟩⟩, ?_⟩
    intro r m oldest peer
    refine ⟨⟨_, next_onDev (journalResend_eq oldest peer), ?_, ?_, rfl, rfl⟩, ⟨_, next_onDev (mirrorTimeout_eq oldest), rfl⟩⟩
    · exact framesOut_last _ [] _ _
    · rfl
  · rintro t s d rfl
    refine ⟨fun kept => ⟨_, next_settled (congrArg pump (copyComplete_kept (d := advance t s.dev) kept)), rfl⟩, fun peer open_ => ?_⟩
    exact ⟨_, next_settled (congrArg pump (copyComplete_eq (d := advance t s.dev) peer open_)), rfl⟩
  · intro n k s a waits
    refine ⟨fun q mirror has => ?_, fun q mirror late => ?_, fun q mirror none_ => ?_, fun q mirror mapped => ?_⟩
    · exact ⟨_, next_settled (congrArg pump (commandMirrorTimeout_confirmed waits mirror has)), rfl⟩
    · exact ⟨_, next_settled (congrArg pump (commandMirrorTimeout_refused waits mirror late)), rfl⟩
    · exact ⟨_, next_settled (congrArg pump ((peerTimeout_mirrored waits mirror).trans (if_neg (by rw [none_]; exact Bool.false_ne_true)))), rfl⟩
    · exact ⟨_, next_settled (congrArg pump ((peerTimeout_mirrored waits mirror).trans (if_pos mapped))), rfl⟩
  · rintro s b d rfl rfl
    exact ⟨fun down => ⟨_, next_onDev (checkpoint_down down), rfl⟩, checkpoint_effect⟩
  · intro c s
    refine ⟨fun none_ => ⟨_, next_settled (congrArg pump (remapBoundary_none none_)), rfl⟩, ?_⟩
    rintro e d planned rfl open_
    exact ⟨_, next_settled (congrArg pump (remapBoundary_drains planned open_)), rfl⟩
  · rintro t c bell slots s d rfl
    refine ⟨fun kept => ⟨_, next_settled (congrArg pump (takeoverReadback_kept (d := advance t s.dev) kept)), rfl⟩, ?_⟩
    intro k found speaks up closed known
    exact ⟨_, next_settled (congrArg pump (takeoverReadback_eq (d := advance t s.dev) found speaks up closed known)), rfl⟩
  · exact fun slots l fuel q w => ⟨lastWritten_next fuel w, lastWritten_ends fuel w⟩
  · intro c grade l q d
    refine ⟨fun none_ => ?_, takeoverRecord_held c grade d⟩
    obtain ⟨cap, record⟩ := takeoverRecord_withheld c grade d none_
    rw [record]
    exact ⟨rfl, rfl, rfl, rfl, rfl, rfl⟩

end Sys2Proof.Machine
end

section
/-! Frames of the watch fabric as they are received (19 R464 to R478): at their port, from their member, and what each type brings. -/

namespace Sys2Proof.Machine

open Sys2Proof

/-! ### At the port (R14) -/

theorem portHears_unlinked {port : Nat} {carries : List PortRole} {f : Dev → Dev} {d : Dev} (down : (portOf d port).link = false) :
    portHears port carries f d = d := if_pos (by rw [down]; rfl)

/-- A port of a role that does not carry the frame counts it, as OUT or as another role does. -/
theorem portHears_uncarried {port : Nat} {carries : List PortRole} {f : Dev → Dev} {d : Dev} (link : (portOf d port).link = true)
    (other : carries.contains (portOf d port).role = false) :
    portHears port carries f d =
      if (portOf d port).role = .out then modPort port (fun p => { p with outReceived := p.outReceived.add 1 }) d
      else modPort port (fun p => { p with unsupported := p.unsupported.add 1 }) d :=
  (if_neg (by rw [link]; exact Bool.false_ne_true)).trans (if_neg (by rw [other]; exact Bool.false_ne_true))

section
variable {h : FabricHeader} {d : Dev} {f : Dev → Dev}

theorem takeFrame_atFabric (link : (portOf d h.port.val).link = true) (role : (portOf d h.port.val).role = .fabric) :
    takeFrame h f d = takeSealed h f d := portHears_carried link (by rw [role]; rfl)

/-- A frame that does not concern this device. -/
theorem takeSealed_passes (apart : d.fabric.id = 0 ∨ fabricUp d = false ∨ h.dest ≠ d.fabric.device ∧ h.dest ≠ 0xFF) :
    takeSealed h f d = d := by
  refine if_pos ?_
  rw [Bool.or_eq_true, Bool.or_eq_true, Bool.and_eq_true]
  obtain none_ | down | ⟨mine, all⟩ := apart
  · exact .inl (.inl (decide_eq_true none_))
  · exact .inl (.inr (by rw [down]; rfl))
  · exact .inr ⟨bne_iff_ne.mpr mine, bne_iff_ne.mpr all⟩

/-! ### From whom (R464, R465) -/

/-- A frame for this device meets nothing that leaves it to another. -/
theorem frameForUs_stays (us_ : frameForUs h d) :
    ¬ (d.fabric.id = 0 || !fabricUp d || (h.dest != d.fabric.device && h.dest != 0xFF)) = true := by
  obtain ⟨-, -, member, up, dest⟩ := us_
  rw [Bool.or_eq_true, Bool.or_eq_true, Bool.and_eq_true, up]
  rintro ((none_ | down) | ⟨mine, all⟩)
  · exact member (of_decide_eq_true none_)
  · exact Bool.false_ne_true down
  · exact dest.elim (bne_iff_ne.mp mine) (bne_iff_ne.mp all)

/-- The second copy of a frame is discarded and counted. -/
theorem takeFrame_again {m : Member} (us_ : frameForUs h d) (fabric : h.fabric = d.fabric.id) (check : h.checkOk = true)
    (source : kfind? d.fabric.members h.source = some m) (key : m.pairKey.isSome = true) (seen : h.frameSeq ∈ m.seen) :
    takeFrame h f d = modPort h.port.val (fun p => { p with fabricDup := p.fabricDup.add 1 }) d := by
  rw [takeFrame_atFabric us_.link us_.role]
  unfold takeSealed
  rw [if_neg (frameForUs_stays us_), if_neg (not_not_intro fabric), source]
  dsimp only
  rw [if_neg (by rw [check, Option.isNone_eq_false_iff.mpr key]; decide), if_pos (List.contains_iff_mem.mpr seen)]

/-- A frame of another fabric, of an unknown source or with a bad check is a bad one. -/
theorem takeFrame_bad {m : Member} (us_ : frameForUs h d)
    (bad : h.fabric ≠ d.fabric.id ∨ kfind? d.fabric.members h.source = none ∨
      kfind? d.fabric.members h.source = some m ∧ (m.pairKey = none ∨ h.checkOk = false)) :
    ∃ b, takeFrame h f d = frameBad b h d := by
  rw [takeFrame_atFabric us_.link us_.role]
  unfold takeSealed
  rw [if_neg (frameForUs_stays us_)]
  by_cases fabric : h.fabric ≠ d.fabric.id
  · exact ⟨false, if_pos fabric⟩
  · rw [if_neg fabric]
    obtain other | unknown | ⟨source, check⟩ := bad
    · exact absurd other fabric
    · rw [unknown]
      exact ⟨true, rfl⟩
    · rw [source]
      refine ⟨true, if_pos ((Bool.or_eq_true _ _).mpr ?_)⟩
      obtain none_ | wrong := check
      · exact .inl (Option.isNone_iff_eq_none.mpr none_)
      · exact .inr (by rw [wrong]; rfl)

/-- A bad frame is counted at its port; the first since the counter was read raises attention class 5. -/
theorem frameBad_effect (b : Bool) (h : FabricHeader) (d : Dev) :
    (portOf (frameBad b h d) h.port.val).fabricCheck = ((portOf d h.port.val).fabricCheck.add 1).tell ∧
    (frameBad b h d).fabric = d.fabric ∧ (frameBad b h d).accepted = d.accepted ∧
    ((portOf d h.port.val).fabricCheck.told = false → (kfind? (frameBad b h d).attn.pending 5).isSome) := by
  have counted : (portOf (modPort h.port.val (fun p => { p with fabricCheck := ((portOf d h.port.val).fabricCheck.add 1).tell }) d)
      h.port.val).fabricCheck = ((portOf d h.port.val).fabricCheck.add 1).tell := congrArg Port.fabricCheck (portOf_modPort ..)
  have raised (c : Nat) (l : List Byte) (e : Dev) : (kfind? (raiseAttn 5 c l e).attn.pending 5).isSome := by
    rw [raiseAttn_pending, kfind?_kput_self]
    rfl
  unfold frameBad
  dsimp only
  split
  · next told => exact ⟨counted, rfl, rfl, fun first => absurd (first.symm.trans told) Bool.false_ne_true⟩
  · split
    · exact ⟨counted, rfl, rfl, fun _ => raised ..⟩
    · exact ⟨counted, rfl, rfl, fun _ => raised ..⟩

/-- The first copy of a frame of a member is taken. -/
theorem takeFrame_comes {m : Member} (comes : frameComes h m d) : takeFrame h f d = f (frameTaken h d) := by
  obtain ⟨us_, fabric, source, key, check, first⟩ := comes
  rw [takeFrame_atFabric us_.link us_.role]
  unfold takeSealed
  rw [if_neg (frameForUs_stays us_), if_neg (not_not_intro fabric), source]
  dsimp only
  rw [if_neg (by rw [check, Option.isNone_eq_false_iff.mpr key]; decide), if_neg fun seen => first (List.contains_iff_mem.mp seen)]
  rfl

/-- The fabric once a frame is taken. -/
theorem frameTaken_eq {m : Member} (source : kfind? d.fabric.members h.source = some m) :
    frameTaken h d = { d with fabric := { d.fabric with
      members := kput d.fabric.members h.source { m with seen := m.seen ++ [h.frameSeq] }
      managerInstant := if h.source = d.fabric.manager then max d.fabric.managerInstant h.sendTime else d.fabric.managerInstant } } := by
  have got : kget { role := 0, inService := false } d.fabric.members h.source = m := by
    unfold kget
    rw [source]
    rfl
  unfold frameTaken modMember modFab kmod
  dsimp only
  rw [got]
  split <;> rfl

end

/-! ### The standing of the members -/

/-- The members with their roles and whether each is in service. -/
def standing (l : KMap Member) : List (Nat × Nat × Bool) := l.map fun e => (e.1, e.2.role, e.2.inService)

/-- A member that keeps its role and service leaves the standing of all. -/
theorem standing_kput {n : Nat} {m m' : Member} (role : m'.role = m.role) (serves : m'.inService = m.inService) {l : KMap Member}
    (found : kfind? l n = some m) : standing (kput l n m') = standing l := by
  induction l with
  | nil => cases found
  | cons e l ih =>
    obtain ⟨k, v⟩ := e
    unfold kfind? at found
    unfold kput
    split at found
    · next same =>
      cases found
      rw [if_pos same]
      show (n, m'.role, m'.inService) :: _ = (k, m.role, m.inService) :: _
      rw [role, serves, same]
    · next other =>
      split at found
      · cases found
      · next above =>
        rw [if_neg other, if_neg above]
        exact congrArg ((k, v.role, v.inService) :: ·) (ih found)

theorem deputyOf_standing {f g : Fabric} (same : standing g.members = standing f.members) : deputyOf g = deputyOf f := by
  have through (f : Fabric) : deputyOf f = ((standing f.members).find? fun e => e.2.2 && e.2.1 == 2).map (·.1) := by
    unfold standing deputyOf
    rw [List.find?_map, Option.map_map]
    rfl
  rw [through, through, same]

theorem deputyOf_frameTaken {h : FabricHeader} {m : Member} {d : Dev} (source : kfind? d.fabric.members h.source = some m) :
    deputyOf (frameTaken h d).fabric = deputyOf d.fabric := by
  rw [frameTaken_eq source]
  exact deputyOf_standing (standing_kput (m := m) (m' := { m with seen := m.seen ++ [h.frameSeq] }) rfl rfl source)

/-- A frame's bytes depend on nothing of the fabric but its number, this device's and the key of the pair. -/
theorem frameImage_congr {f g : Fabric} (t : Time) (seq type dest : Nat) (payload : List Byte) (id : g.id = f.id) (device : g.device = f.device)
    (key : (kfind? g.members dest).bind (·.pairKey) = (kfind? f.members dest).bind (·.pairKey)) :
    frameImage t g seq type dest payload = frameImage t f seq type dest payload := by
  unfold frameImage
  rw [id, device, key]

end Sys2Proof.Machine
end

section
/-! What a heartbeat of the watch fabric brings (19 R466, R468): instants, its ECHO, what it forwards and what it announces. -/

namespace Sys2Proof.Machine

open Sys2Proof

/-! ### Places of the members -/

/-- `e` is `d` but for the fabric, in which this device keeps its place and every member its service. -/
structure keepsPlaces (d e : Dev) : Prop where
  only : e = { d with fabric := e.fabric }
  role : e.fabric.role = d.fabric.role
  device : e.fabric.device = d.fabric.device
  serves : ∀ n b, memberServes n b d → memberServes n b e

section
variable {d e g : Dev}

theorem keepsPlaces.clock (k : keepsPlaces d e) : e.geyser = d.geyser := by rw [k.only]

theorem keepsPlaces_refl (d : Dev) : keepsPlaces d d := ⟨rfl, rfl, rfl, fun _ _ k => k⟩

theorem keepsPlaces_trans (first : keepsPlaces d e) (second : keepsPlaces e g) : keepsPlaces d g where
  only := second.only.trans (congrArg (fun z : Dev => { z with fabric := g.fabric }) first.only)
  role := second.role.trans first.role
  device := second.device.trans first.device
  serves n b k := second.serves n b (first.serves n b k)

theorem keepsPlaces_modMember (n : Nat) {f : Member → Member} (keeps : ∀ m, (f m).inService = m.inService) (d : Dev) :
    keepsPlaces d (modMember n f d) := ⟨rfl, rfl, rfl, fun _ _ k => modMember_serves keeps k⟩

theorem keepsPlaces_modFab {f : Fabric → Fabric} (d : Dev) (roster : fabRoster (f d.fabric) = fabRoster d.fabric) :
    keepsPlaces d (modFab f d) where
  only := rfl
  role := congrArg (fun r => r.2.1) roster
  device := congrArg (fun r => r.2.2.2) roster
  serves _ _ k := memberServes_roster (congrArg (Prod.mk d.geyser) roster) k

theorem keepsPlaces_foldl {α : Type} {f : Dev → α → Dev} (each : ∀ d a, keepsPlaces d (f d a)) (l : List α) (d : Dev) :
    keepsPlaces d (l.foldl f d) := by
  induction l generalizing d with
  | nil => exact keepsPlaces_refl d
  | cons a l ih => exact keepsPlaces_trans (each d a) (ih _)

theorem frameTaken_places (h : FabricHeader) (d : Dev) : keepsPlaces d (frameTaken h d) := by
  have seen : keepsPlaces d (modMember h.source (fun m => { m with seen := m.seen ++ [h.frameSeq] }) d) :=
    keepsPlaces_modMember (f := fun m => { m with seen := m.seen ++ [h.frameSeq] }) _ (fun _ => rfl) d
  unfold frameTaken
  dsimp only
  split
  · exact keepsPlaces_trans seen (keepsPlaces_modFab _ rfl)
  · exact seen

end

/-! ### Heartbeats (R466, R468) -/

/-- The deputy's heartbeat brings the manager the send instants of the workers' heartbeats. -/
def beatsForwarded (h : FabricHeader) (fwd : List (Nat × Time)) (d : Dev) : Dev :=
  if d.fabric.role = 1 ∧ deputyOf d.fabric = some h.source then
    fwd.foldl (fun d e => if (kfind? d.fabric.members e.1).isSome then
      modMember e.1 (fun m => { m with lastSend := max m.lastSend e.2 }) d else d) d
  else d

/-- A heartbeat brings its send instant and the newest instant of the manager that it reports. -/
def beatHeard (h : FabricHeader) (mi : Time) (d : Dev) : Dev :=
  modFab (fun f => { f with managerInstant := max f.managerInstant mi })
    (modMember h.source (fun m => { m with lastSend := max m.lastSend h.sendTime }) d)

/-- Who answers a heartbeat with an ECHO: the manager, the deputy, and a worker whose manager sent it. -/
def echoes (h : FabricHeader) (d : Dev) : Bool :=
  d.fabric.role == 1 || d.fabric.role == 2 || (d.fabric.role == 3 && h.source == d.fabric.manager)

def beatEchoed (h : FabricHeader) (d : Dev) : Dev :=
  if echoes h d then modFab (framesOut d.geyser.now [(2, h.source, leBytes 8 h.frameSeq ++ timeBytes h.sendTime)]) d else d

/-- The device once a heartbeat has brought what it brings, before any declaration. -/
def beatTaken (h : FabricHeader) (mi : Time) (fwd : List (Nat × Time)) (d : Dev) : Dev :=
  beatEchoed h (beatHeard h mi (beatsForwarded h fwd (frameTaken h d)))

section
variable {h : FabricHeader} {m : Member} {d : Dev} {mi : Time} {fwd : List (Nat × Time)} {iso fail : Bool}

theorem heartbeat_quiet (comes : frameComes h m d) (calm : iso = false) (whole : fail = false) :
    heartbeat h mi iso fail fwd d = beatTaken h mi fwd d := by
  rw [calm, whole]
  exact takeFrame_comes comes

theorem heartbeat_announces (comes : frameComes h m d) (told : iso = true ∨ fail = true) :
    heartbeat h mi iso fail fwd d = declareFailed h.source (beatTaken h mi fwd d) :=
  (takeFrame_comes comes).trans (if_pos ((Bool.or_eq_true _ _).mpr told))

theorem beatsForwarded_none (none_ : d.fabric.role ≠ 1 ∨ deputyOf d.fabric ≠ some h.source ∨ fwd = []) :
    beatsForwarded h fwd d = d := by
  unfold beatsForwarded
  split
  · next deputy =>
    obtain other | other | empty := none_
    · exact absurd deputy.1 other
    · exact absurd deputy.2 other
    · rw [empty]
      rfl
  · rfl

theorem beatsForwarded_one {n : Nat} {i : Time} {k : Member} (role : d.fabric.role = 1) (deputy : deputyOf d.fabric = some h.source)
    (found : kfind? d.fabric.members n = some k) :
    beatsForwarded h [(n, i)] d = modMember n (fun m => { m with lastSend := max m.lastSend i }) d := by
  refine (if_pos ⟨role, deputy⟩).trans (if_pos ?_)
  rw [found]
  rfl

theorem beatsForwarded_places (h : FabricHeader) (fwd : List (Nat × Time)) (d : Dev) : keepsPlaces d (beatsForwarded h fwd d) := by
  unfold beatsForwarded
  split
  · refine keepsPlaces_foldl (fun d e => ?_) fwd d
    split
    · refine keepsPlaces_modMember _ (fun _ => ?_) d
      rfl
    · exact keepsPlaces_refl d
  · exact keepsPlaces_refl d

theorem beatHeard_places (h : FabricHeader) (mi : Time) (d : Dev) : keepsPlaces d (beatHeard h mi d) :=
  keepsPlaces_trans (keepsPlaces_modMember (f := fun m => { m with lastSend := max m.lastSend h.sendTime }) h.source (fun _ => rfl) d)
    (keepsPlaces_modFab (f := fun f => { f with managerInstant := max f.managerInstant mi }) _ rfl)

theorem beatEchoed_places (h : FabricHeader) (d : Dev) : keepsPlaces d (beatEchoed h d) := by
  unfold beatEchoed
  split
  · exact keepsPlaces_modFab d (framesOut_roster ..)
  · exact keepsPlaces_refl d

theorem beatTaken_places (h : FabricHeader) (mi : Time) (fwd : List (Nat × Time)) (d : Dev) : keepsPlaces d (beatTaken h mi fwd d) :=
  keepsPlaces_trans (keepsPlaces_trans (keepsPlaces_trans (frameTaken_places h d) (beatsForwarded_places h fwd _)) (beatHeard_places h mi _))
    (beatEchoed_places h _)

theorem beatEchoed_members (h : FabricHeader) (d : Dev) : (beatEchoed h d).fabric.members = d.fabric.members := by
  have sent (l : List (Nat × Nat × List Byte)) : (framesOut d.geyser.now l d.fabric).members = d.fabric.members :=
    congrArg Prod.fst (framesOut_roster d.geyser.now l d.fabric)
  unfold beatEchoed
  split
  · exact sent _
  · rfl

theorem kfind_beatHeard {n : Nat} (other : n ≠ h.source) (mi : Time) (d : Dev) :
    kfind? (beatHeard h mi d).fabric.members n = kfind? d.fabric.members n := kfind?_kput_ne _ _ other

/-! #### A heartbeat that forwards nothing and announces nothing -/

/-- The fabric once such a heartbeat of member `m` is taken, before its echo. -/
def heardFabric (h : FabricHeader) (m : Member) (mi : Time) (f : Fabric) : Fabric :=
  { f with
    members := kput f.members h.source { m with seen := m.seen ++ [h.frameSeq], lastSend := max m.lastSend h.sendTime }
    managerInstant := max (if h.source = f.manager then max f.managerInstant h.sendTime else f.managerInstant) mi }

theorem beatHeard_frameTaken (source : kfind? d.fabric.members h.source = some m) :
    beatHeard h mi (frameTaken h d) = { d with fabric := heardFabric h m mi d.fabric } := by
  rw [frameTaken_eq source]
  unfold beatHeard heardFabric modMember modFab kmod
  dsimp only
  rw [kget_kput_self, kput_kput]

theorem echoes_iff (h : FabricHeader) (d : Dev) :
    echoes h d = true ↔ d.fabric.role = 1 ∨ d.fabric.role = 2 ∨ d.fabric.role = 3 ∧ h.source = d.fabric.manager := by
  unfold echoes
  rw [Bool.or_eq_true, Bool.or_eq_true, Bool.and_eq_true, beq_iff_eq, beq_iff_eq, beq_iff_eq, beq_iff_eq, or_assoc]

/-- The key of a pair stays through a heartbeat of the other. -/
theorem heardFabric_key (source : kfind? d.fabric.members h.source = some m) :
    (kfind? (heardFabric h m mi d.fabric).members h.source).bind (·.pairKey) = (kfind? d.fabric.members h.source).bind (·.pairKey) := by
  unfold heardFabric
  rw [kfind?_kput_self, source]
  rfl

theorem beatTaken_calm (source : kfind? d.fabric.members h.source = some m)
    (none_ : d.fabric.role ≠ 1 ∨ deputyOf d.fabric ≠ some h.source ∨ fwd = []) :
    beatTaken h mi fwd d = beatEchoed h { d with fabric := heardFabric h m mi d.fabric } := by
  have role : (frameTaken h d).fabric.role = d.fabric.role := by rw [frameTaken_eq source]
  unfold beatTaken
  rw [beatsForwarded_none (d := frameTaken h d) (by rw [role, deputyOf_frameTaken source]; exact none_), beatHeard_frameTaken source]

/-- What such a heartbeat leaves: O56's words. -/
theorem beatEchoed_heard (source : kfind? d.fabric.members h.source = some m) {e : Dev}
    (he : beatEchoed h { d with fabric := heardFabric h m mi d.fabric } = e) :
    e = { d with fabric := e.fabric } ∧
    kfind? e.fabric.members h.source = some { m with seen := m.seen ++ [h.frameSeq], lastSend := max m.lastSend h.sendTime } ∧
    (∀ n, n ≠ h.source → kfind? e.fabric.members n = kfind? d.fabric.members n) ∧
    e.fabric.managerInstant = max (if h.source = d.fabric.manager then max d.fabric.managerInstant h.sendTime else d.fabric.managerInstant) mi ∧
    (d.fabric.role = 1 ∨ d.fabric.role = 2 ∨ d.fabric.role = 3 ∧ h.source = d.fabric.manager →
      e.fabric.frameSeq = d.fabric.frameSeq + 1 ∧ e.fabric.outFrames.getLast? = some (2, h.source,
        frameImage d.geyser.now d.fabric (d.fabric.frameSeq + 1) 2 h.source (leBytes 8 h.frameSeq ++ timeBytes h.sendTime))) ∧
    (d.fabric.role = 3 → h.source ≠ d.fabric.manager → e.fabric.outFrames = d.fabric.outFrames) ∧
    e.fabric.lease = d.fabric.lease ∧ e.fabric.journal = d.fabric.journal ∧ e.fabric.map = d.fabric.map := by
  have members := beatEchoed_members h { d with fabric := heardFabric h m mi d.fabric }
  have frame := (beatEchoed_places h { d with fabric := heardFabric h m mi d.fabric }).only
  rw [he] at members frame
  refine ⟨frame, ?_, fun n other => ?_, ?_⟩
  · rw [members]
    exact kfind?_kput_self ..
  · rw [members]
    exact kfind?_kput_ne _ _ other
  · subst he
    by_cases answers : echoes h { d with fabric := heardFabric h m mi d.fabric } = true
    · have sent : beatEchoed h { d with fabric := heardFabric h m mi d.fabric } = _ := if_pos answers
      have image := frameImage_congr d.geyser.now (d.fabric.frameSeq + 1) 2 h.source (leBytes 8 h.frameSeq ++ timeBytes h.sendTime)
        (f := d.fabric) (g := heardFabric h m mi d.fabric) rfl rfl (heardFabric_key source)
      rw [sent]
      refine ⟨rfl, fun _ => ⟨rfl, ?_⟩, fun worker other => ?_, rfl, rfl, rfl⟩
      · rw [← image]
        exact framesOut_last _ [] _ _
      · obtain one | two | ⟨-, same⟩ := (echoes_iff h { d with fabric := heardFabric h m mi d.fabric }).mp answers
        · exact absurd (worker.symm.trans one) (by decide)
        · exact absurd (worker.symm.trans two) (by decide)
        · exact absurd same other
    · have silent : beatEchoed h { d with fabric := heardFabric h m mi d.fabric } = _ := if_neg answers
      rw [silent]
      exact ⟨rfl, fun who => absurd ((echoes_iff h { d with fabric := heardFabric h m mi d.fabric }).mpr who) answers, fun _ _ => rfl, rfl, rfl, rfl⟩

/-! #### One that forwards or announces -/

/-- A send instant that the deputy forwards is the newest known of its member. -/
theorem beatTaken_forwards {n : Nat} {i : Time} {k : Member} (source : kfind? d.fabric.members h.source = some m)
    (role : d.fabric.role = 1) (deputy : deputyOf d.fabric = some h.source) (other : n ≠ h.source)
    (found : kfind? d.fabric.members n = some k) :
    kfind? (beatTaken h mi [(n, i)] d).fabric.members n = some { k with lastSend := max k.lastSend i } := by
  have taken := frameTaken_eq source
  have known : kfind? (frameTaken h d).fabric.members n = some k := by
    rw [taken]
    exact (kfind?_kput_ne _ _ other).trans found
  unfold beatTaken
  rw [beatEchoed_members, kfind_beatHeard other, beatsForwarded_one (by rw [taken]; exact role) ((deputyOf_frameTaken source).trans deputy) known]
  exact modMember_found known

end

end Sys2Proof.Machine
end

section
/-! What echoes, the journal and its confirmations, the map, takeovers and pair keys bring in the watch fabric (19 R465 to R486). -/

namespace Sys2Proof.Machine

open Sys2Proof

section
variable {h : FabricHeader} {m : Member} {d : Dev}

/-! ### Echoes (R467) -/

theorem echo_extends {q : Nat} {sent : Time} (comes : frameComes h m d)
    (who : d.fabric.role = 1 ∨ h.source = d.fabric.manager ∨ deputyOf d.fabric = some h.source) (known : (q, sent) ∈ d.fabric.sent)
    (holds : d.fabric.isolated = false) :
    echo h q sent d = modFab (fun f => { f with lease := max f.lease (sent + ms 10) }) (frameTaken h d) := by
  refine (takeFrame_comes comes).trans (if_pos ?_)
  rw [deputyOf_frameTaken comes.source, frameTaken_eq comes.source]
  exact ⟨who, List.contains_iff_mem.mpr known, by rw [holds]; rfl⟩

theorem echo_kept {q : Nat} {sent : Time} (comes : frameComes h m d)
    (kept : d.fabric.role ≠ 1 ∧ h.source ≠ d.fabric.manager ∧ deputyOf d.fabric ≠ some h.source ∨ (q, sent) ∉ d.fabric.sent ∨
      d.fabric.isolated = true) : echo h q sent d = frameTaken h d := by
  refine (takeFrame_comes comes).trans (if_neg ?_)
  rw [deputyOf_frameTaken comes.source, frameTaken_eq comes.source]
  rintro ⟨who, known, holds⟩
  obtain ⟨one, manager, deputy⟩ | unknown | isolated := kept
  · exact who.elim one fun who => who.elim manager deputy
  · exact unknown (List.contains_iff_mem.mp known)
  · exact Bool.false_ne_true ((congrArg (!·) isolated).symm.trans holds)

/-! ### The mirrored journal (R470 to R472) -/

/-- A record that is neither a CHECKPOINT nor a CONTEXT is held or not: nothing else. -/
theorem holdRecord_plain {r : JournalRecord} (f : Fabric) (noCheckpoint : ∀ o, r.body ≠ .checkpoint o)
    (noContext : ∀ a b c o, r.body ≠ .context a b c o) :
    holdRecord r f =
      if !(f.mirrored.any fun x => x.origin == r.origin) then { f with mirrored := [r], mirroredSeq := r.seq }
      else if r.seq = f.mirroredSeq + 1 then { f with mirrored := f.mirrored ++ [r], mirroredSeq := r.seq }
      else f := by
  unfold holdRecord
  dsimp only
  split
  · next o body => exact absurd body (noCheckpoint o)
  · next a b c o body => exact absurd body (noContext a b c o)
  · rfl

/-- What a record held leaves of the fabric. -/
theorem holdRecord_frame {r : JournalRecord} (f : Fabric) (noCheckpoint : ∀ o, r.body ≠ .checkpoint o)
    (noContext : ∀ a b c o, r.body ≠ .context a b c o) :
    holdRecord r f = { f with mirrored := (holdRecord r f).mirrored, mirroredSeq := (holdRecord r f).mirroredSeq } := by
  rw [holdRecord_plain f noCheckpoint noContext]
  split
  · rfl
  · split <;> rfl

theorem any_origin {l : List JournalRecord} {n : Nat} : (l.any fun x => x.origin == n) = true ↔ ∃ x ∈ l, x.origin = n := by
  rw [List.any_eq_true]
  exact exists_congr fun x => and_congr_right fun _ => beq_iff_eq

/-- What is mirrored once a record of the predecessor has come: it begins a copy, follows without gap, or is not held. -/
theorem holdRecord_mirrored {r : JournalRecord} (f : Fabric) (noCheckpoint : ∀ o, r.body ≠ .checkpoint o)
    (noContext : ∀ a b c o, r.body ≠ .context a b c o) :
    ((∀ x ∈ f.mirrored, x.origin ≠ r.origin) → (holdRecord r f).mirrored = [r] ∧ (holdRecord r f).mirroredSeq = r.seq) ∧
    ((∃ x ∈ f.mirrored, x.origin = r.origin) → r.seq = f.mirroredSeq + 1 →
      (holdRecord r f).mirrored = f.mirrored ++ [r] ∧ (holdRecord r f).mirroredSeq = r.seq) ∧
    ((∃ x ∈ f.mirrored, x.origin = r.origin) → r.seq ≠ f.mirroredSeq + 1 →
      (holdRecord r f).mirrored = f.mirrored ∧ (holdRecord r f).mirroredSeq = f.mirroredSeq) := by
  rw [holdRecord_plain f noCheckpoint noContext]
  refine ⟨fun none_ => ?_, fun some_ follows => ?_, fun some_ gap => ?_⟩
  · have fresh_ : (f.mirrored.any fun x => x.origin == r.origin) = false := by
      refine Bool.eq_false_iff.mpr fun any => ?_
      obtain ⟨x, mem, origin⟩ := any_origin.mp any
      exact none_ x mem origin
    rw [fresh_]
    exact ⟨rfl, rfl⟩
  · rw [any_origin.mpr some_, if_neg (by decide), if_pos follows]
    exact ⟨rfl, rfl⟩
  · rw [any_origin.mpr some_, if_neg (by decide), if_neg gap]
    exact ⟨rfl, rfl⟩

/-- The device once a JOURNAL frame of one record is held and confirmed. -/
def recordHeld (h : FabricHeader) (r : JournalRecord) (d : Dev) : Dev :=
  modFab (fun f => framesOut d.geyser.now [(4, h.source, leBytes 8 (holdRecord r f).mirroredSeq)] (holdRecord r f)) d

theorem journalFrame_held {r : JournalRecord} (comes : frameComes h m d)
    (next : nextIn h.source (ringOrder (frameTaken h d).fabric) = some d.fabric.device) (origin : r.origin = h.source) :
    journalFrame h [r] d = recordHeld h r (frameTaken h d) := by
  refine (takeFrame_comes comes).trans ((if_neg (not_not_intro (next.trans ?_))).trans ?_)
  · exact congrArg some (frameTaken_places h d).device.symm
  · have mine : [r].filter (fun r => r.origin == h.source) = [r] := List.filter_cons_of_pos (beq_iff_eq.mpr origin)
    rw [mine]
    rfl

theorem journalFrame_other {r : JournalRecord} (comes : frameComes h m d)
    (other : nextIn h.source (ringOrder (frameTaken h d).fabric) ≠ some d.fabric.device) : journalFrame h [r] d = frameTaken h d := by
  refine (takeFrame_comes comes).trans (if_pos ?_)
  rw [(frameTaken_places h d).device]
  exact other

/-- The confirmation that leaves. -/
theorem recordHeld_confirms {r : JournalRecord} (source : kfind? d.fabric.members h.source = some m)
    (noCheckpoint : ∀ o, r.body ≠ .checkpoint o) (noContext : ∀ a b c o, r.body ≠ .context a b c o) :
    (recordHeld h r (frameTaken h d)).fabric.outFrames.getLast? = some (4, h.source,
      frameImage d.geyser.now d.fabric (d.fabric.frameSeq + 1) 4 h.source (leBytes 8 (recordHeld h r (frameTaken h d)).fabric.mirroredSeq)) := by
  have frame := holdRecord_frame (frameTaken h d).fabric noCheckpoint noContext
  have taken := frameTaken_eq source
  have now : (frameTaken h d).geyser.now = d.geyser.now := congrArg Geyser.now (frameTaken_places h d).clock
  have key : (kfind? (frameTaken h d).fabric.members h.source).bind (·.pairKey) = (kfind? d.fabric.members h.source).bind (·.pairKey) := by
    rw [taken, source]
    dsimp only
    rw [kfind?_kput_self]
    rfl
  have seq : (recordHeld h r (frameTaken h d)).fabric.mirroredSeq = (holdRecord r (frameTaken h d).fabric).mirroredSeq := by
    unfold recordHeld modFab
    dsimp only
    rw [framesOut_frame]
  refine (framesOut_last _ [] _ _).trans ?_
  rw [seq, now]
  refine congrArg (fun b => some (4, h.source, b)) ?_
  refine (frameImage_congr (f := d.fabric) _ _ _ _ _ ?_ ?_ ?_).trans (congrArg (fun n => frameImage _ _ n _ _ _) ?_)
  · rw [frame, taken]
  · rw [frame, taken]
  · rw [frame]
    exact key
  · rw [frame, taken]
    rfl

/-- What is mirrored then, in terms of the device before the frame. -/
theorem recordHeld_mirrored {r : JournalRecord} {e : Dev} (source : kfind? d.fabric.members h.source = some m) (origin : r.origin = h.source)
    (noCheckpoint : ∀ o, r.body ≠ .checkpoint o) (noContext : ∀ a b c o, r.body ≠ .context a b c o)
    (he : recordHeld h r (frameTaken h d) = e) :
    ((∀ x ∈ d.fabric.mirrored, x.origin ≠ h.source) → e.fabric.mirrored = [r] ∧ e.fabric.mirroredSeq = r.seq) ∧
    ((∃ x ∈ d.fabric.mirrored, x.origin = h.source) → r.seq = d.fabric.mirroredSeq + 1 →
      e.fabric.mirrored = d.fabric.mirrored ++ [r] ∧ e.fabric.mirroredSeq = r.seq) ∧
    ((∃ x ∈ d.fabric.mirrored, x.origin = h.source) → r.seq ≠ d.fabric.mirroredSeq + 1 →
      e.fabric.mirrored = d.fabric.mirrored ∧ e.fabric.mirroredSeq = d.fabric.mirroredSeq) ∧
    e.fabric.journal = d.fabric.journal := by
  subst he
  have before : (frameTaken h d).fabric.mirrored = d.fabric.mirrored ∧ (frameTaken h d).fabric.mirroredSeq = d.fabric.mirroredSeq ∧
      (frameTaken h d).fabric.journal = d.fabric.journal := by
    rw [frameTaken_eq source]
    exact ⟨rfl, rfl, rfl⟩
  have held : (recordHeld h r (frameTaken h d)).fabric.mirrored = (holdRecord r (frameTaken h d).fabric).mirrored ∧
      (recordHeld h r (frameTaken h d)).fabric.mirroredSeq = (holdRecord r (frameTaken h d).fabric).mirroredSeq ∧
      (recordHeld h r (frameTaken h d)).fabric.journal = (frameTaken h d).fabric.journal := by
    unfold recordHeld modFab
    dsimp only
    rw [framesOut_frame, holdRecord_frame _ noCheckpoint noContext]
    exact ⟨rfl, rfl, rfl⟩
  obtain ⟨mirrored, mirroredSeq, journal⟩ := before
  obtain ⟨mirrored', mirroredSeq', journal'⟩ := held
  rw [mirrored', mirroredSeq', journal', ← mirrored, ← mirroredSeq, ← journal, ← origin]
  obtain ⟨begins, follows, gap⟩ := holdRecord_mirrored (frameTaken h d).fabric noCheckpoint noContext
  exact ⟨begins, follows, gap, rfl⟩

/-! ### Confirmations (R473 to R476) -/

theorem confirm_comes {q : Nat} (comes : frameComes h m d) (peer : mirrorPeer? (frameTaken h d).fabric = some h.source) :
    confirm h q d = afterConfirm (modFab (fun f => { f with
      confirmed := max f.confirmed (min q (f.nextSeq - 1))
      confirmedAt := d.geyser.now
      unmirrored := if f.copied then false else f.unmirrored }) (frameTaken h d)) := by
  have now : (frameTaken h d).geyser.now = d.geyser.now := congrArg Geyser.now (frameTaken_places h d).clock
  refine (takeFrame_comes comes).trans ((if_neg (not_not_intro peer)).trans ?_)
  rw [now]

theorem confirm_other {q : Nat} (comes : frameComes h m d) (other : mirrorPeer? (frameTaken h d).fabric ≠ some h.source) :
    confirm h q d = frameTaken h d := (takeFrame_comes comes).trans (if_pos other)

end

/-- Nothing waits in the rings of any session: none is served. -/
theorem serveRings_idle {d : Dev} (idle : ∀ e ∈ d.sessions, e.2.waiting = []) : serveRings d = d := by
  have count (l : KMap Session) (none_ : ∀ e ∈ l, e.2.waiting = []) : l.foldl (fun a e => a + e.2.waiting.length) 0 = 0 := by
    induction l with
    | nil => rfl
    | cons e l ih =>
      rw [List.foldl_cons, none_ e List.mem_cons_self]
      exact ih fun e mem => none_ e (List.mem_cons_of_mem _ mem)
  unfold serveRings drainAll waitingCount
  rw [count d.sessions idle]
  rfl

/-- No command waits for a confirmation. -/
theorem confirmCommands_idle {d : Dev} (idle : ∀ a ∈ d.accepted, a.mirror = none) : confirmCommands d = d := by
  have none_ : ∀ l : List Accepted, (∀ a ∈ l, a.mirror = none) → l.filter (fun a => a.map && match a.mirror with
      | some q => decide (q ≤ d.fabric.confirmed)
      | none => false) = [] := fun l waits => by
    refine List.filter_eq_nil_iff.mpr fun a mem => ?_
    rw [waits a mem, Bool.and_false]
    exact Bool.false_ne_true
  unfold confirmCommands
  exact (congrArg (fun l : List Accepted => l.foldl (fun d a => runMirrored a d) d) (none_ d.accepted idle)).trans rfl

/-- A confirmation with nothing else that waits releases messages only. -/
theorem afterConfirm_messages {d : Dev} (joins : joining? d = none) (commands : ∀ a ∈ d.accepted, a.mirror = none)
    (contexts : d.contexts = []) (idle : ∀ e ∈ d.sessions, e.2.waiting = []) : afterConfirm d = releaseMessages d := by
  have drained : drainAllBlocked (releaseMessages d) = releaseMessages d := by
    unfold drainAllBlocked
    rw [show (releaseMessages d).contexts = [] from contexts]
    rfl
  unfold afterConfirm
  rw [joins]
  dsimp only
  rw [drained, confirmCommands_idle (d := releaseMessages d) commands, serveRings_idle (d := releaseMessages d) idle]

theorem portOf_releaseMessages (p : Nat) (d : Dev) : portOf (releaseMessages d) p = { portOf d p with
    out := (portOf d p).out ++ ((portOf d p).outWait.filter fun e => decide (e.1 ≤ d.fabric.confirmed)).map (·.2)
    outWait := (portOf d p).outWait.filter fun e => !decide (e.1 ≤ d.fabric.confirmed) } :=
  kget_kmapv (fun _ (p : Port) => { p with
      out := p.out ++ (p.outWait.filter fun e => decide (e.1 ≤ d.fabric.confirmed)).map (·.2)
      outWait := p.outWait.filter fun e => !decide (e.1 ≤ d.fabric.confirmed) }) {} d.ports p rfl

/-! ### The map (R470, R486) -/

section
variable {c : W32} {n dom role : Nat} {svc : Bool} {serial : W128} {d : Dev}

/-- A record of the map puts the context where it says, and waiting commands may go on. -/
def mapTaken (c : W32) (n dom : Nat) (d : Dev) : Dev :=
  let d := modFab (fun f => { f with
    map := kput f.map c.toNat n
    members := kmod { role := 0, inService := false } f.members n fun m => { m with hostDomain := dom } }) d
  { d with accepted := d.accepted.map fun a => if a.packet.context = c ∧ a.mirror.isSome then { a with map := true } else a }

/-- What a record of the map does further: a move is planned, or a slice is sent. -/
theorem takeMap_cases (c : W32) (n dom : Nat) (d : Dev) :
    takeMap c n dom d = scheduleRemap c n (mapTaken c n dom d) ∨ takeMap c n dom d = mapTaken c n dom d ∨
      ∃ k, takeMap c n dom d = sendSlice k c n (mapTaken c n dom d) := by
  unfold takeMap
  dsimp only
  split
  · exact .inl rfl
  · split
    · exact .inr (.inl rfl)
    · exact .inr (.inr ⟨_, rfl⟩)

theorem takeMap_map (c : W32) (n dom : Nat) (d : Dev) :
    (takeMap c n dom d).fabric.map = kput d.fabric.map c.toNat n ∧ (takeMap c n dom d).contexts = d.contexts := by
  obtain moves | stays | ⟨k, slices⟩ := takeMap_cases c n dom d
  · rw [moves]
    exact ⟨rfl, rfl⟩
  · rw [stays]
    exact ⟨rfl, rfl⟩
  · rw [slices]
    refine ⟨?_, rfl⟩
    unfold sendSlice modFab
    dsimp only
    rw [framesOut_frame]
    rfl

theorem nextBoundary_after {p : Partition} (frame : 0 < p.majorUs) (t : Nat) : t ≤ nextBoundary p t := by
  have positive : (0 : Int) < us p.majorUs := Int.natCast_pos.mpr (Nat.mul_pos (by decide) (Nat.mul_pos frame (by decide)))
  unfold nextBoundary
  dsimp only
  split
  · exact Nat.le_refl t
  · have below := Int.emod_lt_of_pos ((t : Int) - p.epoch) positive
    omega

/-- A context of this device that a record of the map places elsewhere moves, 1 ms from now or later. -/
theorem takeMap_moves (away : n ≠ d.fabric.device) (open_ : (ctxOf d c).state ∉ [.closed, .draining])
    (frames : ∀ k, partOf? d (ctxOf d c).partition = some k → 0 < k.majorUs) :
    ∃ at_, (c, n, at_) ∈ (takeMap c n dom d).fabric.remaps ∧ d.geyser.now + ms 1 ≤ at_ := by
  have moves : takeMap c n dom d = scheduleRemap c n (mapTaken c n dom d) := by
    refine if_pos ⟨fun closed => open_ ?_, fun draining => open_ ?_, away⟩
    · exact List.mem_cons.mpr (.inl closed)
    · exact List.mem_cons_of_mem _ (List.mem_singleton.mpr draining)
  have listed : ∀ e : Dev, ∃ at_, (c, n, at_) ∈ (scheduleRemap c n e).fabric.remaps ∧
      at_ = (match partOf? e (ctxOf e c).partition with
        | some q => nextBoundary q (e.geyser.now + ms 1)
        | none => e.geyser.now + ms 1) := fun e =>
    ⟨_, List.mem_append_right _ (List.mem_singleton.mpr rfl), rfl⟩
  obtain ⟨at_, mem, instant⟩ := listed (mapTaken c n dom d)
  refine ⟨at_, moves ▸ mem, ?_⟩
  have part : partOf? (mapTaken c n dom d) (ctxOf (mapTaken c n dom d) c).partition = partOf? d (ctxOf d c).partition := rfl
  rw [part] at instant
  rw [instant]
  split
  · next q found => exact nextBoundary_after (frames q found) _
  · exact Nat.le_refl _

/-- A MEMBER record brings what it says of a member. -/
theorem takeMember_brings (member : d.fabric.role ≠ 0) :
    ∃ m, kfind? (takeMember n role svc serial d).fabric.members n = some m ∧ m.role = role ∧
      m.inService = svc ∧ m.serial = serial ∧ (svc = true → role = 1 → (takeMember n role svc serial d).fabric.manager = n) := by
  unfold takeMember
  rw [if_neg member]
  dsimp only
  have found := kfind_modMember_self n (fun m : Member => { m with
    role := role, inService := svc, serial := serial, hostDomain := if m.role = 0 then d.fabric.hostDomain else m.hostDomain }) d
  refine ⟨_, (congrArg (fun l => kfind? l n) (members_of_roster (reRing_roster ..))).trans found, rfl, rfl, rfl, fun serves manager => if_pos ?_⟩
  rw [serves, manager]
  rfl

end

/-! ### Takeovers (R478) -/

section
variable {d : Dev} {c : W32}

theorem takeoverOf_setTakeover (t : Takeover) (d : Dev) : takeoverOf? (setTakeover t d) t.data.context = some t := by
  unfold takeoverOf? setTakeover modFab
  rw [List.find?_append, List.find?_eq_none.mpr, Option.none_or, List.find?_singleton, if_pos (beq_self_eq_true _)]
  intro x mem same
  obtain ⟨-, other⟩ := List.mem_filter.mp mem
  exact bne_iff_ne.mp other (beq_iff_eq.mp same)

theorem context_of_takeoverOf {t : Takeover} (found : takeoverOf? d c = some t) : t.data.context = c :=
  beq_iff_eq.mp (List.find?_some (p := fun t : Takeover => t.data.context == c) found)

theorem takeoverOf_frameTaken {h : FabricHeader} {m : Member} (source : kfind? d.fabric.members h.source = some m) :
    takeoverOf? (frameTaken h d) c = takeoverOf? d c := by rw [frameTaken_eq source]; rfl

theorem sliceFrame_comes {h : FabricHeader} {m : Member} {rs : List JournalRecord} (comes : frameComes h m d) :
    sliceFrame h c rs d = match takeoverOf? d c with
      | some t => setTakeover { t with records := t.records ++ (rs.filter fun r => r.context == c), sliced := true } (frameTaken h d)
      | none => frameTaken h d := by
  rw [← takeoverOf_frameTaken comes.source]
  exact takeFrame_comes comes

theorem handedFrame_comes {h : FabricHeader} {m : Member} {last : Nat} {alive : W16} (comes : frameComes h m d) :
    handedFrame h c last alive d = match takeoverOf? d c with
      | some t => setTakeover { t with handed := some (last, alive.toNat) } (frameTaken h d)
      | none => frameTaken h d := by
  rw [← takeoverOf_frameTaken comes.source]
  exact takeFrame_comes comes

/-- The takeover that a TAKEOVER frame begins, with what is mirrored here of the failed device's context. -/
def takeoverBegun (k : TakeoverData) (d : Dev) : Takeover :=
  { data := k, records := d.fabric.mirrored.filter (fun r => r.origin == k.failed && r.context == k.context)
    sliced := !(d.fabric.mirrored.filter fun r => r.origin == k.failed && r.context == k.context).isEmpty }

theorem takeoverFrame_begins {h : FabricHeader} {m : Member} {k : TakeoverData} (comes : frameComes h m d)
    (manager : h.source = d.fabric.manager) (other : h.source ≠ d.fabric.device) (member : inFabric d = true)
    (closed : (ctxOf d k.context).state = .closed) :
    takeoverFrame h k d = setTakeover (takeoverBegun k d) (frameTaken h d) := by
  have taken := frameTaken_eq comes.source
  refine (if_neg other).trans ((takeFrame_comes comes).trans ?_)
  rw [taken]
  refine if_neg ?_
  rintro (away | none_ | open_)
  · exact away manager
  · exact Bool.false_ne_true ((congrArg (!·) member).symm.trans none_)
  · exact open_ closed

theorem takeoverFrame_kept {h : FabricHeader} {m : Member} {k : TakeoverData} (comes : frameComes h m d)
    (away : h.source ≠ d.fabric.manager) (other : h.source ≠ d.fabric.device) : takeoverFrame h k d = frameTaken h d := by
  refine (if_neg other).trans ((takeFrame_comes comes).trans ?_)
  rw [frameTaken_eq comes.source]
  exact if_pos (.inl away)

/-! ### Pair keys (R465) -/

variable {p : Nat} {cert named : Bool} {fw : W32}

theorem pairKey_stays (id : d.fabric.id ≠ 0) (up : fabricUp d = true) (other : p ≠ d.fabric.device) :
    ¬ (d.fabric.id = 0 || !fabricUp d || p == d.fabric.device) = true := by
  rw [decide_eq_false id, up, beq_false_of_ne other]
  decide

theorem pairKeyAgreed_refused (id : d.fabric.id ≠ 0) (up : fabricUp d = true) (other : p ≠ d.fabric.device)
    (bad : cert = false ∨ named = false ∨ fw.toNat < d.fabric.minFirmware.toNat) (member : d.fabric.role ≠ 0) :
    pairKeyAgreed p cert named fw d = modMember p (fun m => { m with pairKey := none }) d := by
  have wrong : (!(cert && named && decide (fw.toNat ≥ d.fabric.minFirmware.toNat))) = true := by
    obtain cert | named | old := bad
    · rw [cert]
      rfl
    · rw [named, Bool.and_false]
      rfl
    · rw [decide_eq_false (Nat.not_le.mpr old), Bool.and_false]
      rfl
  exact (if_neg (pairKey_stays id up other)).trans ((if_pos wrong).trans (if_neg member))

theorem pairKeyAgreed_agreed (id : d.fabric.id ≠ 0) (up : fabricUp d = true) (other : p ≠ d.fabric.device)
    (verified : cert = true) (key : named = true) (recent : d.fabric.minFirmware.toNat ≤ fw.toNat)
    (member : d.fabric.role = 2 ∨ d.fabric.role = 3) :
    pairKeyAgreed p cert named fw d = modMember p (fun m => { m with pairKey := some d.free, seen := [] }) { d with free := d.free + 1 } := by
  have good : ¬ (!(cert && named && decide (fw.toNat ≥ d.fabric.minFirmware.toNat))) = true := by
    rw [verified, key, decide_eq_true recent]
    decide
  refine (if_neg (pairKey_stays id up other)).trans ((if_neg good).trans ((if_neg fun none_ : d.fabric.role = 0 => ?_).trans
    (if_neg fun manager : d.fabric.role = 1 => ?_)))
  · omega
  · omega

end

end Sys2Proof.Machine
end

section
/-! The frames of the watch fabric at their port, and the statement about all of them (19 R464 to R478). -/

namespace Sys2Proof.Machine

open Sys2Proof

/-- An ECHO at a port that does not take it. -/
theorem echo_atPort (t at_ : Time) (h : FabricHeader) (q : Nat) (s : State) (d : Dev) (p : Port) (hd : d = advance t s.dev)
    (hp : p = portOf d h.port.val) :
    (p.link = false ∨ p.role = .fabric ∧ (d.fabric.id = 0 ∨ fabricUp d = false ∨ h.dest ≠ d.fabric.device ∧ h.dest ≠ 0xFF) →
      exec (.echo t h q at_) s = .next { s with dev := d }) ∧
    (p.link = true → p.role = .out → exec (.echo t h q at_) s =
      .next { s with dev := modPort h.port.val (fun p => { p with outReceived := p.outReceived.add 1 }) d }) ∧
    (p.link = true → p.role ≠ .out → p.role ≠ .fabric → exec (.echo t h q at_) s =
      .next { s with dev := modPort h.port.val (fun p => { p with unsupported := p.unsupported.add 1 }) d }) := by
  subst hp
  have next {e : Dev} (he : echo h q at_ d = e) : exec (.echo t h q at_) s = .next { s with dev := e } :=
    next_onDev (f := fun d => echo h q at_ (advance t d)) (hd ▸ he)
  refine ⟨fun passes => next ?_, fun link role => next ?_, fun link out fabric => next ?_⟩
  · by_cases link : (portOf d h.port.val).link = true
    · obtain down | ⟨role, apart⟩ := passes
      · exact absurd (down.symm.trans link) Bool.false_ne_true
      · exact (takeFrame_atFabric link role).trans (takeSealed_passes apart)
    · exact portHears_unlinked (Bool.not_eq_true _ ▸ link)
  · exact (portHears_uncarried link (by rw [role]; rfl)).trans (if_pos role)
  · have other : [PortRole.fabric].contains (portOf d h.port.val).role = false := by
      refine Bool.eq_false_iff.mpr fun carried => fabric ?_
      exact List.mem_singleton.mp (List.contains_iff_mem.mp carried)
    exact (portHears_uncarried link other).trans (if_neg out)

/-- Settles O56, type by type of frame: each is taken as `frameTaken` says, and has the equation of its function. -/
theorem fabricFrames : Obligations.FabricFrames := by
  refine ⟨echo_atPort, ?_, ?_, ?_, ?_, ?_, ?_, ?_, ?_, ?_, ?_⟩
  · rintro t at_ h q m s d rfl us_
    refine ⟨fun fabric check source key seen => ?_, fun bad => ?_⟩
    · exact ⟨_, next_onDev (f := fun d => echo h q at_ (advance t d)) (takeFrame_again us_ fabric check source key seen), rfl⟩
    · obtain ⟨b, eq⟩ : ∃ b, echo h q at_ (advance t s.dev) = frameBad b h (advance t s.dev) := takeFrame_bad us_ bad
      obtain ⟨counted, fabric, accepted, raised⟩ := frameBad_effect b h (advance t s.dev)
      exact ⟨_, next_onDev (f := fun d => echo h q at_ (advance t d)) eq, counted, fabric, accepted, rfl, rfl, raised⟩
  · rintro t mi h m role iso fail fwd s d rfl comes
    have next {e : Dev} (he : heartbeat h mi iso fail fwd (advance t s.dev) = e) :
        exec (.heartbeat t h role mi ⟨iso, fail⟩ fwd) s = .next { s with dev := e } :=
      next_onDev (f := fun d => heartbeat h mi iso fail fwd (advance t d)) he
    refine ⟨fun calm whole none_ => ?_, fun n i k calm whole manager deputy other one found => ?_, fun told manager serves other => ?_⟩
    · obtain ⟨only, member, others, instant, echo_, silent, lease, journal, map⟩ := beatEchoed_heard (mi := mi) comes.source rfl
      refine ⟨_, _, next ((heartbeat_quiet comes calm whole).trans (beatTaken_calm comes.source none_)), ?_, member, rfl, others, instant, echo_,
        silent, lease, journal, map⟩
      exact congrArg (fun d => ({ s with dev := d } : State)) only
    · subst one
      refine ⟨_, next (heartbeat_quiet comes calm whole), ?_, beatTaken_forwards comes.source manager deputy other found⟩
      exact congrArg (fun d => ({ s with dev := d } : State)) (beatTaken_places h mi [(n, i)] (advance t s.dev)).only
    · have places := beatTaken_places h mi fwd (advance t s.dev)
      obtain ⟨m', found, stands⟩ := places.serves h.source true ⟨m, comes.source, serves⟩
      obtain ⟨m'', found', out⟩ := declareFailed_out (places.role.trans manager) (places.device.symm ▸ other) found stands
      exact ⟨_, m'', next (heartbeat_announces comes told), found', out, rfl, rfl⟩
  · rintro t sent h m q s d rfl comes
    refine ⟨fun who known holds => ?_, fun kept => ?_⟩
    · exact next_onDev (f := fun d => echo h q sent (advance t d)) (echo_extends comes who known holds)
    · exact next_onDev (f := fun d => echo h q sent (advance t d)) (echo_kept comes kept)
  · rintro t h m r s d rfl comes
    refine ⟨fun after origin noCheckpoint noContext => ?_, fun other => ?_⟩
    · obtain ⟨begins, follows, gap, journal⟩ := recordHeld_mirrored comes.source origin noCheckpoint noContext rfl
      exact ⟨_, next_onDev (f := fun d => journalFrame h [r] (advance t d)) (journalFrame_held comes after origin), rfl,
        recordHeld_confirms comes.source noCheckpoint noContext, begins, follows, gap, journal⟩
    · exact ⟨_, next_onDev (f := fun d => journalFrame h [r] (advance t d)) (journalFrame_other comes other), rfl⟩
  · rintro t h m q s d e rfl comes rfl
    refine ⟨fun peer => ?_, fun other => ?_⟩
    · exact ⟨_, next_settled (f := fun d => pump (confirm h q (advance t d))) (congrArg pump (confirm_comes comes peer)), rfl⟩
    · exact ⟨_, next_settled (f := fun d => pump (confirm h q (advance t d))) (congrArg pump (confirm_other comes other)), rfl⟩
  · intro p d joins commands contexts idle
    rw [afterConfirm_messages joins commands contexts idle, portOf_releaseMessages]
    exact ⟨rfl, rfl, rfl⟩
  · rintro t h m o q n role dom i c svc serial s d e rfl comes rfl
    have manager : (frameTaken h (advance t s.dev)).fabric.manager = (advance t s.dev).fabric.manager := by rw [frameTaken_eq comes.source]
    have next {rs : List JournalRecord} {e : Dev} (he : mapFrame h rs (advance t s.dev) = e) :
        exec (.map t h rs) s = .next (settled s (pump e)) :=
      next_settled (f := fun d => pump (mapFrame h rs (advance t d))) (congrArg pump he)
    refine ⟨fun away => ?_, fun mine => ⟨?_, ?_⟩⟩
    · exact ⟨_, next ((takeFrame_comes comes).trans (if_pos (manager.symm ▸ away))), rfl⟩
    · exact ⟨_, next ((takeFrame_comes comes).trans (if_neg (manager.symm ▸ not_not_intro mine))), rfl⟩
    · exact ⟨_, next ((takeFrame_comes comes).trans (if_neg (manager.symm ▸ not_not_intro mine))), rfl⟩
  · intro c n dom role svc serial d
    obtain ⟨map, contexts⟩ := takeMap_map c n dom d
    rw [map]
    exact ⟨kfind?_kput_self .., contexts, fun k other => kfind?_kput_ne _ _ other, takeMap_moves, takeMember_brings⟩
  · rintro t h m k c rs last alive s d rfl comes
    refine ⟨fun manager other member closed => ?_, fun away other => ?_, fun none_ => ⟨?_, ?_⟩, fun x found => ⟨?_, ?_⟩⟩
    · refine ⟨_, next_onDev (f := fun d => takeoverFrame h k (advance t d)) (takeoverFrame_begins comes manager other member closed),
        takeoverOf_setTakeover (takeoverBegun k (advance t s.dev)) _, rfl⟩
    · exact ⟨_, next_onDev (f := fun d => takeoverFrame h k (advance t d)) (takeoverFrame_kept comes away other), rfl⟩
    · exact ⟨_, next_onDev (f := fun d => sliceFrame h c rs (advance t d)) ((sliceFrame_comes comes).trans (by rw [none_])), rfl⟩
    · exact ⟨_, next_onDev (f := fun d => handedFrame h c last alive (advance t d)) ((handedFrame_comes comes).trans (by rw [none_])), rfl⟩
    · obtain rfl := context_of_takeoverOf found
      refine ⟨_, next_onDev (f := fun d => sliceFrame h x.data.context rs (advance t d)) ((sliceFrame_comes comes).trans (by rw [found])), ?_⟩
      exact takeoverOf_setTakeover { x with records := x.records ++ rs.filter (fun r => r.context == x.data.context), sliced := true } _
    · obtain rfl := context_of_takeoverOf found
      refine ⟨_, next_onDev (f := fun d => handedFrame h x.data.context last alive (advance t d)) ((handedFrame_comes comes).trans (by rw [found])), ?_⟩
      exact takeoverOf_setTakeover { x with handed := some (last, alive.toNat) } _
  · rintro t p cert named fw s d rfl id up other
    have next {e : Dev} (he : pairKeyAgreed p.val cert named fw (advance t s.dev) = e) :
        exec (.pairKeyAgreement t p cert named fw) s = .next (settled s (pump (serveRings e))) :=
      next_settled (f := fun d => pump (serveRings (pairKeyAgreed p.val cert named fw (advance t d)))) (congrArg (fun e => pump (serveRings e)) he)
    refine ⟨fun bad member => ?_, fun verified key recent member => ?_⟩
    · exact ⟨_, next (pairKeyAgreed_refused id up other bad member), rfl⟩
    · exact ⟨_, next (pairKeyAgreed_agreed id up other verified key recent member), rfl⟩

end Sys2Proof.Machine
end
